-- ==== Sys2Proof/Word.lean ====
section
/-! DEFINITION. The word types of the Gleog G32 and the sparse map that State holds its tables in. -/

namespace Sys2Proof

abbrev Byte := BitVec 8
abbrev Half := BitVec 16
abbrev Word := BitVec 32
abbrev Dword := BitVec 64
/-- One entry of a vector queue: 1024 bits, 32 lanes of 32 bits (R74, R109). -/
abbrev Vec := BitVec 1024

/-- A table by number, as a list of (key, value) pairs with strictly rising keys that lists no
entry equal to the table's default. -/
abbrev SMap (α : Type) := List (Nat × α)

/-- A byte memory: the same form with `Host.Cell` pairs. -/
abbrev Memory := SMap Byte

/-- A small code as a bit vector read as a number. -/
abbrev Code (w : Nat) := BitVec w

end Sys2Proof
end

