-- ==== Sys2Proof/Syntax.lean ====
section
/-! DEFINITION. The instruction words and the events of the Gleog G32: one constructor of Instr per row of
spec/opcode_table.json (R42 to R61, chapter 95). -/

namespace Sys2Proof

/-- A scalar register, queue or semaphore number: one 5-bit field (R44). -/
abbrev Reg := BitVec 5

/-- A mask register number, bits [2:0] of its field (R58). -/
abbrev MaskReg := BitVec 3

/-- A tail word's fields (R46). A number that its flag leaves unused is absent. -/
structure Tail where
  /-- W and WSEM: the semaphore waited on. -/
  waitSem : Option Reg
  /-- G and GSEM: the semaphore signalled. -/
  sigSem : Option Reg
  /-- A: acquire before the first read. -/
  acquire : Bool
  /-- L: release after the last write. -/
  release : Bool
  /-- SCOPE: 0 core, 1 quartet, 2 die, 3 module, 4 system. -/
  scope : BitVec 3
  /-- COLOUR of the engine's stores. -/
  colour : BitVec 3
  /-- T: SLACK and the number of the STAMP register. -/
  timed : Option (BitVec 4 × Reg)
  deriving DecidableEq, Repr

/-- R format, registers d, a and b. -/
structure R3 where
  d : Reg
  a : Reg
  b : Reg
  stop : Bool
  deriving DecidableEq, Repr

/-- R format, registers d and a. -/
structure R2 where
  d : Reg
  a : Reg
  stop : Bool
  deriving DecidableEq, Repr

/-- R format, registers a and b. -/
structure RAB where
  a : Reg
  b : Reg
  stop : Bool
  deriving DecidableEq, Repr

/-- R format, register d. -/
structure RD where
  d : Reg
  stop : Bool
  deriving DecidableEq, Repr

/-- R format, register a. -/
structure RA where
  a : Reg
  stop : Bool
  deriving DecidableEq, Repr

/-- R format, no operand. -/
structure R0 where
  stop : Bool
  deriving DecidableEq, Repr

/-- I format with imm14 (R45). -/
structure RI where
  d : Reg
  a : Reg
  imm : BitVec 14
  stop : Bool
  deriving DecidableEq, Repr

/-- Major 6: imm13 (R55). -/
structure RI13 where
  d : Reg
  a : Reg
  imm : BitVec 13
  stop : Bool
  deriving DecidableEq, Repr

/-- Major 5: a shift amount 0 to 63 (R55). -/
structure RSh where
  d : Reg
  a : Reg
  n : BitVec 6
  stop : Bool
  deriving DecidableEq, Repr

/-- U format: imm19 (R44). -/
structure RU where
  d : Reg
  imm : BitVec 19
  stop : Bool
  deriving DecidableEq, Repr

/-- lea: a scale shift 0 to 3 (R99). -/
structure RLea where
  d : Reg
  a : Reg
  b : Reg
  sh : BitVec 2
  stop : Bool
  deriving DecidableEq, Repr

/-- B format: a word offset of 14 bits (R44). -/
structure RBr where
  a : Reg
  b : Reg
  off : BitVec 14
  stop : Bool
  deriving DecidableEq, Repr

/-- J format: a word offset of 24 bits (R44). -/
structure RJ where
  off : BitVec 24
  stop : Bool
  deriving DecidableEq, Repr

/-- loop: the count register and the offset to the body's end (R103). -/
structure RLoop where
  a : Reg
  off : BitVec 14
  stop : Bool
  deriving DecidableEq, Repr

/-- loopi: the count and the offset to the body's end (R103). -/
structure RLoopI where
  n : BitVec 10
  off : BitVec 14
  stop : Bool
  deriving DecidableEq, Repr

/-- csrr: a destination and a CSR number (R107). -/
structure RCsrR where
  d : Reg
  csr : BitVec 12
  stop : Bool
  deriving DecidableEq, Repr

/-- csrw, csrs, csrc (R107). -/
structure RCsr where
  d : Reg
  a : Reg
  csr : BitVec 12
  stop : Bool
  deriving DecidableEq, Repr

/-- trap and brk: a 5-bit code (R108). -/
structure RCode where
  code : BitVec 5
  stop : Bool
  deriving DecidableEq, Repr

/-- ld (R207). -/
structure MLd where
  d : Reg
  base : Reg
  /-- sign-extend -/
  se : Bool
  /-- log2 of the size in bytes -/
  size : BitVec 2
  imm : BitVec 7
  stop : Bool
  deriving DecidableEq, Repr

/-- st (R207). -/
structure MSt where
  d : Reg
  base : Reg
  /-- DEF: the colour is that of the colour-default CSR -/
  deflt : Bool
  size : BitVec 2
  colour : BitVec 3
  imm : BitVec 7
  stop : Bool
  deriving DecidableEq, Repr

/-- amo, the integer operations (R284). -/
structure RAmo where
  d : Reg
  a : Reg
  b : Reg
  /-- 64-bit -/
  dbl : Bool
  acquire : Bool
  release : Bool
  /-- 0 quartet, 1 die, 2 module, 3 system -/
  scope : BitVec 2
  stop : Bool
  deriving DecidableEq, Repr

/-- amo, the FP32 operations (R286). -/
structure RAmoF where
  d : Reg
  a : Reg
  b : Reg
  acquire : Bool
  release : Bool
  scope : BitVec 2
  stop : Bool
  deriving DecidableEq, Repr

/-- fence: a colour mask and a scope (R271). -/
structure RFence where
  mask : BitVec 8
  scope : BitVec 3
  stop : Bool
  deriving DecidableEq, Repr

/-- A copy command: three registers, a channel and a tail (R248). -/
structure CCopy where
  c0 : Reg
  c1 : Reg
  c2 : Reg
  ch : BitVec 3
  tail : Option Tail
  stop : Bool
  deriving DecidableEq, Repr

/-- xdrain: a channel (R253). -/
structure CCh where
  ch : BitVec 3
  stop : Bool
  deriving DecidableEq, Repr

/-- xcur: a destination and the queue it reads (R254). -/
structure CCur where
  d : Reg
  /-- 0 transfer load, 1 transfer store -/
  store : Bool
  stop : Bool
  deriving DecidableEq, Repr

/-- xcfg: a destination, a source and a channel (R255). -/
structure CCfg where
  d : Reg
  a : Reg
  ch : BitVec 3
  stop : Bool
  deriving DecidableEq, Repr

/-- mlw: the record register and TR (R182). -/
structure CMlw where
  c0 : Reg
  tr : Bool
  tail : Option Tail
  stop : Bool
  deriving DecidableEq, Repr

/-- A queued command with no operand. -/
structure C0 where
  tail : Option Tail
  stop : Bool
  deriving DecidableEq, Repr

/-- A queued command with c0. -/
structure C1 where
  c0 : Reg
  tail : Option Tail
  stop : Bool
  deriving DecidableEq, Repr

/-- A queued command with c0 and c1. -/
structure C2 where
  c0 : Reg
  c1 : Reg
  tail : Option Tail
  stop : Bool
  deriving DecidableEq, Repr

/-- A queued command with c0, c1 and c2. -/
structure C3 where
  c0 : Reg
  c1 : Reg
  c2 : Reg
  tail : Option Tail
  stop : Bool
  deriving DecidableEq, Repr

/-- A queued command with c1 only. -/
structure CB where
  c1 : Reg
  tail : Option Tail
  stop : Bool
  deriving DecidableEq, Repr

/-- mmul: FIRST, LAST and TR (R183). -/
structure CMmul where
  c0 : Reg
  c1 : Reg
  tr : Bool
  last : Bool
  first : Bool
  tail : Option Tail
  stop : Bool
  deriving DecidableEq, Repr

/-- mst: RTZ, NSAT and SIDE (R185). -/
structure CMst where
  c0 : Reg
  c1 : Reg
  side : Bool
  nsat : Bool
  rtz : Bool
  tail : Option Tail
  stop : Bool
  deriving DecidableEq, Repr

/-- mfuse: the shape 1 ew, 2 ns, 3 all (R188). -/
structure CFuse where
  shape : BitVec 2
  tail : Option Tail
  stop : Bool
  deriving DecidableEq, Repr

/-- tload: the two registers and SP (R155). -/
structure CTload where
  c0 : Reg
  c1 : Reg
  sp : Bool
  tail : Option Tail
  stop : Bool
  deriving DecidableEq, Repr

/-- probe: a destination, an address register and the offset of the miss label (R212). -/
structure RProbe where
  d : Reg
  a : Reg
  off : BitVec 13
  stop : Bool
  deriving DecidableEq, Repr

/-- semset: the count and ceiling registers and the semaphore (R96). -/
structure SSet where
  a : Reg
  b : Reg
  n : Reg
  stop : Bool
  deriving DecidableEq, Repr

/-- semsig and semwait: the semaphore (R96). -/
structure SN where
  n : Reg
  stop : Bool
  deriving DecidableEq, Repr

/-- semrd: the destination and the semaphore (R96). -/
structure SRd where
  d : Reg
  n : Reg
  stop : Bool
  deriving DecidableEq, Repr

/-- V format, three queues, a mask and two peek bits (R114). -/
structure V3 where
  d : Reg
  a : Reg
  b : Reg
  k : MaskReg
  pa : Bool
  pb : Bool
  stop : Bool
  deriving DecidableEq, Repr

/-- V format, two queues, a mask and one peek bit (R114). -/
structure V2 where
  d : Reg
  a : Reg
  k : MaskReg
  pa : Bool
  stop : Bool
  deriving DecidableEq, Repr

/-- V4 format: vfma (R122). -/
structure V4 where
  d : Reg
  a : Reg
  b : Reg
  c : Reg
  k : MaskReg
  neg : Bool
  stop : Bool
  deriving DecidableEq, Repr

/-- vcvt: a part number (R125). -/
structure VCvt where
  d : Reg
  a : Reg
  part : BitVec 3
  k : MaskReg
  pa : Bool
  stop : Bool
  deriving DecidableEq, Repr

/-- vunpack: a part number and H (R128). -/
structure VUnpack where
  d : Reg
  a : Reg
  part : Bool
  k : MaskReg
  pa : Bool
  h : Bool
  stop : Bool
  deriving DecidableEq, Repr

/-- V format, two queues and a number or scalar register in vb (R114). -/
structure V2n where
  d : Reg
  a : Reg
  b : Reg
  k : MaskReg
  pa : Bool
  stop : Bool
  deriving DecidableEq, Repr

/-- vfunc: the table slot (R159). -/
structure VFn where
  d : Reg
  a : Reg
  k : MaskReg
  pa : Bool
  slot : BitVec 4
  stop : Bool
  deriving DecidableEq, Repr

/-- tsel: the table slot (R158). -/
structure VSel where
  slot : BitVec 4
  stop : Bool
  deriving DecidableEq, Repr

/-- vrand: the key and counter registers (R134). -/
structure VRnd where
  d : Reg
  a : Reg
  b : Reg
  k : MaskReg
  stop : Bool
  deriving DecidableEq, Repr

/-- A compare into a mask (R123), and vconf (R345). -/
structure VCmp where
  d : MaskReg
  a : Reg
  b : Reg
  k : MaskReg
  pa : Bool
  pb : Bool
  stop : Bool
  deriving DecidableEq, Repr

/-- Three masks (R135). -/
structure K3 where
  d : MaskReg
  a : MaskReg
  b : MaskReg
  stop : Bool
  deriving DecidableEq, Repr

/-- Two masks (R135). -/
structure K2 where
  d : MaskReg
  a : MaskReg
  stop : Bool
  deriving DecidableEq, Repr

/-- A mask from a scalar (R135). -/
structure KFrom where
  d : MaskReg
  a : Reg
  stop : Bool
  deriving DecidableEq, Repr

/-- A scalar from a mask (R135). -/
structure KTo where
  d : Reg
  a : MaskReg
  stop : Bool
  deriving DecidableEq, Repr

/-- vext: the lane (R136). -/
structure VExt where
  d : Reg
  a : Reg
  lane : BitVec 5
  pa : Bool
  stop : Bool
  deriving DecidableEq, Repr

/-- vmovs: a scalar source (R136). -/
structure VMovs where
  d : Reg
  a : Reg
  k : MaskReg
  stop : Bool
  deriving DecidableEq, Repr

/-- The four command queues of a core (R81: ENGQ). -/
inductive EngQ where
  | load
  | store
  | matrix
  | backfill
  deriving DecidableEq, Repr

/-- The encoding faults of R60. -/
inductive EncFault where
  /-- 0x01: a reserved major -/
  | illegalOpcode
  /-- 0x02: a reserved value -/
  | reservedValue
  /-- 0x03: a reserved or unused field that is not zero -/
  | reservedField
  /-- 0x04: E = 1 on a word that takes no tail -/
  | unexpectedTail
  /-- 0x05: a dependence, or a control transfer that is not last -/
  | illegalGroup
  /-- 0x06: a width, class or alone limit -/
  | illegalLength
  deriving DecidableEq, Repr

/-- Where a request of the host comes from: the function, the host port that it arrives at (R433), and whether it came in the
function's IDE stream (R406). -/
structure HostReq where
  vf : Nat
  port : Nat
  ide : Bool
  deriving DecidableEq, Repr

/-- A host write to a BAR0 register (R435, R439); vf 0 is the PF. -/
structure RegWrite where
  req : HostReq
  offset : Nat
  /-- an 8-byte access; otherwise 4 bytes -/
  wide : Bool
  value : Dword
  deriving DecidableEq, Repr

/-- A host access through a VF's BAR2 (R434): an offset in the window, and the bytes of a write. -/
structure Bar2 where
  req : HostReq
  offset : Nat
  size : Nat
  /-- the bytes written; none is a read -/
  data : Option (List Byte)
  deriving DecidableEq, Repr

/-- The function of a register write. -/
abbrev RegWrite.vf (w : RegWrite) : Nat := w.req.vf

/-- The function of an access through BAR2. -/
abbrev Bar2.vf (a : Bar2) : Nat := a.req.vf

/-- A key-load message (R398) and the VF to which its secure session is bound. -/
structure KeyMsg where
  session : Nat
  proto : Byte
  op : Byte
  vf : Byte
  slot : Byte
  nonce : BitVec 96
  wkey : BitVec 512
  tag : BitVec 128
  deriving DecidableEq, Repr

/-- A PF command block (R440). -/
structure PfCmd where
  opcode : Byte
  vf : Byte
  field : Half
  index : Word
  value : Dword
  value2 : Dword
  addr : Dword
  reserved : BitVec 192
  deriving DecidableEq, Repr

/-- A Horay Link flit as it arrives (R446). -/
structure Flit where
  seq : BitVec 12
  kind : BitVec 4
  ack : BitVec 12
  av : Bool
  pause : Byte
  slots : BitVec 1920
  crc : Dword
  deriving DecidableEq, Repr

/-- A message of a good counted flit (R447): the flit's SEQ, ACK and PAUSE, whether the message is
the flit's first, and the message's header and data slots. -/
structure LinkMsg where
  seq : BitVec 12
  ack : Option (BitVec 12)
  pause : Byte
  first : Bool
  vc : BitVec 3
  size : BitVec 5
  srcMod : Byte
  vf : Byte
  tag : Half
  poison : Bool
  acquire : Bool
  release : Bool
  /-- W64 of an AMO, LAST of a MIGRATE -/
  flag3 : Bool
  code : Byte
  addr : Dword
  /-- slots 1 to 5, slot 1 in the low bits -/
  body : BitVec 640
  deriving DecidableEq, Repr

/-- A command of a saved engine queue (R420): its word and tail, the values c0 to c2, its stamp. -/
structure CtxCmd where
  word : Word
  tail : Word
  c0 : Dword
  c1 : Dword
  c2 : Dword
  stamp : Dword
  deriving DecidableEq, Repr

/-- What firmware does to a halted node's saved context for the debugger (R431): a read of bytes of the context area, or
the replacement of a value. Coordinates in the quadrant are those of the core's own area (R175). -/
inductive CtxWrite where
  | read (off len : Nat)
  | scalar (x handler : Bool) (r : Reg) (v : Dword)
  | csr (x : Bool) (csr : BitVec 12) (v : Dword)
  | pc (x : Bool) (v : Dword)
  | mask (k : MaskReg) (v : Word)
  | queue (q : Reg) (entries : List Vec)
  | controlQueue (toX : Bool) (entries : List Dword)
  | semaphore (n : Reg) (count ceiling : Half)
  | scratchpad (off : Nat) (v : Byte)
  | step (q : EngQ) (v : Dword)
  /-- an engine queue, whole (R431) -/
  | engine (q : EngQ) (head : Word) (cmds : List CtxCmd)
  /-- a byte of the active or the shadow bank of a table slot -/
  | table (slot : Nat) (shadow : Bool) (off : Nat) (v : Byte)
  /-- an accumulator word, 128 * row + column -/
  | acc (bank1 : Bool) (i : Nat) (v : Word)
  /-- an intermediate, 64 * row + rank index -/
  | inter (bank1 : Bool) (i : Nat) (v : Word)
  /-- a side register m or l of a row -/
  | side (bank1 l : Bool) (row : Nat) (v : Word)
  /-- an element code of a plane, 128 * k + n -/
  | plane (shadow : Bool) (i : Nat) (v : Word)
  /-- a scale of a plane, 128 * group + n -/
  | planeScale (shadow : Bool) (i : Nat) (v : Byte)
  /-- the state, format and extents of a plane -/
  | planeState (shadow ready : Bool) (fmt : BitVec 4) (kp np : Nat)
  /-- a byte of the tenant or the compensation map -/
  | map (bank1 comp : Bool) (i : BitVec 3) (v : Byte)
  /-- the fusion's shape and role -/
  | fusion (shape role : Nat)
  /-- a factor slot, whole: its state, its descriptor, and factor B's rows and scale rows -/
  | factor (slot : Nat) (ready : Bool) (desc : List Byte) (rows scales : List (List Byte))
  /-- the state and the readers of a bank of a table slot -/
  | bankState (slot : Nat) (shadow : Bool) (state readers : Nat)
  /-- the owner of a table slot -/
  | slotOwner (slot : Nat) (vf : Option Byte)
  /-- a field of a queue's fault record, by its CSR less 0x3C0 (R418) -/
  | faultField (q : EngQ) (i : BitVec 4) (v : Dword)
  /-- the fault at which a queue's head stands, and whether the C-stream has taken it -/
  | fault (q : EngQ) (f : Option (Byte × Bool))
  /-- what a queue's head has latched: records and descriptors, handle entries, table banks -/
  | latch (q : EngQ) (recs entries : List (List Byte)) (banks : List (Nat × Bool))
  /-- a queue's pending tail signal (R93) -/
  | tailSignal (q : EngQ) (v : Bool)
  /-- a slot of the probe-region tag table (R203) -/
  | probeTag (slot state vf index gen tile : Nat) (handle : Dword) (ticket pins recency : Nat) (cause : Byte)
  /-- eight bytes of the waiting accesses, by number -/
  | waiting (i : Nat) (v : Dword)
  deriving DecidableEq, Repr

/-- Every step the manual gives the machine: the 206 instruction words, then the 120 events. -/
inductive Instr where
  /-- ADD (R97). -/
  | add (o : R3)
  /-- SUB (R97). -/
  | sub (o : R3)
  /-- AND (R97). -/
  | and (o : R3)
  /-- OR (R97). -/
  | or (o : R3)
  /-- XOR (R97). -/
  | xor (o : R3)
  /-- SHL (R97). -/
  | shl (o : R3)
  /-- SHR (R97). -/
  | shr (o : R3)
  /-- SRA (R97). -/
  | sra (o : R3)
  /-- MUL (R97). -/
  | mul (o : R3)
  /-- MULH (R97). -/
  | mulh (o : R3)
  /-- MULHU (R97). -/
  | mulhu (o : R3)
  /-- DIV (R97). -/
  | div (o : R3)
  /-- DIVU (R97). -/
  | divu (o : R3)
  /-- REM (R97). -/
  | rem (o : R3)
  /-- REMU (R97). -/
  | remu (o : R3)
  /-- MIN (R97). -/
  | min (o : R3)
  /-- MAX (R97). -/
  | max (o : R3)
  /-- MINU (R97). -/
  | minu (o : R3)
  /-- MAXU (R97). -/
  | maxu (o : R3)
  /-- SLT (R97). -/
  | slt (o : R3)
  /-- SLTU (R97). -/
  | sltu (o : R3)
  /-- CLZ (R97). -/
  | clz (o : R2)
  /-- POPC (R97). -/
  | popc (o : R2)
  /-- ADDI (R98). -/
  | addi (o : RI)
  /-- ANDI (R98). -/
  | andi (o : RI)
  /-- ORI (R98). -/
  | ori (o : RI)
  /-- XORI (R98). -/
  | xori (o : RI)
  /-- SHLI (R98). -/
  | shli (o : RSh)
  /-- SHRI (R98). -/
  | shri (o : RSh)
  /-- SRAI (R98). -/
  | srai (o : RSh)
  /-- SLTI (R98). -/
  | slti (o : RI13)
  /-- SLTIU (R98). -/
  | sltiu (o : RI13)
  /-- LUI (R99). -/
  | lui (o : RU)
  /-- AUIPC (R99). -/
  | auipc (o : RU)
  /-- LEA (R99). -/
  | lea (o : RLea)
  /-- BEQ (R100). -/
  | beq (o : RBr)
  /-- BNE (R100). -/
  | bne (o : RBr)
  /-- BLT (R100). -/
  | blt (o : RBr)
  /-- BGE (R100). -/
  | bge (o : RBr)
  /-- BLTU (R100). -/
  | bltu (o : RBr)
  /-- BGEU (R100). -/
  | bgeu (o : RBr)
  /-- JAL (R101). -/
  | jal (o : RJ)
  /-- JALR (R101). -/
  | jalr (o : RI)
  /-- LOOP (R103). -/
  | loop (o : RLoop)
  /-- LOOPI (R103). -/
  | loopi (o : RLoopI)
  /-- CQPUSH (R106). -/
  | cqpush (o : RA)
  /-- CQPOP (R106). -/
  | cqpop (o : RD)
  /-- CSRR (R107). -/
  | csrr (o : RCsrR)
  /-- CSRW (R107). -/
  | csrw (o : RCsr)
  /-- CSRS (R107). -/
  | csrs (o : RCsr)
  /-- CSRC (R107). -/
  | csrc (o : RCsr)
  /-- NOP (R108). -/
  | nop (o : R0)
  /-- TRAP (R108). -/
  | trap (o : RCode)
  /-- ERET (R108). -/
  | eret (o : R0)
  /-- BRK (R108). -/
  | brk (o : RCode)
  /-- WAIT (R108). -/
  | wait (o : RA)
  /-- LD (R207). -/
  | ld (o : MLd)
  /-- ST (R207). -/
  | st (o : MSt)
  /-- AMO_ADD (R285). -/
  | amoAdd (o : RAmo)
  /-- AMO_AND (R285). -/
  | amoAnd (o : RAmo)
  /-- AMO_OR (R285). -/
  | amoOr (o : RAmo)
  /-- AMO_XOR (R285). -/
  | amoXor (o : RAmo)
  /-- AMO_SWAP (R285). -/
  | amoSwap (o : RAmo)
  /-- AMO_MIN (R285). -/
  | amoMin (o : RAmo)
  /-- AMO_MAX (R285). -/
  | amoMax (o : RAmo)
  /-- AMO_MINU (R285). -/
  | amoMinu (o : RAmo)
  /-- AMO_MAXU (R285). -/
  | amoMaxu (o : RAmo)
  /-- AMO_CAS (R285). -/
  | amoCas (o : RAmo)
  /-- AMO_FADD (R286). -/
  | amoFadd (o : RAmoF)
  /-- AMO_FMIN (R286). -/
  | amoFmin (o : RAmoF)
  /-- AMO_FMAX (R286). -/
  | amoFmax (o : RAmoF)
  /-- FENCE (R271). -/
  | fence (o : RFence)
  /-- CINV (R210). -/
  | cinv (o : RAB)
  /-- CWB (R210). -/
  | cwb (o : RAB)
  /-- L2HINT (R211). -/
  | l2hint (o : RAB)
  /-- L2HINT_DEMOTE (R211). -/
  | l2hintDemote (o : RAB)
  /-- QRD (R208). -/
  | qrd (o : R3)
  /-- QRDH (R209). -/
  | qrdh (o : R3)
  /-- QWR (R208). -/
  | qwr (o : R3)
  /-- XLD (R248). -/
  | xld (o : CCopy)
  /-- XLD_DEC (R251). -/
  | xldDec (o : CCopy)
  /-- XLD_VFY (R252). -/
  | xldVfy (o : CCopy)
  /-- XST (R248). -/
  | xst (o : CCopy)
  /-- XCP (R248). -/
  | xcp (o : CCopy)
  /-- XCP_SCL (R248). -/
  | xcpScl (o : CCopy)
  /-- XCP_VFY (R252). -/
  | xcpVfy (o : CCopy)
  /-- XDRAIN (R253). -/
  | xdrain (o : CCh)
  /-- XCUR (R254). -/
  | xcur (o : CCur)
  /-- XCFG (R255). -/
  | xcfg (o : CCfg)
  /-- MLW (R182). -/
  | mlw (o : CMlw)
  /-- MSWAP (R182). -/
  | mswap (o : C0)
  /-- MMUL (R183). -/
  | mmul (o : CMmul)
  /-- MMUL_SMAX (R184). -/
  | mmulSmax (o : C3)
  /-- MST (R185). -/
  | mst (o : CMst)
  /-- MZERO (R186). -/
  | mzero (o : C1)
  /-- MLORA (R187). -/
  | mlora (o : C2)
  /-- MLORA_CLR (R187). -/
  | mloraClr (o : CB)
  /-- MAMAP (R186). -/
  | mamap (o : C3)
  /-- MFUSE (R188). -/
  | mfuse (o : CFuse)
  /-- MFUSE_OFF (R188). -/
  | mfuseOff (o : C0)
  /-- ATTN (R341). -/
  | attn (o : C1)
  /-- HVIEW (R238). -/
  | hview (o : R3)
  /-- HCHK (R239). -/
  | hchk (o : R3)
  /-- HQRY (R240). -/
  | hqry (o : R3)
  /-- BALLOC (R331). -/
  | balloc (o : R3)
  /-- BFREE (R333). -/
  | bfree (o : R2)
  /-- BTRIM (R332). -/
  | btrim (o : R3)
  /-- BFORK (R334). -/
  | bfork (o : R3)
  /-- BSTAT (R335). -/
  | bstat (o : R3)
  /-- BKFILL (R346). -/
  | bkfill (o : C3)
  /-- AADMIT (R370). -/
  | aadmit (o : R2)
  /-- ARESOLVE (R371). -/
  | aresolve (o : R3)
  /-- AREL (R372). -/
  | arel (o : RA)
  /-- APUBLISH (R373). -/
  | apublish (o : R3)
  /-- ACLAIM (R374). -/
  | aclaim (o : R3)
  /-- PROBE (R212). -/
  | probe (o : RProbe)
  /-- PINV (R213). -/
  | pinv (o : R2)
  /-- PHREG (R281). -/
  | phreg (o : RAB)
  /-- PHDROP (R281). -/
  | phdrop (o : RA)
  /-- PHSIG (R281). -/
  | phsig (o : RA)
  /-- PHWAIT (R281). -/
  | phwait (o : RA)
  /-- PHADV (R281). -/
  | phadv (o : RA)
  /-- PHQRY (R282). -/
  | phqry (o : R2)
  /-- PHQRY_M (R282). -/
  | phqryM (o : R2)
  /-- SEMSET (R96). -/
  | semset (o : SSet)
  /-- SEMSIG (R96). -/
  | semsig (o : SN)
  /-- SEMWAIT (R96). -/
  | semwait (o : SN)
  /-- SEMRD (R96). -/
  | semrd (o : SRd)
  /-- NYIELD (R316). -/
  | nyield (o : RAB)
  /-- NDONE (R317). -/
  | ndone (o : R0)
  /-- NDONE_ABORT (R317). -/
  | ndoneAbort (o : RA)
  /-- NPARK (R316). -/
  | npark (o : RAB)
  /-- NSPAWN (R318). -/
  | nspawn (o : R3)
  /-- NDEP (R319). -/
  | ndep (o : R2)
  /-- NDEP_REL (R319). -/
  | ndepRel (o : R2)
  /-- GRPJOIN (R320). -/
  | grpjoin (o : RAB)
  /-- GRPLEAVE (R320). -/
  | grpleave (o : R0)
  /-- TLOAD (R155). -/
  | tload (o : CTload)
  /-- TINVAL (R156). -/
  | tinval (o : CB)
  /-- TINVAL_SH (R156). -/
  | tinvalSh (o : CB)
  /-- TQRY (R157). -/
  | tqry (o : R2)
  /-- VADD (R119). -/
  | vadd (o : V3)
  /-- VSUB (R119). -/
  | vsub (o : V3)
  /-- VMUL (R119). -/
  | vmul (o : V3)
  /-- VMULH (R119). -/
  | vmulh (o : V3)
  /-- VAND (R119). -/
  | vand (o : V3)
  /-- VOR (R119). -/
  | vor (o : V3)
  /-- VXOR (R119). -/
  | vxor (o : V3)
  /-- VSHL (R119). -/
  | vshl (o : V3)
  /-- VSHR (R119). -/
  | vshr (o : V3)
  /-- VSRA (R119). -/
  | vsra (o : V3)
  /-- VMIN (R119). -/
  | vmin (o : V3)
  /-- VMAX (R119). -/
  | vmax (o : V3)
  /-- VMINU (R119). -/
  | vminu (o : V3)
  /-- VMAXU (R119). -/
  | vmaxu (o : V3)
  /-- VFADD (R120). -/
  | vfadd (o : V3)
  /-- VFSUB (R120). -/
  | vfsub (o : V3)
  /-- VFMUL (R120). -/
  | vfmul (o : V3)
  /-- VFMIN (R120). -/
  | vfmin (o : V3)
  /-- VFMAX (R120). -/
  | vfmax (o : V3)
  /-- VFABS (R121). -/
  | vfabs (o : V2)
  /-- VFNEG (R121). -/
  | vfneg (o : V2)
  /-- VFMA (R122). -/
  | vfma (o : V4)
  /-- VCVT (R125). -/
  | vcvt (o : VCvt)
  /-- VPACK (R127). -/
  | vpack (o : V3)
  /-- VUNPACK (R128). -/
  | vunpack (o : VUnpack)
  /-- VBSCALE (R129). -/
  | vbscale (o : V2n)
  /-- VRSUM (R130). -/
  | vrsum (o : V2)
  /-- VRMAX (R130). -/
  | vrmax (o : V2)
  /-- VRMIN (R130). -/
  | vrmin (o : V2)
  /-- VRARGMAX (R131). -/
  | vrargmax (o : V2)
  /-- VSCAN (R132). -/
  | vscan (o : V2)
  /-- VSHUF (R133). -/
  | vshuf (o : V3)
  /-- VBCAST (R133). -/
  | vbcast (o : V2n)
  /-- VSLIDE_UP (R133). -/
  | vslideUp (o : V2n)
  /-- VSLIDE_DN (R133). -/
  | vslideDn (o : V2n)
  /-- VCOMPRESS (R133). -/
  | vcompress (o : V2)
  /-- VFUNC (R159). -/
  | vfunc (o : VFn)
  /-- TSEL (R158). -/
  | tsel (o : VSel)
  /-- VRAND (R134). -/
  | vrand (o : VRnd)
  /-- VRAND_U (R134). -/
  | vrandU (o : VRnd)
  /-- VCONF (R345). -/
  | vconf (o : VCmp)
  /-- KAND (R135). -/
  | kand (o : K3)
  /-- KOR (R135). -/
  | kor (o : K3)
  /-- KXOR (R135). -/
  | kxor (o : K3)
  /-- KNOT (R135). -/
  | knot (o : K2)
  /-- KMOV (R135). -/
  | kmov (o : K2)
  /-- KMOV_FROM_SCALAR (R135). -/
  | kmovFromScalar (o : KFrom)
  /-- KMOV_TO_SCALAR (R135). -/
  | kmovToScalar (o : KTo)
  /-- KPOP (R135). -/
  | kpop (o : KTo)
  /-- QDROP (R136). -/
  | qdrop (o : RA)
  /-- QCNT (R136). -/
  | qcnt (o : R2)
  /-- VEXT (R136). -/
  | vext (o : VExt)
  /-- VINS (R136). -/
  | vins (o : V2n)
  /-- VMOVS (R136). -/
  | vmovs (o : VMovs)
  /-- VSETT (R136). -/
  | vsett (o : R2)
  /-- VFCMP_EQ (R123). -/
  | vfcmpEq (o : VCmp)
  /-- VFCMP_LT (R123). -/
  | vfcmpLt (o : VCmp)
  /-- VFCMP_LE (R123). -/
  | vfcmpLe (o : VCmp)
  /-- VFCMP_UN (R123). -/
  | vfcmpUn (o : VCmp)
  /-- VICMP_EQ (R123). -/
  | vicmpEq (o : VCmp)
  /-- VICMP_LT (R123). -/
  | vicmpLt (o : VCmp)
  /-- VICMP_LE (R123). -/
  | vicmpLe (o : VCmp)
  /-- VICMP_LTU (R123). -/
  | vicmpLtu (o : VCmp)
  /-- VICMP_LEU (R123). -/
  | vicmpLeu (o : VCmp)
  /-- VSEL (R124). -/
  | vsel (o : V3)
  /-- FETCH_PAST_END (R102). -/
  | fetchPastEnd
  /-- SIBLING_TRAP (R78). -/
  | siblingTrap (core : Nat) (x : Bool)
  /-- ENGINE_FAULT_DELIVERY (R80). -/
  | engineFaultDelivery (core : Nat)
  /-- EQDROP_WRITE (R81). -/
  | eqdropWrite (core : Nat) (v : Dword)
  /-- COMMAND_START (R88). -/
  | commandStart (core : Nat) (q : EngQ)
  /-- TIMED_ISSUE (R172). -/
  | timedIssue (core : Nat) (q : EngQ)
  /-- SCHEDULE_MISS (R173). -/
  | scheduleMiss (core : Nat) (q : EngQ)
  /-- COMMAND_RETIRE (R88). -/
  | commandRetire (core : Nat) (q : EngQ)
  /-- COPY_CHUNK (R248). -/
  | copyChunk (core : Nat) (q : EngQ)
  /-- DECRYPT_STEP (R251). -/
  | decryptStep (core : Nat)
  /-- TLOAD_UNIT (R155). -/
  | tloadUnit (core : Nat)
  /-- TINVAL_EFFECT (R156). -/
  | tinvalEffect (core : Nat)
  /-- MLW_ROW (R182). -/
  | mlwRow (core : Nat)
  /-- MSWAP_EXCHANGE (R182). -/
  | mswapExchange (core : Nat)
  /-- MMUL_ROW (R183). -/
  | mmulRow (core : Nat)
  /-- MMUL_SMAX_ROW (R184). -/
  | mmulSmaxRow (core : Nat)
  /-- SIDE_CORRECTION (R179). -/
  | sideCorrection (core : Nat)
  /-- MST_ROW (R185). -/
  | mstRow (core : Nat)
  /-- MZERO_EFFECT (R186). -/
  | mzeroEffect (core : Nat)
  /-- MAMAP_EFFECT (R186). -/
  | mamapEffect (core : Nat)
  /-- MLORA_ROW (R187). -/
  | mloraRow (core : Nat)
  /-- MLORA_CLR_EFFECT (R187). -/
  | mloraClrEffect (core : Nat)
  /-- MFUSE_STANDING (R188). -/
  | mfuseStanding (core : Nat)
  /-- MFUSE_OFF_EFFECT (R188). -/
  | mfuseOffEffect (core : Nat)
  /-- ATTN_CHUNK (R343). -/
  | attnChunk (core : Nat)
  /-- ATTN_OUTPUT_STEP (R343). -/
  | attnOutputStep (core : Nat)
  /-- BKFILL_ACCEPT (R347). -/
  | bkfillAccept (core : Nat)
  /-- L1_EVICTION (R199). -/
  | l1Eviction (core : Nat) (line : Nat)
  /-- ROW_FILL_COMPLETE (R91). -/
  | rowFillComplete (core : Nat) (row : Nat)
  /-- PROBE_FILL_COMPLETE (R204). -/
  | probeFillComplete (die : Nat) (ticket : Nat)
  /-- PAGE_FAULT_DEADLINE (R225). -/
  | pageFaultDeadline (tag : Nat)
  /-- FROZEN_GROUP_PREEMPTION (R227). -/
  | frozenGroupPreemption (node : Dword)
  /-- WRITE_SERIALISE (R262). -/
  | writeSerialise (n : Nat)
  /-- REMOTE_WRITE_APPLY (R264). -/
  | remoteWriteApply (die : Nat) (id : Nat)
  /-- GRAPH_LAUNCH (R291). -/
  | graphLaunch (vf q : Nat)
  /-- NODE_DISPATCH (R299). -/
  | nodeDispatch (cores : List Nat)
  /-- FORCED_PREEMPTION (R303). -/
  | forcedPreemption (node : Dword)
  /-- WAIT_PREEMPTION (R306). -/
  | waitPreemption (node : Dword)
  /-- OPERATOR_OVERRUN (R301). -/
  | operatorOverrun (node : Dword)
  /-- PARK_TIME_WAKE (R316). -/
  | parkTimeWake (node : Dword)
  /-- EVENT_RECORD_WRITE (R310). -/
  | eventRecordWrite (vf ring : Nat)
  /-- RING_FAULT_RETRY (R310). -/
  | ringFaultRetry (vf ring : Nat)
  /-- EVENT_COALESCE_TIMEOUT (R437). -/
  | eventCoalesceTimeout (vf ring : Nat)
  /-- HANG_DETECT (R428). -/
  | hangDetect (node : Dword)
  /-- CRUCIBLE_GUARANTEE (R308). -/
  | crucibleGuarantee
  /-- ADAPTER_LOAD_COMPLETE (R357). -/
  | adapterLoadComplete (vf idx : Nat)
  /-- ADAPTER_FILL_QUOTA_TICK (R361). -/
  | adapterFillQuotaTick (vf : Nat)
  /-- REDUCE (R383). -/
  | reduce (port : Nat) (m : LinkMsg)
  /-- SCRUB_VISIT (R385). -/
  | scrubVisit (half line : Nat)
  /-- WEIGHT_RESTORE (R389). -/
  | weightRestore (frame : Nat)
  /-- REGISTER_WRITE (R435). -/
  | registerWrite (w : RegWrite)
  /-- SQ_DOORBELL (R436). -/
  | sqDoorbell (h : HostReq) (q : Nat) (v : Dword)
  /-- SQ_RESET (R312). -/
  | sqReset (h : HostReq) (q : Nat)
  /-- ERHEAD_WRITE (R437). -/
  | erheadWrite (h : HostReq) (ring : Nat) (v : Dword)
  /-- RESUME_WRITE (R435). -/
  | resumeWrite (h : HostReq) (node : Dword)
  /-- ADCMD_EVICT (R357). -/
  | adcmdEvict (h : HostReq) (handle : Word)
  /-- ADCMD_RETIRE (R364). -/
  | adcmdRetire (h : HostReq) (handle : Word)
  /-- BAR2_ACCESS (R434). -/
  | bar2Access (a : Bar2)
  /-- CREATE (R441). -/
  | create (c : PfCmd)
  /-- TEARDOWN (R441). -/
  | teardown (c : PfCmd)
  /-- SET_FIELD (R441). -/
  | setField (c : PfCmd)
  /-- GET_FIELD (R441). -/
  | getField (c : PfCmd)
  /-- SUSPEND (R441). -/
  | suspend (c : PfCmd)
  /-- RESUME (R441). -/
  | resume (c : PfCmd)
  /-- MIGRATE_START (R412). -/
  | migrateStart (c : PfCmd)
  /-- MIGRATE_STOP (R414). -/
  | migrateStop (c : PfCmd)
  /-- SET_GRADE (R379). -/
  | setGrade (c : PfCmd)
  /-- CLEAR_KEYS (R441). -/
  | clearKeys (c : PfCmd)
  /-- RESOLVE_RETRY (R225). -/
  | resolveRetry (tag : Nat)
  /-- RESOLVE_FAIL (R225). -/
  | resolveFail (tag : Nat)
  /-- SHOOTDOWN (R223). -/
  | shootdown
  /-- SHOOTDOWN_DONE (R223). -/
  | shootdownDone
  /-- MIGRATION_SETTLE (R413). -/
  | migrationSettle (vf : Nat)
  /-- MIGRATION_DEADLINE (R413). -/
  | migrationDeadline (vf : Nat)
  /-- KEY_LOAD (R397). -/
  | keyLoad (m : KeyMsg)
  /-- KEY_CLEAR (R398). -/
  | keyClear (m : KeyMsg)
  /-- LOCK_INTERFACE_REQUEST (R407). -/
  | lockInterfaceRequest (vf : Nat)
  /-- START_INTERFACE_REQUEST (R407). -/
  | startInterfaceRequest (vf : Nat)
  /-- STOP_INTERFACE (R407). -/
  | stopInterface (vf : Nat)
  /-- GET_DEVICE_INTERFACE_REPORT (R407). -/
  | getDeviceInterfaceReport (vf : Nat)
  /-- IDE_KM (R408). -/
  | ideKm (stream keyset : Nat) (key : BitVec 256)
  /-- GET_VERSION (R411). -/
  | getVersion
  /-- GET_CAPABILITIES (R411). -/
  | getCapabilities
  /-- NEGOTIATE_ALGORITHMS (R411). -/
  | negotiateAlgorithms
  /-- GET_DIGESTS (R411). -/
  | getDigests
  /-- GET_CERTIFICATE (R411). -/
  | getCertificate
  /-- CHALLENGE (R411). -/
  | challenge (nonce : BitVec 256)
  /-- GET_MEASUREMENTS (R411). -/
  | getMeasurements (index : Nat)
  /-- KEY_EXCHANGE (R411). -/
  | keyExchange (vf : Nat) (tenant : Bool) (pub : BitVec 768)
  /-- FINISH (R411). -/
  | finish (vf : Nat) (mac : BitVec 512)
  /-- END_SESSION (R411). -/
  | endSession (vf : Nat)
  /-- BOOT (R410). -/
  | boot
  /-- DEBUG_ATTACH (R430). -/
  | debugAttach (core : Nat)
  /-- DEBUG_HALT (R430). -/
  | debugHalt (core : Nat)
  /-- DEBUG_CONTEXT_WRITE (R431). -/
  | debugContextWrite (core : Nat) (w : CtxWrite)
  /-- DEBUG_RESUME (R432). -/
  | debugResume (core : Nat)
  /-- DEBUG_SINGLE_STEP (R432). -/
  | debugSingleStep (core : Nat) (x : Bool)
  /-- THROTTLE_CHANGE (R452). -/
  | throttleChange (die level : Nat)
  /-- DIE_TRIP (R453). -/
  | dieTrip (die : Nat)
  /-- COOLANT_LOSS (R453). -/
  | coolantLoss
  /-- CXL_LINK_DOWN (R443). -/
  | cxlLinkDown (port : Nat)
  /-- BAD_FLIT (R446). -/
  | badFlit (port : Nat) (f : Flit)
  /-- REPLAY_REQUEST (R446). -/
  | replayRequest (port : Nat) (f : Flit)
  /-- READ (R449). -/
  | read (port : Nat) (m : LinkMsg)
  /-- READ_RSP (R448). -/
  | readRsp (port : Nat) (m : LinkMsg)
  /-- WRITE (R449). -/
  | write (port : Nat) (m : LinkMsg)
  /-- WRITE_ACK (R448). -/
  | writeAck (port : Nat) (m : LinkMsg)
  /-- AMO (R449). -/
  | amo (port : Nat) (m : LinkMsg)
  /-- AMO_RSP (R448). -/
  | amoRsp (port : Nat) (m : LinkMsg)
  /-- REDUCE_ACK (R448). -/
  | reduceAck (port : Nat) (m : LinkMsg)
  /-- MIGRATE (R414). -/
  | migrate (port : Nat) (m : LinkMsg)
  /-- MGMT (R447). -/
  | mgmt (port : Nat) (m : LinkMsg)
  /-- LINKCTL (R447). -/
  | linkctl (port : Nat) (m : LinkMsg)
  /-- RESERVED_MESSAGE (R447). -/
  | reservedMessage (port : Nat) (m : LinkMsg)
  /-- ILLEGAL_OPCODE (R60). -/
  | illegalOpcode (f : EncFault) (at_ : Dword)
  /-- BAD_OPCODE (R441). -/
  | badOpcode (c : PfCmd)
  /-- IDLE_FLIT (R446). -/
  | idleFlit (port : Nat) (f : Flit)
  /-- TRIP_CLEAR (R453). -/
  | tripClear (die : Nat)
  /-- BASE_MODEL_REPLACE (R365). -/
  | baseModelReplace (hash : Dword)
  /-- IDE_CHECK_FAILURE (R408). -/
  | ideCheckFailure (vf : Nat)
  deriving DecidableEq, Repr

end Sys2Proof
end

