-- ==== Sys2Proof/WellFormed.lean ====
section
/-! DEFINITION. Which instruction terms the encodings of chapter 02 allow (R46 to R48, R54 to R59), and the ranges
of the numbers that events carry. -/

namespace Sys2Proof

/-- R59: a queue that the X-stream may push: not a fed queue. -/
def pushQ (q : Reg) : Bool := decide (12 ≤ q.toNat)

/-- R59: a queue that the X-stream may pop or peek: not an out queue. -/
def popQ (q : Reg) : Bool := decide (q.toNat < 12 ∨ 16 ≤ q.toNat)

/-- R59: a fed queue, q0 to q11. -/
def fedQ (q : Reg) : Bool := decide (q.toNat < 12)

/-- R59: an out queue, q12 to q15. -/
def outQ (q : Reg) : Bool := decide (12 ≤ q.toNat ∧ q.toNat < 16)

/-- R59: a mask that may be written: not k0. -/
def maskW (k : MaskReg) : Bool := k != 0

/-- R46, R48: SCOPE is at most 4, and 0 where neither A nor L is set. -/
def Tail.wf (t : Tail) : Bool :=
  decide (t.scope.toNat ≤ 4) && (t.acquire || t.release || t.scope == 0)

/-- The tail of a transfer or matrix command (R47). -/
def tailWf (t : Option Tail) : Bool := t.all Tail.wf

/-- R48: the tail of attn and tinval has T = 0. -/
def tailUntimed (t : Option Tail) : Bool := t.all fun t => t.wf && t.timed.isNone

/-- R46, R48, R155: the tail of tload has T = 0 and no COLOUR. -/
def tailUncoloured (t : Option Tail) : Bool := t.all fun t => t.wf && t.timed.isNone && t.colour == 0

/-- R346: the tail of bkfill carries W and G only. -/
def tailSems (t : Option Tail) : Bool :=
  t.all fun t => !t.acquire && !t.release && t.scope == 0 && t.colour == 0 && t.timed.isNone

/-- R284: a scope goes with acquire or release. -/
def RAmo.wf (o : RAmo) : Bool := o.acquire || o.release || o.scope == 0

/-- R284, for the FP32 operations. -/
def RAmoF.wf (o : RAmoF) : Bool := o.acquire || o.release || o.scope == 0

/-- The queues of a two-source X-stream word. -/
def V3.wf (o : V3) : Bool := pushQ o.d && popQ o.a && popQ o.b

/-- The queues of a one-source X-stream word. -/
def V2.wf (o : V2) : Bool := pushQ o.d && popQ o.a

/-- The queues of a one-source X-stream word with a number in vb. -/
def V2n.wf (o : V2n) : Bool := pushQ o.d && popQ o.a

/-- The mask and queues of a compare. -/
def VCmp.wf (o : VCmp) : Bool := maskW o.d && popQ o.a && popQ o.b

/-- A core number (R4). -/
def coreOk (c : Nat) : Bool := decide (c < 2048)

/-- A VF number (R390). -/
def vfOk (v : Nat) : Bool := decide (1 ≤ v ∧ v < 256)

/-- A request of a function at one of the two host ports (R390, R433). -/
def HostReq.ok (h : HostReq) : Bool := decide (h.vf < 256) && decide (h.port < 2)

/-- A ring or queue number (R435). -/
def ringOk (r : Nat) : Bool := decide (r < 16)

/-- A Horay Link port (R444). -/
def portOk (p : Nat) : Bool := decide (p < 64)

/-- A compute die (R4). -/
def dieOk (d : Nat) : Bool := decide (d < 32)

/-- The instruction terms that some words, or some event, stand for. -/
def Instr.wf : Instr → Bool
  | .lea _ => true
  | .loopi o => o.n != 0
  | .ld o => !(o.se && o.size == 3)
  | .st o => !o.deflt || o.colour == 0
  | .amoAdd o | .amoAnd o | .amoOr o | .amoXor o | .amoSwap o | .amoMin o | .amoMax o | .amoMinu o
  | .amoMaxu o | .amoCas o => o.wf
  | .amoFadd o | .amoFmin o | .amoFmax o => o.wf
  | .fence o => decide (o.scope.toNat ≤ 4)
  | .qrd o | .qrdh o => fedQ o.d
  | .qwr o => outQ o.d
  | .xld o | .xldDec o | .xldVfy o | .xst o | .xcp o | .xcpScl o | .xcpVfy o => tailWf o.tail
  | .mlw o => tailWf o.tail
  | .mswap o | .mfuseOff o => tailWf o.tail
  | .mmul o => tailWf o.tail
  | .mmulSmax o | .mamap o => tailWf o.tail
  | .mst o => tailWf o.tail
  | .mzero o => tailWf o.tail
  | .mlora o => tailWf o.tail
  | .mloraClr o => tailWf o.tail
  | .mfuse o => tailWf o.tail && o.shape != 0
  | .attn o => tailUntimed o.tail
  | .bkfill o => tailSems o.tail
  | .tload o => tailUncoloured o.tail
  | .tinval o | .tinvalSh o => tailUntimed o.tail
  | .vadd o | .vsub o | .vmul o | .vmulh o | .vand o | .vor o | .vxor o | .vshl o | .vshr o | .vsra o
  | .vmin o | .vmax o | .vminu o | .vmaxu o | .vfadd o | .vfsub o | .vfmul o | .vfmin o | .vfmax o
  | .vpack o | .vshuf o | .vsel o => o.wf
  | .vfabs o | .vfneg o | .vrsum o | .vrmax o | .vrmin o | .vrargmax o | .vscan o | .vcompress o => o.wf
  | .vbscale o | .vbcast o | .vslideUp o | .vslideDn o | .vins o => o.wf
  | .vfma o => pushQ o.d && popQ o.a && popQ o.b && popQ o.c
  | .vcvt o => pushQ o.d && popQ o.a
  | .vunpack o => pushQ o.d && popQ o.a
  | .vfunc o => pushQ o.d && popQ o.a
  | .vrand o | .vrandU o => pushQ o.d
  | .vconf o | .vfcmpEq o | .vfcmpLt o | .vfcmpLe o | .vfcmpUn o | .vicmpEq o | .vicmpLt o | .vicmpLe o
  | .vicmpLtu o | .vicmpLeu o => o.wf
  | .kand o | .kor o | .kxor o => maskW o.d
  | .knot o | .kmov o => maskW o.d
  | .kmovFromScalar o => maskW o.d
  | .qdrop o => popQ o.a
  | .vext o => popQ o.a
  | .vmovs o => pushQ o.d
  | .siblingTrap c _ | .engineFaultDelivery c | .eqdropWrite c _ | .commandStart c _ | .timedIssue c _
  | .scheduleMiss c _ | .commandRetire c _ | .copyChunk c _ | .decryptStep c | .tloadUnit c
  | .tinvalEffect c | .mlwRow c | .mswapExchange c | .mmulRow c | .mmulSmaxRow c | .sideCorrection c
  | .mstRow c | .mzeroEffect c | .mamapEffect c | .mloraRow c | .mloraClrEffect c | .mfuseStanding c
  | .mfuseOffEffect c | .attnChunk c | .attnOutputStep c | .bkfillAccept c | .l1Eviction c _
  | .rowFillComplete c _ | .debugAttach c | .debugHalt c | .debugContextWrite c _ | .debugResume c
  | .debugSingleStep c _ => coreOk c
  | .probeFillComplete d _ | .remoteWriteApply d _ | .throttleChange d _ | .dieTrip d | .tripClear d => dieOk d
  | .nodeDispatch cs => cs.all coreOk
  | .eventRecordWrite v r | .ringFaultRetry v r | .eventCoalesceTimeout v r => (vfOk v && ringOk r) || (v == 0 && r == 0)
  | .erheadWrite h r _ => h.ok && ringOk r && (h.vf != 0 || r == 0)
  | .graphLaunch v r => vfOk v && ringOk r
  | .sqDoorbell h r _ | .sqReset h r => h.ok && h.vf != 0 && ringOk r
  | .resumeWrite h _ | .adcmdEvict h _ | .adcmdRetire h _ => h.ok && h.vf != 0
  | .migrationSettle v | .migrationDeadline v
  | .lockInterfaceRequest v | .startInterfaceRequest v | .stopInterface v | .getDeviceInterfaceReport v
  | .ideCheckFailure v | .adapterLoadComplete v _ | .adapterFillQuotaTick v | .keyExchange v _ _
  | .finish v _ | .endSession v => vfOk v
  | .scrubVisit h _ => decide (h < 32)
  | .badFlit p _ | .replayRequest p _ | .idleFlit p _ => portOk p
  | .read p _ | .readRsp p _ | .write p _ | .writeAck p _ | .amo p _ | .amoRsp p _ | .reduce p _ | .reduceAck p _
  | .migrate p _ | .mgmt p _ | .linkctl p _ | .reservedMessage p _ => portOk p
  | .cxlLinkDown p => decide (p < 2)
  | .registerWrite w => w.req.ok
  | .bar2Access a => a.req.ok
  | .getMeasurements i => decide (1 ≤ i ∧ i ≤ 16)
  | .add _ | .sub _ | .and _ | .or _ | .xor _ | .shl _ | .shr _ | .sra _ | .mul _ | .mulh _ | .mulhu _ | .div _
  | .divu _ | .rem _ | .remu _ | .min _ | .max _ | .minu _ | .maxu _ | .slt _ | .sltu _ | .clz _ | .popc _
  | .addi _ | .andi _ | .ori _ | .xori _ | .shli _ | .shri _ | .srai _ | .slti _ | .sltiu _ | .lui _ | .auipc _
  | .beq _ | .bne _ | .blt _ | .bge _ | .bltu _ | .bgeu _ | .jal _ | .jalr _ | .loop _
  | .cqpush _ | .cqpop _ | .csrr _ | .csrw _ | .csrs _ | .csrc _ | .nop _ | .trap _ | .eret _ | .brk _ | .wait _
  | .cinv _ | .cwb _ | .l2hint _ | .l2hintDemote _ | .xdrain _ | .xcur _ | .xcfg _
  | .hview _ | .hchk _ | .hqry _ | .balloc _ | .bfree _ | .btrim _ | .bfork _ | .bstat _
  | .aadmit _ | .aresolve _ | .arel _ | .apublish _ | .aclaim _ | .probe _ | .pinv _
  | .phreg _ | .phdrop _ | .phsig _ | .phwait _ | .phadv _ | .phqry _ | .phqryM _
  | .semset _ | .semsig _ | .semwait _ | .semrd _
  | .nyield _ | .ndone _ | .ndoneAbort _ | .npark _ | .nspawn _ | .ndep _ | .ndepRel _ | .grpjoin _ | .grpleave _
  | .tqry _ | .tsel _ | .kmovToScalar _ | .kpop _ | .qcnt _ | .vsett _
  | .fetchPastEnd | .illegalOpcode _ _ | .pageFaultDeadline _ | .frozenGroupPreemption _ | .writeSerialise _
  | .forcedPreemption _ | .waitPreemption _ | .operatorOverrun _ | .parkTimeWake _ | .hangDetect _
  | .crucibleGuarantee | .weightRestore _
  | .create _ | .teardown _ | .setField _ | .getField _ | .suspend _ | .resume _ | .migrateStart _ | .migrateStop _
  | .setGrade _ | .clearKeys _ | .resolveRetry _ | .resolveFail _ | .shootdown | .shootdownDone
  | .keyLoad _ | .keyClear _ | .ideKm _ _ _ | .getVersion | .getCapabilities | .negotiateAlgorithms
  | .getDigests | .getCertificate | .challenge _ | .boot | .coolantLoss | .badOpcode _ | .baseModelReplace _ => true

end Sys2Proof
end

