-- ==== Sys2Proof/Decode.lean ====
section
/-! DEFINITION. Instruction words to instructions (R42 to R61), total and rejecting by the encoding faults of R60;
and the encoder, written from the same tables. -/

namespace Sys2Proof

/-- The fields of an instruction word that every format shares (R42, R44): `fn` is [10:2]. -/
structure RWord where
  major : BitVec 6
  d : Reg
  a : Reg
  b : Reg
  fn : BitVec 9
  e : Bool
  s : Bool
  deriving DecidableEq, Repr

/-- The fields of a word (R42, R44). -/
def RWord.ofWord (w : Word) : RWord :=
  { major := w.extractLsb' 26 6, d := w.extractLsb' 21 5, a := w.extractLsb' 16 5, b := w.extractLsb' 11 5
    fn := w.extractLsb' 2 9, e := w.getLsbD 1, s := w.getLsbD 0 }

/-- The word of the fields. -/
def RWord.toWord (r : RWord) : Word :=
  r.major ++ r.d ++ r.a ++ r.b ++ r.fn ++ BitVec.ofBool r.e ++ BitVec.ofBool r.s

/-- Word bits [15:2]: the immediate of formats I, B and M (R44). -/
def RWord.imm14 (r : RWord) : BitVec 14 := r.b ++ r.fn

/-- The selector fn[8:5] of R-format and C-format majors (R54). -/
def RWord.sel (r : RWord) : Nat := (r.fn.extractLsb' 5 4).toNat

/-- The modifier bits fn[4:0] (R54). -/
def RWord.mods (r : RWord) : BitVec 5 := r.fn.extractLsb' 0 5

/-- The op field [5:2] of format V (R58). -/
def RWord.op (r : RWord) : Nat := (r.fn.extractLsb' 0 4).toNat

/-- The mask field k [10:8] of format V. -/
def RWord.k (r : RWord) : MaskReg := r.fn.extractLsb' 6 3

/-- Bit [7] of format V. -/
def RWord.pa (r : RWord) : Bool := r.fn.getLsbD 5

/-- Bit [6] of format V. -/
def RWord.pb (r : RWord) : Bool := r.fn.getLsbD 4

/-- The fields of a tail word (R46). -/
def Tail.ofWord (w : Word) : Tail :=
  { waitSem := if w.getLsbD 31 then some (w.extractLsb' 26 5) else none
    sigSem := if w.getLsbD 25 then some (w.extractLsb' 20 5) else none
    acquire := w.getLsbD 19, release := w.getLsbD 18
    scope := w.extractLsb' 15 3, colour := w.extractLsb' 12 3
    timed := if w.getLsbD 11 then some (w.extractLsb' 7 4, w.extractLsb' 2 5) else none }

/-- The tail word of the fields (R46). -/
def Tail.toWord (t : Tail) : Word :=
  BitVec.ofBool t.waitSem.isSome ++ (t.waitSem.getD 0 : BitVec 5)
    ++ BitVec.ofBool t.sigSem.isSome ++ (t.sigSem.getD 0 : BitVec 5)
    ++ BitVec.ofBool t.acquire ++ BitVec.ofBool t.release ++ t.scope ++ t.colour
    ++ BitVec.ofBool t.timed.isSome ++ ((t.timed.map Prod.fst).getD 0 : BitVec 4)
    ++ ((t.timed.map Prod.snd).getD 0 : BitVec 5) ++ (0 : BitVec 2)

/-- R48, 0x02: a reserved SCOPE. -/
def tailBadScope (w : Word) : Bool := decide (5 ≤ (w.extractLsb' 15 3).toNat)

/-- R48, 0x03: [1:0], and a number that its flag leaves unused. -/
def tailBadField (w : Word) : Bool :=
  w.extractLsb' 0 2 != 0
    || (!w.getLsbD 31 && w.extractLsb' 26 5 != 0)
    || (!w.getLsbD 25 && w.extractLsb' 20 5 != 0)
    || (!w.getLsbD 19 && !w.getLsbD 18 && w.extractLsb' 15 3 != 0)
    || (!w.getLsbD 11 && (w.extractLsb' 7 4 != 0 || w.extractLsb' 2 5 != 0))

/-- What the opcode map says of one word: how it is built, whether it takes a tail, and which of its fields are
refused. -/
structure Row where
  build : Bool → Option Tail → Instr
  tailed : Bool := false
  /-- a reserved value, 0x02 -/
  badVal : Bool := false
  /-- a reserved field that is not zero, 0x03 -/
  badField : Bool := false
  /-- a tail field that this command refuses, 0x03 -/
  badTail : Tail → Bool := fun _ => false

/-- A word of the map, or the fault of a reserved major or selector. -/
abbrev RowOr := Except EncFault Row

/-- A reserved major. -/
def noMajor : RowOr := .error .illegalOpcode

/-- A reserved selector, fn or op. -/
def noSel : RowOr := .error .reservedValue

/-- The word, refused as a reserved value where `bad`: rules whose fn values other than those listed raise 0x02 (R237,
R369). -/
def RowOr.refusing (x : RowOr) (bad : Bool) : RowOr :=
  x.map fun y => { y with badVal := y.badVal || bad }

/-- R format with d, a and b. -/
def row3 (c : R3 → Instr) (r : RWord) (badMods badVal : Bool) : RowOr :=
  .ok { build := fun s _ => c ⟨r.d, r.a, r.b, s⟩, badField := badMods, badVal := badVal }

/-- R format with d and a. -/
def row2 (c : R2 → Instr) (r : RWord) (badMods : Bool) : RowOr :=
  .ok { build := fun s _ => c ⟨r.d, r.a, s⟩, badField := badMods || r.b != 0 }

/-- R format with a and b. -/
def rowAB (c : RAB → Instr) (r : RWord) (badMods badVal : Bool) : RowOr :=
  .ok { build := fun s _ => c ⟨r.a, r.b, s⟩, badField := badMods || r.d != 0, badVal := badVal }

/-- R format with d. -/
def rowD (c : RD → Instr) (r : RWord) (badMods : Bool) : RowOr :=
  .ok { build := fun s _ => c ⟨r.d, s⟩, badField := badMods || r.a != 0 || r.b != 0 }

/-- R format with a. -/
def rowA (c : RA → Instr) (r : RWord) (badMods : Bool) : RowOr :=
  .ok { build := fun s _ => c ⟨r.a, s⟩, badField := badMods || r.d != 0 || r.b != 0 }

/-- R format with no operand. -/
def row0 (c : R0 → Instr) (r : RWord) (badMods : Bool) : RowOr :=
  .ok { build := fun s _ => c ⟨s⟩, badField := badMods || r.d != 0 || r.a != 0 || r.b != 0 }

/-- R format with a code in the modifier bits. -/
def rowCode (c : RCode → Instr) (r : RWord) : RowOr :=
  .ok { build := fun s _ => c ⟨r.mods, s⟩, badField := r.d != 0 || r.a != 0 || r.b != 0 }

/-- I format. -/
def rowI (c : RI → Instr) (r : RWord) : RowOr :=
  .ok { build := fun s _ => c ⟨r.d, r.a, r.imm14, s⟩ }

/-- B format. -/
def rowB (c : RBr → Instr) (r : RWord) : RowOr :=
  .ok { build := fun s _ => c ⟨r.d, r.a, r.imm14, s⟩ }

/-- U format. -/
def rowU (c : RU → Instr) (r : RWord) : RowOr :=
  .ok { build := fun s _ => c ⟨r.d, r.a ++ r.b ++ r.fn, s⟩ }

/-- Major 0 (R56). -/
def rowMajor0 (r : RWord) : RowOr :=
  match r.fn.toNat with
  | 0x000 => row3 .add r false false
  | 0x001 => row3 .sub r false false
  | 0x002 => row3 .and r false false
  | 0x003 => row3 .or r false false
  | 0x004 => row3 .xor r false false
  | 0x005 => row3 .shl r false false
  | 0x006 => row3 .shr r false false
  | 0x007 => row3 .sra r false false
  | 0x008 => row3 .mul r false false
  | 0x009 => row3 .mulh r false false
  | 0x00A => row3 .mulhu r false false
  | 0x00B => row3 .div r false false
  | 0x00C => row3 .divu r false false
  | 0x00D => row3 .rem r false false
  | 0x00E => row3 .remu r false false
  | 0x00F => row3 .min r false false
  | 0x010 => row3 .max r false false
  | 0x011 => row3 .minu r false false
  | 0x012 => row3 .maxu r false false
  | 0x013 => row3 .slt r false false
  | 0x014 => row3 .sltu r false false
  | 0x015 => row2 .clz r false
  | 0x016 => row2 .popc r false
  | _ => noSel

/-- Major 5 (R55): the shifts by an immediate. -/
def rowMajor5 (r : RWord) : RowOr :=
  let go (c : RSh → Instr) : RowOr :=
    .ok { build := fun s _ => c ⟨r.d, r.a, r.imm14.extractLsb' 0 6, s⟩
          badField := r.imm14.extractLsb' 6 6 != 0 }
  match (r.imm14.extractLsb' 12 2).toNat with
  | 0 => go .shli
  | 1 => go .shri
  | 2 => go .srai
  | _ => noSel

/-- Major 6 (R55): the compares with an immediate. -/
def rowMajor6 (r : RWord) : RowOr :=
  let go (c : RI13 → Instr) : RowOr := .ok { build := fun s _ => c ⟨r.d, r.a, r.imm14.extractLsb' 0 13, s⟩ }
  if r.imm14.getLsbD 13 then go .sltiu else go .slti

/-- Major 21 (R55): CSR access. -/
def rowMajor21 (r : RWord) : RowOr :=
  let go (c : RCsr → Instr) : RowOr := .ok { build := fun s _ => c ⟨r.d, r.a, r.imm14.extractLsb' 2 12, s⟩ }
  match (r.imm14.extractLsb' 0 2).toNat with
  | 0 => .ok { build := fun s _ => .csrr ⟨r.d, r.imm14.extractLsb' 2 12, s⟩, badField := r.a != 0 }
  | 1 => go .csrw
  | 2 => go .csrs
  | _ => go .csrc

/-- The shared control subset, majors 0 to 31 (R55). -/
def rowShared (r : RWord) : RowOr :=
  match r.major.toNat with
  | 0 => rowMajor0 r
  | 1 => rowI .addi r
  | 2 => rowI .andi r
  | 3 => rowI .ori r
  | 4 => rowI .xori r
  | 5 => rowMajor5 r
  | 6 => rowMajor6 r
  | 7 => rowU .lui r
  | 8 => rowU .auipc r
  | 9 => .ok { build := fun s _ => .lea ⟨r.d, r.a, r.b, r.fn.extractLsb' 0 2, s⟩
               badVal := r.fn.extractLsb' 2 7 != 0 }
  | 10 => rowB .beq r
  | 11 => rowB .bne r
  | 12 => rowB .blt r
  | 13 => rowB .bge r
  | 14 => rowB .bltu r
  | 15 => rowB .bgeu r
  | 16 => .ok { build := fun s _ => .jal ⟨r.d ++ r.a ++ r.b ++ r.fn, s⟩ }
  | 17 => rowI .jalr r
  | 18 => .ok { build := fun s _ => .loop ⟨r.d, r.imm14, s⟩, badField := r.a != 0 }
  | 19 => .ok { build := fun s _ => .loopi ⟨r.d ++ r.a, r.imm14, s⟩, badVal := (r.d ++ r.a : BitVec 10) == 0 }
  | 20 =>
    match r.sel with
    | 0 => rowA .cqpush r (r.mods != 0)
    | 1 => rowD .cqpop r (r.mods != 0)
    | _ => noSel
  | 21 => rowMajor21 r
  | 22 =>
    match r.sel with
    | 0 => row0 .nop r (r.mods != 0)
    | 1 => rowCode .trap r
    | 2 => row0 .eret r (r.mods != 0)
    | 3 => rowCode .brk r
    | 4 => rowA .wait r (r.mods != 0)
    | _ => noSel
  | _ => noMajor

/-- Major 34 (R57, R284): amo. -/
def rowMajor34 (r : RWord) : RowOr :=
  let noScope := !r.mods.getLsbD 3 && !r.mods.getLsbD 2 && r.mods.extractLsb' 0 2 != 0
  let int (c : RAmo → Instr) : RowOr :=
    .ok { build := fun s _ => c ⟨r.d, r.a, r.b, r.mods.getLsbD 4, r.mods.getLsbD 3, r.mods.getLsbD 2,
            r.mods.extractLsb' 0 2, s⟩
          badField := noScope }
  let flt (c : RAmoF → Instr) : RowOr :=
    .ok { build := fun s _ => c ⟨r.d, r.a, r.b, r.mods.getLsbD 3, r.mods.getLsbD 2, r.mods.extractLsb' 0 2, s⟩
          badVal := r.mods.getLsbD 4, badField := noScope }
  match r.sel with
  | 0 => int .amoAdd
  | 1 => int .amoAnd
  | 2 => int .amoOr
  | 3 => int .amoXor
  | 4 => int .amoSwap
  | 5 => int .amoMin
  | 6 => int .amoMax
  | 7 => int .amoMinu
  | 8 => int .amoMaxu
  | 9 => int .amoCas
  | 10 => flt .amoFadd
  | 11 => flt .amoFmin
  | 12 => flt .amoFmax
  | _ => noSel

/-- Major 35 (R57, R206, R271): fence and the cache instructions. -/
def rowMajor35 (r : RWord) : RowOr :=
  match r.sel with
  | 0 =>
    let top : BitVec 15 := r.d ++ r.a ++ r.b
    .ok { build := fun s _ => .fence ⟨top.extractLsb' 7 8, top.extractLsb' 4 3, s⟩
          badVal := decide (5 ≤ (top.extractLsb' 4 3).toNat)
          badField := top.extractLsb' 0 4 != 0 || r.mods != 0 }
  | 1 => rowAB .cinv r (r.mods != 0) false
  | 2 => rowAB .cwb r (r.mods != 0) false
  | 3 =>
    let other := r.mods.extractLsb' 0 2 != 0 || r.mods.getLsbD 4
    if r.mods.getLsbD 2 then
      rowAB .l2hintDemote r other (r.mods.getLsbD 3)
    else rowAB .l2hint r other (r.mods.getLsbD 3)
  | _ => noSel

/-- Major 37 (R57, chapter 09). -/
def rowMajor37 (r : RWord) : RowOr :=
  let copy (c : CCopy → Instr) (badField : Bool) : RowOr :=
    .ok { build := fun s t => c ⟨r.d, r.a, r.b, r.mods.extractLsb' 0 3, t, s⟩, tailed := true, badField := badField }
  let mode := (r.mods.extractLsb' 3 2).toNat
  match r.sel with
  | 0 => match mode with
    | 0 => copy .xld false
    | 1 => copy .xldDec false
    | 2 => copy .xldVfy false
    | _ => noSel
  | 1 => copy .xst (mode != 0)
  | 2 => match mode with
    | 0 => copy .xcp false
    | 1 => copy .xcpScl false
    | 2 => copy .xcpVfy false
    | _ => noSel
  | 3 => .ok { build := fun s _ => .xdrain ⟨r.mods.extractLsb' 0 3, s⟩
               badField := r.d != 0 || r.a != 0 || r.b != 0 || mode != 0 }
  | 4 => .ok { build := fun s _ => .xcur ⟨r.d, r.mods.getLsbD 0, s⟩
               badField := r.a != 0 || r.b != 0 || r.mods.extractLsb' 1 4 != 0 }
  | 5 => .ok { build := fun s _ => .xcfg ⟨r.d, r.a, r.mods.extractLsb' 0 3, s⟩, badField := r.b != 0 || mode != 0 }
  | _ => noSel

/-- Major 38 (R181): the matrix commands. -/
def rowMajor38 (r : RWord) : RowOr :=
  let hi := r.mods
  match r.sel with
  | 0 => .ok { build := fun s t => .mlw ⟨r.d, hi.getLsbD 0, t, s⟩, tailed := true
               badField := r.a != 0 || r.b != 0 || hi.extractLsb' 1 4 != 0 }
  | 1 => .ok { build := fun s t => .mswap ⟨t, s⟩, tailed := true
               badField := r.d != 0 || r.a != 0 || r.b != 0 || hi != 0 }
  | 2 =>
    if hi.getLsbD 3 then
      .ok { build := fun s t => .mmulSmax ⟨r.d, r.a, r.b, t, s⟩, tailed := true
            badVal := hi.extractLsb' 0 3 != 0, badField := hi.getLsbD 4 }
    else
      .ok { build := fun s t => .mmul ⟨r.d, r.a, hi.getLsbD 2, hi.getLsbD 1, hi.getLsbD 0, t, s⟩, tailed := true
            badField := r.b != 0 || hi.getLsbD 4 }
  | 3 => .ok { build := fun s t => .mst ⟨r.d, r.a, hi.getLsbD 2, hi.getLsbD 1, hi.getLsbD 0, t, s⟩, tailed := true
               badField := r.b != 0 || hi.extractLsb' 3 2 != 0 }
  | 4 => .ok { build := fun s t => .mzero ⟨r.d, t, s⟩, tailed := true
               badField := r.a != 0 || r.b != 0 || hi != 0 }
  | 5 =>
    if hi.getLsbD 0 then
      .ok { build := fun s t => .mloraClr ⟨r.a, t, s⟩, tailed := true
            badField := r.d != 0 || r.b != 0 || hi.extractLsb' 1 4 != 0 }
    else
      .ok { build := fun s t => .mlora ⟨r.d, r.a, t, s⟩, tailed := true
            badField := r.b != 0 || hi.extractLsb' 1 4 != 0 }
  | 6 => .ok { build := fun s t => .mamap ⟨r.d, r.a, r.b, t, s⟩, tailed := true, badField := hi != 0 }
  | 7 =>
    if hi.extractLsb' 0 2 == 0 then
      .ok { build := fun s t => .mfuseOff ⟨t, s⟩, tailed := true
            badField := r.d != 0 || r.a != 0 || r.b != 0 || hi.extractLsb' 2 3 != 0 }
    else
      .ok { build := fun s t => .mfuse ⟨hi.extractLsb' 0 2, t, s⟩, tailed := true
            badField := r.d != 0 || r.a != 0 || r.b != 0 || hi.extractLsb' 2 3 != 0 }
  | _ => noSel

/-- C-stream majors 32 to 63 (R57). Bit [15] of ld and st is a field that must be zero (R206: 0x03), and so is the COLOUR of a
tload's tail, which R155 calls unused (R46, R60). -/
def rowC (r : RWord) : RowOr :=
  let m := r.mods != 0
  match r.major.toNat with
  | 32 => .ok { build := fun s _ => .ld ⟨r.d, r.a, r.imm14.getLsbD 12, r.imm14.extractLsb' 10 2,
                  r.imm14.extractLsb' 0 7, s⟩
                badVal := r.imm14.getLsbD 12 && r.imm14.extractLsb' 10 2 == 3
                badField := r.imm14.getLsbD 13 || r.imm14.extractLsb' 7 3 != 0 }
  | 33 => .ok { build := fun s _ => .st ⟨r.d, r.a, r.imm14.getLsbD 12, r.imm14.extractLsb' 10 2,
                  r.imm14.extractLsb' 7 3, r.imm14.extractLsb' 0 7, s⟩
                badField := r.imm14.getLsbD 13 || (r.imm14.getLsbD 12 && r.imm14.extractLsb' 7 3 != 0) }
  | 34 => rowMajor34 r
  | 35 => rowMajor35 r
  | 36 => match r.sel with
    | 0 => row3 .qrd r m (!fedQ r.d)
    | 1 => row3 .qrdh r m (!fedQ r.d)
    | 2 => row3 .qwr r m (!outQ r.d)
    | _ => noSel
  | 37 => rowMajor37 r
  | 38 => rowMajor38 r
  | 39 => match r.sel with
    | 0 => .ok { build := fun s t => .attn ⟨r.d, t, s⟩, tailed := true, badField := r.a != 0 || r.b != 0 || m
                 badTail := fun t => t.timed.isSome }
    | _ => noSel
  | 40 => match r.sel with
    | 0 => row3 .hview r false m
    | 1 => row3 .hchk r false m
    | 2 => row3 .hqry r false m
    | _ => noSel
  | 41 => match r.sel with
    | 0 => row3 .balloc r m false
    | 1 => row2 .bfree r m
    | 2 => row3 .btrim r m false
    | 3 => row3 .bfork r m false
    | 4 => row3 .bstat r m false
    | 5 => .ok { build := fun s t => .bkfill ⟨r.d, r.a, r.b, t, s⟩, tailed := true, badField := m
                 badTail := fun t => t.acquire || t.release || t.scope != 0 || t.colour != 0 || t.timed.isSome }
    | _ => noSel
  | 42 => match r.sel with
    | 0 => (row2 .aadmit r false).refusing m
    | 1 => row3 .aresolve r false m
    | 2 => (rowA .arel r false).refusing m
    | 3 => row3 .apublish r false m
    | 4 => row3 .aclaim r false m
    | _ => noSel
  | 43 =>
    if r.imm14.getLsbD 13 then
      .ok { build := fun s _ => .pinv ⟨r.d, r.a, s⟩, badField := r.imm14.extractLsb' 0 13 != 0 }
    else .ok { build := fun s _ => .probe ⟨r.d, r.a, r.imm14.extractLsb' 0 13, s⟩ }
  | 44 => match r.sel with
    | 0 => rowAB .phreg r m false
    | 1 => rowA .phdrop r m
    | 2 => rowA .phsig r m
    | 3 => rowA .phwait r m
    | 4 => rowA .phadv r m
    | 5 => if r.mods.getLsbD 0 then row2 .phqryM r (r.mods.extractLsb' 1 4 != 0) else row2 .phqry r m
    | _ => noSel
  | 45 => match r.sel with
    | 0 => .ok { build := fun s _ => .semset ⟨r.a, r.b, r.mods, s⟩, badField := r.d != 0 }
    | 1 => .ok { build := fun s _ => .semsig ⟨r.mods, s⟩, badField := r.d != 0 || r.a != 0 || r.b != 0 }
    | 2 => .ok { build := fun s _ => .semwait ⟨r.mods, s⟩, badField := r.d != 0 || r.a != 0 || r.b != 0 }
    | 3 => .ok { build := fun s _ => .semrd ⟨r.d, r.mods, s⟩, badField := r.a != 0 || r.b != 0 }
    | _ => noSel
  | 46 => match r.sel with
    | 0 => rowAB .nyield r m false
    | 1 => if r.mods.getLsbD 0 then rowA .ndoneAbort r (r.mods.extractLsb' 1 4 != 0) else row0 .ndone r m
    | 2 => rowAB .npark r m false
    | 3 => row3 .nspawn r m false
    | 4 => if r.mods.getLsbD 0 then row2 .ndepRel r (r.mods.extractLsb' 1 4 != 0) else row2 .ndep r m
    | 5 => rowAB .grpjoin r m false
    | 6 => row0 .grpleave r m
    | _ => noSel
  | 47 => match r.sel with
    | 0 => .ok { build := fun s t => .tload ⟨r.d, r.a, r.mods.getLsbD 0, t, s⟩, tailed := true
                 badField := r.b != 0 || r.mods.extractLsb' 1 4 != 0
                 badTail := fun t => t.timed.isSome || t.colour != 0 }
    | 1 =>
      let bad := r.d != 0 || r.b != 0 || r.mods.extractLsb' 1 4 != 0
      if r.mods.getLsbD 0 then
        .ok { build := fun s t => .tinvalSh ⟨r.a, t, s⟩, tailed := true, badField := bad
              badTail := fun t => t.timed.isSome }
      else
        .ok { build := fun s t => .tinval ⟨r.a, t, s⟩, tailed := true, badField := bad
              badTail := fun t => t.timed.isSome }
    | 2 => row2 .tqry r m
    | _ => noSel
  | _ => noMajor

/-- V format, two source queues (R114). -/
def rowV3 (c : V3 → Instr) (r : RWord) : RowOr :=
  .ok { build := fun s _ => c ⟨r.d, r.a, r.b, r.k, r.pa, r.pb, s⟩
        badVal := !(pushQ r.d && popQ r.a && popQ r.b) }

/-- V format, one source queue (R114). -/
def rowV2 (c : V2 → Instr) (r : RWord) : RowOr :=
  .ok { build := fun s _ => c ⟨r.d, r.a, r.k, r.pa, s⟩, badVal := !(pushQ r.d && popQ r.a)
        badField := r.b != 0 || r.pb }

/-- V format, one source queue and a number or scalar in vb (R114). -/
def rowV2n (c : V2n → Instr) (r : RWord) (badPb : Bool) : RowOr :=
  .ok { build := fun s _ => c ⟨r.d, r.a, r.b, r.k, r.pa, s⟩, badVal := !(pushQ r.d && popQ r.a), badField := badPb }

/-- V format, two source queues and a destination mask (R114). -/
def rowVCmp (c : VCmp → Instr) (r : RWord) : RowOr :=
  .ok { build := fun s _ => c ⟨r.d.extractLsb' 0 3, r.a, r.b, r.k, r.pa, r.pb, s⟩
        badVal := !(maskW (r.d.extractLsb' 0 3) && popQ r.a && popQ r.b)
        badField := r.d.extractLsb' 3 2 != 0 }

/-- V format, three masks (R135). -/
def rowK3 (c : K3 → Instr) (r : RWord) : RowOr :=
  .ok { build := fun s _ => c ⟨r.d.extractLsb' 0 3, r.a.extractLsb' 0 3, r.b.extractLsb' 0 3, s⟩
        badVal := !maskW (r.d.extractLsb' 0 3)
        badField := r.d.extractLsb' 3 2 != 0 || r.a.extractLsb' 3 2 != 0 || r.b.extractLsb' 3 2 != 0
          || r.k != 0 || r.pa || r.pb }

/-- V format, two masks (R135). -/
def rowK2 (c : K2 → Instr) (r : RWord) : RowOr :=
  .ok { build := fun s _ => c ⟨r.d.extractLsb' 0 3, r.a.extractLsb' 0 3, s⟩
        badVal := !maskW (r.d.extractLsb' 0 3)
        badField := r.d.extractLsb' 3 2 != 0 || r.a.extractLsb' 3 2 != 0 || r.b != 0 || r.k != 0 || r.pa || r.pb }

/-- V format, a scalar from a mask; `badPeek` holds where the peek bits are not those of the form (R135). -/
def rowKTo (c : KTo → Instr) (r : RWord) (badPeek : Bool) : RowOr :=
  .ok { build := fun s _ => c ⟨r.d, r.a.extractLsb' 0 3, s⟩
        badField := r.a.extractLsb' 3 2 != 0 || r.b != 0 || r.k != 0 || badPeek }

/-- X-stream majors 42 and 43 (R135, R136): masks, queue and lane moves. -/
def rowMasks (r : RWord) : RowOr :=
  match r.op with
  | 0 => rowK3 .kand r
  | 1 => rowK3 .kor r
  | 2 => rowK3 .kxor r
  | 3 => rowK2 .knot r
  | 4 =>
    match r.pa, r.pb with
    | false, false => rowK2 .kmov r
    | true, false =>
      .ok { build := fun s _ => .kmovFromScalar ⟨r.d.extractLsb' 0 3, r.a, s⟩
            badVal := !maskW (r.d.extractLsb' 0 3)
            badField := r.d.extractLsb' 3 2 != 0 || r.b != 0 || r.k != 0 }
    | false, true => rowKTo .kmovToScalar r false
    | true, true => noSel
  | 5 => rowKTo .kpop r (r.pa || r.pb)
  | _ => noSel

/-- X-stream major 43 (R136). -/
def rowMoves (r : RWord) : RowOr :=
  let plain := r.b != 0 || r.k != 0 || r.pa || r.pb
  match r.op with
  | 0 => .ok { build := fun s _ => .qdrop ⟨r.a, s⟩, badVal := !popQ r.a, badField := r.d != 0 || plain }
  | 1 => .ok { build := fun s _ => .qcnt ⟨r.d, r.a, s⟩, badField := plain }
  | 2 => .ok { build := fun s _ => .vext ⟨r.d, r.a, r.b, r.pa, s⟩, badVal := !popQ r.a, badField := r.k != 0 || r.pb }
  | 3 => rowV2n .vins r r.pb
  | 4 => .ok { build := fun s _ => .vmovs ⟨r.d, r.a, r.k, s⟩, badVal := !pushQ r.d
               badField := r.b != 0 || r.pa || r.pb }
  | 5 => .ok { build := fun s _ => .vsett ⟨r.d, r.a, s⟩, badField := plain }
  | _ => noSel

/-- X-stream majors 32 to 63 (R58). -/
def rowX (r : RWord) : RowOr :=
  match r.major.toNat with
  | 32 => match r.op with
    | 0 => rowV3 .vadd r
    | 1 => rowV3 .vsub r
    | 2 => rowV3 .vmul r
    | 3 => rowV3 .vmulh r
    | 4 => rowV3 .vand r
    | 5 => rowV3 .vor r
    | 6 => rowV3 .vxor r
    | 7 => rowV3 .vshl r
    | 8 => rowV3 .vshr r
    | 9 => rowV3 .vsra r
    | 10 => rowV3 .vmin r
    | 11 => rowV3 .vmax r
    | 12 => rowV3 .vminu r
    | 13 => rowV3 .vmaxu r
    | _ => noSel
  | 33 => match r.op with
    | 0 => rowV3 .vfadd r
    | 1 => rowV3 .vfsub r
    | 2 => rowV3 .vfmul r
    | 3 => rowV3 .vfmin r
    | 4 => rowV3 .vfmax r
    | 5 => rowV2 .vfabs r
    | 6 => rowV2 .vfneg r
    | _ => noSel
  | 34 => .ok { build := fun s _ => .vfma ⟨r.d, r.a, r.b, r.fn.extractLsb' 4 5, r.fn.extractLsb' 1 3,
                  r.fn.getLsbD 0, s⟩
                badVal := !(pushQ r.d && popQ r.a && popQ r.b && popQ (r.fn.extractLsb' 4 5)) }
  | 35 => match r.op with
    | 0 => .ok { build := fun s _ => .vcvt ⟨r.d, r.a, r.b.extractLsb' 0 3, r.k, r.pa, s⟩
                 badVal := !(pushQ r.d && popQ r.a), badField := r.b.extractLsb' 3 2 != 0 || r.pb }
    | 1 => rowV3 .vpack r
    | 2 => .ok { build := fun s _ => .vunpack ⟨r.d, r.a, r.b.getLsbD 0, r.k, r.pa, r.pb, s⟩
                 badVal := !(pushQ r.d && popQ r.a), badField := r.b.extractLsb' 1 4 != 0 }
    | 3 => rowV2n .vbscale r r.pb
    | _ => noSel
  | 36 => match r.op with
    | 0 => rowV2 .vrsum r
    | 1 => rowV2 .vrmax r
    | 2 => rowV2 .vrmin r
    | 3 => rowV2 .vrargmax r
    | 4 => rowV2 .vscan r
    | _ => noSel
  | 37 => match r.op with
    | 0 => rowV3 .vshuf r
    | 1 => rowV2n .vbcast r r.pb
    | 2 => if r.pb then rowV2n .vslideDn r false else rowV2n .vslideUp r false
    | 3 => rowV2 .vcompress r
    | _ => noSel
  | 38 => .ok { build := fun s _ => .vfunc ⟨r.d, r.a, r.k, r.pa, r.fn.extractLsb' 0 4, s⟩
                badVal := !(pushQ r.d && popQ r.a), badField := r.b != 0 || r.pb }
  | 39 => .ok { build := fun s _ => .tsel ⟨r.fn.extractLsb' 0 4, s⟩
                badField := r.d != 0 || r.a != 0 || r.b != 0 || r.k != 0 || r.pa || r.pb }
  | 40 => match r.op with
    | 0 =>
      let go (c : VRnd → Instr) : RowOr :=
        .ok { build := fun s _ => c ⟨r.d, r.a, r.b, r.k, s⟩, badVal := !pushQ r.d, badField := r.pb }
      if r.pa then go .vrandU else go .vrand
    | _ => noSel
  | 41 => match r.op with
    | 0 => rowVCmp .vconf r
    | _ => noSel
  | 42 => rowMasks r
  | 43 => rowMoves r
  | 44 => match r.op with
    | 0 => rowVCmp .vfcmpEq r
    | 1 => rowVCmp .vfcmpLt r
    | 2 => rowVCmp .vfcmpLe r
    | 3 => rowVCmp .vfcmpUn r
    | 4 => rowVCmp .vicmpEq r
    | 5 => rowVCmp .vicmpLt r
    | 6 => rowVCmp .vicmpLe r
    | 7 => rowVCmp .vicmpLtu r
    | 8 => rowVCmp .vicmpLeu r
    | 9 => rowV3 .vsel r
    | _ => noSel
  | _ => noMajor

/-- The opcode map of a stream; `x` is the X-stream (R54 to R58). -/
def rowOf (x : Bool) (r : RWord) : RowOr :=
  if r.major.toNat < 32 then rowShared r else if x then rowX r else rowC r

/-- An instruction of a row's word, its checks in the order of R60. The tail is that of the next word where E = 1. -/
def Row.decode (row : Row) (r : RWord) (tail : Word) : Except EncFault Instr :=
  if row.badVal || (r.e && tailBadScope tail) then .error .reservedValue
  else if r.e && !row.tailed then .error .unexpectedTail
  else if row.badField || (r.e && (tailBadField tail || row.badTail (Tail.ofWord tail))) then .error .reservedField
  else .ok (row.build r.s (if r.e then some (Tail.ofWord tail) else none))

/-- The instruction of the fields `r`, with the word that follows it. -/
def decodeR (x : Bool) (r : RWord) (tail : Word) : Except EncFault Instr :=
  match rowOf x r with
  | .error f => .error f
  | .ok row => row.decode r tail

/-- The instruction of a word of a stream, with the word that follows it (read where E = 1). -/
def decodeWord (x : Bool) (w tail : Word) : Except EncFault Instr := decodeR x (RWord.ofWord w) tail

/-- An instruction's fields and tail, and the stream whose map it belongs to (none where both have it). -/
structure Enc where
  stream : Option Bool
  word : RWord
  tail : Option Tail
  deriving DecidableEq, Repr

/-- A word that takes no tail. -/
def encP (x : Option Bool) (m : BitVec 6) (d a b : Reg) (fn : BitVec 9) (s : Bool) : Option Enc :=
  some ⟨x, ⟨m, d, a, b, fn, false, s⟩, none⟩

/-- A queued command. -/
def encT (m : BitVec 6) (c0 c1 c2 : Reg) (fn : BitVec 9) (t : Option Tail) (s : Bool) : Option Enc :=
  some ⟨some false, ⟨m, c0, c1, c2, fn, t.isSome, s⟩, t⟩

/-- A word whose bits [15:2] are one field. -/
def encI (x : Option Bool) (m : BitVec 6) (d a : Reg) (imm : BitVec 14) (s : Bool) : Option Enc :=
  encP x m d a (imm.extractLsb' 9 5) (imm.extractLsb' 0 9) s

/-- Format V: fn is k, the two bits and the op. -/
def fnV (k : MaskReg) (pa pb : Bool) (op : BitVec 4) : BitVec 9 :=
  k ++ BitVec.ofBool pa ++ BitVec.ofBool pb ++ op

/-- A selector with modifier bits (R54). -/
def fnS (sel : BitVec 4) (mods : BitVec 5) : BitVec 9 := sel ++ mods

/-- A mask number in a 5-bit field. -/
def maskField (k : MaskReg) : Reg := (0 : BitVec 2) ++ k

/-- Major 0. -/
def enc0 (o : R3) (fn : BitVec 9) : Option Enc := encP none 0 o.d o.a o.b fn o.stop

/-- A branch. -/
def encB (m : BitVec 6) (o : RBr) : Option Enc := encI none m o.a o.b o.off o.stop

/-- A C-stream word with d, a and b. -/
def encC3 (m : BitVec 6) (o : R3) (sel : BitVec 4) : Option Enc :=
  encP (some false) m o.d o.a o.b (fnS sel 0) o.stop

/-- amo, integer. -/
def encAmo (o : RAmo) (sel : BitVec 4) : Option Enc :=
  encP (some false) 34 o.d o.a o.b
    (fnS sel (BitVec.ofBool o.dbl ++ BitVec.ofBool o.acquire ++ BitVec.ofBool o.release ++ o.scope)) o.stop

/-- amo, FP32. -/
def encAmoF (o : RAmoF) (sel : BitVec 4) : Option Enc :=
  encP (some false) 34 o.d o.a o.b
    (fnS sel (BitVec.ofBool false ++ BitVec.ofBool o.acquire ++ BitVec.ofBool o.release ++ o.scope)) o.stop

/-- A copy command. -/
def encCopy (o : CCopy) (sel : BitVec 4) (mode : BitVec 2) : Option Enc :=
  encT 37 o.c0 o.c1 o.c2 (fnS sel (mode ++ o.ch)) o.tail o.stop

/-- Format V, two source queues. -/
def encV3 (m : BitVec 6) (o : V3) (op : BitVec 4) : Option Enc :=
  encP (some true) m o.d o.a o.b (fnV o.k o.pa o.pb op) o.stop

/-- Format V, one source queue. -/
def encV2 (m : BitVec 6) (o : V2) (op : BitVec 4) : Option Enc :=
  encP (some true) m o.d o.a 0 (fnV o.k o.pa false op) o.stop

/-- Format V, one source queue and a number. -/
def encV2n (m : BitVec 6) (o : V2n) (pb : Bool) (op : BitVec 4) : Option Enc :=
  encP (some true) m o.d o.a o.b (fnV o.k o.pa pb op) o.stop

/-- Format V, a compare. -/
def encVCmp (m : BitVec 6) (o : VCmp) (op : BitVec 4) : Option Enc :=
  encP (some true) m (maskField o.d) o.a o.b (fnV o.k o.pa o.pb op) o.stop

/-- Format V, three masks. -/
def encK3 (o : K3) (op : BitVec 4) : Option Enc :=
  encP (some true) 42 (maskField o.d) (maskField o.a) (maskField o.b) (fnV 0 false false op) o.stop

/-- The fields of an instruction, from the encoding tables of the manual; an event has no word. -/
def encode : Instr → Option Enc
  | .add o => enc0 o 0x000
  | .sub o => enc0 o 0x001
  | .and o => enc0 o 0x002
  | .or o => enc0 o 0x003
  | .xor o => enc0 o 0x004
  | .shl o => enc0 o 0x005
  | .shr o => enc0 o 0x006
  | .sra o => enc0 o 0x007
  | .mul o => enc0 o 0x008
  | .mulh o => enc0 o 0x009
  | .mulhu o => enc0 o 0x00A
  | .div o => enc0 o 0x00B
  | .divu o => enc0 o 0x00C
  | .rem o => enc0 o 0x00D
  | .remu o => enc0 o 0x00E
  | .min o => enc0 o 0x00F
  | .max o => enc0 o 0x010
  | .minu o => enc0 o 0x011
  | .maxu o => enc0 o 0x012
  | .slt o => enc0 o 0x013
  | .sltu o => enc0 o 0x014
  | .clz o => encP none 0 o.d o.a 0 0x015 o.stop
  | .popc o => encP none 0 o.d o.a 0 0x016 o.stop
  | .addi o => encI none 1 o.d o.a o.imm o.stop
  | .andi o => encI none 2 o.d o.a o.imm o.stop
  | .ori o => encI none 3 o.d o.a o.imm o.stop
  | .xori o => encI none 4 o.d o.a o.imm o.stop
  | .shli o => encI none 5 o.d o.a ((0 : BitVec 2) ++ (0 : BitVec 6) ++ o.n) o.stop
  | .shri o => encI none 5 o.d o.a ((1 : BitVec 2) ++ (0 : BitVec 6) ++ o.n) o.stop
  | .srai o => encI none 5 o.d o.a ((2 : BitVec 2) ++ (0 : BitVec 6) ++ o.n) o.stop
  | .slti o => encI none 6 o.d o.a ((0 : BitVec 1) ++ o.imm) o.stop
  | .sltiu o => encI none 6 o.d o.a ((1 : BitVec 1) ++ o.imm) o.stop
  | .lui o => encP none 7 o.d (o.imm.extractLsb' 14 5) (o.imm.extractLsb' 9 5) (o.imm.extractLsb' 0 9) o.stop
  | .auipc o => encP none 8 o.d (o.imm.extractLsb' 14 5) (o.imm.extractLsb' 9 5) (o.imm.extractLsb' 0 9) o.stop
  | .lea o => encP none 9 o.d o.a o.b ((0 : BitVec 7) ++ o.sh) o.stop
  | .beq o => encB 10 o
  | .bne o => encB 11 o
  | .blt o => encB 12 o
  | .bge o => encB 13 o
  | .bltu o => encB 14 o
  | .bgeu o => encB 15 o
  | .jal o => encP none 16 (o.off.extractLsb' 19 5) (o.off.extractLsb' 14 5) (o.off.extractLsb' 9 5)
      (o.off.extractLsb' 0 9) o.stop
  | .jalr o => encI none 17 o.d o.a o.imm o.stop
  | .loop o => encI none 18 o.a 0 o.off o.stop
  | .loopi o => encI none 19 (o.n.extractLsb' 5 5) (o.n.extractLsb' 0 5) o.off o.stop
  | .cqpush o => encP none 20 0 o.a 0 (fnS 0 0) o.stop
  | .cqpop o => encP none 20 o.d 0 0 (fnS 1 0) o.stop
  | .csrr o => encI none 21 o.d 0 (o.csr ++ (0 : BitVec 2)) o.stop
  | .csrw o => encI none 21 o.d o.a (o.csr ++ (1 : BitVec 2)) o.stop
  | .csrs o => encI none 21 o.d o.a (o.csr ++ (2 : BitVec 2)) o.stop
  | .csrc o => encI none 21 o.d o.a (o.csr ++ (3 : BitVec 2)) o.stop
  | .nop o => encP none 22 0 0 0 (fnS 0 0) o.stop
  | .trap o => encP none 22 0 0 0 (fnS 1 o.code) o.stop
  | .eret o => encP none 22 0 0 0 (fnS 2 0) o.stop
  | .brk o => encP none 22 0 0 0 (fnS 3 o.code) o.stop
  | .wait o => encP none 22 0 o.a 0 (fnS 4 0) o.stop
  | .ld o => encI (some false) 32 o.d o.base
      ((0 : BitVec 1) ++ BitVec.ofBool o.se ++ o.size ++ (0 : BitVec 3) ++ o.imm) o.stop
  | .st o => encI (some false) 33 o.d o.base
      ((0 : BitVec 1) ++ BitVec.ofBool o.deflt ++ o.size ++ o.colour ++ o.imm) o.stop
  | .amoAdd o => encAmo o 0
  | .amoAnd o => encAmo o 1
  | .amoOr o => encAmo o 2
  | .amoXor o => encAmo o 3
  | .amoSwap o => encAmo o 4
  | .amoMin o => encAmo o 5
  | .amoMax o => encAmo o 6
  | .amoMinu o => encAmo o 7
  | .amoMaxu o => encAmo o 8
  | .amoCas o => encAmo o 9
  | .amoFadd o => encAmoF o 10
  | .amoFmin o => encAmoF o 11
  | .amoFmax o => encAmoF o 12
  | .fence o =>
    let top : BitVec 15 := o.mask ++ o.scope ++ (0 : BitVec 4)
    encP (some false) 35 (top.extractLsb' 10 5) (top.extractLsb' 5 5) (top.extractLsb' 0 5) (fnS 0 0) o.stop
  | .cinv o => encP (some false) 35 0 o.a o.b (fnS 1 0) o.stop
  | .cwb o => encP (some false) 35 0 o.a o.b (fnS 2 0) o.stop
  | .l2hint o => encP (some false) 35 0 o.a o.b (fnS 3 0) o.stop
  | .l2hintDemote o => encP (some false) 35 0 o.a o.b (fnS 3 4) o.stop
  | .qrd o => encC3 36 o 0
  | .qrdh o => encC3 36 o 1
  | .qwr o => encC3 36 o 2
  | .xld o => encCopy o 0 0
  | .xldDec o => encCopy o 0 1
  | .xldVfy o => encCopy o 0 2
  | .xst o => encCopy o 1 0
  | .xcp o => encCopy o 2 0
  | .xcpScl o => encCopy o 2 1
  | .xcpVfy o => encCopy o 2 2
  | .xdrain o => encP (some false) 37 0 0 0 (fnS 3 ((0 : BitVec 2) ++ o.ch)) o.stop
  | .xcur o => encP (some false) 37 o.d 0 0 (fnS 4 ((0 : BitVec 4) ++ BitVec.ofBool o.store)) o.stop
  | .xcfg o => encP (some false) 37 o.d o.a 0 (fnS 5 ((0 : BitVec 2) ++ o.ch)) o.stop
  | .mlw o => encT 38 o.c0 0 0 (fnS 0 ((0 : BitVec 4) ++ BitVec.ofBool o.tr)) o.tail o.stop
  | .mswap o => encT 38 0 0 0 (fnS 1 0) o.tail o.stop
  | .mmul o => encT 38 o.c0 o.c1 0
      (fnS 2 ((0 : BitVec 2) ++ BitVec.ofBool o.tr ++ BitVec.ofBool o.last ++ BitVec.ofBool o.first)) o.tail o.stop
  | .mmulSmax o => encT 38 o.c0 o.c1 o.c2 (fnS 2 8) o.tail o.stop
  | .mst o => encT 38 o.c0 o.c1 0
      (fnS 3 ((0 : BitVec 2) ++ BitVec.ofBool o.side ++ BitVec.ofBool o.nsat ++ BitVec.ofBool o.rtz)) o.tail o.stop
  | .mzero o => encT 38 o.c0 0 0 (fnS 4 0) o.tail o.stop
  | .mlora o => encT 38 o.c0 o.c1 0 (fnS 5 0) o.tail o.stop
  | .mloraClr o => encT 38 0 o.c1 0 (fnS 5 1) o.tail o.stop
  | .mamap o => encT 38 o.c0 o.c1 o.c2 (fnS 6 0) o.tail o.stop
  | .mfuse o => encT 38 0 0 0 (fnS 7 ((0 : BitVec 3) ++ o.shape)) o.tail o.stop
  | .mfuseOff o => encT 38 0 0 0 (fnS 7 0) o.tail o.stop
  | .attn o => encT 39 o.c0 0 0 (fnS 0 0) o.tail o.stop
  | .hview o => encC3 40 o 0
  | .hchk o => encC3 40 o 1
  | .hqry o => encC3 40 o 2
  | .balloc o => encC3 41 o 0
  | .bfree o => encP (some false) 41 o.d o.a 0 (fnS 1 0) o.stop
  | .btrim o => encC3 41 o 2
  | .bfork o => encC3 41 o 3
  | .bstat o => encC3 41 o 4
  | .bkfill o => encT 41 o.c0 o.c1 o.c2 (fnS 5 0) o.tail o.stop
  | .aadmit o => encP (some false) 42 o.d o.a 0 (fnS 0 0) o.stop
  | .aresolve o => encC3 42 o 1
  | .arel o => encP (some false) 42 0 o.a 0 (fnS 2 0) o.stop
  | .apublish o => encC3 42 o 3
  | .aclaim o => encC3 42 o 4
  | .probe o => encI (some false) 43 o.d o.a ((0 : BitVec 1) ++ o.off) o.stop
  | .pinv o => encI (some false) 43 o.d o.a ((1 : BitVec 1) ++ (0 : BitVec 13)) o.stop
  | .phreg o => encP (some false) 44 0 o.a o.b (fnS 0 0) o.stop
  | .phdrop o => encP (some false) 44 0 o.a 0 (fnS 1 0) o.stop
  | .phsig o => encP (some false) 44 0 o.a 0 (fnS 2 0) o.stop
  | .phwait o => encP (some false) 44 0 o.a 0 (fnS 3 0) o.stop
  | .phadv o => encP (some false) 44 0 o.a 0 (fnS 4 0) o.stop
  | .phqry o => encP (some false) 44 o.d o.a 0 (fnS 5 0) o.stop
  | .phqryM o => encP (some false) 44 o.d o.a 0 (fnS 5 1) o.stop
  | .semset o => encP (some false) 45 0 o.a o.b (fnS 0 o.n) o.stop
  | .semsig o => encP (some false) 45 0 0 0 (fnS 1 o.n) o.stop
  | .semwait o => encP (some false) 45 0 0 0 (fnS 2 o.n) o.stop
  | .semrd o => encP (some false) 45 o.d 0 0 (fnS 3 o.n) o.stop
  | .nyield o => encP (some false) 46 0 o.a o.b (fnS 0 0) o.stop
  | .ndone o => encP (some false) 46 0 0 0 (fnS 1 0) o.stop
  | .ndoneAbort o => encP (some false) 46 0 o.a 0 (fnS 1 1) o.stop
  | .npark o => encP (some false) 46 0 o.a o.b (fnS 2 0) o.stop
  | .nspawn o => encC3 46 o 3
  | .ndep o => encP (some false) 46 o.d o.a 0 (fnS 4 0) o.stop
  | .ndepRel o => encP (some false) 46 o.d o.a 0 (fnS 4 1) o.stop
  | .grpjoin o => encP (some false) 46 0 o.a o.b (fnS 5 0) o.stop
  | .grpleave o => encP (some false) 46 0 0 0 (fnS 6 0) o.stop
  | .tload o => encT 47 o.c0 o.c1 0 (fnS 0 ((0 : BitVec 4) ++ BitVec.ofBool o.sp)) o.tail o.stop
  | .tinval o => encT 47 0 o.c1 0 (fnS 1 0) o.tail o.stop
  | .tinvalSh o => encT 47 0 o.c1 0 (fnS 1 1) o.tail o.stop
  | .tqry o => encP (some false) 47 o.d o.a 0 (fnS 2 0) o.stop
  | .vadd o => encV3 32 o 0
  | .vsub o => encV3 32 o 1
  | .vmul o => encV3 32 o 2
  | .vmulh o => encV3 32 o 3
  | .vand o => encV3 32 o 4
  | .vor o => encV3 32 o 5
  | .vxor o => encV3 32 o 6
  | .vshl o => encV3 32 o 7
  | .vshr o => encV3 32 o 8
  | .vsra o => encV3 32 o 9
  | .vmin o => encV3 32 o 10
  | .vmax o => encV3 32 o 11
  | .vminu o => encV3 32 o 12
  | .vmaxu o => encV3 32 o 13
  | .vfadd o => encV3 33 o 0
  | .vfsub o => encV3 33 o 1
  | .vfmul o => encV3 33 o 2
  | .vfmin o => encV3 33 o 3
  | .vfmax o => encV3 33 o 4
  | .vfabs o => encV2 33 o 5
  | .vfneg o => encV2 33 o 6
  | .vfma o => encP (some true) 34 o.d o.a o.b (o.c ++ o.k ++ BitVec.ofBool o.neg) o.stop
  | .vcvt o => encP (some true) 35 o.d o.a ((0 : BitVec 2) ++ o.part) (fnV o.k o.pa false 0) o.stop
  | .vpack o => encV3 35 o 1
  | .vunpack o => encP (some true) 35 o.d o.a ((0 : BitVec 4) ++ BitVec.ofBool o.part) (fnV o.k o.pa o.h 2) o.stop
  | .vbscale o => encV2n 35 o false 3
  | .vrsum o => encV2 36 o 0
  | .vrmax o => encV2 36 o 1
  | .vrmin o => encV2 36 o 2
  | .vrargmax o => encV2 36 o 3
  | .vscan o => encV2 36 o 4
  | .vshuf o => encV3 37 o 0
  | .vbcast o => encV2n 37 o false 1
  | .vslideUp o => encV2n 37 o false 2
  | .vslideDn o => encV2n 37 o true 2
  | .vcompress o => encV2 37 o 3
  | .vfunc o => encP (some true) 38 o.d o.a 0 (fnV o.k o.pa false o.slot) o.stop
  | .tsel o => encP (some true) 39 0 0 0 (fnV 0 false false o.slot) o.stop
  | .vrand o => encP (some true) 40 o.d o.a o.b (fnV o.k false false 0) o.stop
  | .vrandU o => encP (some true) 40 o.d o.a o.b (fnV o.k true false 0) o.stop
  | .vconf o => encVCmp 41 o 0
  | .kand o => encK3 o 0
  | .kor o => encK3 o 1
  | .kxor o => encK3 o 2
  | .knot o => encP (some true) 42 (maskField o.d) (maskField o.a) 0 (fnV 0 false false 3) o.stop
  | .kmov o => encP (some true) 42 (maskField o.d) (maskField o.a) 0 (fnV 0 false false 4) o.stop
  | .kmovFromScalar o => encP (some true) 42 (maskField o.d) o.a 0 (fnV 0 true false 4) o.stop
  | .kmovToScalar o => encP (some true) 42 o.d (maskField o.a) 0 (fnV 0 false true 4) o.stop
  | .kpop o => encP (some true) 42 o.d (maskField o.a) 0 (fnV 0 false false 5) o.stop
  | .qdrop o => encP (some true) 43 0 o.a 0 (fnV 0 false false 0) o.stop
  | .qcnt o => encP (some true) 43 o.d o.a 0 (fnV 0 false false 1) o.stop
  | .vext o => encP (some true) 43 o.d o.a o.lane (fnV 0 o.pa false 2) o.stop
  | .vins o => encV2n 43 o false 3
  | .vmovs o => encP (some true) 43 o.d o.a 0 (fnV o.k false false 4) o.stop
  | .vsett o => encP (some true) 43 o.d o.a 0 (fnV 0 false false 5) o.stop
  | .vfcmpEq o => encVCmp 44 o 0
  | .vfcmpLt o => encVCmp 44 o 1
  | .vfcmpLe o => encVCmp 44 o 2
  | .vfcmpUn o => encVCmp 44 o 3
  | .vicmpEq o => encVCmp 44 o 4
  | .vicmpLt o => encVCmp 44 o 5
  | .vicmpLe o => encVCmp 44 o 6
  | .vicmpLtu o => encVCmp 44 o 7
  | .vicmpLeu o => encVCmp 44 o 8
  | .vsel o => encV3 44 o 9
  | .fetchPastEnd | .siblingTrap _ _ | .engineFaultDelivery _ | .eqdropWrite _ _ | .commandStart _ _
  | .timedIssue _ _ | .scheduleMiss _ _ | .commandRetire _ _ | .copyChunk _ _ | .decryptStep _ | .tloadUnit _
  | .tinvalEffect _ | .mlwRow _ | .mswapExchange _ | .mmulRow _ | .mmulSmaxRow _ | .sideCorrection _
  | .mstRow _ | .mzeroEffect _ | .mamapEffect _ | .mloraRow _ | .mloraClrEffect _ | .mfuseStanding _
  | .mfuseOffEffect _ | .attnChunk _ | .attnOutputStep _ | .bkfillAccept _ | .l1Eviction _ _
  | .rowFillComplete _ _ | .probeFillComplete _ _ | .pageFaultDeadline _ | .frozenGroupPreemption _
  | .writeSerialise _ | .remoteWriteApply _ _ | .graphLaunch _ _ | .nodeDispatch _ | .forcedPreemption _
  | .waitPreemption _ | .operatorOverrun _ | .parkTimeWake _ | .eventRecordWrite _ _ | .ringFaultRetry _ _
  | .eventCoalesceTimeout _ _ | .hangDetect _ | .crucibleGuarantee | .adapterLoadComplete _ _
  | .adapterFillQuotaTick _ | .reduce _ _ | .scrubVisit _ _ | .weightRestore _ | .registerWrite _
  | .sqDoorbell _ _ _ | .sqReset _ _ | .erheadWrite _ _ _ | .resumeWrite _ _ | .adcmdEvict _ _
  | .adcmdRetire _ _ | .bar2Access _ | .create _ | .teardown _ | .setField _ | .getField _ | .suspend _
  | .resume _ | .migrateStart _ | .migrateStop _ | .setGrade _ | .clearKeys _ | .resolveRetry _
  | .resolveFail _ | .shootdown | .shootdownDone | .migrationSettle _ | .migrationDeadline _ | .keyLoad _
  | .keyClear _ | .lockInterfaceRequest _ | .startInterfaceRequest _ | .stopInterface _
  | .getDeviceInterfaceReport _ | .ideKm _ _ _ | .getVersion | .getCapabilities | .negotiateAlgorithms
  | .getDigests | .getCertificate | .challenge _ | .getMeasurements _ | .keyExchange _ _ _ | .finish _ _
  | .endSession _ | .boot | .debugAttach _ | .debugHalt _ | .debugContextWrite _ _ | .debugResume _
  | .debugSingleStep _ _ | .throttleChange _ _ | .dieTrip _ | .coolantLoss | .cxlLinkDown _ | .badFlit _ _
  | .replayRequest _ _ | .read _ _ | .readRsp _ _ | .write _ _ | .writeAck _ _ | .amo _ _ | .amoRsp _ _
  | .reduceAck _ _ | .migrate _ _ | .mgmt _ _ | .linkctl _ _ | .reservedMessage _ _ | .illegalOpcode _ _
  | .badOpcode _ | .idleFlit _ _ | .tripClear _ | .baseModelReplace _ | .ideCheckFailure _ => none

/-- The words of an instruction: its word, and its tail where it has one (R43). -/
def encodeWords (i : Instr) : List Word :=
  match encode i with
  | none => []
  | some e => e.word.toWord :: e.tail.toList.map Tail.toWord

/-- The stream map an encoded instruction is read under: the X-stream's for its private words, else the C-stream's. -/
def Instr.xMap (i : Instr) : Bool := match encode i with
  | some e => e.stream.getD false
  | none => false

/-- The instruction that the decoder reads from `w`, laid out as 32-bit words from bit 0; the second word is the
tail. The word carries no stream: it is read in the C-stream's map, and where that refuses it, in the X-stream's
(log entry 3, DESIGN CHOICE). -/
def decodeTableWord (_nbits w : Nat) : Option Instr :=
  let w0 := BitVec.ofNat 32 w
  let w1 := BitVec.ofNat 32 (w >>> 32)
  match decodeWord false w0 w1 with
  | .ok i => some i
  | .error _ =>
    match decodeWord true w0 w1 with
    | .ok i => some i
    | .error _ => none

end Sys2Proof
end

