-- ==== Sys2Proof/Machine/Map.lean ====
section
/-! DEFINITION. Sparse tables: lookup and update in the canonical form (strictly rising keys, no entry equal to the
table's default). -/

namespace Sys2Proof

/-- The entry of key `k`, or the default. -/
def SMap.get {α : Type} (d : α) (m : SMap α) (k : Nat) : α := (m.lookup k).getD d

/-- Inserts a pair before the first larger key. -/
def SMap.insert {α : Type} (k : Nat) (v : α) : SMap α → SMap α
  | [] => [(k, v)]
  | (j, w) :: t => if k < j then (k, v) :: (j, w) :: t else (j, w) :: SMap.insert k v t

/-- Removes a key. -/
def SMap.erase {α : Type} (m : SMap α) (k : Nat) : SMap α := m.filter fun p => p.1 != k

/-- The table with `v` at key `k`; a default is not listed. -/
def SMap.set {α : Type} [DecidableEq α] (d : α) (m : SMap α) (k : Nat) (v : α) : SMap α :=
  if v = d then m.erase k else SMap.insert k v (m.erase k)

/-- The table with the entry of `k` changed by `f`. -/
def SMap.upd {α : Type} [DecidableEq α] (d : α) (m : SMap α) (k : Nat) (f : α → α) : SMap α :=
  m.set d k (f (m.get d k))

/-- The canonical form. -/
def SMap.wf {α : Type} [DecidableEq α] (d : α) : SMap α → Bool
  | [] => true
  | [(_, v)] => decide (v ≠ d)
  | (k, v) :: (j, w) :: t => decide (k < j) && decide (v ≠ d) && SMap.wf d ((j, w) :: t)

/-- A key that the table does not list above any it does. -/
def SMap.fresh {α : Type} (m : SMap α) : Nat := (m.getLast?.map fun p => p.1 + 1).getD 0

/-- The byte at an address: 0 where nothing is listed. -/
def Memory.byte (m : Memory) (a : Nat) : Byte := SMap.get (0 : Byte) m a

/-- `n` bytes from an address. -/
def Memory.read (m : Memory) (a n : Nat) : List Byte := (List.range n).map fun i => Memory.byte m (a + i)

/-- Bytes stored from an address on. -/
def Memory.write (m : Memory) (a : Nat) : List Byte → Memory
  | [] => m
  | b :: t => Memory.write (SMap.set (0 : Byte) m a b) (a + 1) t

/-- The canonical form of a byte memory. -/
def Memory.wf (m : Memory) : Bool := SMap.wf (0 : Byte) m

/-- Little-endian bytes as a number (R8). -/
def leNat : List Byte → Nat
  | [] => 0
  | b :: t => b.toNat + 256 * leNat t

/-- The `n` little-endian bytes of a number (R8). -/
def leBytes : Nat → Nat → List Byte
  | 0, _ => []
  | n + 1, v => BitVec.ofNat 8 v :: leBytes n (v / 256)

/-- The little-endian field of `n` bytes at offset `o` of a byte map. -/
def field (bs : List Byte) (o n : Nat) : Nat := leNat ((bs.drop o).take n)

/-- Replaces the bytes from offset `o` of a byte map. -/
def putBytes (bs : List Byte) (o : Nat) (v : List Byte) : List Byte :=
  bs.take o ++ v ++ bs.drop (o + v.length)

/-- Bits [hi:lo] of a number. -/
def bitsOf (v hi lo : Nat) : Nat := v / 2 ^ lo % 2 ^ (hi + 1 - lo)

/-- Bit `i` of a number. -/
def bitOf (v i : Nat) : Bool := v.testBit i

/-- A number as a signed one of `w` bits. -/
def signed (w v : Nat) : Int := (BitVec.ofNat w v).toInt

/-- The quotient rounded up. -/
def ceilDiv (a b : Nat) : Nat := (a + b - 1) / b

/-- The list with its entry `i` replaced. -/
def setAt {α : Type} (l : List α) (i : Nat) (v : α) : List α := l.set i v

end Sys2Proof
end

