-- ==== Sys2Proof/Machine/Fp.lean ====
section
/-! DEFINITION. Number formats and exact arithmetic (chapter 01): decoding, the one rounding, and the helper functions
of R32. A finite value is a sign, a magnitude and a power of two, so every sum and product here is exact. -/

namespace Sys2Proof.Fp

/-- The floating-point element formats (R13). -/
inductive Fmt where
  | fp32
  | bf16
  | e4m3
  | e5m2
  | e2m1
  deriving DecidableEq, Repr

/-- Mantissa width m (R13). -/
def Fmt.mant : Fmt → Nat
  | .fp32 => 23
  | .bf16 => 7
  | .e4m3 => 3
  | .e5m2 => 2
  | .e2m1 => 1

/-- Exponent width (R13). -/
def Fmt.expw : Fmt → Nat
  | .fp32 => 8
  | .bf16 => 8
  | .e4m3 => 4
  | .e5m2 => 5
  | .e2m1 => 2

/-- Exponent bias (R13). -/
def Fmt.bias : Fmt → Nat
  | .fp32 => 127
  | .bf16 => 127
  | .e4m3 => 7
  | .e5m2 => 15
  | .e2m1 => 1

/-- Width in bits (R13). -/
def Fmt.bits (f : Fmt) : Nat := f.expw + f.mant + 1

/-- The encoding of the largest finite magnitude (R13). -/
def Fmt.maxFinite : Fmt → Nat
  | .fp32 => 0x7F7FFFFF
  | .bf16 => 0x7F7F
  | .e4m3 => 0x7E
  | .e5m2 => 0x7B
  | .e2m1 => 0x7

/-- The canonical NaN (R14); E2M1 has none, and delivers +0 (R28). -/
def Fmt.nan : Fmt → Nat
  | .fp32 => 0x7FC00000
  | .bf16 => 0x7FC0
  | .e4m3 => 0x7F
  | .e5m2 => 0x7E
  | .e2m1 => 0

/-- The exponent of the smallest normal value. -/
def Fmt.emin (f : Fmt) : Int := 1 - (f.bias : Int)

/-- The sign bit of an encoding. -/
def Fmt.signBit (f : Fmt) (neg : Bool) : Nat := if neg then 2 ^ (f.bits - 1) else 0

/-- An exact value or a special (R32). `fin neg m e` is (-1)^neg × m × 2^e; a magnitude of 0 is a signed zero. -/
inductive Val where
  | nan (signalling : Bool)
  | inf (neg : Bool)
  | fin (neg : Bool) (m : Nat) (e : Int)
  deriving DecidableEq, Repr

/-- It is a NaN. -/
def Val.isNan : Val → Bool
  | .nan _ => true
  | _ => false

/-- It is a signalling NaN. -/
def Val.isSnan : Val → Bool
  | .nan s => s
  | _ => false

/-- It is an infinity. -/
def Val.isInf : Val → Bool
  | .inf _ => true
  | _ => false

/-- It is a zero of either sign. -/
def Val.isZero : Val → Bool
  | .fin _ m _ => m == 0
  | _ => false

/-- Its sign. -/
def Val.neg : Val → Bool
  | .nan _ => false
  | .inf n => n
  | .fin n _ _ => n

/-- The all-ones exponent field is special: an infinity or a NaN by its mantissa (R14). -/
def specialOf (f : Fmt) (neg : Bool) (mt : Nat) : Option Val :=
  match f with
  | .e4m3 => if mt = 7 then some (.nan false) else none
  | .e2m1 => none
  | .fp32 | .bf16 | .e5m2 => some (if mt = 0 then .inf neg else .nan (mt < 2 ^ (f.mant - 1)))

/-- Decode (R13, R14). -/
def decode (f : Fmt) (b : Nat) : Val :=
  let neg := b.testBit (f.bits - 1)
  let e := b / 2 ^ f.mant % 2 ^ f.expw
  let mt := b % 2 ^ f.mant
  let ordinary : Val :=
    if e = 0 then .fin neg mt (f.emin - f.mant) else .fin neg (2 ^ f.mant + mt) ((e : Int) - f.bias - f.mant)
  if e = 2 ^ f.expw - 1 then (specialOf f neg mt).getD ordinary else ordinary

/-- The value of an E8M0 scale (R15). -/
def decodeScale (b : Nat) : Val := if b % 256 = 0xFF then .nan false else .fin false 1 ((b % 256 : Nat) - 127)

/-- The rounding modes (R25). -/
inductive RMode where
  | rne
  | rtz
  | sr
  deriving DecidableEq, Repr

/-- A mode from its code; a reserved code is refused where it is written, and counts as RNE here (R25). -/
def RMode.ofCode : Nat → RMode
  | 1 => .rtz
  | 2 => .sr
  | _ => .rne

/-- The flags an operation raises (R30). -/
structure Flags where
  nv : Bool
  ovf : Bool
  deriving DecidableEq, Repr

/-- No flag. -/
def Flags.zero : Flags := ⟨false, false⟩

/-- Flags are sticky. -/
def Flags.or (a b : Flags) : Flags := ⟨a.nv || b.nv, a.ovf || b.ovf⟩

/-- A result with the flags that it raised. -/
structure Res where
  bits : Nat
  fl : Flags
  deriving DecidableEq, Repr

/-- OvfOut (R28, R29), with the encoding for a finite overflow or an infinite input. `nsat` has no effect on FP32 and
BF16. -/
def ovfOut (f : Fmt) (md : RMode) (nsat neg infinite : Bool) : Nat :=
  f.signBit neg +
    match f with
    | .fp32 => if md = .rtz && !infinite then 0x7F7FFFFF else 0x7F800000
    | .bf16 => if md = .rtz && !infinite then 0x7F7F else 0x7F80
    | .e4m3 => if nsat then 0x7F else 0x7E
    | .e5m2 => if nsat then 0x7C else 0x7B
    | .e2m1 => 0x7

/-- Whether an infinite source becomes something else than an infinity of its sign (R30). -/
def infLost (f : Fmt) (nsat : Bool) : Bool :=
  match f with
  | .fp32 | .bf16 => false
  | .e5m2 => !nsat
  | .e4m3 | .e2m1 => true

/-- The magnitude m × 2^e in quanta of 2^q, rounded by `md` (R26). -/
def roundQuanta (md : RMode) (rb m : Nat) (e q : Int) : Nat :=
  if q ≤ e then m * 2 ^ (e - q).toNat
  else
    let d := (q - e).toNat
    let n := m / 2 ^ d
    let r := m % 2 ^ d
    let up :=
      match md with
      | .rne => decide (2 ^ d < 2 * r) || (decide (2 * r = 2 ^ d) && n % 2 == 1)
      | .rtz => false
      | .sr => decide (2 ^ 16 ≤ r * 2 ^ 16 / 2 ^ d + rb % 2 ^ 16)
    if up then n + 1 else n

/-- An overflow under NSAT is invalid: into E2M1 by R29, and into E4M3 because it delivers a NaN (R30). -/
def nsatInvalid (f : Fmt) : Bool := f = .e4m3 || f = .e2m1

/-- Round (R26) with the flags of R29 and R30. `src` is the flag part that the source contributes. SR into FP32
rounds as RNE (R25). -/
def round (v : Val) (f : Fmt) (md : RMode) (nsat : Bool) (rb : Nat) : Res :=
  let md := if f = .fp32 && md = .sr then .rne else md
  match v with
  | .nan s => ⟨f.nan, ⟨s || f = .e2m1, false⟩⟩
  | .inf n => ⟨ovfOut f md nsat n true, ⟨nsatInvalid f && nsat, infLost f nsat⟩⟩
  | .fin n m e =>
    if m = 0 then ⟨f.signBit n, .zero⟩
    else
      let ex := max ((Nat.log2 m : Int) + e) f.emin
      let enc := (ex - f.emin).toNat * 2 ^ f.mant + roundQuanta md rb m e (ex - f.mant)
      if f.maxFinite < enc then ⟨ovfOut f md nsat n false, ⟨nsatInvalid f && nsat, true⟩⟩
      else ⟨f.signBit n + enc, .zero⟩

/-- RNE32 (R26). -/
def rne32 (v : Val) : Res := round v .fp32 .rne false 0

/-- SatFP8, NsatFP8, SatFP4 and RndBF16 are `round` at their format and policy (R32). -/
def rndBf16 (v : Val) (md : RMode) (rb : Nat) : Res := round v .bf16 md false rb

/-- m × 2^e as a signed count of 2^q, for q ≤ e. -/
def scaled (neg : Bool) (m : Nat) (e q : Int) : Int :=
  let n := (m * 2 ^ (e - q).toNat : Nat)
  if neg then -(n : Int) else n

/-- A signed count of 2^q as a value; zero is +0 (R24). -/
def ofScaled (s : Int) (q : Int) : Val := .fin (s < 0) s.natAbs q

/-- An exact sum of two values with the zero signs of R24; the sum of opposite infinities is a NaN. -/
def addV (x y : Val) : Val :=
  match x, y with
  | .nan s, .nan t => .nan (s || t)
  | .nan s, _ => .nan s
  | _, .nan s => .nan s
  | .inf n, .inf k => if n = k then .inf n else .nan false
  | .inf n, _ => .inf n
  | _, .inf n => .inf n
  | .fin n m e, .fin k l g =>
    if m = 0 && l = 0 then .fin (n && k) 0 0
    else
      let q := min e g
      ofScaled (scaled n m e q + scaled k l g q) q

/-- An exact product (R21, R24). -/
def mulV (x y : Val) : Val :=
  match x, y with
  | .nan s, .nan t => .nan (s || t)
  | .nan s, _ => .nan s
  | _, .nan s => .nan s
  | .inf n, .inf k => .inf (n != k)
  | .inf n, .fin k l _ => if l = 0 then .nan false else .inf (n != k)
  | .fin n m _, .inf k => if m = 0 then .nan false else .inf (n != k)
  | .fin n m e, .fin k l g => .fin (n != k) (m * l) (e + g)

/-- NV (R30): a signalling operand, or a NaN from operands none of which is a NaN. -/
def invalid (ops : List Val) (r : Val) : Bool := ops.any Val.isSnan || (r.isNan && !ops.any Val.isNan)

/-- An exact result rounded into a format, with the flags of the operation (R30). -/
def finish (f : Fmt) (nv : Bool) (v : Val) (md : RMode) : Res :=
  let r := round v f md false 0
  ⟨r.bits, ⟨nv, r.fl.ovf⟩⟩

/-- Addition of two encodings of a format, rounded once (R21 to R24, R120). -/
def fadd (f : Fmt) (md : RMode) (a b : Nat) : Res :=
  let x := decode f a
  let y := decode f b
  finish f (invalid [x, y] (addV x y)) (addV x y) md

/-- A value with its sign inverted. -/
def Val.flip : Val → Val
  | .nan s => .nan s
  | .inf n => .inf (!n)
  | .fin n m e => .fin (!n) m e

/-- Subtraction of two encodings of a format, rounded once. -/
def fsub (f : Fmt) (md : RMode) (a b : Nat) : Res :=
  let x := decode f a
  let y := (decode f b).flip
  finish f (invalid [x, y] (addV x y)) (addV x y) md

/-- Multiplication of two encodings of a format, rounded once. -/
def fmul (f : Fmt) (md : RMode) (a b : Nat) : Res :=
  let x := decode f a
  let y := decode f b
  finish f (invalid [x, y] (mulV x y)) (mulV x y) md

/-- a × b + c, the product negated where `neg`, rounded once (R122). 0 × ∞ raises NV whatever c is. -/
def ffma (f : Fmt) (md : RMode) (neg : Bool) (a b c : Nat) : Res :=
  let x := decode f a
  let y := decode f b
  let z := decode f c
  let p := if neg then (mulV x y).flip else mulV x y
  finish f (invalid [x, y] p || invalid [p, z] (addV p z)) (addV p z) md

/-- FAdd32 with its flags. -/
def fadd32 (a b : Nat) : Res := fadd .fp32 .rne a b

/-- FMul32 with its flags. -/
def fmul32 (a b : Nat) : Res := fmul .fp32 .rne a b

/-- FMA32 with its flags: one rounding of a × b + c. -/
def fma32 (a b c : Nat) (md : RMode) : Res := ffma .fp32 md false a b c

/-- x < y for finite or infinite values, with −0 below +0 (R40). -/
def Val.below (x y : Val) : Bool :=
  match x, y with
  | .nan _, _ => false
  | _, .nan _ => false
  | .inf n, .inf k => n && !k
  | .inf n, .fin _ _ _ => n
  | .fin _ _ _, .inf k => !k
  | .fin n m e, .fin k l g =>
    if m = 0 && l = 0 then n && !k
    else
      let q := min e g
      decide (scaled n m e q < scaled k l g q)

/-- FMin and FMax of two encodings of a format (R40). -/
def fminmax (f : Fmt) (wantMax : Bool) (a b : Nat) : Res :=
  let x := decode f a
  let y := decode f b
  if x.isSnan || y.isSnan then ⟨f.nan, ⟨true, false⟩⟩
  else if x.isNan && y.isNan then ⟨f.nan, .zero⟩
  else if x.isNan then ⟨b, .zero⟩
  else if y.isNan then ⟨a, .zero⟩
  else if x.below y then ⟨if wantMax then b else a, .zero⟩
  else ⟨if wantMax then a else b, .zero⟩

/-- The integer that a value rounds to, RNE or RTZ; SR rounds as RNE (R31). -/
def roundInt (md : RMode) (neg : Bool) (m : Nat) (e : Int) : Int :=
  let md := if md = .sr then .rne else md
  let n := roundQuanta md 0 m e 0
  if neg then -(n : Int) else n

/-- CvtF2I (R31): the two's-complement bits of width `w`. The range is judged after the rounding (log entry 115, DEDUCED). -/
def cvtF2I (v : Val) (w : Nat) (md : RMode) : Res :=
  let lo : Int := -(2 ^ (w - 1) : Nat)
  let hi : Int := (2 ^ (w - 1) : Nat) - 1
  let enc (i : Int) : Nat := (BitVec.ofInt w i).toNat
  match v with
  | .nan _ => ⟨0, ⟨true, false⟩⟩
  | .inf n => ⟨enc (if n then lo else hi), ⟨true, false⟩⟩
  | .fin n m e =>
    let i := roundInt md n m e
    if i < lo then ⟨enc lo, ⟨true, false⟩⟩
    else if hi < i then ⟨enc hi, ⟨true, false⟩⟩
    else ⟨enc i, .zero⟩

/-- An exact integer as a value. -/
def ofInt (i : Int) : Val := .fin (i < 0) i.natAbs 0

/-- The exact sum of a list of values under the rules of R33: a NaN, or infinities of both signs, gives a NaN; an exact
zero is +0. -/
def sumGroup (vs : List Val) : Val :=
  if vs.any Val.isNan then .nan false
  else
    let pos := vs.any fun v => v.isInf && !v.neg
    let neg := vs.any fun v => v.isInf && v.neg
    if pos && neg then .nan false
    else if pos then .inf false
    else if neg then .inf true
    else
      let q := vs.foldl (fun q v => match v with | .fin _ _ e => min q e | _ => q) 0
      ofScaled (vs.foldl (fun s v => match v with | .fin n m e => s + scaled n m e q | _ => s) 0) q

/-- The sum of exact products with its one rounding (R33, R37). `nv`: what forming the products raises. Infinities of
both signs raise NV, also beside a quiet NaN (log entry 116, DEDUCED). -/
def sumProducts (nv : Bool) (prods : List Val) (scale : Val) : Res :=
  let both := (prods.any fun v => v.isInf && !v.neg) && (prods.any fun v => v.isInf && v.neg)
  finish .fp32 (nv || both) (mulV (sumGroup prods) scale) .rne

/-- GroupSum (R33) over decoded operands, with its flags. -/
def groupSum (a b : List Val) (sa sb : Nat) : Res :=
  if sa % 256 = 0xFF || sb % 256 = 0xFF then ⟨0x7FC00000, .zero⟩
  else
    sumProducts ((a.zip b).any fun p => invalid [p.1, p.2] (mulV p.1 p.2)) ((a.zip b).map fun p => mulV p.1 p.2)
      (mulV (decodeScale sa) (decodeScale sb))

/-- IntGroupSum (R36). -/
def intGroupSum (a b : List Int) : Int := ((a.zip b).map fun p => p.1 * p.2).foldl (· + ·) 0

/-- SideSum (R37): the exact sum of α × t × B × scale over the ranks of a group. -/
def sideSum (terms : List (Nat × Nat × Val × Nat)) : Res :=
  let ops (t : Nat × Nat × Val × Nat) : List Val := [decode .fp32 t.1, decode .fp32 t.2.1, t.2.2.1, decodeScale t.2.2.2]
  let prod (t : Nat × Nat × Val × Nat) : Val := (ops t).foldl mulV (.fin false 1 0)
  sumProducts (terms.any fun t => invalid (ops t) (prod t)) (terms.map prod) (.fin false 1 0)

/-- One level of the tree of R38; a node without a sibling passes on unchanged (R41). -/
def treeLevel {α : Type} (f : α → α → α) : List α → List α
  | a :: b :: t => f a b :: treeLevel f t
  | l => l

/-- The tree of R38 over at most 2^levels elements. -/
def tree {α : Type} (f : α → α → α) (levels : Nat) (l : List α) : List α :=
  (List.range levels).foldl (fun l _ => treeLevel f l) l

/-- FAdd32 on results, with sticky flags. -/
def Res.add (a b : Res) : Res :=
  let r := fadd32 a.bits b.bits
  ⟨r.bits, (a.fl.or b.fl).or r.fl⟩

/-- TreeSum (R38) over FP32 encodings. -/
def treeSum (l : List Nat) : Res := ((tree Res.add 6 (l.map fun b => ⟨b, .zero⟩)).head?).getD ⟨0x80000000, .zero⟩

/-- The tree of FMin or FMax (R38). -/
def treeMinMax (wantMax : Bool) (l : List Nat) : Res :=
  let f (a b : Res) : Res :=
    let r := fminmax .fp32 wantMax a.bits b.bits
    ⟨r.bits, (a.fl.or b.fl).or r.fl⟩
  ((tree f 6 (l.map fun b => ⟨b, .zero⟩)).head?).getD ⟨if wantMax then 0xFF800000 else 0x7F800000, .zero⟩

/-- ScanSum (R39) over FP32 encodings: the sums in order, and the flags. -/
def scanSum : List Nat → List Nat × Flags
  | [] => ([], .zero)
  | x :: t =>
    let step (st : List Nat × Nat × Flags) (y : Nat) : List Nat × Nat × Flags :=
      let r := fadd32 st.2.1 y
      (r.bits :: st.1, r.bits, st.2.2.or r.fl)
    let out := t.foldl step ([x], x, .zero)
    (out.1.reverse, out.2.2)

/-- LandTree (R41) over FP32 encodings, contributor rank order. -/
def landTree32 (l : List Nat) : Nat := (((tree (fun a b => (fadd32 a b).bits) 16 l).head?).getD 0)

/-- LandTree over BF16 contributions: decoded exactly, combined in FP32, rounded once at the root. -/
def landTreeBf16 (l : List Nat) : Nat :=
  (rndBf16 (decode .fp32 (landTree32 (l.map fun b => b * 2 ^ 16))) .rne 0).bits

/-- LandTree over INT32 contributions. -/
def landTreeInt (l : List Nat) : Nat := l.foldl (fun a b => (a + b) % 2 ^ 32) 0

/-- Rot32 (R27): right rotation. -/
def rot32 (w c : Nat) : Nat := ((BitVec.ofNat 32 w).rotateRight c).toNat

/-- The random bits of element j of n in a lane (R27). -/
def srBits (w j n : Nat) : Nat := rot32 w (32 * j / n) % 2 ^ 16

/-- A floating-point format from its code (R18). -/
def Fmt.ofCode : Nat → Option Fmt
  | 0 => some .fp32
  | 1 => some .bf16
  | 2 => some .e4m3
  | 3 => some .e5m2
  | 4 => some .e2m1
  | _ => none

/-- The width in bits of a format code (R13, R16, R18); 0 for a reserved code. -/
def codeBits : Nat → Nat
  | 0 => 32
  | 1 => 16
  | 2 => 8
  | 3 => 8
  | 4 => 4
  | 5 => 8
  | 6 => 32
  | 7 => 8
  | 8 => 64
  | _ => 0

/-- Element i of packed bytes in elements of `w` bits (R17). -/
def packedElem (bs : List Byte) (w i : Nat) : Nat :=
  if w = 4 then
    let b := (bs.getD (i / 2) 0).toNat
    if i % 2 = 0 then b % 16 else b / 16
  else leNat ((bs.drop (i * (w / 8))).take (w / 8))

end Sys2Proof.Fp
end

