-- ==== Sys2Proof/Config.lean ====
section
/-! DEFINITION. What the manual leaves open, as constants without a body: nothing can be proved of their values.
The cryptographic functions are those the manual names (R395 to R412) and does not define (log entry 10, DESIGN CHOICE). -/

namespace Sys2Proof.Config

/-- Which free block of a VF's range an allocation takes (R328): a choice among `n`, by the model's free-value
counter (log entry 11, DESIGN CHOICE). -/
opaque freeChoice : (counter n : Nat) → Nat

/-- AES-256 of one block. -/
opaque aes256 : (key : BitVec 256) → (block : BitVec 128) → BitVec 128

/-- AES-256-GCM: the text of a ciphertext. -/
opaque gcmOpen : (key : BitVec 256) → (iv : BitVec 96) → (text : List Byte) → List Byte

/-- AES-256-GCM: the tag over additional data and a ciphertext. -/
opaque gcmTag : (key : BitVec 256) → (iv : BitVec 96) → (aad text : List Byte) → BitVec 128

/-- AES-256-GCM: the ciphertext of a text. -/
opaque gcmSeal : (key : BitVec 256) → (iv : BitVec 96) → (text : List Byte) → List Byte

/-- XTS-AES-256 of a 64-byte unit under K1, K2 and a tweak (R399): encryption. -/
opaque xtsSeal : (keys : BitVec 512) → (tweak : BitVec 128) → (unit : BitVec 512) → BitVec 512

/-- XTS-AES-256 of a 64-byte unit (R399): decryption. -/
opaque xtsOpen : (keys : BitVec 512) → (tweak : BitVec 128) → (unit : BitVec 512) → BitVec 512

/-- SHA-512. -/
opaque sha512 : List Byte → BitVec 512

/-- GHASH under H, of a sequence of 128-bit blocks (R402). -/
opaque ghash : (h : BitVec 128) → List (BitVec 128) → BitVec 128

/-- Ed25519 signature verification. -/
opaque ed25519Ok : (pub : BitVec 256) → (digest : BitVec 512) → (signature : BitVec 512) → Bool

/-- Ed25519 signature. -/
opaque ed25519Sign : (key : BitVec 256) → List Byte → List Byte

/-- The device identity key that ROM derives (R410). -/
opaque identityKey : (secret : BitVec 256) → (measured : BitVec 512) → BitVec 256

/-- The export master secret of an SPDM session (R398), from the peer's ECDHE share and the session's number. -/
opaque sessionSecret : (share : BitVec 768) → (session : Nat) → BitVec 512

/-- HKDF-Expand under SHA-512 with a label (R398), 32 bytes. -/
opaque hkdf : (secret : BitVec 512) → (label : List Byte) → BitVec 256

/-- The FINISH message's verification (R411). -/
opaque finishOk : (secret : BitVec 512) → (mac : BitVec 512) → Bool

/-- The bytes of an SPDM or TDISP answer whose layout the manual leaves to those standards: the request's code and
what it reports. -/
opaque answer : (code : Nat) → (content : List Byte) → List Byte

/-- The n-th memory key of the security engine's DRBG (R395). -/
opaque memoryKey : Nat → BitVec 256

/-- The DRAM device symbol in which each bit of a line lies (R378): the manual gives no map. -/
opaque symbolOf : (bit : Nat) → Nat

/-- What a grade's code makes of errors beyond those that R378 says it corrects or detects: none where it detects them, or the
bits that the line then reads wrong (log entry 120, DESIGN CHOICE). -/
opaque beyondCode : (grade : Nat) → (flips : BitVec 512) → Option (BitVec 512)

/-- Whether firmware can fetch the host copy of a weight frame, and its bytes (R389). -/
opaque hostCopy : (frame : Nat) → Option (List Byte)

/-- The port that carries the requests of an agent to a peer module: a hash of the agent and the module (R450). -/
opaque portHash : (agent module n : Nat) → Nat

/-- The number of this module among those that are linked (R447, R449; log entry 143, DESIGN CHOICE). -/
opaque ownModule : BitVec 6

/-- AES-256-GCM with an IV of 64 bits (R412): the ciphertext of a text. -/
opaque gcmSeal64 : (key : BitVec 256) → (iv : BitVec 64) → (text : List Byte) → List Byte

/-- AES-256-GCM with an IV of 64 bits (R412): the text of a ciphertext. -/
opaque gcmOpen64 : (key : BitVec 256) → (iv : BitVec 64) → (text : List Byte) → List Byte

/-- AES-256-GCM with an IV of 64 bits (R412): the tag over a ciphertext. -/
opaque gcmTag64 : (key : BitVec 256) → (iv : BitVec 64) → (text : List Byte) → BitVec 128

/-- Slot 1 of the LINKCTL message of a port: module number, port number and link power state, in a layout that the manual does not
give (R447). -/
opaque linkctlSlot : (module : BitVec 6) → (port : Nat) → BitVec 128

/-- The SPDM message fragments that a module's security engine sends to another's to agree on a stream key: up to 80 bytes each
(R412, R447). -/
opaque keyOffer : (module vf time : Nat) → List (List (BitVec 8))

/-- The stream key that the security engines of two modules agree on for a VF's migration at a time, where the tenant's
attestation allows one (R412): at the source. -/
opaque exportKey : (module vf time : Nat) → Option (BitVec 256)

/-- The same at the destination. -/
opaque importKey : (module vf stream : Nat) → BitVec 256

/-- The die on which the importer of a migration places what a die of the source held (R414). -/
opaque importDie : (vf die : Nat) → Nat

/-- The pool that firmware gives a die at bring-up (R321, R410): its base in frames of the home, its blocks, and the code of its
block size (log entry 93, DESIGN CHOICE). -/
opaque poolOf : (die : Nat) → Nat × Nat × Nat

/-- The frames that firmware reserves for metadata at bring-up (R401, R410). -/
opaque metadataFrames : List Nat

/-- The grade table that firmware sets at bring-up, where it is not 0 (R379, R410). -/
opaque gradeTable : List (Nat × BitVec 2)

/-- The capacity of the logical device that firmware binds to a CXL port at bring-up; 0 for none (R443). -/
opaque cxlCapacity : (port : Nat) → Nat

/-- The digest of the firmware configuration (R411: MEAS4). -/
opaque firmwareDigest : BitVec 512

/-- The events that firmware records as it boots: the register that each extends, modulo 11 above MEAS5, and its digest (R411; log
entry 126, DESIGN CHOICE). -/
opaque bootEvents : List (Nat × BitVec 512)

/-- The status byte of a PF event to which the manual gives none (log entry 13, DESIGN CHOICE): 0 an uncorrectable memory error
(R387, R405), 1 a weight frame that cannot be restored (R389). -/
opaque eventStatus : Nat → Byte

end Sys2Proof.Config
end

