-- ==== Sys2Proof/Machine/State.lean ====
section
/-! DEFINITION. The state of the Gleog G32 module: plain data, every piece of state that the manual names
(INVENTORY.md lists each with its rule), the reasons a step may stop, and the state after reset. -/

namespace Sys2Proof.Machine

/-- Why a run stops with a fault. No rule of the manual stops the machine: every fault of a program is a trap, an
engine fault or a containment, which is a next state. No meaning raises this; it is safe. -/
inductive Fault where
  /-- Never raised. -/
  | none
  deriving DecidableEq, Repr

/-- Why an instruction is refused. -/
inductive Refusal where
  /-- Raised by the dispatcher alone, for an instruction that has no meaning yet; safe. -/
  | notModelled (mnemonic : String)
  deriving DecidableEq, Repr

/-! ### Memory (chapters 10, 14, 15) -/

/-- The agents of R259. A peer module's requests and the management core's are agents of their own. -/
inductive Agent where
  | stream (core : Nat)
  | engine (core : Nat) (q : EngQ)
  | allocator (die : Nat)
  | backfill (die : Nat)
  | sync (die : Nat)
  /-- the fill path of a die at work for a probe of device mode (R204, R406) -/
  | pfFill (die : Nat)
  | memSide (half : Nat)
  | management
  /-- a function of the host, by the port at which its requests arrive (R274, R433) -/
  | host (vf port : Nat)
  | peer (mod : Nat)
  deriving DecidableEq, Repr

/-- A write: its bytes by physical address, the colours it carries (R268), its home (R262: 0 to 31 the compute
dies, 32 to 63 the memory-side units, 64 and 65 the I/O dies), the VF it belongs to, its causal predecessors (R264), and
the dies whose visibility order holds it. -/
structure WriteRec where
  agent : Agent
  vf : Nat
  cells : List (Nat × Byte)
  colours : Byte
  home : Nat
  /-- the frame is encrypted (R217) -/
  enc : Bool
  preds : List Nat
  dies : List Nat
  /-- the channel of the copy that issued it (R253) -/
  chan : Option Nat
  deriving DecidableEq, Repr

/-- An error of a line that no read has met (R386 to R388): the bits of the HBM copy that are wrong, or an uncorrectable
error of an L2 copy. -/
structure LineErr where
  flips : BitVec 512
  /-- 0 the HBM copy, 1 a clean L2 copy, 2 a dirty L2 copy -/
  copy : Nat
  deriving DecidableEq, Repr

/-- No error. -/
def LineErr.none : LineErr := ⟨0, 0⟩

/-- A counter block or tree node whose stored tag does not match (R403, R405). -/
structure TreeErr where
  /-- 0 a counter block, 1 to 3 a node of that level -/
  level : Nat
  /-- the number of the range that it covers, by address / the range's size -/
  index : Nat
  /-- the serial number, plus 1, that writes had reached when a read met it -/
  met : Option Nat
  /-- lines that a write has covered whole since -/
  healed : List Nat
  deriving DecidableEq, Repr

/-- A counter block (R401): MAJOR, and the MINOR of each of its 64 lines. -/
structure CounterBlock where
  major : Dword
  minors : SMap (BitVec 7)
  deriving DecidableEq, Repr

/-- What the memory system holds. -/
structure MemSys where
  /-- the bytes that every die agrees on; unlisted bytes read 0 (log entry 6, DESIGN CHOICE) -/
  base : Memory
  /-- writes serialised but not yet in every visibility order, by serial number (R262) -/
  log : SMap WriteRec
  nextId : Nat
  /-- writes issued and not yet serialised, in issue order -/
  pend : List WriteRec
  /-- the causal predecessors of each agent's later writes (R264) -/
  preds : List (Agent × List Nat)
  /-- what each agent has read or written at a home: location and serial number (R267) -/
  marks : List (Agent × Nat × Nat)
  /-- poisoned lines, by address / 64 (R387): the serial number, plus 1, that writes had reached when each was marked -/
  poison : SMap Nat
  /-- errors of lines that no read has met (R386 to R388) -/
  latent : SMap LineErr
  /-- the grade of each 512 KiB frame (R379) -/
  grade : SMap (BitVec 2)
  /-- the counter block of each 4 KiB of encrypted frames (R401) -/
  counters : SMap CounterBlock
  /-- the nodes of the tree above them, by level 1 to 3 and place, and the root registers, one per GiB (R403) -/
  nodes : SMap CounterBlock
  roots : SMap Dword
  /-- the memory key under which each encrypted 512 KiB frame was last written (R405): VF and key number -/
  frameKey : SMap (Nat × Nat)
  /-- the stored tag of each encrypted line, as its difference from the tag that R402 gives the line -/
  tagDiff : SMap (BitVec 56)
  /-- counter blocks and tree nodes whose stored tags do not match (R403) -/
  broken : List TreeErr
  /-- 512 KiB frames that firmware reserves, for metadata and landings, and no VF can map (R383, R401, R410) -/
  reserved : SMap Bool
  /-- corrected errors of each HBM half (R386) -/
  corrected : SMap Dword
  /-- populated bytes of each CXL window (R375, R443) -/
  cxlExtent : SMap Nat
  /-- CXL ports whose link is down (R443) -/
  cxlDown : SMap Bool
  deriving DecidableEq, Repr

/-- The memory system after reset (log entry 6, DESIGN CHOICE). -/
def MemSys.init : MemSys :=
  { base := [], log := [], nextId := 0, pend := [], preds := [], marks := [], poison := [], latent := [], grade := []
    counters := [], nodes := [], roots := [], frameKey := [], tagDiff := [], broken := [], reserved := [], corrected := [], cxlExtent := [], cxlDown := [] }

/-- One leaf held by a TLB (R221): its VF, its level (2: 2 GiB, 1: 32 MiB, 0: 512 KiB), its first virtual address
and its entry word (R217). -/
structure TlbEntry where
  vf : Nat
  level : Nat
  va : Nat
  pte : Dword
  deriving DecidableEq, Repr

/-- One line of a core's L1 (R198, R199). -/
structure L1Line where
  vf : Nat
  va : Nat
  pa : Nat
  bytes : List Byte
  /-- the bytes stored and not written back -/
  mask : Dword
  /-- the colours of those stores -/
  colours : Byte
  /-- every byte is present -/
  whole : Bool
  enc : Bool
  deriving DecidableEq, Repr

/-! ### Streams (chapters 03, 16) -/

/-- The modes of R76, numbered as the mode CSR numbers them (R84). -/
inductive Mode where
  | node
  | handler
  | device
  deriving DecidableEq, Repr

/-- What a stream waits on (R428). -/
inductive WaitOn where
  | popQ (q : Nat)
  | pushQ (q : Nat)
  | qwrEmpty (q : Nat)
  | qrdFull (q : Nat)
  | cqPop
  | cqPush
  | sem (n : Nat)
  | phaser (die idx : Nat)
  | queueFull (q : EngQ)
  | drainCh (ch : Nat)
  | group
  /-- grpleave, on the core's queues -/
  | groupLeave
  | drained
  /-- every core of the node at its nyield or npark (R316) -/
  | standing
  | tselLoading (slot : Nat)
  /-- the requests of a KV handle, by its INDEX, at or above a position (R332, R333) -/
  | backfill (idx : Nat) (first : Nat)
  /-- an engine: a pending position of a KV handle (R344) -/
  | pending (idx : Nat) (pos : Nat)
  /-- an odd SEQ of a block of a KV handle, by its INDEX and the block's first position and the next one's (R336, R344) -/
  | odd (idx lo hi : Nat)
  /-- an engine: its tail's semaphore (R88) -/
  | tail (n : Nat)
  /-- an engine: the readers of a table bank (R153) -/
  | readers
  /-- an engine: a full backfill queue of the die (R347) -/
  | bfFull
  /-- an engine: the other members of a fusion (R188) -/
  | members
  | time
  | row
  /-- a page fault's answer (R225) -/
  | pageFault
  /-- earlier accesses to be performed (R270, R271) -/
  | order
  /-- the response of a peer (R448) -/
  | peer
  /-- an engine: room among the core's transfer requests (R242) -/
  | pool
  /-- the fill of an entry, of the core's probe region or of its die's table (R213) -/
  | fill (region : Bool) (slot : Nat)
  deriving DecidableEq, Repr

/-- A fault record (R417, R418). -/
structure FaultRec where
  cause : Dword
  idx : Dword
  step : Dword
  addr : Dword
  hand : Dword
  c01 : Dword
  c23 : Dword
  tile : Dword
  cur : Dword
  elem : Dword
  deriving DecidableEq, Repr

/-- The zero fault record. -/
def FaultRec.zero : FaultRec := ⟨0, 0, 0, 0, 0, 0, 0, 0, 0, 0⟩

/-- The loop levels of a stream (R83, R103). -/
structure Loops where
  start0 : Dword
  end0 : Dword
  cnt0 : Dword
  start1 : Dword
  end1 : Dword
  cnt1 : Dword
  depth : Nat
  deriving DecidableEq, Repr

/-- One instruction stream. -/
structure Stream where
  /-- offset of the instruction that executes (R69) -/
  pc : Dword
  /-- offset of the current group's first word (R69, R77) -/
  gpc : Dword
  /-- s1 to s31 (R72) -/
  regs : SMap Dword
  /-- the handler bank, s24 to s31 (R72) -/
  hregs : SMap Dword
  mode : Mode
  tvec : Dword
  epc : Dword
  ecause : Dword
  eval : Dword
  estatus : Dword
  loops : Loops
  frec : FaultRec
  /-- a sibling trap to take, with the other stream's cause (R78) -/
  sib : Option Byte
  /-- what it waits on, and since when -/
  wait : Option (WaitOn × Nat)
  /-- it issues groups; false before dispatch and after ndone -/
  run : Bool
  deriving DecidableEq, Repr

/-- A stream before any dispatch (log entry 5, DESIGN CHOICE). -/
def Stream.init : Stream :=
  { pc := 0, gpc := 0, regs := [], hregs := [], mode := .node, tvec := 0, epc := 0, ecause := 0, eval := 0
    estatus := 0, loops := ⟨0, 0, 0, 0, 0, 0, 0⟩, frec := .zero, sib := none, wait := none, run := false }

/-! ### Engines, semaphores, tables, the quadrant (chapters 03, 05, 06, 09) -/

/-- A queued command with what its push captured (R87). -/
structure Cmd where
  op : Instr
  c0 : Dword
  c1 : Dword
  c2 : Dword
  stamp : Dword
  deriving DecidableEq, Repr

/-- What a head command latched at its step 0: records and descriptors, handle entries, the table banks it reads
as (slot, bank), and their images, which it keeps to the end (R150). -/
structure Latch where
  recs : List (List Byte)
  entries : List (List Byte)
  banks : List (Nat × Bool)
  images : List (List Byte)
  deriving DecidableEq, Repr

/-- Nothing latched. -/
def Latch.none : Latch := ⟨[], [], [], []⟩

/-- A write of a chunk that has its value and waits for its place among the core's requests (R242): the leaf it goes
through, and its bytes or single nibbles by physical address. -/
structure OutWrite where
  vf : Nat
  va : Nat
  pa : Nat
  pte : Dword
  bytes : List (Nat × Byte)
  /-- address, high nibble, value (R473) -/
  nibbles : List (Nat × Bool × Nat)
  /-- the per-handle key and tweak under which the unit is stored (R399) -/
  key : Option (BitVec 512 × BitVec 128)
  /-- a reduction packet instead: the module that it goes to, its line and its message (R451) -/
  packet : Option (Nat × Nat × LinkMsg)
  deriving DecidableEq, Repr

/-- One command queue of a core (R86 to R89, R348). -/
structure EngQueue where
  /-- the index of the head command -/
  head : Word
  cmds : List Cmd
  step : Nat
  /-- the head's tail wait is taken and its acquire performed -/
  begun : Bool
  latch : Latch
  /-- the engine fault at which the head stands, and whether the C-stream has taken it -/
  fault : Option (Byte × Bool)
  frec : FaultRec
  /-- the head's work and release are done, its signal not applied (R89) -/
  sigPending : Bool
  /-- the head missed its window and runs untimed (R173) -/
  untimed : Bool
  /-- what the head waits on (R428) -/
  wait : Option WaitOn
  /-- the head stands behind a command that a handler dropped, and starts when that stream's handler returns (R81) -/
  held : Option Bool
  /-- the chunk of the current step has been read, and these of its writes have not left; none before it is read (R248) -/
  todo : Option (List OutWrite)
  deriving DecidableEq, Repr

/-- An empty queue. -/
def EngQueue.init : EngQueue :=
  { head := 0, cmds := [], step := 0, begun := false, latch := .none, fault := none, frec := .zero
    sigPending := false, untimed := false, wait := none, held := none, todo := none }

/-- A counting semaphore (R93). -/
structure Sem where
  count : Half
  ceiling : Half
  deriving DecidableEq, Repr

/-- A semaphore at dispatch (R93). -/
def Sem.init : Sem := ⟨0, 0xFFFF⟩

/-- Who waits on a semaphore (R94). -/
inductive Waiter where
  | stream
  | engine (q : EngQ)
  deriving DecidableEq, Repr

/-- A row of the instruction store (R91). `state`: 0 FREE, 1 FILLING, 2 VALID, 3 LEASED. -/
structure IRow where
  state : Nat
  kernel : Dword
  vf : Nat
  x : Bool
  slot : Nat
  /-- virtual address that it is filled from -/
  va : Nat
  words : List Word
  /-- the cause that its fill met (R92) -/
  mark : Option Byte
  /-- when it was last leased -/
  used : Nat
  deriving DecidableEq, Repr

/-- A free row. -/
def IRow.free : IRow := ⟨0, 0, 0, false, 0, 0, [], none, 0⟩

/-- A bank of a table slot (R138). `state`: 0 EMPTY, 1 LOADING, 2 READY. -/
structure TBank where
  state : Nat
  data : List Byte
  readers : Nat
  deriving DecidableEq, Repr

/-- An empty bank. -/
def TBank.empty : TBank := ⟨0, [], 0⟩

/-- A table slot (R138, R139): bank 0 or bank 1 is the active one. -/
structure TSlot where
  owner : Option Nat
  bank0 : TBank
  bank1 : TBank
  /-- bank 1 is active -/
  flip : Bool
  /-- when a node that names it was last dispatched -/
  used : Nat
  deriving DecidableEq, Repr

/-- An unowned slot. -/
def TSlot.init : TSlot := ⟨none, .empty, .empty, false, 0⟩

/-- A weight plane (R161). Elements are codes of the format by 128 * k + n, scales by 128 * group + n. -/
structure Plane where
  ready : Bool
  fmt : BitVec 4
  kp : Nat
  np : Nat
  elems : SMap Word
  scales : SMap Byte
  deriving DecidableEq, Repr

/-- An empty plane. -/
def Plane.empty : Plane := ⟨false, 0, 0, 0, [], []⟩

/-- An accumulator bank with its side registers, intermediates and maps (R161). Words lie by 128 * row + column, t by
64 * row + rank index. A map byte has [7] valid and [3:0] the slot. -/
structure Bank where
  acc : SMap Word
  m : SMap Word
  l : SMap Word
  t : SMap Word
  tenant : SMap Byte
  comp : SMap Byte
  deriving DecidableEq, Repr

/-- A bank in the reset state (R162). -/
def Bank.init : Bank := ⟨[], [], [], [], [], []⟩

/-- A factor slot (R161, R187): the descriptor, and factor B's rows and scale rows. -/
structure Factor where
  ready : Bool
  desc : List Byte
  rows : List (List Byte)
  scales : List (List Byte)
  deriving DecidableEq, Repr

/-- An empty factor slot. -/
def Factor.empty : Factor := ⟨false, [], [], []⟩

/-- The matrix quadrant (R161). A fused array's storage stands at its lead (R175). -/
structure Quadrant where
  act : Plane
  shd : Plane
  bank0 : Bank
  bank1 : Bank
  slots : SMap Factor
  /-- 0 unfused, 1 ew, 2 ns, 3 all -/
  shape : Nat
  /-- 0 unfused, 1 lead, 2 member, 3 member of a pending fusion -/
  role : Nat
  /-- the fusion is pending -/
  pending : Bool
  lead : Nat
  deriving DecidableEq, Repr

/-- The reset state of a quadrant (R162). -/
def Quadrant.init : Quadrant := ⟨.empty, .empty, .init, .init, [], 0, 0, false, 0⟩

/-- An entry of a probe tag table (R203). `state`: 0 INVALID, 1 FILLING, 2 VALID, 3 FAILED. -/
structure PEntry where
  state : Nat
  vf : Nat
  index : Nat
  gen : Nat
  tile : Nat
  /-- the handle whose tile it holds -/
  handle : Dword
  ticket : Nat
  pins : Nat
  recency : Nat
  cause : Byte
  /-- of a VALID die entry: the 512 KiB frame that it serves (R204), by address / 512 KiB -/
  frame : Nat
  /-- its storage holds an uncorrectable error that no access has met (R203, R388) -/
  bad : Bool
  /-- the bytes of a frame of the peer window, which no home here holds -/
  bytes : List Byte
  deriving DecidableEq, Repr

/-- An INVALID entry. -/
def PEntry.init : PEntry := ⟨0, 0, 0, 0, 0, 0, 0, 0, 0, 0, 0, false, []⟩

/-! ### A core -/

/-- The vector part of a core (R73 to R75, R110, R112, R323). -/
structure CoreVec where
  /-- k1 to k7 -/
  masks : SMap Word
  queues : SMap (List Vec)
  /-- the control queue from the C-stream to the X-stream -/
  toX : List Dword
  /-- the control queue from the X-stream to the C-stream -/
  toC : List Dword
  vtype : Dword
  vflags : Dword
  vcidx : Dword
  vcthr : SMap Dword
  deriving DecidableEq, Repr

/-- The CSRs of a core that are plain registers (R83, R180, R190, R219, R256, R287, R313, R323, R366, R418). -/
structure CoreCsr where
  vfid : Byte
  nodeid : Dword
  grpid : Dword
  vtdef : Dword
  coldef : Dword
  lmcfg : Dword
  htbase : Dword
  htcount : Dword
  xlsplit : Dword
  xlfrz : Dword
  xlpfa : Dword
  xch : SMap Dword
  xtagf : Dword
  amoflags : Dword
  mflags : Dword
  nopst : Dword
  npos : Dword
  novr : Dword
  kvva : Dword
  adcfg : Dword
  dhbase : Dword
  dhang : Dword
  dbgstat : Dword
  deriving DecidableEq, Repr

/-- A kernel image: its identity, the addresses and lengths of its two binaries (R90, R293). -/
structure Image where
  kernel : Dword
  vaC : Nat
  vaX : Nat
  lenC : Nat
  lenX : Nat
  deriving DecidableEq, Repr

/-- No image. -/
def Image.none : Image := ⟨0, 0, 0, 0, 0⟩

/-- What a core stands at (R316): park or yield, both offsets and the wake word. -/
structure Stand where
  park : Bool
  offC : Word
  offX : Word
  wake : Dword
  deriving DecidableEq, Repr

/-- A request to a peer module (R448). `resp`: the data or poison, once it has arrived; a write that stands with poison was refused
or lost (R448, R450). A write that runs as an AMO whose result nobody takes (R383) has both `write` and `amo`. -/
structure PeerReq where
  agent : Agent
  port : Nat
  tag : Half
  addr : Nat
  size : Nat
  write : Bool
  amo : Bool
  /-- of an AMO: its operation value, operand and expected value (R284, R447) -/
  args : Nat × Nat × Nat
  resp : Option (List Byte × Bool)
  /-- the channel of the copy that issued it (R253) -/
  chan : Option Nat
  /-- the node, and its core's NCI, whose access it is while the node is off its cores (R227, R303) -/
  parked : Option (Dword × Nat)
  deriving DecidableEq, Repr

/-- The debugger's hold of a core (R430, R432). -/
structure Dbg where
  attached : Bool
  halted : Bool
  /-- values written to the saved context that no field can hold: where they stand in the area, the offset of the one that
  resumption refuses, and their bytes (R431) -/
  raw : List (Nat × Nat × List Byte)
  /-- single step: the one stream that may issue a group, then halt again -/
  only : Option Bool
  /-- the waiting accesses that the halt saved, as the context area shows them (R420, R227) -/
  waiting : List Dword
  deriving DecidableEq, Repr

/-- The storage of a core that SEC-DED protects per 64-bit word (R421), each with the word's place in it. -/
inductive CoreStore where
  | sp (word : Nat)
  | l1 (va : Nat)
  | row (row word : Nat)
  | queue (q entry word : Nat)
  | reg (x : Bool) (r : Nat)
  | hreg (x : Bool) (r : Nat)
  | mask (k : Nat)
  | table (slot : Nat) (bank : Bool) (word : Nat)
  | plane (shadow : Bool) (elem : Nat)
  | scale (shadow : Bool) (i : Nat)
  | acc (bank : Bool) (i : Nat)
  | side (bank l : Bool) (i : Nat)
  | inter (bank : Bool) (i : Nat)
  | factor (slot row word : Nat)
  | factorScale (slot row word : Nat)
  | factorDesc (slot word : Nat)
  deriving DecidableEq, Repr

/-- An error of a word of a core's storage that no read has met (R421): of one bit, or of two. -/
structure CoreErr where
  store : CoreStore
  double : Bool
  deriving DecidableEq, Repr

/-- A core. -/
structure Core where
  c : Stream
  x : Stream
  vec : CoreVec
  csr : CoreCsr
  sems : SMap Sem
  waiters : List (Nat × Waiter)
  /-- waits that a signal has served in its own cycle (R94) and that their waiter has still to complete -/
  granted : List (Nat × Waiter)
  load : EngQueue
  store : EngQueue
  matrix : EngQueue
  backfill : EngQueue
  rows : SMap IRow
  image : Image
  himage : Image
  slots : SMap TSlot
  quad : Quadrant
  /-- scratchpad bytes (R193) -/
  sp : Memory
  l1 : List L1Line
  probe : SMap PEntry
  tlb : List TlbEntry
  /-- the dispatched node (R298) -/
  node : Option Dword
  nci : Nat
  stand : Option Stand
  /-- a grpjoin it waits in: id and mask (R320) -/
  joining : Option (Nat × Nat)
  /-- the VF of the core's previous node (R193) -/
  prevVf : Option Nat
  /-- errors of its storage that no read has met (R421) -/
  ecc : List CoreErr
  /-- tb when the context was last saved, and the cause of that save (R420) -/
  saveTb : Nat
  saveCause : Nat
  dbg : Dbg
  /-- when the node last advanced on this core (R427) -/
  advanced : Nat
  /-- since when page faults have kept its group frozen (R227) -/
  frozenAt : Option Nat
  deriving DecidableEq, Repr

/-- The vector part at dispatch. -/
def CoreVec.init : CoreVec :=
  { masks := [], queues := [], toX := [], toC := [], vtype := 0, vflags := 0, vcidx := 0, vcthr := [] }

/-- The plain CSRs before any dispatch (log entry 5, DESIGN CHOICE). -/
def CoreCsr.init : CoreCsr :=
  { vfid := 0, nodeid := 0, grpid := 0, vtdef := 0, coldef := 0, lmcfg := 0, htbase := 0, htcount := 0, xlsplit := 0
    xlfrz := 0, xlpfa := 0, xch := [], xtagf := 0, amoflags := 0, mflags := 0, nopst := 0, npos := 0, novr := 0
    kvva := 0, adcfg := 0, dhbase := 0, dhang := 0, dbgstat := 0 }

/-- A core before any dispatch. -/
def Core.init : Core :=
  { c := .init, x := .init, vec := .init, csr := .init, sems := [], waiters := [], granted := [], load := .init, store := .init
    matrix := .init, backfill := .init, rows := [], image := .none, himage := .none, slots := [], quad := .init
    sp := [], l1 := [], probe := [], tlb := [], node := none, nci := 0, stand := none, joining := none, prevVf := none
    ecc := [], saveTb := 0, saveCause := 0, dbg := ⟨false, false, [], none, []⟩, advanced := 0, frozenAt := none }

/-! ### Dies and link ports (chapters 07, 10, 12, 14, 17) -/

/-- A phaser (R276). -/
structure Phaser where
  scope : Nat
  phase : Word
  ns : Nat
  arr : Nat
  dns : Int
  nmem : Nat
  deriving DecidableEq, Repr

/-- An IDLE phaser. -/
def Phaser.idle : Phaser := ⟨0, 0, 0, 0, 0, 0⟩

/-- A KV block as its allocator keeps it (R326, R328). -/
structure BlockInfo where
  refs : Nat
  vf : Nat
  deriving DecidableEq, Repr

/-- A free block. -/
def BlockInfo.free : BlockInfo := ⟨0, 0⟩

/-- An entry of a die's backfill queue (R347, R350). -/
structure BfEntry where
  vf : Nat
  handle : Dword
  pos : Nat
  first : Nat
  last : Nat
  desc : Nat
  hidden : Dword
  argx : Dword
  ring : Nat
  /-- the backfill node made for it, and how many were made -/
  node : Option Dword
  tries : Nat
  /-- the number NIDX takes -/
  nidx : Nat
  /-- the status of the last attempt that failed -/
  failed : Byte
  /-- the block of each layer, as located at the acceptance -/
  blocks : List Nat
  /-- P of the handle -/
  p : Nat
  deriving DecidableEq, Repr

/-- What completes when a ticket completes (R204, R361). -/
inductive TicketOf where
  | probe (core : Option Nat) (slot : Nat)
  | adapter (vf idx : Nat)
  deriving DecidableEq, Repr

/-- A compute die. -/
structure Die where
  poolBase : Nat
  poolBlocks : Nat
  poolBs : Nat
  blocks : SMap BlockInfo
  bfq : List BfEntry
  phasers : SMap Phaser
  probe : SMap PEntry
  /-- fills in flight, by ticket -/
  tickets : SMap TicketOf
  nextTicket : Nat
  /-- probe-managed part in 64 MiB units (R202) -/
  probeUnits : Nat
  /-- scrub period in hours (R385) -/
  scrub : Nat
  temp : Nat
  throttle : Nat
  trip : Bool
  deriving DecidableEq, Repr

/-- A die after reset (R202, R385; log entry 12, DESIGN CHOICE). -/
def Die.init : Die :=
  { poolBase := 0, poolBlocks := 0, poolBs := 0, blocks := [], bfq := [], phasers := [], probe := []
    tickets := [], nextTicket := 1, probeUnits := 6, scrub := 8, temp := 0, throttle := 0, trip := false }

/-- A Horay Link port (R444 to R446). -/
structure Port where
  txSeq : BitVec 12
  /-- counted flits sent and not acknowledged, oldest first -/
  retry : List Flit
  rxSeq : BitVec 12
  /-- a flit was discarded and the replay has not arrived -/
  awaiting : Bool
  /-- consecutive failed replays -/
  fails : Nat
  /-- virtual channels that the partner has paused -/
  paused : Byte
  /-- messages sent and not answered, by tag -/
  sent : SMap (Agent × Nat)
  nextTag : Nat
  /-- messages to send, oldest first: opcode and message -/
  out : List (Byte × LinkMsg)
  /-- flits sent, oldest first, not yet taken by the wire -/
  wire : List Flit
  /-- slot 1 of the partner's latest LINKCTL (R447) -/
  partner : BitVec 128
  down : Bool
  /-- a counted flit has been received good -/
  heard : Bool
  /-- virtual channels that this port pauses -/
  pausing : Byte
  /-- ACK, AV and PAUSE of the latest flit sent -/
  told : BitVec 12 × Bool × Byte
  /-- messages in the receive buffers, oldest first -/
  held : List (Byte × LinkMsg)
  deriving DecidableEq, Repr

/-- A port after bring-up (log entry 12, DESIGN CHOICE). -/
def Port.init : Port :=
  { txSeq := 0, retry := [], rxSeq := 0, awaiting := false, fails := 0, paused := 0, sent := [], nextTag := 0
    out := [], wire := [], partner := 0, down := false, heard := false, pausing := 0, told := (0, false, 0), held := [] }

/-! ### Virtual functions (chapters 11, 13, 14, 15, 17) -/

/-- An event ring (R310, R435, R437). -/
structure Ring where
  base : Dword
  cfg : Dword
  head : Half
  tail : Half
  /-- records that wait for room (R310) -/
  held : List (List Byte)
  unsignalled : Nat
  /-- when the oldest unsignalled record was written -/
  oldest : Nat
  /-- PF event 0x97 stands posted -/
  faulted : Bool
  deriving DecidableEq, Repr

/-- A ring at reset (R435). -/
def Ring.init : Ring := ⟨0, 0, 0, 0, [], 0, 0, false⟩

/-- A submission queue (R289, R435, R436). -/
structure SubQ where
  base : Dword
  cfg : Dword
  head : Half
  tail : Half
  err : Bool
  resetting : Bool
  gseq : Nat
  deriving DecidableEq, Repr

/-- A queue at reset (R435). -/
def SubQ.init : SubQ := ⟨0, 0, 0, 0, false, false, 0⟩

/-- An adapter table entry (R356), with what is kept of the superseded version. -/
structure AdEntry where
  ver : BitVec 28
  gen : Half
  /-- 0 ABSENT, 1 LOADING, 2 RESIDENT, 3 RETIRED -/
  state : Nat
  evpend : Bool
  fmt : BitVec 4
  compat : Dword
  vrec : Dword
  refs : Word
  rank : Nat
  nlayer : Nat
  sver : BitVec 28
  srefs : Word
  svrec : Dword
  xfirst : Nat
  xcnt : Nat
  alpha : Word
  /-- of the superseded version OVER -/
  ofmt : BitVec 4
  orank : Nat
  onlayer : Nat
  oalpha : Word
  /-- pages that a load in progress has copied -/
  copied : Nat
  /-- BACK of the current version's header (R358) -/
  back : Dword
  /-- the factor handles of the current version in layer order, where the adapter unit has read them (R358) -/
  hands : List (Option Dword)
  /-- those of the superseded version -/
  ohands : List (Option Dword)
  deriving DecidableEq, Repr

/-- An entry in which nothing has been published. -/
def AdEntry.init : AdEntry :=
  { ver := 0, gen := 0, state := 0, evpend := false, fmt := 0, compat := 0, vrec := 0, refs := 0, rank := 0
    nlayer := 0, sver := 0, srefs := 0, svrec := 0, xfirst := 0, xcnt := 0, alpha := 0, ofmt := 0, orank := 0
    onlayer := 0, oalpha := 0, copied := 0, back := 0, hands := [], ohands := [] }

/-- A retirement that is at step 3 of R364. -/
structure Retire where
  vf : Nat
  idx : Nat
  /-- [1:0] of the CAUSE of its event -/
  cause : Nat
  /-- the adapter handle before step 2 -/
  old : Nat
  /-- addresses of factor handles that are still to be read -/
  left : List Nat
  /-- factor handles whose GEN is still to be raised -/
  todo : List Dword
  /-- every factor handle that has been read, each once -/
  hands : List Dword
  /-- an entry could not be reached -/
  lost : Bool
  deriving DecidableEq, Repr

/-- An open epoch of a landing (R383): the latched entry, the lines landed from each rank, lines complete. -/
structure Landing where
  epoch : Word
  entry : List Byte
  /-- the data of (line, rank) -/
  parts : List (Nat × Nat × BitVec 512)
  poisoned : List Nat
  complete : List Nat
  /-- abandoned by a settlement (R413): its packets are dropped -/
  dead : Bool
  deriving DecidableEq, Repr

/-- The TDISP states of R407. -/
inductive Tdisp where
  | unlocked
  | locked
  | run
  | error
  deriving DecidableEq, Repr

/-- The MSI-X vectors of a function (R434, R437; log entry 125, PRESUMED): the words of its table where they differ from reset, and
the pending bits. -/
structure Vectors where
  table : SMap Dword
  pend : Dword
  deriving DecidableEq, Repr

/-- A migration of a VF (R412, R413). -/
structure Migration where
  module : Nat
  deadlineMs : Nat
  /-- when the migration suspension began -/
  since : Option Nat
  settled : Bool
  /-- the dirty log: 512 KiB virtual pages written since it was last read (R412) -/
  dirty : List Nat
  /-- pages of the present round that have not gone out -/
  round : List Nat
  /-- the migration stream key (R395); none where the tenant's attestation does not allow it (R412) -/
  key : Option (BitVec 256)
  /-- the next sequence number, and the next stream offset (R447) -/
  seq : Nat
  off : Nat
  /-- SEQ and WGEN of each block at its last export (R412) -/
  blocks : SMap (Dword × Dword)
  deriving DecidableEq, Repr

/-- A virtual function. -/
structure Vf where
  present : Bool
  /-- configuration fields by 4096 * ID + INDEX (R394) -/
  cfg : SMap Dword
  tdisp : Tdisp
  /-- 0 none, 1 plain, 2 for migration (R300) -/
  susp : Nat
  migr : Option Migration
  sq : SMap SubQ
  rings : SMap Ring
  adstat : Dword
  vectors : Vectors
  /-- ADSTAT and VFSTAT when vector 16 last told of them (R437; log entry 125, PRESUMED) -/
  told : Dword × Dword
  adapters : SMap AdEntry
  /-- pages counted in the current millisecond, and when it began (R361) -/
  fillUsed : Nat
  fillStart : Nat
  /-- the number of its memory key; none when destroyed (R395) -/
  km : Option Nat
  /-- payload key slots (R397) -/
  keys : SMap (BitVec 512)
  landings : SMap Landing
  /-- deficits by priority, in core steps (R299) -/
  deficit : SMap Int
  deriving DecidableEq, Repr

/-- A VF as CREATE makes it (R441). -/
def Vf.init : Vf :=
  { present := false, cfg := [], tdisp := .unlocked, susp := 0, migr := none, sq := [], rings := [], adstat := 0, vectors := ⟨[], 0⟩, told := (0, 0)
    adapters := [], fillUsed := 0, fillStart := 0, km := none, keys := [], landings := [], deficit := [] }

/-! ### The Hearth (chapter 11) -/

/-- A member record of a phaser (R276). -/
structure Member where
  id : Dword
  mode : Nat
  sp : Word
  wp : Word
  /-- the SCOPE that its phreg named, for a registration after a rollback (R425) -/
  scope : Nat
  deriving DecidableEq, Repr

/-- A record of a node's adapter log (R360): an aadmit's reference or an arel's release, on version `ver` of
handle `handle`. -/
structure LogRec where
  release : Bool
  handle : Word
  ver : BitVec 28
  deriving DecidableEq, Repr

/-- What the Hearth keeps of one core of a node at a checkpoint (R302, R424): offsets, s1 to s8 and graph position. -/
structure Resume where
  offC : Word
  offX : Word
  args : List Dword
  npos : Dword
  deriving DecidableEq, Repr

/-- A checkpoint (R424). -/
structure Checkpoint where
  cores : List Resume
  members : List Member
  /-- group id of each core, where it is in one -/
  groups : List Dword
  /-- writable KV handles with their LEN -/
  kv : List (Dword × Option Word)
  deriving DecidableEq, Repr

/-- Where a node stands. -/
inductive NodeState where
  | waiting
  | ready
  | running
  /-- force-pre-empted: resumes from its saved cores -/
  | preempted
  /-- left its cores at a nyield: resumes from its checkpoint -/
  | yielded
  | parked
  | rolledBack
  /-- stopped: its record, which is held until its writes to peers are acknowledged (R296) -/
  | ending (status : Byte) (last : List Byte)
  | ended (status : Byte)
  deriving DecidableEq, Repr

/-- A node (R292 to R306). -/
structure Node where
  desc : List Byte
  /-- a transform node's command list, as submission read it (R258) -/
  list : List (List Byte)
  counter : Nat
  state : NodeState
  /-- its cores in ascending order -/
  cores : List Nat
  /-- cores that have executed ndone -/
  done : List Nat
  succs : List Nat
  /-- when it became ready -/
  since : Nat
  /-- when it was dispatched -/
  started : Nat
  /-- of the present dispatch: its priority and since when it has that, and the core-cycles that it ran at each priority before (R299) -/
  prioAt : Nat
  prioSince : Nat
  ran : SMap Nat
  /-- what its C-streams and matrix queues waited on when it was force-pre-empted (R351) -/
  waited : List WaitOn
  check : Option Checkpoint
  /-- the saved cores of a forced pre-emption, with their core numbers (R303) -/
  saved : List (Nat × Core)
  /-- wake words of a parked node's cores and the die each parked on -/
  wakes : List (Nat × Dword)
  alog : List LogRec
  members : List Member
  rollbacks : Nat
  /-- the frame whose poison rolled it back (R425) -/
  awaits : Option Nat
  /-- when a pre-emption became pending (R300) -/
  pendSince : Option Nat
  /-- the pre-emption is a suspension's alone -/
  pendSusp : Bool
  /-- the operator has been counted in novr (R301) -/
  overrun : Bool
  /-- tb when it last left its cores -/
  left : Nat
  /-- xlfrz of its cores when it left them (R174, R305), and novr -/
  frz : List Dword
  novr : Dword
  deriving DecidableEq, Repr

/-- A graph (R289 to R297). -/
structure Graph where
  ring : Nat
  flags : Byte
  /-- descriptors submitted, and nodes in all -/
  submitted : Nat
  nodes : Nat
  /-- the roots wait for the previous graph (SERIAL) -/
  held : Bool
  complete : Bool
  /-- the status of the first node that ended with another than DONE -/
  bad : Byte
  deriving DecidableEq, Repr

/-- The Hearth. Nodes by their identity, graphs by their identity / 65536. -/
structure Hearth where
  nodes : SMap Node
  graphs : SMap Graph
  /-- the last VF served at each priority (R299) -/
  served : SMap Nat
  /-- the start of the 10 ms window and the Crucible's core steps in it (R308) -/
  window : Nat
  crucible : Nat
  raised : Bool
  /-- KV tails to rewind (R338): node, handle, length -/
  rewinds : List (Dword × Dword × Option Word)
  /-- forced retirements that wait on a page (R364) -/
  retires : List Retire
  deriving DecidableEq, Repr

/-- An empty Hearth. -/
def Hearth.init : Hearth := ⟨[], [], [], 0, 0, false, [], []⟩

/-! ### The PF, trust and the host (chapters 15, 17) -/

/-- A page fault that waits for its answer (R225, R442). -/
structure PageFault where
  agent : Agent
  vf : Nat
  va : Nat
  /-- 1 read, 2 write, 3 fetch, 4 walker -/
  kind : Nat
  since : Nat
  /-- answered FAIL, or past its deadline -/
  failed : Bool
  deriving DecidableEq, Repr

/-- What the PF's registers and tables hold (R439, R441, R449). -/
structure Pf where
  ring : Ring
  cmdAddr : Dword
  cmdStat : Dword
  sdReq : Dword
  sdLen : Dword
  sdBusy : Bool
  /-- the shootdown that is in progress: VF, base and end (R223) -/
  sdRange : Nat × Nat × Nat
  pwrCap : Dword
  faults : SMap PageFault
  nextTag : Nat
  crucMap : SMap Dword
  route : SMap Dword
  /-- target VF and EXPBASE by 256 * module + VF -/
  exportTo : SMap (Nat × Dword)
  /-- interrupt messages sent, newest first: VF and vector (R437) -/
  msix : List (Nat × Nat)
  vectors : Vectors
  /-- host reads of a BAR2 that wait for a peer module (R434, R448) -/
  reads : List Bar2
  /-- how the latest host read of a BAR2 completed (R434): its data, or none for Completer Abort -/
  completion : Option (List Byte)
  /-- corrected errors of core storage (R421) -/
  coreCorrected : Dword
  deriving DecidableEq, Repr

/-- The PF at reset (R439). -/
def Pf.init : Pf :=
  { ring := .init, cmdAddr := 0, cmdStat := 0, sdReq := 0, sdLen := 0, sdBusy := false, sdRange := (0, 0, 0), pwrCap := 15000, faults := []
    nextTag := 1, crucMap := [], route := [], exportTo := [], msix := [], vectors := ⟨[], 0⟩, reads := [], completion := none
    coreCorrected := 0 }

/-- An image slot of the module flash (R410). -/
structure FlashSlot where
  image : List Byte
  header : List Byte
  pubKey : BitVec 256
  signature : BitVec 512
  svn : Nat
  deriving DecidableEq, Repr

/-- An SPDM secure session (R397, R411). -/
structure Session where
  tenant : Bool
  secret : BitVec 512
  finished : Bool
  lastNonce : Option (BitVec 96)
  deriving DecidableEq, Repr

/-- A migration stream as it arrives (R412, R414): the key agreed for it, the next stream offset, the ciphertext of the
item that arrives, and the block that each block of the source has become. -/
structure Import where
  key : BitVec 256
  off : Nat
  text : List Byte
  blocks : SMap Nat
  deriving DecidableEq, Repr

/-- The security engine and the management core's measured state (R395 to R411). -/
structure Sec where
  meas : SMap (BitVec 512)
  /-- events that firmware recorded, oldest first: the register extended, and the digest (R411) -/
  log : List (Nat × BitVec 512)
  fuseHash : BitVec 512
  fuseSvn : Nat
  debugLock : Bool
  /-- the unique device secret, until it is locked -/
  uds : Option (BitVec 256)
  identity : Option (BitVec 256)
  slotA : FlashSlot
  slotB : FlashSlot
  /-- the boot step reached (R410); 0 before boot, 9 in recovery -/
  stage : Nat
  /-- memory keys created (R395) -/
  nextKey : Nat
  sessions : SMap Session
  ide : SMap (BitVec 256)
  /-- SPDM and TDISP answers given, newest first -/
  answers : List (List Byte)
  /-- MIGRATE and MGMT messages of peers, for firmware, newest first (R447) -/
  inbox : List (Byte × LinkMsg)
  /-- migration streams that arrive, by VF (R412, R414) -/
  imports : SMap Import
  /-- streams that have arrived from other modules, by which the key of the next is told apart (R395) -/
  importNo : Nat
  /-- the shape hash of the base model (R366), and the one of a replacement that is in progress (R365) -/
  abase : Dword
  nextBase : Option Dword
  /-- leaves of the weight hash tree by frame number of the image, and where each frame lies (R409) -/
  leaves : SMap (BitVec 512)
  /-- its other nodes, by level and place, and the root that was measured (R409) -/
  hashNodes : SMap (BitVec 512)
  root : Option (BitVec 512)
  weightFrames : SMap Nat
  /-- frames checked since firmware last wrote them (R252), by address / 512 KiB -/
  checked : SMap Bool
  /-- frames that firmware is restoring (R389) -/
  restoring : SMap Bool
  deriving DecidableEq, Repr

/-- A flash slot that holds nothing. -/
def FlashSlot.empty : FlashSlot := ⟨[], [], 0, 0, 0⟩

/-- The security engine at reset (R411; log entry 12, DESIGN CHOICE). -/
def Sec.init : Sec :=
  { meas := [], fuseHash := 0, fuseSvn := 0, debugLock := false, uds := some 0, identity := none, slotA := .empty
    slotB := .empty, stage := 0, nextKey := 0, sessions := [], ide := [], answers := [], inbox := [], abase := 0, nextBase := none, leaves := []
    hashNodes := [], root := none, log := [], imports := [], importNo := 0
    weightFrames := [], checked := [], restoring := [] }

/-! ### The module -/

/-- The two parts (R2). -/
inductive Part where
  | p1T
  | p768G
  deriving DecidableEq, Repr

/-- Which agent moves when no event is on the agenda (log entry 1, DESIGN CHOICE). -/
inductive Turn where
  | stream (x : Bool)
  | engine (q : EngQ)
  | memory
  | hearth
  deriving DecidableEq, Repr

/-- How the last issue ended. -/
inductive Issue where
  | retired
  | trapped
  | waiting
  deriving DecidableEq, Repr

/-- The module. -/
structure State where
  /-- the time base (R83) -/
  tb : Nat
  /-- the part number (R2, R3; log entry 114, DESIGN CHOICE) -/
  part : Part
  cores : SMap Core
  dies : SMap Die
  ports : SMap Port
  vfs : SMap Vf
  mem : MemSys
  /-- requests to peer modules that are not answered, or whose answer has not been taken (R448), oldest first -/
  peers : List PeerReq
  hearth : Hearth
  pf : Pf
  sec : Sec
  /-- host memory, by host physical address (R439, R440) -/
  host : Memory
  /-- events that come next, first first (log entry 1, DESIGN CHOICE) -/
  agenda : List Instr
  turn : Turn
  /-- the core and stream whose instruction executes; `curX` is the X-stream -/
  cur : Nat
  curX : Bool
  issue : Issue
  /-- the model's own counter of free values (log entry 11, DESIGN CHOICE) -/
  free : Nat
  deriving DecidableEq, Repr

/-- The module right after reset: nothing dispatched, no VF, no firmware run. -/
def State.reset : State :=
  { tb := 0, part := .p1T, cores := [], dies := [], ports := [], vfs := [], mem := .init, peers := [], hearth := .init, pf := .init
    sec := .init, host := [], agenda := [], turn := .stream false, cur := 0, curX := false, issue := .retired, free := 0 }

end Sys2Proof.Machine
end

