-- ==== Sys2Proof/Machine/Access.lean ====
section
/-! DEFINITION. Access to the parts of State: cores, streams, registers, dies, virtual functions and their
configuration, and the retirement of an instruction (R69, R72, R104, R105). -/

namespace Sys2Proof.Machine
open Sys2Proof

/-! ### Parts of the module -/

/-- A core by its module-wide number (R4). -/
def State.core (s : State) (c : Nat) : Core := SMap.get .init s.cores c

/-- Replaces a core. -/
def State.setCore (s : State) (c : Nat) (v : Core) : State := { s with cores := SMap.set .init s.cores c v }

/-- Changes a core. -/
def State.updCore (s : State) (c : Nat) (f : Core → Core) : State := s.setCore c (f (s.core c))

/-- The core whose instruction executes. -/
def State.here (s : State) : Core := s.core s.cur

/-- Changes the core whose instruction executes. -/
def State.updHere (s : State) (f : Core → Core) : State := s.updCore s.cur f

/-- A compute die. -/
def State.die (s : State) (d : Nat) : Die := SMap.get .init s.dies d

/-- Changes a die. -/
def State.updDie (s : State) (d : Nat) (f : Die → Die) : State := { s with dies := SMap.upd .init s.dies d f }

/-- A virtual function; number 0 is the PF's own space (R214). -/
def State.vf (s : State) (v : Nat) : Vf := SMap.get .init s.vfs v

/-- Changes a virtual function. -/
def State.updVf (s : State) (v : Nat) (f : Vf → Vf) : State := { s with vfs := SMap.upd .init s.vfs v f }

/-- A Horay Link port (R444). -/
def State.port (s : State) (p : Nat) : Port := SMap.get .init s.ports p

/-- Changes a port. -/
def State.updPort (s : State) (p : Nat) (f : Port → Port) : State := { s with ports := SMap.upd .init s.ports p f }

/-- The die of a core (R4). -/
def dieOf (core : Nat) : Nat := core / 64

/-- The quartet of a core, module-wide: 16 × die + quartet (R4, R441). -/
def quartetOf (core : Nat) : Nat := core / 4

/-- The member number of a core in its quartet (R4). -/
def memberOf (core : Nat) : Nat := core % 4

/-! ### Streams and registers -/

/-- The C-stream, or the X-stream where `x`. -/
def Core.stream (c : Core) (x : Bool) : Stream := if x then c.x else c.c

/-- Replaces a stream. -/
def Core.setStream (c : Core) (x : Bool) (t : Stream) : Core := if x then { c with x := t } else { c with c := t }

/-- The stream that executes. -/
def State.self (s : State) : Stream := s.here.stream s.curX

/-- Changes the stream that executes. -/
def State.updSelf (s : State) (f : Stream → Stream) : State :=
  s.updHere fun c => c.setStream s.curX (f (c.stream s.curX))

/-- A scalar register by number: s0 reads zero; in handler mode s24 to s31 name the handler bank (R72). -/
def Stream.reg (t : Stream) (r : Reg) : Dword :=
  if r = 0 then 0
  else if t.mode = .handler ∧ 24 ≤ r.toNat then SMap.get 0 t.hregs r.toNat
  else SMap.get 0 t.regs r.toNat

/-- Writes a scalar register; a write to s0 is discarded (R72). -/
def Stream.setReg (t : Stream) (r : Reg) (v : Dword) : Stream :=
  if r = 0 then t
  else if t.mode = .handler ∧ 24 ≤ r.toNat then { t with hregs := SMap.set 0 t.hregs r.toNat v }
  else { t with regs := SMap.set 0 t.regs r.toNat v }

/-- A scalar register of the stream that executes. -/
def State.reg (s : State) (r : Reg) : Dword := s.self.reg r

/-- Writes a scalar register of the stream that executes. -/
def State.setReg (s : State) (r : Reg) (v : Dword) : State := s.updSelf fun t => t.setReg r v

/-- A mask register: k0 reads all ones (R73). -/
def Core.mask (c : Core) (k : MaskReg) : Word := if k = 0 then 0xFFFFFFFF else SMap.get 0 c.vec.masks k.toNat

/-- Writes a mask register; k0 cannot be written (R73). -/
def Core.setMask (c : Core) (k : MaskReg) (v : Word) : Core :=
  if k = 0 then c else { c with vec := { c.vec with masks := SMap.set 0 c.vec.masks k.toNat v } }

/-- The entries of a vector queue, head first (R74). -/
def Core.queue (c : Core) (q : Nat) : List Vec := SMap.get [] c.vec.queues q

/-- Replaces a vector queue. -/
def Core.setQueue (c : Core) (q : Nat) (l : List Vec) : Core :=
  { c with vec := { c.vec with queues := SMap.set [] c.vec.queues q l } }

/-- A semaphore (R93). -/
def Core.sem (c : Core) (n : Nat) : Sem := SMap.get .init c.sems n

/-- Replaces a semaphore. -/
def Core.setSem (c : Core) (n : Nat) (v : Sem) : Core := { c with sems := SMap.set .init c.sems n v }

/-- A command queue. -/
def Core.eng (c : Core) : EngQ → EngQueue
  | .load => c.load
  | .store => c.store
  | .matrix => c.matrix
  | .backfill => c.backfill

/-- Replaces a command queue. -/
def Core.setEng (c : Core) (q : EngQ) (v : EngQueue) : Core :=
  match q with
  | .load => { c with load := v }
  | .store => { c with store := v }
  | .matrix => { c with matrix := v }
  | .backfill => { c with backfill := v }

/-- The number of a queue (R81: ENGQ). -/
def qCode : EngQ → Nat
  | .load => 0
  | .store => 1
  | .matrix => 2
  | .backfill => 3

/-- The queue of a number. -/
def qOfCode : Nat → EngQ
  | 0 => .load
  | 1 => .store
  | 2 => .matrix
  | _ => .backfill

/-! ### Tails -/

/-- The tail of a queued command. -/
def tailOf : Instr → Option Tail
  | .xld o | .xldDec o | .xldVfy o | .xst o | .xcp o | .xcpScl o | .xcpVfy o => o.tail
  | .mlw o => o.tail
  | .mswap o => o.tail
  | .mfuse o => o.tail
  | .mfuseOff o => o.tail
  | .mmul o => o.tail
  | .mmulSmax o | .mamap o => o.tail
  | .mst o => o.tail
  | .mzero o | .attn o => o.tail
  | .mlora o => o.tail
  | .mloraClr o => o.tail
  | .bkfill o => o.tail
  | .tload o => o.tail
  | .tinval o | .tinvalSh o => o.tail
  | _ => none

/-- The channel of a copy (R253). -/
def channelOf : Instr → Option Nat
  | .xld o | .xldDec o | .xldVfy o | .xst o | .xcp o | .xcpScl o | .xcpVfy o => some o.ch.toNat
  | _ => none

/-- The command stands ahead of its first step: at the head, not begun, without a fault, and not behind a command that a
handler dropped and from which it has not returned (R81). -/
def EngQueue.standing (e : EngQueue) : Option Cmd :=
  match e.cmds with
  | k :: _ => if !e.begun && e.fault.isNone && !e.sigPending && e.held.isNone then some k else none
  | [] => none

/-- The window of a command that is held to its stamp (R172): first and last gsc. -/
def EngQueue.window (e : EngQueue) : Option (Nat × Nat) :=
  match e.standing with
  | none => none
  | some k =>
    match (tailOf k.op).bind Tail.timed with
    | some (slack, _) => if e.untimed then none else some (k.stamp.toNat, k.stamp.toNat + 4 * slack.toNat)
    | none => none

/-! ### Serving a semaphore (R94) -/

/-- A timed command takes its wait in the cycle that admits it (R172), not in the signal's. -/
def Core.timedWaiter (c : Core) : Waiter → Bool
  | .stream => false
  | .engine q => (c.eng q).window.isSome

/-- Serves the waiters of a semaphore, first first, while its count is at least 1. Also in a frozen group: the tail wait in which an
untimed head already stands is served then, and the count falls; R174 holds only what has not begun to wait (log entry 118, DESIGN
CHOICE). -/
def Core.serveFrom (c : Core) (n : Nat) : List (Nat × Waiter) → Core
  | [] => c
  | w :: l =>
    if w.1 ≠ n then c.serveFrom n l
    else if (c.sem n).count = 0 || c.timedWaiter w.2 then c
    else
      Core.serveFrom { c.setSem n { c.sem n with count := (c.sem n).count - 1 } with
        waiters := c.waiters.filter (· != w), granted := c.granted ++ [w] } n l

/-- The waiters of a semaphore are served in the cycle in which its count rises (R94). -/
def Core.semServe (c : Core) (n : Nat) : Core := c.serveFrom n c.waiters

/-- A semaphore as the C-stream finds it: a wait of its own that was served and has not retired, because the rest of its
group still waits, has not begun (R75, R95), so its count is there again. -/
def Core.semNow (c : Core) (n : Nat) : Sem :=
  let m := c.sem n
  if c.granted.contains (n, Waiter.stream) && m.count != m.ceiling then { m with count := m.count + 1 } else m

/-- The C-stream no longer holds a served wait of a semaphore. -/
def Core.ungrant (c : Core) (n : Nat) : Core :=
  { c.setSem n (c.semNow n) with granted := c.granted.filter (· != (n, Waiter.stream)) }

/-! ### Configuration (R394) -/

/-- A configuration field of a VF. -/
def State.cfg (s : State) (v id : Nat) (index : Nat := 0) : Nat :=
  (SMap.get (0 : Dword) (s.vf v).cfg (4096 * id + index)).toNat

/-- A VF's interface refuses a request that does not come in its IDE stream, while it is in CONFIG_LOCKED or RUN (R406), or in ERROR,
whose access is as in CONFIG_LOCKED (R407). -/
def State.refuses (s : State) (h : HostReq) : Bool :=
  !h.ide && ((s.vf h.vf).tdisp == .locked || (s.vf h.vf).tdisp == .run || (s.vf h.vf).tdisp == .error)

/-- What a request of the host does where the interface takes it; one that it refuses has no effect (R406). -/
def onHost (h : HostReq) (s : State) (f : State → State) : Host.Outcome State Fault Refusal :=
  .next (if s.refuses h then s else f s)

/-- A field that reads 0 as its default (R394). -/
def orDefault (v d : Nat) : Nat := if v = 0 then d else v

/-- B_op in µs (R301). -/
def State.bop (s : State) (v : Nat) : Nat := orDefault (s.cfg v 0x06) 50

/-- T_pf in µs (R225). -/
def State.tpf (s : State) (v : Nat) : Nat := orDefault (s.cfg v 0x07) 5000

/-- T_hang in µs (R427). -/
def State.thang (s : State) (v : Nat) : Nat := orDefault (s.cfg v 0x08) 10000

/-- The weight of a VF (R299). -/
def State.weight (s : State) (v : Nat) : Nat := orDefault (s.cfg v 0x05) 1

/-- Pages per millisecond that adapter fills may take (R361). -/
def State.afillq (s : State) (v : Nat) : Nat := orDefault (s.cfg v 0x15) 1

/-- Cycles of tb in a microsecond (R83: 2.7 GHz). -/
def usCycles : Nat := 2700

/-- Whether a core lies in a VF's partition (R392). -/
def State.inPart (s : State) (v core : Nat) : Bool := (s.cfg v 0x02 (core / 64)).testBit (core % 64)

/-- Whether a VF marks a core exclusive (R392). -/
def State.exclusive (s : State) (v core : Nat) : Bool := (s.cfg v 0x03 (core / 64)).testBit (core % 64)

/-- The running VF of a core (R83: vfid). -/
def Core.vfid (c : Core) : Nat := c.csr.vfid.toNat

/-- The causes of a save that the context area records (R420; log entry 77, DESIGN CHOICE): a forced pre-emption, a halt at the driver's
request, a brk. -/
abbrev saveForced : Nat := 1
abbrev saveHalt : Nat := 2
abbrev saveBrk : Nat := 3

/-- The first address of the local window (R190, R194). -/
def lwbase : Nat := 0x00FFFFFFFFE00000

/-- SPBYTES of a core (R189, R191). -/
def Core.spBytes (c : Core) : Nat := bitsOf c.csr.lmcfg.toNat 53 32

/-- L1SZ of a core (R191). -/
def Core.l1sz (c : Core) : Nat := bitsOf c.csr.lmcfg.toNat 1 0

/-- PRSZ of a core (R191). -/
def Core.prsz (c : Core) : Nat := bitsOf c.csr.lmcfg.toNat 5 4

/-- Bytes of the probe region (R189). -/
def Core.prBytes (c : Core) : Nat := if c.prsz = 0 then 0 else 2 ^ (17 + c.prsz)

/-- Bytes of a probe slot (R189). -/
def Core.slotBytes (c : Core) : Nat := 2 ^ (14 + bitsOf c.csr.lmcfg.toNat 9 8)

/-- A core's slots (R189). -/
def Core.slotCount (c : Core) : Nat := c.prBytes / c.slotBytes

/-! ### Nodes -/

/-- A node of the Hearth, if it exists. -/
def State.node? (s : State) (id : Dword) : Option Node := s.hearth.nodes.lookup id.toNat

/-- Replaces a node. -/
def State.setNode (s : State) (id : Dword) (n : Node) : State :=
  { s with hearth := { s.hearth with
      nodes := SMap.insert id.toNat n (SMap.erase s.hearth.nodes id.toNat) } }

/-- Changes a node that exists. -/
def State.updNode (s : State) (id : Dword) (f : Node → Node) : State :=
  match s.node? id with
  | some n => s.setNode id (f n)
  | none => s

/-- The VF of a node identity (R292). -/
def nodeVf (id : Dword) : Nat := bitsOf id.toNat 63 56

/-- The identity of the graph of a node (R292). -/
def graphKey (id : Dword) : Nat := id.toNat / 65536

/-- A graph, if it exists. -/
def State.graph? (s : State) (key : Nat) : Option Graph := s.hearth.graphs.lookup key

/-- Replaces a graph. -/
def State.setGraph (s : State) (key : Nat) (g : Graph) : State :=
  { s with hearth := { s.hearth with
      graphs := SMap.insert key g (SMap.erase s.hearth.graphs key) } }

/-! ### Retirement (R69, R104, R105) -/

/-- R104: the innermost active level counts down when the group's last word lies at its lend; a level that ends hands
the test to the next outer one. The answer is the levels and where the stream goes on. -/
def Loops.countDown (l : Loops) (last next : Dword) : Loops × Dword :=
  let outer (l : Loops) : Loops × Dword :=
    if l.depth = 1 ∧ l.end0 = last then
      if l.cnt0 - 1 = 0 then ({ l with cnt0 := 0, depth := 0 }, next)
      else ({ l with cnt0 := l.cnt0 - 1 }, l.start0)
    else (l, next)
  if l.depth = 2 then
    if l.end1 = last then
      if l.cnt1 - 1 = 0 then outer { l with cnt1 := 0, depth := 1 }
      else ({ l with cnt1 := l.cnt1 - 1 }, l.start1)
    else (l, next)
  else outer l

/-- R105: a taken transfer ends every level, innermost first, whose body does not hold the target. -/
def Loops.leave (l : Loops) (target : Nat) : Loops :=
  let outer (l : Loops) : Loops :=
    if l.depth = 1 ∧ ¬(l.start0.toNat ≤ target ∧ target ≤ l.end0.toNat) then { l with depth := 0 } else l
  if l.depth = 2 then
    if l.start1.toNat ≤ target ∧ target ≤ l.end1.toNat then l else outer { l with depth := 1 }
  else outer l

/-- The next word of the stream; after the last instruction of a group, R104 applies and a new group begins. Loop
levels are suspended in handler mode (R105). -/
def Stream.advance (t : Stream) (words : Nat) (stop : Bool) : Stream :=
  let next := t.pc + BitVec.ofNat 64 (4 * words)
  if stop then
    let r := if t.mode = .handler then (t.loops, next) else t.loops.countDown (next - 4) next
    { t with pc := r.2, gpc := r.2, loops := r.1 }
  else { t with pc := next }

/-- A taken transfer to `target` (R105). -/
def Stream.jump (t : Stream) (target : Dword) : Stream :=
  { t with pc := target, gpc := target
           loops := if t.mode = .handler then t.loops else t.loops.leave target.toNat }

/-- Clears the record of a wait, and notes that the node advanced (R427). -/
def State.retired (s : State) : State :=
  let s := s.updSelf fun t => { t with wait := none }
  { s.updHere fun c => { c with advanced := s.tb } with issue := .retired }

/-- An instruction of one word retires. -/
def State.done (s : State) (stop : Bool) : State := (s.updSelf fun t => t.advance 1 stop).retired

/-- An instruction with a tail word where `tail` is present retires. -/
def State.doneTail (s : State) (tail : Option Tail) (stop : Bool) : State :=
  (s.updSelf fun t => t.advance (if tail.isSome then 2 else 1) stop).retired

/-- A taken transfer retires. -/
def State.jumpTo (s : State) (target : Dword) : State := (s.updSelf fun t => t.jump target).retired

/-- The image that a stream fetches from in a mode (R90, R108). The firmware binary is the image of a node of the PF; a core
that runs a node of a VF has none, so that no offset lies in it (R390; log entry 35, DEDUCED). -/
def Core.imageOf (c : Core) (m : Mode) : Image :=
  match m with
  | .node => c.image
  | .handler => c.himage
  | .device => if c.vfid = 0 then c.image else .none

/-- The length of the binary that a stream fetches from in a mode (R69, R90, R108); a core that holds no image has an
empty one. -/
def Core.binLen (c : Core) (x : Bool) (m : Mode) : Nat := if x then (c.imageOf m).lenX else (c.imageOf m).lenC

/-! ### Why an instruction stops short -/

/-- What survives an instruction that traps or waits: what its accesses met in memory or asked of the PF. -/
inductive Side where
  /-- latent errors of these lines are met (R386 to R388) -/
  | meet (lines : List Nat)
  /-- a page-fault event (R225, R442) -/
  | pageFault (agent : Agent) (vf va kind : Nat)
  /-- a page fault answered FAIL is raised (R225) -/
  | answered (tag : Nat)
  /-- a malformed entry (R218, R442): kind, level and address -/
  | malformed (agent : Agent) (vf kind level addr : Nat)
  /-- an allocation failed (R329): cause and index -/
  | allocFail (cause index : Nat)
  /-- a READ or AMO leaves to a peer (R448): its opcode and message -/
  | peer (r : PeerReq) (op : Byte) (m : LinkMsg)
  /-- the C-stream's L1 writes the line of an address back and drops it (R200) -/
  | evict (core vf va : Nat)
  /-- tags of these lines did not match (R396, R405) -/
  | lose (lines : List Nat)
  /-- the answer of a request to a peer has been used up -/
  | forget (r : PeerReq)
  /-- what the accesses that came before the stop met: the state that they left, of which the parts stay that no later stop of the
  instruction undoes (R222, R386 to R388, R442) -/
  | seen (t : State)
  /-- an entry of a die's probe table is dropped for an error of its storage (R203, R388) -/
  | dropEntry (die slot : Nat)
  deriving DecidableEq, Repr

/-- What a try that is given up, with no stop of its own, leaves behind: what it met in memory. -/
def Side.met : Side → Bool
  | .meet _ | .lose _ | .seen _ | .dropEntry _ _ | .forget _ => true
  | .pageFault _ _ _ _ | .answered _ | .malformed _ _ _ _ _ | .allocFail _ _ | .peer _ _ _ | .evict _ _ _ => false

/-- A trap to take: its cause, eval and what the fault record shows (R417). -/
structure Trap where
  code : Byte
  val : Dword
  frec : FaultRec
  sides : List Side
  deriving DecidableEq, Repr

/-- Why an instruction or an engine step did not complete. -/
inductive Stop where
  | trap (t : Trap)
  | wait (on : WaitOn) (sides : List Side)
  deriving DecidableEq, Repr

/-- The sides of a stop. -/
def Stop.sides : Stop → List Side
  | .trap t => t.sides
  | .wait _ l => l

/-- A trap that leaves nothing but its cause and eval. -/
def trapOf {α : Type} (code : Byte) (val : Dword) : Except Stop α := .error (.trap ⟨code, val, .zero, []⟩)

/-- A trap whose fault record shows an address (R417). -/
def trapAddr {α : Type} (code : Byte) (addr : Nat) (sides : List Side := []) : Except Stop α :=
  .error (.trap ⟨code, BitVec.ofNat 64 addr, { FaultRec.zero with addr := BitVec.ofNat 64 addr }, sides⟩)

/-- A trap whose fault record shows a handle (R417). -/
def trapHand {α : Type} (code : Byte) (h : Dword) : Except Stop α :=
  .error (.trap ⟨code, h, { FaultRec.zero with hand := h }, []⟩)

/-- What survives a stop, before what it has itself. -/
def Stop.add (l : List Side) : Stop → Stop
  | .trap t => .trap { t with sides := l ++ t.sides }
  | .wait w m => .wait w (l ++ m)

/-- Where what follows stops, these survive it too. -/
def withSides {α : Type} (l : List Side) : Except Stop α → Except Stop α
  | .ok a => .ok a
  | .error e => .error (e.add l)

/-- What follows some accesses, which left a state: where it stops, what they met stays. -/
def State.onward {α : Type} (t : State) : Except Stop α → Except Stop α := withSides [.seen t]

/-- A wait with no other effect. -/
def waitOn {α : Type} (w : WaitOn) : Except Stop α := .error (.wait w [])

/-- Stops unless a condition holds. -/
def need (c : Bool) (e : Except Stop Unit) : Except Stop Unit := if c then .ok () else e

/-- 64-bit value of a number. -/
abbrev d64 (n : Nat) : Dword := BitVec.ofNat 64 n

/-- A signed number as 64 bits. -/
def sx (w v : Nat) : Dword := (BitVec.ofNat w v).signExtend 64

end Sys2Proof.Machine
end

