-- ==== Sys2Proof/Machine/Events.lean ====
section
/-! DEFINITION. Completion records and events (R310, R311, R442): a posted record is held by its ring until
EVENT_RECORD_WRITE writes it. -/

namespace Sys2Proof.Machine
open Sys2Proof

/-- A 32-byte record (R311); TIME is filled in when it is written. -/
def record (node : Dword) (status cause flags : Nat) (index : Nat) (last8 : Nat) : List Byte :=
  leBytes 8 0 ++ leBytes 8 node.toNat ++ leBytes 1 status ++ leBytes 1 cause ++ leBytes 1 flags ++ leBytes 1 0
    ++ leBytes 4 index ++ leBytes 8 last8

/-- A record joins those that its ring holds (R310). -/
def State.postVf (s : State) (vf ring : Nat) (r : List Byte) : State :=
  s.updVf vf fun v => { v with rings := SMap.upd .init v.rings ring fun g => { g with held := g.held ++ [r] } }

/-- A record on the PF event ring (R442); `last8` is what bytes 0x18 to 0x1F hold. -/
def State.postPf (s : State) (node : Dword) (status cause index last8 : Nat) : State :=
  { s with pf := { s.pf with ring := { s.pf.ring with
      held := s.pf.ring.held ++ [record node status cause 0 index last8] } } }

/-- The backfill request that a node serves (R350). -/
def State.bfOf (s : State) (id : Dword) : Option BfEntry :=
  (s.dies.flatMap fun p => p.2.bfq).find? fun e => e.node == some id

/-- The event ring of a node: its graph's, or that of its backfill request (R290, R350). -/
def State.ringOfNode (s : State) (id : Dword) : Nat :=
  match s.graph? (graphKey id) with
  | some g => g.ring
  | none => ((s.bfOf id).map fun e => e.ring).getD 0

/-- The step counters of the three engine queues of the node's core with NCI 0, and npos (R311: STEPL to POS). A node
that left its cores at a checkpoint has npos alone. -/
def State.stepWord (s : State) (id : Dword) : Nat :=
  let word (k : Core) : Nat :=
    k.load.step % 2 ^ 16 + k.store.step % 2 ^ 16 * 2 ^ 16 + k.matrix.step % 2 ^ 16 * 2 ^ 32
      + k.csr.npos.toNat % 2 ^ 16 * 2 ^ 48
  match s.node? id with
  | none => 0
  | some n =>
    match n.cores, n.saved with
    | c :: _, _ => word (s.core c)
    | [], p :: _ => word p.2
    | [], [] => bitsOf (((n.check.bind fun c => c.cores.head?).map fun r => r.npos.toNat).getD 0) 15 0 * 2 ^ 48

/-- A record of a node, with its step counters as they stand. -/
def State.nodeRecord (s : State) (id : Dword) (status cause flags index : Nat) : List Byte :=
  record id status cause flags index (s.stepWord id)

/-- An event of a node on the ring of its graph. -/
def State.postNode (s : State) (id : Dword) (status cause flags index : Nat) : State :=
  s.postVf (nodeVf id) (s.ringOfNode id) (s.nodeRecord id status cause flags index)

/-- An event of a VF on its ring 0 (R415, R384). -/
def State.postRing0 (s : State) (vf status cause index : Nat) : State :=
  s.postVf vf 0 (record 0 status cause 0 index 0)

end Sys2Proof.Machine
end

