-- ==== Sys2Proof/Machine/Memory.lean ====
section
/-! DEFINITION. The memory system: the physical map (R375, R449), homes and visibility orders (R259 to R274), poison
and latent errors (R385 to R388), encrypted frames (R401 to R406). -/

namespace Sys2Proof.Machine
open Sys2Proof

/-! ### The physical map -/

/-- The ranges of R375 and R449. -/
inductive Region where
  | hbm (die : Nat)
  | aperture (die : Nat)
  | cxl (port : Nat)
  | peer (mod : Nat)
  | none
  deriving DecidableEq, Repr

/-- The range that holds a device physical address. -/
def regionOf (pa : Nat) : Region :=
  if pa < 2 ^ 40 then .hbm (pa / 2 ^ 35)
  else if pa < 2 ^ 40 + 2 ^ 37 then .aperture ((pa - 2 ^ 40) / 2 ^ 32)
  else if 2 ^ 44 ≤ pa ∧ pa < 2 ^ 44 + 2 ^ 44 then .cxl ((pa - 2 ^ 44) / 2 ^ 43)
  else if 2 ^ 51 ≤ pa ∧ pa < 2 ^ 51 + 2 ^ 50 then .peer ((pa - 2 ^ 51) / 2 ^ 44)
  else .none

/-- A die that has an HBM home (R3, R376). -/
def State.homed (s : State) (d : Nat) : Bool := s.part = .p1T || decide (d < 24)

/-- The blocks of a die's pool: none on a die without an HBM home (R321). -/
def State.poolSize (s : State) (d : Nat) : Nat := if s.homed d then (s.die d).poolBlocks else 0

/-- The range of `n` bytes from a physical address lies in populated space (R375, R376, R449). -/
def State.backed (s : State) (pa n : Nat) : Bool :=
  regionOf pa = regionOf (pa + n - 1) &&
    match regionOf pa with
    | .hbm d | .aperture d => s.homed d
    | .cxl p => decide (pa + n ≤ 2 ^ 44 + p * 2 ^ 43 + SMap.get 0 s.mem.cxlExtent p)
    | .peer m => SMap.get (0 : Dword) s.pf.route m != 0
    | .none => false

/-- The home of a location (R262, R377, R381): 0 to 31 a die's L2, 32 + h the memory-side unit of half h, 64 + p a CXL
port. -/
def homeOf (pa : Nat) (ms : Bool) : Nat :=
  match regionOf pa with
  | .hbm d => if ms then 32 + d else d
  | .aperture d => 32 + d
  | .cxl p => 64 + p
  | .peer _ | .none => 66

/-- The die whose visibility order a home writes at serialisation (R262). -/
def homeDie (home : Nat) : Option Nat := if home < 64 then some (home % 32) else none

/-- The compute dies. -/
def allDies : List Nat := List.range 32

/-! ### Reading -/

/-- A write is in the view of a read: `view` is the die whose visibility order is read (none: the home's own order,
R261), and an agent reads its own writes (R263) and nothing older than it has read at the home (R267). -/
def MemSys.seen (m : MemSys) (view : Option Nat) (agent : Option Agent) (pa id : Nat) (w : WriteRec) : Bool :=
  match view with
  | none => true
  | some d =>
    w.dies.contains d || agent == some w.agent
      || m.marks.any fun k => agent == some k.1 && k.2.1 == pa && decide (id ≤ k.2.2)

/-! ### Errors of lines (R378, R386 to R388) -/

/-- What a read of a line meets. -/
inductive LineFate where
  | clean
  /-- its code corrects it, and the corrected line is written back -/
  | corrected
  /-- a clean copy is dropped, and the access fetches the line again -/
  | refetched
  /-- it is detected and cannot be corrected -/
  | lost
  /-- its code does not see these wrong bits; it corrects those of `fixed` -/
  | unseen (wrong fixed : BitVec 512)
  deriving DecidableEq, Repr

/-- The wrong bits of a line. -/
def bitsSet (f : BitVec 512) : List Nat := (List.range 512).filter fun i => f.getLsbD i

/-- What a grade's code makes of a line with wrong bits (R378). What R378 does not promise is free (log entry 120, DESIGN CHOICE). -/
def codeFate (grade : Nat) (f : BitVec 512) : LineFate :=
  let beyond (part : BitVec 512) : LineFate := match Config.beyondCode grade (f &&& part) with
    | none => .lost
    | some e => .unseen (e &&& part) (f &&& ~~~part)
  let bits := bitsSet f
  match grade with
  | 1 =>
    let low := (bits.filter (· < 256)).length
    let high := (bits.filter (256 ≤ ·)).length
    let half : BitVec 512 := BitVec.ofNat 512 (2 ^ 256 - 1)
    if low = 2 ∨ high = 2 then .lost
    else if low ≤ 1 ∧ high ≤ 1 then .corrected
    else beyond ((if 2 < low then half else 0) ||| if 2 < high then ~~~half else 0)
  | 2 => if (List.range 8).any fun w => (bits.filter fun i => i / 64 == w).length % 2 == 1 then .lost else .unseen f 0
  | _ =>
    match (bits.map Config.symbolOf).dedup.length with
    | 1 => .corrected
    | 2 => .lost
    | _ => beyond (-1)

/-- What a read of a line meets of its latent error (R378, R386 to R388). -/
def MemSys.fate (m : MemSys) (line : Nat) : LineFate :=
  match m.latent.lookup line with
  | none => .clean
  | some e =>
    match e.copy with
    | 0 => if e.flips = 0 then .clean else codeFate (SMap.get 0 m.grade (line / 8192)).toNat e.flips
    | 1 => .refetched
    | _ => .lost

/-- The bits of a byte that read wrong because no code sees them. -/
def MemSys.unseenAt (m : MemSys) (pa : Nat) : Byte :=
  if m.latent = [] then 0
  else
    match m.fate (pa / 64) with
    | .unseen e _ => e.extractLsb' (8 * (pa % 64)) 8
    | _ => 0

/-- One byte as an agent reads it (R261, R263). -/
def MemSys.byteAt (m : MemSys) (view : Option Nat) (agent : Option Agent) (pa : Nat) : Byte :=
  let upd (b : Byte) (w : WriteRec) : Byte := (w.cells.lookup pa).getD b
  let b := m.log.foldl (fun b p => if m.seen view agent pa p.1 p.2 then upd b p.2 else b) (m.base.byte pa)
  m.pend.foldl (fun b w => if agent == some w.agent then upd b w else b) (b ^^^ m.unseenAt pa)

/-- The metadata bits that a grade leaves (R378, R380). -/
def metaBits (grade : Nat) (enc : Bool) : Nat :=
  match grade with
  | 1 => 44
  | 2 => if enc then 0 else 56
  | _ => 0

/-- The readable bits of an aperture byte (R380). -/
def MemSys.apertureMask (m : MemSys) (pa : Nat) : Byte :=
  let d := (pa - 2 ^ 40) / 2 ^ 32
  let line := (pa - 2 ^ 40) % 2 ^ 32 / 8
  let frame := (d * 2 ^ 35 + line * 64) / 2 ^ 19
  let n := metaBits (SMap.get 0 m.grade frame).toNat ((m.frameKey.lookup frame).isSome)
  let i := pa % 8
  BitVec.ofNat 8 (2 ^ (min 8 (n - 8 * i)) - 1)

/-- `n` bytes from a physical address as an agent reads them. -/
def MemSys.readAt (m : MemSys) (view : Option Nat) (agent : Option Agent) (pa n : Nat) : List Byte :=
  (List.range n).map fun i =>
    let b := m.byteAt view agent (pa + i)
    match regionOf (pa + i) with
    | .aperture _ => b &&& m.apertureMask (pa + i)
    | _ => b

/-- A write covers a line whole. -/
def coversLine (cells : List (Nat × Byte)) (line : Nat) : Bool :=
  decide (64 ≤ (cells.filter fun c => c.1 / 64 == line).length)

/-- The poison of a line, marked at `mark`, is still in the view of a read: no later write that covers the line is (R387,
R389). -/
def MemSys.poisonSeen (m : MemSys) (view : Option Nat) (agent : Option Agent) (line mark : Nat) : Bool :=
  mark != 0
    && !(m.log.any fun p => decide (mark ≤ p.1 + 1) && coversLine p.2.cells line && m.seen view agent (64 * line) p.1 p.2)
    && !(m.pend.any fun w => agent == some w.agent && coversLine w.cells line)

/-- The lines that a counter block or a node of a level covers (R401, R403). -/
def treeSpan (level : Nat) : Nat := 2 ^ (6 * (level + 1))

/-- A counter block or node covers a line that no write has covered since. -/
def TreeErr.covers (t : TreeErr) (line : Nat) : Bool := line / treeSpan t.level == t.index && !t.healed.contains line

/-- The tags of an encrypted line, or those of a counter block or node above it, do not match (R405). -/
def MemSys.untrue (m : MemSys) (line : Nat) : Bool :=
  (m.frameKey.lookup (line / 8192)).isSome
    && (SMap.get 0 m.tagDiff line != 0 || m.broken.any fun t => t.covers line)

/-- Reading a line delivers poison (R387, R405, R443): it is marked, it holds an error that its grade cannot correct, its
tags do not match, or its CXL link is down. -/
def MemSys.poisoned (m : MemSys) (view : Option Nat) (agent : Option Agent) (pa : Nat) : Bool :=
  let line := pa / 64
  match regionOf pa with
  | .hbm _ => m.poisonSeen view agent line (SMap.get 0 m.poison line) || m.fate line == .lost || m.untrue line
  | .cxl p => SMap.get false m.cxlDown p || m.poisonSeen view agent line (SMap.get 0 m.poison line)
  | _ => false

/-- A line is marked as poisoned now. -/
def MemSys.spoil (m : MemSys) (line : Nat) : MemSys :=
  { m with poison := SMap.set 0 m.poison line (m.nextId + 1), latent := SMap.erase m.latent line }
/-- A poisoned line of a weight frame: firmware restores the frame (R389). -/
def State.weightLine (s : State) (line : Nat) : State :=
  if s.sec.weightFrames.any fun p => p.2 == line / 8192 then
    { s with sec := { s.sec with restoring := SMap.set false s.sec.restoring (line / 8192) true } }
  else s

/-- A line becomes poisoned, and an event tells the PF (R387). -/
def State.loseLine (s : State) (line : Nat) : State :=
  ({ s with mem := s.mem.spoil line }.weightLine line).postPf 0 (Config.eventStatus 0).toNat 0 0 (line * 64)

/-- An error of a half is counted (R386, R388). -/
def MemSys.countError (m : MemSys) (half : Nat) : MemSys :=
  let count (c : Dword) : Dword := if c = 0xFFFFFFFFFFFFFFFF then c else c + 1
  { m with corrected := SMap.upd 0 m.corrected half count }

/-- The latent error of a line is met by a read (R386 to R388). -/
def State.meetLine (s : State) (line : Nat) : State :=
  match s.mem.fate line with
  | .corrected | .refetched =>
    { s with mem := { s.mem with latent := SMap.erase s.mem.latent line }.countError (line * 64 / 2 ^ 35) }
  | .lost => s.loseLine line
  | .unseen _ fixed =>
    if fixed = 0 then s
    else
      let left (e : LineErr) : LineErr := { e with flips := e.flips &&& ~~~fixed }
      { s with mem := { s.mem with latent := SMap.upd .none s.mem.latent line left }.countError (line * 64 / 2 ^ 35) }
  | .clean => s

/-- The VF of an encrypted line. -/
def MemSys.keyVf (m : MemSys) (line : Nat) : Nat := ((m.frameKey.lookup (line / 8192)).map Prod.fst).getD 0

/-- A counter block or node whose tag does not match is met: every line that it covers is poisoned, and event 0x8F is
posted on ring 0 of the VF (R405, R415). -/
def State.meetTree (s : State) (line : Nat) (t : TreeErr) : State :=
  if t.met.isSome || !t.covers line then s
  else
    let first := t.index * treeSpan t.level * 64 % 2 ^ 35
    { s with mem := { s.mem with
        broken := s.mem.broken.map fun x => if x = t then { x with met := some (s.mem.nextId + 1) } else x } }.postRing0
      (s.mem.keyVf line) 0x8F (if t.level = 0 then 1 else 2) (first / 2 ^ 12 % 2 ^ 32)

/-- The tags of a line are met by a read that checks them (R404, R405). -/
def State.meetTags (s : State) (line : Nat) : State :=
  if (s.mem.frameKey.lookup (line / 8192)).isNone then s
  else
    let s := s.mem.broken.foldl (fun s t => s.meetTree line t) s
    if SMap.get 0 s.mem.tagDiff line = 0 then s
    else { s with mem := { s.mem with tagDiff := SMap.erase s.mem.tagDiff line } }.loseLine line

/-- The latent errors and the tags of some lines are met. -/
def State.meetLines (s : State) (lines : List Nat) : State := lines.foldl (fun s l => (s.meetLine l).meetTags l) s

/-- The lines that a range touches. -/
def linesOf (pa n : Nat) : List Nat :=
  (List.range ((pa + n + 63) / 64 - pa / 64)).map fun i => pa / 64 + i

/-! ### Encrypted frames (R401 to R406) -/

/-- The counter of the line at an address. -/
def MemSys.counterOf (m : MemSys) (pa : Nat) : Dword × BitVec 7 :=
  let c := SMap.get (⟨0, []⟩ : CounterBlock) m.counters (pa / 4096)
  (c.major, SMap.get 0 c.minors (pa % 4096 / 64))

/-- The counter of a child rises: its minor, or MAJOR, and then the minors start again (R403, R404). -/
def CounterBlock.up (c : CounterBlock) (i : Nat) : CounterBlock :=
  if SMap.get 0 c.minors i = 0x7F then { major := c.major + 1, minors := [] }
  else { c with minors := SMap.upd 0 c.minors i (· + 1) }

/-- Where State keeps a node of the tree. -/
def treePlace (level index : Nat) : Nat := level * 2 ^ 48 + index

/-- A line of an encrypted frame is written: its counter rises (R404), and on the path to the root the counter of each node below, and
then the root register; the update reaches the root at once (R403; log entry 152, DESIGN CHOICE). -/
def MemSys.raise (m : MemSys) (pa : Nat) : MemSys :=
  let upNode (n : SMap CounterBlock) (level : Nat) : SMap CounterBlock :=
    SMap.upd ⟨0, []⟩ n (treePlace level (pa / 64 / treeSpan level)) fun c => c.up (pa / 64 / treeSpan (level - 1) % 64)
  { m with
    counters := SMap.upd ⟨0, []⟩ m.counters (pa / 4096) fun c => c.up (pa % 4096 / 64)
    nodes := [1, 2, 3].foldl upNode m.nodes
    roots := SMap.upd 0 m.roots (pa / 2 ^ 30) (· + 1) }

/-- A counter block (level 0) or a node of the tree. -/
def MemSys.treeNode (m : MemSys) (level index : Nat) : CounterBlock :=
  if level = 0 then SMap.get ⟨0, []⟩ m.counters index else SMap.get ⟨0, []⟩ m.nodes (treePlace level index)

/-- The 64 bytes of a counter block or a node (R401, R403). -/
def CounterBlock.bytes (c : CounterBlock) : List Byte :=
  leBytes 8 c.major.toNat ++ leBytes 56 ((List.range 64).map fun i => (SMap.get 0 c.minors i).toNat * 2 ^ (7 * i)).sum

/-- CB(a, j, t) (R402). -/
def counterBlockOf (major : Dword) (minor : BitVec 7) (pa j : Nat) (tag : Bool) : BitVec 128 :=
  major ++ BitVec.ofBool tag ++ minor ++ BitVec.ofNat 46 (pa / 64) ++ (0 : BitVec 8) ++ BitVec.ofNat 2 j

/-- The ciphertext block of number `j` of a line (R402). -/
def State.cipherBlock (s : State) (line : List Byte) (pa j : Nat) (k : Nat) : BitVec 128 :=
  let c := s.mem.counterOf pa
  BitVec.ofNat 128 (field line (16 * j) 16) ^^^ Config.aes256 (Config.memoryKey k) (counterBlockOf c.1 c.2 pa j false)

/-- The tag key of a memory key (R395). -/
def tagKey (k : Nat) : BitVec 128 := Config.aes256 (Config.memoryKey k) 0

/-- The tag that R402 gives a line under a memory key: GHASH of its ciphertext and the length block of 512 bits. -/
def State.lineTag (s : State) (line : List Byte) (pa k : Nat) : BitVec 56 :=
  let c := s.mem.counterOf pa
  let blocks := (List.range 4).map fun j => s.cipherBlock line pa j k
  (Config.ghash (tagKey k) (blocks ++ [BitVec.ofNat 128 512])
    ^^^ Config.aes256 (Config.memoryKey k) (counterBlockOf c.1 c.2 pa 0 true)).setWidth 56

/-- The tag that is stored for a line: in the line's 56 metadata bits at the parity grade, in a u64 of the frame's tag region
otherwise (R379, R401). -/
def State.storedTag (s : State) (line : List Byte) (pa k : Nat) : BitVec 56 :=
  s.lineTag line pa k ^^^ SMap.get 0 s.mem.tagDiff (pa / 64)

/-- The counter under which a counter block or node is tagged: the parent's MAJOR and its minor there, or the root register
(R403). -/
def MemSys.tagCounter (m : MemSys) (level index : Nat) : Dword × BitVec 7 :=
  if level = 3 then (SMap.get 0 m.roots index, 0)
  else
    let p := m.treeNode (level + 1) (index / 64)
    (p.major, SMap.get 0 p.minors (index % 64))

/-- The tag of a counter block or node under a memory key, by R402 over its 64 bytes (R403). -/
def State.treeTag (s : State) (level index k : Nat) : BitVec 56 :=
  let c := s.mem.tagCounter level index
  let pa := 64 * (index * treeSpan level)
  let bytes := (s.mem.treeNode level index).bytes
  let blocks := (List.range 4).map fun j => BitVec.ofNat 128 (field bytes (16 * j) 16)
  (Config.ghash (tagKey k) (blocks ++ [BitVec.ofNat 128 512])
    ^^^ Config.aes256 (Config.memoryKey k) (counterBlockOf c.1 c.2 pa 0 true)).setWidth 56

/-- A byte of the ciphertext of an encrypted line (R402). -/
def State.cipherByte (s : State) (pa : Nat) (plain : Byte) : Byte :=
  match s.mem.frameKey.lookup (pa / 2 ^ 19) with
  | none => plain
  | some (_, k) =>
    let c := s.mem.counterOf pa
    let pad := Config.aes256 (Config.memoryKey k) (counterBlockOf c.1 c.2 pa (pa % 64 / 16) false)
    plain ^^^ pad.extractLsb' (8 * (pa % 16)) 8

/-- The VF of an encrypted frame keeps device mode out of it (R406, R407). -/
def State.sealedFrame (s : State) (pa : Nat) : Bool :=
  match s.mem.frameKey.lookup (pa / 2 ^ 19) with
  | some (v, _) => (s.vf v).tdisp != .unlocked
  | none => false

/-- An access of the PF: firmware in device mode (R76, R406), or a unit that works for it. -/
def State.pfAccess (s : State) (a : Agent) (vf : Nat) : Bool :=
  vf = 0 || match a with
    | .stream c => (s.core c).vfid = 0 || (s.core c).c.mode = .device
    | .engine c _ => (s.core c).vfid = 0
    | .pfFill _ => true
    | _ => false

/-- What an access finds in a frame. -/
inductive Sight where
  /-- its plaintext -/
  | plain
  /-- the bytes that are stored, with no tag check (R406; log entry 121, DEDUCED) -/
  | stored
  /-- tags that do not match under the accessor's key (R396, R405) -/
  | mismatch
  deriving DecidableEq, Repr

/-- What an access of an agent for a VF finds in the frame of an address; `enc`: its leaf has ENC = 1 (R396, R405 to R407). -/
def State.sight (s : State) (a : Agent) (vf pa : Nat) (enc : Bool) : Sight :=
  match s.mem.frameKey.lookup (pa / 2 ^ 19) with
  | none => .plain
  | some (v, k) =>
    let held := (s.vf v).km == some k
    if s.pfAccess a vf then
      if (s.vf v).tdisp != .unlocked then .stored else if held then .plain else if enc then .mismatch else .stored
    else if !enc then .stored
    else if v = vf && held then .plain else .mismatch

/-- Every line of a frame is written with zeros and zero metadata (R379, R405). -/
def MemSys.zeroFrame (m : MemSys) (f : Nat) : MemSys :=
  let first := 2 ^ 40 + f / 2 ^ 16 * 2 ^ 32 + f % 2 ^ 16 * 2 ^ 16
  let lies (pa : Nat) : Bool := pa / 2 ^ 19 == f || decide (first ≤ pa ∧ pa < first + 2 ^ 16)
  let clear (w : WriteRec) : WriteRec := { w with cells := w.cells.filter fun c => !lies c.1 }
  { m with base := m.base.filter fun c => !lies c.1, log := m.log.map fun p => (p.1, clear p.2), pend := m.pend.map clear
           poison := m.poison.filter fun p => p.1 / 8192 != f, latent := m.latent.filter fun p => p.1 / 8192 != f
           tagDiff := m.tagDiff.filter fun p => p.1 / 8192 != f
           broken := (m.broken.filter fun t => !(treeSpan t.level < 8192 && t.index * treeSpan t.level / 8192 == f)).map fun t =>
             if 8192 ≤ treeSpan t.level && f * 8192 / treeSpan t.level == t.index then
               { t with healed := t.healed.filter (· / 8192 != f) ++ (List.range 8192).map (f * 8192 + ·) }
             else t }

/-- A frame that a VF reaches through a leaf with ENC = 1 for the first time is granted to it under its present key: every
line is the encryption of zeros (R405; log entry 14, DEDUCED). -/
def State.grantFrame (s : State) (vf pa : Nat) : State :=
  match s.mem.frameKey.lookup (pa / 2 ^ 19), (s.vf vf).km with
  | none, some k =>
    { s with mem := { s.mem.zeroFrame (pa / 2 ^ 19) with frameKey := SMap.insert (pa / 2 ^ 19) (vf, k) s.mem.frameKey } }
  | _, _ => s

/-! ### Writing -/

/-- Cuts a write into the writes of single lines. -/
def splitLines (cells : List (Nat × Byte)) : List (List (Nat × Byte)) :=
  cells.foldr (fun c acc =>
    match acc with
    | (d :: t) :: rest => if c.1 / 64 = d.1 / 64 then (c :: d :: t) :: rest else [c] :: (d :: t) :: rest
    | _ => [c] :: acc) []

/-- The causal predecessors that an agent's later writes carry (R264). -/
def MemSys.predsOf (m : MemSys) (a : Agent) : List Nat := (m.preds.lookup a).getD []

/-- Writes leave an agent; they wait for their homes (R262). -/
def MemSys.issue (m : MemSys) (a : Agent) (vf : Nat) (cells : List (Nat × Byte)) (colours : Byte) (ms enc : Bool)
    (chan : Option Nat := none) : MemSys :=
  let mk (l : List (Nat × Byte)) : WriteRec :=
    { agent := a, vf := vf, cells := l, colours := colours
      home := homeOf ((l.head?.map Prod.fst).getD 0) ms, enc := enc, preds := m.predsOf a, dies := [], chan := chan }
  { m with pend := m.pend ++ (splitLines cells).map mk }

/-- The cells of a write that take effect: a partial write to a poisoned line changes nothing (R387), and the bits of a
metadata word above those that its line's grade leaves are ignored (R380). -/
def MemSys.effective (m : MemSys) (cells : List (Nat × Byte)) : List (Nat × Byte) :=
  cells.filterMap fun c =>
    match regionOf c.1 with
    | .aperture _ => if m.apertureMask c.1 = 0 then none else some (c.1, c.2 &&& m.apertureMask c.1)
    | _ =>
      if m.poisonSeen none none (c.1 / 64) (SMap.get 0 m.poison (c.1 / 64)) && !coversLine cells (c.1 / 64) then none else some c

/-- The bits of a line that some of its bytes hold. -/
def lineBits (cells : List (Nat × Byte)) : BitVec 512 :=
  cells.foldl (fun k c => k ||| (0xFF : BitVec 512) <<< (8 * (c.1 % 64))) 0

/-- A write at a home makes its bytes right: errors of the HBM copy in them are gone, and a line that it covers has no error
and a tag that matches (R387, R404). -/
def MemSys.cleanse (m : MemSys) (cells : List (Nat × Byte)) : MemSys :=
  let line := (cells.head?.map fun c => c.1 / 64).getD 0
  if coversLine cells line then { m with latent := SMap.erase m.latent line, tagDiff := SMap.erase m.tagDiff line }
  else
    match m.latent.lookup line with
    | none => m
    | some e => { m with latent := SMap.set LineErr.none m.latent line { e with flips := e.flips &&& ~~~(lineBits cells) } }

/-- A host function's previous writes are causal predecessors of its next (R274). -/
def MemSys.before (m : MemSys) (a : Agent) : List Nat :=
  match a with
  | .host _ _ => (m.log.filter fun e => e.2.agent == a).map Prod.fst
  | _ => []

/-- Appends a write to its home's order (R262, R404). Bytes stored in an encrypted frame without encryption leave a tag that
does not match (log entry 121, DEDUCED). -/
def MemSys.enter (m : MemSys) (w : WriteRec) : MemSys :=
  let w := { w with
    cells := m.effective w.cells, dies := (homeDie w.home).toList, preds := w.preds ++ m.before w.agent }
  let m := m.cleanse w.cells
  let pa := (w.cells.head?.map Prod.fst).getD 0
  let m := if w.enc then m.raise pa
    else if (m.frameKey.lookup (pa / 2 ^ 19)).isSome && w.cells != [] then { m with tagDiff := SMap.set 0 m.tagDiff (pa / 64) 1 }
    else m
  { m with log := SMap.insert m.nextId w m.log, nextId := m.nextId + 1 }

/-- Two writes touch a common byte. -/
def overlap (a b : List (Nat × Byte)) : Bool := a.any fun c => (b.lookup c.1).isSome

/-- The order of a home's die, which takes a write as it is serialised, holds its causal predecessors (R262, R264). -/
def MemSys.predsIn (m : MemSys) (home : Nat) (preds : List Nat) : Bool :=
  match homeDie home with
  | none => true
  | some d => preds.all fun p => match m.log.lookup p with | some q => q.dies.contains d | none => true

/-- The n-th pending write may be serialised now: no earlier write of its agent to a common byte is pending (R267), a
host function's writes go in order (R274), and its home's die holds its causal predecessors (R264). -/
def MemSys.maySerialise (m : MemSys) (n : Nat) : Bool :=
  match m.pend[n]? with
  | none => false
  | some w =>
    m.predsIn w.home (w.preds ++ m.before w.agent) && (m.pend.take n).all fun e =>
      !(e.agent == w.agent && (overlap e.cells w.cells || (match w.agent with | .host _ _ | .peer _ => true | _ => false)))

/-- Serialises the n-th pending write (R262). -/
def MemSys.serialise (m : MemSys) (n : Nat) : MemSys :=
  match m.pend[n]? with
  | none => m
  | some w => { m with pend := m.pend.eraseIdx n }.enter w

/-- A die's order may take a write: its causal predecessors and the earlier writes of its home are in it (R262, R264). -/
def MemSys.mayApply (m : MemSys) (d id : Nat) : Bool :=
  match m.log.lookup id with
  | none => false
  | some w =>
    !w.dies.contains d
      && w.preds.all (fun p => match m.log.lookup p with | some q => q.dies.contains d | none => true)
      && m.log.all fun e => decide (id ≤ e.1) || e.2.home != w.home || e.2.dies.contains d

/-- A write that covers a line has reached every die: poison marked before it is cleared (R387, R389). -/
def MemSys.heal (m : MemSys) (id : Nat) (cells : List (Nat × Byte)) : MemSys :=
  let line := (cells.head?.map fun c => c.1 / 64).getD 0
  if !coversLine cells line then m
  else
    { m with
      poison := if SMap.get 0 m.poison line ≤ id + 1 then SMap.set 0 m.poison line 0 else m.poison
      broken := m.broken.map fun t => if t.covers line && decide (t.met.getD 0 ≤ id + 1) then { t with healed := line :: t.healed } else t }

/-- A write becomes memory. -/
def MemSys.sink (m : MemSys) (id : Nat) (w : WriteRec) : MemSys :=
  { m with base := w.cells.foldl (fun (b : Memory) (c : Nat × Byte) => SMap.set (0 : Byte) b c.1 c.2) m.base }.heal id w.cells

/-- Writes that every die holds, from the oldest on, become memory. -/
def MemSys.fold (m : MemSys) : Nat → MemSys
  | 0 => m
  | n + 1 =>
    match m.log with
    | (id, w) :: rest =>
      if allDies.all fun d => w.dies.contains d then ({ m with log := rest }.sink id w).fold n else m
    | [] => m

/-- A die's order takes a write (R264). -/
def MemSys.apply (m : MemSys) (d id : Nat) : MemSys :=
  let log := m.log.map fun e => if e.1 = id then (e.1, { e.2 with dies := e.2.dies ++ [d] }) else e
  let m' := { m with log := log }.fold m.log.length
  { m' with marks := m'.marks.filter fun k => m'.log.any fun e => decide (e.1 ≤ k.2.2) }

/-- Every serialised write enters every die's order. -/
def MemSys.settle (m : MemSys) : MemSys :=
  { m.log.foldl (fun m p => m.sink p.1 p.2) m with log := [], marks := [] }

/-- A write of a unit outside the cores that is performed at module scope at once (R327, R355; log entry 17, DESIGN CHOICE). -/
def MemSys.commit (m : MemSys) (a : Agent) (vf : Nat) (cells : List (Nat × Byte)) (ms enc : Bool) : MemSys :=
  let mk (l : List (Nat × Byte)) : WriteRec :=
    { agent := a, vf := vf, cells := l, colours := 1
      home := homeOf ((l.head?.map Prod.fst).getD 0) ms, enc := enc, preds := [], dies := [], chan := none }
  ((splitLines cells).foldl (fun m l => m.enter (mk l)) m.settle).settle

/-- Every write of an agent whose colours meet the mask is performed at a scope (R265, R270, R271). -/
def MemSys.performed (m : MemSys) (a : Agent) (d : Nat) (scope : Nat) (mask : Byte) : Bool :=
  (m.pend.all fun w => w.agent != a || w.colours &&& mask = 0)
    && m.log.all fun e =>
      e.2.agent != a || e.2.colours &&& mask = 0
        || (if scope ≤ 2 then e.2.dies.contains d else allDies.all fun d => e.2.dies.contains d)

/-- A release or fence of module or system scope: every write in the die's order becomes a causal predecessor of the
agent's later writes (R264). -/
def MemSys.setPreds (m : MemSys) (a : Agent) (d scope : Nat) : MemSys :=
  if scope ≤ 2 then m
  else
    let ids := (m.log.filter fun e => e.2.dies.contains d).map Prod.fst
    { m with preds := (m.preds.filter fun p => p.1 != a) ++ (if ids = [] then [] else [(a, ids)]) }

/-- Every colour. -/
def allColours : Byte := 0xFF

/-- The colour bit of a colour. -/
def colourBit (c : BitVec 3) : Byte := BitVec.ofNat 8 (2 ^ c.toNat)

/-- A write to a peer is outstanding: not acknowledged as performed there (R448). -/
def PeerReq.unacked (r : PeerReq) (a : Agent) : Bool := r.agent == a && r.parked.isNone && r.write && r.resp.isNone

/-- A write to a peer has not been acknowledged as performed there: it is outstanding, or it was refused or lost, of which no
acknowledgement comes (R448, R450; log entry 144, DEDUCED). -/
def PeerReq.unperformed (r : PeerReq) (a : Agent) : Bool := r.agent == a && r.parked.isNone && r.write

/-- An agent's writes to peers are all acknowledged as performed (R450). -/
def State.peersDone (s : State) (a : Agent) : Bool := s.peers.all fun r => !r.unperformed a

/-- A release by an agent of a die: it waits until it is performed, and creates its causal predecessors (R270). -/
def State.release (s : State) (a : Agent) (d scope : Nat) : Except Stop State :=
  if s.mem.performed a d scope allColours && (decide (scope < 4) || s.peersDone a) then
    .ok { s with mem := s.mem.setPreds a d scope }
  else waitOn .order

/-- The agents as which a core's streams and queues act (R259). -/
def streamAgent (core : Nat) : Agent := .stream core

/-- Serialises every pending write of an agent to the line of an address, oldest first, so that those of overlapping bytes stay
in agent order (R267, R283). -/
def MemSys.flushOwn (m : MemSys) (a : Agent) (pa : Nat) : MemSys :=
  let hit (w : WriteRec) : Bool := w.agent == a && w.cells.any fun c => c.1 / 64 == pa / 64
  let now := m.pend.filter hit
  now.foldl MemSys.enter { m with pend := m.pend.filter fun w => !hit w }

/-- An agent has read or written `n` bytes at the home: it reads nothing older there afterwards (R267). -/
def MemSys.mark (m : MemSys) (a : Agent) (pa n : Nat) : MemSys :=
  match m.log.getLast? with
  | some e =>
    { m with marks := (m.marks.filter fun k => !(k.1 == a && decide (pa ≤ k.2.1 ∧ k.2.1 < pa + n)))
        ++ (List.range n).map fun i => (a, pa + i, e.1) }
  | none => m

end Sys2Proof.Machine
end

