-- ==== Sys2Proof/Machine/Translate.lean ====
section
/-! DEFINITION. Translation: the address checks of R215, page tables (R216 to R218), TLBs (R221, R222), page faults
(R225, R226), and the accesses of streams and engines through a leaf. -/

namespace Sys2Proof.Machine
open Sys2Proof

/-! ### Page tables -/

/-- A leaf that translates an address: the physical address and the entry word (R217). -/
structure Leaf where
  va : Nat
  pa : Nat
  pte : Dword
  deriving DecidableEq, Repr

/-- [4] MS. -/
def Leaf.ms (l : Leaf) : Bool := l.pte.getLsbD 4
/-- [3] RM. -/
def Leaf.rm (l : Leaf) : Bool := l.pte.getLsbD 3
/-- [7] ENC. -/
def Leaf.enc (l : Leaf) : Bool := l.pte.getLsbD 7
/-- [2] W. -/
def Leaf.w (l : Leaf) : Bool := l.pte.getLsbD 2

/-- Where a walk ends (R218). -/
inductive Walk where
  /-- a leaf, and the address of its entry -/
  | leaf (level : Nat) (pte : Dword) (addr : Nat)
  | absent
  | malformed (level addr : Nat)
  | poison (addr : Nat)
  deriving DecidableEq, Repr

/-- Bytes that a leaf of a level maps (R216). -/
def pageSize : Nat → Nat
  | 0 => 2 ^ 19
  | 1 => 2 ^ 25
  | _ => 2 ^ 31

/-- Bytes of a table of a level (R216). -/
def tableSize : Nat → Nat
  | 0 => 512
  | 1 => 512
  | 2 => 32768
  | _ => 65536

/-- The entry number of an address in a table of a level (R216). -/
def tableIndex (level va : Nat) : Nat :=
  match level with
  | 0 => bitsOf va 24 19
  | 1 => bitsOf va 30 25
  | 2 => bitsOf va 42 31
  | _ => bitsOf va 55 43

/-- [51:9] of an entry. -/
def pteAddr (e : Dword) : Nat := bitsOf e.toNat 51 9 * 512

/-- Every 512 KiB frame of a leaf has the leaf's grade (R379). -/
def MemSys.gradesMatch (m : MemSys) (pa size prot : Nat) : Bool :=
  if prot = 0 then m.grade.all fun g => decide (g.1 * 2 ^ 19 < pa ∨ pa + size ≤ g.1 * 2 ^ 19)
  else (List.range (size / 2 ^ 19)).all fun i => (SMap.get 0 m.grade (pa / 2 ^ 19 + i)).toNat == prot

/-- The frame of a leaf admits the leaf's attributes (R376, R377, R379, R380, R400, R401, R449); no VF maps a frame that
firmware reserves (R383, R401). -/
def State.leafOk (s : State) (vf level : Nat) (e : Dword) : Bool :=
  let pa := pteAddr e
  let size := pageSize level
  let prot := bitsOf e.toNat 6 5
  let enc := e.getLsbD 7
  let ms := e.getLsbD 4
  s.backed pa size && !(s.cfg vf 0x21 = 1 && e.getLsbD 2 && !enc) &&
    match regionOf pa with
    | .hbm _ =>
      s.mem.gradesMatch pa size prot
        && !(vf != 0 && s.mem.reserved.any fun f => decide (pa ≤ f.1 * 2 ^ 19 ∧ f.1 * 2 ^ 19 < pa + size))
    | .aperture _ => ms && prot = 0 && !enc
    | .cxl _ => !ms && prot = 0 && !enc
    | .peer _ => ms && prot = 0 && !enc && !e.getLsbD 3
    | .none => false

/-- An entry has a reserved bit or PROT value (R217). -/
def pteReserved (e : Dword) : Bool := bitsOf e.toNat 63 52 != 0 || e.getLsbD 8 || bitsOf e.toNat 6 5 == 3

/-- An entry that points at a table of the next level `l` (R217). -/
def pteTable (e : Dword) (l : Nat) : Bool :=
  e.getLsbD 0 && !e.getLsbD 1 && !pteReserved e && bitsOf e.toNat 7 2 == 0 && pteAddr e % tableSize l == 0

/-- The walker can read an entry at an address: it is backed, and no metadata (R218, R380). -/
def State.walkable (s : State) (ea : Nat) : Bool :=
  s.backed ea 8 && match regionOf ea with | .aperture _ => false | _ => true

/-- An entry of a page table as the walker reads it. -/
def State.pteAt (s : State) (view : Option Nat) (ea : Nat) : Dword := d64 (leNat (s.mem.readAt view none ea 8))

/-- Walks from a table of a level (R218); the walker reads through its die's visibility order (R221). -/
def State.walkFrom (s : State) (view : Option Nat) (vf va : Nat) : Nat → Nat → Walk
  | level, table =>
    let ea := table + 8 * tableIndex level va
    if !s.walkable ea then .malformed level ea
    else if s.mem.poisoned view none ea then .poison ea
    else
      let e := s.pteAt view ea
      if !e.getLsbD 0 then .absent
      else if e.getLsbD 1 then
        if pteReserved e || decide (3 ≤ level) || pteAddr e % pageSize level != 0 || !s.leafOk vf level e then
          .malformed level ea
        else .leaf level e ea
      else
        match level with
        | 0 => .malformed level ea
        | l + 1 => if pteTable e l then s.walkFrom view vf va l (pteAddr e) else .malformed level ea

/-- The lines that such a walk reads; their correctable errors are met (R386). -/
def State.walkLines (s : State) (view : Option Nat) (va : Nat) : Nat → Nat → List Nat
  | level, table =>
    let ea := table + 8 * tableIndex level va
    if !s.walkable ea then []
    else if s.mem.poisoned view none ea then [ea / 64]
    else
      match level with
      | 0 => [ea / 64]
      | l + 1 => ea / 64 :: if pteTable (s.pteAt view ea) l then s.walkLines view va l (pteAddr (s.pteAt view ea)) else []

/-- The walk of an address of a VF (R216, R394). -/
def State.walk (s : State) (view : Option Nat) (vf va : Nat) : Walk := s.walkFrom view vf va 3 (s.cfg vf 0x01)

/-! ### TLBs -/

/-- The entries of a TLB that match an address. -/
def tlbMatch (t : List TlbEntry) (vf va : Nat) : List TlbEntry :=
  t.filter fun e => e.vf == vf && decide (e.va ≤ va ∧ va < e.va + pageSize e.level)

/-- The entry of the smallest page of a list. -/
def smallest (l : List TlbEntry) : Option TlbEntry :=
  l.foldl (fun b e => match b with | none => some e | some x => if e.level < x.level then some e else some x) none

/-- The TLBs that a miss probes, in order (R221): the other cores of the quartet, then quartet (q + 1) mod 16. -/
def ringCores (core : Nat) : List Nat :=
  let q := quartetOf core
  let next := q / 16 * 16 + (q % 16 + 1) % 16
  ((List.range 4).map fun i => 4 * q + i).filter (· != core) ++ (List.range 4).map fun i => 4 * next + i

/-- A TLB takes an entry; beyond 64 the oldest leaves (log entry 15, DESIGN CHOICE). -/
def tlbInsert (t : List TlbEntry) (e : TlbEntry) : List TlbEntry :=
  (e :: t.filter (· != e)).take 64

/-- A hit: the entry of the smaller page is used, and larger ones leave (R222). -/
def Core.tlbHit (c : Core) (vf va : Nat) : Option (TlbEntry × Core) :=
  match smallest (tlbMatch c.tlb vf va) with
  | none => none
  | some e =>
    let larger := (tlbMatch c.tlb vf va).filter (· != e)
    if larger = [] then some (e, c)
    else
      some (e, { c with tlb := c.tlb.filter fun x => !larger.contains x
                        csr := { c.csr with xlsplit := c.csr.xlsplit + 1 } })

/-! ### The checks of R215 and the page faults of R225 -/

/-- The kinds of access. -/
inductive Kind where
  /-- a ld of the C-stream -/
  | ld
  /-- a st of the C-stream -/
  | st
  | read
  | write
  | amo
  | fetch
  | walker
  deriving DecidableEq, Repr

/-- CAUSE of a page-fault event (R442). -/
def Kind.code : Kind → Nat
  | .ld | .read => 1
  | .st | .write => 2
  | .amo => 2
  | .fetch => 3
  | .walker => 4

/-- It needs write permission (R218). -/
def Kind.writes : Kind → Bool
  | .st | .write | .amo => true
  | _ => false

/-- R215, steps 1 and 2, for an access outside the local window. -/
def checkSpace (va n : Nat) (k : Kind) : Except Stop Unit := do
  need (va < 2 ^ 56) (trapAddr 0x20 va)
  need (!(k = .amo && decide (lwbase ≤ va))) (trapAddr 0x29 va)
  need (va + n - 1 < lwbase) (trapAddr 0x21 va)

/-- The page fault that an access of an agent waits on. -/
def State.faultOf (s : State) (a : Agent) (vf va : Nat) (k : Kind) : Option (Nat × PageFault) :=
  s.pf.faults.find? fun p => p.2.agent == a && p.2.vf == vf && p.2.va / 2 ^ 19 == va / 2 ^ 19 && p.2.kind == k.code

/-- An access meets a page that is not present (R225). -/
def State.notPresent {α : Type} (s : State) (a : Agent) (vf va : Nat) (k : Kind) (instant : Bool) : Except Stop α :=
  if instant then trapAddr 0x22 va
  else
    match s.faultOf a vf va k with
    | some _ => waitOn .pageFault
    | none => .error (.wait .pageFault [.pageFault a vf va k.code])

/-- What ends a walk short of a leaf. -/
def State.walkFault {α : Type} (s : State) (a : Agent) (vf va : Nat) (k : Kind) (instant : Bool) (w : Walk) :
    Except Stop α :=
  match w with
  | .malformed level addr => trapAddr 0x22 va [.malformed a vf k.code level addr]
  | .poison _ => trapAddr 0x71 (va / 64 * 64)
  | _ => s.notPresent a vf va k instant

/-- The core whose TLB an agent uses. -/
def Agent.tlbCore : Agent → Option Nat
  | .stream c => some c
  | .engine c _ => some c
  | _ => none

/-- The die whose order an agent reads; the agents outside the compute dies read at the homes (R261). -/
def Agent.view : Agent → Option Nat
  | .stream c => some (dieOf c)
  | .engine c _ => some (dieOf c)
  | .allocator d => some d
  | .backfill d => some d
  | .sync d | .pfFill d => some d
  | _ => none

/-- The address of the entry that maps an address. -/
def State.leafEntry (s : State) (a : Agent) (vf va : Nat) : Nat :=
  match s.walk a.view vf va with
  | .leaf _ _ ea => ea
  | _ => 0

/-- A range of the metadata aperture (R380). -/
def isAperture (pa : Nat) : Bool := match regionOf pa with | .aperture _ => true | _ => false

/-- An access through an entry: only ld and st reach the aperture (R380), write permission (R218), and the grant of an
encrypted frame. -/
def State.useEntry (s : State) (a : Agent) (vf va : Nat) (k : Kind) (e : TlbEntry) : Except Stop (State × Leaf) :=
  let leaf : Leaf := ⟨va, pteAddr e.pte + (va - e.va), e.pte⟩
  if isAperture leaf.pa && k != .ld && k != .st then
    trapAddr 0x22 va [.malformed a vf k.code e.level (s.leafEntry a vf va)]
  else if k.writes && !leaf.w then trapAddr 0x23 va
  else .ok (if leaf.enc then s.grantFrame vf leaf.pa else s, leaf)

/-- A walk for an access: the entry that its leaf makes, or its fault. The errors of the lines that it reads are met (R386,
R387). -/
def State.walkEntry (s : State) (a : Agent) (vf va : Nat) (k : Kind) (instant : Bool) : Except Stop (State × TlbEntry) :=
  let lines := s.walkLines a.view va 3 (s.cfg vf 0x01)
  withSides [.meet lines] (match s.walk a.view vf va with
    | .leaf level pte _ => .ok (s.meetLines lines, ⟨vf, level, va / pageSize level * pageSize level, pte⟩)
    | w => s.walkFault a vf va k instant w)

/-- Translation where a core's TLB has no entry: by a neighbour's, or by a walk (R221). -/
def State.tlbMiss (s : State) (core : Nat) (a : Agent) (vf va : Nat) (k : Kind) (instant : Bool) :
    Except Stop (State × Leaf) := do
  let (s, e) ← match (ringCores core).findSome? fun c => smallest (tlbMatch (s.core c).tlb vf va) with
    | some e => .ok (s, e)
    | none => s.walkEntry a vf va k instant
  let s := s.updCore core fun c => { c with tlb := tlbInsert c.tlb e }
  s.onward (s.useEntry a vf va k e)

/-- The leaf of an address for an access of an agent (R218, R221, R225). `instant`: a page that is not present fails at
once (R204, R347, R361, R434). Where two entries of the core's TLB match, the larger leaves whatever becomes of the access (R222). -/
def State.translate (s : State) (a : Agent) (vf va : Nat) (k : Kind) (instant : Bool := false) :
    Except Stop (State × Leaf) :=
  match if instant then none else s.faultOf a vf va k with
  | some (tag, f) => if f.failed then trapAddr 0x22 va [.answered tag] else waitOn .pageFault
  | none =>
    match a.tlbCore with
    | some core => s.onward (match (s.core core).tlbHit vf va with
        | some (e, c) => (s.setCore core c).onward ((s.setCore core c).useEntry a vf va k e)
        | none => s.tlbMiss core a vf va k instant)
    | none => s.onward do
      let (s, e) ← s.walkEntry a vf va k instant
      s.onward (s.useEntry a vf va k e)

/-! ### Peer requests (R448 to R450) -/

/-- The ports routed to a module that are up. -/
def State.routes (s : State) (m : Nat) : List Nat :=
  (List.range 64).filter fun p => (SMap.get (0 : Dword) s.pf.route m).getLsbD p && !(s.port p).down

/-- A message header (R447) that asks for an access of this module, whose number the manual does not place (log entry 143, DESIGN
CHOICE). -/
def requestMsg (vc : Nat) (size vf : Nat) (acq rel wide : Bool) (code : Byte) (o : Nat) (body : BitVec 640) : LinkMsg :=
  { seq := 0, ack := none, pause := 0, first := true, vc := BitVec.ofNat 3 vc, size := BitVec.ofNat 5 size, srcMod := Config.ownModule.setWidth 8
    vf := BitVec.ofNat 8 vf, tag := 0, poison := false, acquire := acq, release := rel, flag3 := wide, code := code
    addr := d64 o, body := body }

/-- The first tag from `t` on that no outstanding request of a port has, of `n` tries (R448). -/
def Port.freeTag (p : Port) : Nat → Nat → Option Nat
  | 0, _ => none
  | n + 1, t => if (p.sent.lookup t).isNone then some t else p.freeTag n ((t + 1) % 65536)

/-- The tag of a port's next request: unique among its outstanding ones (R448). -/
def Port.tag (p : Port) : Option Nat := p.freeTag (min 65536 (p.sent.length + 1)) (p.nextTag % 65536)

/-- An agent may have one more request outstanding on a port: it holds at most 4096 there (R448). -/
def State.peerRoom (s : State) (a : Agent) (port : Nat) : Bool :=
  decide ((s.peers.filter fun r => r.agent == a && r.port == port && r.resp.isNone).length < 4096) && (s.port port).tag.isSome

/-- A request leaves on the port that carries the agent's requests to the module, under a tag of its own (R448, R450). -/
def State.sendPeer (s : State) (op : Byte) (m : LinkMsg) (r : PeerReq) : State :=
  let p := r.port
  let tag := ((s.port p).tag).getD 0
  let s := s.updPort p fun q =>
    { q with nextTag := (tag + 1) % 65536, sent := SMap.insert tag (r.agent, r.addr) (SMap.erase q.sent tag)
             out := q.out ++ [(op, { m with tag := BitVec.ofNat 16 tag })] }
  { s with peers := s.peers ++ [{ r with tag := BitVec.ofNat 16 tag }] }

/-- A request of an agent to a peer: port, address, size, and what it is. -/
def PeerReq.mk' (a : Agent) (port addr size : Nat) (write amo : Bool) (chan : Option Nat := none)
    (args : Nat × Nat × Nat := (0, 0, 0)) : PeerReq :=
  ⟨a, port, 0, addr, size, write, amo, args, none, chan, none⟩

/-- The outstanding request of an agent that a condition selects. -/
def State.peerFind (s : State) (a : Agent) (p : PeerReq → Bool) : Option PeerReq :=
  s.peers.find? fun r => r.agent == a && r.parked.isNone && p r

/-- The answer of a request is taken. -/
def State.peerTake (s : State) (r : PeerReq) : State := { s with peers := s.peers.erase r }

/-- The port for an agent's requests to a module, if any is up. -/
def State.peerPort (s : State) (agentNo m : Nat) : Option Nat :=
  let l := s.routes m
  if l = [] then none else l[Config.portHash agentNo m l.length % l.length]?

/-- A number for an agent of a core. -/
def Agent.number : Agent → Nat
  | .stream c => 8 * c
  | .engine c q => 8 * c + 1 + qCode q
  | .allocator d => 16384 + d
  | .backfill d => 16416 + d
  | .sync d => 16448 + d
  | .memSide h => 16480 + h
  | .management => 16512
  | .host v p => 16513 + 256 * p + v
  | .peer m => 17025 + m
  | .pfFill d => 17089 + d

/-- The core whose list keeps an agent's peer requests. -/
def Agent.core : Agent → Nat
  | .stream c => c
  | .engine c _ => c
  | _ => 0

/-- log2 of an access size, as SIZE holds it (R447). -/
def sizeCode (n : Nat) : Nat := Nat.log2 n

/-- The agent is an engine: its requests move aligned units of 64 bytes (R242). -/
def Agent.isEngine : Agent → Bool
  | .engine _ _ => true
  | _ => false

/-- The requests that read a range of the peer window: one of 1, 2, 4 or 8 aligned bytes, or whole lines (R242, R447: SIZE). -/
def peerPieces (a : Agent) (pa n : Nat) : List (Nat × Nat) :=
  if (n = 1 ∨ n = 2 ∨ n = 4 ∨ n = 8) ∧ pa % n = 0 ∧ !a.isEngine then [(pa, n)]
  else (linesOf pa n).map fun l => (64 * l, 64)

/-! ### Requests of a core's transfers (R242) -/

/-- The transfer requests of a core that are outstanding: writes not yet performed at core scope, and requests to peers without
an answer, of the channels that a condition selects (R242). -/
def State.outstanding (s : State) (core : Nat) (p : Option Nat → Bool) : Nat :=
  let mine (a : Agent) : Bool := a == .engine core .load || a == .engine core .store
  (s.mem.pend.filter fun w => mine w.agent && p w.chan).length
    + (s.mem.log.filter fun e => mine e.2.agent && p e.2.chan && !e.2.dies.contains (dieOf core)).length
    + (s.peers.filter fun r => mine r.agent && r.parked.isNone && r.resp.isNone && p r.chan).length

/-- MAXREQ of a channel; 0 means 8192 (R243, R255). -/
def Core.maxreq (c : Core) (ch : Nat) : Nat := orDefault ((SMap.get (0 : Dword) c.csr.xch ch).toNat % 2 ^ 14) 8192

/-- Requests that a copy on a channel may still make (R242). -/
def State.requestRoom (s : State) (core ch : Nat) : Nat :=
  min (8192 - s.outstanding core fun _ => true) ((s.core core).maxreq ch - s.outstanding core fun c => c == some ch)

/-- The channel of the command at the head of an engine's queue, where it is a copy (R253). -/
def State.headChannel (s : State) : Agent → Option Nat
  | .engine c q => (((s.core c).eng q).cmds.head?.bind fun k => channelOf k.op)
  | _ => none

/-- An agent's next request has room in the core's pool and its channel (R242). -/
def State.poolRoom (s : State) (a : Agent) : Bool :=
  match a with
  | .engine c .load | .engine c .store =>
    match s.headChannel a with
    | some ch => decide (0 < s.requestRoom c ch)
    | none => decide (s.outstanding c (fun _ => true) < 8192)
  | _ => true

/-- A write of an agent to the line of an address of the peer window is not acknowledged: what the agent does there next waits
for it, as it may travel on another channel (R267, R445, R450). -/
def State.lineOwed (s : State) (a : Agent) (pa : Nat) : Bool :=
  s.peers.any fun r => r.unacked a && r.addr / 64 == pa / 64

/-- An agent may send a request to a line of the peer window now (R242, R267, R448). -/
def State.maySend (s : State) (a : Agent) (port pa : Nat) : Except Stop Unit := do
  need (!s.lineOwed a pa) (waitOn .peer)
  need (s.peerRoom a port) (waitOn .peer)
  need (s.poolRoom a) (waitOn .pool)

/-- The answers to reads that an agent holds are given up. -/
def State.dropReads (s : State) (a : Agent) : State :=
  { s with peers := s.peers.filter fun r => !(r.agent == a && r.parked.isNone && !r.write && !r.amo) }

/-- One request of a read through the peer window: its answer, or a wait for it (R448, R449). An engine keeps the answers of a
step until the step ends, so that elements of one unit share its request (R242). -/
def State.peerPiece (s : State) (a : Agent) (vf va : Nat) (q : Nat × Nat) : Except Stop (State × List Byte) :=
  match s.peerFind a fun r => r.addr == q.1 && r.size == q.2 && !r.write && !r.amo with
  | some r =>
    match r.resp with
    | none => waitOn .peer
    | some (bs, bad) =>
      if bad then trapAddr 0x71 (va / 64 * 64) [.forget r]
      else .ok (if a.isEngine then s else s.peerTake r, bs)
  | none =>
    match s.peerPort a.number ((q.1 - 2 ^ 51) / 2 ^ 44) with
    | none => trapAddr 0x71 (va / 64 * 64)
    | some p => do
      s.maySend a p q.1
      .error (.wait .peer [.peer (.mk' a p q.1 q.2 false false (s.headChannel a)) 0x01
        (requestMsg 0 (sizeCode q.2) vf false false false 0 ((q.1 - 2 ^ 51) % 2 ^ 44) 0)])

/-- A read through the peer window. -/
def State.peerRead (s : State) (a : Agent) (vf pa n va : Nat) : Except Stop (State × List Byte) := do
  let ps := peerPieces a pa n
  let r ← ps.foldlM (fun (r : State × List Byte) q => do
    let (s, bs) ← r.1.peerPiece a vf va q
    .ok (s, r.2 ++ bs)) (s, [])
  let skip := pa - (ps.head?.map Prod.fst).getD pa
  .ok (r.1, (r.2.drop skip).take n)

/-- A write that no port carries is answered with poison at once (R450); a core's agents never hold it as performed (log
entry 144, DEDUCED). -/
def State.loseRequest (s : State) (r : PeerReq) : State :=
  if r.agent.tlbCore.isSome then { s with peers := s.peers ++ [{ r with resp := some ([], true) }] } else s

/-- A write of bytes of one line through the peer window (R447, R449). With no port up it is lost: its answer is poison (R450). -/
def State.peerWrite (s : State) (a : Agent) (vf : Nat) (cells : List (Nat × Byte)) (chan : Option Nat := none) : Except Stop State :=
  let pa := (cells.head?.map Prod.fst).getD 0
  match s.peerPort a.number ((pa - 2 ^ 51) / 2 ^ 44) with
  | none => .ok (s.loseRequest (.mk' a 0 pa cells.length true false chan))
  | some p => do
    need (s.peerRoom a p) (waitOn .peer)
    let mask := cells.foldl (fun k c => k + 2 ^ (c.1 % 64)) 0
    let put (k : BitVec 512) (c : Nat × Byte) : BitVec 512 := k ||| (c.2.setWidth 512) <<< (8 * (c.1 % 64))
    let line := cells.foldl put 0
    let vc := match a with | .engine _ _ => 3 | _ => 2
    let msg := requestMsg vc 6 vf false false false 0 ((pa - 2 ^ 51) % 2 ^ 44 / 64 * 64)
      (line ++ (0 : BitVec 64) ++ BitVec.ofNat 64 mask : BitVec 640)
    .ok (s.sendPeer 0x03 msg (.mk' a p pa cells.length true false chan))

/-! ### Accesses through a leaf -/

/-- The entry of an agent's die table that serves an address (R204): die, slot and entry. -/
def State.serving (s : State) (a : Agent) (pa : Nat) : Option (Nat × Nat × PEntry) :=
  match a.view with
  | none => none
  | some d => ((s.die d).probe.find? fun p => p.2.state == 2 && p.2.frame == pa / 2 ^ 19).map fun p => (d, p.1, p.2)

/-- An entry of a die table leaves it for an uncorrectable error of its storage, which is counted (R203, R388). -/
def State.dropEntry (s : State) (d slot : Nat) : State :=
  { s.updDie d fun k => { k with probe := SMap.erase k.probe slot } with mem := s.mem.countError d }

/-- Reads `n` bytes of the frame of a leaf from memory (R386, R387, R405): the first poisoned line is consumed by 0x71 (R422). -/
def State.readHome (s : State) (a : Agent) (vf : Nat) (l : Leaf) (n : Nat) : Except Stop (State × List Byte) :=
  let lines := linesOf l.pa n
  match lines.find? fun x => s.mem.poisoned a.view (some a) (64 * x) with
  | some x => trapAddr 0x71 ((l.va + 64 * x - l.pa) / 64 * 64) [.meet [x]]
  | none =>
    if s.sight a vf l.pa l.enc = .mismatch then trapAddr 0x71 (l.va / 64 * 64) [.lose (lines.take 1)]
    else .ok (s.meetLines lines, s.mem.readAt a.view (some a) l.pa n)

/-- The bytes that are stored in an encrypted frame, with no tag check (R406). Poison of the line itself is delivered. -/
def State.readStored (s : State) (a : Agent) (l : Leaf) (n : Nat) : Except Stop (State × List Byte) :=
  let lines := linesOf l.pa n
  let marked (x : Nat) : Bool :=
    s.mem.poisonSeen a.view (some a) x (SMap.get 0 s.mem.poison x) || s.mem.fate x == .lost
  match lines.find? marked with
  | some x => trapAddr 0x71 ((l.va + 64 * x - l.pa) / 64 * 64) [.meet [x]]
  | none =>
    let data := s.mem.readAt a.view (some a) l.pa n
    .ok (lines.foldl State.meetLine s, (List.range n).map fun i => s.cipherByte (l.pa + i) (data.getD i 0))

/-- Reads `n` bytes through a leaf: from the die's probe-managed entry that serves the frame (R204), from a peer, or from
memory, as plaintext or, where R406 says so, as it is stored. -/
def State.readLeaf (s : State) (a : Agent) (vf : Nat) (l : Leaf) (n : Nat) : Except Stop (State × List Byte) :=
  s.onward <| if s.sight a vf l.pa l.enc = .stored then s.readStored a l n
  else
    let home (s : State) : Except Stop (State × List Byte) :=
      match regionOf l.pa with
      | .peer _ => s.peerRead a vf l.pa n l.va
      | _ => s.readHome a vf l n
    match s.serving a l.pa with
    | none => home s
    | some (d, i, e) =>
      if e.bad then withSides [.dropEntry d i] (home (s.dropEntry d i))
      else if e.bytes = [] then .ok (s, s.mem.readAt a.view (some a) l.pa n)
      else if l.pa % 2 ^ 19 + n ≤ e.bytes.length then .ok (s, (e.bytes.drop (l.pa % 2 ^ 19)).take n)
      else home s

/-- Marks the page of a write in the dirty log of a migration (R412). -/
def State.dirtyPage (s : State) (vf va : Nat) : State :=
  match (s.vf vf).migr with
  | none => s
  | some g =>
    let page := va / 2 ^ 19
    if g.dirty.contains page then s
    else s.updVf vf fun v => { v with migr := some { g with dirty := g.dirty ++ [page] } }

/-- A write of device mode to an encrypted frame of a VF whose interface is not unlocked is refused (R406, R407). -/
def State.checkSealed (s : State) (a : Agent) (vf : Nat) (l : Leaf) : Except Stop Unit :=
  s.onward <| need (!(s.pfAccess a vf && s.sealedFrame l.pa)) (trapAddr 0x70 l.va)

/-- A write to a line of a frame that a die entry serves updates the entry too (R204); where a home here holds the frame, the
die's order does. -/
def State.updateEntry (s : State) (a : Agent) (cells : List (Nat × Byte)) : State :=
  match s.serving a ((cells.head?.map Prod.fst).getD 0) with
  | none => s
  | some (d, i, e) =>
    if e.bytes = [] then s
    else
      let e := { e with bytes := cells.foldl (fun b c => b.set (c.1 % 2 ^ 19) c.2) e.bytes }
      s.updDie d fun k => { k with probe := SMap.set .init k.probe i e }

/-- Bytes as they go to their home, and whether they are encrypted there: those that an access stores where it sees what is stored, or
under a key that is not the frame's, are stored as they are. -/
def State.homeCells (s : State) (a : Agent) (vf : Nat) (l : Leaf) (cells : List (Nat × Byte)) : List (Nat × Byte) × Bool :=
  if s.sight a vf l.pa l.enc = .plain then (cells, (s.mem.frameKey.lookup (l.pa / 2 ^ 19)).isSome)
  else (cells.map fun c => (c.1, s.cipherByte c.1 c.2), false)

/-- Firmware writes a frame: a verify copy checks it again (R252). -/
def State.uncheck (s : State) (pa : Nat) : State :=
  { s with sec := { s.sec with checked := SMap.set false s.sec.checked (pa / 2 ^ 19) false } }

/-- What a write does beside its bytes: the dirty log, the die entry that serves the line, and the checks of a frame that firmware
writes (R204, R252, R412). -/
def State.noteWrite (s : State) (a : Agent) (vf : Nat) (l : Leaf) (cells : List (Nat × Byte)) : State :=
  let s := (s.dirtyPage vf l.va).updateEntry a cells
  if s.pfAccess a vf then s.uncheck l.pa else s

/-- Writes bytes by physical address through a leaf (R262, R268). -/
def State.writeCells (s : State) (a : Agent) (vf : Nat) (l : Leaf) (cells : List (Nat × Byte)) (colours : Byte)
    (chan : Option Nat := none) : Except Stop State := do
  s.checkSealed a vf l
  let met := s
  let s := s.noteWrite a vf l cells
  match regionOf l.pa with
  | .peer _ => met.onward ((splitLines cells).foldlM (fun s c => s.peerWrite a vf c chan) s)
  | _ =>
    let w := s.homeCells a vf l cells
    .ok { s with mem := s.mem.issue a vf w.1 colours l.ms w.2 chan }

/-- Writes single bytes (offset from the leaf's address) through a leaf (R262, R268). -/
def State.writeLeaf (s : State) (a : Agent) (vf : Nat) (l : Leaf) (bytes : List (Nat × Byte)) (colours : Byte) :
    Except Stop State :=
  s.writeCells a vf l (bytes.map fun p => (l.pa + p.1, p.2)) colours

/-- Bytes numbered from 0. -/
def numbered (bs : List Byte) : List (Nat × Byte) := (List.range bs.length).zip bs

/-- A translated read of a stream or engine: the checks of R215, then every page that the range touches. -/
def State.readVa (s : State) (a : Agent) (vf va n : Nat) (k : Kind := .read) (instant : Bool := false) :
    Except Stop (State × List Byte) := do
  checkSpace va n k
  let first := min n (2 ^ 19 - va % 2 ^ 19)
  let (s, l) ← s.translate a vf va k instant
  let (s, bs) ← s.readLeaf a vf l first
  if first = n then .ok (s, bs)
  else
    let (s, l) ← s.translate a vf (va + first) k instant
    let (s, cs) ← s.readLeaf a vf l (n - first)
    .ok (s, bs ++ cs)

/-- A translated write of up to a page. -/
def State.writeVa (s : State) (a : Agent) (vf va : Nat) (bs : List Byte) (colours : Byte) (instant : Bool := false) :
    Except Stop State := do
  checkSpace va bs.length .write
  let first := min bs.length (2 ^ 19 - va % 2 ^ 19)
  let (s, l) ← s.translate a vf va .write instant
  if first = bs.length then s.writeLeaf a vf l (numbered bs) colours
  else
    let (s, l2) ← s.translate a vf (va + first) .write instant
    let s ← s.writeLeaf a vf l (numbered (bs.take first)) colours
    s.writeLeaf a vf l2 (numbered (bs.drop first)) colours

/-- Writes of a unit outside the cores by physical address through a leaf, performed at module scope at once (R327, R355). -/
def State.commitCells (s : State) (a : Agent) (vf : Nat) (l : Leaf) (cells : List (Nat × Byte)) : Except Stop State := do
  s.checkSealed a vf l
  let s := s.noteWrite a vf l cells
  match regionOf l.pa with
  | .peer _ => (splitLines cells).foldlM (fun s c => s.peerWrite a vf c) s
  | _ =>
    let w := s.homeCells a vf l cells
    .ok { s with mem := s.mem.commit a vf w.1 l.ms w.2 }

/-- Bytes of such a unit from a leaf's address on. -/
def State.commitLeaf (s : State) (a : Agent) (vf : Nat) (l : Leaf) (bs : List Byte) : Except Stop State :=
  s.commitCells a vf l ((numbered bs).map fun p => (l.pa + p.1, p.2))

/-- A write of a unit outside the cores, performed at module scope at once (R327, R355). -/
def State.commitVa (s : State) (a : Agent) (vf va : Nat) (bs : List Byte) (instant : Bool := false) :
    Except Stop State := do
  checkSpace va bs.length .write
  let first := min bs.length (2 ^ 19 - va % 2 ^ 19)
  let (s, l) ← s.translate a vf va .write instant
  if first = bs.length then s.commitLeaf a vf l bs
  else
    let (s, l2) ← s.translate a vf (va + first) .write instant
    let s ← s.commitLeaf a vf l (bs.take first)
    s.commitLeaf a vf l2 (bs.drop first)

end Sys2Proof.Machine
end

