-- ==== Sys2Proof/Machine/L1.lean ====
section
/-! DEFINITION. The C-stream's L1 (R198 to R200) and the scratchpad (R193 to R197). -/

namespace Sys2Proof.Machine
open Sys2Proof

/-! ### Scratchpad -/

/-- Bytes of an access that lie in the aligned 64-byte unit of its first byte. -/
def unitPart (o n : Nat) : Nat := min n (64 - o % 64)

/-- Reads the units of an access in ascending offset (R195); the number bounds the units. -/
def Core.readUnits (c : Core) : Nat → Nat → Nat → List Byte
  | 0, _, _ => []
  | k + 1, o, n => Memory.read c.sp o (unitPart o n) ++ c.readUnits k (o + unitPart o n) (n - unitPart o n)

/-- Writes the units of an access in ascending offset (R195); the number bounds the units. -/
def Core.writeUnits (c : Core) : Nat → Nat → List Byte → Core
  | 0, _, _ => c
  | k + 1, o, bs =>
    let m := unitPart o bs.length
    ({ c with sp := Memory.write c.sp o (bs.take m) }).writeUnits k (o + m) (bs.drop m)

/-- `n` scratchpad bytes of a core, unit by unit within one step (R195, R196; log entry 129, DESIGN CHOICE). -/
def Core.spRead (c : Core) (o n : Nat) : List Byte := c.readUnits (n / 64 + 2) o n

/-- Stores scratchpad bytes of a core, unit by unit within one step (R195, R196; log entry 129, DESIGN CHOICE). -/
def Core.spWrite (c : Core) (o : Nat) (bs : List Byte) : Core := c.writeUnits (bs.length / 64 + 2) o bs

/-! ### L1 lines -/

/-- Lines that the L1 holds (R189). -/
def Core.l1Lines (c : Core) : Nat := if c.l1sz = 0 then 0 else 2 ^ (10 + c.l1sz)

/-- The line of an address. -/
def l1Find (l : List L1Line) (vf va : Nat) : Option L1Line :=
  l.find? fun x => x.vf == vf && x.va == va / 64 * 64

/-- The bytes of a line that its mask marks, with their physical addresses. -/
def L1Line.dirty (l : L1Line) : List (Nat × Byte) :=
  ((List.range 64).filter fun i => l.mask.getLsbD i).map fun i => (l.pa + i, l.bytes.getD i 0)

/-- The L1 copy of a line holds an uncorrectable error (R421). -/
def Core.l1Bad (c : Core) (l : L1Line) : Bool :=
  c.ecc.any fun e => e.double && match e.store with | .l1 va => va / 64 * 64 == l.va | _ => false

/-- Writes a line back: the bytes of its mask, as a store of each of its colours (R199, R266). A line with an uncorrectable
error becomes poisoned at its home (R387, R422). -/
def State.writeBack (s : State) (core : Nat) (l : L1Line) : State :=
  if l.mask = 0 then s
  else if (s.core core).l1Bad l then s.loseLine (l.pa / 64)
  else
    match s.writeCells (.stream core) l.vf ⟨l.va, l.pa, d64 (7 + if l.enc then 128 else 0)⟩ l.dirty l.colours with
    | .ok s => s
    | .error _ => s

/-- Writes back every line that a condition selects. -/
def State.writeBackIf (s : State) (core : Nat) (p : L1Line → Bool) : State :=
  let ls := (s.core core).l1
  let s := (ls.filter p).foldl (fun s l => s.writeBack core l) s
  s.updCore core fun c =>
    { c with l1 := ls.map fun l => if p l then { l with mask := 0, colours := 0 } else l }

/-- Writes back and invalidates every line that a condition selects. -/
def State.flushIf (s : State) (core : Nat) (p : L1Line → Bool) : State :=
  let ls := (s.core core).l1
  let s := (ls.filter p).foldl (fun s l => s.writeBack core l) s
  s.updCore core fun c => { c with l1 := ls.filter fun l => !p l }

/-- Writes back and invalidates the whole L1 (R199). -/
def State.flushL1 (s : State) (core : Nat) : State := s.flushIf core fun _ => true

/-- A line enters the L1; a full L1 writes its oldest line back and drops it (R198: replacement; log entry 15, DESIGN CHOICE). -/
def State.l1Insert (s : State) (core : Nat) (l : L1Line) : State :=
  let c := s.core core
  let rest := c.l1.filter fun x => !(x.vf == l.vf && x.va == l.va)
  if rest.length < c.l1Lines then s.setCore core { c with l1 := l :: rest }
  else
    let s := match rest.getLast? with
      | some old => s.writeBack core old
      | none => s
    s.updCore core fun c => { c with l1 := l :: rest.dropLast }

/-- Whether accesses through a leaf use the L1 (R198). -/
def Core.cached (c : Core) (l : Leaf) : Bool := c.l1sz != 0 && !l.ms

/-- Reads a whole line for the L1 and keeps the stored bytes of the old one (R198). -/
def State.l1Fill (s : State) (core vf : Nat) (l : Leaf) (old : Option L1Line) : Except Stop (State × L1Line) := do
  let base : Leaf := { l with va := l.va / 64 * 64, pa := l.pa / 64 * 64 }
  let (s, bs) ← s.readLeaf (.stream core) vf base 64
  let line : L1Line :=
    match old with
    | some o =>
      { o with whole := true
               bytes := (List.range 64).map fun i => if o.mask.getLsbD i then o.bytes.getD i 0 else bs.getD i 0 }
    | none => ⟨vf, base.va, base.pa, bs, 0, 0, true, l.enc⟩
  .ok (s.l1Insert core line, line)

/-- A load of up to 8 aligned bytes through a leaf (R198, R207). -/
def State.loadLeaf (s : State) (core vf : Nat) (l : Leaf) (n : Nat) : Except Stop (State × List Byte) :=
  if !(s.core core).cached l then s.readLeaf (.stream core) vf l n
  else
    let o := l.va % 64
    let have? (x : L1Line) : Bool := x.whole || (List.range n).all fun i => x.mask.getLsbD (o + i)
    match l1Find (s.core core).l1 vf l.va with
    | some x =>
      if have? x then .ok (s, (x.bytes.drop o).take n)
      else do
        let (s, y) ← s.l1Fill core vf l (some x)
        .ok (s, (y.bytes.drop o).take n)
    | none => do
      let (s, y) ← s.l1Fill core vf l none
      .ok (s, (y.bytes.drop o).take n)

/-- Bytes i of a line to be marked from an offset on. -/
def byteMask (o n : Nat) : Dword := d64 ((2 ^ n - 1) * 2 ^ o)

/-- A store of up to 8 aligned bytes through a leaf (R198, R207). -/
def State.storeLeaf (s : State) (core vf : Nat) (l : Leaf) (bs : List Byte) (colour : BitVec 3) : Except Stop State :=
  if !(s.core core).cached l then s.writeLeaf (.stream core) vf l (numbered bs) (colourBit colour)
  else do
    s.checkSealed (.stream core) vf l
    let s := s.dirtyPage vf l.va
    let o := l.va % 64
    let old : L1Line := (l1Find (s.core core).l1 vf l.va).getD
      ⟨vf, l.va / 64 * 64, l.pa / 64 * 64, List.replicate 64 0, 0, 0, false, l.enc⟩
    .ok (s.l1Insert core { old with
      bytes := putBytes old.bytes o bs, mask := old.mask ||| byteMask o bs.length
      colours := old.colours ||| colourBit colour })

/-- The lines of a core's VF that overlap a virtual range (R210). -/
def inRange (vf lo hi : Nat) (l : L1Line) : Bool := l.vf == vf && decide (lo < l.va + 64 ∧ l.va < hi)

/-! ### Sides -/

/-- The node that makes an access, or none (R442). -/
def State.nodeOfAgent (s : State) (a : Agent) : Option Dword :=
  match a with
  | .stream c => (s.core c).node
  | .engine c _ => (s.core c).node
  | _ => none

/-- The node identity of a PF record, or the VF alone (R442). -/
def State.recordNode (s : State) (a : Agent) (vf : Nat) : Dword := (s.nodeOfAgent a).getD (d64 (vf * 2 ^ 56))

/-- What accesses met stays: errors and tags of lines, events and page faults, dropped entries of the die tables, and the TLBs (R203,
R222, R386 to R388, R442). `t` is the state that they left. -/
def State.keepSeen (s t : State) : State :=
  let s := { s with
    mem := { s.mem with
      poison := t.mem.poison, latent := t.mem.latent, tagDiff := t.mem.tagDiff, broken := t.mem.broken, corrected := t.mem.corrected }
    pf := t.pf, sec := { s.sec with restoring := t.sec.restoring } }
  let s := t.vfs.foldl (fun s v => s.updVf v.1 fun x => { x with rings := v.2.rings }) s
  let s := s.dies.foldl (fun s d => s.updDie d.1 fun k =>
    { k with probe := k.probe.filter fun p => ((t.die d.1).probe.lookup p.1).isSome }) s
  t.cores.foldl (fun s c => s.updCore c.1 fun k => { k with tlb := c.2.tlb, csr := { k.csr with xlsplit := c.2.csr.xlsplit } }) s

/-- Applies what survives an instruction that stops (R218, R222, R225, R329, R386, R448). -/
def State.side (s : State) : Side → State
  | .meet ls => s.meetLines ls
  | .pageFault a vf va kind =>
    let tag := s.pf.nextTag
    let s := { s with pf := { s.pf with
      nextTag := tag + 1, faults := SMap.insert tag ⟨a, vf, va, kind, s.tb, false⟩ (SMap.erase s.pf.faults tag) } }
    let s := match s.nodeOfAgent a with
      | some _ => s.updCore a.core fun c => { c with csr := { c.csr with xlpfa := d64 va } }
      | none => s
    s.postPf (s.recordNode a vf) 0x92 kind tag va
  | .answered tag => { s with pf := { s.pf with faults := SMap.erase s.pf.faults tag } }
  | .malformed a vf kind level addr => s.postPf (s.recordNode a vf) 0x96 kind level addr
  | .allocFail cause index =>
    match s.here.node with
    | some id => s.postNode id 0x88 cause 0 index
    | none => s
  | .peer r op m => s.sendPeer op m r
  | .forget r => { s with peers := s.peers.erase r }
  | .seen t => s.keepSeen t
  | .lose ls => ls.foldl State.loseLine s
  | .dropEntry d i => s.dropEntry d i
  | .evict core vf va => s.flushIf core fun l => l.vf == vf && l.va == va / 64 * 64

/-- Applies a list of sides in order. -/
def State.applySides (s : State) (l : List Side) : State := l.foldl State.side s

/-- What a try that is given up met in memory stays (R386 to R388). -/
def State.keepMet (s : State) (e : Stop) : State := s.applySides (e.sides.filter Side.met)

end Sys2Proof.Machine
end

