-- ==== Sys2Proof/Machine/Handles.lean ====
section
/-! DEFINITION. Tensor handles and the layout unit (R228 to R236), block frames (R321, R322), per-handle keys (R399):
dereferences, and the reads and writes of single elements. -/

namespace Sys2Proof.Machine
open Sys2Proof

/-! ### Entries -/

/-- A handle-table entry (R230). -/
structure HEntry where
  handle : Dword
  /-- the VF whose space and blocks it names -/
  vf : Nat
  ctl : Nat
  fmt : Nat
  frame : Nat
  pad : Nat
  ext : List Nat
  tsh : List Nat
  flath : Nat
  flatw : Nat
  ttbase : Nat
  ntiles : Nat
  keyid : Nat
  aux : Nat
  /-- bytes of the entry -/
  raw : List Byte
  deriving DecidableEq, Repr

/-- Reads the fields of an entry (R230). -/
def HEntry.ofBytes (handle : Dword) (vf : Nat) (b : List Byte) : HEntry :=
  { handle := handle, vf := vf, ctl := field b 0 2, fmt := field b 2 1, frame := field b 3 1, pad := field b 4 4
    ext := [field b 8 4, field b 0xC 4, field b 0x10 4, field b 0x14 4]
    tsh := [field b 0x18 1, field b 0x19 1, field b 0x1A 1, field b 0x1B 1]
    flath := field b 0x1C 2, flatw := field b 0x1E 2, ttbase := field b 0x20 8, ntiles := field b 0x28 4
    keyid := field b 0x2C 4, aux := field b 0x30 8, raw := b }

/-- VALID. -/
def HEntry.valid (e : HEntry) : Bool := e.ctl.testBit 15
/-- RO. -/
def HEntry.ro (e : HEntry) : Bool := e.ctl.testBit 14
/-- WIN. -/
def HEntry.win (e : HEntry) : Bool := e.ctl.testBit 13
/-- FLAT. -/
def HEntry.flat (e : HEntry) : Bool := e.ctl.testBit 12
/-- GEN. -/
def HEntry.gen (e : HEntry) : Nat := e.ctl % 4096
/-- KIND 1: block frames. -/
def HEntry.blocks (e : HEntry) : Bool := e.frame.testBit 7
/-- HDR. -/
def HEntry.hdr (e : HEntry) : Nat := bitsOf e.frame 6 6
/-- Block size in bytes (R230). -/
def HEntry.blockBytes (e : HEntry) : Nat := 2 ^ (14 + bitsOf e.frame 5 4)
/-- Extent i. -/
def HEntry.extent (e : HEntry) (i : Nat) : Nat := e.ext.getD i 1
/-- TSHi. -/
def HEntry.shift (e : HEntry) (i : Nat) : Nat := e.tsh.getD i 0
/-- NTi (R231). -/
def HEntry.nt (e : HEntry) (i : Nat) : Nat := ceilDiv (e.extent i) (2 ^ e.shift i)
/-- Element width in bits. -/
def HEntry.width (e : HEntry) : Nat := Fp.codeBits e.fmt
/-- Elements of a tile. -/
def HEntry.tileElems (e : HEntry) : Nat := 2 ^ (e.shift 0 + e.shift 1 + e.shift 2 + e.shift 3)
/-- TB (R231). -/
def HEntry.tileBytes (e : HEntry) : Nat := e.tileElems * e.width / 8
/-- TYPE of AUX (R324, R451). -/
def HEntry.auxType (e : HEntry) : Nat := bitsOf e.aux 63 60
/-- VIEW of a handle (R228). -/
def viewOf (h : Dword) : Nat := bitsOf h.toNat 23 0
/-- INDEX of a handle (R228). -/
def indexOf (h : Dword) : Nat := bitsOf h.toNat 43 24
/-- GEN of a handle (R228). -/
def genOf (h : Dword) : Nat := bitsOf h.toNat 55 44
/-- VF of a handle (R228). -/
def hvfOf (h : Dword) : Nat := bitsOf h.toNat 63 56
/-- E0 (R233). -/
def HEntry.e0 (e : HEntry) : Nat := if viewOf e.handle = 0 then e.extent 0 else min (e.extent 0) (viewOf e.handle)

/-- The entry is well formed (R231, R399). The shifts are bounded first, so that no number here is large. `top`: the
largest format code; a scale tensor of xcp has 7 (log entry 21, DEDUCED). -/
def HEntry.wf (e : HEntry) (top : Nat := 6) : Bool :=
  decide (e.fmt ≤ top) && (e.tsh.all fun t => decide (t ≤ 22)) && e.ext.all (fun x => decide (1 ≤ x))
    && decide (e.pad < 2 ^ e.width) && e.frame % 16 == 0 && (e.blocks || bitsOf e.frame 5 4 == 0)
    && (e.raw.drop 0x38).all (· == 0)
    && decide (4096 ≤ e.tileBytes ∧ e.tileBytes ≤ 2 ^ 19)
    && (!e.blocks || decide (e.tileBytes + 64 * e.hdr ≤ e.blockBytes))
    && decide (e.nt 0 * e.nt 1 * e.nt 2 * e.nt 3 ≤ e.ntiles)
    && (!e.flat || (e.win && e.flath != 0 && e.flatw != 0 && e.extent 1 == 1 && e.extent 2 == 1
          && e.shift 1 == 0 && e.shift 2 == 0 && e.extent 0 % (e.flath * e.flatw) == 0))
    && decide (e.keyid ≤ 64)

/-- The handle table of a VF as an agent sees it (R219, R228): base and count. -/
def State.handleTable (s : State) (a : Agent) (vf : Nat) : Nat × Nat :=
  match a.tlbCore with
  | some core =>
    let c := s.core core
    if vf = c.vfid then (c.csr.htbase.toNat, c.csr.htcount.toNat) else (s.cfg vf 0x09, s.cfg vf 0x0A)
  | none => (s.cfg vf 0x09, s.cfg vf 0x0A)

/-- The checks of R232 on an entry: VALID, GEN, the rule of R231, and RO against a write. -/
def HEntry.check (e : HEntry) (write : Bool) (top : Nat := 6) : Except Stop Unit := do
  need e.valid (trapHand 0x26 e.handle)
  need (e.gen == genOf e.handle) (trapHand 0x25 e.handle)
  need (e.wf top) (trapHand 0x2B e.handle)
  need (!(write && e.ro)) (trapHand 0x23 e.handle)

/-- Reads the entry of a handle: the VF and INDEX checks of R232, then the 64 bytes (R229). `device`: device mode may
name any VF. -/
def State.readEntry (s : State) (a : Agent) (device : Bool) (h : Dword) (instant : Bool := false) :
    Except Stop (State × HEntry) := do
  need (device || hvfOf h == (s.core a.core).vfid) (trapHand 0x24 h)
  let (base, count) := s.handleTable a (hvfOf h)
  need (indexOf h < count) (trapHand 0x26 h)
  let (s, b) ← s.readVa a (hvfOf h) (base + 64 * indexOf h) 64 .read instant
  .ok (s, HEntry.ofBytes h (hvfOf h) b)

/-- The payload key that an entry's KEYID names (R399). -/
def State.handleKey (s : State) (e : HEntry) : Except Stop (Option (BitVec 512)) :=
  if e.keyid = 0 then .ok none
  else
    match (s.vf e.vf).keys.lookup (e.keyid - 1) with
    | some k => .ok (some k)
    | none => trapHand 0x38 e.handle

/-- A dereference up to RO (R232). -/
def State.deref (s : State) (a : Agent) (device : Bool) (h : Dword) (write : Bool) (instant : Bool := false) :
    Except Stop (State × HEntry) := do
  let (s, e) ← s.readEntry a device h instant
  s.onward do
    e.check write
    .ok (s, e)

/-- A landing handle (R451): KIND 0 with an AUX of TYPE 2. -/
def HEntry.landing (e : HEntry) : Bool := !e.blocks && e.auxType == 2

/-- A dereference for reads of elements: a landing handle cannot be read (R451), and the key slot of a keyed handle is there
(R399). -/
def State.derefRead (s : State) (a : Agent) (device : Bool) (h : Dword) (instant : Bool := false) (top : Nat := 6) :
    Except Stop (State × HEntry) := do
  let (s, e) ← s.readEntry a device h instant
  s.onward do
    e.check false top
    need (!e.landing) (trapHand 0x2B h)
    let _ ← s.handleKey e
    .ok (s, e)

/-! ### Placement -/

/-- Where an element lies: in tile `tile` at `elem` elements from its start, or it is padding (R233, R235). -/
inductive Place where
  | pad
  | at (tile elem : Nat)
  deriving DecidableEq, Repr

/-- Four coordinates. -/
abbrev Coords := List Int

/-- Coordinate i. -/
def coord (c : Coords) (i : Nat) : Int := c.getD i 0

/-- Two coordinates as the fault record holds them (R418). -/
def coordWord (a b : Int) : Dword := (BitVec.ofInt 32 b).append (BitVec.ofInt 32 a)

/-- A handle fault with coordinates and tile in its record (R418). -/
def HEntry.fault {α : Type} (e : HEntry) (code : Byte) (c : Coords) (tile : Nat) : Except Stop α :=
  .error (.trap ⟨code, e.handle,
    { FaultRec.zero with hand := e.handle, c01 := coordWord (coord c 0) (coord c 1)
                         c23 := coordWord (coord c 2) (coord c 3), tile := d64 tile }, []⟩)

/-- A handle cause of an access that names coordinates shows them too (R418). -/
def atCoords {α : Type} (c : Coords) : Except Stop α → Except Stop α
  | .error (.trap t) =>
    .error (.trap (if [0x23, 0x24, 0x25, 0x26, 0x2B].contains t.code.toNat then
      { t with frec := { t.frec with c01 := coordWord (coord c 0) (coord c 1), c23 := coordWord (coord c 2) (coord c 3) } } else t))
  | r => r

/-- Tile and element of coordinates in range (R233). -/
def HEntry.placeAt (e : HEntry) (c : Coords) : Place :=
  let n (i : Nat) : Nat := (coord c i).toNat
  let t (i : Nat) : Nat := n i / 2 ^ e.shift i
  let o (i : Nat) : Nat := n i % 2 ^ e.shift i
  .at (((t 0 * e.nt 1 + t 1) * e.nt 2 + t 2) * e.nt 3 + t 3)
    (((o 0 * 2 ^ e.shift 1 + o 1) * 2 ^ e.shift 2 + o 2) * 2 ^ e.shift 3 + o 3)

/-- A coordinate lies in its extent. -/
def HEntry.inside (e : HEntry) (c : Coords) (i : Nat) : Bool :=
  decide (0 ≤ coord c i ∧ coord c i < ((if i = 0 then e.e0 else e.extent i : Nat) : Int))

/-- The element that a flattened pixel and its filter offsets name, if it is no padding (R236). -/
def HEntry.flatCoords (e : HEntry) (c : Coords) : Option Coords :=
  let p := coord c 0
  if p < 0 ∨ (e.e0 : Int) ≤ p then none
  else
    let p := p.toNat
    let n := p / (e.flath * e.flatw)
    let h1 := ((p / e.flatw % e.flath : Nat) : Int) + coord c 1
    let w1 := ((p % e.flatw : Nat) : Int) + coord c 2
    if h1 < 0 ∨ (e.flath : Int) ≤ h1 ∨ w1 < 0 ∨ (e.flatw : Int) ≤ w1 then none
    else some [(n * e.flath * e.flatw : Nat) + h1 * e.flatw + w1, 0, 0, coord c 3]

/-- The place of an element for a read or a write (R233, R235, R236). -/
def HEntry.place (e : HEntry) (c : Coords) (write : Bool) : Except Stop Place :=
  let out : Except Stop Place := if e.win && !write then .ok .pad else e.fault 0x27 c 0
  match if e.flat then e.flatCoords c else some c with
  | none => out
  | some k => if (List.range 4).all (e.inside k) then .ok (e.placeAt k) else out

/-! ### Frames -/

/-- The block of a tile lies in the VF's range on its die (R322, R234). -/
def State.blockOk (s : State) (vf b : Nat) : Bool :=
  let d := b / 2 ^ 27
  let i := b % 2 ^ 27
  decide (s.cfg vf 0x0C d ≤ i ∧ i < s.cfg vf 0x0D d ∧ i < s.poolSize d)

/-- The device physical address of a block (R321). -/
def State.blockAddr (s : State) (b : Nat) : Nat :=
  let d := b / 2 ^ 27
  (s.die d).poolBase + b % 2 ^ 27 * 2 ^ (14 + (s.die d).poolBs)

/-- What a block number names at its allocator (R326). -/
def State.blockInfo (s : State) (b : Nat) : BlockInfo :=
  SMap.get .free (s.die (b / 2 ^ 27)).blocks (b % 2 ^ 27)

/-- The leaf of block frames: writable, encrypted where their frame is. -/
def State.blockLeaf (s : State) (va pa : Nat) : Leaf :=
  ⟨va, pa, d64 (7 + (if (s.mem.frameKey.lookup (pa / 2 ^ 19)).isSome then 128 else 0))⟩

/-- The frame of a tile: its first virtual address, or a block (R234). -/
inductive Frame where
  | page (va : Nat)
  | block (b : Nat)
  deriving DecidableEq, Repr

/-- The tile-table word of a tile, and what it resolves to (R234). -/
def State.tileFrame (s : State) (a : Agent) (e : HEntry) (c : Coords) (tile : Nat) (instant : Bool := false) :
    Except Stop (State × Frame) := do
  let (s, b) ← s.readVa a e.vf (e.ttbase + 8 * tile) 8 .walker instant
  let w := leNat b
  s.onward do
    need (bitsOf w 63 56 == 0x80) (e.fault 0x2C c tile)
    if e.blocks then
      need (bitsOf w 55 32 == 0 && s.blockOk e.vf (bitsOf w 31 0)) (e.fault 0x2C c tile)
      .ok (s, .block (bitsOf w 31 0))
    else
      need (bitsOf w 18 0 == 0) (e.fault 0x2C c tile)
      .ok (s, .page (bitsOf w 55 0))

/-- The leaf of a byte offset in a tile's frame. -/
def State.frameLeaf (s : State) (a : Agent) (e : HEntry) (f : Frame) (byte : Nat) (k : Kind) (instant : Bool := false) :
    Except Stop (State × Leaf) :=
  match f with
  | .page va => s.onward do
    checkSpace (va + byte) 1 k
    s.translate a e.vf (va + byte) k instant
  | .block b => .ok (s, s.blockLeaf (s.cfg e.vf 0x0B + b / 2 ^ 27 * 2 ^ 36
      + b % 2 ^ 27 * 2 ^ (14 + (s.die (b / 2 ^ 27)).poolBs) + byte) (s.blockAddr b + byte))

/-- The tweak of a unit of a tile (R399). -/
def tweakOf (tile byte : Nat) : BitVec 128 := BitVec.ofNat 128 (tile * 2 ^ 13 + byte / 64)

/-- A list of 64 bytes as one unit. -/
def unitOf (bs : List Byte) : BitVec 512 := BitVec.ofNat 512 (leNat bs)

/-- The bytes of a unit. -/
def unitBytes (u : BitVec 512) : List Byte := leBytes 64 u.toNat

/-- Reads bytes of a tile, decrypting under the handle's key (R399). -/
def State.readTile (s : State) (a : Agent) (e : HEntry) (f : Frame) (tile byte n : Nat) (instant : Bool := false) :
    Except Stop (State × List Byte) := do
  match ← s.handleKey e with
  | none =>
    let (s, l) ← s.frameLeaf a e f byte .read instant
    s.readLeaf a e.vf l n
  | some key =>
    let base := byte / 64 * 64
    let (s, l) ← s.frameLeaf a e f base .read instant
    let (s, bs) ← s.readLeaf a e.vf l 64
    .ok (s, ((unitBytes (Config.xtsOpen key (tweakOf tile byte) (unitOf bs))).drop (byte - base)).take n)

/-! ### Writes of elements -/

/-- Where a write of the element `elem` of width `w` of a tile goes, and what it writes there (R17, R233, R399, R473). With ENCW = 1
no frame that is not encrypted takes it, a block's neither, which no walk checks (R400; log entry 145, DEDUCED). -/
def State.tileTarget (s : State) (a : Agent) (e : HEntry) (f : Frame) (tile elem v : Nat) : Except Stop (State × OutWrite) := do
  let byte := 64 * e.hdr + elem * e.width / 8
  let key ← s.handleKey e
  let (s, l) ← s.frameLeaf a e f byte .write
  s.onward (need (!(s.cfg e.vf 0x21 = 1 && !l.enc)) (trapAddr 0x22 l.va))
  s.checkSealed a e.vf l
  .ok (s, { vf := e.vf, va := l.va, pa := l.pa, pte := l.pte
            bytes := if e.width = 4 then [] else (numbered (leBytes (e.width / 8) v)).map fun p => (l.pa + p.1, p.2)
            nibbles := if e.width = 4 then [(l.pa, elem % 2 == 1, v)] else []
            key := key.map fun k => (k, tweakOf tile byte), packet := none })

/-- Two writes to one unit through one leaf become one request (R242). -/
def OutWrite.joins (x y : OutWrite) : Bool :=
  x.packet.isNone && y.packet.isNone && x.pa / 64 == y.pa / 64 && x.va / 64 == y.va / 64 && x.pte == y.pte && x.vf == y.vf && x.key == y.key

/-- Writes of elements as requests of aligned 64-byte units: neighbours join (R242). -/
def joinWrites (ws : List OutWrite) : List OutWrite :=
  ws.foldr (fun w acc =>
    match acc with
    | x :: rest =>
      if w.joins x then { w with bytes := w.bytes ++ x.bytes, nibbles := w.nibbles ++ x.nibbles } :: rest else w :: acc
    | [] => [w]) []

/-- A byte with one nibble replaced (R17). -/
def withNibble (b : Byte) (high : Bool) (v : Nat) : Byte :=
  BitVec.ofNat 8 (if high then b.toNat % 16 + 16 * (v % 16) else b.toNat / 16 * 16 + v % 16)

/-- The bytes of a unit from `base` on after a write to it: whole bytes, and nibbles that leave the other nibble as it is (R473). -/
def OutWrite.merge (w : OutWrite) (base : Nat) (old : List Byte) : List Byte :=
  let bs := w.bytes.foldl (fun (b : List Byte) c => b.set (c.1 - base) c.2) old
  w.nibbles.foldl (fun (b : List Byte) n => b.set (n.1 - base) (withNibble (b.getD (n.1 - base) 0) n.2.1 n.2.2)) bs

/-- The offsets in the unit that a write touches. -/
def OutWrite.touches (w : OutWrite) (pa : Nat) : Bool := (w.bytes.any fun c => c.1 == pa) || w.nibbles.any fun n => n.1 == pa

/-- A write of part of a byte, or of part of a unit that is stored under a per-handle key: it reads and writes the unit in one step at
the home, so that it undoes no concurrent write (R399, R473; log entry 16, DEDUCED). The home's read meets the errors of the line, and
changes nothing of one that is poisoned (R386, R387). -/
def State.mergeHome (s : State) (a : Agent) (w : OutWrite) (l : Leaf) (colours : Byte) (chan : Option Nat) :
    Except Stop State := do
  let base := l.pa / 64 * 64
  need (s.mem.predsIn (homeOf l.pa l.ms) (s.mem.predsOf a)) (waitOn .order)
  let s := s.meetLines [l.pa / 64]
  let m := s.mem.flushOwn a l.pa
  let plain := s.sight a w.vf l.pa l.enc != .stored
  let held (c : Nat × Byte) : Nat × Byte := if plain then c else (c.1, s.cipherByte c.1 c.2)
  let line (bs : List Byte) : List (Nat × Byte) := (numbered bs).map fun p => held (base + p.1, p.2)
  let old := (line (m.readAt none (some a) base 64)).map Prod.snd
  let cells := match w.key with
    | none => (line (w.merge base old)).filter fun c => w.touches c.1
    | some (k, t) => line (unitBytes (Config.xtsSeal k t (unitOf (w.merge base (unitBytes (Config.xtsOpen k t (unitOf old)))))))
  let cells := if m.poisoned none (some a) l.pa && !((List.range 64).all fun i => w.touches (base + i)) then [] else cells
  let r : WriteRec :=
    { agent := a, vf := w.vf, cells := cells, colours := colours, home := homeOf l.pa l.ms
      enc := plain && (s.mem.frameKey.lookup (l.pa / 2 ^ 19)).isSome, preds := m.predsOf a, dies := [], chan := chan }
  .ok { s.noteWrite a w.vf l [] with mem := m.enter r }

/-! ### Parts of a unit at a peer (R399, R473; log entry 16, DEDUCED) -/

/-- The message of a cas of an aligned word of the peer window (R284, R447). -/
def casMsg (vf pa v e : Nat) : LinkMsg :=
  requestMsg 0 2 vf false false false 9 ((pa - 2 ^ 51) % 2 ^ 44 / 4 * 4) (BitVec.ofNat 640 (v + e * 2 ^ 64))

/-- A word with one nibble replaced. -/
def withWordNibble (e pa : Nat) (high : Bool) (v : Nat) : Nat :=
  let sh := 8 * (pa % 4) + if high then 4 else 0
  e / 2 ^ (sh + 4) * 2 ^ (sh + 4) + v % 16 * 2 ^ sh + e % 2 ^ sh

/-- A nibble of a peer's memory: a cas at the home changes it and nothing else of its word, and goes again with the word that it found
where that was another than it expected. The link has no narrower write (R447). -/
def State.peerNibble (s : State) (a : Agent) (vf va : Nat) (n : Nat × Bool × Nat) (chan : Option Nat) : Except Stop State :=
  let word := n.1 / 4 * 4
  let cas (e : Nat) (sides : List Side) : Except Stop State :=
    match s.peerPort a.number ((word - 2 ^ 51) / 2 ^ 44) with
    | none => trapAddr 0x71 (va / 64 * 64) sides
    | some p => do
      s.maySend a p word
      let v := withWordNibble e n.1 n.2.1 n.2.2
      .error (.wait .peer (sides ++ [.peer (.mk' a p word 4 false true chan (9, v, e)) 0x05 (casMsg vf word v e)]))
  match s.peerFind a fun r =>
      r.addr == word && r.amo && !r.write && r.args == (9, withWordNibble r.args.2.2 n.1 n.2.1 n.2.2, r.args.2.2) with
  | none => cas 0 []
  | some r =>
    match r.resp with
    | none => waitOn .peer
    | some (bs, bad) =>
      let old := leNat (bs.take 4)
      if bad then trapAddr 0x71 (va / 64 * 64) [.forget r]
      else if old = r.args.2.2 then
        .ok ((s.peerTake r).updateEntry a [(n.1, d64 (r.args.2.1 / 2 ^ (8 * (n.1 % 4))) |>.setWidth 8)])
      else cas old [.forget r]

/-- The marker of a read that begins the change of a unit which is stored under a key. -/
abbrev unitRead : Nat × Nat × Nat := (256, 0, 0)

/-- Another agent of the module is changing the unit at an address of the peer window. -/
def State.unitHeld (s : State) (a : Agent) (pa : Nat) : Bool :=
  s.peers.any fun r =>
    r.agent != a && r.addr / 64 == pa / 64 && (r.args == unitRead || (r.write && r.resp.isNone))

/-- A write to a unit of a peer's memory that is stored under a key: the unit is read, unless all of it is written, and goes back
whole; meanwhile no other agent of the module changes it. Other modules may: the link has no request that would keep them out (log
entry 16, DEDUCED). -/
def State.peerUnit (s : State) (a : Agent) (w : OutWrite) (l : Leaf) (key : BitVec 512 × BitVec 128) (colours : Byte)
    (chan : Option Nat) : Except Stop State := do
  let base : Leaf := { l with va := l.va / 64 * 64, pa := l.pa / 64 * 64 }
  need (!s.unitHeld a l.pa) (waitOn .peer)
  let put (s : State) (old : List Byte) : Except Stop State :=
    let u := Config.xtsSeal key.1 key.2 (unitOf (w.merge base.pa old))
    s.writeCells a w.vf base ((numbered (unitBytes u)).map fun p => (base.pa + p.1, p.2)) colours chan
  if (List.range 64).all fun i => w.bytes.any fun c => c.1 == base.pa + i then put s (List.replicate 64 0)
  else
    match s.peerFind a fun r => r.addr == base.pa && r.args == unitRead with
    | some r =>
      match r.resp with
      | none => waitOn .peer
      | some (bs, bad) =>
        if bad then trapAddr 0x71 base.va [.forget r]
        else put (s.peerTake r) (unitBytes (Config.xtsOpen key.1 key.2 (unitOf bs)))
    | none =>
      match s.peerPort a.number ((base.pa - 2 ^ 51) / 2 ^ 44) with
      | none => trapAddr 0x71 base.va
      | some p => do
        s.maySend a p base.pa
        .error (.wait .peer [.peer (.mk' a p base.pa 64 false false chan unitRead) 0x01
          (requestMsg 0 6 w.vf false false false 0 ((base.pa - 2 ^ 51) % 2 ^ 44) 0)])

/-- A reduction packet leaves; it is lost where no port is up (R450). -/
def State.sendPacket (s : State) (a : Agent) (chan : Option Nat) (p : Nat × Nat × LinkMsg) : Except Stop State :=
  match s.peerPort a.number p.1 with
  | none => .ok (s.loseRequest (.mk' a 0 p.2.1 64 true false chan))
  | some port => do
    need (s.peerRoom a port) (waitOn .peer)
    .ok (s.sendPeer 0x07 p.2.2 (.mk' a port p.2.1 64 true false chan))

/-- Bytes of which a write gives both nibbles, and the nibbles of the others. -/
def OutWrite.paired (w : OutWrite) : List (Nat × Byte) × List (Nat × Bool × Nat) :=
  let other (n : Nat × Bool × Nat) : Option (Nat × Bool × Nat) := w.nibbles.find? fun m => m.1 == n.1 && m.2.1 != n.2.1
  ((w.nibbles.filter fun n => !n.2.1).filterMap fun n => (other n).map fun m => (n.1, BitVec.ofNat 8 (n.2.2 % 16 + 16 * (m.2.2 % 16))),
   w.nibbles.filter fun n => (other n).isNone)

/-- A write of an engine leaves (R242, R262, R268); at a peer its whole bytes first, and then nibble by nibble. What is left of it. -/
def State.emit (s : State) (a : Agent) (w : OutWrite) (colours : Byte) (chan : Option Nat) :
    Except Stop (State × Option OutWrite) := do
  let l : Leaf := ⟨w.va, w.pa, w.pte⟩
  if let some p := w.packet then return (← s.sendPacket a chan p, none)
  if w.key.isNone && w.nibbles = [] then return (← s.writeCells a w.vf l w.bytes colours chan, none)
  s.checkSealed a w.vf l
  match regionOf w.pa, w.key with
  | .peer _, some k => .ok (← s.peerUnit a w l k colours chan, none)
  | .peer _, none =>
    let (whole, single) := w.paired
    if w.bytes ++ whole = [] then
      match single with
      | [] => .ok (s, none)
      | n :: rest => .ok (← s.peerNibble a w.vf w.va n chan, if rest = [] then none else some { w with nibbles := rest })
    else
      .ok (← s.writeCells a w.vf l (w.bytes ++ whole) colours chan, if single = [] then none else some { w with bytes := [], nibbles := single })
  | _, _ => .ok (← s.mergeHome a w l colours chan, none)

/-- Writes leave in order, in at most `n` requests, until one cannot: the state, those that are left, and why the first of them cannot
leave now. -/
def State.emitSome (s : State) (a : Agent) (colours : Byte) (chan : Option Nat) :
    Nat → List OutWrite → State × List OutWrite × Option Stop
  | n + 1, w :: ws =>
    match s.emit a w colours chan with
    | .ok (t, none) => t.emitSome a colours chan n ws
    | .ok (t, some v) => t.emitSome a colours chan n (v :: ws)
    | .error e => (s, w :: ws, some e)
  | _, ws => (s, ws, none)

/-- Reads an element: its bits, or PAD (R233 to R236). -/
def State.readElem (s : State) (a : Agent) (e : HEntry) (c : Coords) (instant : Bool := false) :
    Except Stop (State × Nat) := do
  match ← e.place c false with
  | .pad => .ok (s, e.pad)
  | .at tile elem =>
    let (s, f) ← s.tileFrame a e c tile instant
    let (s, bs) ← s.readTile a e f tile (64 * e.hdr + elem * e.width / 8) (max 1 (e.width / 8)) instant
    .ok (s, if e.width = 4 then leNat bs / 16 ^ (elem % 2) % 16 else leNat bs)

/-- Where a write of an element goes. A shared block is refused before any memory request (R326). -/
def State.elemTarget (s : State) (a : Agent) (e : HEntry) (c : Coords) (v : Nat) : Except Stop (State × OutWrite) := do
  match ← e.place c true with
  | .pad => e.fault 0x27 c 0
  | .at tile elem =>
    let (s, f) ← s.tileFrame a e c tile
    s.onward do
      match f with
      | .block b => need ((s.blockInfo b).refs ≤ 1) (e.fault 0x62 c tile)
      | .page _ => .ok ()
      s.tileTarget a e f tile elem v

/-- Reads a run of elements along dimension 3. -/
def State.readRun (s : State) (a : Agent) (e : HEntry) (c : Coords) (n : Nat) : Except Stop (State × List Nat) :=
  (List.range n).foldlM (fun (r : State × List Nat) (i : Nat) => do
    let (s, v) ← r.1.readElem a e [coord c 0, coord c 1, coord c 2, coord c 3 + i]
    .ok (s, r.2 ++ [v])) (s, [])

/-- Elements of a width packed into bytes (R17). -/
def packBytes (w : Nat) (vs : List Nat) : List Byte :=
  let total := vs.foldr (fun v acc => v % 2 ^ w + 2 ^ w * acc) 0
  leBytes (ceilDiv (vs.length * w) 8) total

end Sys2Proof.Machine
end

