-- ==== Sys2Proof/Machine/Alloc.lean ====
section
/-! DEFINITION. KV blocks (R321 to R338): KV handles, block headers, allocation and release of blocks, the trim that
btrim and the rewind of an abort share. -/

namespace Sys2Proof.Machine
open Sys2Proof

/-! ### KV handles (R324) -/

/-- P: positions a block. -/
def HEntry.kvP (e : HEntry) : Nat := 2 ^ e.shift 1
/-- NBLK of AUX. -/
def HEntry.nblk (e : HEntry) : Nat := bitsOf e.aux 47 32
/-- LEN of AUX. -/
def HEntry.kvLen (e : HEntry) : Nat := bitsOf e.aux 31 0
/-- ADIE of AUX. -/
def HEntry.adie (e : HEntry) : Nat := bitsOf e.aux 52 48
/-- Layers of the group. -/
def HEntry.layers (e : HEntry) : Nat := e.extent 0

/-- The least n with x ≤ 2^n. -/
def clog2 (x : Nat) : Nat := if x ≤ 1 then 0 else Nat.log2 (x - 1) + 1

/-- The conditions of R324. -/
def State.kvOk (s : State) (e : HEntry) : Bool :=
  let d := s.die e.adie
  (e.fmt == 1 || e.fmt == 2 || e.fmt == 3) && e.blocks && e.hdr == 1
    && s.poolSize e.adie != 0 && bitsOf e.frame 5 4 == d.poolBs
    && e.shift 0 == 0 && decide (e.shift 1 ≤ 6) && e.extent 2 % 2 == 0
    && e.shift 2 == clog2 (e.extent 2) && e.shift 3 == clog2 (e.extent 3)
    && e.auxType == 1 && bitsOf e.aux 59 53 == 0 && decide (e.nt 1 ≤ 65535)

/-- A dereference of a KV handle: R232, then 0x60 (R324, R352). -/
def State.derefKv (s : State) (a : Agent) (device : Bool) (h : Dword) (instant : Bool := false) :
    Except Stop (State × HEntry) := do
  let (s, e) ← s.deref a device h false instant
  s.onward (need (s.kvOk e) (trapHand 0x60 h))
  .ok (s, e)

/-- The virtual address of a block through the VF's window (R322). -/
def State.blockVa (s : State) (vf b : Nat) : Nat :=
  s.cfg vf 0x0B + b / 2 ^ 27 * 2 ^ 36 + b % 2 ^ 27 * 2 ^ (14 + (s.die (b / 2 ^ 27)).poolBs)

/-- A block header (R326). -/
structure Header where
  seq : Dword
  pend : Dword
  lost : Dword
  owner : Dword
  wgen : Dword
  layer : Nat
  lblk : Nat
  deriving DecidableEq, Repr

/-- Reads the fields of a header. -/
def Header.ofBytes (b : List Byte) : Header :=
  ⟨d64 (field b 0 8), d64 (field b 8 8), d64 (field b 0x10 8), d64 (field b 0x18 8), d64 (field b 0x20 8),
    field b 0x28 2, field b 0x2C 4⟩

/-- The 64 bytes of a header. -/
def Header.bytes (h : Header) : List Byte :=
  leBytes 8 h.seq.toNat ++ leBytes 8 h.pend.toNat ++ leBytes 8 h.lost.toNat ++ leBytes 8 h.owner.toNat
    ++ leBytes 8 h.wgen.toNat ++ leBytes 2 h.layer ++ leBytes 2 0 ++ leBytes 4 h.lblk ++ List.replicate 16 0

/-- Reads bytes of a block at its physical address (R321); poison there is reported by the block window's address. -/
def State.readBlockAt (s : State) (a : Agent) (vf b off n : Nat) : Except Stop (State × List Byte) :=
  s.readLeaf a vf (s.blockLeaf (s.blockVa vf b + off) (s.blockAddr b + off)) n

/-- Writes bytes of a block at its physical address, performed at module scope at once (R321, R327). -/
def State.commitBlockAt (s : State) (a : Agent) (vf b off : Nat) (bs : List Byte) : State :=
  let s := s.dirtyPage vf (s.blockVa vf b + off)
  let l := s.blockLeaf (s.blockVa vf b + off) (s.blockAddr b + off)
  { s with mem := s.mem.commit a vf ((numbered bs).map fun p => (l.pa + p.1, p.2)) l.ms l.enc }

/-- Reads a block's header: a page of the block window that is not present waits (R322, R330; log entry 124, DEDUCED). -/
def State.readHeader (s : State) (a : Agent) (vf b : Nat) (instant : Bool := false) : Except Stop (State × Header) := do
  let (s, _) ← s.translate a vf (s.blockVa vf b) .read instant
  let (s, bs) ← s.onward (s.readBlockAt a vf b 0 64)
  .ok (s, .ofBytes bs)

/-- Writes a block's header. -/
def State.writeHeader (s : State) (a : Agent) (vf b : Nat) (h : Header) : State := s.commitBlockAt a vf b 0 h.bytes

/-- The header of a block as a die's backfill queue reads it at its home (R347, R350); none where it is poisoned. -/
def State.peekHeader (s : State) (d vf b : Nat) : State × Option Header :=
  match s.readBlockAt (.backfill d) vf b 0 64 with
  | .ok (s, bs) => (s, some (.ofBytes bs))
  | .error (.trap t) => (s.applySides t.sides, none)
  | .error (.wait _ sides) => (s.applySides sides, none)

/-- A die's backfill queue changes a header at its home; one that is poisoned stays as it is (log entry 123, DESIGN
CHOICE). -/
def State.pokeHeader (s : State) (d vf b : Nat) (f : Header → Header) : State :=
  match s.peekHeader d vf b with
  | (s, some h) => if f h = h then s else s.writeHeader (.backfill d) vf b (f h)
  | (s, none) => s

/-- Every serialised write is performed at module scope: what a unit that acquires at module scope waits for (R327). -/
def State.settleAll (s : State) : State := { s with mem := s.mem.settle }

/-- The tile number of a layer's logical block (R324). -/
def HEntry.kvTile (e : HEntry) (layer lb : Nat) : Nat := layer * e.nt 1 + lb

/-- The block that a tile entry holds; none where V = 0. An entry with V = 1 that breaks R234 raises 0x2C. -/
def State.readBlock (s : State) (a : Agent) (e : HEntry) (tile : Nat) (instant : Bool := false) :
    Except Stop (State × Option Nat) := do
  let (s, b) ← s.readVa a e.vf (e.ttbase + 8 * tile) 8 .walker instant
  let w := leNat b
  if w / 2 ^ 63 = 0 then .ok (s, none)
  else do
    s.onward (need (bitsOf w 62 32 == 0 && s.blockOk e.vf (bitsOf w 31 0)) (e.fault 0x2C [] tile))
    .ok (s, some (bitsOf w 31 0))

/-- Writes a tile entry: V and a block, or zero. -/
def State.writeBlock (s : State) (a : Agent) (e : HEntry) (tile : Nat) (b : Option Nat) (instant : Bool := false) :
    Except Stop State :=
  s.commitVa a e.vf (e.ttbase + 8 * tile) (leBytes 8 ((b.map fun x => 2 ^ 63 + x).getD 0)) instant

/-- The address of a handle's entry in its VF's table. -/
def State.entryAddr (s : State) (a : Agent) (h : Dword) : Nat :=
  (s.handleTable a (hvfOf h)).1 + 64 * indexOf h

/-- AUX with another NBLK and LEN (R324). -/
def auxWith (aux nblk len : Nat) : Nat := aux / 2 ^ 48 * 2 ^ 48 + nblk % 2 ^ 16 * 2 ^ 32 + len % 2 ^ 32

/-- Writes NBLK and LEN of a KV handle. -/
def State.writeAux (s : State) (a : Agent) (e : HEntry) (nblk len : Nat) (instant : Bool := false) :
    Except Stop State :=
  s.commitVa a e.vf (s.entryAddr a e.handle + 0x30) (leBytes 8 (auxWith e.aux nblk len)) instant

/-! ### Blocks (R328, R329) -/

/-- Blocks that a VF holds on a die (R323: USED). -/
def State.blocksUsed (s : State) (vf d : Nat) : Nat := ((s.die d).blocks.filter fun p => p.2.vf == vf && p.2.refs != 0).length

/-- The indices of a VF's range on a die: first and end. -/
def State.blockRange (s : State) (vf d : Nat) : Nat × Nat :=
  (s.cfg vf 0x0C d, min (s.cfg vf 0x0D d) (s.poolSize d))

/-- The indices in use in a VF's range, ascending. -/
def State.takenIn (s : State) (vf d : Nat) : List Nat :=
  let r := s.blockRange vf d
  ((s.die d).blocks.filter fun p => decide (r.1 ≤ p.1 ∧ p.1 < r.2)).map Prod.fst

/-- Free blocks of a VF's range on a die. -/
def State.freeBlocks (s : State) (vf d : Nat) : Nat :=
  let r := s.blockRange vf d
  (r.2 - r.1) - (s.takenIn vf d).length

/-- The status of an allocation of `n` blocks: 0 OK, 1 QUOTA, 2 EMPTY (R329). -/
def State.allocStatus (s : State) (vf d n : Nat) : Nat :=
  if s.cfg vf 0x0E d < s.blocksUsed vf d + n then 1
  else if s.freeBlocks vf d < n then 2
  else 0

/-- The k-th free index of a VF's range. -/
def State.nthFree (s : State) (vf d k : Nat) : Nat :=
  (s.takenIn vf d).foldl (fun c u => if u ≤ c then c + 1 else c) ((s.blockRange vf d).1 + k)

/-- Takes a free block for a VF: which one is not specified (R328; log entry 11, DESIGN CHOICE). -/
def State.takeBlock (s : State) (vf d : Nat) : State × Nat :=
  let i := s.nthFree vf d (Config.freeChoice s.free (s.freeBlocks vf d) % s.freeBlocks vf d)
  ({ (s.updDie d fun k => { k with blocks := SMap.set .free k.blocks i ⟨1, vf⟩ }) with free := s.free + 1 }, d * 2 ^ 27 + i)

/-- One more reference to a block, or one fewer; at 0 it returns to the free list (R332, R334). -/
def State.refBlock (s : State) (b : Nat) (up : Bool) : State :=
  s.updDie (b / 2 ^ 27) fun k =>
    { k with blocks := SMap.upd .free k.blocks (b % 2 ^ 27) fun x =>
        if up then { x with refs := x.refs + 1 } else if x.refs ≤ 1 then .free else { x with refs := x.refs - 1 } }

/-- A new block for (layer, lb) of a handle, its header initialised (R328). -/
def State.newBlock (s : State) (a : Agent) (e : HEntry) (layer lb : Nat) (pend lost : Dword) (instant : Bool := false) :
    Except Stop (State × Nat) := do
  let (s, b) := s.takeBlock e.vf e.adie
  let (s, h) ← s.readHeader a e.vf b instant
  .ok (s.writeHeader a e.vf b ⟨(h.seq ||| 1) + 1, pend, lost, e.handle, h.wgen + 1, layer, lb⟩, b)

/-- Runs a step for each number below n, in order. -/
def forNat (n : Nat) (s : State) (f : State → Nat → Except Stop State) : Except Stop State :=
  (List.range n).foldlM (fun s i => s.onward (f s i)) s

/-- Copies a tile's bytes from one block to another. -/
def State.copyTile (s : State) (a : Agent) (e : HEntry) (src dst : Nat) : Except Stop State := do
  let (s, bs) ← s.readBlockAt a e.vf src 64 e.tileBytes
  .ok (s.commitBlockAt a e.vf dst 64 bs)

/-- Bits of positions at or above n of a block. -/
def bitsBelow (n : Nat) : Dword := d64 (2 ^ (min n 64) - 1)

/-! ### Backfill requests (R332, R347) -/

/-- A request of a handle for a position at or above `from_`. -/
def bfHit (vf : Nat) (h : Dword) (from_ : Nat) (b : BfEntry) : Bool :=
  b.vf == vf && indexOf b.handle == indexOf h && decide (from_ ≤ b.pos)

/-- A request with a node for positions at or above a length is running, on whatever die. -/
def State.bfRunning (s : State) (vf : Nat) (h : Dword) (from_ : Nat) : Bool :=
  s.dies.any fun d => d.2.bfq.any fun b => bfHit vf h from_ b && b.node.isSome

/-- Drops the requests that have no node yet. -/
def State.bfDrop (s : State) (vf : Nat) (h : Dword) (from_ : Nat) : State :=
  (List.range 32).foldl (fun s d =>
    s.updDie d fun k => { k with bfq := k.bfq.filter fun b => !(bfHit vf h from_ b && b.node.isNone) }) s

/-! ### Trim (R332, R338) -/

/-- The outcome of a trim: the state and a status of R330. -/
abbrev Trimmed := State × Nat

/-- Gives every layer a block of its own for the tail that a trim keeps (R332). -/
def State.unshareTail (s : State) (a : Agent) (e : HEntry) (lb : Nat) (instant : Bool) : Except Stop State :=
  forNat e.layers s fun s l => do
    let (s, old) ← s.readBlock a e (e.kvTile l lb) instant
    match old with
    | none => .ok s
    | some b =>
      let (s, h) ← s.onward (s.readHeader a e.vf b instant)
      let (s, n) ← s.onward (s.newBlock a e l lb h.pend h.lost instant)
      let s ← s.onward (s.copyTile a e b n)
      let s ← s.onward (s.writeBlock a e (e.kvTile l lb) (some n) instant)
      .ok (s.refBlock b false)

/-- Whether the tail block of some layer is shared. -/
def State.tailShared (s : State) (a : Agent) (e : HEntry) (lb : Nat) (instant : Bool) : Except Stop (State × Bool) :=
  (List.range e.layers).foldlM (fun (r : State × Bool) l => do
    let (s, b) ← r.1.onward (r.1.readBlock a e (e.kvTile l lb) instant)
    .ok (s, r.2 || match b with | some b => decide (2 ≤ (s.blockInfo b).refs) | none => false)) (s, false)

/-- Drops the blocks of the tile entries of logical numbers from `first` on, of every layer (R332, R333). -/
def State.dropBlocks (s : State) (a : Agent) (e : HEntry) (first : Nat) (instant : Bool) : Except Stop State :=
  forNat e.layers s fun s l =>
    forNat (e.nt 1 - first) s fun s i => do
      let tile := e.kvTile l (first + i)
      let (s, b) ← s.readBlock a e tile instant
      let s ← s.onward (s.writeBlock a e tile none instant)
      .ok (match b with | some b => s.refBlock b false | none => s)

/-- Rewinds a sequence to `len` ≤ LEN (R332). -/
def State.kvTrim (s : State) (a : Agent) (e : HEntry) (len : Nat) (instant : Bool := false) : Except Stop Trimmed := do
  let p := e.kvP
  let keep := ceilDiv len p
  let (s, shared) ← if len % p = 0 then .ok (s, false) else s.tailShared a e (keep - 1) instant
  let st := if shared then s.allocStatus e.vf e.adie e.layers else 0
  if st != 0 then .ok (s, st)
  else s.onward do
    let s ← if shared then s.unshareTail a e (keep - 1) instant else .ok s
    let s ← s.onward (s.dropBlocks a e keep instant)
    let below := bitsBelow (if len % p = 0 then p else len % p)
    let s ← s.onward (if keep = 0 then .ok s
      else forNat e.layers s fun s l => do
        let (s, b) ← s.readBlock a e (e.kvTile l (keep - 1)) instant
        match b with
        | none => .ok s
        | some b =>
          let (s, h) ← s.onward (s.readHeader a e.vf b instant)
          .ok (s.writeHeader a e.vf b { h with
            pend := h.pend &&& below, lost := h.lost &&& below, wgen := h.wgen + 1 }))
    let s ← s.onward (s.writeAux a e keep len instant)
    .ok (s, 0)

/-- Adds 1 to every odd counter of the blocks that a handle keeps (R338). -/
def State.evenCounters (s : State) (a : Agent) (e : HEntry) (keep : Nat) (instant : Bool) : Except Stop State :=
  forNat e.layers s fun s l =>
    forNat keep s fun s i => do
      let (s, b) ← s.readBlock a e (e.kvTile l i) instant
      match b with
      | none => .ok s
      | some b =>
        let (s, h) ← s.onward (s.readHeader a e.vf b instant)
        if h.seq.getLsbD 0 then .ok (s.writeHeader a e.vf b { h with seq := h.seq + 1 }) else .ok s

/-- One rewind of an abort (R338): the handle's tail as btrim rewinds it, then even counters; it answers the status of
R330. It waits while a request of the tail runs. The allocator of ADIE performs it, by the VF that the handle names. Where its
LEN already lies below, or the checkpoint could not read it (log entry 150, DESIGN CHOICE), nothing is trimmed; where the blocks of
its own that the tail needs cannot be had (R329), the sequence keeps its length. -/
def State.rewindOne (s : State) (h : Dword) (len : Option Word) : Except Stop (State × Nat) := do
  let s := s.settleAll
  let (s, e) ← s.derefKv (.allocator 0) true h
  let a : Agent := .allocator e.adie
  match len.filter fun n => decide (n.toNat ≤ e.kvLen) with
  | none =>
    let s ← s.onward (s.evenCounters a e e.nblk false)
    .ok (s, 0)
  | some n =>
    let n := n.toNat
    s.onward (need (!s.bfRunning e.vf h n) (waitOn .order))
    let (s, st) ← s.onward ((s.bfDrop e.vf h n).kvTrim a e n)
    let s ← s.onward (s.evenCounters a e (if st != 0 then e.nblk else ceilDiv n e.kvP) false)
    .ok (s, st)

/-- Runs the rewinds that stand (R338): each completes, which QUOTA and EMPTY tell by event 0x88 with their CAUSE (R329), fails
with event 0x88 CAUSE 3, or waits on a page or on a backfill node. -/
def State.runRewinds (s : State) : State :=
  let l := s.hearth.rewinds
  l.foldl (fun s r =>
    match s.rewindOne r.2.1 r.2.2 with
    | .ok (s, st) => if st = 0 then s else s.postNode r.1 0x88 st 0 (indexOf r.2.1)
    | .error (.wait _ sides) =>
      let s := s.applySides sides
      { s with hearth := { s.hearth with rewinds := s.hearth.rewinds ++ [r] } }
    | .error (.trap t) => (s.applySides t.sides).postNode r.1 0x88 3 0 (indexOf r.2.1))
    { s with hearth := { s.hearth with rewinds := [] } }

end Sys2Proof.Machine
end

