-- ==== Sys2Proof/Machine/AdapterUnit.lean ====
section
/-! DEFINITION. The adapter unit (R354 to R365): entries and references, pins of the die tables, evictions, loads,
retirement, and the application of a node's adapter log. -/

namespace Sys2Proof.Machine
open Sys2Proof

/-- An adapter table entry of a VF. -/
def State.adapter (s : State) (vf i : Nat) : AdEntry := SMap.get .init (s.vf vf).adapters i

/-- Changes an adapter table entry. -/
def State.updAdapter (s : State) (vf i : Nat) (f : AdEntry → AdEntry) : State :=
  s.updVf vf fun v => { v with adapters := SMap.upd .init v.adapters i f }

/-- INDEX of an adapter handle (R354). -/
def adIndex (h : Word) : Nat := h.toNat % 65536

/-- GEN of an adapter handle (R354). -/
def adGen (h : Word) : Half := h.extractLsb' 16 16

/-- The adapter handle of an entry. -/
def State.adHandle (s : State) (vf i : Nat) : Nat := (s.adapter vf i).gen.toNat * 65536 + i

/-- The agent as which the adapter unit accesses memory: the management core's I/O die (R355). -/
def adapterAgent : Agent := .management

/-- An entry of a die table is keyed by a handle (R203). -/
def PEntry.keyed (p : PEntry) (vf : Nat) (h : Dword) : Bool :=
  p.state != 0 && p.vf == vf && p.index == indexOf h && p.gen == genOf h

/-- Changes the die table entries, on every die, that are keyed by one of some handles. -/
def State.mapKeyed (s : State) (vf : Nat) (hs : List Dword) (f : PEntry → PEntry) : State :=
  { s with dies := s.dies.map fun d => (d.1, { d.2 with
      probe := (d.2.probe.map fun p => if hs.any fun h => p.2.keyed vf h then (p.1, f p.2) else p).filter
        fun p => p.2 != .init }) }

/-- The versions that an entry holds: references of each, and the factor handles that are known. -/
def AdEntry.versions (e : AdEntry) : List (Nat × List Dword) :=
  (if e.ver = 0 then [] else [(e.refs.toNat, e.hands.reduceOption)])
    ++ (if e.sver = 0 then [] else [(e.srefs.toNat, e.ohands.reduceOption)])

/-- References of the versions, if any, of which a key of a VF names a factor handle (R359, R361): where several name it, of all of
them. -/
def State.factorRefs (s : State) (vf index : Nat) (gen : BitVec 12) : Option Nat :=
  let named (v : Nat × List Dword) : Bool := v.2.any fun h => indexOf h == index && genOf h == gen
  let l := ((s.vf vf).adapters.flatMap fun p => p.2.versions).filter named
  if l = [] then none else some (l.map Prod.fst).sum

/-- The pin counts of a version's die entries follow the references (R359). -/
def State.repin (s : State) (vf : Nat) (hs : List Dword) : State :=
  s.mapKeyed vf hs fun p => { p with pins := (s.factorRefs vf p.index p.gen).getD 0 }

/-- A failed try of the adapter unit to read a handle leaves what it met, and a request to a peer; no event. -/
def Side.quiet (d : Side) : Bool := d.met || match d with | .peer _ _ _ => true | _ => false

/-- The factor handles of a version record, as far as they are known or can be read now without a wait (R358). -/
def State.learnHands (s : State) (vf rec : Nat) (hs : List (Option Dword)) : State × List (Option Dword) :=
  hs.zipIdx.foldl (fun r x =>
    match x.1 with
    | some h => (r.1, r.2 ++ [some h])
    | none =>
      match r.1.readVa adapterAgent vf (rec + 0x40 + 8 * x.2) 8 .read true with
      | .ok (s, b) => (s, r.2 ++ [some (d64 (leNat b))])
      | .error e => (r.1.applySides (e.sides.filter Side.quiet), r.2 ++ [none])) (s, [])

/-- The adapter unit reads the factor handles of an entry's versions that it does not know (log entry 149, DEDUCED): R359 has every
die entry of such a handle pinned. -/
def State.learn (s : State) (vf i : Nat) : State :=
  let e := s.adapter vf i
  if (e.hands ++ e.ohands).all Option.isSome then s
  else
    let r := s.learnHands vf e.vrec.toNat e.hands
    let q := r.1.learnHands vf e.svrec.toNat e.ohands
    (q.1.updAdapter vf i fun e => { e with hands := r.2, ohands := q.2 }).repin vf (r.2 ++ q.2).reduceOption

/-- The adapter unit reads the factor handles of a VF's versions that it does not know. -/
def State.learnAll (s : State) (vf : Nat) : State := (s.vf vf).adapters.foldl (fun s p => s.learn vf p.1) s

/-- Drops a version's die entries (R357, R364). -/
def State.dropKeyed (s : State) (vf : Nat) (hs : List Dword) : State := s.mapKeyed vf hs fun _ => .init

/-- The current version leaves HBM, and its die entries with it, but for those that another version pins (R357, R359). -/
def State.evict (s : State) (vf i : Nat) : State :=
  let hs := (s.adapter vf i).hands.reduceOption.filter fun h => ((s.factorRefs vf (indexOf h) (genOf h)).getD 0) == 0
  (s.dropKeyed vf hs).updAdapter vf i fun e => { e with state := 0, evpend := false }

/-- One reference fewer on a version of an entry (R359, R360). -/
def State.dropRef (s : State) (vf : Nat) (h : Word) (ver : BitVec 28) : State :=
  let i := adIndex h
  let s := s.learn vf i
  let e := s.adapter vf i
  if ver = e.ver ∧ e.refs ≠ 0 then
    let s := (s.updAdapter vf i fun e => { e with refs := e.refs - 1 }).repin vf e.hands.reduceOption
    if e.refs = 1 ∧ e.evpend ∧ e.state = 2 then s.evict vf i else s
  else if ver = e.sver ∧ e.srefs ≠ 0 then
    let s := (s.updAdapter vf i fun e => { e with srefs := e.srefs - 1 }).repin vf e.ohands.reduceOption
    if e.srefs = 1 then
      (s.updAdapter vf i fun e =>
        { e with sver := 0, svrec := 0, ofmt := 0, orank := 0, onlayer := 0, oalpha := 0, ohands := [] }).postRing0 vf 0x8C 0
          (s.adHandle vf i)
    else s
  else s

/-- The log of a node at a checkpoint or at its end: its releases are applied in order (R360). -/
def State.applyLog (s : State) (id : Dword) : State :=
  match s.node? id with
  | none => s
  | some n =>
    let s := s.setNode id { n with alog := [] }
    n.alog.foldl (fun s r => if r.release then s.dropRef (nodeVf id) r.handle r.ver else s) s

/-- The log of a node that is aborted or rolled back: the references it took are dropped (R360). -/
def State.discardLog (s : State) (id : Dword) : State :=
  match s.node? id with
  | none => s
  | some n =>
    let s := s.setNode id { n with alog := [] }
    n.alog.foldl (fun s r => if r.release then s else s.dropRef (nodeVf id) r.handle r.ver) s

/-! ### Tickets and parked nodes (R204, R316, R361) -/

/-- A new ticket of a die. -/
def State.newTicket (s : State) (d : Nat) (t : TicketOf) : State × Nat :=
  let n := (s.die d).nextTicket
  (s.updDie d fun k => { k with nextTicket := if n + 1 = 2 ^ 32 then 1 else n + 1, tickets := SMap.insert n t (SMap.erase k.tickets n) }, n)

/-- The wake word of a parked core holds (R316): a ticket of its die is no longer in flight, or its time has come. A
park of KIND 1 is ended by the host alone. -/
def State.wakes (s : State) (d : Nat) (w : Dword) : Bool :=
  match bitsOf w.toNat 63 62 with
  | 0 => ((s.die d).tickets.lookup (bitsOf w.toNat 31 0)).isNone
  | 2 => decide (bitsOf w.toNat 55 0 ≤ s.tb)
  | _ => false

/-- A parked node whose every wake word has held is ready (R316). -/
def State.wakeNode (s : State) (id : Dword) : State :=
  match s.node? id with
  | none => s
  | some n =>
    if n.state != .parked then s
    else
      let left := n.wakes.filter fun w => !s.wakes w.1 w.2
      s.setNode id (if left = [] then { n with wakes := [], state := .ready, since := s.tb } else { n with wakes := left })

/-- Wakes every node whose wake words hold. -/
def State.wakeAll (s : State) : State := s.hearth.nodes.foldl (fun s p => s.wakeNode (d64 p.1)) s

/-- A ticket of a die completes and wakes its waiters (R204). -/
def State.endTicket (s : State) (d t : Nat) : State :=
  (s.updDie d fun k => { k with tickets := SMap.erase k.tickets t }).wakeAll

/-- Every ticket of a load completes (R361). -/
def State.endLoadTickets (s : State) (vf i : Nat) : State :=
  (List.range 32).foldl (fun s d =>
    (((s.die d).tickets.filter fun t => t.2 == .adapter vf i).map Prod.fst).foldl (fun s t => s.endTicket d t) s) s

/-! ### Retirement (R364) -/

/-- Raises the GEN of a factor handle's entry, which lies in the VF's own table. `instant`: a teardown never waits. -/
def State.raiseGen (s : State) (vf : Nat) (h : Dword) (instant : Bool) : Except Stop State := do
  need (hvfOf h == vf) (trapHand 0x24 h)
  need (indexOf h < s.cfg vf 0x0A) (trapHand 0x26 h)
  let va := s.cfg vf 0x09 + 64 * indexOf h
  let (s, b) ← s.readVa adapterAgent vf va 2 .read instant
  let ctl := leNat b
  s.onward <| s.commitVa adapterAgent vf va (leBytes 2 (ctl / 4096 * 4096 + (ctl % 4096 + 1) % 4096)) instant

/-- A retirement with one thing less to do: a factor handle read, or its entry's GEN raised. What cannot be read, or names no
entry of the VF's table, leaves its entry unreached (log entry 107, DEDUCED). -/
def State.retireOne (s : State) (r : Retire) (teardown : Bool) : Except Stop (State × Retire) :=
  match r.left, r.todo with
  | va :: rest, _ =>
    let r := { r with left := rest }
    match s.readVa adapterAgent r.vf va 8 .read teardown with
    | .ok (s, b) =>
      let h := d64 (leNat b)
      .ok (s, if r.hands.contains h then r else { r with hands := r.hands ++ [h], todo := r.todo ++ [h] })
    | .error (.trap t) => .ok (s.applySides t.sides, { r with lost := true })
    | .error e => if teardown then .ok (s, { r with lost := true }) else .error e
  | [], h :: rest =>
    let r := { r with todo := rest }
    match s.raiseGen r.vf h teardown with
    | .ok s => .ok (s, r)
    | .error (.trap t) => .ok (s.applySides t.sides, { r with lost := true })
    | .error e => if teardown then .ok (s, { r with lost := true }) else .error e
  | [], [] => .ok (s, r)

/-- A retirement as far as it gets in some actions, and whether nothing stopped it. -/
def State.retireRun (teardown : Bool) : Nat → State → Retire → State × Retire × Bool
  | 0, s, r => (s, r, true)
  | n + 1, s, r =>
    match s.retireOne r teardown with
    | .ok (s, r) => State.retireRun teardown n s r
    | .error e => (s.applySides e.sides, r, false)

/-- Steps 1 and 2 of R364: any load ends, GEN rises, the entry is RETIRED. -/
def State.retireEntry (s : State) (vf i : Nat) : State :=
  (s.updAdapter vf i fun e => { e with gen := e.gen + 1, state := 3, xcnt := 0, copied := 0 }).endLoadTickets vf i

/-- What step 3 of R364 has to do for an entry: both versions' factor handles, each once however many layers name it. -/
def State.retireWork (s : State) (vf i cause : Nat) : Retire :=
  let e := s.adapter vf i
  let known := ((if e.ver = 0 then [] else e.hands) ++ (if e.sver = 0 then [] else e.ohands)).reduceOption.dedup
  let unread (rec : Nat) (hs : List (Option Dword)) : List Nat :=
    (hs.zipIdx.filter fun x => x.1.isNone).map fun x => rec + 0x40 + 8 * x.2
  { vf := vf, idx := i, cause := cause, old := s.adHandle vf i, lost := false, hands := known, todo := known
    left := (if e.ver = 0 then [] else unread e.vrec.toNat e.hands) ++ (if e.sver = 0 then [] else unread e.svrec.toNat e.ohands) }

/-- Steps 3 and 4 of R364, or a note of what of them waits on a page. A teardown does not wait. -/
def State.finishRetire (s : State) (r : Retire) (teardown : Bool) : State :=
  let q := s.retireRun teardown (2 * r.left.length + r.todo.length) r
  if q.2.2 then (q.1.dropKeyed r.vf q.2.1.hands).postRing0 r.vf 0x8B (r.cause + if q.2.1.lost then 0x80 else 0) r.old
  else { q.1 with hearth := { q.1.hearth with retires := q.1.hearth.retires ++ [q.2.1] } }

/-- A forced retirement (R364): steps 1 and 2 at once, and the others now or once a page is there. -/
def State.retire (s : State) (vf i cause : Nat) (teardown : Bool) : State :=
  (s.retireEntry vf i).finishRetire (s.retireWork vf i cause) teardown

/-- A retirement of an entry of a VF waits. -/
def State.retirePends (s : State) (vf i : Nat) : Bool := s.hearth.retires.any fun r => r.vf == vf && r.idx == i

/-- A replacement of the base model ends once its retirements have (R365): abase holds the new shape hash. -/
def State.endReplace (s : State) : State :=
  match s.sec.nextBase with
  | some hash =>
    if s.hearth.retires.any fun r => r.cause == 2 then s
    else { s with sec := { s.sec with abase := hash, nextBase := none } }
  | none => s

/-- Runs the retirements that stand. -/
def State.runRetires (s : State) : State :=
  let l := s.hearth.retires
  let s := l.foldl (fun s r => s.finishRetire r false) { s with hearth := { s.hearth with retires := [] } }
  (l.foldl (fun s r =>
    if s.retirePends r.vf r.idx then s
    else s.updVf r.vf fun v => { v with adstat := v.adstat &&& 0x7FFFFFFFFFFFFFFF }) s).endReplace

end Sys2Proof.Machine
end

