-- ==== Sys2Proof/Machine/ProbeUnit.lean ====
section
/-! DEFINITION. Probe tag tables and their fills (R202 to R204, R361, R362). -/

namespace Sys2Proof.Machine
open Sys2Proof

/-- A probe table: the probe region of a core, or the die table of a die. -/
inductive PTable where
  | region (core : Nat)
  | die (d : Nat)
  deriving DecidableEq, Repr

/-- The die of a table. -/
def PTable.home : PTable → Nat
  | .region c => dieOf c
  | .die d => d

/-- The entries of a table. -/
def State.ptable (s : State) : PTable → SMap PEntry
  | .region c => (s.core c).probe
  | .die d => (s.die d).probe

/-- Slots of a table (R189, R202). -/
def State.pslots (s : State) : PTable → Nat
  | .region c => (s.core c).slotCount
  | .die d => (s.die d).probeUnits * 128

/-- An entry. -/
def State.pentry (s : State) (t : PTable) (i : Nat) : PEntry := SMap.get .init (s.ptable t) i

/-- Replaces an entry. -/
def State.setPentry (s : State) (t : PTable) (i : Nat) (e : PEntry) : State :=
  match t with
  | .region c => s.updCore c fun k => { k with probe := SMap.set .init k.probe i e }
  | .die d => s.updDie d fun k => { k with probe := SMap.set .init k.probe i e }

/-- The key of an entry: VF, INDEX, GEN and tile number (R203). -/
structure PKey where
  vf : Nat
  index : Nat
  gen : Nat
  tile : Nat
  deriving DecidableEq, Repr

/-- The key of a tile of a handle. -/
def PKey.of (h : Dword) (tile : Nat) : PKey := ⟨hvfOf h, indexOf h, genOf h, tile⟩

/-- An entry has a key. -/
def PEntry.matches (e : PEntry) (k : PKey) : Bool :=
  e.state != 0 && e.vf == k.vf && e.index == k.index && e.gen == k.gen && e.tile == k.tile

/-- The slot whose entry has a key. -/
def State.pfind (s : State) (t : PTable) (k : PKey) : Option Nat :=
  ((s.ptable t).find? fun p => p.2.matches k).map Prod.fst

/-- Entries that a VF holds in a die table (R192: PUSED). -/
def State.pused (s : State) (d vf : Nat) : Nat :=
  ((s.die d).probe.filter fun p => p.2.state != 0 && p.2.vf == vf).length

/-- The least recent of the entries that a condition selects; of equally recent ones the first in the table (log entry 137, DESIGN
CHOICE). -/
def leastRecent (l : SMap PEntry) (p : PEntry → Bool) : Option Nat :=
  (l.foldl (fun b e =>
    if p e.2 then
      match b with
      | none => some e
      | some x => if e.2.recency < x.2.recency then some e else some x
    else b) none).map Prod.fst

/-- The slot that a new key of a VF takes (R212): an INVALID one, or its least recent VALID unpinned one. Of several INVALID ones the
lowest-numbered (log entry 136, DESIGN CHOICE). -/
def State.pchoose (s : State) (t : PTable) (vf : Nat) : Option Nat :=
  let room := match t with
    | .region _ => true
    | .die d => decide (s.pused d vf < s.cfg vf 0x10 d)
  let free := if room then (List.range (s.pslots t)).find? fun i => (s.pentry t i).state == 0 else none
  match free with
  | some i => some i
  | none => leastRecent (s.ptable t) fun e => e.state == 2 && e.vf == vf && e.pins == 0

/-- Queues the fill of a key of a VF in a slot, under a new ticket (R212). Until a probe hits the entry, it is as recent as its fill
(log entry 137, DESIGN CHOICE). -/
def State.queueFill (s : State) (t : PTable) (i vf : Nat) (h : Dword) (tile : Nat) : State × Nat :=
  let k : PKey := { PKey.of h tile with vf := vf }
  let of : TicketOf := match t with
    | .region c => .probe (some c) i
    | .die _ => .probe none i
  let r := s.newTicket t.home of
  let pins := match t with
    | .region _ => 0
    | .die _ => (s.factorRefs k.vf k.index k.gen).getD 0
  (r.1.setPentry t i
    { state := 1, vf := k.vf, index := k.index, gen := k.gen, tile := tile, handle := h, ticket := r.2, pins := pins
      recency := s.tb, cause := 0, frame := 0, bad := false, bytes := [] }, r.2)

/-- The agent as which a die's fill path reads for a VF: what it copies for device mode is what device mode may see (R204, R259,
R406). -/
def fillAgent (d vf : Nat) : Agent := if vf = 0 then .pfFill d else .sync d

/-- The bytes of a tile from an offset on, decrypted unit by unit (R399). -/
def openUnits (key : BitVec 512) (tile byte : Nat) : Nat → List Byte → List Byte
  | 0, _ => []
  | n + 1, bs =>
    unitBytes (Config.xtsOpen key (tweakOf tile byte) (unitOf (bs.take 64))) ++ openUnits key tile (byte + 64) n (bs.drop 64)

/-- The bytes of a tile that a fill for a VF copies (R204, R399), and the physical address that they come from. A fill for
device mode may name any VF's handle (R228). A core's slot holds the elements; a die entry stands for its frame, and holds what
the frame holds (`raw`). -/
def State.fillBytes (s : State) (d vf : Nat) (h : Dword) (tile : Nat) (raw : Bool) : Except Stop (State × List Byte × Nat) := do
  let a := fillAgent d vf
  need (vf == 0 || hvfOf h == vf) (trapHand 0x24 h)
  let (s, e) ← s.derefRead a true h true
  s.onward do
    let key ← s.handleKey e
    need (tile < e.ntiles) (e.fault 0x27 [] tile)
    let (s, f) ← s.tileFrame a e [] tile true
    let first := if raw then 0 else 64 * e.hdr
    let (s, l) ← s.frameLeaf a e f first .read true
    let (s, bs) ← s.readLeaf a e.vf l e.tileBytes
    match if raw then none else key with
    | none => .ok (s, bs, l.pa)
    | some k => .ok (s, openUnits k tile first (e.tileBytes / 64) bs, l.pa)

/-- A VF may copy one more page this millisecond (R361). -/
def State.fillRoom (s : State) (vf : Nat) : Bool := decide ((s.vf vf).fillUsed < s.afillq vf)

/-- Counts a page against the fill quota. -/
def State.countFill (s : State) (vf : Nat) : State := s.updVf vf fun v => { v with fillUsed := v.fillUsed + 1 }

/-- A die entry of a peer's frame keeps its bytes; where a home here holds the frame, the die's order does (R204). -/
def keptBytes (pa : Nat) (bs : List Byte) : List Byte := match regionOf pa with | .peer _ => bs | _ => []

/-- A pinv of a stream waits for the end of the fill of an entry (R213). -/
def State.pinvWaits (s : State) (t : PTable) (i : Nat) : Bool :=
  let on (region : Bool) (c : Core) : Bool := [c.c, c.x].any fun k => k.wait.any fun w => w.1 == .fill region i
  match t with
  | .region core => on true (s.core core)
  | .die d => s.cores.any fun c => dieOf c.1 == d && on false c.2

/-- A fill has ended, and its entry becomes `e`: with its ticket, and where a pinv waits for it and no pin holds it, without an entry
(R204, R213). -/
def State.filled (s : State) (t : PTable) (i ticket : Nat) (e : PEntry) : State :=
  (s.setPentry t i (if s.pinvWaits t i && e.pins == 0 then .init else { e with ticket := 0 })).endTicket t.home ticket

/-- Ends a fill, with its ticket (R204). While a peer's answer is awaited, it goes on (R448). -/
def State.endFill (s : State) (t : PTable) (i : Nat) : State :=
  let e := s.pentry t i
  match t, s.fillBytes t.home e.vf e.handle e.tile (match t with | .region _ => false | .die _ => true) with
  | .region c, .ok (s, bs, _) =>
    (s.updCore c fun k => k.spWrite (k.spBytes - k.prBytes + i * k.slotBytes) bs).filled t i e.ticket { e with state := 2 }
  | .die _, .ok (s, bs, pa) => s.filled t i e.ticket { e with state := 2, frame := pa / 2 ^ 19, bytes := keptBytes pa bs }
  | _, .error (.trap p) =>
    ((s.applySides p.sides).dropReads (fillAgent t.home e.vf)).filled t i e.ticket { e with state := 3, cause := p.code }
  | _, .error (.wait .peer l) => s.applySides l
  | _, .error (.wait _ l) => (s.applySides l).filled t i e.ticket { e with state := 3, cause := 0x22 }

/-- Ends every fill into a core's probe region that awaits no peer (R193). -/
def State.endRegionFills (s : State) (core : Nat) : State :=
  (((s.core core).probe.filter fun p => p.2.state == 1).map Prod.fst).foldl (fun s i => s.endFill (.region core) i) s

/-- A fill into the probe region of one of some cores is in flight. -/
def State.regionFilling (s : State) (cs : List Nat) : Bool := cs.any fun c => (s.core c).probe.any fun p => p.2.state == 1

end Sys2Proof.Machine
end

