-- ==== Sys2Proof/Machine/Nodes.lean ====
section
/-! DEFINITION. Nodes (R289 to R309, R338, R350, R351, R423 to R425): descriptors and their checks, phaser memberships,
checkpoints, how a node leaves its cores, ends, is aborted, contained or pre-empted. -/

namespace Sys2Proof.Machine
open Sys2Proof

/-! ### Descriptors (R291, R293, R294) -/

/-- A field of a descriptor: bytes `n` at offset `o`. -/
abbrev Desc := List Byte

/-- TYPE: 0 core, 1 transform, 2 backfill. -/
def descType (d : Desc) : Nat := bitsOf (field d 0x18 1) 1 0
/-- SHAPE. -/
def descShape (d : Desc) : Nat := bitsOf (field d 0x18 1) 3 2
/-- RST. -/
def descRst (d : Desc) : Bool := bitOf (field d 0x18 1) 4
/-- CRU. -/
def descCru (d : Desc) : Bool := bitOf (field d 0x19 1) 3
/-- The priority field. -/
def descPrio (d : Desc) : Nat := bitsOf (field d 0x19 1) 2 0
/-- KERNEL. -/
def descKernel (d : Desc) : Dword := d64 (field d 0 8)
/-- IMAGE. -/
def descImage (d : Desc) : Nat := field d 8 8
/-- CLEN. -/
def descClen (d : Desc) : Nat := field d 0x10 4
/-- XLEN. -/
def descXlen (d : Desc) : Nat := field d 0x14 4
/-- LOCAL. -/
def descLocal (d : Desc) : Nat := field d 0x1A 1
/-- TSLOTS. -/
def descSlots (d : Desc) : Nat := field d 0x1C 2
/-- NOPS. -/
def descNops (d : Desc) : Nat := field d 0x1E 1
/-- NSUCC. -/
def descNsucc (d : Desc) : Nat := field d 0x1F 1
/-- VTDEF. -/
def descVtdef (d : Desc) : Dword := d64 (field d 0x20 8)
/-- DEPS. -/
def descDeps (d : Desc) : Nat := field d 0x28 4
/-- ARGi. -/
def descArg (d : Desc) (i : Nat) : Dword := d64 (field d (0x40 + 8 * i) 8)
/-- HANDLE of tile operand i. -/
def descOpHandle (d : Desc) (i : Nat) : Dword := d64 (field d (0x80 + 16 * i) 8)
/-- FLAGS of tile operand i. -/
def descOpFlags (d : Desc) (i : Nat) : Nat := field d (0x8E + 16 * i) 2

/-- The fields of vtype (R110). -/
def vtypeMask : Dword := 0x1F1CFF

/-- A vtype value is valid (R111). -/
def vtypeOk (v : Dword) : Bool :=
  let n := v.toNat
  decide (bitsOf n 3 0 ≤ 6) && decide (bitsOf n 7 4 ≤ 6) && bitsOf n 11 10 != 3
    && !(bitsOf n 11 10 == 2 && decide (12 ≤ bitsOf n 20 16 ∧ bitsOf n 20 16 ≤ 15))

/-- One bits of a number below 2^16. -/
def ones16 (n : Nat) : Nat := ((List.range 16).filter fun i => n.testBit i).length

/-- Core numbers that two cores of one quartet may have (R298). -/
def edge (a b : Nat) : Bool :=
  quartetOf a == quartetOf b
    && [(0, 1), (2, 3), (0, 2), (1, 3)].contains (memberOf a, memberOf b)

/-- A list of cores has a shape (R298). -/
def hasShape (shape : Nat) (cores : List Nat) : Bool :=
  match shape, cores with
  | 0, [_] => true
  | 1, [a, b] => edge a b
  | 2, [a, b, c, d] => a % 4 == 0 && b == a + 1 && c == a + 2 && d == a + 3
  | _, _ => false

/-- Word w of CRUCMAP marks a quartet (R441). -/
def State.crucible (s : State) (quartet : Nat) : Bool :=
  (SMap.get (0 : Dword) s.pf.crucMap (quartet / 64)).getLsbD (quartet % 64)

/-- A node of a VF may run on a core (R298). -/
def State.mayRun (s : State) (vf : Nat) (cru : Bool) (core : Nat) : Bool :=
  if cru then s.crucible (quartetOf core) && s.cfg vf 0x19 != 0 else s.inPart vf core

/-- The placements of a shape within one quartet. -/
def placements (quartet shape : Nat) : List (List Nat) :=
  let c (i : Nat) : Nat := 4 * quartet + i
  match shape with
  | 0 => [[c 0], [c 1], [c 2], [c 3]]
  | 1 => [[c 0, c 1], [c 2, c 3], [c 0, c 2], [c 1, c 3]]
  | 2 => [[c 0, c 1, c 2, c 3]]
  | _ => []

/-- Some quartet offers a shape to a VF (R291: 0x06). -/
def State.offers (s : State) (vf : Nat) (cru : Bool) (shape : Nat) : Bool :=
  (List.range 512).any fun q => (placements q shape).any fun l => l.all (s.mayRun vf cru)

/-- Bytes of a range are zero. -/
def zeroAt (d : List Byte) (o n : Nat) : Bool := field d o n == 0

/-- 0x01 of R291: reserved fields and values. A transform node uses the fields R293 lists. -/
def descReserved (d : Desc) (backfill : Bool) : Bool :=
  field d 0 8 == 0 || bitsOf (field d 0x18 1) 7 5 != 0 || descShape d == 3 || (descType d == 3 && !backfill)
    || bitsOf (field d 0x19 1) 7 4 != 0 || bitsOf (descLocal d) 7 6 != 0 || bitsOf (descLocal d) 5 4 == 3
    || bitsOf (field d 0x1B 1) 7 3 != 0 || !zeroAt d 0x2C 4 || !zeroAt d 0x38 8
    || decide (32 < descNsucc d) || field d 0x30 8 % 4 != 0 || (descNsucc d == 0 && !zeroAt d 0x30 8)
    || (descVtdef d &&& ~~~vtypeMask) != 0
    || descImage d % (if descType d = 1 then 32 else 512) != 0
    || (descType d == 1 && (!zeroAt d 0x1A 4 || !zeroAt d 0x20 8 || !(List.range 8).all fun i => descArg d i == 0))

/-- 0x03 of R291: the binaries, or the list of a transform node. -/
def descSizes (d : Desc) : Bool :=
  if descType d = 1 then decide (1 ≤ descClen d ∧ descClen d ≤ 4096) && descXlen d == 0
  else
    descClen d != 0 && descXlen d != 0 && descClen d % 4 == 0 && descXlen d % 4 == 0
      && decide (ceilDiv (descClen d) 512 + ceilDiv (descXlen d) 512 ≤ 448)

/-- 0x05 of R291: more slots than the quota on every core of the partition (R139). -/
def State.slotsRefused (s : State) (vf : Nat) (d : Desc) : Bool :=
  descSlots d != 0 && decide (s.cfg vf 0x0F < ones16 (descSlots d))

/-- 0x08 of R291: tile operands. -/
def descOps (d : Desc) : Bool :=
  decide (descNops d ≤ 8) && (List.range (descNops d)).all fun i =>
    field d (0x8C + 16 * i) 2 != 0 && decide (descOpFlags d i < 2)

/-- What an entry of a transform node's list must be (R258): xcp or xdrain. -/
def listEntryOk (b : List Byte) : Bool :=
  match decodeWord false (BitVec.ofNat 32 (field b 0 4)) (BitVec.ofNat 32 (field b 4 4)) with
  | .ok (.xcp _) | .ok (.xcpScl _) | .ok (.xcpVfy _) | .ok (.xdrain _) => true
  | _ => false

/-- The reason for which R291 refuses a descriptor, other than the reads and successors; 0 is none. `backfill`: TYPE 2 is
wanted (R347), and otherwise refused. The codes are tried in ascending order (log entry 18, DEDUCED). -/
def State.checkDesc (s : State) (vf : Nat) (d : Desc) (backfill : Bool) : Nat :=
  if descReserved d backfill then 1
  else if !descSizes d then 3
  else if !vtypeOk (descVtdef d) then 4
  else if s.slotsRefused vf d then 5
  else if (descType d == 2) != backfill || !s.offers vf (descCru d) (descShape d)
      || (descCru d && (s.cfg vf 0x19 == 0 || !(List.range 512).any s.crucible)) then 6
  else if !descOps d then 8
  else 0

/-- Reads a descriptor (R291, R318): the 256 bytes. -/
def State.readDesc (s : State) (a : Agent) (vf va : Nat) (instant : Bool) : Except Stop (State × Desc) :=
  s.readVa a vf va 256 .read instant

/-- Reads a successor list. -/
def State.readSucc (s : State) (a : Agent) (vf : Nat) (d : Desc) (instant : Bool) :
    Except Stop (State × List Nat) :=
  if descNsucc d = 0 then .ok (s, [])
  else do
    let (s, b) ← s.readVa a vf (field d 0x30 8) (4 * descNsucc d) .read instant
    .ok (s, (List.range (descNsucc d)).map fun i => field b (4 * i) 4)

/-- Reads a transform node's list (R258). -/
def State.readList (s : State) (a : Agent) (vf : Nat) (d : Desc) (instant : Bool) :
    Except Stop (State × List (List Byte)) :=
  if descType d != 1 then .ok (s, [])
  else
    (List.range (descClen d)).foldlM (fun (r : State × List (List Byte)) i => do
      let (s, b) ← r.1.readVa a vf (descImage d + 32 * i) 32 .read instant
      .ok (s, r.2 ++ [b])) (s, [])

/-! ### Phasers (R275 to R279) -/

/-- DIE of a phaser id. -/
def phaserDie (id : Dword) : Nat := bitsOf id.toNat 20 16

/-- INDEX of a phaser id. -/
def phaserIndex (id : Dword) : Nat := bitsOf id.toNat 11 0

/-- A phaser. -/
def State.phaser (s : State) (id : Dword) : Phaser := SMap.get .idle (s.die (phaserDie id)).phasers (phaserIndex id)

/-- Replaces a phaser. -/
def State.setPhaser (s : State) (id : Dword) (p : Phaser) : State :=
  s.updDie (phaserDie id) fun k => { k with phasers := SMap.set .idle k.phasers (phaserIndex id) p }

/-- Advance (R277). One turn of its loop suffices: it leaves ARR and DNS zero. -/
def Phaser.advance (p : Phaser) : Phaser :=
  if 0 < p.nmem ∧ ((1 ≤ p.ns ∧ p.arr = p.ns) ∨ (p.ns = 0 ∧ 0 < p.dns)) then
    { p with phase := p.phase + 1, ns := (p.ns + p.dns).toNat, dns := 0, arr := 0 }
  else p

/-- MODE has signal. -/
def Member.signals (m : Member) : Bool := m.mode == 1 || m.mode == 3

/-- MODE has wait. -/
def Member.waits (m : Member) : Bool := m.mode == 2 || m.mode == 3

/-- The bookkeeping of phdrop (R281). -/
def Phaser.drop (p : Phaser) (m : Member) : Phaser :=
  let p := if m.signals then { p with arr := if m.sp = p.phase then p.arr + 1 else p.arr, dns := p.dns - 1 } else p
  if p.nmem ≤ 1 then { Phaser.idle with phase := p.phase } else { p with nmem := p.nmem - 1 }.advance

/-- Drops every membership of a node (R279). -/
def State.dropMembers (s : State) (id : Dword) : State :=
  match s.node? id with
  | none => s
  | some n =>
    n.members.foldl (fun s m => s.setPhaser m.id ((s.phaser m.id).drop m)) (s.setNode id { n with members := [] })

/-- The registration of a member (R281: phreg), with its MODE; SCOPE where the phaser is IDLE. -/
def Phaser.register (p : Phaser) (scope mode : Nat) : Phaser :=
  let p := if p.nmem = 0 then { p with scope := scope } else p
  { p with nmem := p.nmem + 1, dns := if mode == 1 || mode == 3 then p.dns + 1 else p.dns }.advance

/-- A new member record (R281). -/
def Phaser.member (p : Phaser) (id : Dword) (scope mode : Nat) : Member := ⟨id, mode, p.phase + 1, p.phase + 1, scope⟩

/-! ### Priorities (R299, R351, R308) -/

/-- A node's priority without what its waiters lend it. -/
def State.basePrio (s : State) (id : Dword) (n : Node) : Nat :=
  if descCru n.desc then (if s.hearth.raised then 0 else 9)
  else if descType n.desc = 2 then 8
  else max (descPrio n.desc) (s.cfg (nodeVf id) 0x04)

/-- A wait is on a request of a backfill queue (R351): on its position, also while the block's SEQ is odd, or on the request. -/
def serves (e : BfEntry) (w : WaitOn) : Bool :=
  match w with
  | .backfill idx first => idx == indexOf e.handle && decide (first ≤ e.pos)
  | .pending idx pos => idx == indexOf e.handle && pos == e.pos
  | .odd idx lo hi => idx == indexOf e.handle && decide (lo ≤ e.pos ∧ e.pos < hi)
  | _ => false

/-- What the C-stream and the matrix queue of a core wait on. -/
def Core.lendWaits (c : Core) : List WaitOn := (c.c.wait.map Prod.fst).toList ++ c.matrix.wait.toList

/-- The nodes that wait on a request. One that was force-pre-empted in such a wait lends on, until it is dispatched again (R351, R467;
log entry 148, DEDUCED). -/
def State.lenders (s : State) (e : BfEntry) : List Dword :=
  (s.cores.filterMap fun p =>
    match p.2.node with
    | some w => if nodeVf w == e.vf && p.2.lendWaits.any (serves e) then some w else none
    | none => none)
    ++ (s.hearth.nodes.filter fun p => nodeVf (d64 p.1) == e.vf && p.2.waited.any (serves e)).map fun p => d64 p.1

/-- A node's effective priority: the first number bounds chains of lenders. -/
def State.prioOf (s : State) : Nat → Dword → Nat
  | 0, id => ((s.node? id).map (s.basePrio id)).getD 9
  | fuel + 1, id =>
    match s.node? id with
    | none => 9
    | some n =>
      let base := s.basePrio id n
      if descType n.desc = 2 then
        match s.bfOf id with
        | some e => (s.lenders e).foldl (fun p w => min p (s.prioOf fuel w)) base
        | none => base
      else base

/-- The effective priority of a node (R299); a chain of lenders is no longer than the nodes. -/
def State.prio (s : State) (id : Dword) : Nat := s.prioOf s.hearth.nodes.length id

/-- A state in which a node waits for cores. -/
def NodeState.isReady : NodeState → Bool
  | .ready | .preempted | .yielded | .rolledBack => true
  | _ => false

/-- A node is done for good. -/
def NodeState.isEnded : NodeState → Bool
  | .ended _ => true
  | _ => false

/-- The core-cycles that a node has run at each priority of its dispatch. -/
def Node.ranTo (n : Node) (now : Nat) : SMap Nat :=
  SMap.set 0 n.ran n.prioAt (SMap.get 0 n.ran n.prioAt + n.cores.length * (now - n.prioSince))

/-- A running node whose priority has changed runs at the new one from now on (R299). -/
def State.notePrio (s : State) (id : Dword) (n : Node) : State :=
  if n.state != .running || s.prio id == n.prioAt then s
  else s.setNode id { n with ran := n.ranTo s.tb, prioAt := s.prio id, prioSince := s.tb }

/-- Every running node's priority is noted. -/
def State.notePrios (s : State) : State := s.hearth.nodes.foldl (fun s p => s.notePrio (d64 p.1) p.2) s

/-- The time that a node ran at each priority is taken from its VF's deficits (R299), in core-ns. -/
def State.charge (s : State) (id : Dword) : State :=
  match s.node? id with
  | none => s
  | some n =>
    let s := { s with hearth := { s.hearth with
      crucible := s.hearth.crucible + if descCru n.desc then n.cores.length * (s.tb - max n.started s.hearth.window) else 0 } }
    s.updVf (nodeVf id) fun f =>
      { f with deficit := (n.ranTo s.tb).foldl (fun d r => SMap.set 0 d r.1 (SMap.get 0 d r.1 - (r.2 * 10 / 27 : Nat))) f.deficit }

/-- A VF has a ready or running node at a priority. -/
def State.worksAt (s : State) (v p : Nat) : Bool :=
  s.hearth.nodes.any fun m =>
    nodeVf (d64 m.1) == v && (m.2.state.isReady || m.2.state == .running) && s.prio (d64 m.1) == p

/-- The deficits of priorities at which a VF has no ready or running node are 0 (R299). -/
def State.dropDeficits (s : State) (v : Nat) : State :=
  s.updVf v fun f => { f with deficit := f.deficit.filter fun p => s.worksAt v p.1 }

/-! ### Leaving the cores -/

/-- The agents of some cores. -/
def ofCores (cs : List Nat) : Agent → Bool
  | .stream c => cs.contains c
  | .engine c _ => cs.contains c
  | _ => false

/-- Every write of some agents is performed everywhere (R296, R303). -/
def MemSys.drain (m : MemSys) (p : Agent → Bool) : MemSys :=
  ((m.pend.filter fun w => p w.agent).foldl MemSys.enter { m with pend := m.pend.filter fun w => !p w.agent }).settle

/-- A stream that has stopped for its node. -/
def Stream.stopped (t : Stream) : Stream := { t with run := false, wait := none, sib := none }

/-- Rows of a core that no stream uses any longer (R91). -/
def releaseRows (rows : SMap IRow) : SMap IRow := rows.map fun r => if r.2.state = 3 then (r.1, { r.2 with state := 2 }) else r

/-- A slot after its queue was discarded (R152): a LOADING bank is EMPTY, and no reader is left. -/
def TSlot.calm (t : TSlot) : TSlot :=
  let f (b : TBank) : TBank := if b.state = 1 then .empty else { b with readers := 0 }
  { t with bank0 := f t.bank0, bank1 := f t.bank1 }

/-- The slots of a core after its queues were discarded. -/
def calmSlots (m : SMap TSlot) : SMap TSlot := (m.map fun p => (p.1, p.2.calm)).filter fun p => p.2 != .init

/-- A core that its node has left. Its quadrant stays as it is until the next dispatch (R162, R460); what was fused is unfused, in its
reset state. -/
def Core.vacate (c : Core) : Core :=
  { c with c := c.c.stopped, x := c.x.stopped, load := .init, store := .init, matrix := .init, backfill := .init
           waiters := [], granted := [], rows := releaseRows c.rows, image := .none, himage := .none, slots := calmSlots c.slots, l1 := []
           quad := if c.quad.role = 0 then c.quad else .init
           node := none, stand := none, joining := none, prevVf := some c.vfid, frozenAt := none
           dbg := { c.dbg with halted := false, only := none } }

/-- The page faults of some cores' agents are withdrawn (R227, R312). -/
def State.withdraw (s : State) (cs : List Nat) : State :=
  { s with pf := { s.pf with faults := s.pf.faults.filter fun p => !ofCores cs p.2.agent } }

/-- The place of a core in a list. -/
def placeOf (cores : List Nat) (core : Nat) : Nat := ((List.range cores.length).find? fun i => cores[i]? == some core).getD 0

/-- The peer requests of a node that leaves its cores are kept for it: the acknowledgements that its releases await, and the results of
its atomics (R270, R303). Its reads have not begun (R227). -/
def parkPeers (id : Dword) (cs : List Nat) (l : List PeerReq) : List PeerReq :=
  (l.filter fun r => !(r.parked.isNone && ofCores cs r.agent && !r.write && !r.amo)).map fun r =>
    if r.parked.isNone && ofCores cs r.agent then { r with parked := some (id, placeOf cs r.agent.core) } else r

/-- The same agent on another core. -/
def Agent.on (core : Nat) : Agent → Agent
  | .stream _ => .stream core
  | .engine _ q => .engine core q
  | a => a

/-- A node's peer requests go on from the cores that it has now (R305). -/
def unparkPeers (id : Dword) (cs : List Nat) (l : List PeerReq) : List PeerReq :=
  l.map fun r =>
    match r.parked with
    | some (n, i) => if n = id then { r with agent := r.agent.on (cs.getD i 0), parked := none } else r
    | none => r

/-- The peer requests of a node whose context is discarded: reads go, and only the effect of an atomic is still awaited. -/
def quitPeers (id : Dword) (l : List PeerReq) : List PeerReq :=
  let own (r : PeerReq) : Bool := r.parked.any fun p => p.1 == id
  (l.filter fun r => !own r || ((r.write || r.amo) && r.resp.isNone)).map fun r => if own r then { r with write := true } else r

/-- Every write of a core's agents to peers is acknowledged (R270, R296, R450). -/
def State.coreAcked (s : State) (core : Nat) : Bool := s.peers.all fun r => !(ofCores [core] r.agent && r.unacked r.agent)

/-- A write of a node to a peer is not acknowledged (R296). -/
def State.owes (s : State) (id : Dword) (cs : List Nat) : Bool :=
  s.peers.any fun r =>
    (r.write || r.amo) && r.resp.isNone
      && match r.parked with
        | some p => p.1 == id
        | none => ofCores cs r.agent

/-- The cores are vacated, and the node has none. Deficits that have become idle are dropped once what follows is ready (R299). -/
def State.leave (s : State) (id : Dword) (cs : List Nat) (next : NodeState) : State :=
  let s := (s.charge id).withdraw cs
  let frz := cs.map fun c => (s.core c).csr.xlfrz
  let novr := (cs.head?.map fun c => (s.core c).csr.novr).getD 0
  let s := cs.foldl (fun s c => s.updCore c Core.vacate) { s with peers := parkPeers id cs s.peers }
  (s.updNode id fun n =>
    { n with cores := [], done := [], state := next, left := s.tb, pendSince := none, pendSusp := false
             ran := [], frz := if cs = [] then n.frz else frz, novr := if cs = [] then n.novr else novr })

/-- Every core of a list writes its L1 back and empties it (R199). -/
def State.flushAll (s : State) (cs : List Nat) : State := cs.foldl State.flushL1 s

/-- A queue whose head abandons its chunk in progress, which replays (R303, R250). -/
def EngQueue.abandon (q : EngQueue) : EngQueue := { q with todo := none, wait := none }

/-- Every queue of a core abandons its chunk in progress. -/
def Core.abandon (c : Core) : Core :=
  { c with load := c.load.abandon, store := c.store.abandon, matrix := c.matrix.abandon, backfill := c.backfill.abandon }

/-- A forced pre-emption (R303): fills into the probe region and writes of the node complete, the cores are saved whole,
and what they wait on has not begun. While a fill awaits a peer nothing is saved, and the pre-emption pends on (R193; log
entry 147, DEDUCED). -/
def State.forcePreempt (s : State) (id : Dword) : State :=
  match s.node? id with
  | none => s
  | some n =>
    let s := n.cores.foldl State.endRegionFills s
    if s.regionFilling n.cores then s
    else
    let s := s.flushAll n.cores
    let s := { s with mem := s.mem.drain (ofCores n.cores) }
    let calm (t : Stream) : Stream := { t with wait := none }
    let keep (c : Core) : Core :=
      { c.abandon with
        c := calm c.c, x := calm c.x, waiters := [], tlb := [], rows := [], stand := none, joining := none
        ecc := [], saveTb := s.tb, saveCause := saveForced, frozenAt := none }
    let saved := n.cores.map fun c => (c, keep (s.core c))
    let waited := n.cores.flatMap fun c => (s.core c).lendWaits
    (s.leave id n.cores .preempted).updNode id fun n => { n with saved := saved, waited := waited }

/-! ### Checkpoints (R424) -/

/-- A stop for which what a handle names could not be read: it may be a KV handle. -/
def Stop.unread : Stop → Bool
  | .wait _ _ => true
  | .trap t => t.code == 0x22 || t.code == 0x71 || t.code == 0x23

/-- The writable KV handles of a VF among a node's tile operands, with their LEN; none where it cannot be read (log
entry 150, DESIGN CHOICE). -/
def State.kvTails (s : State) (vf : Nat) (d : Desc) : State × List (Dword × Option Word) :=
  (List.range (descNops d)).foldl (fun r i =>
    let h := descOpHandle d i
    if descOpFlags d i % 2 = 1 && hvfOf h == vf then
      match r.1.derefKv .management true h true with
      | .ok (s, e) => (s, r.2 ++ [(h, some (BitVec.ofNat 32 e.kvLen))])
      | .error e => (r.1.keepMet e, if e.unread then r.2 ++ [(h, none)] else r.2)
    else r) (s, [])

/-- C-stream s1 to s8 of a core. -/
def Core.args (c : Core) : List Dword := (List.range 8).map fun i => SMap.get 0 c.c.regs (i + 1)

/-- The checkpoint of a core at its nyield or npark: its part of the node's checkpoint, and the node's own. -/
def State.checkpoint (s : State) (id : Dword) (core : Nat) (offC offX : Word) (npos : Dword) : State :=
  match s.node? id with
  | none => s
  | some n =>
    let c := s.core core
    let old := n.check.getD ⟨[], [], [], []⟩
    let mine : Resume := ⟨offC, offX, c.args, npos⟩
    let (s, kv) := s.kvTails (nodeVf id) n.desc
    let check : Checkpoint :=
      { cores := setAt old.cores c.nci mine, members := n.members
        groups := setAt old.groups c.nci c.csr.grpid, kv := kv }
    let s := s.setNode id { n with check := some check, rollbacks := 0 }
    n.cores.foldl (fun s k => s.updCore k fun c => { c with csr := { c.csr with dbgstat := c.csr.dbgstat &&& ~~~(3 : Dword) } }) s

/-! ### Ends (R295 to R297) -/

/-- The key of node `i` of the graph with key `g`. -/
def nodeKey (g i : Nat) : Dword := d64 (g * 65536 + i)

/-- A node becomes ready (R295). -/
def State.makeReady (s : State) (id : Dword) : State := s.updNode id fun n => { n with state := .ready, since := s.tb }

/-- A counter falls by 1, as a u32 (R295). -/
def State.lower (s : State) (id : Dword) : State :=
  match s.node? id with
  | none => s
  | some n =>
    let next := (n.counter + 2 ^ 32 - 1) % 2 ^ 32
    let s := s.setNode id { n with counter := next }
    let held := ((s.graph? (graphKey id)).map fun g => g.held).getD false
    if next = 0 ∧ n.state = .waiting ∧ !held then s.makeReady id else s

/-- The nodes of a graph. -/
def State.nodesOf (s : State) (g : Nat) : List (Nat × Node) := s.hearth.nodes.filter fun p => p.1 / 65536 == g

/-- The key of the graph after another in its queue (R289: GSEQ counts modulo 2^36 - 1). -/
def nextGraph (g : Nat) : Nat :=
  let q := g / 2 ^ 36
  q * 2 ^ 36 + (g % 2 ^ 36 + 1) % (2 ^ 36 - 1)

/-- SERIAL: the roots of the next graph of a queue start when a graph is complete (R290). -/
def State.freeSerial (s : State) (g : Nat) : State :=
  match s.graph? (nextGraph g) with
  | none => s
  | some h =>
    if !h.held then s
    else
      (s.nodesOf (nextGraph g)).foldl (fun s p =>
        if p.2.state = .waiting ∧ p.2.counter = 0 then s.makeReady (d64 p.1) else s)
        (s.setGraph (nextGraph g) { h with held := false })

/-- The graph record, once every node has ended or been dropped (R297). -/
def State.checkGraph (s : State) (g : Nat) : State :=
  match s.graph? g with
  | none => s
  | some h =>
    let ns := s.nodesOf g
    if h.complete || !ns.all (fun p => p.2.state.isEnded) then s
    else
      let cause := if h.bad ≠ 0 then h.bad.toNat else if ns.all fun p => p.2.state == .ended 0 then 0 else 6
      let s := s.setGraph g { h with complete := true }
      (s.postVf (nodeVf (nodeKey g 0)) h.ring (record (nodeKey g 0xFFFF) 9 cause 0 0 0)).freeSerial g

/-- The nodes that wait on a list of nodes, directly or through others, are dropped (R297). -/
def State.dropFrom (s : State) (g : Nat) : Nat → List Nat → State
  | 0, _ => s
  | _ + 1, [] => s
  | fuel + 1, i :: rest =>
    match s.node? (nodeKey g i) with
    | none => s.dropFrom g fuel rest
    | some n =>
      if n.state != .waiting then s.dropFrom g fuel rest
      else
        let s := s.setNode (nodeKey g i) { n with state := .ended 6 }
        let all := ((s.graph? g).map fun h => h.flags.getLsbD 1).getD false
        let s := if all then s.postNode (nodeKey g i) 6 0 0 0 else s
        s.dropFrom g fuel (n.succs ++ rest)

/-- A node of a graph has ended with a status: successors, dependants, and the graph (R295, R297). -/
def State.settleGraph (s : State) (id : Dword) (n : Node) (status : Byte) : State :=
  let g := graphKey id
  match s.graph? g with
  | none => s
  | some h =>
    let s := if status = 0 then n.succs.foldl (fun s i => s.lower (nodeKey g i)) s
      else (s.setGraph g { h with bad := if h.bad = 0 then status else h.bad }).dropFrom g (2 ^ 22) n.succs
    s.checkGraph g

/-! ### Backfill nodes (R350) -/

/-- Changes the entry of a die's backfill queue that has a number. -/
def State.updBf (s : State) (d nidx : Nat) (f : BfEntry → BfEntry) : State :=
  s.updDie d fun k => { k with bfq := k.bfq.map fun e => if e.nidx = nidx then f e else e }

/-- Removes it. -/
def State.removeBf (s : State) (d nidx : Nat) : State :=
  s.updDie d fun k => { k with bfq := k.bfq.filter fun e => e.nidx != nidx }

/-- The block of each layer of a request: as its tile entry names it, or, where that cannot be read, as it was located at the
acceptance (log entry 151, DEDUCED). -/
def State.bfBlocks (s : State) (d : Nat) (e : BfEntry) : State × List Nat :=
  match s.derefKv (.backfill d) true e.handle true with
  | .error x => (s.keepMet x, e.blocks)
  | .ok (s, h) =>
    (List.range (e.last + 1 - e.first)).foldl (fun r i =>
      match r.1.readBlock (.backfill d) h (h.kvTile (e.first + i) (e.pos / h.kvP)) true with
      | .ok (s, b) => (s, r.2 ++ b.toList)
      | .error x => (r.1.keepMet x, r.2 ++ (e.blocks[i]?).toList)) (s, [])

/-- Whether some PEND bit of a request is set; a poisoned header does not show its bit clear (log entry 123, DESIGN CHOICE). -/
def State.bfPending (s : State) (d : Nat) (e : BfEntry) : State × Bool :=
  let (s, bs) := s.bfBlocks d e
  bs.foldl (fun (r : State × Bool) b =>
    let q := r.1.peekHeader d e.vf b
    (q.1, r.2 || match q.2 with | some h => h.pend.getLsbD (e.pos % e.p) | none => true)) (s, false)

/-- A request has failed twice: its remaining PEND bits become LOST, and 0x89 is posted with the step counters that its
last node left (R311, R353). -/
def State.bfFail (s : State) (d : Nat) (e : BfEntry) (status : Byte) (id : Dword) (word : Nat) : State :=
  let bit : Dword := d64 (2 ^ (e.pos % e.p))
  let (s, bs) := s.bfBlocks d e
  let s := bs.foldl (fun s b => s.pokeHeader d e.vf b fun h =>
    if h.pend &&& bit = 0 then h else { h with pend := h.pend &&& ~~~bit, lost := h.lost ||| bit }) s
  (s.postVf e.vf e.ring (record id 0x89 status.toNat 0 e.pos word)).removeBf d e.nidx

/-- The identity of a backfill node (R350). NIDX counts the entries of all dies' queues, die by die (log entry 122, DEDUCED). -/
def bfNodeId (vf nidx : Nat) : Dword := d64 (vf * 2 ^ 56 + 0xF * 2 ^ 52 + 0xFFFFFFFFF * 2 ^ 16 + nidx % 65536)

/-- The descriptor of a request, or the reason for which no node can be created from it (R347, R350). -/
def State.bfDesc (s : State) (d : Nat) (e : BfEntry) : State × Except Nat Desc :=
  if e.desc % 256 ≠ 0 then (s, .error 1)
  else
    match s.readDesc (.backfill d) e.vf e.desc true with
    | .error x => (s.keepMet x, .error 2)
    | .ok (s, b) =>
      match s.checkDesc e.vf b true with
      | 0 => (s, if descDeps b ≠ 0 ∨ descNsucc b ≠ 0 then .error 1 else .ok b)
      | r => (s, .error r)

/-- A node that has just been made. -/
def Node.fresh (d : Desc) (l : List (List Byte)) (counter : Nat) (succs : List Nat) (tb : Nat) : Node :=
  { desc := d, list := l, counter := counter, state := .waiting, cores := [], done := [], succs := succs, since := tb, started := 0
    prioAt := 0, prioSince := 0, ran := [], waited := []
    check := none, saved := [], wakes := [], alog := [], members := [], rollbacks := 0, awaits := none, pendSince := none
    pendSusp := false, overrun := false, left := 0, frz := [], novr := 0 }

/-- Makes the node of a request; an attempt that cannot be made fails like a node (R350). The last number is how many attempts
remain; `word`: the step counters that the last one left. -/
def State.bfCreate (s : State) (d : Nat) (e : BfEntry) (word : Nat) : Nat → State
  | 0 => s.bfFail d e e.failed (bfNodeId e.vf e.nidx) word
  | left + 1 =>
    let id := bfNodeId e.vf e.nidx
    let e' := { e with tries := e.tries + 1 }
    match s.bfDesc d e with
    | (s, .error r) =>
      (s.postVf e.vf e.ring (record id 7 r 0 0 0)).bfCreate d { e' with failed := 7 } 0 left
    | (s, .ok b) =>
      let word := e.pos + e.first * 2 ^ 32 + e.last * 2 ^ 48
      let args := leBytes 8 e.handle.toNat ++ leBytes 8 word ++ leBytes 8 e.hidden.toNat ++ leBytes 8 e.argx.toNat
      let s := s.updBf d e.nidx fun _ => { e' with node := some id }
      (s.setNode id (.fresh (putBytes b 0x40 args) [] 0 [] s.tb)).makeReady id

/-- A backfill node has ended (R350). -/
def State.bfEnd (s : State) (id : Dword) (status : Byte) (word : Nat) : State :=
  match (List.range 32).findSome? fun d => ((s.die d).bfq.find? fun e => e.node == some id).map fun e => (d, e) with
  | none => s
  | some (d, e) =>
    let (s, pending) := s.bfPending d e
    if status = 0 && !pending then s.removeBf d e.nidx
    else
      let e := { e with node := none, failed := status }
      (s.updBf d e.nidx fun _ => e).bfCreate d e word (2 - e.tries)

/-! ### Node ends -/

/-- A node has ended; its record is posted and its cores are free. `word`: the step counters that it left. -/
def State.finishNode (s : State) (id : Dword) (status : Byte) (word : Nat) : State :=
  match s.node? id with
  | none => s
  | some n =>
    let s := s.setNode id { n with state := .ended status, saved := [], waited := [] }
    let s := { s with peers := s.peers.filter fun r => !(r.parked.any fun (p : Dword × Nat) => p.1 == id) }
    let s := if descType n.desc = 2 then s.bfEnd id status word else s.settleGraph id n status
    (s.runRewinds.runRetires.wakeAll).dropDeficits (nodeVf id)

/-- Steps 1 to 4 of R423: the node stops, its context is discarded, its memberships and its adapter log go, and its KV
tails are to be rewound. -/
def State.stopNode (s : State) (id : Dword) (next : NodeState) : State :=
  match s.node? id with
  | none => s
  | some n =>
    let cs := n.cores
    let s := { s with mem := s.mem.drain (ofCores cs) }
    let s := ((s.leave id cs next).dropMembers id).discardLog id
    let s := { s with peers := quitPeers id s.peers }
    let kv := (n.check.map fun c => c.kv).getD []
    let s := s.updNode id fun n => { n with saved := [], wakes := [], waited := [] }
    { s with hearth := { s.hearth with rewinds := s.hearth.rewinds ++ kv.map fun k => (id, k.1, k.2) } }

/-- The step counters that a record holds (R311). -/
def recordSteps (r : List Byte) : Nat := field r 0x18 8

/-- The record of a node that was stopped is posted, and the node ends. -/
def State.postEnd (s : State) (id : Dword) (status : Byte) (last : List Byte) : State :=
  (s.postVf (nodeVf id) (s.ringOfNode id) last).finishNode id status (recordSteps last)

/-- A node is stopped; its writes are performed everywhere in the module, and its record waits for those to peers (R296). It
ends by `finish`. -/
def State.stopWith (s : State) (id : Dword) (status : Byte) (last : List Byte) (finish : State → State) : State :=
  match s.node? id with
  | none => s
  | some n =>
    if s.owes id n.cores then s.stopNode id (.ending status last)
    else finish ((s.postVf (nodeVf id) (s.ringOfNode id) last).stopNode id .waiting)

/-- A node is aborted with a status (R311, R317, R423). -/
def State.abortNode (s : State) (id : Dword) (status cause flags index : Nat) : State :=
  let last := s.nodeRecord id status cause flags index
  s.stopWith id (BitVec.ofNat 8 status) last fun s => s.finishNode id (BitVec.ofNat 8 status) (recordSteps last)

/-- The stopped nodes whose writes to peers are all acknowledged end (R296). -/
def State.endStopped (s : State) : State :=
  s.hearth.nodes.foldl (fun s p =>
    match p.2.state with
    | .ending status last => if s.owes (d64 p.1) [] then s else s.postEnd (d64 p.1) status last
    | _ => s) s

/-- The frame of an address of a VF, where a walk finds it. -/
def State.frameAt (s : State) (vf va : Nat) : Option Nat :=
  match s.walk none vf va with
  | .leaf level pte _ => some ((pteAddr pte + va % pageSize level) / 2 ^ 19)
  | _ => none

/-- Containment of poison at an address, or of a core error, by the node that consumed it and by no other (R423, R425, R426): memory
keeps the poison for each later consumer, and what the node had written, so that a run from its checkpoint reads bytes that it
overwrote as they are now. -/
def State.contain (s : State) (id : Dword) (code va : Nat) : State :=
  match s.node? id with
  | none => s
  | some n =>
    if descRst n.desc && decide (n.rollbacks < 3) && n.check.isSome then
      let awaits := if code = 0x71 then s.frameAt (nodeVf id) va else none
      let s := s.postNode id 0x90 code 0 (n.rollbacks + 1)
      ((s.stopNode id .rolledBack).updNode id fun n =>
        { n with rollbacks := n.rollbacks + 1, since := s.tb, awaits := awaits }).runRewinds
    else s.abortNode id 8 code 0 0

/-- A node ends DONE (R296, R317): its writes are performed everywhere, its log is applied, its memberships are dropped. -/
def State.endDone (s : State) (id : Dword) : State :=
  match s.node? id with
  | none => s
  | some n =>
    let s := { s with mem := s.mem.drain (ofCores n.cores) }
    let s := (s.dropMembers id).applyLog id
    let all := ((s.graph? (graphKey id)).map fun g => g.flags.getLsbD 1).getD false
    let word := s.stepWord id
    let s := if all then s.postNode id 0 0 0 0 else s
    (s.leave id n.cores .waiting).finishNode id 0 word

/-- The pre-emption that pends on a node of a VF is a migration suspension's alone, which no timer forces (R413). -/
def State.untimedPend (s : State) (id : Dword) (n : Node) : Bool := n.pendSusp && (s.vf (nodeVf id)).susp == 2

/-- A pre-emption becomes pending on a running node (R300). One that no timer forced is timed from its other cause on. -/
def State.pendPreempt (s : State) (id : Dword) (susp : Bool) : State :=
  s.updNode id fun n =>
    if n.state != .running then n
    else
      match n.pendSince with
      | none => { n with pendSince := some s.tb, pendSusp := susp }
      | some t =>
        if susp then n
        else { n with pendSince := some (if s.untimedPend id n then s.tb else t), pendSusp := false }

end Sys2Proof.Machine
end

