-- ==== Sys2Proof/Machine/Ops.lean ====
section
/-! DEFINITION. Taking a trap and returning from one (R77 to R80, R108), how a stream instruction and an engine step end
(R417, R423), groups and freezing (R174, R226, R309), and the checks of control targets (R102). -/

namespace Sys2Proof.Machine
open Sys2Proof

/-! ### Groups of cores -/

/-- The cores of a core's statically synchronised group; a core in none is a group of one (R309, R226). -/
def State.groupOf (s : State) (core : Nat) : List Nat :=
  let c := s.core core
  if c.csr.grpid.getLsbD 16 then
    match c.node.bind s.node? with
    | some n => n.cores.filter fun k => (s.core k).csr.grpid == c.csr.grpid
    | none => [core]
  else [core]

/-- An access of the group of a core waits on a page fault (R226). -/
def State.pageFrozen (s : State) (core : Nat) : Bool :=
  s.pf.faults.any fun p => !p.2.failed && ofCores (s.groupOf core) p.2.agent

/-- The group of a core is frozen: an access of it waits on a page fault, or a member is halted (R174, R226). -/
def State.frozen (s : State) (core : Nat) : Bool :=
  s.pageFrozen core || (s.groupOf core).any fun c => (s.core c).dbg.halted

/-- gsc of a core (R174). -/
def State.gsc (s : State) (core : Nat) : Dword := d64 s.tb - (s.core core).csr.xlfrz

/-! ### Traps -/

/-- A mode as the mode CSR and PM number it (R84, R85). -/
def Mode.code : Mode → Nat
  | .node => 0
  | .handler => 1
  | .device => 2

/-- The mode of a code; 3 is written as 2 (R85). -/
def Mode.ofCode : Nat → Mode
  | 0 => .node
  | 1 => .handler
  | _ => .device

/-- dfcause of a fault (R418). -/
def dfcause (src : Nat) (code : Byte) : Dword := d64 (2 ^ 16 + src * 256 + code.toNat)

/-- The causes whose precise trap writes a whole fault record (R417). -/
def recorded (code : Byte) : Bool :=
  decide (0x20 ≤ code.toNat ∧ code.toNat ≤ 0x2C) || code == 0x40 || code == 0x41 || code == 0x71

/-- The VF has no handler (R90). -/
def State.noHandler (s : State) (vf : Nat) : Bool := s.cfg vf 0x1E == 0 || s.cfg vf 0x1F == 0

/-- A core's waiting stream instruction has not begun after all (R95): it leaves the queues of waiters. -/
def Core.unwait (c : Core) (x : Bool) : Core :=
  let c := c.setStream x { c.stream x with wait := none }
  if x then c
  else { c with waiters := c.waiters.filter fun w => w.2 != Waiter.stream, joining := none, stand := none }

/-- FLAGS and INDEX of the record of a node that a trap ends: an engine fault names its queue and command (R311). -/
def engineMark (flags : Nat) (val : Dword) : Nat × Nat :=
  if bitOf flags 11 then (1 + 2 * bitsOf flags 13 12, bitsOf val.toNat 31 0) else (0, 0)

/-- TakeTrap (R77), with the fault record to show (R417). A trap in handler mode, or in node mode where the VF has no
handler (R90), ends the node; a stream that runs without a node stops. -/
def State.takeTrap (s : State) (core : Nat) (x : Bool) (code : Byte) (val : Dword) (flags : Nat) (frec : FaultRec) :
    State :=
  let s := s.dropReads (.stream core)
  let c := (s.core core).unwait x
  let t := c.stream x
  if t.mode = .handler ∨ (t.mode = .node ∧ s.noHandler c.vfid) then
    match c.node with
    | some id => s.abortNode id 2 code.toNat (engineMark flags val).1 (engineMark flags val).2
    | none => s.updCore core Core.vacate
  else
    let t' : Stream :=
      { t with epc := t.gpc, ecause := code.zeroExtend 64, eval := val, estatus := d64 (flags + t.mode.code)
               mode := if t.mode = .node then .handler else t.mode
               pc := t.tvec, gpc := t.tvec, frec := frec, sib := none }
    let c := c.setStream x t'
    let o := c.stream (!x)
    s.setCore core (if o.mode = .node then c.setStream (!x) { o with sib := some code } else c)

/-- What a precise trap shows in its stream's fault record (R417). -/
def Trap.shown (t : Trap) (x : Bool) : FaultRec :=
  { (if recorded t.code then t.frec else FaultRec.zero) with cause := dfcause (if x then 1 else 0) t.code }

/-- Poison and core errors are contained outside device mode (R423). -/
def contained (code : Byte) (m : Mode) : Bool := (code == 0x71 || code == 0x72) && m != .device

/-- A precise trap of a stream: its sides, then containment or the trap. -/
def State.preciseTrap (s : State) (core : Nat) (x : Bool) (t : Trap) : State :=
  let s := s.applySides t.sides
  let c := s.core core
  match if contained t.code (c.stream x).mode then c.node else none with
  | some id => s.contain id t.code.toNat t.frec.addr.toNat
  | none => s.takeTrap core x t.code t.val 0 (t.shown x)

/-- The stream that executes traps. -/
def State.trapHere (s : State) (t : Trap) : State := { s.preciseTrap s.cur s.curX t with issue := .trapped }

/-- The stream that executes waits: its group has not begun (R74, R95), and the wait began when the same one did. -/
def State.waitHere (s : State) (on : WaitOn) (sides : List Side) : State :=
  let s := s.applySides sides
  let s := s.updSelf fun t =>
    { t with pc := t.gpc
             wait := match t.wait with
               | some (w, since) => if w = on then some (w, since) else some (on, s.tb)
               | none => some (on, s.tb) }
  let s := match on with
    | .sem n => s.updHere fun c =>
        if c.waiters.any fun w => w == (n, Waiter.stream) then c
        else { c with waiters := c.waiters ++ [(n, Waiter.stream)] }
    | _ => s
  { s with issue := .waiting }

/-- How an instruction of a stream ends: with its effect, a precise trap, or a wait. -/
def State.settled (s : State) : Except Stop State → State
  | .ok t => t
  | .error (.trap t) => s.trapHere t
  | .error (.wait on sides) => s.waitHere on sides

/-- The outcome of an instruction of the stream that executes, from its body. -/
def runStream (s : State) (body : State → Except Stop State) : Host.Outcome State Fault Refusal :=
  .next (s.settled (body s))

/-- The state after a meaning that always answers one. -/
def stateOf (s : State) : Host.Outcome State Fault Refusal → State
  | .next t => t
  | .fault _ => s
  | .refused _ => s

/-! ### Control targets (R102) -/

/-- A target of a control transfer in the binary of a mode. -/
def Core.targetOk (c : Core) (x : Bool) (m : Mode) (t : Dword) : Bool :=
  t.toNat % 4 == 0 && decide (t.toNat < c.binLen x m)

/-- A transfer by the stream that executes, checked first. -/
def State.target (s : State) (t : Dword) : Except Stop Unit :=
  need (s.here.targetOk s.curX s.self.mode t) (trapOf 0x15 t)

/-- A taken transfer. -/
def State.transfer (s : State) (t : Dword) : Except Stop State := do
  s.target t
  .ok (s.jumpTo t)

/-! ### Return from a trap (R108, R80) -/

/-- A stream returns from a trap: engines whose fault the C-stream has taken go on, and so does a command behind one that
the stream's handler dropped (R80, R81, R89). -/
def Core.resumeEngines (c : Core) (x : Bool) : Core :=
  let go (q : EngQueue) : EngQueue :=
    let q := if q.held = some x then { q with held := none } else q
    match q.fault with
    | some (_, true) => if x then q else { q with fault := none, frec := .zero }
    | _ => q
  { c with load := go c.load, store := go c.store, matrix := go c.matrix, backfill := go c.backfill }

/-- eret outside node mode. -/
def State.trapReturn (s : State) : Except Stop State := do
  let t := s.self
  let m := Mode.ofCode (bitsOf t.estatus.toNat 1 0)
  need (s.here.targetOk s.curX m t.epc) (trapOf 0x15 t.epc)
  let s := s.updSelf fun t => { t with mode := m, pc := t.epc, gpc := t.epc }
  .ok (s.updHere fun c => c.resumeEngines s.curX).retired

/-! ### What waits -/

/-- A wait word: kind and object (R428). Waits of other kinds read as none. -/
def WaitOn.word : WaitOn → Nat
  | .popQ q => 1 + 2 ^ 8 * q
  | .pushQ q => 2 + 2 ^ 8 * q
  | .qwrEmpty q => 3 + 2 ^ 8 * q
  | .qrdFull q => 4 + 2 ^ 8 * q
  | .cqPop => 5
  | .cqPush => 6
  | .sem n => 7 + 2 ^ 8 * n
  | .phaser d i => 8 + 2 ^ 8 * (d * 4096 + i)
  | .queueFull q => 9 + 2 ^ 8 * qCode q
  | .drainCh ch => 10 + 2 ^ 8 * ch
  | .group | .groupLeave => 11
  | .drained | .standing => 12
  | .tail n => 13 + 2 ^ 8 * n
  | .bfFull => 14
  | .readers => 15
  | .tselLoading n => 17 + 2 ^ 8 * n
  | .backfill idx _ => 18 + 2 ^ 8 * idx
  | .pool => 16
  | .pending _ _ | .odd _ _ _ | .members | .time | .row | .pageFault | .order | .peer | .fill _ _ => 0

/-- The wait word of a stream. -/
def Stream.waitWord (t : Stream) : Nat := (t.wait.map fun w => w.1.word).getD 0

/-! ### Engines (R80) -/

/-- Changes a command queue. -/
def State.updEng (s : State) (core : Nat) (q : EngQ) (f : EngQueue → EngQueue) : State :=
  s.updCore core fun c => c.setEng q (f (c.eng q))

/-- The node of a core is a transform node (R258). -/
def State.isTransform (s : State) (core : Nat) : Bool :=
  match (s.core core).node.bind s.node? with
  | some n => descType n.desc == 1
  | none => false

/-- An engine fault: the head keeps its place and its record (R80, R417); a transform node ends instead (R258). -/
def State.engineFault (s : State) (core : Nat) (q : EngQ) (t : Trap) : State :=
  let c := s.core core
  let e := c.eng q
  match c.node, s.isTransform core with
  | some id, true => s.abortNode id 3 t.code.toNat (2 * qCode q + 1) e.head.toNat
  | _, _ =>
    s.updEng core q fun e =>
      { e with fault := some (t.code, false), wait := none, todo := none
               frec := { t.frec with cause := dfcause (2 + qCode q) t.code, idx := e.head.zeroExtend 64, step := d64 e.step } }

/-- A poison or core error that a command of firmware meets is a precise trap of its C-stream (R416, R423): the head stands until
the handler returns. -/
def State.deviceFault (s : State) (core : Nat) (q : EngQ) (t : Trap) : State :=
  (s.updEng core q fun e => { e with fault := some (t.code, true), wait := none, todo := none }).takeTrap core false t.code t.val 0 (t.shown false)

/-- A step moved a queue on: the head has a step more, or it has left (R427). -/
def EngQueue.moved (e k : EngQueue) : Bool := e.step != k.step || e.head != k.head

/-- A wait for memory, during which a step keeps the answers that it has from peers (R448). -/
def WaitOn.ofMemory : WaitOn → Bool
  | .pageFault | .peer | .pool => true
  | _ => false

/-- How a step of an engine ends: with its effect, an engine fault or containment, or a wait. Poison that a copy meets is contained
(R416, R422, R423), where R250 calls it an engine fault (log entry 141, DEDUCED). Peers' answers are kept while the step waits for
memory, and no longer. -/
def State.engineStep (s : State) (core : Nat) (q : EngQ) (body : State → Except Stop State) : State :=
  match body s with
  | .ok t =>
    ((t.dropReads (.engine core q)).updEng core q fun e => { e with wait := none }).updCore core fun c =>
      if ((s.core core).eng q).moved (c.eng q) then { c with advanced := t.tb } else c
  | .error (.trap t) =>
    let s := (s.applySides t.sides).dropReads (.engine core q)
    let m := (s.core core).c.mode
    if t.code = 0x71 ∨ t.code = 0x72 then
      match m, (s.core core).node with
      | .device, _ => s.deviceFault core q t
      | _, some id => s.contain id t.code.toNat t.frec.addr.toNat
      | _, none => s.engineFault core q t
    else s.engineFault core q t
  | .error (.wait on sides) =>
    let s := s.applySides sides
    (if on.ofMemory then s else s.dropReads (.engine core q)).updEng core q fun e => { e with wait := some on }

/-- The faulted queues of a core, in the order of delivery (R80). -/
def Core.pendingFaults (c : Core) : List EngQ :=
  [EngQ.load, .store, .matrix, .backfill].filter fun q =>
    match (c.eng q).fault with
    | some (_, false) => true
    | _ => false

/-- The C-stream takes an engine fault (R80). -/
def State.deliver (s : State) (core : Nat) : State :=
  match (s.core core).pendingFaults with
  | [] => s
  | q :: rest =>
    let e := (s.core core).eng q
    let code := (e.fault.map Prod.fst).getD 0
    let s := s.updEng core q fun e => { e with fault := some (code, true) }
    s.takeTrap core false code (e.head.zeroExtend 64)
      (2 ^ 11 + qCode q * 2 ^ 12 + if rest = [] then 0 else 2 ^ 15) e.frec

end Sys2Proof.Machine
end

