-- ==== Sys2Proof/Machine/Group.lean ====
section
/-! DEFINITION. What an instruction reads and writes (R52), its issue class (R50), the checks of a decoded group (R50 to
R52, R61), and the queue conditions under which a group issues (R74, R75, R87). -/

namespace Sys2Proof.Machine
open Sys2Proof

/-- What an instruction reads and writes (R52): scalar registers, masks, CSRs, vector queues, control queues, and the
command queue it pushes. -/
structure Uses where
  sr : List Reg := []
  sw : List Reg := []
  kr : List MaskReg := []
  kw : List MaskReg := []
  cr : List Nat := []
  cw : List Nat := []
  /-- reads of queues in operand order (R115), with their peek bits -/
  pop : List (Reg × Bool) := []
  push : List Reg := []
  /-- a read that is neither a pop nor a peek (R136) -/
  qr : List Reg := []
  /-- pops the incoming control queue -/
  cqr : Bool := false
  /-- pushes the outgoing control queue -/
  cqw : Bool := false
  eng : Option EngQ := none
  deriving DecidableEq, Repr

/-- R format with d, a and b. -/
def Uses.r3 (o : R3) : Uses := { sr := [o.a, o.b], sw := [o.d] }

/-- V format with two source queues. -/
def Uses.v3 (o : V3) : Uses := { pop := [(o.a, o.pa), (o.b, o.pb)], push := [o.d], kr := [o.k], cr := [0x100] }

/-- V format with one source queue. -/
def Uses.v2 (o : V2) : Uses := { pop := [(o.a, o.pa)], push := [o.d], kr := [o.k], cr := [0x100] }

/-- A queued command: its registers and its STAMP register (R52). -/
def Uses.cmd (cs : List Reg) (tail : Option Tail) (q : EngQ) : Uses :=
  { sr := cs ++ ((tail.bind fun t => t.timed).map Prod.snd).toList, eng := some q }

/-- The loop CSRs (R83), which a loop instruction writes. -/
def loopCsrs : List Nat := [0x020, 0x021, 0x022, 0x023, 0x024, 0x025, 0x026]

/-- The implicit pop of vtype.RQ when RM is SR (R125, R129, R115). -/
def randQ (vt : Dword) : List (Reg × Bool) :=
  if bitsOf vt.toNat 11 10 = 2 then [(BitVec.ofNat 5 (bitsOf vt.toNat 20 16), false)] else []

/-- The CSRs an instruction reads to dereference a handle, htbase and htcount (R229), as implicit operands (log entry
108). -/
def handleCsrs : List Nat := [0x240, 0x241]

/-- What an instruction reads and writes, under vtype and vcidx. A CSR that a rule names as what the instruction reads or
sets is an implicit operand; a CSR that only reports a count the instruction moves is not (log entry 108, DEDUCED). A csrw,
csrs or csrc counts as a write of its CSR in every mode, also where R83 makes the CSR read-only in the current mode and ignores
the write: R52 does not say (log entry 113, DESIGN CHOICE). -/
def usesOf (vt idx : Dword) : Instr → Uses
  | .add o | .sub o | .and o | .or o | .xor o | .shl o | .shr o | .sra o | .mul o | .mulh o
  | .mulhu o | .div o | .divu o | .rem o | .remu o | .min o | .max o | .minu o | .maxu o | .slt o
  | .sltu o => .r3 o
  | .clz o | .popc o => { sr := [o.a], sw := [o.d] }
  | .addi o | .andi o | .ori o | .xori o => { sr := [o.a], sw := [o.d] }
  | .shli o | .shri o | .srai o => { sr := [o.a], sw := [o.d] }
  | .slti o | .sltiu o => { sr := [o.a], sw := [o.d] }
  | .lui o | .auipc o => { sw := [o.d] }
  | .lea o => { sr := [o.a, o.b], sw := [o.d] }
  | .beq o | .bne o | .blt o | .bge o | .bltu o | .bgeu o => { sr := [o.a, o.b] }
  | .jal _ => { sw := [31] }
  | .jalr o => { sr := [o.a], sw := [o.d] }
  | .loop o => { sr := [o.a], cw := loopCsrs }
  | .loopi _ => { cw := loopCsrs }
  | .cqpush o => { sr := [o.a], cqw := true }
  | .cqpop o => { sw := [o.d], cqr := true }
  | .csrr o => { sw := [o.d], cr := [o.csr.toNat] }
  | .csrw o => { sr := [o.a], sw := [o.d], cr := [o.csr.toNat], cw := [o.csr.toNat] }
  | .csrs o | .csrc o => { sr := [o.a], sw := [o.d], cr := [o.csr.toNat], cw := if o.a = 0 then [] else [o.csr.toNat] }
  | .nop _ | .trap _ | .brk _ | .eret _ => {}
  | .wait o => { sr := [o.a] }
  | .ld o => { sr := [o.base], sw := [o.d] }
  | .st o => { sr := [o.base, o.d], cr := if o.deflt then [0x009] else [] }
  | .amoAdd o | .amoAnd o | .amoOr o | .amoXor o | .amoSwap o | .amoMin o | .amoMax o | .amoMinu o
  | .amoMaxu o => { sr := [o.a, o.b], sw := [o.d], cr := [0x009] }
  | .amoCas o => { sr := [o.a, o.b, o.d], sw := [o.d], cr := [0x009] }
  | .amoFadd o | .amoFmin o | .amoFmax o => { sr := [o.a, o.b], sw := [o.d], cr := [0x009] }
  | .fence _ => {}
  | .cinv o | .cwb o | .l2hint o | .l2hintDemote o => { sr := [o.a, o.b] }
  | .qrd o => { sr := [o.a, o.b], push := [o.d] }
  | .qrdh o => { sr := [o.a, o.b], push := [o.d], cr := handleCsrs }
  | .qwr o => { sr := [o.a, o.b], pop := [(o.d, false)] }
  | .xld o | .xldDec o | .xldVfy o => .cmd [o.c0, o.c1, o.c2] o.tail .load
  | .xst o | .xcp o | .xcpScl o | .xcpVfy o => .cmd [o.c0, o.c1, o.c2] o.tail .store
  | .xdrain _ => {}
  | .xcur o => { sw := [o.d], cr := if o.store then [0x042, 0x043] else [0x040, 0x041] }
  | .xcfg o => { sr := [o.a], sw := [o.d], cr := [0x280 + o.ch.toNat], cw := [0x280 + o.ch.toNat] }
  | .mlw o => .cmd [o.c0] o.tail .matrix
  | .mzero o | .attn o => .cmd [o.c0] o.tail .matrix
  | .mswap o => .cmd [] o.tail .matrix
  | .mfuse o => .cmd [] o.tail .matrix
  | .mfuseOff o => .cmd [] o.tail .matrix
  | .mmul o => .cmd [o.c0, o.c1] o.tail .matrix
  | .mst o => .cmd [o.c0, o.c1] o.tail .matrix
  | .mlora o => .cmd [o.c0, o.c1] o.tail .matrix
  | .mmulSmax o | .mamap o => .cmd [o.c0, o.c1, o.c2] o.tail .matrix
  | .mloraClr o => .cmd [o.c1] o.tail .matrix
  | .hview o | .hchk o | .hqry o | .balloc o | .btrim o | .bfork o | .bstat o =>
    { Uses.r3 o with cr := handleCsrs }
  | .bfree o => { sr := [o.a], sw := [o.d], cr := handleCsrs }
  | .bkfill o => .cmd [o.c0, o.c1, o.c2] o.tail .backfill
  | .aadmit o => { sr := [o.a], sw := [o.d], cr := 0x380 :: handleCsrs }
  | .aresolve o => { Uses.r3 o with cr := 0x380 :: handleCsrs }
  | .apublish o | .aclaim o => { Uses.r3 o with cr := [0x380] }
  | .arel o => { sr := [o.a], cr := [0x380] }
  | .probe o => { sr := [o.a], sw := [o.d], cr := handleCsrs }
  | .pinv o => { sr := [o.a], sw := [o.d], cr := handleCsrs }
  | .phreg o => { sr := [o.a, o.b] }
  | .phdrop o | .phsig o | .phwait o | .phadv o => { sr := [o.a] }
  | .phqry o | .phqryM o => { sr := [o.a], sw := [o.d] }
  | .semset o => { sr := [o.a, o.b] }
  | .semsig _ | .semwait _ => {}
  | .semrd o => { sw := [o.d] }
  | .nyield o | .npark o | .grpjoin o => { sr := [o.a, o.b] }
  | .ndone _ | .grpleave _ => {}
  | .ndoneAbort o => { sr := [o.a] }
  | .nspawn o => .r3 o
  | .ndep o | .ndepRel o => { sr := [o.a], sw := [o.d] }
  | .tload o => .cmd [o.c0, o.c1] o.tail .load
  | .tinval o | .tinvalSh o => .cmd [o.c1] o.tail .load
  | .tqry o => { sr := [o.a], sw := [o.d] }
  | .vadd o | .vsub o | .vmul o | .vmulh o | .vand o | .vor o | .vxor o | .vshl o | .vshr o
  | .vsra o | .vmin o | .vmax o | .vminu o | .vmaxu o | .vfadd o | .vfsub o | .vfmul o | .vfmin o
  | .vfmax o => .v3 o
  | .vfabs o | .vfneg o => .v2 o
  | .vfma o => { pop := [(o.a, false), (o.b, false), (o.c, false)], push := [o.d], kr := [o.k], cr := [0x100] }
  | .vcvt o => { pop := (o.a, o.pa) :: randQ vt, push := [o.d], kr := [o.k], cr := [0x100] }
  | .vpack o => .v3 o
  | .vunpack o => { pop := [(o.a, o.pa)], push := [o.d], kr := [o.k], cr := [0x100] }
  | .vbscale o => { pop := (o.a, o.pa) :: randQ vt, push := [o.d], sw := [o.b], kr := [o.k], cr := [0x100] }
  | .vrsum o | .vrmax o | .vrmin o | .vrargmax o | .vscan o => .v2 o
  | .vshuf o => .v3 o
  | .vbcast o | .vslideUp o | .vslideDn o => { pop := [(o.a, o.pa)], push := [o.d], kr := [o.k], cr := [0x100] }
  | .vcompress o => .v2 o
  | .vfunc o => { pop := [(o.a, o.pa)], push := [o.d], kr := [o.k], cr := [0x100] }
  | .tsel _ => { cr := [0x100] }
  | .vrand o | .vrandU o => { sr := [o.a, o.b], push := [o.d], kr := [o.k], cr := [0x100] }
  | .vconf o => { pop := [(o.a, o.pa), (o.b, o.pb)], kr := [o.k], kw := [o.d], cr := [0x100, 0x344, 0x360 + idx.toNat % 32] }
  | .kand o | .kor o | .kxor o => { kr := [o.a, o.b], kw := [o.d] }
  | .knot o | .kmov o => { kr := [o.a], kw := [o.d] }
  | .kmovFromScalar o => { sr := [o.a], kw := [o.d] }
  | .kmovToScalar o | .kpop o => { kr := [o.a], sw := [o.d] }
  | .qdrop o => { pop := [(o.a, false)] }
  | .qcnt o => { sw := [o.d], qr := [o.a] }
  | .vext o => { pop := [(o.a, o.pa)], sw := [o.d] }
  | .vins o => { pop := [(o.a, o.pa)], push := [o.d], sr := [o.b], kr := [o.k] }
  | .vmovs o => { sr := [o.a], push := [o.d], kr := [o.k] }
  | .vsett o => { sr := [o.a], sw := [o.d], cr := [0x100], cw := [0x100] }
  | .vfcmpEq o | .vfcmpLt o | .vfcmpLe o | .vfcmpUn o | .vicmpEq o | .vicmpLt o | .vicmpLe o
  | .vicmpLtu o | .vicmpLeu o => { pop := [(o.a, o.pa), (o.b, o.pb)], kr := [o.k], kw := [o.d], cr := [0x100] }
  | .vsel o => .v3 o
  | .fetchPastEnd | .siblingTrap _ _ | .engineFaultDelivery _ | .eqdropWrite _ _
  | .commandStart _ _ | .timedIssue _ _ | .scheduleMiss _ _ | .commandRetire _ _ | .copyChunk _ _
  | .decryptStep _ | .tloadUnit _ | .tinvalEffect _ | .mlwRow _ | .mswapExchange _ | .mmulRow _
  | .mmulSmaxRow _ | .sideCorrection _ | .mstRow _ | .mzeroEffect _ | .mamapEffect _ | .mloraRow _
  | .mloraClrEffect _ | .mfuseStanding _ | .mfuseOffEffect _ | .attnChunk _ | .attnOutputStep _
  | .bkfillAccept _ | .l1Eviction _ _ | .rowFillComplete _ _ | .probeFillComplete _ _
  | .pageFaultDeadline _ | .frozenGroupPreemption _ | .writeSerialise _ | .remoteWriteApply _ _
  | .graphLaunch _ _ | .nodeDispatch _ | .forcedPreemption _ | .waitPreemption _
  | .operatorOverrun _ | .parkTimeWake _ | .eventRecordWrite _ _ | .ringFaultRetry _ _
  | .eventCoalesceTimeout _ _ | .hangDetect _ | .crucibleGuarantee | .adapterLoadComplete _ _
  | .adapterFillQuotaTick _ | .reduce _ _ | .scrubVisit _ _ | .weightRestore _ | .registerWrite _
  | .sqDoorbell _ _ _ | .sqReset _ _ | .erheadWrite _ _ _ | .resumeWrite _ _ | .adcmdEvict _ _
  | .adcmdRetire _ _ | .bar2Access _ | .create _ | .teardown _ | .setField _ | .getField _
  | .suspend _ | .resume _ | .migrateStart _ | .migrateStop _ | .setGrade _ | .clearKeys _
  | .resolveRetry _ | .resolveFail _ | .shootdown | .shootdownDone | .migrationSettle _
  | .migrationDeadline _ | .keyLoad _ | .keyClear _ | .lockInterfaceRequest _
  | .startInterfaceRequest _ | .stopInterface _ | .getDeviceInterfaceReport _ | .ideKm _ _ _
  | .getVersion | .getCapabilities | .negotiateAlgorithms | .getDigests | .getCertificate
  | .challenge _ | .getMeasurements _ | .keyExchange _ _ _ | .finish _ _ | .endSession _ | .boot
  | .debugAttach _ | .debugHalt _ | .debugContextWrite _ _ | .debugResume _ | .debugSingleStep _ _
  | .throttleChange _ _ | .dieTrip _ | .coolantLoss | .cxlLinkDown _ | .badFlit _ _
  | .replayRequest _ _ | .read _ _ | .readRsp _ _ | .write _ _ | .writeAck _ _ | .amo _ _
  | .amoRsp _ _ | .reduceAck _ _ | .migrate _ _ | .mgmt _ _ | .linkctl _ _ | .reservedMessage _ _
  | .illegalOpcode _ _ | .badOpcode _ | .idleFlit _ _ | .tripClear _ | .baseModelReplace _
  | .ideCheckFailure _ => {}

/-- The issue classes of R50. -/
inductive IClass where
  | s
  | m
  | e
  | a
  | p
  | none
  deriving DecidableEq, Repr

/-- The class of an instruction (R57, R58). -/
def clsOf : Instr → IClass
  | .add _ | .sub _ | .and _ | .or _ | .xor _ | .shl _ | .shr _ | .sra _ | .mul _ | .mulh _
  | .mulhu _ | .div _ | .divu _ | .rem _ | .remu _ | .min _ | .max _ | .minu _ | .maxu _ | .slt _
  | .sltu _ | .clz _ | .popc _ | .addi _ | .andi _ | .ori _ | .xori _ | .shli _ | .shri _ | .srai _
  | .slti _ | .sltiu _ | .lui _ | .auipc _ | .lea _ | .beq _ | .bne _ | .blt _ | .bge _ | .bltu _
  | .bgeu _ | .jal _ | .jalr _ | .loop _ | .loopi _ | .cqpush _ | .cqpop _ | .csrr _ | .csrw _
  | .csrs _ | .csrc _ | .nop _ | .trap _ | .brk _ | .eret _ | .wait _ => .s
  | .ld _ | .st _ | .amoAdd _ | .amoAnd _ | .amoOr _ | .amoXor _ | .amoSwap _ | .amoMin _
  | .amoMax _ | .amoMinu _ | .amoMaxu _ | .amoCas _ | .amoFadd _ | .amoFmin _ | .amoFmax _
  | .fence _ | .cinv _ | .cwb _ | .l2hint _ | .l2hintDemote _ | .qrd _ | .qrdh _ | .qwr _ => .m
  | .xld _ | .xldDec _ | .xldVfy _ | .xst _ | .xcp _ | .xcpScl _ | .xcpVfy _ => .e
  | .xdrain _ | .xcur _ | .xcfg _ => .m
  | .mlw _ | .mzero _ | .attn _ | .mswap _ | .mfuse _ | .mfuseOff _ | .mmul _ | .mst _ | .mlora _
  | .mmulSmax _ | .mamap _ | .mloraClr _ => .e
  | .hview _ | .hchk _ | .hqry _ | .balloc _ | .btrim _ | .bfork _ | .bstat _ | .bfree _ => .m
  | .bkfill _ => .e
  | .aadmit _ | .aresolve _ | .apublish _ | .aclaim _ | .arel _ | .probe _ | .pinv _ | .phreg _
  | .phdrop _ | .phsig _ | .phwait _ | .phadv _ | .phqry _ | .phqryM _ | .semset _ | .semsig _
  | .semwait _ | .semrd _ => .m
  | .nyield _ | .npark _ | .grpjoin _ | .ndone _ | .grpleave _ | .ndoneAbort _ | .nspawn _
  | .ndep _ | .ndepRel _ => .none
  | .tload _ | .tinval _ | .tinvalSh _ => .e
  | .tqry _ => .m
  | .vadd _ | .vsub _ | .vmul _ | .vmulh _ | .vand _ | .vor _ | .vxor _ | .vshl _ | .vshr _
  | .vsra _ | .vmin _ | .vmax _ | .vminu _ | .vmaxu _ | .vfadd _ | .vfsub _ | .vfmul _ | .vfmin _
  | .vfmax _ | .vfabs _ | .vfneg _ | .vfma _ | .vcvt _ | .vpack _ | .vunpack _ | .vbscale _ => .a
  | .vrsum _ | .vrmax _ | .vrmin _ | .vrargmax _ | .vscan _ | .vshuf _ | .vbcast _ | .vslideUp _
  | .vslideDn _ | .vcompress _ | .vfunc _ | .tsel _ | .vrand _ | .vrandU _ | .vconf _ => .p
  | .kand _ | .kor _ | .kxor _ | .knot _ | .kmov _ | .kmovFromScalar _ | .kmovToScalar _ | .kpop _
  | .qdrop _ | .qcnt _ | .vext _ | .vins _ | .vmovs _ | .vsett _ => .s
  | .vfcmpEq _ | .vfcmpLt _ | .vfcmpLe _ | .vfcmpUn _ | .vicmpEq _ | .vicmpLt _ | .vicmpLe _
  | .vicmpLtu _ | .vicmpLeu _ | .vsel _ => .a
  | .fetchPastEnd | .siblingTrap _ _ | .engineFaultDelivery _ | .eqdropWrite _ _
  | .commandStart _ _ | .timedIssue _ _ | .scheduleMiss _ _ | .commandRetire _ _ | .copyChunk _ _
  | .decryptStep _ | .tloadUnit _ | .tinvalEffect _ | .mlwRow _ | .mswapExchange _ | .mmulRow _
  | .mmulSmaxRow _ | .sideCorrection _ | .mstRow _ | .mzeroEffect _ | .mamapEffect _ | .mloraRow _
  | .mloraClrEffect _ | .mfuseStanding _ | .mfuseOffEffect _ | .attnChunk _ | .attnOutputStep _
  | .bkfillAccept _ | .l1Eviction _ _ | .rowFillComplete _ _ | .probeFillComplete _ _
  | .pageFaultDeadline _ | .frozenGroupPreemption _ | .writeSerialise _ | .remoteWriteApply _ _
  | .graphLaunch _ _ | .nodeDispatch _ | .forcedPreemption _ | .waitPreemption _
  | .operatorOverrun _ | .parkTimeWake _ | .eventRecordWrite _ _ | .ringFaultRetry _ _
  | .eventCoalesceTimeout _ _ | .hangDetect _ | .crucibleGuarantee | .adapterLoadComplete _ _
  | .adapterFillQuotaTick _ | .reduce _ _ | .scrubVisit _ _ | .weightRestore _ | .registerWrite _
  | .sqDoorbell _ _ _ | .sqReset _ _ | .erheadWrite _ _ _ | .resumeWrite _ _ | .adcmdEvict _ _
  | .adcmdRetire _ _ | .bar2Access _ | .create _ | .teardown _ | .setField _ | .getField _
  | .suspend _ | .resume _ | .migrateStart _ | .migrateStop _ | .setGrade _ | .clearKeys _
  | .resolveRetry _ | .resolveFail _ | .shootdown | .shootdownDone | .migrationSettle _
  | .migrationDeadline _ | .keyLoad _ | .keyClear _ | .lockInterfaceRequest _
  | .startInterfaceRequest _ | .stopInterface _ | .getDeviceInterfaceReport _ | .ideKm _ _ _
  | .getVersion | .getCapabilities | .negotiateAlgorithms | .getDigests | .getCertificate
  | .challenge _ | .getMeasurements _ | .keyExchange _ _ _ | .finish _ _ | .endSession _ | .boot
  | .debugAttach _ | .debugHalt _ | .debugContextWrite _ _ | .debugResume _ | .debugSingleStep _ _
  | .throttleChange _ _ | .dieTrip _ | .coolantLoss | .cxlLinkDown _ | .badFlit _ _
  | .replayRequest _ _ | .read _ _ | .readRsp _ _ | .write _ _ | .writeAck _ _ | .amo _ _
  | .amoRsp _ _ | .reduceAck _ _ | .migrate _ _ | .mgmt _ _ | .linkctl _ _ | .reservedMessage _ _
  | .illegalOpcode _ _ | .badOpcode _ | .idleFlit _ _ | .tripClear _ | .baseModelReplace _
  | .ideCheckFailure _ => .none

/-- It must stand alone in its group (R51). -/
def aloneOf : Instr → Bool
  | .trap _ | .brk _ | .eret _ | .wait _ | .nyield _ | .npark _ | .grpjoin _ | .ndone _
  | .grpleave _ | .ndoneAbort _ | .nspawn _ | .ndep _ | .ndepRel _ => true
  | _ => false

/-- It must end its group (R51). -/
def endsOf : Instr → Bool
  | .beq _ | .bne _ | .blt _ | .bge _ | .bltu _ | .bgeu _ | .jal _ | .jalr _ | .loop _ | .loopi _
  | .probe _ => true
  | _ => false

/-- The class limits of R50 hold for a list of instructions. -/
def classesOk (x : Bool) (l : List Instr) : Bool :=
  let n (c : IClass) : Nat := (l.filter fun i => clsOf i == c).length
  if x then decide (l.length ≤ 4 ∧ n .a ≤ 2 ∧ n .p ≤ 1 ∧ n .s ≤ 1) else decide (l.length ≤ 2 ∧ n .m ≤ 1 ∧ n .e ≤ 1)

/-- R50 and R51's alone rule hold for a list of instructions. -/
def limitsOk (x : Bool) (l : List Instr) : Bool := classesOk x l && (decide (l.length ≤ 1) || !l.any aloneOf)

/-- Some element is in both lists. -/
def meets {α : Type} [DecidableEq α] (a b : List α) : Bool := a.any fun x => b.contains x

/-- One instruction writes what another reads or writes (R52). A write to s0 counts for nothing. -/
def Uses.clash (u v : Uses) : Bool :=
  let one (u v : Uses) : Bool :=
    meets (u.sw.filter (· != 0)) (v.sr ++ v.sw) || meets u.kw (v.kr ++ v.kw) || meets u.cw (v.cr ++ v.cw)
      || meets ((u.pop.filter fun p => !p.2).map Prod.fst ++ u.push) (v.pop.map Prod.fst ++ v.push ++ v.qr)
      || (u.cqr && v.cqr) || (u.cqw && v.cqw)
  one u v || one v u

/-- An instruction of a group and the offset of its word. -/
abbrev Placed := Instr × Dword

/-- The first instruction beyond a limit of R50 or R51 (R61). -/
def firstBeyond (x : Bool) (g : List Placed) : Option Dword :=
  ((List.range g.length).find? fun i => !limitsOk x ((g.take (i + 1)).map Prod.fst)).bind fun i => (g[i]?).map Prod.snd

/-- The lowest candidate address of 0x05 (R61): a transfer that is not last, or the later of two that clash. -/
def firstClash (vt idx : Dword) (g : List Placed) : Option Dword :=
  ((List.range g.length).find? fun i =>
    match g[i]? with
    | none => false
    | some p =>
      (endsOf p.1 && decide (i + 1 < g.length))
        || (g.take i).any fun q => (usesOf vt idx q.1).clash (usesOf vt idx p.1)).bind fun i => (g[i]?).map Prod.snd

/-- The fault of a decoded group, if any (R60, R61). -/
def groupFault (x : Bool) (vt idx : Dword) (g : List Placed) : Option (EncFault × Dword) :=
  match firstBeyond x g with
  | some a => some (.illegalLength, a)
  | none => (firstClash vt idx g).map fun a => (.illegalGroup, a)

/-! ### The queues a group needs (R74, R75, R87) -/

/-- Entries of a queue that the reads of a list need: a peek after p pops needs one more (R115). -/
def neededOf (q : Reg) (l : List (Reg × Bool)) : Nat :=
  (l.foldl (fun (r : Nat × Nat) p => if p.1 = q then (if p.2 then (r.1, max r.2 (r.1 + 1)) else (r.1 + 1, max r.2 (r.1 + 1))) else r)
    (0, 0)).2

/-- Pops of a queue by a list. -/
def popsOf (q : Reg) (l : List (Reg × Bool)) : Nat := (l.filter fun p => p.1 == q && !p.2).length

/-- A local queue, q16 to q31. -/
def localQ (q : Reg) : Bool := decide (16 ≤ q.toNat)

/-- The local-queue trap of an X-stream instruction, if any (R74). -/
def Core.localTrap (c : Core) (u : Uses) : Except Stop Unit :=
  match (u.pop.map Prod.fst).find? fun q => localQ q && decide ((c.queue q.toNat).length < neededOf q u.pop) with
  | some q => trapOf 0x10 (q.zeroExtend 64)
  | none =>
    match u.push.find? fun q => localQ q && decide (4 + popsOf q u.pop < (c.queue q.toNat).length + 1) with
    | some q => trapOf 0x11 (q.zeroExtend 64)
    | none => .ok ()

/-- What a stream's instruction waits on among the queues (R74, R75, R87). -/
def Core.queueWait (c : Core) (x : Bool) (u : Uses) : Except Stop Unit :=
  let short := (u.pop.map Prod.fst).find? fun q => !localQ q && decide ((c.queue q.toNat).length < neededOf q u.pop)
  let full := u.push.find? fun q => !localQ q && decide (4 ≤ (c.queue q.toNat).length)
  match short, full with
  | some q, _ => waitOn (if x then .popQ q.toNat else .qwrEmpty q.toNat)
  | none, some q => waitOn (if x then .pushQ q.toNat else .qrdFull q.toNat)
  | none, none =>
    let inc := if x then c.vec.toX else c.vec.toC
    let out := if x then c.vec.toC else c.vec.toX
    if u.cqr && inc.isEmpty then waitOn .cqPop
    else if u.cqw && decide (16 ≤ out.length) then waitOn .cqPush
    else
      match u.eng with
      | some q =>
        if (if q = .backfill then 16 else 64) ≤ (c.eng q).cmds.length then waitOn (.queueFull q) else .ok ()
      | none => .ok ()

/-- What an instruction of a core reads and writes. -/
def Core.uses (c : Core) (i : Instr) : Uses := usesOf c.vec.vtype c.vec.vcidx i

/-- An instruction has the queues it needs. -/
def State.queues (s : State) (i : Instr) : Except Stop Unit := do
  s.here.localTrap (s.here.uses i)
  s.here.queueWait s.curX (s.here.uses i)

end Sys2Proof.Machine
end

