-- ==== Sys2Proof/Machine/Fetch.lean ====
section
/-! DEFINITION. Fetching an issue group from the instruction store and decoding it (R43, R49, R60, R61, R69, R90 to R92,
R102, R104). -/

namespace Sys2Proof.Machine
open Sys2Proof

/-- The row that holds a row-slot of a stream's binary. -/
def Core.rowOf (c : Core) (x : Bool) (m : Mode) (slot : Nat) : Option IRow :=
  let i := c.imageOf m
  (c.rows.find? fun r =>
    r.2.state != 0 && r.2.kernel == i.kernel && r.2.vf == c.vfid && r.2.x == x && r.2.slot == slot).map Prod.snd

/-- What a fetch of one word answers: a stall, a fault of its row, or the word. -/
inductive Fetched where
  | stall
  | fault (code : Byte) (va : Nat)
  | word (w : Word)
  deriving DecidableEq, Repr

/-- The word at an offset of a stream's binary (R90 to R92). -/
def Core.fetch (c : Core) (x : Bool) (m : Mode) (off : Nat) : Fetched :=
  match c.rowOf x m (off / 512) with
  | none => .stall
  | some r =>
    match r.mark with
    | some code => .fault code (r.va + off % 512)
    | none => if r.state = 3 then .word (r.words.getD (off % 512 / 4) 0) else .stall

/-- The words of a group, or why there is none. -/
inductive Group where
  | stall
  | fault (code : Byte) (va : Nat)
  /-- its words reach the end of the binary (R102) -/
  | past
  /-- the words from the first on, and the offset after the last (R43, R49) -/
  | words (ws : List Word) (stop : Nat)
  deriving DecidableEq, Repr

/-- Collects the words of a group from an offset on; `tailed`: the next word is the tail of the last one; `last`: that one
ended the group. The first number bounds the words left in the binary. -/
def Core.collect (c : Core) (x : Bool) (m : Mode) (off : Nat) (tailed last : Bool) (acc : List Word) : Nat → Group
  | 0 => .past
  | fuel + 1 =>
    match c.fetch x m off with
    | .stall => .stall
    | .fault code va => .fault code va
    | .word w =>
      if tailed then
        if last then .words (acc ++ [w]) (off + 4) else c.collect x m (off + 4) false false (acc ++ [w]) fuel
      else if w.getLsbD 1 then c.collect x m (off + 4) true (w.getLsbD 0) (acc ++ [w]) fuel
      else if w.getLsbD 0 then .words (acc ++ [w]) (off + 4)
      else c.collect x m (off + 4) false false (acc ++ [w]) fuel

/-- The group at a stream's group offset. -/
def Core.group (c : Core) (x : Bool) : Group :=
  let t := c.stream x
  c.collect x t.mode t.gpc.toNat false false [] ((c.binLen x t.mode - t.gpc.toNat) / 4)

/-- Decodes the words of a group: its instructions with their offsets, or the first word's fault (R60, R61). -/
def decodeGroup (x : Bool) (off : Nat) : List Word → Except (EncFault × Dword) (List Placed)
  | [] => .ok []
  | [w] =>
    match decodeWord x w 0 with
    | .error f => .error (f, d64 off)
    | .ok i => .ok [(i, d64 off)]
  | w :: t :: rest =>
    match decodeWord x w t with
    | .error f => .error (f, d64 off)
    | .ok i =>
      if w.getLsbD 1 then (decodeGroup x (off + 8) rest).map fun l => (i, d64 off) :: l
      else (decodeGroup x (off + 4) (t :: rest)).map fun l => (i, d64 off) :: l

/-- lend of an active level that a group of words holds, other than at its last word (R104). -/
def Stream.insideEnd (t : Stream) (stop : Nat) : Option Dword :=
  let hit (e : Dword) : Bool := decide (t.gpc.toNat ≤ e.toNat ∧ e.toNat + 4 < stop)
  if t.mode = .handler then none
  else if t.loops.depth = 2 ∧ hit t.loops.end1 then some t.loops.end1
  else if 1 ≤ t.loops.depth ∧ hit t.loops.end0 then some t.loops.end0
  else none

/-- What a stream issues next. -/
inductive Issued where
  /-- its words reach the end of the binary (R102) -/
  | past
  /-- an encoding fault and the address it reports (R60, R61) -/
  | bad (f : EncFault) (at_ : Dword)
  | trap (code : Byte) (t : Trap)
  | stall
  | group (g : List Placed)
  deriving DecidableEq, Repr

/-- Fetches and decodes what a stream issues next. -/
def Core.next (c : Core) (x : Bool) : Issued :=
  let t := c.stream x
  match c.group x with
  | .stall => .stall
  | .fault code va =>
    .trap code ⟨code, d64 va, { FaultRec.zero with addr := d64 (if code = 0x71 then va / 64 * 64 else va) }, []⟩
  | .past => .past
  | .words ws stop =>
    match decodeGroup x t.gpc.toNat ws with
    | .error (f, at_) => .bad f at_
    | .ok g =>
      match groupFault x c.vec.vtype c.vec.vcidx g with
      | some (f, at_) => .bad f at_
      | none =>
        match t.insideEnd stop with
        | some e => .trap 0x14 ⟨0x14, e, .zero, []⟩
        | none => .group g

/-- The queue conditions of a whole group: local queues first, then waits (R74). -/
def Core.groupQueues (c : Core) (x : Bool) (g : List Placed) : Except Stop Unit := do
  for p in g do
    c.localTrap (c.uses p.1)
  for p in g do
    c.queueWait x (c.uses p.1)

end Sys2Proof.Machine
end

