-- ==== Sys2Proof/Machine/Flags.lean ====
section
/-! DEFINITION. The sticky flags NV and OF in the CSRs that record them: vflags (R112), mflags (R171, R180), amoflags
(R286, R287). -/

namespace Sys2Proof.Machine
open Sys2Proof

/-- Flags as a flag CSR holds them: [1] OF, [0] NV. -/
def flagBits (f : Fp.Flags) : Dword := d64 ((if f.ovf then 2 else 0) + if f.nv then 1 else 0)

/-- Flags of an X-stream instruction join vflags (R112). -/
def Core.raiseV (c : Core) (f : Fp.Flags) : Core := { c with vec := { c.vec with vflags := c.vec.vflags ||| flagBits f } }

/-- Flags of a matrix or attention step join mflags (R171). -/
def Core.raiseM (c : Core) (f : Fp.Flags) : Core := { c with csr := { c.csr with mflags := c.csr.mflags ||| flagBits f } }

/-- Flags of an FP atomic join amoflags (R286). -/
def Core.raiseA (c : Core) (f : Fp.Flags) : Core :=
  { c with csr := { c.csr with amoflags := c.csr.amoflags ||| flagBits f } }

/-- The flags of a list of results. -/
def flagsOf (l : List Fp.Res) : Fp.Flags := l.foldl (fun f r => f.or r.fl) .zero

end Sys2Proof.Machine
end

