-- ==== Sys2Proof/Machine/Operands.lean ====
section
/-! DEFINITION. Operands of the X-stream: elements of an entry (R17, R109), masks (R116), queue reads in their order (R115),
the fields of vtype (R110), and how a vector instruction ends (R118). -/

namespace Sys2Proof.Machine
open Sys2Proof

/-! ### Elements -/

/-- Element i of width w of an entry (R109). -/
def elemOf (v : Vec) (w i : Nat) : Nat := v.toNat / 2 ^ (w * i) % 2 ^ w

/-- An entry from its elements of width w, first first; missing ones are 0. -/
def ofElems (w : Nat) (l : List Nat) : Vec := BitVec.ofNat 1024 (l.foldr (fun x acc => x % 2 ^ w + 2 ^ w * acc) 0)

/-- The entry whose element i of width w is `f i`. -/
def buildElems (w : Nat) (f : Nat → Nat) : Vec := ofElems w ((List.range (1024 / w)).map f)

/-- Bit l of a mask: lane l is active (R116). -/
def laneOn (k : Word) (l : Nat) : Bool := k.getLsbD l

/-- The lane of element i of width w is active. -/
def elemOn (k : Word) (w i : Nat) : Bool := k.getLsbD (w * i / 32)

/-- The entry whose active elements are `f i`, and the flags that they raise (R116). -/
def buildMasked (w : Nat) (k : Word) (f : Nat → Fp.Res) : Vec × Fp.Flags :=
  let l := (List.range (1024 / w)).map fun i => if elemOn k w i then f i else ⟨0, .zero⟩
  (ofElems w (l.map fun r => r.bits), flagsOf l)

/-- The entry whose active lanes are `f l`. -/
def buildLanes (k : Word) (f : Nat → Nat) : Vec := buildElems 32 fun l => if laneOn k l then f l else 0

/-- A mask whose bit l is `f l`. -/
def buildMask (f : Nat → Bool) : Word :=
  BitVec.ofNat 32 ((List.range 32).foldr (fun l acc => (if f l then 2 ^ l else 0) + acc) 0)

/-! ### vtype -/

/-- ET. -/
def Core.et (c : Core) : Nat := bitsOf c.vec.vtype.toNat 3 0

/-- CT. -/
def Core.ct (c : Core) : Nat := bitsOf c.vec.vtype.toNat 7 4

/-- RM. -/
def Core.rm (c : Core) : Fp.RMode := .ofCode (bitsOf c.vec.vtype.toNat 11 10)

/-- RM in lane arithmetic: SR rounds as RNE (R120). -/
def Core.laneMode (c : Core) : Fp.RMode := if c.rm = .sr then .rne else c.rm

/-- OVF: NSAT (R110). -/
def Core.nsat (c : Core) : Bool := c.vec.vtype.getLsbD 12

/-- The element type must be one that the instruction accepts (R117). -/
def Core.accept (c : Core) (ok : Bool) : Except Stop Unit := need ok (trapOf 0x1B c.vec.vtype)

/-! ### Queues -/

/-- Reads the head entry of a queue; it stays where the read is a peek (R114). -/
def Core.takeEntry (c : Core) (q : Reg) (peek : Bool) : Vec × Core :=
  let l := c.queue q.toNat
  (l.headD 0, if peek then c else c.setQueue q.toNat l.tail)

/-- Pushes an entry into a queue. -/
def Core.pushEntry (c : Core) (q : Reg) (v : Vec) : Core := c.setQueue q.toNat (c.queue q.toNat ++ [v])

/-- The random word of lane l: the implicit pop of RQ under SR (R115, R125, R129). -/
def Core.takeRandom (c : Core) : Vec × Core :=
  match randQ c.vec.vtype with
  | p :: _ => c.takeEntry p.1 p.2
  | [] => (0, c)

/-! ### Instructions of one and two sources -/

/-- A vector instruction that pushes the entry it computes from two sources. -/
def State.vec2 (s : State) (i : Instr) (o : V3) (ok : Nat → Bool) (f : Core → Vec → Vec → Vec × Fp.Flags) :
    Except Stop State := do
  s.queues i
  s.here.accept (ok s.here.et)
  let (a, c) := s.here.takeEntry o.a o.pa
  let (b, c) := c.takeEntry o.b o.pb
  let (v, fl) := f s.here a b
  .ok ((s.setCore s.cur ((c.pushEntry o.d v).raiseV fl)).done o.stop)

/-- A vector instruction that pushes the entry it computes from one source. -/
def State.vec1 (s : State) (i : Instr) (d a : Reg) (peek stop : Bool) (ok : Nat → Bool)
    (f : Core → Vec → Vec × Fp.Flags) : Except Stop State := do
  s.queues i
  s.here.accept (ok s.here.et)
  let (a, c) := s.here.takeEntry a peek
  let (v, fl) := f s.here a
  .ok ((s.setCore s.cur ((c.pushEntry d v).raiseV fl)).done stop)

/-- A compare of two sources into a mask (R123). -/
def State.vecCmp (s : State) (i : Instr) (o : VCmp) (ok : Nat → Bool) (f : Nat → Nat → Bool × Bool) :
    Except Stop State := do
  s.queues i
  s.here.accept (ok s.here.et)
  let k := s.here.mask o.k
  let (a, c) := s.here.takeEntry o.a o.pa
  let (b, c) := c.takeEntry o.b o.pb
  let r (l : Nat) : Bool × Bool := if laneOn k l then f (elemOf a 32 l) (elemOf b 32 l) else (false, false)
  let nv := (List.range 32).any fun l => (r l).2
  .ok ((s.setCore s.cur ((c.setMask o.d (buildMask fun l => (r l).1)).raiseV ⟨nv, false⟩)).done o.stop)

/-- Any element type. -/
def anyType (_ : Nat) : Bool := true

/-- INT32 or INT8. -/
def intType (t : Nat) : Bool := t == 5 || t == 6

/-- FP32 or BF16. -/
def laneType (t : Nat) : Bool := t == 0 || t == 1

/-- FP32 or BF16 as a format. -/
def laneFmt (t : Nat) : Fp.Fmt := if t = 1 then .bf16 else .fp32

end Sys2Proof.Machine
end

