-- ==== Sys2Proof/Machine/LoadStore.lean ====
section
/-! DEFINITION. Loads, stores, the moves between the scratchpad and the queues, and the L1 and L2 instructions (R207 to
R211). -/

namespace Sys2Proof.Machine
open Sys2Proof

/-- The agent of the stream that executes. -/
def State.me (s : State) : Agent := .stream s.cur

/-- The stream that executes is in device mode. -/
def State.device (s : State) : Bool := s.self.mode = .device

/-- The address of a ld or st (R207). -/
def State.memAddr (s : State) (base : Reg) (imm : BitVec 7) (size : BitVec 2) : Nat :=
  (s.reg base + imm.signExtend 64 * d64 (2 ^ size.toNat)).toNat

/-- The checks of R215 and R207 up to the local window, in order. -/
def checkLocal (a sz : Nat) : Except Stop Unit := do
  need (a < 2 ^ 56) (trapAddr 0x20 a)
  need (decide (lwbase ≤ a ∨ a + sz - 1 < lwbase)) (trapAddr 0x21 a)
  need (a % sz == 0) (trapAddr 0x28 a)

/-- The loaded value, extended (R207). -/
def extendLoad (se : Bool) (sz : Nat) (bs : List Byte) : Dword := if se then sx (8 * sz) (leNat bs) else d64 (leNat bs)

/-- LD (R207). -/
def execLd (o : MLd) (s : State) : Host.Outcome State Fault Refusal :=
  runStream s fun s => do
    let sz := 2 ^ o.size.toNat
    let a := s.memAddr o.base o.imm o.size
    checkLocal a sz
    if lwbase ≤ a then
      need (a - lwbase + sz ≤ s.here.spBytes) (trapAddr 0x29 a)
      .ok ((s.setReg o.d (extendLoad o.se sz (s.here.spRead (a - lwbase) sz))).done o.stop)
    else
      checkSpace a sz .ld
      let (s, l) ← s.translate s.me s.here.vfid a .ld
      let (s, bs) ← s.loadLeaf s.cur s.here.vfid l sz
      .ok ((s.setReg o.d (extendLoad o.se sz bs)).done o.stop)

/-- The colour of a st (R207). -/
def State.storeColour (s : State) (o : MSt) : BitVec 3 := if o.deflt then s.here.csr.coldef.setWidth 3 else o.colour

/-- ST (R207). -/
def execSt (o : MSt) (s : State) : Host.Outcome State Fault Refusal :=
  runStream s fun s => do
    let sz := 2 ^ o.size.toNat
    let a := s.memAddr o.base o.imm o.size
    let bs := leBytes sz (s.reg o.d).toNat
    checkLocal a sz
    if lwbase ≤ a then
      need (a - lwbase + sz ≤ s.here.spBytes) (trapAddr 0x29 a)
      .ok ((s.updHere fun c => c.spWrite (a - lwbase) bs).done o.stop)
    else
      checkSpace a sz .st
      let (s, l) ← s.translate s.me s.here.vfid a .st
      let s ← s.storeLeaf s.cur s.here.vfid l bs (s.storeColour o)
      .ok (s.done o.stop)

/-- The scratchpad range of `n` bytes at an offset: multiples of 16 within SPBYTES (R208, R209). -/
def State.spRange (s : State) (o n : Nat) : Except Stop Unit := do
  need (o % 16 == 0) (trapAddr 0x28 o)
  need (o + n ≤ s.here.spBytes) (trapAddr 0x29 o)

/-- An entry from its 128 bytes: byte i is bits [8i + 7:8i] (R208). -/
def entryOf (bs : List Byte) : Vec := BitVec.ofNat 1024 (leNat bs)

/-- QRD (R208). -/
def execQrd (o : R3) (s : State) : Host.Outcome State Fault Refusal :=
  runStream s fun s => do
    s.queues (.qrd o)
    let off := (s.reg o.a + s.reg o.b).toNat
    s.spRange off 128
    .ok ((s.updHere fun c => c.pushEntry o.d (entryOf (c.spRead off 128))).done o.stop)

/-- The coordinates at a scratchpad offset (R209). -/
def Core.coordsAt (c : Core) (off : Nat) : Coords :=
  (List.range 4).map fun i => signed 32 (leNat (c.spRead (off + 4 * i) 4))

/-- QRDH (R209). -/
def execQrdh (o : R3) (s : State) : Host.Outcome State Fault Refusal :=
  runStream s fun s => do
    s.queues (.qrdh o)
    let off := (s.reg o.b).toNat
    s.spRange off 16
    let (s, e) ← atCoords (s.here.coordsAt off) (s.derefRead s.me s.device (s.reg o.a))
    let (s, vs) ← s.onward <| s.readRun s.me e (s.here.coordsAt off) (1024 / e.width)
    .ok ((s.updHere fun c => c.pushEntry o.d (entryOf (packBytes e.width vs))).done o.stop)

/-- QWR (R208). -/
def execQwr (o : R3) (s : State) : Host.Outcome State Fault Refusal :=
  runStream s fun s => do
    s.queues (.qwr o)
    let off := (s.reg o.a + s.reg o.b).toNat
    s.spRange off 128
    .ok ((s.updHere fun c =>
      let q := c.queue o.d.toNat
      (c.setQueue o.d.toNat q.tail).spWrite off (leBytes 128 (q.headD 0).toNat)).done o.stop)

/-- The lines of the running VF that a range instruction selects (R210). -/
def State.ranged (s : State) (o : RAB) (l : L1Line) : Bool :=
  let a := (s.reg o.a).toNat
  let n := (s.reg o.b).toNat
  n != 0 && inRange s.here.vfid a (min (a + n) (2 ^ 56)) l

/-- CINV (R210). -/
def execCinv (o : RAB) (s : State) : Host.Outcome State Fault Refusal :=
  .next ((s.flushIf s.cur (s.ranged o)).done o.stop)

/-- CWB (R210). -/
def execCwb (o : RAB) (s : State) : Host.Outcome State Fault Refusal :=
  .next ((s.writeBackIf s.cur (s.ranged o)).done o.stop)

/-- L2HINT (R211): it changes no value that an agent reads. -/
def execL2hint (o : RAB) (s : State) : Host.Outcome State Fault Refusal := .next (s.done o.stop)

/-- L2HINT_DEMOTE (R211): it changes no value that an agent reads. -/
def execL2hintDemote (o : RAB) (s : State) : Host.Outcome State Fault Refusal := .next (s.done o.stop)

end Sys2Proof.Machine
end

