-- ==== Sys2Proof/Machine/Adapters.lean ====
section
/-! DEFINITION. The adapter instructions (R369 to R374), loads (R361, R362), the fill quota, and the host's adapter
commands (R435, R438). -/

namespace Sys2Proof.Machine
open Sys2Proof

/-! ### The node's adapter log (R360) -/

/-- The log of the node that executes; a stream without a node has no room in it (log entry 20, DESIGN CHOICE). -/
def State.alog (s : State) : Option (List LogRec) := (s.here.node.bind s.node?).map fun n => n.alog

/-- The log is full. -/
def State.alogFull (s : State) : Bool := (s.alog.map fun l => decide (64 ≤ l.length)).getD true

/-- Appends a record to the log. -/
def State.alogAdd (s : State) (r : LogRec) : State :=
  match s.here.node with
  | some id => s.updNode id fun n => { n with alog := n.alog ++ [r] }
  | none => s

/-! ### What every adapter instruction does (R355, R369) -/

/-- VER of a token (R354). -/
def tokVer (t : Dword) : BitVec 28 := t.extractLsb' 32 28

/-- The adapter handle of a token (R354). -/
def tokHandle (t : Dword) : Word := t.extractLsb' 0 32

/-- The check of INDEX (R369). -/
def State.adapterIndex (s : State) (t : Dword) : Except Stop Unit :=
  need (adIndex (tokHandle t) < bitsOf s.here.csr.adcfg.toNat 16 0) (trapOf 0x65 t)

/-- A release and an acquire of module scope (R355). A retirement that waits on a page keeps its turn (R364). -/
def State.adapterOrder (s : State) : Except Stop State := do
  need (!(s.hearth.retires.any fun r => r.vf == s.here.vfid)) (waitOn .order)
  let s ← s.release s.me (dieOf s.cur) 3
  .ok s.settleAll

/-- A status word with a value below it (R367). -/
def adapterWord (st v : Nat) : Dword := d64 (st * 2 ^ 60 + v)

/-- The entry of the running VF that a token names. -/
def State.adapterOf (s : State) (t : Dword) : AdEntry := s.adapter s.here.vfid (adIndex (tokHandle t))

/-- Changes it. -/
def State.updAdapterOf (s : State) (t : Dword) (f : AdEntry → AdEntry) : State :=
  s.updAdapter s.here.vfid (adIndex (tokHandle t)) f

/-- The handle is not current or the entry is retired (R367: GONE). -/
def AdEntry.gone (e : AdEntry) (t : Dword) : Bool := adGen (tokHandle t) != e.gen || e.state == 3

/-! ### aadmit -/

/-- Prefetches one key of a VF into a die table (R362). -/
def State.prefetch (s : State) (d vf : Nat) (h : Dword) : State :=
  let s := s.learnAll vf
  let t := PTable.die d
  if (s.pfind t { PKey.of h 0 with vf := vf }).isSome || decide (s.cfg vf 0x10 d ≤ s.pused d vf) then s
  else
    match s.pchoose t vf with
    | some i => (s.queueFill t i vf h 0).1
    | none => s

/-- A reference more on a version (R359). -/
def State.takeRef (s : State) (t : Dword) (old : Bool) : State :=
  let vf := s.here.vfid
  let s := s.learn vf (adIndex (tokHandle t))
  let e := s.adapterOf t
  if old then (s.updAdapterOf t fun e => { e with srefs := e.srefs + 1 }).repin vf e.ohands.reduceOption
  else (s.updAdapterOf t fun e => { e with refs := e.refs + 1 }).repin vf e.hands.reduceOption

/-- A load of the current version starts (R357, R361). -/
def State.startLoad (s : State) (t : Dword) : State := s.updAdapterOf t fun e => { e with state := 1, copied := 0 }

/-- aadmit of a version, the superseded one where `old` (R370). -/
def State.admitVersion (s : State) (t : Dword) (old : Bool) : Except Stop (State × Dword) := do
  need (!s.alogFull) (trapOf 0x67 t)
  let vf := s.here.vfid
  let e := s.adapterOf t
  let ver := if old then e.sver else e.ver
  let s := (s.takeRef t old).alogAdd ⟨false, tokHandle t, ver⟩
  let s := if !old && e.state == 0 then s.startLoad t else s
  let loading := !old && (s.adapterOf t).state == 1
  let pre := bitsOf s.here.csr.adcfg.toNat 27 24
  let f := s.adapterOf t
  let hs := ((if old then f.ohands else f.hands).take (2 * pre)).reduceOption
  let s := if loading then s else hs.foldl (fun s h => s.prefetch (dieOf s.cur) vf h) s
  .ok (s, adapterWord (if loading then 1 else 0) (ver.toNat * 2 ^ 32 + (tokHandle t).toNat))

/-- AADMIT (R370). -/
def execAadmit (o : R2) (s : State) : Host.Outcome State Fault Refusal :=
  runStream s fun s => do
    let t := s.reg o.a
    s.adapterIndex t
    let s ← s.adapterOrder
    let e := s.adapterOf t
    let v := tokVer t
    let (s, r) ←
      if e.ver = 0 then .ok (s, adapterWord 7 0)
      else if e.gone t then .ok (s, adapterWord 2 0)
      else if v = 0 ∨ v = e.ver then s.admitVersion t false
      else if v = e.sver ∧ e.srefs ≠ 0 then s.admitVersion t true
      else .ok (s, adapterWord 3 0)
    .ok ((s.setReg o.d r).done o.stop)

/-! ### aresolve -/

/-- A factor handle is well formed for a format (R358). -/
def HEntry.factorOk (e : HEntry) (fmt : BitVec 4) : Bool := !e.blocks && e.ro && e.fmt == fmt.toNat && e.tileBytes == 2 ^ 19

/-- The probe key record of a factor: TILE 0, REGION 1 (R371). -/
def keyRecord (h : Dword) : List Byte := leBytes 8 h.toNat ++ leBytes 8 0 ++ leBytes 1 1 ++ List.replicate 15 0

/-- Reads and checks one factor handle of a version record (R358, R371). -/
def State.readFactor (s : State) (va : Nat) (fmt : BitVec 4) : Except Stop (State × Dword) := do
  let (s, b) ← s.readVa s.me s.here.vfid va 8
  let h := d64 (leNat b)
  let (s, e) ← s.onward (s.deref s.me s.device h false)
  s.onward (need (e.factorOk fmt) (trapOf 0x66 h))
  .ok (s, h)

/-- The ticket of a die for a load of an entry: the one in flight, or a new one (R361). -/
def State.loadTicket (s : State) (d vf i : Nat) : State × Nat :=
  match (s.die d).tickets.find? fun t => t.2 == .adapter vf i with
  | some t => (s, t.1)
  | none => s.newTicket d (.adapter vf i)

/-- Writes the resolve record of a version's layer (R371). -/
def State.resolve (s : State) (off layer rec nlayer : Nat) (fmt : BitVec 4) (alpha : Word) (rank : Nat) (ver : BitVec 28) :
    Except Stop State := do
  need (layer < nlayer) (trapOf 0x66 (d64 layer))
  let (s, a) ← s.readFactor (rec + 0x40 + 16 * layer) fmt
  let (s, b) ← s.onward (s.readFactor (rec + 0x48 + 16 * layer) fmt)
  let bytes := keyRecord a ++ keyRecord b ++ leBytes 4 alpha.toNat ++ leBytes 2 rank ++ leBytes 2 fmt.toNat
    ++ leBytes 4 ver.toNat ++ List.replicate 20 0
  .ok (s.updHere fun c => c.spWrite off bytes)

/-- ARESOLVE (R371). -/
def execAresolve (o : R3) (s : State) : Host.Outcome State Fault Refusal :=
  runStream s fun s => do
    let t := s.reg o.a
    let b := (s.reg o.b).toNat
    let off := bitsOf b 51 32
    let layer := bitsOf b 15 0
    s.adapterIndex t
    need (bitsOf b 63 52 == 0 && bitsOf b 31 16 == 0) (trapOf 0x66 (s.reg o.b))
    need (off % 32 == 0) (trapAddr 0x28 off)
    need (off + 96 ≤ s.here.spBytes) (trapAddr 0x29 off)
    let s ← s.adapterOrder
    let e := s.adapterOf t
    let (s, r) ←
      if e.gone t then .ok (s, adapterWord 2 0)
      else if tokVer t = e.ver ∧ e.refs ≠ 0 then
        let s := if e.state = 0 then s.startLoad t else s
        if e.state ≤ 1 then
          let (s, k) := s.loadTicket (dieOf s.cur) s.here.vfid (adIndex (tokHandle t))
          .ok (s, adapterWord 1 k)
        else (s.resolve off layer e.vrec.toNat e.nlayer e.fmt e.alpha e.rank e.ver).map fun s => (s, adapterWord 0 0)
      else if tokVer t = e.sver ∧ e.srefs ≠ 0 then
        (s.resolve off layer e.svrec.toNat e.onlayer e.ofmt e.oalpha e.orank e.sver).map fun s => (s, adapterWord 0 0)
      else .ok (s, adapterWord 3 0)
    .ok ((s.setReg o.d r).done o.stop)

/-! ### arel, apublish, aclaim -/

/-- Releases of a version of an entry that a log already holds (R372). -/
def releasesIn (l : List LogRec) (i : Nat) (ver : BitVec 28) : Nat :=
  (l.filter fun r => r.release && adIndex r.handle == i && r.ver == ver).length

/-- References of a version that an entry counts, where it is the current or the superseded one. -/
def AdEntry.refsOf (e : AdEntry) (ver : BitVec 28) : Nat :=
  if ver = e.ver then e.refs.toNat else if ver = e.sver then e.srefs.toNat else 0

/-- AREL (R372). -/
def execArel (o : RA) (s : State) : Host.Outcome State Fault Refusal :=
  runStream s fun s => do
    let t := s.reg o.a
    s.adapterIndex t
    let s ← s.adapterOrder
    let ver := tokVer t
    let held := releasesIn (s.alog.getD []) (adIndex (tokHandle t)) ver
    need (held < (s.adapterOf t).refsOf ver) (trapOf 0x68 t)
    need (!s.alogFull) (trapOf 0x67 t)
    .ok ((s.alogAdd ⟨true, tokHandle t, ver⟩).done o.stop)

/-- A version record's header is malformed (R358). -/
def headerBad (b : List Byte) : Bool :=
  let fmt := field b 0x16 1
  let back := field b 8 8
  bitsOf (field b 0x17 1) 7 1 != 0 || !zeroAt b 0x1A 38 || !decide (1 ≤ field b 0x14 2 ∧ field b 0x14 2 ≤ 64)
    || !decide (1 ≤ fmt ∧ fmt ≤ 3) || !decide (1 ≤ field b 0x18 2 ∧ field b 0x18 2 ≤ 4096) || back % 64 != 0
    || (!bitOf (field b 0x17 1) 0 && back == 0)

/-- An entry takes a new current version from its record's header (R373). -/
def AdEntry.published (e : AdEntry) (ver : BitVec 28) (rec : Dword) (b : List Byte) : AdEntry :=
  let held : AdEntry :=
    if e.refs = 0 then e
    else { e with sver := e.ver, srefs := e.refs, svrec := e.vrec, ofmt := e.fmt, orank := e.rank
                  onlayer := e.nlayer, oalpha := e.alpha, ohands := e.hands }
  { held with
    back := d64 (field b 8 8), hands := List.replicate (2 * field b 0x18 2) none
    ver := ver, vrec := rec, refs := 0, compat := d64 (field b 0 8), fmt := BitVec.ofNat 4 (field b 0x16 1)
    rank := field b 0x14 2, nlayer := field b 0x18 2, alpha := BitVec.ofNat 32 (field b 0x10 4)
    state := if bitOf (field b 0x17 1) 0 then 2 else 0, evpend := false, copied := 0 }

/-- apublish where the compare holds (R373). -/
def State.publish (s : State) (t rec : Dword) : Except Stop (State × Nat) := do
  need (rec.toNat % 64 == 0) (trapOf 0x66 rec)
  let (s, b) ← s.readVa s.me s.here.vfid rec.toNat 64
  s.onward (need (!headerBad b) (trapOf 0x66 rec))
  if d64 (field b 0 8) ≠ s.sec.abase then .ok (s, 6)
  else .ok ((s.updAdapterOf t fun e => e.published (tokVer t + 1) rec b).learn s.here.vfid (adIndex (tokHandle t)), 0)

/-- APUBLISH (R373). -/
def execApublish (o : R3) (s : State) : Host.Outcome State Fault Refusal :=
  runStream s fun s => do
    let t := s.reg o.a
    s.adapterIndex t
    let s ← s.adapterOrder
    let e := s.adapterOf t
    let (s, st) ←
      if adGen (tokHandle t) ≠ e.gen then .ok (s, 2)
      else if e.state = 3 ∧ (e.refs ≠ 0 ∨ e.srefs ≠ 0) then .ok (s, 4)
      else if tokVer t ≠ e.ver then .ok (s, 3)
      else if e.ver = 0xFFFFFFF ∨ e.state = 1 ∨ (e.refs ≠ 0 ∧ e.srefs ≠ 0) then .ok (s, 4)
      else s.publish t (s.reg o.b)
    let f := s.adapterOf t
    .ok ((s.setReg o.d (adapterWord st
      (f.ver.toNat * 2 ^ 32 + f.gen.toNat * 2 ^ 16 + adIndex (tokHandle t)))).done o.stop)

/-- The lowest other entry of the running VF whose claim meets a range (R374). -/
def State.claimMeets (s : State) (i first n : Nat) : Option Nat :=
  ((s.vf s.here.vfid).adapters.find? fun p =>
    p.1 != i && decide (0 < p.2.xcnt ∧ p.2.xfirst < first + n ∧ first < p.2.xfirst + p.2.xcnt)).map Prod.fst

/-- ACLAIM (R374). -/
def execAclaim (o : R3) (s : State) : Host.Outcome State Fault Refusal :=
  runStream s fun s => do
    let t := s.reg o.a
    let b := (s.reg o.b).toNat
    let first := bitsOf b 15 0
    let n := bitsOf b 31 16
    let vf := s.here.vfid
    s.adapterIndex t
    need (bitsOf b 63 32 == 0) (trapOf 0x66 (s.reg o.b))
    let base := bitsOf (s.cfg vf 0x14) 15 0
    need (n == 0 || decide (base ≤ first ∧ first + n ≤ base + bitsOf (s.cfg vf 0x14) 31 16)) (trapOf 0x66 (s.reg o.b))
    let s ← s.adapterOrder
    let e := s.adapterOf t
    let meet := if n = 0 then none else s.claimMeets (adIndex (tokHandle t)) first n
    let (s, r) :=
      if e.gone t then (s, adapterWord 2 0)
      else if tokVer t ≠ e.ver then (s, adapterWord 3 0)
      else
        match meet with
        | some j => (s, adapterWord 5 j)
        | none => (s.updAdapterOf t fun e => { e with xfirst := first, xcnt := n }, adapterWord 0 0)
    .ok ((s.setReg o.d r).done o.stop)

/-! ### Loads (R357, R361) -/

/-- A factor handle of the current version of an entry: known, or read now (R358). -/
def State.factorAt (s : State) (vf i k : Nat) : Except Stop (State × Dword) :=
  let e := s.adapter vf i
  match (e.hands.getD k none) with
  | some h => .ok (s, h)
  | none => do
    let (s, b) ← s.readVa adapterAgent vf (e.vrec.toNat + 0x40 + 8 * k) 8 .read true
    .ok (s, d64 (leNat b))

/-- The pages of the current version of an entry in the order of its backing image: factor handle and tile (R358). -/
def State.loadPlan (s : State) (vf i : Nat) : Except Stop (State × List (Dword × Nat)) :=
  (List.range (2 * (s.adapter vf i).nlayer)).foldlM (fun (r : State × List (Dword × Nat)) k => do
    let (s, h) ← r.1.onward (r.1.factorAt vf i k)
    s.onward do
      need (hvfOf h == vf) (trapHand 0x24 h)
      let (s, e) ← s.deref adapterAgent true h false true
      s.onward (need (e.factorOk (s.adapter vf i).fmt) (trapHand 0x66 h))
      .ok (s, r.2 ++ (List.range (e.nt 0 * e.nt 1 * e.nt 2 * e.nt 3)).map fun t => (h, t))) (s, [])

/-- Copies one page of the backing image bit for bit into a tile's frame (R361, R399). -/
def State.loadPage (s : State) (vf back : Nat) (h : Dword) (tile : Nat) : Except Stop State := do
  let (s, e) ← s.deref adapterAgent true h false true
  s.onward do
    let _ ← s.handleKey e
    let (s, f) ← s.tileFrame adapterAgent e [] tile true
    s.onward do
      let (s, bs) ← s.readVa adapterAgent vf back (2 ^ 19) .read true
      match f with
      | .page va => s.onward (s.commitVa adapterAgent vf va bs true)
      | .block _ => .ok s

/-- How a load goes on. -/
inductive LoadEnd where
  | whole
  /-- the quota of this millisecond is used up (R361) -/
  | quota
  | stopped (e : Stop)
  deriving DecidableEq, Repr

/-- Copies the pages of a list, the first of which has a number. -/
def State.loadPages (s : State) (vf i back : Nat) : Nat → List (Dword × Nat) → State × LoadEnd
  | _, [] => (s, .whole)
  | k, (h, tile) :: rest =>
    if !s.fillRoom vf then (s, .quota)
    else
      match s.loadPage vf (back + k * 2 ^ 19) h tile with
      | .ok s => ((s.countFill vf).updAdapter vf i fun e => { e with copied := k + 1 }).loadPages vf i back (k + 1) rest
      | .error e => (s, .stopped e)

/-- A load ends with an entry state, and its tickets complete (R361). -/
def State.endLoad (s : State) (vf i state : Nat) : State :=
  (s.updAdapter vf i fun e => { e with state := state, copied := 0 }).endLoadTickets vf i

/-- ADAPTER_LOAD_COMPLETE (R357, R361): a load copies what its quota admits, and ends with its last page or at a fault. -/
def execAdapterLoadComplete (vf idx : Nat) (s : State) : Host.Outcome State Fault Refusal :=
  let e := s.adapter vf idx
  if e.state ≠ 1 then .next s
  else
    let run : State × LoadEnd :=
      match s.loadPlan vf idx with
      | .error e => (s, .stopped e)
      | .ok (s, l) => s.loadPages vf idx e.back.toNat e.copied (l.drop e.copied)
    match run.2 with
    | .whole => .next (run.1.endLoad vf idx 2)
    | .quota => .next run.1
    | .stopped (.wait _ sides) => .next (run.1.applySides sides)
    | .stopped (.trap t) =>
      .next ((((run.1.applySides t.sides).dropReads adapterAgent).postRing0 vf 0x8A t.code.toNat (s.adHandle vf idx)).endLoad vf idx 0)

/-- Cycles of tb in a millisecond. -/
def msCycles : Nat := 1000 * usCycles

/-- ADAPTER_FILL_QUOTA_TICK (R361): a new millisecond begins. -/
def execAdapterFillQuotaTick (vf : Nat) (s : State) : Host.Outcome State Fault Refusal :=
  if (s.vf vf).fillStart / msCycles < s.tb / msCycles then
    .next (s.updVf vf fun v => { v with fillUsed := 0, fillStart := s.tb })
  else .next s

/-! ### The host's commands (R438) -/

/-- ADSTAT after a command (R435). -/
def State.setAdstat (s : State) (vf : Nat) (busy : Bool) (result : Nat) (h : Word) : State :=
  s.updVf vf fun v => { v with adstat := d64 ((if busy then 2 ^ 63 else 0) + result * 2 ^ 56 + h.toNat) }

/-- A command names an entry by its present handle (R435: GONE otherwise). -/
def State.adapterNamed (s : State) (vf : Nat) (h : Word) : Bool :=
  decide (adIndex h < s.cfg vf 0x13) && adGen h == (s.adapter vf (adIndex h)).gen

/-- An eviction that the host asks for (R357, R438). -/
def State.hostEvict (s : State) (vf : Nat) (handle : Word) : State :=
  let i := adIndex handle
  let e := s.adapter vf i
  if (s.vf vf).adstat.getLsbD 63 then s
  else if !s.adapterNamed vf handle || e.state == 3 then s.setAdstat vf false 2 handle
  else if e.state = 1 then s.setAdstat vf false 4 handle
  else if e.ver ≠ 0 ∧ e.back = 0 then s.setAdstat vf false 8 handle
  else
    let s := s.setAdstat vf false 0 handle
    if e.state ≠ 2 then s
    else if e.refs = 0 then (s.learn vf i).evict vf i
    else s.updAdapter vf i fun e => { e with evpend := true }

/-- ADCMD_EVICT (R357, R438). -/
def execAdcmdEvict (h : HostReq) (handle : Word) (s : State) : Host.Outcome State Fault Refusal :=
  onHost h s fun s => s.hostEvict h.vf handle

/-- A retirement that the host asks for (R364, R438): BUSY stands while it waits on a page. -/
def State.hostRetire (s : State) (vf : Nat) (handle : Word) : State :=
  let i := adIndex handle
  if (s.vf vf).adstat.getLsbD 63 then s
  else if !s.adapterNamed vf handle then s.setAdstat vf false 2 handle
  else
    let s := s.retire vf i 1 false
    s.setAdstat vf (s.retirePends vf i) 0 handle

/-- ADCMD_RETIRE (R364, R438). -/
def execAdcmdRetire (h : HostReq) (handle : Word) (s : State) : Host.Outcome State Fault Refusal :=
  onHost h s fun s => s.hostRetire h.vf handle

end Sys2Proof.Machine
end

