-- ==== Sys2Proof/Machine/Atomics.lean ====
section
/-! DEFINITION. Atomics (R200, R283 to R286) and fence (R271). -/

namespace Sys2Proof.Machine
open Sys2Proof

/-- What an amo asks for: its size in bytes, operation value (R284), operands, modifiers and scope. -/
structure AmoOp where
  size : Nat
  op : Nat
  addr : Nat
  v : Nat
  e : Nat
  acquire : Bool
  release : Bool
  scope : Nat
  deriving DecidableEq, Repr

/-- The new value of an integer operation (R284), on numbers of `w` bits; none for a cas that fails. -/
def amoInt (op w old v e : Nat) : Option Nat :=
  let x := BitVec.ofNat w old
  let y := BitVec.ofNat w v
  match op with
  | 0 => some (x + y).toNat
  | 1 => some (x &&& y).toNat
  | 2 => some (x ||| y).toNat
  | 3 => some (x ^^^ y).toNat
  | 4 => some y.toNat
  | 5 => some (if x.slt y then x else y).toNat
  | 6 => some (if x.slt y then y else x).toNat
  | 7 => some (if x.ult y then x else y).toNat
  | 8 => some (if x.ult y then y else x).toNat
  | _ => if old = e then some y.toNat else none

/-- The new value of an operation with the flags that it raises (R284, R286). -/
def amoValue (op w old v e : Nat) : Option Nat × Fp.Flags :=
  let fp (r : Fp.Res) : Option Nat × Fp.Flags := (some r.bits, r.fl)
  match op with
  | 10 => fp (Fp.fadd32 old v)
  | 11 => fp (Fp.fminmax .fp32 false old v)
  | 12 => fp (Fp.fminmax .fp32 true old v)
  | _ => (amoInt op w old v e, .zero)

/-- The message of an amo at an address of the peer window (R447). -/
def amoMsg (vc vf pa : Nat) (o : AmoOp) : LinkMsg :=
  requestMsg vc (sizeCode o.size) vf o.acquire o.release (o.size == 8) (BitVec.ofNat 8 o.op) ((pa - 2 ^ 51) % 2 ^ 44)
    (BitVec.ofNat 640 (o.v + o.e * 2 ^ 64))

/-- An amo through the peer window: the answer to a request of this very operation, or a wait for it (R283, R447 to R449). The die
entry that serves the frame is updated too (R204). -/
def State.amoPeer (s : State) (a : Agent) (vf : Nat) (l : Leaf) (o : AmoOp) : Except Stop (State × Nat) :=
  match s.peerFind a fun r => r.addr == l.pa && r.size == o.size && r.amo && !r.write && r.args == (o.op, o.v, o.e) with
  | some r =>
    match r.resp with
    | none => waitOn .peer
    | some (bs, bad) =>
      if bad then trapAddr 0x71 (l.va / 64 * 64) [.forget r]
      else
        let old := leNat (bs.take o.size)
        match (amoValue o.op (8 * o.size) old o.v o.e).1 with
        | none => .ok (s.peerTake r, old)
        | some n => .ok ((s.peerTake r).updateEntry a ((numbered (leBytes o.size n)).map fun p => (l.pa + p.1, p.2)), old)
  | none =>
    match s.peerPort a.number ((l.pa - 2 ^ 51) / 2 ^ 44) with
    | none => trapAddr 0x71 (l.va / 64 * 64)
    | some p => do
      s.maySend a p l.pa
      .error (.wait .peer [.peer (.mk' a p l.pa o.size false true none (o.op, o.v, o.e)) 0x05 (amoMsg 0 vf l.pa o)])

/-- An amo at the home of its location: one read and one write, adjacent in the home's order (R283). -/
def State.amoHome (s : State) (a : Agent) (vf : Nat) (l : Leaf) (o : AmoOp) (colour : BitVec 3) :
    Except Stop (State × Nat × Fp.Flags) := do
  let line := l.pa / 64
  need (!s.mem.poisoned none (some a) l.pa) (trapAddr 0x71 (l.va / 64 * 64) [.meet [line]])
  s.checkSealed a vf l
  let sight := s.sight a vf l.pa l.enc
  need (sight != .mismatch) (trapAddr 0x71 (l.va / 64 * 64) [.lose [line]])
  need (s.mem.predsIn (homeOf l.pa l.ms) (s.mem.predsOf a)) (waitOn .order)
  let s := s.meetLines [line]
  let m := s.mem.flushOwn a l.pa
  let held (c : Nat × Byte) : Nat × Byte := if sight = .stored then (c.1, s.cipherByte c.1 c.2) else c
  let at_ (bs : List Byte) : List (Nat × Byte) := (numbered bs).map fun p => held (l.pa + p.1, p.2)
  let old := leNat ((at_ (m.readAt none (some a) l.pa o.size)).map Prod.snd)
  let r := amoValue o.op (8 * o.size) old o.v o.e
  match r.1 with
  | none => .ok ({ s with mem := m.mark a l.pa o.size }, old, r.2)
  | some n =>
    let w : WriteRec :=
      { agent := a, vf := vf, cells := at_ (leBytes o.size n), colours := colourBit colour, home := homeOf l.pa l.ms
        enc := sight = .plain && (s.mem.frameKey.lookup (l.pa / 2 ^ 19)).isSome, preds := m.predsOf a, dies := [], chan := none }
    .ok ({ s.noteWrite a vf l [] with mem := (m.enter w).mark a l.pa o.size }, old, r.2)

/-- An amo (R285). -/
def State.amoBody (s : State) (o : AmoOp) (d : Reg) (stop : Bool) : Except Stop State := do
  let vf := s.here.vfid
  checkSpace o.addr o.size .amo
  need (o.addr % o.size == 0) (trapAddr 0x28 o.addr)
  let (s, l) ← s.translate s.me vf o.addr .amo
  s.onward do
    let s := s.flushIf s.cur fun x => x.vf == vf && x.va == o.addr / 64 * 64
    let s ← match if o.release then s.release s.me (dieOf s.cur) o.scope else .ok s with
      | .error (.wait w sides) => .error (.wait w (.evict s.cur vf o.addr :: sides))
      | r => r
    let (s, old, fl) ← match regionOf l.pa with
      | .peer _ => (s.amoPeer s.me vf l o).map fun r => (r.1, r.2, (amoValue o.op (8 * o.size) r.2 o.v o.e).2)
      | _ => s.amoHome s.me vf l o (s.here.csr.coldef.setWidth 3)
    let v := if 10 ≤ o.op then d64 old else sx (8 * o.size) old
    .ok (((s.updHere fun c => c.raiseA fl).setReg d v).done stop)

/-- The operation of an integer amo's word. -/
def State.amoOf (s : State) (op : Nat) (o : RAmo) : AmoOp :=
  let z := if o.dbl then 8 else 4
  { size := z, op := op, addr := (s.reg o.a).toNat, v := (s.reg o.b).toNat % 2 ^ (8 * z)
    e := (s.reg o.d).toNat % 2 ^ (8 * z), acquire := o.acquire, release := o.release, scope := o.scope.toNat + 1 }

/-- The operation of an FP amo's word. -/
def State.amoOfF (s : State) (op : Nat) (o : RAmoF) : AmoOp :=
  { size := 4, op := op, addr := (s.reg o.a).toNat, v := (s.reg o.b).toNat % 2 ^ 32, e := (s.reg o.d).toNat % 2 ^ 32
    acquire := o.acquire, release := o.release, scope := o.scope.toNat + 1 }

/-- AMO_ADD (R285). -/
def execAmoAdd (o : RAmo) (s : State) : Host.Outcome State Fault Refusal :=
  runStream s fun s => s.amoBody (s.amoOf 0 o) o.d o.stop

/-- AMO_AND (R285). -/
def execAmoAnd (o : RAmo) (s : State) : Host.Outcome State Fault Refusal :=
  runStream s fun s => s.amoBody (s.amoOf 1 o) o.d o.stop

/-- AMO_OR (R285). -/
def execAmoOr (o : RAmo) (s : State) : Host.Outcome State Fault Refusal :=
  runStream s fun s => s.amoBody (s.amoOf 2 o) o.d o.stop

/-- AMO_XOR (R285). -/
def execAmoXor (o : RAmo) (s : State) : Host.Outcome State Fault Refusal :=
  runStream s fun s => s.amoBody (s.amoOf 3 o) o.d o.stop

/-- AMO_SWAP (R285). -/
def execAmoSwap (o : RAmo) (s : State) : Host.Outcome State Fault Refusal :=
  runStream s fun s => s.amoBody (s.amoOf 4 o) o.d o.stop

/-- AMO_MIN (R285). -/
def execAmoMin (o : RAmo) (s : State) : Host.Outcome State Fault Refusal :=
  runStream s fun s => s.amoBody (s.amoOf 5 o) o.d o.stop

/-- AMO_MAX (R285). -/
def execAmoMax (o : RAmo) (s : State) : Host.Outcome State Fault Refusal :=
  runStream s fun s => s.amoBody (s.amoOf 6 o) o.d o.stop

/-- AMO_MINU (R285). -/
def execAmoMinu (o : RAmo) (s : State) : Host.Outcome State Fault Refusal :=
  runStream s fun s => s.amoBody (s.amoOf 7 o) o.d o.stop

/-- AMO_MAXU (R285). -/
def execAmoMaxu (o : RAmo) (s : State) : Host.Outcome State Fault Refusal :=
  runStream s fun s => s.amoBody (s.amoOf 8 o) o.d o.stop

/-- AMO_CAS (R285). -/
def execAmoCas (o : RAmo) (s : State) : Host.Outcome State Fault Refusal :=
  runStream s fun s => s.amoBody (s.amoOf 9 o) o.d o.stop

/-- AMO_FADD (R285, R286). -/
def execAmoFadd (o : RAmoF) (s : State) : Host.Outcome State Fault Refusal :=
  runStream s fun s => s.amoBody (s.amoOfF 10 o) o.d o.stop

/-- AMO_FMIN (R285, R286). -/
def execAmoFmin (o : RAmoF) (s : State) : Host.Outcome State Fault Refusal :=
  runStream s fun s => s.amoBody (s.amoOfF 11 o) o.d o.stop

/-- AMO_FMAX (R285, R286). -/
def execAmoFmax (o : RAmoF) (s : State) : Host.Outcome State Fault Refusal :=
  runStream s fun s => s.amoBody (s.amoOfF 12 o) o.d o.stop

/-- FENCE (R271). -/
def execFence (o : RFence) (s : State) : Host.Outcome State Fault Refusal :=
  runStream s fun s =>
    let d := dieOf s.cur
    let n := o.scope.toNat
    if s.mem.performed s.me d n o.mask && (decide (n < 4) || s.peersDone s.me) then
      .ok ({ s with mem := s.mem.setPreds s.me d n }.done o.stop)
    else waitOn .order

end Sys2Proof.Machine
end

