-- ==== Sys2Proof/Machine/Queue.lean ====
section
/-! DEFINITION. Semaphores (R93 to R95), table slots (R138, R150 to R153), and how a command leaves its queue (R81, R88,
R152, R164). -/

namespace Sys2Proof.Machine
open Sys2Proof

/-! ### Semaphores -/

/-- A waiter of a semaphore completes its wait: one that a signal has served, or the first of them where the count is at
least 1 (R94). -/
def Core.semTake (c : Core) (n : Nat) (w : Waiter) : Option Core :=
  let first := (c.waiters.find? fun p => p.1 == n).all fun p => p.2 == w
  let m := c.sem n
  if c.granted.contains (n, w) then some { c with granted := c.granted.filter (· != (n, w)) }
  else if first && m.count != 0 then
    some { c.setSem n { m with count := m.count - 1 } with waiters := c.waiters.filter fun p => p != (n, w) }
  else none

/-- A signal of a semaphore, which serves its waiters in the same cycle (R94); none where the count is at its ceiling
(R89, R96). -/
def Core.semSignal (c : Core) (n : Nat) : Option Core :=
  let m := c.sem n
  if m.count = m.ceiling then none else some ((c.setSem n { m with count := m.count + 1 }).semServe n)

/-- A waiter begins to wait. -/
def Core.semJoin (c : Core) (n : Nat) (w : Waiter) : Core :=
  if c.waiters.contains (n, w) then c else { c with waiters := c.waiters ++ [(n, w)] }

/-! ### Table slots -/

/-- A bank of a slot by number. -/
def TSlot.bank (t : TSlot) (b : Bool) : TBank := if b then t.bank1 else t.bank0

/-- Replaces a bank. -/
def TSlot.setBank (t : TSlot) (b : Bool) (v : TBank) : TSlot := if b then { t with bank1 := v } else { t with bank0 := v }

/-- The active bank (R138). -/
def TSlot.active (t : TSlot) : TBank := t.bank t.flip

/-- The shadow bank (R138). -/
def TSlot.shadow (t : TSlot) : TBank := t.bank (!t.flip)

/-- Replaces the shadow bank. -/
def TSlot.setShadow (t : TSlot) (v : TBank) : TSlot := t.setBank (!t.flip) v

/-- A slot of a core. -/
def Core.slot (c : Core) (n : Nat) : TSlot := SMap.get .init c.slots n

/-- Replaces a slot. -/
def Core.setSlot (c : Core) (n : Nat) (t : TSlot) : Core := { c with slots := SMap.set .init c.slots n t }

/-- Changes a slot. -/
def Core.updSlot (c : Core) (n : Nat) (f : TSlot → TSlot) : Core := c.setSlot n (f (c.slot n))

/-- A slot is owned by the running VF. -/
def Core.owns (c : Core) (n : Nat) : Bool := (c.slot n).owner == some c.vfid

/-- A command is a tload for a slot (R152). -/
def Cmd.loads (k : Cmd) (n : Nat) : Bool :=
  match k.op with
  | .tload _ => k.c1.toNat == n
  | _ => false

/-- A tload for a slot is queued behind the head (R152). -/
def Core.laterLoad (c : Core) (n : Nat) : Bool := c.load.cmds.tail.any fun k => k.loads n

/-- The images in some banks. -/
def Core.images (c : Core) (bs : List (Nat × Bool)) : List (List Byte) := bs.map fun p => ((c.slot p.1).bank p.2).data

/-- The readers of some banks have completed (R150). -/
def Core.endReaders (c : Core) (bs : List (Nat × Bool)) : Core :=
  bs.foldl (fun c p => c.updSlot p.1 fun t =>
    let b := t.bank p.2
    t.setBank p.2 { b with readers := b.readers - 1 }) c

/-- Readers latch some banks. -/
def Core.addReaders (c : Core) (bs : List (Nat × Bool)) : Core :=
  bs.foldl (fun c p => c.updSlot p.1 fun t =>
    let b := t.bank p.2
    t.setBank p.2 { b with readers := b.readers + 1 }) c

/-! ### Leaving a queue -/

/-- A bank without its image; the readers that hold it go on (R150). -/
def TBank.emptied (b : TBank) : TBank := { TBank.empty with readers := b.readers }

/-- A LOADING shadow bank of a slot for which no tload is queued any longer is EMPTY (R152). A bank whose last unit has
arrived is READY (R155), and stays so where its tload is dropped at a signal fault (log entry 110, DEDUCED). -/
def Core.settleLoad (c : Core) (n : Nat) : Core :=
  let t := c.slot n
  if t.shadow.state = 1 && !c.load.cmds.any fun k => k.loads n then c.setSlot n (t.setShadow t.shadow.emptied) else c

/-- An accumulator bank that attn leaves: the words +0, the side registers reset; t and the maps stay (R164). -/
def Bank.afterAttn (b : Bank) : Bank := { b with acc := [], m := [], l := [] }

/-- The quadrant that attn leaves (R164). -/
def Quadrant.afterAttn (q : Quadrant) : Quadrant :=
  { q with act := .empty, shd := .empty, bank0 := q.bank0.afterAttn, bank1 := q.bank1.afterAttn }

/-- The head of a queue that starts a command. -/
def EngQueue.next (e : EngQueue) : EngQueue :=
  { EngQueue.init with head := e.head + 1, cmds := e.cmds.tail }

/-- The head command leaves its queue, retired or dropped (R81, R88, R152, R164). -/
def Core.popHead (c : Core) (q : EngQ) : Core :=
  let e := c.eng q
  let c := c.endReaders e.latch.banks
  match e.cmds with
  | [] => c
  | k :: _ =>
    let c := { c.setEng q e.next with
      waiters := c.waiters.filter fun p => p.2 != Waiter.engine q, granted := c.granted.filter fun p => p.2 != Waiter.engine q }
    match k.op with
    | .tload _ => if k.c1.toNat ≤ 15 then c.settleLoad k.c1.toNat else c
    | .attn _ => if e.begun then { c with quad := c.quad.afterAttn } else c
    | _ => c

/-- The stream whose return lets the command behind a dropped one start (R81): the C-stream where it has taken the fault,
else the writer where it stands in a handler. -/
def Core.dropHolder (c : Core) (x : Bool) (taken : Bool) : Option Bool :=
  if taken && c.c.mode != .node then some false
  else if (c.stream x).mode = .handler then some x
  else none

/-- A write to eqdrop by a stream (R81): only the faulted head of the queue that bits [1:0] name is dropped. The command
behind it starts when the handler returns. -/
def Core.eqdrop (c : Core) (x : Bool) (v : Dword) : Core :=
  let q := qOfCode v.toNat
  if 4 ≤ v.toNat then c
  else
    match (c.eng q).fault with
    | none => c
    | some (_, taken) =>
      let k := c.popHead q
      if (k.eng q).cmds = [] then k else k.setEng q { k.eng q with held := c.dropHolder x taken }

end Sys2Proof.Machine
end

