-- ==== Sys2Proof/Machine/VectorFp.lean ====
section
/-! DEFINITION. Floating-point lane arithmetic, compares and vconf (R120 to R123, R345). -/

namespace Sys2Proof.Machine
open Sys2Proof

/-- Lane arithmetic of two floating-point sources (R120). -/
def State.fpLanes (s : State) (i : Instr) (o : V3) (f : Fp.Fmt → Fp.RMode → Nat → Nat → Fp.Res) : Except Stop State :=
  s.vec2 i o laneType fun c a b =>
    let t := laneFmt c.et
    buildMasked t.bits (c.mask o.k) fun j => f t c.laneMode (elemOf a t.bits j) (elemOf b t.bits j)

/-- VFADD (R120). -/
def execVfadd (o : V3) (s : State) : Host.Outcome State Fault Refusal :=
  runStream s fun s => s.fpLanes (.vfadd o) o Fp.fadd

/-- VFSUB (R120). -/
def execVfsub (o : V3) (s : State) : Host.Outcome State Fault Refusal :=
  runStream s fun s => s.fpLanes (.vfsub o) o Fp.fsub

/-- VFMUL (R120). -/
def execVfmul (o : V3) (s : State) : Host.Outcome State Fault Refusal :=
  runStream s fun s => s.fpLanes (.vfmul o) o Fp.fmul

/-- VFMIN (R120). -/
def execVfmin (o : V3) (s : State) : Host.Outcome State Fault Refusal :=
  runStream s fun s => s.fpLanes (.vfmin o) o fun t _ => Fp.fminmax t false

/-- VFMAX (R120). -/
def execVfmax (o : V3) (s : State) : Host.Outcome State Fault Refusal :=
  runStream s fun s => s.fpLanes (.vfmax o) o fun t _ => Fp.fminmax t true

/-- vfabs and vfneg: the sign bit of every element (R121). -/
def State.signLanes (s : State) (i : Instr) (o : V2) (f : (sign x : Nat) → Nat) : Except Stop State :=
  s.vec1 i o.d o.a o.pa o.stop laneType fun c a =>
    let w := (laneFmt c.et).bits
    buildMasked w (c.mask o.k) fun j => ⟨f (2 ^ (w - 1)) (elemOf a w j), .zero⟩

/-- VFABS (R121). -/
def execVfabs (o : V2) (s : State) : Host.Outcome State Fault Refusal :=
  runStream s fun s => s.signLanes (.vfabs o) o fun g x => x % g

/-- VFNEG (R121). -/
def execVfneg (o : V2) (s : State) : Host.Outcome State Fault Refusal :=
  runStream s fun s => s.signLanes (.vfneg o) o fun g x => x ^^^ g

/-- VFMA (R122). -/
def execVfma (o : V4) (s : State) : Host.Outcome State Fault Refusal :=
  runStream s fun s => do
    s.queues (.vfma o)
    s.here.accept (laneType s.here.et)
    let t := laneFmt s.here.et
    let (a, c) := s.here.takeEntry o.a false
    let (b, c) := c.takeEntry o.b false
    let (z, c) := c.takeEntry o.c false
    let (v, fl) := buildMasked t.bits (s.here.mask o.k) fun j =>
      Fp.ffma t s.here.laneMode o.neg (elemOf a t.bits j) (elemOf b t.bits j) (elemOf z t.bits j)
    .ok ((s.setCore s.cur ((c.pushEntry o.d v).raiseV fl)).done o.stop)

/-! ### Compares (R123) -/

/-- x < y numerically: −0 equals +0, and a NaN is less than nothing. -/
def fpLt (x y : Fp.Val) : Bool := !(x.isZero && y.isZero) && x.below y

/-- x = y numerically. -/
def fpEq (x y : Fp.Val) : Bool := !x.isNan && !y.isNan && !fpLt x y && !fpLt y x

/-- A compare of FP32 lanes; `quiet`: a quiet NaN raises NV too. -/
def State.fpCmp (s : State) (i : Instr) (o : VCmp) (quiet : Bool) (f : Fp.Val → Fp.Val → Bool) : Except Stop State :=
  s.vecCmp i o (fun t => t == 0) fun x y =>
    let p := Fp.decode .fp32 x
    let q := Fp.decode .fp32 y
    (f p q, p.isSnan || q.isSnan || (quiet && (p.isNan || q.isNan)))

/-- VFCMP_EQ (R123). -/
def execVfcmpEq (o : VCmp) (s : State) : Host.Outcome State Fault Refusal :=
  runStream s fun s => s.fpCmp (.vfcmpEq o) o false fpEq

/-- VFCMP_LT (R123). -/
def execVfcmpLt (o : VCmp) (s : State) : Host.Outcome State Fault Refusal :=
  runStream s fun s => s.fpCmp (.vfcmpLt o) o true fpLt

/-- VFCMP_LE (R123). -/
def execVfcmpLe (o : VCmp) (s : State) : Host.Outcome State Fault Refusal :=
  runStream s fun s => s.fpCmp (.vfcmpLe o) o true (fun x y => fpLt x y || fpEq x y)

/-- VFCMP_UN (R123). -/
def execVfcmpUn (o : VCmp) (s : State) : Host.Outcome State Fault Refusal :=
  runStream s fun s => s.fpCmp (.vfcmpUn o) o false (fun x y => x.isNan || y.isNan)

/-- One lane of vconf (R345): whether the token leaves, and the flags of the difference. -/
def confLane (thr x y : Nat) : Bool × Fp.Flags :=
  let d := Fp.fsub .fp32 .rne x y
  let t := Fp.decode .fp32 thr
  let v := Fp.decode .fp32 d.bits
  (!v.isNan && !t.isNan && !fpLt v t, d.fl)

/-- VCONF (R345). -/
def execVconf (o : VCmp) (s : State) : Host.Outcome State Fault Refusal :=
  runStream s fun s => do
    s.queues (.vconf o)
    s.here.accept (s.here.et == 0)
    let k := s.here.mask o.k
    let thr := (SMap.get 0x7F800000 s.here.vec.vcthr (s.here.vec.vcidx.toNat % 32)).toNat % 2 ^ 32
    let (a, c) := s.here.takeEntry o.a o.pa
    let (b, c) := c.takeEntry o.b o.pb
    let r (l : Nat) : Bool × Fp.Flags :=
      if laneOn k l then confLane thr (elemOf a 32 l) (elemOf b 32 l) else (false, .zero)
    let fl := ((List.range 32).map fun l => (r l).2).foldl Fp.Flags.or
      ⟨k != 0 && (Fp.decode .fp32 thr).isSnan, false⟩
    .ok ((s.setCore s.cur ((c.setMask o.d (buildMask fun l => (r l).1)).raiseV fl)).done o.stop)

end Sys2Proof.Machine
end

