-- ==== Sys2Proof/Machine/Tables.lean ====
section
/-! DEFINITION. Function tables (R138 to R160): images, their evaluation, and the instructions tqry, tsel and vfunc. -/

namespace Sys2Proof.Machine
open Sys2Proof

/-! ### The table image (R144, R145) -/

/-- The header of an image, as its bytes. -/
abbrev Image64 := List Byte

/-- NSEG. -/
def tblNseg (h : Image64) : Nat := field h 2 2
/-- IMODE. -/
def tblImode (h : Image64) : Nat := field h 4 1
/-- SGN. -/
def tblSgn (h : Image64) : Bool := bitOf (tblImode h) 7
/-- M. -/
def tblM (h : Image64) : Nat := bitsOf (tblImode h) 3 0
/-- EMIN. -/
def tblEmin (h : Image64) : Nat := field h 5 1
/-- EMAX. -/
def tblEmax (h : Image64) : Nat := field h 6 1
/-- POL. -/
def tblPol (h : Image64) : Nat := field h 7 1
/-- LO. -/
def tblLo (h : Image64) : Nat := field h 8 4
/-- HI. -/
def tblHi (h : Image64) : Nat := field h 0xC 4
/-- FILL. -/
def tblFill (h : Image64) : Nat := field h 0x10 4
/-- The valid bit of segment i. -/
def tblValid (h : Image64) (i : Nat) : Bool := bitOf (field h 0x20 32) i
/-- Exponents of the window. -/
def tblSpan (h : Image64) : Nat := tblEmax h + 1 - tblEmin h

/-- A finite FP32 encoding. -/
def finite32 (x : Nat) : Bool := x / 2 ^ 23 % 256 != 255

/-- A header is valid (R145). -/
def tblOk (h : Image64) : Bool :=
  field h 0 2 == 1 && bitsOf (tblImode h) 6 4 == 0 && bitsOf (tblPol h) 1 0 == 0
    && decide (tblNseg h ≤ 256) && field h 0x20 32 / 2 ^ tblNseg h == 0
    && decide (tblEmin h ≤ tblEmax h) && decide (tblM h ≤ 8)
    && tblNseg h == (if tblSgn h then 2 else 1) * tblSpan h * 2 ^ tblM h
    && finite32 (tblLo h) && finite32 (tblHi h)
    && !fpLt (Fp.decode .fp32 (tblHi h)) (Fp.decode .fp32 (tblLo h))
    && bitsOf (tblPol h) 7 6 != 3 && bitsOf (tblPol h) 5 4 != 3

/-- Bytes of an image (R144). -/
def tblBytes (h : Image64) : Nat := 64 + 20 * tblNseg h

/-- SegIndex (R146) of a finite FP32 encoding. -/
def segIndex (h : Image64) (x : Nat) : Nat :=
  let m := tblM h
  let e := x / 2 ^ 23 % 256
  let p : Nat × Nat :=
    if e < tblEmin h then (tblEmin h, 0)
    else if tblEmax h < e then (tblEmax h, 2 ^ m - 1)
    else (e, x % 2 ^ 23 / 2 ^ (23 - m))
  ((if tblSgn h && bitOf x 31 then 1 else 0) * tblSpan h + (p.1 - tblEmin h)) * 2 ^ m + p.2

/-! ### TEval (R147) -/

/-- What TEval delivers: a value, or a fault code and segment. -/
inductive TRes where
  | val (r : Fp.Res)
  | fault (code : Byte) (seg : Nat)
  deriving DecidableEq, Repr

/-- The polynomial of a segment record. -/
def segEval (g : List Byte) (x : Nat) : Fp.Res :=
  let c (i : Nat) : Nat := field g (4 * i) 4
  let t := Fp.fadd32 x (c 0 ^^^ 2 ^ 31)
  let y := Fp.fma32 (c 4) t.bits (c 3) .rne
  let y2 := Fp.fma32 y.bits t.bits (c 2) .rne
  let y3 := Fp.fma32 y2.bits t.bits (c 1) .rne
  ⟨y3.bits, ((t.fl.or y.fl).or y2.fl).or y3.fl⟩

/-- A bank's segment at a finite input. -/
def segAt (d : List Byte) (x : Nat) : TRes :=
  let i := segIndex d x
  if tblValid d i then .val (segEval ((d.drop (64 + 20 * i)).take 20) x)
  else if bitOf (tblPol d) 3 then .val ⟨tblFill d, .zero⟩
  else .fault 0x41 i

/-- What a domain policy makes of an input beyond a bound. -/
def outside (d : List Byte) (pol bound : Nat) : TRes :=
  if pol = 1 then .fault 0x40 0 else if pol = 2 then .val ⟨tblFill d, .zero⟩ else segAt d bound

/-- TEval. -/
def tEval (d : List Byte) (x : Nat) : TRes :=
  let v := Fp.decode .fp32 x
  let plain (n : Nat) : TRes := .val ⟨n, .zero⟩
  match v with
  | .nan sig => .val ⟨if bitOf (tblPol d) 2 then field d 0x14 4 else 0x7FC00000, ⟨sig, false⟩⟩
  | .inf true => plain (field d 0x1C 4)
  | .inf false => plain (field d 0x18 4)
  | .fin _ _ _ =>
    if fpLt v (Fp.decode .fp32 (tblLo d)) then outside d (bitsOf (tblPol d) 7 6) (tblLo d)
    else if fpLt (Fp.decode .fp32 (tblHi d)) v then outside d (bitsOf (tblPol d) 5 4) (tblHi d)
    else segAt d x

/-- The element word of R149. -/
def elemWord (x slot e : Nat) (code : Byte) (seg : Nat) : Dword :=
  d64 (x * 2 ^ 32 + slot * 2 ^ 24 + (if code = 0x41 then seg * 2 ^ 16 else 0) + e)

/-- A table fault of an element (R149, R418). -/
def tableFault {α : Type} (x slot e : Nat) (code : Byte) (seg : Nat) : Except Stop α :=
  let w := elemWord x slot e code seg
  .error (.trap ⟨code, w, { FaultRec.zero with elem := w }, []⟩)

/-! ### tqry, tsel, vfunc -/

/-- TQRY (R157). -/
def execTqry (o : R2) (s : State) : Host.Outcome State Fault Refusal :=
  let c := s.here
  let t := c.slot ((s.reg o.a).toNat % 16)
  let own := match t.owner with
    | none => 0
    | some v => if v = c.vfid then 1 else 2
  let act := t.active
  let shd := t.shadow
  let word := own * 2 ^ 32 +
    if own = 2 then 0
    else
      (if act.state = 2 then 1 else 0) * 2 ^ 28 + shd.state * 2 ^ 26
        + (if act.state = 2 then tblNseg act.data else 0) * 2 ^ 17
        + (if shd.state = 2 then tblNseg shd.data else 0) * 2 ^ 8 + min 255 (act.readers + shd.readers)
  .next ((s.setReg o.d (d64 word)).done o.stop)

/-- TSEL (R158): the banks change places when its group retires. -/
def execTsel (o : VSel) (s : State) : Host.Outcome State Fault Refusal :=
  runStream s fun s => do
    let n := o.slot.toNat
    let t := s.here.slot n
    need (s.here.owns n) (trapOf 0x42 (d64 n))
    need (t.shadow.state != 1) (waitOn (.tselLoading n))
    need (t.shadow.state != 0) (trapOf 0x43 (d64 n))
    .ok ((s.updHere fun c => c.setSlot n { t with flip := !t.flip }).done o.stop)

/-- One element of vfunc (R159): its input as an FP32 encoding, and its result in the element format. -/
def funcElem (d : List Byte) (et slot : Nat) (md : Fp.RMode) (x e : Nat) : Except Stop Fp.Res :=
  let x32 := if et = 1 then x * 2 ^ 16 else x
  match tEval d x32 with
  | .fault code seg => tableFault x32 slot e code seg
  | .val r =>
    if et = 1 then
      let b := Fp.rndBf16 (Fp.decode .fp32 r.bits) md 0
      .ok ⟨b.bits, r.fl.or b.fl⟩
    else .ok r

/-- VFUNC (R159). -/
def execVfunc (o : VFn) (s : State) : Host.Outcome State Fault Refusal :=
  runStream s fun s => do
    s.queues (.vfunc o)
    let n := o.slot.toNat
    let et := s.here.et
    s.here.accept (laneType et)
    need (s.here.owns n) (trapOf 0x42 (d64 n))
    let bank := (s.here.slot n).active
    need (bank.state = 2) (trapOf 0x43 (d64 n))
    let (a, c) := s.here.takeEntry o.a o.pa
    let w := Fp.codeBits et
    let k := s.here.mask o.k
    let rs ← (List.range (1024 / w)).mapM fun e =>
      if elemOn k w e then funcElem bank.data et n s.here.laneMode (elemOf a w e) e else .ok ⟨0, .zero⟩
    .ok ((s.setCore s.cur ((c.pushEntry o.d (ofElems w (rs.map fun r => r.bits))).raiseV (flagsOf rs))).done o.stop)

end Sys2Proof.Machine
end

