-- ==== Sys2Proof/Machine/Engines.lean ====
section
/-! DEFINITION. The command queues (R86 to R89, R172 to R174): pushing a command, its start, timed issue and retirement, and
the table commands of the transfer load queue (R152 to R156). -/

namespace Sys2Proof.Machine
open Sys2Proof

/-! ### Pushing (R87) -/

/-- A member of a standing or pending fusion (R176). -/
def Quadrant.isMember (q : Quadrant) : Bool := q.role == 2 || q.role == 3

/-- A push on the matrix queue of a member is refused (R176). -/
def State.fusedOut (s : State) (q : EngQ) : Except Stop Unit :=
  need (!(q == .matrix && s.here.quad.isMember)) (trapOf 0x33 (d64 s.here.quad.lead))

/-- The stamp that a timed command captures. -/
def State.stampOf (s : State) (tail : Option Tail) : Dword :=
  match tail.bind Tail.timed with
  | some (_, r) => s.reg r
  | none => 0

/-- A command joins a queue of the core. -/
def Core.enqueue (c : Core) (q : EngQ) (k : Cmd) : Core :=
  let e := c.eng q
  c.setEng q { e with cmds := e.cmds ++ [k] }

/-- A group pushes a command (R87). -/
def State.push (s : State) (q : EngQ) (i : Instr) (c0 c1 c2 : Reg) (tail : Option Tail) (stop : Bool) :
    Except Stop State := do
  s.queues i
  s.fusedOut q
  let k : Cmd := ⟨i, s.reg c0, s.reg c1, s.reg c2, s.stampOf tail⟩
  .ok ((s.updHere fun c => c.enqueue q k).doneTail tail stop)

/-! ### Starting a head command (R88, R172, R173) -/

/-- The tail wait and the beginning of a head command (R88). The node advances where a count changes (R427). -/
def State.beginHead (s : State) (core : Nat) (q : EngQ) (k : Cmd) : State :=
  let c := s.core core
  let go (c : Core) : Core := c.setEng q { c.eng q with begun := true, wait := none }
  match (tailOf k.op).bind Tail.waitSem with
  | none => s.setCore core (go c)
  | some n =>
    match c.semTake n.toNat (.engine q) with
    | some c => s.setCore core { go (c.semServe n.toNat) with advanced := s.tb }
    | none => s.setCore core ((c.semJoin n.toNat (.engine q)).setEng q { c.eng q with wait := some (.tail n.toNat) })

/-- COMMAND_START (R88, steps 1 to 3): the tail wait of an untimed command. Nothing begins in a frozen group (R174). -/
def execCommandStart (core : Nat) (q : EngQ) (s : State) : Host.Outcome State Fault Refusal :=
  let e := (s.core core).eng q
  .next (match e.standing with
    | some k => if e.window = none && !s.frozen core then s.beginHead core q k else s
    | none => s)

/-- SCHEDULE_MISS (R173): the window has closed; on eret the command is retried untimed. -/
def execScheduleMiss (core : Nat) (q : EngQ) (s : State) : Host.Outcome State Fault Refusal :=
  .next (match ((s.core core).eng q).window with
    | some (_, hi) =>
      if hi < (s.gsc core).toNat ∧ !s.frozen core then
        let ns := ((s.core core).waiters.filter fun p => p.2 == Waiter.engine q).map Prod.fst
        let s := (s.updEng core q fun e => { e with untimed := true }).updCore core fun c =>
          ns.foldl Core.semServe { c with waiters := c.waiters.filter fun p => p.2 != Waiter.engine q }
        s.engineFault core q ⟨0x30, 0, .zero, []⟩
      else s
    | none => s)

/-! ### The head command at work -/

/-- A record or descriptor that the head command latched, by number. -/
def EngQueue.latched (e : EngQueue) (i : Nat) : List Byte := e.latch.recs.getD i []

/-- ROWS of an operand record (R165). -/
def recRows (r : List Byte) : Nat := field r 8 2

/-- COLS of an operand record. -/
def recCols (r : List Byte) : Nat := field r 0xA 2

/-- The final step of a head command that has latched its records (R155, R156, R169, R248, R343, R347); none before. A
transfer latches its number of chunks, and attn its number of steps. -/
def EngQueue.final (e : EngQueue) (k : Cmd) : Option Nat :=
  if e.latch.recs = [] then none
  else
    match k.op with
    | .tload _ => some (if tblOk (e.latched 0) then ceilDiv (tblBytes (e.latched 0)) 64 else 1)
    | .mlw _ | .mst _ => some (recRows (e.latched 0))
    | .mmul o => some ((if o.tr then recCols (e.latched 0) else recRows (e.latched 0)) + if o.last then 1 else 0)
    | .mmulSmax _ => some (recRows (e.latched 0))
    | .mlora _ => some (recRows ((e.latched 0).drop 0x20))
    | .xld _ | .xldVfy _ | .xst _ | .xcp _ | .xcpScl _ | .xcpVfy _ | .attn _ => some (leNat (e.latched 0))
    | _ => some 1

/-- The head command's steps are all complete. -/
def EngQueue.finished (e : EngQueue) : Bool :=
  match e.cmds with
  | k :: _ =>
    match e.final k with
    | some n => decide (n ≤ e.step)
    | none => false
  | [] => false

/-- The head command of a queue that may take its next step. -/
def EngQueue.working (e : EngQueue) : Option Cmd :=
  match e.cmds with
  | k :: _ => if e.begun && e.fault.isNone && !e.sigPending && !e.finished then some k else none
  | [] => none

/-- A step of the head command, where it is at work and `f` gives its meaning. -/
def State.headStep (s : State) (core : Nat) (q : EngQ) (f : Cmd → EngQueue → Option (State → Except Stop State)) :
    State :=
  let e := (s.core core).eng q
  match if (s.core core).dbg.halted then none else e.working with
  | none => s
  | some k =>
    match f k e with
    | some body => s.engineStep core q body
    | none => s

/-- A step of a head command that latches before its first one: what it latched stays when that step stops (R150, R167,
R250). `f` gives the latching and the step. -/
def State.latchStep (s : State) (core : Nat) (q : EngQ)
    (f : Cmd → Option ((State → Except Stop State) × (EngQueue → State → Except Stop State))) : State :=
  let s := s.headStep core q fun k e => if e.latch.recs = [] then (f k).map fun p => p.1 else none
  s.headStep core q fun k e => if e.latch.recs = [] then none else (f k).map fun p => p.2 e

/-- The head command has completed one more step. -/
def State.stepUp (s : State) (core : Nat) (q : EngQ) : State := s.updEng core q fun e => { e with step := e.step + 1 }

/-- The head command latches its records. -/
def State.latchRecs (s : State) (core : Nat) (q : EngQ) (rs : List (List Byte)) : State :=
  s.updEng core q fun e => { e with latch := { e.latch with recs := rs } }

/-- A command of a single step takes effect. -/
def State.oneStep (s : State) (core : Nat) (q : EngQ) : State := (s.latchRecs core q [[]]).stepUp core q

/-- An engine fault with nothing beside its cause. -/
def engFault {α : Type} (code : Byte) : Except Stop α := .error (.trap ⟨code, 0, .zero, []⟩)

/-- Release, signal and retirement of a finished head command (R88, R89). The last one of a transform node, which ends there, waits
for the acknowledgements of its writes to peers (R296). -/
def State.retireHead (s : State) (core : Nat) (q : EngQ) (e : EngQueue) (t : Option Tail) : Except Stop State := do
  need (!(s.isTransform core && e.cmds.tail.isEmpty) || s.coreAcked core) (waitOn .order)
  let s ← match t with
    | some t =>
      if t.release && !e.sigPending then s.release (.engine core q) (dieOf core) t.scope.toNat else .ok s
    | none => .ok s
  match t.bind Tail.sigSem with
  | none => .ok (s.updCore core fun c => c.popHead q)
  | some n =>
    match (s.core core).semSignal n.toNat with
    | some c => .ok (s.setCore core (c.popHead q))
    | none => .ok ((s.updEng core q fun e => { e with sigPending := true }).engineFault core q ⟨0x50, 0, .zero, []⟩)

/-- COMMAND_RETIRE (R88, steps 4 to 6; R89). -/
def execCommandRetire (core : Nat) (q : EngQ) (s : State) : Host.Outcome State Fault Refusal :=
  let e := (s.core core).eng q
  .next (match e.cmds with
    | k :: _ =>
      if e.begun && e.fault.isNone && (e.sigPending || e.finished) && !(s.core core).dbg.halted then
        let t := s.engineStep core q fun s => s.retireHead core q e (tailOf k.op)
        match (t.core core).node, t.isTransform core && (t.core core).store.cmds.isEmpty with
        | some id, true => t.endDone id
        | _, _ => t
      else s
    | [] => s)

/-! ### The table commands -/

/-- TLOAD at its push (R152): the shadow bank of an owned slot is LOADING at once. -/
def execTload (o : CTload) (s : State) : Host.Outcome State Fault Refusal :=
  runStream s fun s => do
    let n := (s.reg o.c1).toNat
    let s ← s.push .load (.tload o) o.c0 o.c1 0 o.tail o.stop
    .ok (s.updHere fun c =>
      if n ≤ 15 && c.owns n then c.updSlot n fun t => t.setShadow { t.shadow with state := 1 } else c)

/-- TINVAL at its push. -/
def execTinval (o : CB) (s : State) : Host.Outcome State Fault Refusal :=
  runStream s fun s => s.push .load (.tinval o) 0 o.c1 0 o.tail o.stop

/-- TINVAL_SH at its push. -/
def execTinvalSh (o : CB) (s : State) : Host.Outcome State Fault Refusal :=
  runStream s fun s => s.push .load (.tinvalSh o) 0 o.c1 0 o.tail o.stop

/-- One unit of at most 64 bytes of an image of `len` bytes, at the engine's current step (R155). -/
def State.tloadRead (s : State) (core : Nat) (sp : Bool) (a : Dword) (step len : Nat) : Except Stop (State × List Byte) :=
  let n := min 64 (len - 64 * step)
  if sp then do
    let c := s.core core
    need (a.toNat + len ≤ c.spBytes) (trapAddr 0x29 (a.toNat + 64 * step))
    .ok (s, c.spRead (a.toNat + 64 * step) n)
  else s.readVa (.engine core .load) (s.core core).vfid (a + d64 (64 * step)).toNat n

/-- Ends a load of a slot's shadow bank in a state, unless a later tload for the slot is queued (R152). -/
def Core.endLoad (c : Core) (n state : Nat) : Core :=
  if c.laterLoad n then c
  else c.updSlot n fun t => t.setShadow (if state = 0 then .empty else { t.shadow with state := state })

/-- One step of a tload (R155). -/
def State.tloadStep (s : State) (core : Nat) (sp : Bool) (k : Cmd) (e : EngQueue) : Except Stop State := do
  let n := k.c1.toNat
  need (n ≤ 15 && k.c0.toNat % 64 == 0) (engFault 0x45)
  need ((s.core core).owns n) (engFault 0x42)
  need (e.step != 0 || ((s.core core).slot n).shadow.readers == 0) (waitOn .readers)
  if e.step = 0 then
    let (s, h) ← s.tloadRead core sp k.c0 0 64
    let s := (s.latchRecs core .load [h]).stepUp core .load
    let s := s.updCore core fun c => c.updSlot n fun t => t.setShadow { t.shadow with data := h }
    if !tblOk h then
      .ok ((s.updCore core fun c => c.endLoad n 0).engineFault core .load ⟨0x44, 0, .zero, []⟩)
    else if tblBytes h ≤ 64 then .ok (s.updCore core fun c => c.endLoad n 2)
    else .ok s
  else
    let len := tblBytes (e.latched 0)
    let (s, b) ← s.tloadRead core sp k.c0 e.step len
    let s := (s.updCore core fun c => c.updSlot n fun t =>
      t.setShadow { t.shadow with data := putBytes t.shadow.data (64 * e.step) b }).stepUp core .load
    .ok (if 64 * (e.step + 1) < len then s else s.updCore core fun c => c.endLoad n 2)

/-- TLOAD_UNIT (R155): one 64-byte unit of a tload. -/
def execTloadUnit (core : Nat) (s : State) : Host.Outcome State Fault Refusal :=
  .next (s.headStep core .load fun k e =>
    match k.op with
    | .tload o => some fun s => s.tloadStep core o.sp k e
    | _ => none)

/-- The effect of a tinval on its slot; `sh`: the shadow bank alone (R156). -/
def State.tinvalStep (s : State) (core : Nat) (sh : Bool) (k : Cmd) : Except Stop State := do
  let n := k.c1.toNat
  let c := s.core core
  need (n ≤ 15) (engFault 0x45)
  need (c.c.mode = .device || c.owns n) (engFault 0x42)
  let t := c.slot n
  need (t.shadow.readers == 0 && (sh || t.active.readers == 0)) (waitOn .readers)
  let later := if t.shadow.state = 1 && c.laterLoad n then { TBank.empty with state := 1 } else TBank.empty
  let t := t.setShadow later
  let t := if sh then t else { t.setBank t.flip .empty with owner := none }
  .ok ((s.setCore core (c.setSlot n t)).oneStep core .load)

/-- TINVAL_EFFECT (R156). -/
def execTinvalEffect (core : Nat) (s : State) : Host.Outcome State Fault Refusal :=
  .next (s.headStep core .load fun k _ =>
    match k.op with
    | .tinval _ => some fun s => s.tinvalStep core false k
    | .tinvalSh _ => some fun s => s.tinvalStep core true k
    | _ => none)

end Sys2Proof.Machine
end

