-- ==== Sys2Proof/Machine/VectorConv.lean ====
section
/-! DEFINITION. Conversions, packing and block scales (R125 to R129). -/

namespace Sys2Proof.Machine
open Sys2Proof

/-- Conv (R126): one element from ET to CT; `rb` are its random bits. -/
def convElem (et ct : Nat) (md : Fp.RMode) (nsat : Bool) (rb x : Nat) : Fp.Res :=
  let wt := Fp.codeBits ct
  match Fp.Fmt.ofCode et, Fp.Fmt.ofCode ct with
  | some f, some g =>
    let v := Fp.decode f x
    if f = g then (if v.isNan then ⟨g.nan, ⟨v.isSnan, false⟩⟩ else ⟨x, .zero⟩) else Fp.round v g md nsat rb
  | some f, none => Fp.cvtF2I (Fp.decode f x) wt md
  | none, some g => Fp.round (Fp.ofInt (signed (Fp.codeBits et) x)) g md nsat rb
  | none, none =>
    let i := signed (Fp.codeBits et) x
    let lo : Int := -(2 ^ (wt - 1) : Nat)
    let hi : Int := (2 ^ (wt - 1) : Nat) - 1
    ⟨(BitVec.ofInt wt (max lo (min hi i))).toNat, .zero⟩

/-- Elements per lane of a format code. -/
def perLane (t : Nat) : Nat := 32 / Fp.codeBits t

/-- The parts that vcvt may name (R125): their number. -/
def cvtParts (et ct : Nat) : Nat := max (perLane ct / perLane et) (perLane et / perLane ct)

/-- The source element of destination element i of part p, if it has one (R125). -/
def cvtSource (et ct p i : Nat) : Option Nat :=
  let ns := perLane et
  let nt := perLane ct
  if nt = ns then some i
  else if ns < nt then (if p * 32 * ns ≤ i ∧ i < (p + 1) * 32 * ns then some (i - p * 32 * ns) else none)
  else some (p * 32 * nt + i)

/-- The random bits of destination element i of width w (R27, R125). -/
def randBits (r : Vec) (w i : Nat) : Nat := Fp.srBits (elemOf r 32 (w * i / 32)) (i % (32 / w)) (32 / w)

/-- VCVT (R125, R126). -/
def execVcvt (o : VCvt) (s : State) : Host.Outcome State Fault Refusal :=
  runStream s fun s => do
    s.queues (.vcvt o)
    let et := s.here.et
    let ct := s.here.ct
    s.here.accept (o.part.toNat < cvtParts et ct)
    let (a, c) := s.here.takeEntry o.a o.pa
    let (r, c) := c.takeRandom
    let w := Fp.codeBits ct
    let (v, fl) := buildMasked w (s.here.mask o.k) fun i =>
      match cvtSource et ct o.part.toNat i with
      | none => ⟨0, .zero⟩
      | some j => convElem et ct s.here.rm s.here.nsat (randBits r w i) (elemOf a (Fp.codeBits et) j)
    .ok ((s.setCore s.cur ((c.pushEntry o.d v).raiseV fl)).done o.stop)

/-- VPACK (R127): the low half of every element of va, then of vb. -/
def execVpack (o : V3) (s : State) : Host.Outcome State Fault Refusal :=
  runStream s fun s => s.vec2 (.vpack o) o (fun t => t != 4) fun c a b =>
    let w := Fp.codeBits c.et
    let n := 1024 / w
    buildMasked (w / 2) (c.mask o.k) fun i => ⟨(if i < n then elemOf a w i else elemOf b w (i - n)) % 2 ^ (w / 2), .zero⟩

/-- VUNPACK (R128). -/
def execVunpack (o : VUnpack) (s : State) : Host.Outcome State Fault Refusal :=
  runStream s fun s => s.vec1 (.vunpack o) o.d o.a o.pa o.stop (fun t => t != 0 && t != 6) fun c a =>
    let w := Fp.codeBits c.et
    let n := 512 / w
    buildMasked (2 * w) (c.mask o.k) fun i =>
      ⟨elemOf a w ((if o.part then n else 0) + i) * (if o.h then 2 ^ w else 1), .zero⟩

/-! ### vbscale (R129) -/

/-- |v| ≤ the largest finite value of a format, for a finite v. -/
def withinMax (f : Fp.Fmt) (m : Nat) (e : Int) : Bool :=
  match Fp.decode f f.maxFinite with
  | .fin _ n g => let q := min e g; decide (Fp.scaled false m e q ≤ Fp.scaled false n g q)
  | _ => false

/-- A × 2^(127 − s). -/
def rescale (s : Nat) (v : Fp.Val) : Fp.Val :=
  match v with
  | .fin n m e => .fin n m (e + 127 - s)
  | _ => v

/-- The scale of a block: the smallest that brings every finite element within the format (R129). -/
def blockScale (f : Fp.Fmt) (vs : List Fp.Val) : Nat :=
  let fits (s : Nat) : Bool := vs.all fun v => match rescale s v with | .fin _ m e => withinMax f m e | _ => true
  if vs.all fun v => match v with | .fin _ m _ => m == 0 | _ => true then 0x7F
  else ((List.range 255).find? fits).getD 254

/-- One block: its scale and its codes (R129; under NSAT an infinity raises NV alone: log entry 117, DEDUCED). `rb i` are the random bits of element i of the block. -/
def scaleBlock (f : Fp.Fmt) (md : Fp.RMode) (nsat : Bool) (vs : List Fp.Val) (rb : Nat → Nat) : Nat × List Fp.Res :=
  if f = .e2m1 && nsat && vs.any fun v => v.isNan || v.isInf then
    (0xFF, vs.map fun _ => ⟨0, ⟨true, false⟩⟩)
  else
    let s := blockScale f vs
    (s, ((List.range vs.length).zip vs).map fun p => Fp.round (rescale s p.2) f md nsat (rb p.1))

/-- VBSCALE (R129). -/
def execVbscale (o : V2n) (s : State) : Host.Outcome State Fault Refusal :=
  runStream s fun s => do
    s.queues (.vbscale o)
    let et := s.here.et
    let ct := s.here.ct
    s.here.accept (laneType et && (ct == 2 || ct == 3 || ct == 4))
    let f := (Fp.Fmt.ofCode ct).getD .e4m3
    let k := s.here.mask o.k
    let w := Fp.codeBits et
    let (a, c) := s.here.takeEntry o.a o.pa
    let (r, c) := c.takeRandom
    let src (i : Nat) : Fp.Val := if elemOn k w i then Fp.decode (laneFmt et) (elemOf a w i) else .fin false 0 0
    let blocks := (List.range (1024 / w / 32)).map fun b =>
      scaleBlock f s.here.rm s.here.nsat ((List.range 32).map fun i => src (32 * b + i))
        fun i => randBits r f.bits (32 * b + i)
    let res := blocks.flatMap Prod.snd
    let scales := (blocks.map Prod.fst).foldr (fun x acc => x + 256 * acc) 0
    let s := s.setCore s.cur ((c.pushEntry o.d (ofElems f.bits (res.map fun r => r.bits))).raiseV (flagsOf res))
    .ok ((s.setReg o.b (d64 scales)).done o.stop)

end Sys2Proof.Machine
end

