-- ==== Sys2Proof/Machine/Matrix.lean ====
section
/-! DEFINITION. The matrix commands (R161 to R188): operand records, planes and banks, the side path, online softmax,
factors and fusion. -/

namespace Sys2Proof.Machine
open Sys2Proof

/-! ### Operand records (R165 to R167) -/

/-- BASE. -/
def recBase (r : List Byte) : Nat := field r 0 4
/-- STRIDE. -/
def recStride (r : List Byte) : Nat := field r 4 4
/-- Format code. -/
def recFmt (r : List Byte) : Nat := bitsOf (field r 0xC 1) 3 0
/-- SCL. -/
def recScl (r : List Byte) : Bool := bitOf (field r 0xC 1) 4
/-- Bytes of a stored row. -/
def recRowLen (r : List Byte) : Nat := ceilDiv (recCols r * Fp.codeBits (recFmt r)) 8
/-- Blocks of a stored row. -/
def recBlocks (r : List Byte) : Nat := ceilDiv (recCols r) 32
/-- E4M3, E5M2 or E2M1. -/
def scaled8 (f : Nat) : Bool := f == 2 || f == 3 || f == 4

/-- A region of `rows` rows lies in the scratchpad (R167). -/
def Core.regionIn (c : Core) (base stride rows len : Nat) : Bool := decide (base + (rows - 1) * stride + len ≤ c.spBytes)

/-- The scale record agrees with its operand record (R166). -/
def Core.scaleOk (c : Core) (r t : List Byte) : Bool :=
  recBase t % 64 == 0 && recStride t % 64 == 0 && decide (recBlocks r ≤ recStride t) && recRows t == recRows r
    && recCols t == recBlocks r && field t 0xC 1 == 7 && zeroAt t 0xD 3
    && c.regionIn (recBase t) (recStride t) (recRows t) (recCols t)

/-- The record's own rules (R165 to R167). `ok`: the format codes that are no 0x31; `dest`: SCL may be 0 for FP8 and FP4. -/
def Core.recOk (c : Core) (r t : List Byte) (ok : Nat → Bool) (maxRows maxCols : Nat) (dest : Bool) : Bool :=
  bitsOf (field r 0xC 1) 7 5 == 0 && zeroAt r 0xD 3 && ok (recFmt r)
    && decide (1 ≤ recRows r ∧ recRows r ≤ maxRows) && decide (1 ≤ recCols r ∧ recCols r ≤ maxCols)
    && recBase r % 16 == 0 && recStride r % 16 == 0 && decide (recRowLen r ≤ recStride r)
    && c.regionIn (recBase r) (recStride r) (recRows r) (recRowLen r)
    && (recScl r == scaled8 (recFmt r) || (dest && !recScl r)) && (!recScl r || c.scaleOk r t)

/-- The operand record at an offset, with the scale record behind it where SCL = 1 (zeros elsewhere); none where R167
refuses it. -/
def Core.recordAt (c : Core) (off : Nat) (ok : Nat → Bool) (maxRows maxCols : Nat) (dest : Bool) : Option (List Byte) :=
  let r := c.spRead off 16
  let t := if recScl r then c.spRead (off + 16) 16 else List.replicate 16 0
  if off % 16 = 0 ∧ off + (if recScl r then 32 else 16) ≤ c.spBytes ∧ c.recOk r t ok maxRows maxCols dest then
    some (r ++ t)
  else none

/-- The same, with engine fault 0x31. -/
def Core.record (c : Core) (off : Dword) (ok : Nat → Bool) (maxRows maxCols : Nat) (dest : Bool := false) :
    Except Stop (List Byte) :=
  match c.recordAt off.toNat ok maxRows maxCols dest with
  | some r => .ok r
  | none => engFault 0x31

/-- Every format code that is not reserved (R18). -/
def anyFmt (f : Nat) : Bool := decide (f ≤ 8)

/-- The elements of stored row i, from element `lo`, `n` of them. -/
def Core.recRow (c : Core) (r : List Byte) (i lo n : Nat) : List Nat :=
  let w := Fp.codeBits (recFmt r)
  let at_ := recBase r + i * recStride r
  (List.range n).map fun j =>
    let e := lo + j
    if w = 4 then leNat (c.spRead (at_ + e / 2) 1) / 16 ^ (e % 2) % 16 else leNat (c.spRead (at_ + e * (w / 8)) (w / 8))

/-- The scale of block j of stored row i; 1.0 where no scale record follows (R19). -/
def Core.recScale (c : Core) (r : List Byte) (i j : Nat) : Nat :=
  if recScl r then leNat (c.spRead (recBase (r.drop 16) + i * recStride (r.drop 16) + j) 1) else 0x7F

/-! ### The quadrant -/

/-- K of the array (R175). -/
def Quadrant.arrayK (q : Quadrant) : Nat := if !q.pending && (q.shape == 2 || q.shape == 3) then 128 else 64
/-- N of the array (R175). -/
def Quadrant.arrayN (q : Quadrant) : Nat := if !q.pending && (q.shape == 1 || q.shape == 3) then 128 else 64

/-- An accumulator bank. -/
def Quadrant.bank (q : Quadrant) (b : Bool) : Bank := if b then q.bank1 else q.bank0

/-- Changes an accumulator bank. -/
def Quadrant.updBank (q : Quadrant) (b : Bool) (f : Bank → Bank) : Quadrant :=
  if b then { q with bank1 := f q.bank1 } else { q with bank0 := f q.bank0 }

/-- Changes the quadrant of a core. -/
def State.updQuad (s : State) (core : Nat) (f : Quadrant → Quadrant) : State :=
  s.updCore core fun c => { c with quad := f c.quad }

/-- Changes a bank of a core. -/
def State.updBank (s : State) (core : Nat) (b : Bool) (f : Bank → Bank) : State :=
  s.updQuad core fun q => q.updBank b f

/-- The bank that a register value names: every other bit is zero (R181). -/
def bankOf (v : Dword) : Except Stop Bool := if v.toNat ≤ 1 then .ok (v.toNat == 1) else engFault 0x31

/-- A word of a bank. -/
def Bank.word (b : Bank) (row n : Nat) : Nat := (SMap.get (0 : Word) b.acc (128 * row + n)).toNat
/-- m of a row. -/
def Bank.max (b : Bank) (row : Nat) : Nat := (SMap.get (0xFF800000 : Word) b.m row).toNat
/-- l of a row. -/
def Bank.sum (b : Bank) (row : Nat) : Nat := (SMap.get (0 : Word) b.l row).toNat
/-- t of a row and rank index. -/
def Bank.inter (b : Bank) (row rho : Nat) : Nat := (SMap.get (0 : Word) b.t (64 * row + rho)).toNat

/-- Words written from a key on. -/
def putWords (d : Word) (m : SMap Word) (k : Nat) (ws : List Nat) : SMap Word :=
  ((List.range ws.length).zip ws).foldl (fun (m : SMap Word) (p : Nat × Nat) => SMap.set d m (k + p.1) (BitVec.ofNat 32 p.2)) m

/-- Writes words of a row. -/
def Bank.putRow (b : Bank) (row : Nat) (ws : List Nat) : Bank := { b with acc := putWords 0 b.acc (128 * row) ws }

/-- A plane element (R161). -/
def Plane.elem (p : Plane) (k n : Nat) : Nat := (SMap.get (0 : Word) p.elems (128 * k + n)).toNat
/-- A plane scale. -/
def Plane.scale (p : Plane) (g n : Nat) : Nat := (SMap.get (0x7F : Byte) p.scales (128 * g + n)).toNat

/-- A code of a format as a value. -/
def codeVal (f x : Nat) : Fp.Val :=
  match Fp.Fmt.ofCode f with
  | some g => Fp.decode g x
  | none => .fin false 0 0

/-- The matrix records read at step 0: the head command latches them. -/
def Core.matrixRec (c : Core) : List Byte := c.matrix.latched 0

/-! ### mlw, mswap (R182) -/

/-- MLW at its push. -/
def execMlw (o : CMlw) (s : State) : Host.Outcome State Fault Refusal :=
  runStream s fun s => s.push .matrix (.mlw o) o.c0 0 0 o.tail o.stop

/-- MSWAP at its push. -/
def execMswap (o : C0) (s : State) : Host.Outcome State Fault Refusal :=
  runStream s fun s => s.push .matrix (.mswap o) 0 0 0 o.tail o.stop

/-- Step 0 of mlw: its record. The checks come first, since a step is atomic (R169). -/
def State.mlwBegin (s : State) (core : Nat) (o : CMlw) (k : Cmd) : Except Stop State := do
  let c := s.core core
  let (rows, cols) := if o.tr then (c.quad.arrayK, c.quad.arrayN) else (c.quad.arrayN, c.quad.arrayK)
  let r ← c.record k.c0 anyFmt rows cols
  let f := recFmt r
  need (decide (1 ≤ f ∧ f ≤ 5) && (!o.tr || f == 1 || f == 5)) (engFault 0x32)
  let (kp, np) := if o.tr then (recRows r, recCols r) else (recCols r, recRows r)
  let s := s.latchRecs core .matrix [r]
  .ok (s.updQuad core fun q => { q with shd := ⟨false, BitVec.ofNat 4 f, kp, np, [], []⟩ })

/-- Stored row i joins the shadow plane. -/
def Core.mlwRow (c : Core) (tr : Bool) (i : Nat) : Plane :=
  let r := c.matrixRec
  let p := c.quad.shd
  let row := c.recRow r i 0 (recCols r)
  let key (j : Nat) : Nat := if tr then 128 * i + j else 128 * j + i
  let put (m : SMap Word) (e : Nat × Nat) : SMap Word := SMap.set 0 m (key e.1) (BitVec.ofNat 32 e.2)
  let putS (m : SMap Byte) (j : Nat) : SMap Byte := SMap.set 0x7F m (128 * j + i) (BitVec.ofNat 8 (c.recScale r i j))
  { p with
    elems := ((List.range row.length).zip row).foldl put p.elems
    scales := if recScl r then (List.range (recBlocks r)).foldl putS p.scales else p.scales
    ready := decide (i + 1 = recRows r) }

/-- MLW_ROW (R182). -/
def execMlwRow (core : Nat) (s : State) : Host.Outcome State Fault Refusal :=
  .next (s.headStep core .matrix fun k e =>
    match k.op with
    | .mlw o => some fun s => do
      let s ← if e.step = 0 then s.mlwBegin core o k else .ok s
      .ok ((s.updQuad core fun q => { q with shd := (s.core core).mlwRow o.tr e.step }).stepUp core .matrix)
    | _ => none)

/-- MSWAP_EXCHANGE (R182). -/
def execMswapExchange (core : Nat) (s : State) : Host.Outcome State Fault Refusal :=
  .next (s.headStep core .matrix fun k _ =>
    match k.op with
    | .mswap _ => some fun s => do
      need ((s.core core).quad.shd.ready) (engFault 0x36)
      .ok ((s.updQuad core fun q => { q with act := q.shd, shd := q.act }).oneStep core .matrix)
    | _ => none)

/-! ### The side path (R178, R179, R37) -/

/-- The slots of a row group's pairs: the tenant pair first, then the compensation pair. -/
def Bank.pairs (b : Bank) (g : Nat) : List Nat :=
  [SMap.get (0 : Byte) b.tenant g, SMap.get (0 : Byte) b.comp g].filterMap fun x =>
    if x.getLsbD 7 then some (x.toNat % 16) else none

/-- A factor slot. -/
def Quadrant.factor (q : Quadrant) (n : Nat) : Factor := SMap.get .empty q.slots n

/-- RANK of a factor. -/
def Factor.rank (f : Factor) : Nat := field f.desc 0x44 2
/-- AREC with ASCL. -/
def Factor.arec (f : Factor) : List Byte := f.desc.take 0x20
/-- BREC with BSCL. -/
def Factor.brec (f : Factor) : List Byte := (f.desc.drop 0x20).take 0x20
/-- ALPHA. -/
def Factor.alpha (f : Factor) : Nat := field f.desc 0x40 4

/-- The rank indices of a row group: slot and rank within its pair, in combined order. -/
def Quadrant.ranks (q : Quadrant) (b : Bank) (g : Nat) : List (Nat × Nat) :=
  (b.pairs g).flatMap fun n => (List.range (q.factor n).rank).map fun i => (n, i)

/-- The 0x35 conditions of R179 hold nowhere: every mapped slot of the bank is checked. -/
def Quadrant.sideOk (q : Quadrant) (b : Bank) (korg k : Nat) (last : Bool) : Bool :=
  (List.range 8).all fun g =>
    (b.pairs g).all (fun n =>
      let f := q.factor n
      f.ready && decide (korg + k ≤ recCols f.arec) && (!last || decide (q.act.np ≤ recRows f.brec)))
      && decide ((q.ranks b g).length ≤ 64)

/-- Some row group of a bank is mapped. -/
def Bank.mapped (b : Bank) : Bool := (List.range 8).any fun g => (b.pairs g) != []

/-- Groups of 32 of a list (R34). -/
def groups32 {α : Type} (l : List α) : List (List α) :=
  (List.range (ceilDiv l.length 32)).map fun g => (l.drop (32 * g)).take 32

/-- Numbers a list from 0. -/
def indexed {α : Type} (l : List α) : List (Nat × α) := (List.range l.length).zip l

/-- An accumulation of group sums in ascending order (R34). -/
def accumulate (a : Nat) (gs : List Fp.Res) : Fp.Res := gs.foldl Fp.Res.add ⟨a, .zero⟩

/-- A row of activations: its elements and the scales of its blocks. -/
structure ARow where
  fmt : Nat
  elems : List Nat
  scales : List Nat
  deriving DecidableEq, Repr

/-- Row r of A (R183). -/
def Core.aRow (c : Core) (a : List Byte) (tr : Bool) (r : Nat) : ARow :=
  if tr then
    let xs := (List.range (recRows a)).flatMap fun i => c.recRow a i r 1
    ⟨recFmt a, xs, List.replicate (ceilDiv xs.length 32) 0x7F⟩
  else ⟨recFmt a, c.recRow a r 0 (recCols a), (List.range (recBlocks a)).map fun j => c.recScale a r j⟩

/-- The group sums of a row with a second operand: element k and the scale of group g. -/
def ARow.sums (x : ARow) (f : Nat) (el : Nat → Nat) (sc : Nat → Nat) : List Fp.Res :=
  (indexed (groups32 x.elems)).map fun p =>
    let b := (List.range p.2.length).map fun i => codeVal f (el (32 * p.1 + i))
    Fp.groupSum (p.2.map (codeVal x.fmt)) b (x.scales.getD p.1 0x7F) (sc p.1)

/-- The t updates of one row (R179, step 2). -/
def Core.sideRow (c : Core) (b : Bank) (x : ARow) (korg r : Nat) : List Fp.Res :=
  (indexed (c.quad.ranks b (r / 8))).map fun p =>
    let a := (c.quad.factor p.2.1).arec
    let row := c.recRow a p.2.2 korg x.elems.length
    accumulate (b.inter r p.1) (x.sums (recFmt a) (fun k => row.getD k 0) fun g => c.recScale a p.2.2 (korg / 32 + g))

/-! ### mmul (R183) -/

/-- MMUL at its push. -/
def execMmul (o : CMmul) (s : State) : Host.Outcome State Fault Refusal :=
  runStream s fun s => s.push .matrix (.mmul o) o.c0 o.c1 0 o.tail o.stop

/-- MMUL_SMAX at its push. -/
def execMmulSmax (o : C3) (s : State) : Host.Outcome State Fault Refusal :=
  runStream s fun s => s.push .matrix (.mmulSmax o) o.c0 o.c1 o.c2 o.tail o.stop

/-- bank and korg of c1 (R181). -/
def bankKorg (v : Dword) : Except Stop (Bool × Nat) :=
  let n := v.toNat
  if bitsOf n 15 1 = 0 ∧ n / 2 ^ 32 = 0 ∧ bitsOf n 31 16 % 32 = 0 then .ok (bitOf n 0, bitsOf n 31 16) else engFault 0x31

/-- BF16, E4M3, E5M2 or E2M1. -/
def floatFmt (f : Nat) : Bool := decide (1 ≤ f ∧ f ≤ 4)

/-- A format that is listed for some A (R168). -/
def aFmt (f : Nat) : Bool := decide (f ≤ 5)

/-- Step 0 of mmul (R183). -/
def State.mmulBegin (s : State) (core : Nat) (o : CMmul) (k : Cmd) : Except Stop State := do
  let c := s.core core
  let q := c.quad
  let (b, korg) ← bankKorg k.c1
  let a ← c.record k.c0 anyFmt (if o.tr then q.arrayK else 64) (if o.tr then 64 else q.arrayK)
  let f := recFmt a
  need ((floatFmt f || f == 5) && (!o.tr || f == 1 || f == 5)) (engFault 0x32)
  need q.act.ready (engFault 0x36)
  need (if f = 5 then q.act.fmt = 5 else floatFmt q.act.fmt.toNat) (engFault 0x32)
  need (q.sideOk (q.bank b) korg (if o.tr then recRows a else recCols a) o.last) (engFault 0x35)
  need (f != 5 || !(q.bank b).mapped) (engFault 0x32)
  let s := s.latchRecs core .matrix [a]
  .ok (if o.first then s.updBank core b fun x => { x with t := [] } else s)

/-- One row of mmul: the words, the t values and the flags. -/
def Core.mmulRow (c : Core) (tr : Bool) (b : Bank) (korg r : Nat) : List Fp.Res × List Fp.Res :=
  let x := c.aRow c.matrixRec tr r
  let p := c.quad.act
  let word (n : Nat) : Fp.Res :=
    if x.fmt = 5 then
      let add (a : Nat) (g : Nat × List Nat) : Nat :=
        let ys := (List.range g.2.length).map fun i => signed 8 (p.elem (32 * g.1 + i) n)
        (BitVec.ofInt 32 (a + Fp.intGroupSum (g.2.map (signed 8)) ys)).toNat
      ⟨(indexed (groups32 x.elems)).foldl add (b.word r n), .zero⟩
    else accumulate (b.word r n) (x.sums p.fmt.toNat (fun k => p.elem k n) fun g => p.scale g n)
  ((List.range p.np).map word, c.sideRow b x korg r)

/-- MMUL_ROW (R183): one A row with its t updates. -/
def execMmulRow (core : Nat) (s : State) : Host.Outcome State Fault Refusal :=
  .next (s.headStep core .matrix fun k e =>
    match k.op with
    | .mmul o => some fun s => do
      let s ← if e.step = 0 then s.mmulBegin core o k else .ok s
      let (b, korg) ← bankKorg k.c1
      let c := s.core core
      let m := if o.tr then recCols c.matrixRec else recRows c.matrixRec
      if m ≤ e.step then .ok s
      else
        let (ws, ts) := c.mmulRow o.tr (c.quad.bank b) korg e.step
        let s := s.updBank core b fun x =>
          { x.putRow e.step (ws.map fun r => r.bits) with t := putWords 0 x.t (64 * e.step) (ts.map fun r => r.bits) }
        .ok ((s.updCore core fun c => c.raiseM ((flagsOf ws).or (flagsOf ts))).stepUp core .matrix)
    | _ => none)

/-- The correction of one row (R37, steps 2 to 4): its words. -/
def Quadrant.correct (q : Quadrant) (b : Bank) (r : Nat) : List Fp.Res :=
  let rs := indexed (q.ranks b (r / 8))
  let term (n : Nat) (p : Nat × Nat × Nat) : Nat × Nat × Fp.Val × Nat :=
    let f := q.factor p.2.1
    let fm := recFmt f.brec
    let x := Fp.packedElem (f.rows.getD n []) (Fp.codeBits fm) p.2.2
    let sc := if recScl f.brec then ((f.scales.getD n []).getD (p.2.2 / 32) 0).toNat else 0x7F
    (f.alpha, b.inter r p.1, codeVal fm x, sc)
  (List.range q.act.np).map fun n =>
    accumulate (b.word r n) ((groups32 rs).map fun g => Fp.sideSum (g.map (term n)))

/-- The rows below m whose row group is mapped. -/
def Bank.mappedRows (b : Bank) (m : Nat) : List Nat := (List.range m).filter fun r => b.pairs (r / 8) != []

/-- SIDE_CORRECTION (R179, step 3): the last step of mmul.last. -/
def execSideCorrection (core : Nat) (s : State) : Host.Outcome State Fault Refusal :=
  .next (s.headStep core .matrix fun k e =>
    match k.op with
    | .mmul o =>
      if !o.last || e.step != (if o.tr then recCols (e.latched 0) else recRows (e.latched 0)) || e.latch.recs == [] then none
      else some fun s => do
        let (b, _) ← bankKorg k.c1
        let q := (s.core core).quad
        let bk := q.bank b
        let rows := (bk.mappedRows e.step).map fun r => (r, q.correct bk r)
        let s := rows.foldl (fun s p => s.updBank core b fun x =>
          { x.putRow p.1 (p.2.map fun r => r.bits) with t := putWords 0 x.t (64 * p.1) (List.replicate 64 0) }) s
        .ok ((s.updCore core fun c => c.raiseM (flagsOf (rows.flatMap Prod.snd))).stepUp core .matrix)
    | _ => none)

/-! ### mmul.smax (R184) -/

/-- Step 0 of mmul.smax. 0x34 and then 0x42 and 0x43 come after the checks of the record and of the plane; no rule orders them (log
entry 43, DEDUCED). -/
def State.smaxBegin (s : State) (core : Nat) (k : Cmd) : Except Stop State := do
  let c := s.core core
  let q := c.quad
  let _ ← bankKorg k.c1
  need (k.c2.toNat ≤ 15) (engFault 0x31)
  let a ← c.record k.c0 anyFmt 64 q.arrayK
  need (aFmt (recFmt a)) (engFault 0x32)
  need q.act.ready (engFault 0x36)
  need (recFmt a == 0 && decide (1 ≤ q.act.fmt.toNat ∧ q.act.fmt.toNat ≤ 3)) (engFault 0x32)
  need (q.pending || q.shape == 0 || q.shape == 1) (engFault 0x34)
  let n := k.c2.toNat
  need (c.owns n) (engFault 0x42)
  need ((c.slot n).active.state == 2) (engFault 0x43)
  let bs := [(n, (c.slot n).flip)]
  .ok ((s.updCore core fun c => c.addReaders bs).updEng core .matrix fun e =>
    { e with latch := { e.latch with recs := [a], banks := bs, images := c.images bs } })

/-- TEval of an FP32 encoding, with the fault of element j (R149). -/
def evalAt (d : List Byte) (slot x j : Nat) : Except Stop Fp.Res :=
  match tEval d x with
  | .val r => .ok r
  | .fault code seg => tableFault x slot j code seg

/-- x − y of two FP32 encodings. -/
def fsub32 (x y : Nat) : Fp.Res := Fp.fadd32 x (y ^^^ 2 ^ 31)

/-- An encoding of a format as FP32, exactly. -/
def widen (f : Fp.Fmt) (x : Nat) : Fp.Res := Fp.round (Fp.decode f x) .fp32 .rne false 0

/-- What one row of online softmax leaves: words, m, l and flags. -/
structure Smax where
  words : List Nat
  m : Nat
  l : Nat
  fl : Fp.Flags
  deriving DecidableEq, Repr

/-- The exponential of each score, as TEval gives it: −∞ makes +0 (R184). -/
def smaxExp (d : List Byte) (slot m1 : Nat) (xs : List Nat) : Except Stop (List Fp.Res) :=
  (indexed xs).mapM fun p =>
    if p.2 = 0xFF800000 then .ok ⟨0, .zero⟩
    else do
      let y := fsub32 p.2 m1
      let r ← evalAt d slot y.bits p.1
      .ok ⟨r.bits, y.fl.or r.fl⟩

/-- Online softmax over one row of scores (R184): the words and side registers before it, the value operand V by element
and scale, and its format. -/
def smaxRow (d : List Byte) (slot : Nat) (xs : List Nat) (words : List Nat) (m l : Nat) (f : Fp.Fmt)
    (v : Nat → Nat → Fp.Val) (sv : Nat → Nat → Nat) : Except Stop Smax := do
  let mx := Fp.treeMinMax true (xs ++ List.replicate (64 - xs.length) 0xFF800000)
  let m1 := Fp.fminmax .fp32 true m mx.bits
  let alpha ← if fpEq (Fp.decode .fp32 m) (Fp.decode .fp32 m1.bits) then .ok (⟨0x3F800000, .zero⟩ : Fp.Res)
    else
      let y := fsub32 m m1.bits
      let r ← evalAt d slot y.bits 0
      .ok ⟨r.bits, y.fl.or r.fl⟩
  let es ← smaxExp d slot m1.bits xs
  let ps := es.map fun e => Fp.round (Fp.decode .fp32 e.bits) f .rne false 0
  let pv := ps.map fun p => Fp.decode f p.bits
  let word (n w : Nat) : Fp.Res :=
    let a := Fp.fmul32 w alpha.bits
    let gs := (indexed (groups32 pv)).map fun g =>
      Fp.groupSum g.2 ((List.range g.2.length).map fun i => v (32 * g.1 + i) n) 0x7F (sv g.1 n)
    let r := accumulate a.bits gs
    ⟨r.bits, a.fl.or r.fl⟩
  let ws := (indexed words).map fun p => word p.1 p.2
  let ds := ps.map fun p => widen f p.bits
  let ts := Fp.treeSum ((ds.map fun r => r.bits) ++ List.replicate (64 - ds.length) 0x80000000)
  let la := Fp.fmul32 l alpha.bits
  let l1 := Fp.fadd32 la.bits ts.bits
  let fl := flagsOf ([mx, m1, alpha, ts, la, l1] ++ es ++ ps ++ ds ++ ws)
  .ok ⟨ws.map fun r => r.bits, m1.bits, l1.bits, fl⟩

/-- A bank after a row of online softmax. -/
def Bank.putSmax (b : Bank) (row : Nat) (r : Smax) : Bank :=
  { b.putRow row r.words with
    m := SMap.set 0xFF800000 b.m row (BitVec.ofNat 32 r.m), l := SMap.set 0 b.l row (BitVec.ofNat 32 r.l) }

/-- A latched table bank: its slot and the image that the reader keeps (R150). -/
def EngQueue.latchedBank (e : EngQueue) (i : Nat) : Nat × List Byte :=
  (((e.latch.banks[i]?).map Prod.fst).getD 0, e.latch.images.getD i [])

/-- The row of mmul.smax at the head command's step. -/
def State.smaxStep (s : State) (core : Nat) (k : Cmd) : Except Stop State := do
  let (b, _) ← bankKorg k.c1
  let c := s.core core
  let i := c.matrix.step
  let p := c.quad.act
  let bk := c.quad.bank b
  let (slot, d) := c.matrix.latchedBank 0
  let r ← smaxRow d slot (c.recRow c.matrixRec i 0 (recCols c.matrixRec)) ((List.range p.np).map (bk.word i)) (bk.max i)
    (bk.sum i) ((Fp.Fmt.ofCode p.fmt.toNat).getD .bf16) (fun k n => codeVal p.fmt.toNat (p.elem k n)) p.scale
  let s := s.updBank core b fun x => x.putSmax i r
  .ok ((s.updCore core fun c => c.raiseM r.fl).stepUp core .matrix)

/-- MMUL_SMAX_ROW (R184). A table fault of row 0 leaves the records and banks latched (R150, R167). -/
def execMmulSmaxRow (core : Nat) (s : State) : Host.Outcome State Fault Refusal :=
  .next (s.latchStep core .matrix fun k =>
    match k.op with
    | .mmulSmax _ => some (fun s => s.smaxBegin core k, fun _ s => s.smaxStep core k)
    | _ => none)

/-! ### mst (R185) -/

/-- MST at its push. -/
def execMst (o : CMst) (s : State) : Host.Outcome State Fault Refusal :=
  runStream s fun s => s.push .matrix (.mst o) o.c0 o.c1 0 o.tail o.stop

/-- The formats of a destination. -/
def destFmt (f : Nat) : Bool := decide (f ≤ 6)

/-- Words as a destination's elements and scales (R185). -/
def storeCodes (f : Nat) (scl : Bool) (md : Fp.RMode) (nsat : Bool) (ws : List Nat) : List Nat × List Nat × Fp.Flags :=
  match Fp.Fmt.ofCode f with
  | none =>
    if f = 5 then
      (ws.map fun w => (BitVec.ofInt 8 (max (-128) (min 127 (signed 32 w)))).toNat, [], .zero)
    else (ws, [], .zero)
  | some .fp32 => (ws, [], .zero)
  | some .bf16 =>
    let rs := ws.map fun w => Fp.rndBf16 (Fp.decode .fp32 w) md 0
    (rs.map fun r => r.bits, [], flagsOf rs)
  | some g =>
    if scl then
      let bl := (groups32 (ws.map fun w => Fp.decode .fp32 w)).map fun vs => scaleBlock g md nsat vs fun _ => 0
      let rs := bl.flatMap Prod.snd
      (rs.map fun r => r.bits, bl.map Prod.fst, flagsOf rs)
    else
      let rs := ws.map fun w => Fp.round (Fp.decode .fp32 w) g md nsat 0
      (rs.map fun r => r.bits, [], flagsOf rs)

/-- Writes stored row i of a record. -/
def Core.putRecRow (c : Core) (r : List Byte) (i : Nat) (codes scales : List Nat) : Core :=
  let c := c.spWrite (recBase r + i * recStride r) (packBytes (Fp.codeBits (recFmt r)) codes)
  if recScl r then
    c.spWrite (recBase (r.drop 16) + i * recStride (r.drop 16)) (scales.map (BitVec.ofNat 8))
  else c

/-- Step 0 of mst. -/
def State.mstBegin (s : State) (core : Nat) (o : CMst) (k : Cmd) : Except Stop State := do
  let c := s.core core
  let r ← c.record k.c0 destFmt 64 c.quad.arrayN true
  need (!o.side || (recFmt r == 0 && recCols r == 2)) (engFault 0x31)
  .ok (s.latchRecs core .matrix [r])

/-- MST_ROW (R185). -/
def execMstRow (core : Nat) (s : State) : Host.Outcome State Fault Refusal :=
  .next (s.headStep core .matrix fun k e =>
    match k.op with
    | .mst o => some fun s => do
      let b ← bankOf k.c1
      let s ← if e.step = 0 then s.mstBegin core o k else .ok s
      let c := s.core core
      let r := c.matrixRec
      let bk := c.quad.bank b
      let ws := if o.side then [bk.max e.step, bk.sum e.step] else (List.range (recCols r)).map (bk.word e.step)
      let (cs, ss, fl) := storeCodes (recFmt r) (recScl r) (if o.rtz then .rtz else .rne) o.nsat ws
      .ok ((s.updCore core fun c => (c.putRecRow r e.step cs ss).raiseM fl).stepUp core .matrix)
    | _ => none)

/-! ### mzero, mamap (R186) -/

/-- MZERO at its push. -/
def execMzero (o : C1) (s : State) : Host.Outcome State Fault Refusal :=
  runStream s fun s => s.push .matrix (.mzero o) o.c0 0 0 o.tail o.stop

/-- MAMAP at its push. -/
def execMamap (o : C3) (s : State) : Host.Outcome State Fault Refusal :=
  runStream s fun s => s.push .matrix (.mamap o) o.c0 o.c1 o.c2 o.tail o.stop

/-- MZERO_EFFECT (R186): the maps are kept. -/
def execMzeroEffect (core : Nat) (s : State) : Host.Outcome State Fault Refusal :=
  .next (s.headStep core .matrix fun k _ =>
    match k.op with
    | .mzero _ => some fun s => do
      let b ← bankOf k.c0
      .ok ((s.updBank core b fun x => { x with acc := [], m := [], l := [], t := [] }).oneStep core .matrix)
    | _ => none)

/-- Bits [6:4] of every byte of a map are zero. -/
def mapOk (v : Dword) : Bool := v &&& 0x7070707070707070 == 0

/-- A map from its register: entries with valid clear mean none. -/
def mapBytes (v : Dword) : SMap Byte :=
  (List.range 8).foldl (fun m g =>
    let b := v.extractLsb' (8 * g) 8
    SMap.set 0 m g (if b.getLsbD 7 then b else 0)) []

/-- MAMAP_EFFECT (R186). -/
def execMamapEffect (core : Nat) (s : State) : Host.Outcome State Fault Refusal :=
  .next (s.headStep core .matrix fun k _ =>
    match k.op with
    | .mamap _ => some fun s => do
      let b ← bankOf k.c0
      need (mapOk k.c1 && mapOk k.c2) (engFault 0x31)
      .ok ((s.updBank core b fun x =>
        { x with tenant := mapBytes k.c1, comp := mapBytes k.c2, t := [] }).oneStep core .matrix)
    | _ => none)

/-! ### mlora (R187) -/

/-- MLORA at its push. -/
def execMlora (o : C2) (s : State) : Host.Outcome State Fault Refusal :=
  runStream s fun s => s.push .matrix (.mlora o) o.c0 o.c1 0 o.tail o.stop

/-- MLORA_CLR at its push. -/
def execMloraClr (o : CB) (s : State) : Host.Outcome State Fault Refusal :=
  runStream s fun s => s.push .matrix (.mloraClr o) 0 o.c1 0 o.tail o.stop

/-- The descriptor at an offset, with its checks (R187): 0x31, then 0x32 for the format. -/
def Core.descriptor (c : Core) (off : Dword) : Except Stop (List Byte) := do
  let d := c.spRead off.toNat 80
  let rank := field d 0x44 2
  need (off.toNat % 16 == 0 && decide (off.toNat + 80 ≤ c.spBytes)) (engFault 0x31)
  need (zeroAt d 0x46 10 && decide (1 ≤ rank ∧ rank ≤ 64)) (engFault 0x31)
  let a ← c.record off anyFmt 64 65535
  let b ← c.record (off + 0x20) anyFmt c.quad.arrayN 64
  need (recRows a == rank && recCols b == rank) (engFault 0x31)
  let f := recFmt a
  need (f == recFmt b && decide (1 ≤ f ∧ f ≤ 3)) (engFault 0x32)
  need (f != 1 || (zeroAt d 0x10 16 && zeroAt d 0x30 16)) (engFault 0x31)
  .ok d

/-- Changes a factor slot. -/
def Quadrant.updFactor (q : Quadrant) (n : Nat) (f : Factor → Factor) : Quadrant :=
  { q with slots := SMap.upd .empty q.slots n f }

/-- Row i of factor B joins its slot; the last one makes the slot READY. -/
def Core.loraRow (c : Core) (n i : Nat) : Factor → Factor :=
  let d := c.matrixRec
  let b := (d.drop 0x20).take 0x20
  let row := c.spRead (recBase b + i * recStride b) (recRowLen b)
  let sc := if recScl b then c.spRead (recBase (b.drop 16) + i * recStride (b.drop 16)) (recBlocks b) else []
  fun f => { f with rows := f.rows.take i ++ [row], scales := f.scales.take i ++ [sc]
                    ready := decide (i + 1 = recRows b), desc := if i + 1 = recRows b then d else (c.quad.factor n).desc }

/-- MLORA_ROW (R187). -/
def execMloraRow (core : Nat) (s : State) : Host.Outcome State Fault Refusal :=
  .next (s.headStep core .matrix fun k e =>
    match k.op with
    | .mlora _ => some fun s => do
      let n := k.c1.toNat
      need (n ≤ 15) (engFault 0x31)
      let s ← if e.step = 0 then do
          let d ← (s.core core).descriptor k.c0
          .ok ((s.latchRecs core .matrix [d]).updQuad core fun q => q.updFactor n fun _ => .empty)
        else .ok s
      .ok ((s.updQuad core fun q => q.updFactor n ((s.core core).loraRow n e.step)).stepUp core .matrix)
    | _ => none)

/-- MLORA_CLR_EFFECT (R187). -/
def execMloraClrEffect (core : Nat) (s : State) : Host.Outcome State Fault Refusal :=
  .next (s.headStep core .matrix fun k _ =>
    match k.op with
    | .mloraClr _ => some fun s => do
      let n := k.c1.toNat
      need (n ≤ 15) (engFault 0x31)
      .ok ((s.updQuad core fun q => q.updFactor n fun _ => .empty).oneStep core .matrix)
    | _ => none)

/-! ### Fusion (R175, R176, R188) -/

/-- MFUSE at its push. -/
def execMfuse (o : CFuse) (s : State) : Host.Outcome State Fault Refusal :=
  runStream s fun s => s.push .matrix (.mfuse o) 0 0 0 o.tail o.stop

/-- MFUSE_OFF at its push. -/
def execMfuseOff (o : C0) (s : State) : Host.Outcome State Fault Refusal :=
  runStream s fun s => s.push .matrix (.mfuseOff o) 0 0 0 o.tail o.stop

/-- The members of a shape whose lead is a core, lead first; none where its number does not fit (R175). -/
def fuseMembers (shape core : Nat) : Option (List Nat) :=
  let q := memberOf core
  match shape with
  | 1 => if q = 0 ∨ q = 2 then some [core, core + 1] else none
  | 2 => if q = 0 ∨ q = 1 then some [core, core + 2] else none
  | 3 => if q = 0 then some [core, core + 1, core + 2, core + 3] else none
  | _ => none

/-- The conditions of R188 under which mfuse goes on. -/
def State.fuseOk (s : State) (core : Nat) (ms : List Nat) : Bool :=
  let c := s.core core
  match c.node.bind s.node? with
  | none => false
  | some n =>
    descShape n.desc != 0 && c.csr.grpid.getLsbD 16
      && ms.all fun m => n.cores.contains m && (s.core m).csr.grpid == c.csr.grpid && (s.core m).quad.role == 0

/-- The quadrants of some cores take the reset state with the fusion of a shape (R162). -/
def State.fuseAs (s : State) (lead : Nat) (ms : List Nat) (shape : Nat) : State :=
  ms.foldl (fun s m => s.updQuad m fun _ =>
    { Quadrant.init with shape := shape, role := if m = lead then 1 else 2, lead := lead }) s

/-- MFUSE_STANDING (R188): the fusion is pending, and stands once the other members' matrix queues are empty. -/
def execMfuseStanding (core : Nat) (s : State) : Host.Outcome State Fault Refusal :=
  .next (s.headStep core .matrix fun k _ =>
    match k.op with
    | .mfuse o => some fun s =>
      match fuseMembers o.shape.toNat core with
      | none => engFault 0x34
      | some ms =>
        let others := ms.filter (· != core)
        let idle := others.all fun m => (s.core m).matrix.cmds == []
        if (s.core core).quad.pending && (s.core core).quad.role == 1 then
          if idle then .ok ((s.fuseAs core ms o.shape.toNat).oneStep core .matrix) else waitOn .members
        else if !s.fuseOk core ms then engFault 0x34
        else if idle then .ok ((s.fuseAs core ms o.shape.toNat).oneStep core .matrix)
        else
          .ok (ms.foldl (fun s m => s.updQuad m fun q =>
            { q with shape := o.shape.toNat, role := if m = core then 1 else 3, pending := true, lead := core }) s)
    | _ => none)

/-- MFUSE_OFF_EFFECT (R188). At a member of a pending fusion, where an mfuse.off that was queued before may stand, it has no effect
(log entry 135, DESIGN CHOICE). -/
def execMfuseOffEffect (core : Nat) (s : State) : Host.Outcome State Fault Refusal :=
  .next (s.headStep core .matrix fun k _ =>
    match k.op with
    | .mfuseOff _ => some fun s =>
      let q := (s.core core).quad
      let ms := if q.role = 1 then (fuseMembers q.shape core).getD [core] else []
      .ok ((ms.foldl (fun s m => s.updQuad m fun _ => Quadrant.init) s).oneStep core .matrix)
    | _ => none)

end Sys2Proof.Machine
end

