-- ==== Sys2Proof/Machine/Attention.lean ====
section
/-! DEFINITION. The attention engine (R164, R336, R339 to R344): request blocks, snapshots of KV blocks, chunks and the
output step. -/

namespace Sys2Proof.Machine
open Sys2Proof

/-- ATTN at its push (R341). -/
def execAttn (o : C1) (s : State) : Host.Outcome State Fault Refusal :=
  runStream s fun s => s.push .matrix (.attn o) o.c0 0 0 o.tail o.stop

/-! ### The request block (R340) -/

/-- A request block: its 128 bytes. -/
abbrev AttnReq := List Byte

/-- QREC with QSCL. -/
def atQrec (r : AttnReq) : List Byte := r.take 0x20
/-- OREC. -/
def atOrec (r : AttnReq) : List Byte := (r.drop 0x20).take 0x10 ++ List.replicate 16 0
/-- KVH. -/
def atKvh (r : AttnReq) : Dword := d64 (field r 0x30 8)
/-- P0. -/
def atP0 (r : AttnReq) : Nat := field r 0x38 4
/-- P1. -/
def atP1 (r : AttnReq) : Nat := field r 0x3C 4
/-- LAYER. -/
def atLayer (r : AttnReq) : Nat := field r 0x44 2
/-- KVHEAD. -/
def atHead (r : AttnReq) : Nat := field r 0x46 2
/-- SCALE. -/
def atScale (r : AttnReq) : Nat := field r 0x48 4
/-- WIN. -/
def atWin (r : AttnReq) : Nat := field r 0x4C 4
/-- MPTR. -/
def atMptr (r : AttnReq) : Nat := field r 0x50 4
/-- MSTR. -/
def atMstr (r : AttnReq) : Nat := field r 0x54 4
/-- MODE. -/
def atMode (r : AttnReq) : Nat := field r 0x58 1
/-- The mask mode. -/
def atMask (r : AttnReq) : Nat := bitsOf (atMode r) 1 0
/-- PMODE is SKIP. -/
def atSkip (r : AttnReq) : Bool := bitOf (atMode r) 2
/-- NONORM. -/
def atNonorm (r : AttnReq) : Bool := bitOf (atMode r) 3
/-- STATS. -/
def atStats (r : AttnReq) : Bool := bitOf (atMode r) 4
/-- QSHIFT, the whole byte. -/
def atQshift (r : AttnReq) : Nat := field r 0x59 1
/-- The exp slot. -/
def atExp (r : AttnReq) : Nat := bitsOf (field r 0x5A 1) 3 0
/-- The reciprocal slot. -/
def atRecip (r : AttnReq) : Nat := bitsOf (field r 0x5A 1) 7 4
/-- KSC. -/
def atKsc (r : AttnReq) : Nat := field r 0x5B 1
/-- VSC. -/
def atVsc (r : AttnReq) : Nat := field r 0x5C 1
/-- STOFF. -/
def atStoff (r : AttnReq) : Nat := field r 0x60 4
/-- NQ. -/
def atNq (r : AttnReq) : Nat := recRows (atQrec r)
/-- D. -/
def atDim (r : AttnReq) : Nat := recCols (atQrec r)
/-- Bytes of a row of the explicit mask. -/
def atMaskLen (r : AttnReq) : Nat := ceilDiv (atP1 r - atP0 r) 8
/-- Chunks. -/
def atChunks (r : AttnReq) : Nat := ceilDiv (atP1 r - atP0 r) 64

/-- The rules of R340 that are neither a record's nor a handle's: 0x63 (R342). -/
def attnOk (r : AttnReq) (e : HEntry) (spBytes : Nat) : Bool :=
  zeroAt r 0x5D 3 && zeroAt r 0x64 28 && bitsOf (atMode r) 7 5 == 0 && decide (atQshift r ≤ 6)
    && (recScl (atQrec r) || zeroAt r 0x10 16)
    && decide (1 ≤ e.extent 3 ∧ e.extent 3 ≤ 128) && atDim r == e.extent 3
    && recRows (atOrec r) == atNq r && recCols (atOrec r) == atDim r
    && decide (atP0 r < atP1 r ∧ atP1 r ≤ e.kvLen) && decide (atLayer r < e.extent 0)
    && decide (2 * atHead r + 1 < e.extent 2)
    && (atMask r != 1 || atWin r != 0)
    && (atMask r != 2
        || (atMptr r % 16 == 0 && atMstr r % 16 == 0 && decide (atMaskLen r ≤ atMstr r)
            && decide (atMptr r + (atNq r - 1) * atMstr r + atMaskLen r ≤ spBytes)))
    && (!atStats r || (atStoff r % 16 == 0 && decide (atStoff r + 8 * atNq r ≤ spBytes)))

/-- BF16, E4M3 or E5M2. -/
def queryFmt (f : Nat) : Bool := decide (1 ≤ f ∧ f ≤ 3)

/-- FP32, BF16, E4M3 or E5M2. -/
def outFmt (f : Nat) : Bool := decide (f ≤ 3)

/-- A table bank that attn latches (R148, R150). -/
def Core.tableReady (c : Core) (n : Nat) : Except Stop Unit := do
  need (c.owns n) (engFault 0x42)
  need ((c.slot n).active.state == 2) (engFault 0x43)

/-- What attn does before its first chunk (R342, R164). -/
def State.attnBegin (s : State) (core : Nat) (k : Cmd) : Except Stop State := do
  let c := s.core core
  let off := k.c0
  need (c.quad.role != 1) (engFault 0x34)
  need (off.toNat % 128 == 0 && decide (off.toNat + 128 ≤ c.spBytes)) (engFault 0x63)
  let r := c.spRead off.toNat 128
  let _ ← c.record off queryFmt 64 128
  need (!recScl (atOrec r)) (engFault 0x63)
  let _ ← c.record (off + 0x20) outFmt 64 128 true
  let (s, e) ← s.derefKv (.engine core .matrix) (c.c.mode = .device) (atKvh r)
  let _ ← s.onward (s.handleKey e)
  s.onward (need (attnOk r e c.spBytes) (engFault 0x63))
  s.onward ((s.core core).tableReady (atExp r))
  s.onward ((s.core core).tableReady (atRecip r))
  -- one slot named for both counts as two readers (log entry 109, DESIGN CHOICE)
  let bs := [atExp r, atRecip r].map fun n => (n, (c.slot n).flip)
  let s := s.updCore core fun c => { c.addReaders bs with quad := c.quad.afterAttn }
  .ok (s.updEng core .matrix fun q =>
    { q with latch := { recs := [leBytes 4 (atChunks r + 1), r], banks := bs, images := c.images bs
                        entries := [leBytes 8 (atKvh r).toNat ++ e.raw] } })

/-! ### Reading positions (R336, R344) -/

/-- Position j is admitted to row r (R340). -/
def Core.admits (c : Core) (q : AttnReq) (r j : Nat) : Bool :=
  let at_ := field q 0x40 4 + r / 2 ^ atQshift q
  match atMask q with
  | 0 => decide (j ≤ at_)
  | 1 => decide (at_ < j + atWin q ∧ j ≤ at_)
  | 2 =>
    let i := j - atP0 q
    bitOf (leNat (c.spRead (atMptr q + r * atMstr q + i / 8) 1)) (i % 8)
  | _ => true

/-- The K and V codes of a position. -/
abbrev KvPair := List Nat × List Nat

/-- A fault of a position leaves it in the record (R418: dfcur). -/
def atPosition {α : Type} (j : Nat) : Except Stop α → Except Stop α
  | .error (.trap t) => .error (.trap { t with frec := { t.frec with cur := d64 j } })
  | r => r

/-- Elements 0 to D − 1 of a plane of a position, from its tile. -/
def State.readPlane (s : State) (a : Agent) (e : HEntry) (f : Frame) (layer j plane : Nat) :
    Except Stop (State × List Nat) :=
  match e.placeAt [layer, j, plane, 0] with
  | .pad => .ok (s, [])
  | .at tile elem =>
    (List.range (e.extent 3)).foldlM (fun (r : State × List Nat) i => do
      let (s, b) ← r.1.onward (r.1.readTile a e f tile (64 * e.hdr + (elem + i) * e.width / 8) (e.width / 8))
      .ok (s, r.2 ++ [leNat b])) (s, [])

/-- The header bits of a position decide whether its entries are read (R344); none: it is skipped. The snapshot of R336 is
one step of the model, so that its counters are equal. -/
def State.readPosition (s : State) (core : Nat) (q : AttnReq) (e : HEntry) (j : Nat) :
    Except Stop (State × Option KvPair) := atPosition j do
  let a : Agent := .engine core .matrix
  let h := 2 * atHead q
  let at_ : Coords := [(atLayer q : Nat), (j : Nat), (h : Nat), 0]
  match ← e.place at_ false with
  | .pad =>
    let pad := List.replicate (e.extent 3) e.pad
    .ok (s, some (pad, pad))
  | .at tile _ =>
    let (s, f) ← s.tileFrame a e at_ tile
    let (s, hb) ← s.onward (match f with
      | .page _ => .ok (s, List.replicate 64 0)
      | .block b => s.readLeaf a e.vf (s.blockLeaf (s.blockVa e.vf b) (s.blockAddr b)) 64)
    let hd := Header.ofBytes hb
    let p := j % e.kvP
    s.onward do
      need (!hd.seq.getLsbD 0) (waitOn (.odd (indexOf e.handle) (j - p) (j - p + e.kvP)))
      if hd.lost.getLsbD p && !atSkip q then engFault 0x64
      else if hd.pend.getLsbD p && !atSkip q then waitOn (.pending (indexOf e.handle) j)
      else if hd.lost.getLsbD p || hd.pend.getLsbD p then .ok (s, none)
      else
        let (s, k) ← s.readPlane a e f (atLayer q) j h
        let (s, v) ← s.onward (s.readPlane a e f (atLayer q) j (h + 1))
        .ok (s, some (k, v))

/-- The positions of a chunk, each with its entries where they are read; a position admitted to no row is never
examined. -/
def State.readChunk (s : State) (core : Nat) (q : AttnReq) (e : HEntry) (c : Nat) :
    Except Stop (State × List (Option KvPair)) :=
  let first := atP0 q + 64 * c
  (List.range (min 64 (atP1 q - first))).foldlM (fun (r : State × List (Option KvPair)) i => do
    if (List.range (atNq q)).any fun row => (s.core core).admits q row (first + i) then
      let (s, v) ← r.1.onward (r.1.readPosition core q e (first + i))
      .ok (s, r.2 ++ [v])
    else .ok (r.1, r.2 ++ [none])) (s, [])

/-! ### Chunks (R343) -/

/-- The score of a row with a position that is read. -/
def Core.score (c : Core) (q : AttnReq) (fk r : Nat) (k : List Nat) : Fp.Res :=
  let rec_ := atQrec q
  let x : ARow := ⟨recFmt rec_, c.recRow rec_ r 0 (atDim q), (List.range (recBlocks rec_)).map fun j => c.recScale rec_ r j⟩
  let dot := accumulate 0 (x.sums fk (fun i => k.getD i 0) fun _ => atKsc q)
  let m := Fp.fmul32 dot.bits (atScale q)
  ⟨m.bits, dot.fl.or m.fl⟩

/-- The words of a row: columns 0 to 63 in bank 0, the others in bank 1. -/
def Quadrant.attnRow (q : Quadrant) (r d : Nat) : List Nat :=
  (List.range d).map fun n => if n < 64 then q.bank0.word r n else q.bank1.word r (n - 64)

/-- Puts a row of a chunk into the banks; m and l lie in bank 0. -/
def Quadrant.putAttn (q : Quadrant) (r : Nat) (x : Smax) : Quadrant :=
  { q with bank0 := q.bank0.putSmax r { x with words := x.words.take 64 }
           bank1 := q.bank1.putRow r (x.words.drop 64) }

/-- One row of a chunk: its scores, then the step of R184. -/
def State.attnRow (s : State) (core : Nat) (q : AttnReq) (e : HEntry) (ps : List (Option KvPair)) (chunk r : Nat) :
    Except Stop (Smax × Fp.Flags) := do
  let c := s.core core
  let first := atP0 q + 64 * chunk
  let live (i : Nat) : Option KvPair := if c.admits q r (first + i) then (ps.getD i none) else none
  let ss := (List.range ps.length).map fun i =>
    match live i with
    | some p => c.score q e.fmt r p.1
    | none => ⟨0xFF800000, .zero⟩
  let v (i n : Nat) : Fp.Val := codeVal e.fmt (((live i).map fun p => p.2.getD n 0).getD 0)
  let (slot, d) := c.matrix.latchedBank 0
  match smaxRow d slot (ss.map fun r => r.bits) (c.quad.attnRow r (atDim q)) (c.quad.bank0.max r) (c.quad.bank0.sum r)
      ((Fp.Fmt.ofCode e.fmt).getD .bf16) v fun _ _ => atVsc q with
  | .ok x => .ok (x, flagsOf ss)
  | .error (.trap t) =>
    .error (.trap { t with frec := { t.frec with cur := d64 (first + bitsOf t.frec.elem.toNat 6 0) } })
  | .error w => .error w

/-- The plane that holds some columns of a chunk's V. -/
def vPlane (fmt lo hi : Nat) (ps : List (Option KvPair)) : Plane :=
  let put (m : SMap Word) (p : Nat × Option KvPair) : SMap Word :=
    match p.2 with
    | none => m
    | some v => (List.range (hi - lo)).foldl
        (fun m n => SMap.set 0 m (128 * p.1 + n) (BitVec.ofNat 32 (v.2.getD (lo + n) 0))) m
  { ready := true, fmt := BitVec.ofNat 4 fmt, kp := ps.length, np := hi - lo
    elems := (indexed ps).foldl put [], scales := [] }

/-- The latched request and entry of an attn. -/
def EngQueue.attn (e : EngQueue) : AttnReq × HEntry :=
  (e.latched 1, entryOfBytes (e.latch.entries.getD 0 []))
where
  /-- An entry behind its handle. -/
  entryOfBytes (b : List Byte) : HEntry := .ofBytes (d64 (field b 0 8)) (hvfOf (d64 (field b 0 8))) (b.drop 8)

/-- One chunk (R343): its step is atomic. -/
def State.attnChunk (s : State) (core : Nat) (e : EngQueue) : Except Stop State := do
  let (q, h) := e.attn
  let (s, ps) ← s.readChunk core q h e.step
  let rows ← (List.range (atNq q)).mapM fun r => s.attnRow core q h ps e.step r
  let d := atDim q
  let s := s.updQuad core fun w =>
    let w := (indexed rows).foldl (fun w x => w.putAttn x.1 x.2.1) w
    { w with act := vPlane h.fmt 0 (min d 64) ps, shd := if d ≤ 64 then .empty else vPlane h.fmt 64 d ps }
  let fl := rows.foldl (fun f x => (f.or x.1.fl).or x.2) Fp.Flags.zero
  .ok ((s.updCore core fun c => c.raiseM fl).stepUp core .matrix)

/-- ATTN_CHUNK (R343): the latching of R342 comes before chunk 0. -/
def execAttnChunk (core : Nat) (s : State) : Host.Outcome State Fault Refusal :=
  .next (s.latchStep core .matrix fun k =>
    match k.op with
    | .attn _ =>
      some (fun s => s.attnBegin core k, fun e s => if e.step < atChunks (e.latched 1) then s.attnChunk core e else .ok s)
    | _ => none)

/-- The output words of a row (R343). -/
def Core.attnOut (c : Core) (q : AttnReq) (r : Nat) : Except Stop (List Fp.Res) := do
  let ws := c.quad.attnRow r (atDim q)
  let l := c.quad.bank0.sum r
  let (slot, d) := c.matrix.latchedBank 1
  if atNonorm q then .ok (ws.map fun w => ⟨w, .zero⟩)
  else if l % 2 ^ 31 = 0 then .ok (ws.map fun _ => ⟨0, .zero⟩)
  else
    let v ← evalAt d slot l r
    .ok (ws.map fun w =>
      let m := Fp.fmul32 w v.bits
      ⟨m.bits, v.fl.or m.fl⟩)

/-- Writes an output row, and its m and l with STATS. -/
def Core.putOut (c : Core) (q : AttnReq) (r : Nat) (ws : List Fp.Res) : Core :=
  let o := atOrec q
  let (cs, _, fl) := storeCodes (recFmt o) false .rne false (ws.map fun w => w.bits)
  let c := (c.putRecRow o r cs []).raiseM ((flagsOf ws).or fl)
  if atStats q then
    c.spWrite (atStoff q + 8 * r) (leBytes 4 (c.quad.bank0.max r) ++ leBytes 4 (c.quad.bank0.sum r))
  else c

/-- The output step. -/
def State.attnOutput (s : State) (core : Nat) (e : EngQueue) : Except Stop State := do
  let (q, _) := e.attn
  let c := s.core core
  let rows ← (List.range (atNq q)).mapM fun r => c.attnOut q r
  .ok ((s.updCore core fun c => (indexed rows).foldl (fun c x => c.putOut q x.1 x.2) c).stepUp core .matrix)

/-- ATTN_OUTPUT_STEP (R343): a table fault leaves the counter, and the step is retried. -/
def execAttnOutputStep (core : Nat) (s : State) : Host.Outcome State Fault Refusal :=
  .next (s.headStep core .matrix fun k e =>
    match k.op with
    | .attn _ => if e.latch.recs ≠ [] ∧ e.step = atChunks (e.latched 1) then some fun s => s.attnOutput core e else none
    | _ => none)

end Sys2Proof.Machine
end

