-- ==== Sys2Proof/Machine/Scalar.lean ====
section
/-! DEFINITION. Scalar arithmetic of the shared control subset (R97 to R99). -/

namespace Sys2Proof.Machine
open Sys2Proof

/-- A register form with two sources (R97). -/
def State.alu (s : State) (o : R3) (f : Dword → Dword → Dword) : State :=
  (s.setReg o.d (f (s.reg o.a) (s.reg o.b))).done o.stop

/-- A register form with one source (R97). -/
def State.alu1 (s : State) (o : R2) (f : Dword → Dword) : State := (s.setReg o.d (f (s.reg o.a))).done o.stop

/-- A form with a 14-bit immediate (R98). -/
def State.aluImm (s : State) (o : RI) (f : Dword → Dword → Dword) : State :=
  (s.setReg o.d (f (s.reg o.a) (o.imm.signExtend 64))).done o.stop

/-- A form with a 13-bit immediate (R98). -/
def State.aluImm13 (s : State) (o : RI13) (f : Dword → Dword → Dword) : State :=
  (s.setReg o.d (f (s.reg o.a) (o.imm.signExtend 64))).done o.stop

/-- A shift by an immediate (R98). -/
def State.aluShift (s : State) (o : RSh) (f : Dword → Nat → Dword) : State :=
  (s.setReg o.d (f (s.reg o.a) o.n.toNat)).done o.stop

/-- The low six bits of a shift count (R97). -/
def shiftOf (y : Dword) : Nat := y.toNat % 64

/-- A truth value as 0 or 1. -/
def flagOf (b : Bool) : Dword := if b then 1 else 0

/-- div (R97). -/
def divS (x y : Dword) : Dword := if y = 0 then 0xFFFFFFFFFFFFFFFF else BitVec.ofInt 64 (x.toInt.tdiv y.toInt)

/-- divu (R97). -/
def divU (x y : Dword) : Dword := if y = 0 then 0xFFFFFFFFFFFFFFFF else d64 (x.toNat / y.toNat)

/-- rem (R97). -/
def remS (x y : Dword) : Dword := if y = 0 then x else BitVec.ofInt 64 (x.toInt.tmod y.toInt)

/-- remu (R97). -/
def remU (x y : Dword) : Dword := if y = 0 then x else d64 (x.toNat % y.toNat)

/-- Leading zero bits of a value (R97). -/
def clz64 (x : Dword) : Dword := d64 (if x = 0 then 64 else 63 - Nat.log2 x.toNat)

/-- One bits of a value (R97). -/
def popc64 (x : Dword) : Dword := d64 ((List.range 64).filter fun i => x.getLsbD i).length

/-- ADD (R97). -/
def execAdd (o : R3) (s : State) : Host.Outcome State Fault Refusal :=
  .next (s.alu o fun x y => x + y)

/-- SUB (R97). -/
def execSub (o : R3) (s : State) : Host.Outcome State Fault Refusal :=
  .next (s.alu o fun x y => x - y)

/-- AND (R97). -/
def execAnd (o : R3) (s : State) : Host.Outcome State Fault Refusal :=
  .next (s.alu o fun x y => x &&& y)

/-- OR (R97). -/
def execOr (o : R3) (s : State) : Host.Outcome State Fault Refusal :=
  .next (s.alu o fun x y => x ||| y)

/-- XOR (R97). -/
def execXor (o : R3) (s : State) : Host.Outcome State Fault Refusal :=
  .next (s.alu o fun x y => x ^^^ y)

/-- SHL (R97). -/
def execShl (o : R3) (s : State) : Host.Outcome State Fault Refusal :=
  .next (s.alu o fun x y => x <<< shiftOf y)

/-- SHR (R97). -/
def execShr (o : R3) (s : State) : Host.Outcome State Fault Refusal :=
  .next (s.alu o fun x y => x >>> shiftOf y)

/-- SRA (R97). -/
def execSra (o : R3) (s : State) : Host.Outcome State Fault Refusal :=
  .next (s.alu o fun x y => x.sshiftRight (shiftOf y))

/-- MUL (R97). -/
def execMul (o : R3) (s : State) : Host.Outcome State Fault Refusal :=
  .next (s.alu o fun x y => x * y)

/-- MULH (R97). -/
def execMulh (o : R3) (s : State) : Host.Outcome State Fault Refusal :=
  .next (s.alu o fun x y => BitVec.ofInt 64 (x.toInt * y.toInt / 2 ^ 64))

/-- MULHU (R97). -/
def execMulhu (o : R3) (s : State) : Host.Outcome State Fault Refusal :=
  .next (s.alu o fun x y => d64 (x.toNat * y.toNat / 2 ^ 64))

/-- DIV (R97). -/
def execDiv (o : R3) (s : State) : Host.Outcome State Fault Refusal :=
  .next (s.alu o fun x y => divS x y)

/-- DIVU (R97). -/
def execDivu (o : R3) (s : State) : Host.Outcome State Fault Refusal :=
  .next (s.alu o fun x y => divU x y)

/-- REM (R97). -/
def execRem (o : R3) (s : State) : Host.Outcome State Fault Refusal :=
  .next (s.alu o fun x y => remS x y)

/-- REMU (R97). -/
def execRemu (o : R3) (s : State) : Host.Outcome State Fault Refusal :=
  .next (s.alu o fun x y => remU x y)

/-- MIN (R97). -/
def execMin (o : R3) (s : State) : Host.Outcome State Fault Refusal :=
  .next (s.alu o fun x y => if x.slt y then x else y)

/-- MAX (R97). -/
def execMax (o : R3) (s : State) : Host.Outcome State Fault Refusal :=
  .next (s.alu o fun x y => if x.slt y then y else x)

/-- MINU (R97). -/
def execMinu (o : R3) (s : State) : Host.Outcome State Fault Refusal :=
  .next (s.alu o fun x y => if x.ult y then x else y)

/-- MAXU (R97). -/
def execMaxu (o : R3) (s : State) : Host.Outcome State Fault Refusal :=
  .next (s.alu o fun x y => if x.ult y then y else x)

/-- SLT (R97). -/
def execSlt (o : R3) (s : State) : Host.Outcome State Fault Refusal :=
  .next (s.alu o fun x y => flagOf (x.slt y))

/-- SLTU (R97). -/
def execSltu (o : R3) (s : State) : Host.Outcome State Fault Refusal :=
  .next (s.alu o fun x y => flagOf (x.ult y))

/-- CLZ (R97). -/
def execClz (o : R2) (s : State) : Host.Outcome State Fault Refusal := .next (s.alu1 o clz64)

/-- POPC (R97). -/
def execPopc (o : R2) (s : State) : Host.Outcome State Fault Refusal := .next (s.alu1 o popc64)

/-- ADDI (R98). -/
def execAddi (o : RI) (s : State) : Host.Outcome State Fault Refusal := .next (s.aluImm o fun x y => x + y)

/-- ANDI (R98). -/
def execAndi (o : RI) (s : State) : Host.Outcome State Fault Refusal := .next (s.aluImm o fun x y => x &&& y)

/-- ORI (R98). -/
def execOri (o : RI) (s : State) : Host.Outcome State Fault Refusal := .next (s.aluImm o fun x y => x ||| y)

/-- XORI (R98). -/
def execXori (o : RI) (s : State) : Host.Outcome State Fault Refusal := .next (s.aluImm o fun x y => x ^^^ y)

/-- SHLI (R98). -/
def execShli (o : RSh) (s : State) : Host.Outcome State Fault Refusal := .next (s.aluShift o fun x n => x <<< n)

/-- SHRI (R98). -/
def execShri (o : RSh) (s : State) : Host.Outcome State Fault Refusal := .next (s.aluShift o fun x n => x >>> n)

/-- SRAI (R98). -/
def execSrai (o : RSh) (s : State) : Host.Outcome State Fault Refusal := .next (s.aluShift o fun x n => x.sshiftRight n)

/-- SLTI (R98). -/
def execSlti (o : RI13) (s : State) : Host.Outcome State Fault Refusal :=
  .next (s.aluImm13 o fun x y => flagOf (x.slt y))

/-- SLTIU (R98). -/
def execSltiu (o : RI13) (s : State) : Host.Outcome State Fault Refusal :=
  .next (s.aluImm13 o fun x y => flagOf (x.ult y))

/-- imm19 << 13, sign-extended from 32 bits (R99). -/
def upper (imm : BitVec 19) : Dword := (imm ++ (0 : BitVec 13)).signExtend 64

/-- LUI (R99). -/
def execLui (o : RU) (s : State) : Host.Outcome State Fault Refusal := .next ((s.setReg o.d (upper o.imm)).done o.stop)

/-- AUIPC (R99): pc is the offset of the word itself. -/
def execAuipc (o : RU) (s : State) : Host.Outcome State Fault Refusal :=
  .next ((s.setReg o.d (s.self.pc + upper o.imm)).done o.stop)

/-- LEA (R99). -/
def execLea (o : RLea) (s : State) : Host.Outcome State Fault Refusal :=
  .next ((s.setReg o.d (s.reg o.a + s.reg o.b <<< o.sh.toNat)).done o.stop)

end Sys2Proof.Machine
end

