-- ==== Sys2Proof/Machine/Control.lean ====
section
/-! DEFINITION. Control transfers, hardware loops, control queues and the system instructions (R100 to R108), and the
events of the streams themselves (R60, R78, R80, R102). -/

namespace Sys2Proof.Machine
open Sys2Proof

/-- The target of a word offset from the word that executes (R43). -/
def State.wordTarget (s : State) (off : Dword) : Dword := s.self.pc + off * 4

/-- A branch (R100). -/
def State.branch (s : State) (o : RBr) (taken : Bool) : Except Stop State :=
  if taken then s.transfer (s.wordTarget (o.off.signExtend 64)) else .ok (s.done o.stop)

/-- BEQ (R100). -/
def execBeq (o : RBr) (s : State) : Host.Outcome State Fault Refusal :=
  runStream s fun s => s.branch o (s.reg o.a == s.reg o.b)

/-- BNE (R100). -/
def execBne (o : RBr) (s : State) : Host.Outcome State Fault Refusal :=
  runStream s fun s => s.branch o (s.reg o.a != s.reg o.b)

/-- BLT (R100). -/
def execBlt (o : RBr) (s : State) : Host.Outcome State Fault Refusal :=
  runStream s fun s => s.branch o ((s.reg o.a).slt (s.reg o.b))

/-- BGE (R100). -/
def execBge (o : RBr) (s : State) : Host.Outcome State Fault Refusal :=
  runStream s fun s => s.branch o (!(s.reg o.a).slt (s.reg o.b))

/-- BLTU (R100). -/
def execBltu (o : RBr) (s : State) : Host.Outcome State Fault Refusal :=
  runStream s fun s => s.branch o ((s.reg o.a).ult (s.reg o.b))

/-- BGEU (R100). -/
def execBgeu (o : RBr) (s : State) : Host.Outcome State Fault Refusal :=
  runStream s fun s => s.branch o (!(s.reg o.a).ult (s.reg o.b))

/-- A transfer that links: the target is checked before the link is written (R101, R102). -/
def State.link (s : State) (d : Reg) (target : Dword) : Except Stop State := do
  s.target target
  .ok ((s.setReg d (s.self.pc + 4)).jumpTo target)

/-- JAL (R101). -/
def execJal (o : RJ) (s : State) : Host.Outcome State Fault Refusal :=
  runStream s fun s => s.link 31 (s.wordTarget (o.off.signExtend 64))

/-- JALR (R101). -/
def execJalr (o : RI) (s : State) : Host.Outcome State Fault Refusal :=
  runStream s fun s => s.link o.d (s.reg o.a + o.imm.signExtend 64)

/-- Opens a level of a loop whose body runs from `first` to `last` (R103). -/
def Loops.enter (l : Loops) (first last n : Dword) : Loops :=
  if l.depth = 0 then { l with start0 := first, end0 := last, cnt0 := n, depth := 1 }
  else { l with start1 := first, end1 := last, cnt1 := n, depth := 2 }

/-- A stream goes on at an offset with its loop levels as they are. -/
def State.goOn (s : State) (at_ : Dword) (l : Loops) : State :=
  (s.updSelf fun t => { t with pc := at_, gpc := at_, loops := l }).retired

/-- loop and loopi with a count (R103 to R105). -/
def State.loopBody (s : State) (off : BitVec 14) (n : Dword) : Except Stop State :=
  let t := s.self
  let last := t.pc + off.signExtend 64 * 4
  if t.mode = .handler ∨ off.toInt ≤ 0 ∨ 2 ≤ t.loops.depth then trapOf 0x14 t.pc
  else if n = 0 then
    let r := t.loops.countDown last (last + 4)
    .ok (s.goOn r.2 r.1)
  else .ok (s.goOn (t.pc + 4) (t.loops.enter (t.pc + 4) last n))

/-- LOOP (R103). -/
def execLoop (o : RLoop) (s : State) : Host.Outcome State Fault Refusal :=
  runStream s fun s => s.loopBody o.off (s.reg o.a)

/-- LOOPI (R103). -/
def execLoopi (o : RLoopI) (s : State) : Host.Outcome State Fault Refusal :=
  runStream s fun s => s.loopBody o.off (o.n.zeroExtend 64)

/-- CQPUSH (R106). -/
def execCqpush (o : RA) (s : State) : Host.Outcome State Fault Refusal :=
  runStream s fun s => do
    s.queues (.cqpush o)
    let v := s.reg o.a
    let s := s.updHere fun c => { c with vec :=
      if s.curX then { c.vec with toC := c.vec.toC ++ [v] } else { c.vec with toX := c.vec.toX ++ [v] } }
    .ok (s.done o.stop)

/-- CQPOP (R106). -/
def execCqpop (o : RD) (s : State) : Host.Outcome State Fault Refusal :=
  runStream s fun s => do
    s.queues (.cqpop o)
    let q := if s.curX then s.here.vec.toX else s.here.vec.toC
    let s := s.updHere fun c => { c with vec :=
      if s.curX then { c.vec with toX := q.tail } else { c.vec with toC := q.tail } }
    .ok ((s.setReg o.d (q.headD 0)).done o.stop)

/-- NOP (R108). -/
def execNop (o : R0) (s : State) : Host.Outcome State Fault Refusal := .next (s.done o.stop)

/-- TRAP (R108). -/
def execTrap (o : RCode) (s : State) : Host.Outcome State Fault Refusal :=
  runStream s fun _ => trapOf 0x16 (o.code.zeroExtend 64)

/-- ERET (R108). -/
def execEret (_o : R0) (s : State) : Host.Outcome State Fault Refusal :=
  runStream s fun s => if s.self.mode = .node then trapOf 0x18 0 else s.trapReturn

/-- The interface of the VF whose node a core runs admits a debugger (R407, R430). -/
def State.debugOpen (s : State) (core : Nat) : Bool :=
  !s.sec.debugLock &&
    match (s.core core).node with
    | some id => (s.vf (nodeVf id)).tdisp == .unlocked
    | none => true

/-- The accesses of a core that wait: of each stream, then of each queue's head, its wait word (R428); then the page faults that they
await, each as its address and its tag (R420, R227). -/
def State.waitingOf (s : State) (core : Nat) : List Dword :=
  let c := s.core core
  [d64 c.c.waitWord, d64 c.x.waitWord]
    ++ [c.load, c.store, c.matrix, c.backfill].map (fun e => d64 ((e.wait.map WaitOn.word).getD 0))
    ++ (s.pf.faults.filter fun f => ofCores [core] f.2.agent).flatMap fun f => [d64 f.2.va, d64 f.1]

/-- A halt of a node: it stops as under a forced pre-emption, and keeps its cores (R430, R303). A fill that awaits a peer ends during
the halt (log entry 147, DEDUCED). -/
def State.haltNode (s : State) (core cause : Nat) : State :=
  let cs := match (s.core core).node.bind s.node? with
    | some n => n.cores
    | none => [core]
  let s := cs.foldl State.endRegionFills (s.flushAll cs)
  let s := { s with mem := s.mem.drain (ofCores cs) }
  let s := cs.foldl (fun s c => s.updCore c fun k =>
    { ((k.unwait false).unwait true).abandon with
      waiters := [], saveTb := s.tb, saveCause := cause
      dbg := { k.dbg with halted := true, only := none, waiting := s.waitingOf c } }) s
  { s with peers := s.peers.filter fun r => !(r.parked.isNone && ofCores cs r.agent && !r.write && !r.amo) }

/-- BRK (R108, R430): with a debugger attached the group retires and its node halts. -/
def execBrk (o : RCode) (s : State) : Host.Outcome State Fault Refusal :=
  runStream s fun s =>
    if s.here.dbg.attached && s.debugOpen s.cur then
      let s := s.updHere fun c =>
        { c with csr := { c.csr with dbgstat := (c.csr.dbgstat &&& 0xFF) ||| (o.code.zeroExtend 64 : Dword) <<< 8 } }
      .ok ((s.done o.stop).haltNode s.cur saveBrk)
    else trapOf 0x17 (o.code.zeroExtend 64)

/-- WAIT (R108). -/
def execWait (o : RA) (s : State) : Host.Outcome State Fault Refusal :=
  runStream s fun s => if (s.reg o.a).toNat ≤ s.tb then .ok (s.done o.stop) else waitOn .time

/-! ### Events of the streams -/

/-- FETCH_PAST_END (R102): a group of the stream that executes reaches the end of its binary. -/
def execFetchPastEnd (s : State) : Host.Outcome State Fault Refusal :=
  runStream s fun s => trapOf 0x15 (d64 (s.here.binLen s.curX s.self.mode))

/-- The trap cause of an encoding fault (R60). -/
def EncFault.code : EncFault → Byte
  | .illegalOpcode => 0x01
  | .reservedValue => 0x02
  | .reservedField => 0x03
  | .unexpectedTail => 0x04
  | .illegalGroup => 0x05
  | .illegalLength => 0x06

/-- ILLEGAL_OPCODE (R60, R61): a group of the stream that executes has an encoding fault. -/
def execIllegalOpcode (f : EncFault) (at_ : Dword) (s : State) : Host.Outcome State Fault Refusal :=
  runStream s fun _ => trapOf (EncFault.code f) at_

/-- SIBLING_TRAP (R78): a stream takes the trap that the other posted. -/
def execSiblingTrap (core : Nat) (x : Bool) (s : State) : Host.Outcome State Fault Refusal :=
  let t := (s.core core).stream x
  match t.sib with
  | none => .next s
  | some code =>
    if t.run && !(s.core core).dbg.halted then
      .next (s.takeTrap core x 0x19 (code.zeroExtend 64) (2 ^ 10)
        { FaultRec.zero with cause := dfcause (if x then 1 else 0) 0x19 })
    else .next s

/-- ENGINE_FAULT_DELIVERY (R80): the C-stream takes the first pending engine fault, outside handler mode. -/
def execEngineFaultDelivery (core : Nat) (s : State) : Host.Outcome State Fault Refusal :=
  let c := s.core core
  .next (if c.c.run && c.c.mode != .handler && !c.dbg.halted then s.deliver core else s)

end Sys2Proof.Machine
end

