-- ==== Sys2Proof/Machine/Csr.lean ====
section
/-! DEFINITION. The control and status registers and the instructions that read and write them (R82 to R86, R107, R110 to
R113, R143, R180, R190 to R192, R219, R256, R287, R313, R323, R366, R418). -/

namespace Sys2Proof.Machine
open Sys2Proof

/-! ### Reading -/

/-- Rows of the running image, and those of them that are not yet filled (R83: imgstat). -/
def Core.imgRows (c : Core) : Nat × Nat :=
  let slots (x : Bool) : List (Bool × Nat) := (List.range (ceilDiv (c.binLen x .node) 512)).map fun i => (x, i)
  let all := slots false ++ slots true
  (all.length, (all.filter fun p => match c.rowOf p.1 .node p.2 with | some r => r.state == 1 | none => true).length)

/-- mstat (R180). On a member, FSLOT, SHD and ACT read zero: on a member of a standing fusion, ROLE 2. A member of a pending one, ROLE
3, shows its own, which R180 does not decide (log entry 134, DESIGN CHOICE). -/
def Core.mstat (c : Core) : Nat :=
  let q := c.quad
  let shape := q.shape * 2 ^ 10 + q.role * 2 ^ 8
  if q.role = 2 then shape
  else
    shape + (if q.shd.ready then 2 else 0) + (if q.act.ready then 1 else 0)
      + ((q.slots.filter fun p => p.2.ready).map fun p => 2 ^ (16 + p.1)).foldl (· + ·) 0

/-- tquota (R143). -/
def State.tquota (s : State) (c : Core) : Nat :=
  let own := (List.range 16).filter c.owns
  (own.map fun i => 2 ^ (16 + i)).foldl (· + ·) 0 + own.length * 2 ^ 8 + s.cfg c.vfid 0x0F % 32

/-- eqidx of a queue (R86). -/
def EngQueue.idxWord (e : EngQueue) : Nat := e.cmds.length * 2 ^ 32 + e.head.toNat

/-- A CSR of the fault record (R418). -/
def FaultRec.get (f : FaultRec) : Nat → Dword
  | 0 => f.cause
  | 1 => f.idx
  | 2 => f.step
  | 3 => f.addr
  | 4 => f.hand
  | 5 => f.c01
  | 6 => f.c23
  | 7 => f.tile
  | 8 => f.cur
  | _ => f.elem

/-- A loop CSR (R83). -/
def Loops.get (l : Loops) : Nat → Dword
  | 0 => l.start0
  | 1 => l.end0
  | 2 => l.cnt0
  | 3 => l.start1
  | 4 => l.end1
  | 5 => l.cnt1
  | _ => d64 l.depth

/-- A trap CSR of a stream (R83). -/
def Stream.trapCsr (t : Stream) : Nat → Dword
  | 0 => t.tvec
  | 1 => t.epc
  | 2 => t.ecause
  | 3 => t.eval
  | _ => t.estatus

/-- The member numbers of a node's cores (R313: CMASK). -/
def cmask (cores : List Nat) : Nat := (cores.map fun c => 2 ^ memberOf c).foldl (· + ·) 0

/-- nshape of a core (R313). -/
def State.nshape (s : State) (c : Core) : Nat :=
  match c.node with
  | none => 0
  | some id =>
    match s.node? id with
    | none => 0
    | some n => s.prio id * 2 ^ 12 + cmask n.cores * 2 ^ 8 + c.nci * 2 ^ 4 + descShape n.desc

/-- npend of a core (R313). -/
def State.npend (s : State) (c : Core) : Nat :=
  let pend := match c.node.bind s.node? with | some n => n.pendSince.isSome | none => false
  (if (s.vf c.vfid).susp != 0 then 2 else 0) + if pend then 1 else 0

/-- Memberships of the running node (R287: phmem). -/
def State.phmem (s : State) (c : Core) : Nat := match c.node.bind s.node? with | some n => n.members.length | none => 0

/-- Records in the node's adapter log (R366: alog). -/
def State.alogCount (s : State) (c : Core) : Nat := match c.node.bind s.node? with | some n => n.alog.length | none => 0

/-- kvpool of a die (R323). -/
def State.kvpool (s : State) (d : Nat) : Nat :=
  if s.poolSize d = 0 then 4 else s.poolSize d * 2 ^ 16 + (s.die d).poolBs

/-- The CSRs that report the configuration of the running VF on the core's die (R192, R287, R323, R366). -/
def State.vfCsr (s : State) (core : Nat) : Nat → Option Nat
  | 0x201 =>
    let v := (s.core core).vfid
    let d := dieOf core
    some (s.pused d v * 2 ^ 48 + s.cfg v 0x10 d * 2 ^ 32 + (s.die d).probeUnits)
  | 0x2C0 => some (s.cfg (s.core core).vfid 0x12 * 2 ^ 16 + s.cfg (s.core core).vfid 0x11)
  | 0x341 => some (s.kvpool (dieOf core))
  | 0x342 =>
    let v := (s.core core).vfid
    some (s.cfg v 0x0D (dieOf core) * 2 ^ 32 + s.cfg v 0x0C (dieOf core))
  | 0x343 =>
    let v := (s.core core).vfid
    some (s.blocksUsed v (dieOf core) * 2 ^ 32 + s.cfg v 0x0E (dieOf core))
  | 0x345 =>
    let q := (s.die (dieOf core)).bfq
    some (q.length * 2 ^ 16 + (q.filter fun e => e.vf == (s.core core).vfid).length)
  | 0x382 => some (s.cfg (s.core core).vfid 0x14)
  | 0x384 =>
    let v := (s.core core).vfid
    some ((s.vf v).fillUsed * 2 ^ 16 + s.afillq v)
  | _ => none

/-- The per-stream CSRs of R83 and R418. -/
def State.streamCsr (s : State) (n : Nat) : Option Dword :=
  let t := s.self
  if 0x010 ≤ n ∧ n ≤ 0x014 then some (t.trapCsr (n - 0x010))
  else if 0x020 ≤ n ∧ n ≤ 0x026 then some (t.loops.get (n - 0x020))
  else if 0x3C0 ≤ n ∧ n ≤ 0x3C9 then some (t.frec.get (n - 0x3C0))
  else if n = 0x003 then some (d64 ((if s.curX then 256 else 0) + t.mode.code))
  else if n = 0x030 then
    let v := s.here.vec
    let p := if s.curX then (v.toX, v.toC) else (v.toC, v.toX)
    some (d64 (p.1.length * 2 ^ 8 + p.2.length))
  else none

/-- The CSRs of R113 and R323 that exist in the X-stream only. -/
def Core.xCsr (c : Core) (n : Nat) : Option Dword :=
  if n = 0x100 then some c.vec.vtype
  else if n = 0x101 then some c.vec.vflags
  else if n = 0x344 then some c.vec.vcidx
  else if 0x360 ≤ n ∧ n ≤ 0x37F then some (SMap.get 0x7F800000 c.vec.vcthr (n - 0x360))
  else none

/-- The CSRs of a core that are plain registers. -/
def CoreCsr.get (r : CoreCsr) (n : Nat) : Option Dword :=
  if 0x280 ≤ n ∧ n ≤ 0x287 then some (SMap.get 0 r.xch (n - 0x280))
  else
    match n with
    | 0x001 => some (r.vfid.zeroExtend 64)
    | 0x002 => some r.nodeid
    | 0x006 => some r.grpid
    | 0x008 => some r.vtdef
    | 0x009 => some r.coldef
    | 0x181 => some r.mflags
    | 0x200 => some r.lmcfg
    | 0x240 => some r.htbase
    | 0x241 => some r.htcount
    | 0x242 => some r.xlsplit
    | 0x243 => some r.xlfrz
    | 0x244 => some r.xlpfa
    | 0x289 => some r.xtagf
    | 0x2C2 => some r.amoflags
    | 0x301 => some r.nopst
    | 0x302 => some r.npos
    | 0x305 => some r.novr
    | 0x340 => some r.kvva
    | 0x380 => some r.adcfg
    | 0x3CA => some r.dhbase
    | 0x3CB => some r.dhang
    | 0x3CC => some r.dbgstat
    | _ => none

/-- The CSRs of a core that report other state of the module. -/
def State.coreCsr (s : State) (core : Nat) (n : Nat) : Option Nat :=
  let c := s.core core
  match n with
  | 0x000 => some core
  | 0x004 => some (s.tb % 2 ^ 64)
  | 0x005 => some (s.gsc core).toNat
  | 0x040 => some c.load.idxWord
  | 0x041 => some (c.load.step % 2 ^ 64)
  | 0x042 => some c.store.idxWord
  | 0x043 => some (c.store.step % 2 ^ 64)
  | 0x044 => some c.matrix.idxWord
  | 0x045 => some (c.matrix.step % 2 ^ 64)
  | 0x046 => some 0
  | 0x050 => some (c.imgRows.2 * 2 ^ 16 + c.imgRows.1)
  | 0x140 => some (s.tquota c)
  | 0x180 => some c.mstat
  | 0x202 => some lwbase
  | 0x288 => some (s.outstanding core fun _ => true)
  | 0x2C1 => some (s.phmem c)
  | 0x300 => some (s.bop c.vfid)
  | 0x303 => some (s.npend c)
  | 0x304 => some (s.nshape c)
  | 0x381 => some s.sec.abase.toNat
  | 0x383 => some (s.alogCount c)
  | _ => s.vfCsr core n

/-- The value of a CSR as the stream that executes reads it; none where no chapter assigns the number to it. -/
def State.csr? (s : State) (n : Nat) : Option Dword :=
  match s.streamCsr n with
  | some v => some v
  | none =>
    match if s.curX then s.here.xCsr n else none with
    | some v => some v
    | none =>
      match s.here.csr.get n with
      | some v => some v
      | none => (s.coreCsr s.cur n).map d64

/-- The checks of R82 on a CSR number, and the old value. -/
def State.csrOld (s : State) (n : Nat) : Except Stop Dword :=
  if 0x400 ≤ n then trapOf (if s.self.mode = .device then 0x13 else 0x12) (d64 n)
  else
    match s.csr? n with
    | some v => .ok v
    | none => trapOf 0x13 (d64 n)

/-! ### Writing -/

/-- estatus as a write leaves it (R85). -/
def estatusOf (v : Dword) : Dword := if v.toNat % 4 = 3 then (v &&& 0xFC00) ||| 2 else v &&& 0xFC03

/-- Writes a trap CSR (R83). -/
def Stream.setTrapCsr (t : Stream) (i : Nat) (v : Dword) : Stream :=
  match i with
  | 0 => { t with tvec := v &&& 0xFFFFFFFC }
  | 1 => { t with epc := v }
  | 2 => { t with ecause := v &&& 0xFF }
  | 3 => { t with eval := v }
  | _ => { t with estatus := estatusOf v }

/-- Writes a loop CSR; a write of ldepth that would make it 3 is ignored (R83). -/
def Loops.put (l : Loops) (i : Nat) (v : Dword) : Loops :=
  match i with
  | 0 => { l with start0 := v }
  | 1 => { l with end0 := v }
  | 2 => { l with cnt0 := v }
  | 3 => { l with start1 := v }
  | 4 => { l with end1 := v }
  | 5 => { l with cnt1 := v }
  | _ => if v.toNat % 4 = 3 then l else { l with depth := v.toNat % 4 }

/-- Writes a CSR of the fault record (R418). -/
def FaultRec.put (f : FaultRec) (i : Nat) (v : Dword) : FaultRec :=
  match i with
  | 0 => { f with cause := v &&& 0x107FF }
  | 1 => { f with idx := v &&& 0xFFFFFFFF }
  | 2 => { f with step := v }
  | 3 => { f with addr := v }
  | 4 => { f with hand := v }
  | 5 => { f with c01 := v }
  | 6 => { f with c23 := v }
  | 7 => { f with tile := v &&& 0xFFFFFFFF }
  | 8 => { f with cur := v }
  | _ => { f with elem := v }

/-- The stream CSRs that handler and device mode write. -/
def Stream.putCsr (t : Stream) (n : Nat) (v : Dword) : Stream :=
  if 0x010 ≤ n ∧ n ≤ 0x014 then t.setTrapCsr (n - 0x010) v
  else if 0x020 ≤ n ∧ n ≤ 0x026 then { t with loops := t.loops.put (n - 0x020) v }
  else if 0x3C0 ≤ n ∧ n ≤ 0x3C9 then { t with frec := t.frec.put (n - 0x3C0) v }
  else t

/-- The CSRs of the X-stream, which every mode writes; vtype is checked before (R111). -/
def CoreVec.putX (r : CoreVec) (n : Nat) (v : Dword) : CoreVec :=
  if n = 0x100 then { r with vtype := v &&& vtypeMask }
  else if n = 0x101 then { r with vflags := v &&& 3 }
  else if n = 0x344 then { r with vcidx := v &&& 31 }
  else if 0x360 ≤ n ∧ n ≤ 0x37F then
    { r with vcthr := SMap.set 0x7F800000 r.vcthr (n - 0x360) (v &&& 0xFFFFFFFF) }
  else r

/-- The core CSRs that every mode writes; xtagf.FAIL clears where a 1 is written (R256). -/
def CoreCsr.putAny (r : CoreCsr) (n : Nat) (v : Dword) : CoreCsr :=
  match n with
  | 0x008 => { r with vtdef := v &&& vtypeMask }
  | 0x009 => { r with coldef := v &&& 7 }
  | 0x181 => { r with mflags := v &&& 3 }
  | 0x289 => if v.getLsbD 32 then { r with xtagf := r.xtagf &&& 0xFFFFFFFF } else r
  | 0x2C2 => { r with amoflags := v &&& 3 }
  | 0x3CA => { r with dhbase := v &&& ~~~(63 : Dword) }
  | _ => r

/-- The core CSRs that device mode alone writes. A write of htcount keeps bits [20:0] as they are written, also a count above the
2²⁰ that R219 gives as its most (log entry 138, DESIGN CHOICE). -/
def CoreCsr.putDevice (r : CoreCsr) (n : Nat) (v : Dword) : CoreCsr :=
  if 0x280 ≤ n ∧ n ≤ 0x287 then
    if v.toNat % 2 ^ 14 ≤ 8192 then { r with xch := SMap.set 0 r.xch (n - 0x280) (v &&& 0x3FFF) } else r
  else
    match n with
    | 0x240 => { r with htbase := v &&& 0x00FFFFFFFFFFFFC0 }
    | 0x241 => { r with htcount := v &&& 0x1FFFFF }
    | 0x242 => { r with xlsplit := v }
    | 0x340 => { r with kvva := v &&& 0x00FFFE0000000000 }
    | 0x380 => { r with adcfg := v &&& 0xF01FFFF }
    | 0x3CB => { r with dhang := v &&& 0xFFFFF }
    | _ => r

/-- A device-mode write of an eqidx or eqstep CSR (R83, R86). -/
def Core.putQueue (c : Core) (n : Nat) (v : Dword) : Core :=
  let idx (q : EngQ) : Core := c.setEng q { c.eng q with head := v.setWidth 32 }
  let step (q : EngQ) : Core := c.setEng q { c.eng q with step := v.toNat }
  match n with
  | 0x040 => idx .load
  | 0x041 => step .load
  | 0x042 => idx .store
  | 0x043 => step .store
  | 0x044 => idx .matrix
  | 0x045 => step .matrix
  | _ => c

/-- Writes a CSR of the core of the stream that executes, in its mode (R83). -/
def Core.putCsr (c : Core) (x : Bool) (n : Nat) (v : Dword) : Core :=
  let m := (c.stream x).mode
  let c := { c with csr := c.csr.putAny n v, vec := if x then c.vec.putX n v else c.vec }
  if m = .node then c
  else
    let c := c.setStream x ((c.stream x).putCsr n v)
    let c := if n = 0x046 then c.eqdrop x v else c
    if m = .device then { c with csr := c.csr.putDevice n v }.putQueue n v else c

/-- The check of R111 on a write that would reach vtype or vtdef. -/
def State.vtypeCheck (s : State) (n : Nat) (v : Dword) : Except Stop Unit :=
  need (!(n = 0x008 || (s.curX && n = 0x100)) || vtypeOk (v &&& vtypeMask)) (trapOf 0x1A (v &&& vtypeMask))

/-- A CSR instruction that writes: the destination takes the old value (R107). -/
def State.csrSwap (s : State) (o : RCsr) (f : Dword → Dword) : Except Stop State := do
  let old ← s.csrOld o.csr.toNat
  let v := f old
  s.vtypeCheck o.csr.toNat v
  .ok (((s.updHere fun c => c.putCsr s.curX o.csr.toNat v).setReg o.d old).done o.stop)

/-- A CSR instruction that only reads. -/
def State.csrRead (s : State) (d : Reg) (csr : BitVec 12) (stop : Bool) : Except Stop State := do
  let old ← s.csrOld csr.toNat
  .ok ((s.setReg d old).done stop)

/-- CSRR (R107). -/
def execCsrr (o : RCsrR) (s : State) : Host.Outcome State Fault Refusal :=
  runStream s fun s => s.csrRead o.d o.csr o.stop

/-- CSRW (R107). -/
def execCsrw (o : RCsr) (s : State) : Host.Outcome State Fault Refusal :=
  runStream s fun s => s.csrSwap o fun _ => s.reg o.a

/-- CSRS (R107): with a = s0 it writes nothing. -/
def execCsrs (o : RCsr) (s : State) : Host.Outcome State Fault Refusal :=
  runStream s fun s =>
    if o.a = 0 then s.csrRead o.d o.csr o.stop else s.csrSwap o fun old => old ||| s.reg o.a

/-- CSRC (R107): with a = s0 it writes nothing. -/
def execCsrc (o : RCsr) (s : State) : Host.Outcome State Fault Refusal :=
  runStream s fun s =>
    if o.a = 0 then s.csrRead o.d o.csr o.stop else s.csrSwap o fun old => old &&& ~~~(s.reg o.a)

/-- EQDROP_WRITE (R81): a write of eqdrop by a core's C-stream or X-stream in handler or device mode reaches the queue
that it names. -/
def execEqdropWrite (core : Nat) (v : Dword) (s : State) : Host.Outcome State Fault Refusal :=
  let c := s.core core
  .next (if c.c.mode != .node || c.x.mode != .node then s.setCore core (c.eqdrop (c.c.mode == .node) v) else s)

end Sys2Proof.Machine
end

