-- ==== Sys2Proof/Machine/NodeInstr.lean ====
section
/-! DEFINITION. The node instructions (R314 to R320). A stream that runs without a node is treated as log entry 20, DESIGN CHOICE
says. -/

namespace Sys2Proof.Machine
open Sys2Proof

/-- A trap 0x56 (R315). -/
def nodeOperand {α : Type} (v : Dword) : Except Stop α := trapOf 0x56 v

/-- The node that executes. -/
def State.myNode (s : State) : Option (Dword × Node) := s.here.node.bind fun id => (s.node? id).map fun n => (id, n)

/-- The core's engine queues are empty, and no engine fault is pending (R316, R348). -/
def Core.enginesEmpty (c : Core) : Bool :=
  c.load.cmds.isEmpty && c.store.cmds.isEmpty && c.matrix.cmds.isEmpty && c.backfill.cmds.isEmpty

/-- The core is drained (R316). -/
def Core.drained (c : Core) : Bool :=
  c.enginesEmpty && ((List.range 16).all fun q => c.queue q == []) && c.vec.toC == [] && c.vec.toX == []
    && (c.x.wait.map Prod.fst) == some WaitOn.cqPop

/-! ### Operators (R301) -/

/-- The start of a node's running operator: the latest of its cores. -/
def State.opStart (s : State) (n : Node) : Nat := n.cores.foldl (fun m c => max m (s.core c).csr.nopst.toNat) 0

/-- The running operator of a node is longer than 2 × B_op and not counted yet (R301). -/
def State.overruns (s : State) (id : Dword) (n : Node) : Bool :=
  n.state == .running && !n.overrun && decide (s.opStart n + 2 * s.bop (nodeVf id) * usCycles < s.tb)

/-- Counts an operator that is too long, once (R301). -/
def State.countOverrun (s : State) (id : Dword) : State :=
  match s.node? id with
  | none => s
  | some n =>
    if s.overruns id n then
      (n.cores.foldl (fun s c => s.updCore c fun k => { k with csr := { k.csr with novr := k.csr.novr + 1 } }) s).setNode id
        { n with overrun := true }
    else s

/-! ### nyield and npark (R316) -/

/-- The resume offsets of a word obey their rule (R316). -/
def Core.offsetsOk (c : Core) (v : Dword) : Bool :=
  let lo := bitsOf v.toNat 31 0
  let hi := bitsOf v.toNat 63 32
  lo % 4 == 0 && decide (lo < c.image.lenC) && hi % 4 == 0 && decide (hi < c.image.lenX)

/-- A wake word obeys its rule (R316). -/
def wakeOk (w : Dword) : Bool :=
  match bitsOf w.toNat 63 62 with
  | 0 | 1 => bitsOf w.toNat 61 32 == 0
  | 2 => bitsOf w.toNat 61 56 == 0
  | _ => false

/-- What nyield and npark do once their core is drained: the L1 is written back, the checkpoint written, and the node's
adapter log applied (R316, R360, R424). `yields`: a new operator begins, at a graph position. -/
def State.boundary (s : State) (v : Dword) (yields : Option Dword) : State :=
  let s := s.flushL1 s.cur
  let off := fun (x : Nat) => BitVec.ofNat 32 x
  let ends (s : State) (id : Dword) : State :=
    let s := s.countOverrun id
    let s := match yields with
      | some p => s.updHere fun c => { c with csr := { c.csr with npos := p, nopst := d64 s.tb } }
      | none => s
    let s := s.checkpoint id s.cur (off (bitsOf v.toNat 31 0)) (off (bitsOf v.toNat 63 32)) s.here.csr.npos
    let s := s.applyLog id
    s.updNode id fun n => { n with overrun := if yields.isSome then false else n.overrun }
  match s.here.node with
  | some id => ends s id
  | none =>
    match yields with
    | some p => s.updHere fun c => { c with csr := { c.csr with npos := p, nopst := d64 s.tb } }
    | none => s

/-- Every core of a node stands at a nyield, or at an npark. -/
def State.allStand (s : State) (n : Node) (park : Bool) : Bool :=
  n.cores.all fun c => (s.core c).stand.any fun t => t.park == park

/-- The node leaves its cores at a nyield (R302). -/
def State.yieldLeave (s : State) (id : Dword) (n : Node) : State :=
  (s.leave id n.cores .yielded).updNode id fun n => { n with since := s.tb }

/-- The node leaves its cores at an npark (R316, R279): its writes are performed, its memberships drop, and PARK events are
posted. -/
def State.parkLeave (s : State) (id : Dword) (n : Node) : State :=
  let wakes := n.cores.map fun c => (dieOf c, ((s.core c).stand.map fun t => t.wake).getD 0)
  let s := ({ s with mem := s.mem.drain (ofCores n.cores) }).dropMembers id
  let s := wakes.foldl (fun s w =>
    if bitsOf w.2.toNat 63 62 = 1 then s.postNode id 0x80 0 0 (bitsOf w.2.toNat 31 0) else s) s
  (((s.leave id n.cores .parked).updNode id fun n => { n with wakes := wakes }).wakeNode id).dropDeficits (nodeVf id)

/-- What a core that stands at its nyield or npark does next. -/
def State.standing (s : State) (t : Stand) (stop : Bool) : State :=
  let on := s.updHere fun c => { c with stand := none }
  match s.myNode with
  | none => if t.park then s.updHere Core.vacate else on.done stop
  | some (id, n) =>
    if !t.park && n.pendSince.isNone then on.done stop
    else if s.allStand n t.park then
      { (if t.park then s.parkLeave id n else s.yieldLeave id n) with issue := .retired }
    else s.waitHere .standing []

/-- A core reaches its nyield or npark, or stands there. The drops of an npark are releases: writes to peers are acknowledged
first (R279). -/
def State.reach (s : State) (v wake : Dword) (yields : Option Dword) (stop : Bool) : Except Stop State := do
  match s.here.stand with
  | some t => .ok (s.standing t stop)
  | none =>
    need s.here.drained (waitOn .drained)
    need (yields.isSome || s.coreAcked s.cur) (waitOn .order)
    let t : Stand :=
      ⟨yields.isNone, BitVec.ofNat 32 (bitsOf v.toNat 31 0), BitVec.ofNat 32 (bitsOf v.toNat 63 32), wake⟩
    let s := s.boundary v yields
    .ok ((s.updHere fun c => { c with stand := some t }).standing t stop)

/-- NYIELD (R316). -/
def execNyield (o : RAB) (s : State) : Host.Outcome State Fault Refusal :=
  runStream s fun s => do
    let v := s.reg o.a
    need (s.here.offsetsOk v) (nodeOperand v)
    s.reach v 0 (some (s.reg o.b)) o.stop

/-- NPARK (R316). -/
def execNpark (o : RAB) (s : State) : Host.Outcome State Fault Refusal :=
  runStream s fun s => do
    let v := s.reg o.a
    need (s.here.offsetsOk v) (nodeOperand v)
    need (wakeOk (s.reg o.b)) (nodeOperand (s.reg o.b))
    s.reach v (s.reg o.b) none o.stop

/-! ### ndone (R317) -/

/-- A core leaves its group (R309, R320). -/
def Core.leaveGroup (c : Core) : Core := { c with csr := { c.csr with grpid := 0, xlfrz := 0 } }

/-- Both streams of a core stop (R317). -/
def Core.stopStreams (c : Core) : Core := { c with c := c.c.stopped, x := c.x.stopped }

/-- NDONE (R317, R296). -/
def execNdone (o : R0) (s : State) : Host.Outcome State Fault Refusal :=
  runStream s fun s => do
    need (s.self.mode != .handler) (nodeOperand 0)
    need s.here.enginesEmpty (waitOn .drained)
    let s := s.flushL1 s.cur
    need (s.coreAcked s.cur) (waitOn .order)
    let s := s.done o.stop
    let s := s.updHere fun c => (if c.csr.grpid.getLsbD 16 then c.leaveGroup else c).stopStreams
    match s.myNode with
    | none => .ok (s.updHere Core.vacate)
    | some (id, n) =>
      let done := if n.done.contains s.cur then n.done else n.done ++ [s.cur]
      let s := s.setNode id { n with done := done }
      .ok (if n.cores.all fun c => done.contains c then s.endDone id else s)

/-- NDONE_ABORT (R317). -/
def execNdoneAbort (o : RA) (s : State) : Host.Outcome State Fault Refusal :=
  runStream s fun s =>
    let v := (s.reg o.a).toNat
    let s := s.done o.stop
    match s.here.node with
    | none => .ok (s.updHere Core.vacate)
    | some id => .ok (s.abortNode id 1 (bitsOf v 7 0) 0 (bitsOf v 63 32))

/-! ### nspawn and ndep (R318, R319) -/

/-- A result word: a status and a number. -/
def statusWord (st v : Nat) : Dword := d64 (st * 2 ^ 60 + v)

/-- A read of a descriptor or of what it names: a fault is the reason 0x02 (R291), a page fault waits (R318). -/
def asReason {α : Type} (r : Except Stop α) : Except Stop α :=
  match r with
  | .error (.trap t) => .error (.trap ⟨0x56, 2, .zero, t.sides⟩)
  | r => r

/-- The descriptor of a node to be spawned, checked, with its successors (R291, R318). -/
def State.spawnDesc (s : State) (vf va : Nat) : 
    Except Stop (State × Desc × List (List Byte) × List Nat) := do
  let (s, d) ← asReason (s.readDesc s.me vf va false)
  need (s.checkDesc vf d false == 0) (nodeOperand (d64 (s.checkDesc vf d false)))
  let (s, l) ← asReason (s.readList s.me vf d false)
  need (l.all listEntryOk) (nodeOperand 6)
  let (s, succ) ← asReason (s.readSucc s.me vf d false)
  .ok (s, d, l, succ)

/-- The state of node `i` of a graph. -/
def State.nodeState (s : State) (g i : Nat) : Option NodeState := (s.node? (nodeKey g i)).map fun n => n.state

/-- A new node of a graph (R318). -/
def State.addNode (s : State) (g : Nat) (h : Graph) (parent : Dword) (d : Desc) (l : List (List Byte))
    (succ : List Nat) (after : Bool) : State :=
  let j := h.nodes
  let counter := (descDeps d + if after then 1 else 0) % 2 ^ 32
  let s := s.setGraph g { h with nodes := j + 1 }
  let s := s.setNode (nodeKey g j) (.fresh d l counter succ s.tb)
  let s := succ.foldl (fun s k => s.updNode (nodeKey g k) fun n => { n with counter := (n.counter + 1) % 2 ^ 32 }) s
  let s := if after then s.updNode parent fun n => { n with succs := n.succs ++ [j] } else s
  if counter = 0 then s.makeReady (nodeKey g j) else s

/-- NSPAWN (R318). -/
def execNspawn (o : R3) (s : State) : Host.Outcome State Fault Refusal :=
  runStream s fun s => do
    let va := (s.reg o.a).toNat
    let flags := (s.reg o.b).toNat
    need (va % 256 == 0) (nodeOperand (s.reg o.a))
    need (decide (flags ≤ 1)) (nodeOperand (s.reg o.b))
    match s.here.node with
    | none => nodeOperand 0
    | some id =>
      match s.graph? (graphKey id) with
      | none => nodeOperand 0
      | some h =>
        let g := graphKey id
        let (s, d, l, succ) ← s.spawnDesc s.here.vfid va
        if 65535 ≤ h.nodes then .ok ((s.setReg o.d (statusWord 2 0)).done o.stop)
        else do
          need (succ.all fun k => decide (k < h.nodes)) (nodeOperand 7)
          if succ.any fun k => s.nodeState g k != some .waiting then
            .ok ((s.setReg o.d (statusWord 1 0)).done o.stop)
          else
            let s := s.addNode g h id d l succ (flags == 1)
            .ok ((s.setReg o.d (statusWord 0 h.nodes)).done o.stop)

/-- ndep and ndep.rel (R319): a dependency more, or one fewer. -/
def State.changeDeps (s : State) (o : R2) (rel : Bool) : Except Stop State := do
  let j := (s.reg o.a).toNat
  match s.here.node.bind fun id => (s.graph? (graphKey id)).map fun h => (graphKey id, h) with
  | none => nodeOperand (s.reg o.a)
  | some (g, h) =>
    need (j < h.nodes) (nodeOperand (s.reg o.a))
    let s ← if rel then s.release s.me (dieOf s.cur) 3 else .ok s
    let key := nodeKey g j
    match s.node? key with
    | none => nodeOperand (s.reg o.a)
    | some n =>
      let next := if rel then (n.counter + 2 ^ 32 - 1) % 2 ^ 32 else n.counter + 1
      let (s, st, v) :=
        if n.state ≠ .waiting then (s, 1, n.counter)
        else if !rel ∧ n.counter = 2 ^ 32 - 1 then (s, 2, n.counter)
        else
          let t := s.setNode key { n with counter := next }
          (if next = 0 then t.makeReady key else t, 0, next)
      .ok ((s.setReg o.d (statusWord st v)).done o.stop)

/-- NDEP (R319). -/
def execNdep (o : R2) (s : State) : Host.Outcome State Fault Refusal := runStream s fun s => s.changeDeps o false

/-- NDEP_REL (R319). -/
def execNdepRel (o : R2) (s : State) : Host.Outcome State Fault Refusal := runStream s fun s => s.changeDeps o true

/-! ### grpjoin and grpleave (R320) -/

/-- The cores of the node of the core that executes, by NCI; a stream without a node has its own core. -/
def State.myCores (s : State) : List Nat := (s.myNode.map fun p => p.2.cores).getD [s.cur]

/-- The checks of grpjoin (R320). -/
def State.joinOk (s : State) (a b : Dword) : Bool :=
  let id := bitsOf a.toNat 15 0
  let mask := bitsOf b.toNat 3 0
  let cs := s.myCores
  let mine := ((List.range cs.length).find? fun i => cs[i]? == some s.cur).getD 0
  decide (a.toNat < 2 ^ 16 ∧ b.toNat < 16) && !s.here.csr.grpid.getLsbD 16 && bitOf mask mine
    && decide (mask < 2 ^ cs.length)
    && cs.all fun c =>
      (s.core c).csr.grpid != d64 (2 ^ 16 + id)
        && (s.core c).joining.all fun j => j.1 != id || j.2 == mask

/-- The members of a mask. -/
def membersOf (cs : List Nat) (mask : Nat) : List Nat :=
  ((List.range cs.length).filter fun i => bitOf mask i).filterMap fun i => cs[i]?

/-- A member whose group forms: its grpjoin retires (R320). -/
def Core.joined (c : Core) (id now : Nat) : Core :=
  { c with csr := { c.csr with grpid := d64 (2 ^ 16 + id), xlfrz := 0 }, joining := none, advanced := now }

/-- GRPJOIN (R320): the last member's join forms the group, and the grpjoin of every member retires. -/
def execGrpjoin (o : RAB) (s : State) : Host.Outcome State Fault Refusal :=
  runStream s fun s => do
    let a := s.reg o.a
    let id := bitsOf a.toNat 15 0
    let mask := bitsOf (s.reg o.b).toNat 3 0
    need (s.joinOk a (s.reg o.b)) (trapOf 0x55 a)
    need s.here.enginesEmpty (waitOn .group)
    let s := s.updHere fun c => { c with joining := some (id, mask) }
    let ms := membersOf s.myCores mask
    if ms.all fun c => (s.core c).joining == some (id, mask) then
      let s := ms.foldl (fun s c =>
        s.updCore c fun k =>
          let k := k.joined id s.tb
          if c = s.cur then k else { k with c := { k.c.advance 1 true with wait := none } }) s
      .ok (s.done o.stop)
    else .ok (s.waitHere .group [])

/-- GRPLEAVE (R320). -/
def execGrpleave (o : R0) (s : State) : Host.Outcome State Fault Refusal :=
  runStream s fun s => do
    let c := s.here
    need (c.csr.grpid.getLsbD 16 && c.quad.role == 0 && !c.quad.pending) (trapOf 0x55 0)
    need c.enginesEmpty (waitOn .groupLeave)
    .ok ((s.updHere Core.leaveGroup).done o.stop)

end Sys2Proof.Machine
end

