-- ==== Sys2Proof/Machine/Sched.lean ====
section
/-! DEFINITION. Choosing nodes (R298 to R300, R304), and dispatching one: cores, instruction rows, table slots and the
state that a node starts from (R72 to R75, R91, R93, R139 to R141, R162, R193, R258, R293, R305, R424, R425). -/

namespace Sys2Proof.Machine
open Sys2Proof

/-! ### What may be dispatched -/

/-- The shape that a node takes cores in; a transform node takes one core (R258). -/
def nodeShape (d : Desc) : Nat := if descType d = 1 then 0 else descShape d

/-- Cores of a shape. -/
def shapeCores (shape : Nat) : Nat := if shape = 0 then 1 else if shape = 1 then 2 else 4

/-- A node holds context areas from its dispatch to its end (R304). -/
def NodeState.reserves : NodeState → Bool
  | .running | .preempted | .yielded | .parked | .rolledBack | .ending _ _ => true
  | _ => false

/-- Context areas that a VF has (R304, R394: CAPOOL). -/
def State.caPool (s : State) (vf : Nat) : Nat :=
  orDefault (s.cfg vf 0x1A) ((List.range 2048).filter (s.inPart vf)).length

/-- A context area can be reserved for each of a node's cores; after a forced pre-emption it has them (R304). -/
def State.areaFree (s : State) (id : Dword) (n : Node) : Bool :=
  n.state == .preempted ||
  let others := s.hearth.nodes.filter fun p =>
    p.1 != id.toNat && nodeVf (d64 p.1) == nodeVf id && (p.2.state.reserves || (p.2.state == .ready && p.2.check.isSome))
  decide ((others.map fun p => shapeCores (nodeShape p.2.desc)).sum + shapeCores (nodeShape n.desc) ≤ s.caPool (nodeVf id))

/-- The Hearth may dispatch a node: it waits for cores, its VF is not suspended (R300), its graph's ring holds no record (R310),
its interface admits dispatch (R407), no core lies on a tripped die (R453: see `State.fits`), and it has its context areas. A
rollback waits for its rewinds, and for the restoration of the frame whose poison it met (R338, R425). -/
def State.mayDispatch (s : State) (id : Dword) (n : Node) : Bool :=
  let v := s.vf (nodeVf id)
  n.state.isReady && s.sec.nextBase.isNone
    && (v.susp == 0 || (v.susp == 2 && n.state == .preempted))
    && ((s.graph? (graphKey id)).isNone || (SMap.get Ring.init v.rings (s.ringOfNode id)).held.isEmpty)
    && (v.tdisp == .unlocked || v.tdisp == .run)
    && !(n.state == .rolledBack
      && ((n.awaits.any fun f => SMap.get false s.sec.restoring f) || s.hearth.rewinds.any fun r => r.1 == id))
    && s.areaFree id n

/-- No node and no stream holds a core. -/
def State.coreFree (s : State) (core : Nat) : Bool :=
  let c := s.core core
  c.node.isNone && !c.c.run && !c.x.run

/-- A node may take a list of cores (R298, R305: after a forced pre-emption, cores with the same member numbers). -/
def State.fits (s : State) (id : Dword) (n : Node) (cores : List Nat) : Bool :=
  hasShape (nodeShape n.desc) cores && cores.all (s.mayRun (nodeVf id) (descCru n.desc))
    && cores.all (fun c => !(s.die (dieOf c)).trip)
    && (n.state != .preempted || cores.map memberOf == n.saved.map fun p => memberOf p.1)

/-- A node fits some cores, each of which obeys a condition. -/
def State.fitsSome (s : State) (id : Dword) (n : Node) (ok : Nat → Bool) : Bool :=
  (List.range 512).any fun q => (placements q (nodeShape n.desc)).any fun l => l.all ok && s.fits id n l

/-- The nodes that may be dispatched, with their identities. -/
def State.readyNodes (s : State) : List (Dword × Node) :=
  (s.hearth.nodes.map fun p => (d64 p.1, p.2)).filter fun p => s.mayDispatch p.1 p.2

/-! ### Weighted deficit round robin (R299) -/

/-- The list's least value under a measure. -/
def leastBy {α : Type} (f : α → Nat) : List α → Option α
  | [] => none
  | a :: l =>
    match leastBy f l with
    | none => some a
    | some b => if f b < f a then some b else some a

/-- How often 10000 × w is added until some candidate's deficit is above 0. -/
def grantsNeeded (c : List (Int × Nat)) : Nat :=
  let each := c.map fun p => if 0 < p.1 then 0 else ((-p.1) / (10000 * (p.2 : Int))).toNat + 1
  (leastBy id each).getD 0

/-! ### Cores that are being freed (R300, R307) -/

/-- A pre-emption that a timer forces pends on a node. -/
def State.pending (s : State) (id : Dword) : Bool :=
  (s.node? id).any fun n => n.pendSince.isSome && !s.untimedPend id n

/-- A core is free, or held by a node on which a pre-emption pends that a timer forces. -/
def State.freeing (s : State) (core : Nat) : Bool :=
  s.coreFree core || (s.core core).node.any s.pending

/-- The first placement of a node whose cores obey a condition. -/
def State.placeFor (s : State) (id : Dword) (n : Node) (ok : Nat → Bool) : Option (List Nat) :=
  (List.range 512).findSome? fun q => (placements q (nodeShape n.desc)).find? fun l => l.all ok && s.fits id n l

/-- The ready nodes in the order of their priority, then of the time since which they are ready. -/
def State.served (s : State) : List (Dword × Node) :=
  let key (p : Dword × Node) : Nat × Nat × (Dword × Node) := (s.prio p.1, p.2.since, p)
  ((s.readyNodes.map key).insertionSort fun a b => a.1 < b.1 ∨ (a.1 = b.1 ∧ a.2.1 ≤ b.2.1)).map fun k => k.2.2

/-- Of nodes in the order in which they are served, those for which cores are being freed: their priority and the cores. -/
def State.claims (s : State) : List (Dword × Node) → List Nat → List (Nat × List Nat)
  | [], _ => []
  | p :: l, taken =>
    match s.placeFor p.1 p.2 fun c => s.freeing c && !taken.contains c with
    | some cs => (if cs.all s.coreFree then [] else [(s.prio p.1, cs)]) ++ s.claims l (taken ++ cs)
    | none => s.claims l taken

/-- A core of a placement that is being freed for a node goes to no node of lower priority, or the first could starve (R307). -/
def State.keptFrom (s : State) (id : Dword) (core : Nat) : Bool :=
  (s.claims s.served []).any fun k => decide (k.1 < s.prio id) && k.2.contains core

/-! ### The choice (R299) -/

/-- The choice of R299 among nodes that fit free cores: the state with its deficits and the node. -/
def State.pick (s : State) : Option (State × Dword) :=
  let s := s.vfs.foldl (fun s v => s.dropDeficits v.1) s
  let claims := s.claims s.served []
  let kept (id : Dword) (core : Nat) : Bool := claims.any fun k => decide (k.1 < s.prio id) && k.2.contains core
  let fit := s.readyNodes.filter fun p => s.fitsSome p.1 p.2 fun c => s.coreFree c && !kept p.1 c
  match leastBy (fun p : Dword × Node => s.prio p.1) fit with
  | none => none
  | some first =>
    let p := s.prio first.1
    let here := fit.filter fun q => s.prio q.1 == p
    let vfs := (List.range 256).filter fun v => here.any fun q => nodeVf q.1 == v
    let deficit (s : State) (v : Nat) : Int := SMap.get 0 (s.vf v).deficit p
    let k := grantsNeeded (vfs.map fun v => (deficit s v, s.weight v))
    let s' := vfs.foldl (fun s v =>
      s.updVf v fun f => { f with deficit := SMap.set 0 f.deficit p (SMap.get 0 f.deficit p + k * 10000 * s.weight v) }) s
    let last := SMap.get 0 s.hearth.served p
    let order := (vfs.filter fun v => decide (last < v)) ++ vfs.filter fun v => decide (v ≤ last)
    match order.find? fun v => decide (0 < deficit s' v) with
    | none => none
    | some v =>
      (leastBy (fun q : Dword × Node => q.2.since) (here.filter fun q => nodeVf q.1 == v)).map fun q =>
        ({ s' with hearth := { s'.hearth with served := SMap.set 0 s'.hearth.served p v } }, q.1)

/-! ### Instruction rows (R90 to R92) -/

/-- The rows of an image: stream, row-slot, address. -/
def Image.rows (i : Image) : List (Bool × Nat × Nat) :=
  ((List.range (ceilDiv i.lenC 512)).map fun k => (false, k, i.vaC + 512 * k))
    ++ (List.range (ceilDiv i.lenX 512)).map fun k => (true, k, i.vaX + 512 * k)

/-- A row has a tag. -/
def IRow.tagged (r : IRow) (kernel : Dword) (vf : Nat) (x : Bool) (slot : Nat) : Bool :=
  r.state != 0 && r.kernel == kernel && r.vf == vf && r.x == x && r.slot == slot

/-- Where no row has a tag, takes a FREE row, else the least recently leased VALID one, to be filled (R91). -/
def takeRow (rows : SMap IRow) (now : Nat) (kernel : Dword) (vf : Nat) (w : Bool × Nat × Nat) : SMap IRow :=
  if rows.any fun p => p.2.tagged kernel vf w.1 w.2.1 then rows
  else
    let free := (List.range 512).find? fun i => (SMap.get IRow.free rows i).state == 0
    let old := (leastBy (fun p : Nat × IRow => p.2.used) (rows.filter fun p => p.2.state == 2)).map Prod.fst
    match free <|> old with
    | some i => SMap.set .free rows i ⟨1, kernel, vf, w.1, w.2.1, w.2.2, [], none, now⟩
    | none => rows

/-- Leases the row of a tag where there is one (R91). -/
def leaseRow (rows : SMap IRow) (now : Nat) (kernel : Dword) (vf : Nat) (w : Bool × Nat × Nat) : SMap IRow :=
  match rows.find? fun p => p.2.tagged kernel vf w.1 w.2.1 with
  | some (i, r) => SMap.set .free rows i { r with state := if r.state = 1 then 1 else 3, used := now }
  | none => rows

/-- Leases the rows of a core's images: first every row that the store holds, then rows for those it lacks (R91: a LEASED
row is never taken). -/
def Core.leaseRows (c : Core) (now : Nat) : Core :=
  let each (f : SMap IRow → Nat → Dword → Nat → Bool × Nat × Nat → SMap IRow) (rows : SMap IRow) (i : Image) : SMap IRow :=
    i.rows.foldl (fun rows w => f rows now i.kernel c.vfid w) rows
  { c with rows := each takeRow (each takeRow (each leaseRow (each leaseRow c.rows c.image) c.himage) c.image) c.himage }

/-- A row belongs to the images of the node that a core runs. -/
def Core.uses? (c : Core) (r : IRow) : Bool :=
  (c.c.run || c.x.run) && r.vf == c.vfid && (r.kernel == c.image.kernel || r.kernel == c.himage.kernel)

/-! ### Table slots (R139) -/

/-- The slots of a core once a node of a VF with a mask is dispatched. Of slots last dispatched by the same node the
lowest-numbered is released first (log entry 111, DESIGN CHOICE). -/
def slotsAt (slots : SMap TSlot) (vf mask quota now : Nat) : SMap TSlot :=
  let own (m : SMap TSlot) (i : Nat) : SMap TSlot :=
    let t := SMap.get .init m i
    SMap.set .init m i (if t.owner = some vf then { t with used := now } else { TSlot.init with owner := some vf, used := now })
  let m := ((List.range 16).filter fun i => bitOf mask i).foldl own slots
  let drop (m : SMap TSlot) (_ : Nat) : SMap TSlot :=
    let mine := m.filter fun p => p.2.owner == some vf
    if mine.length ≤ quota then m
    else
      match leastBy (fun p : Nat × TSlot => p.2.used) (mine.filter fun p => !bitOf mask p.1) with
      | some p => m.erase p.1
      | none => m
  (List.range 16).foldl drop m

/-! ### The state that a node starts from -/

/-- lmcfg of a descriptor (R189, R191). -/
def lmcfgOf (d : Desc) : Dword :=
  let l := descLocal d
  let l1 := bitsOf l 1 0
  let bytes := 2 ^ 21 - if l1 = 0 then 0 else 2 ^ (16 + l1)
  d64 (bytes * 2 ^ 32 + bitsOf l 5 4 * 2 ^ 8 + bitsOf l 3 2 * 2 ^ 4 + l1)

/-- The image of a core node (R293). -/
def imageOfDesc (d : Desc) : Image :=
  if descType d = 1 then .none
  else ⟨descKernel d, descImage d, descImage d + 512 * ceilDiv (descClen d) 512, descClen d, descXlen d⟩

/-- The handler image of a VF (R90). -/
def State.handlerImage (s : State) (vf : Nat) : Image :=
  if s.noHandler vf then .none
  else ⟨d64 (s.cfg vf 0x1C), s.cfg vf 0x1D, s.cfg vf 0x1D + 512 * ceilDiv (s.cfg vf 0x1E) 512, s.cfg vf 0x1E, s.cfg vf 0x1F⟩

/-- The local SRAM of a core for a node (R193): the core with its scratchpad and probe region. -/
def Core.carryOver (c : Core) (vf : Nat) (lm : Dword) : Core :=
  let size := bitsOf lm.toNat 53 32
  let same := bitsOf c.csr.lmcfg.toNat 5 4 == bitsOf lm.toNat 5 4 && bitsOf c.csr.lmcfg.toNat 9 8 == bitsOf lm.toNat 9 8
  if c.prevVf = some vf then
    { c with sp := c.sp.filter fun p => decide (p.1 < size), probe := if same then c.probe else [] }
  else { c with sp := [], probe := [] }

/-- The plain CSRs at a dispatch (R83, R190, R219, R256, R287, R313, R323, R366, R418). -/
def State.csrAt (s : State) (id : Dword) (d : Desc) (npos novr xlfrz grpid : Dword) (rollbacks : Nat) : CoreCsr :=
  let vf := nodeVf id
  { CoreCsr.init with
    vfid := BitVec.ofNat 8 vf, nodeid := id, grpid := grpid, vtdef := descVtdef d
    coldef := d64 (field d 0x1B 1), lmcfg := lmcfgOf d, htbase := d64 (s.cfg vf 0x09), htcount := d64 (s.cfg vf 0x0A)
    xlfrz := xlfrz, nopst := d64 s.tb, npos := npos, novr := novr, kvva := d64 (s.cfg vf 0x0B)
    adcfg := d64 (s.cfg vf 0x13 + s.cfg vf 0x16 * 2 ^ 24), dhang := d64 (s.thang vf), dbgstat := d64 rollbacks }

/-- A stream that starts at an offset, in node mode for a VF and in device mode for the PF's firmware (R72, R76, R83,
R90). -/
def streamAt (vf : Nat) (off : Word) (args : List Dword) (tvec : Dword) (run : Bool) : Stream :=
  let regs := ((List.range args.length).zip args).foldl (fun m p => SMap.set (0 : Dword) m (p.1 + 1) p.2) []
  { Stream.init with
    pc := off.zeroExtend 64, gpc := off.zeroExtend 64, regs := regs, mode := if vf = 0 then .device else .node
    tvec := tvec, run := run }

/-- The command that an entry of a transform node's list holds (R258). The entry holds no stamp and no stream pushes it, so that a timed
one has stamp 0 (log entry 142, DESIGN CHOICE). -/
def listCmd (b : List Byte) : Option Cmd :=
  match decodeWord false (BitVec.ofNat 32 (field b 0 4)) (BitVec.ofNat 32 (field b 4 4)) with
  | .ok op => some ⟨op, d64 (field b 8 8), d64 (field b 0x10 8), d64 (field b 0x18 8), 0⟩
  | .error _ => none

/-- A core of a node that starts from its descriptor or its checkpoint: NCI `i`. -/
def State.startCore (s : State) (id : Dword) (n : Node) (p : Checkpoint) (i core : Nat) (novr xlfrz : Dword) : Core :=
  let vf := nodeVf id
  let d := n.desc
  let c := (s.core core).carryOver vf (lmcfgOf d)
  let r := p.cores.getD i ⟨0, 0, [], 0⟩
  let tv := s.cfg vf 0x20
  let isCore := descType d != 1
  let csr := s.csrAt id d r.npos novr xlfrz (p.groups.getD i 0) n.rollbacks
  let fresh : Core :=
    { Core.init with
      c := streamAt vf r.offC r.args (d64 (bitsOf tv 31 0)) isCore, x := streamAt vf r.offX [] (d64 (bitsOf tv 63 32)) isCore
      vec := { CoreVec.init with vtype := descVtdef d }, csr := csr
      store := { EngQueue.init with cmds := n.list.filterMap listCmd }
      rows := c.rows, image := imageOfDesc d, himage := if isCore then s.handlerImage vf else .none
      slots := slotsAt c.slots vf (descSlots d) (s.cfg vf 0x0F) s.tb, sp := c.sp, probe := c.probe, tlb := c.tlb
      node := some id, nci := i, prevVf := c.prevVf, dbg := { c.dbg with halted := false, only := none }, advanced := s.tb
      ecc := c.ecc }
  fresh.leaseRows s.tb

/-- A fusion's lead as its number on the quartet of a core (R175). -/
def Quadrant.moved (q : Quadrant) (core : Nat) : Quadrant :=
  if q.role = 0 then q else { q with lead := core - memberOf core + memberOf q.lead }

/-- A core that a forced pre-emption saved, restored on a core (R141, R174, R303, R305). Only the slots of the mask come back:
a reader keeps the image it latched (R150), and a load of another slot meets what that slot holds here (log entry 112, DEDUCED). -/
def State.restoreCore (s : State) (id : Dword) (n : Node) (saved : Core) (core : Nat) : Core :=
  let c := s.core core
  let mask := descSlots n.desc
  let slots := slotsAt c.slots (nodeVf id) mask (s.cfg (nodeVf id) 0x0F) s.tb
  let slots := ((List.range 16).filter fun i => bitOf mask i).foldl (fun m i =>
    SMap.set .init m i { SMap.get .init saved.slots i with used := s.tb }) slots
  let csr := { saved.csr with xlfrz := saved.csr.xlfrz + d64 (s.tb - n.left), nopst := d64 s.tb }
  Core.leaseRows { saved with
    csr := csr, slots := slots, quad := saved.quad.moved core, rows := c.rows, tlb := c.tlb, prevVf := c.prevVf
    dbg := { c.dbg with halted := false, only := none }, advanced := saved.advanced + (s.tb - n.left), ecc := c.ecc } s.tb

/-- The checkpoint written at a first dispatch (R424): offsets 0 and the argument words. -/
def State.firstCheckpoint (s : State) (vf : Nat) (n : Node) (count : Nat) : State × Checkpoint :=
  let (s, kv) := s.kvTails vf n.desc
  (s, { cores := List.replicate count ⟨0, 0, (List.range 8).map (descArg n.desc), 0⟩, members := n.members
        groups := List.replicate count 0, kv := kv })

/-- Registers the phaser records of a checkpoint again (R425). -/
def State.rejoin (s : State) (id : Dword) (l : List Member) : State :=
  l.foldl (fun s m =>
    let p := s.phaser m.id
    (s.updNode id fun n => { n with members := n.members ++ [p.member m.id m.scope m.mode] }).setPhaser m.id
      (p.register m.scope m.mode)) s

/-- A node runs on cores from now on. -/
def State.placed (s : State) (id : Dword) (cores done : List Nat) : State :=
  let s := { s with peers := unparkPeers id cores s.peers }.updNode id fun n =>
    { n with state := .running, cores := cores, done := done, started := s.tb, saved := [], waited := [], wakes := [], pendSince := none
             pendSusp := false, overrun := false, awaits := none, prioSince := s.tb, ran := [] }
  s.updNode id fun n => { n with prioAt := s.prio id }

/-- Dispatches a node on cores: the first time, from its checkpoint, or from its saved cores (R299, R305, R425).
In a migration suspension its pre-emption pends at once (R300). -/
def State.dispatch (s : State) (id : Dword) (cores : List Nat) : State :=
  match s.node? id with
  | none => s
  | some n =>
    let nums := (List.range cores.length).zip cores
    match n.state with
    | .preempted =>
      let put (s : State) (p : Nat × Nat) : State :=
        match n.saved[p.1]? with
        | some v => s.setCore p.2 (s.restoreCore id n v.2 p.2)
        | none => s
      let done := (nums.filter fun p => descType n.desc != 1 && (n.saved[p.1]?).any fun v => !v.2.c.run && !v.2.x.run).map Prod.snd
      let t := (nums.foldl put s).placed id cores done
      if (s.vf (nodeVf id)).susp = 2 then t.pendPreempt id true else t
    | _ =>
      let back := n.check.isSome
      let (s, check) := match n.check with
        | some c => (s, c)
        | none => s.firstCheckpoint (nodeVf id) n cores.length
      let n' := { n with check := some check }
      let s := s.setNode id n'
      let s := if n.state = .rolledBack then s.rejoin id check.members else s
      let away (i : Nat) : Dword := if back then n.frz.getD i 0 + d64 (s.tb - n.left) else 0
      let novr := if back then n.novr else 0
      let put (s : State) (p : Nat × Nat) : State := s.setCore p.2 (s.startCore id n' check p.1 p.2 novr (away p.1))
      (nums.foldl put s).placed id cores []

/-! ### Pending pre-emptions (R300) -/

/-- The nodes that hold some cores. -/
def State.holders (s : State) (cores : List Nat) : List Dword := (cores.filterMap fun c => (s.core c).node).eraseDups

/-- A node may be pre-empted for another (R300); a reader that waits on a backfill node, also at the priority that it lends, where it
is `lent` (R351). -/
def State.yieldsTo (s : State) (lent : Bool) (id h : Dword) : Bool :=
  decide (s.prio id < s.prio h) || (lent && ((s.bfOf id).map s.lenders).any fun l => l.contains h)

/-- Of nodes in the order in which they are served, those for which no core is being freed, each with the cores that are freed for the
nodes before it. -/
def State.unserved (s : State) : List (Dword × Node) → List Nat → List (Dword × Node × List Nat)
  | [], _ => []
  | p :: l, taken =>
    match s.placeFor p.1 p.2 fun c => s.freeing c && !taken.contains c with
    | some cs => s.unserved l (taken ++ cs)
    | none => (p.1, p.2, taken) :: s.unserved l taken

/-- Ready nodes that find no free core (R300). -/
def State.starved (s : State) : List (Dword × Node × List Nat) := s.unserved s.served []

/-- Every placement of the module. -/
def allPlacements : List (List Nat) := (List.range 512).flatMap fun q => [0, 1, 2].flatMap fun sh => placements q sh

/-- Some cores are a placement of such a node, and every node that holds one of them may be pre-empted for it (R300). -/
def State.blockedBy (s : State) (lent : Bool) (cores : List Nat) (p : Dword × Node × List Nat) : Bool :=
  s.fits p.1 p.2.1 cores
    && !(s.holders cores).isEmpty
    && (s.holders cores).all (s.yieldsTo lent p.1)
    && cores.all fun c => !p.2.2.contains c && (s.coreFree c || (s.core c).node.isSome)

/-- Such cores; the reader that lends a backfill node its priority gives up its own only where no other placement can be freed (R351,
R467). -/
def State.blocked (s : State) (cores : List Nat) (p : Dword × Node × List Nat) : Bool :=
  s.blockedBy false cores p || (s.blockedBy true cores p && !allPlacements.any fun l => s.blockedBy false l p)

/-- Makes the pre-emptions pending that free some cores for the first node that they would be freed for. -/
def State.pendFor (s : State) (cores : List Nat) : State :=
  if s.starved.any (s.blocked cores) then (s.holders cores).foldl (fun s h => s.pendPreempt h false) s else s

/-- NODE_DISPATCH (R299, R300): the Hearth's choice is dispatched on free cores; or pre-emptions are made pending on the
nodes that hold them. Which of the cores that fit is not specified: the event names them. -/
def execNodeDispatch (cores : List Nat) (s : State) : Host.Outcome State Fault Refusal :=
  if cores.all s.coreFree then
    match s.pick with
    | some (t, id) =>
      match s.node? id with
      | some n => .next (if s.fits id n cores && !cores.any (s.keptFrom id) then t.dispatch id cores else s)
      | none => .next s
    | none => .next s
  else .next (s.pendFor cores)

end Sys2Proof.Machine
end

