-- ==== Sys2Proof/Machine/HearthEvents.lean ====
section
/-! DEFINITION. The Hearth's own events: launches (R289 to R292), pre-emptions (R227, R301, R303, R306, R308), records and
interrupts (R310, R437), and the events of rows, lines, page faults and the visibility orders (R91, R199, R225, R262). -/

namespace Sys2Proof.Machine
open Sys2Proof

/-! ### Launch (R289 to R292) -/

/-- A submission queue. -/
def State.sq (s : State) (vf q : Nat) : SubQ := SMap.get .init (s.vf vf).sq q

/-- Changes a submission queue. -/
def State.updSq (s : State) (vf q : Nat) (f : SubQ → SubQ) : State :=
  s.updVf vf fun v => { v with sq := SMap.upd .init v.sq q f }

/-- Slots of a ring, by its configuration (R435: LOG2N). -/
def ringSlots (cfg : Dword) : Nat := 2 ^ bitsOf cfg.toNat 4 0

/-- EN (R435). -/
def ringOn (cfg : Dword) : Bool := cfg.getLsbD 8

/-- What submission reads of a node: its descriptor, a transform node's list, its successors. -/
structure Draft where
  desc : Desc
  list : List (List Byte)
  succs : List Nat
  deriving DecidableEq, Repr

/-- A refusal with a reason of R291, of the descriptor with a number. -/
def refuse {α : Type} (reason : Nat) (i : Nat) : Except Stop α := .error (.trap ⟨BitVec.ofNat 8 reason, d64 i, .zero, []⟩)

/-- A fault while the Hearth reads is the reason 0x02 (R291). -/
def asRefusal {α : Type} (i : Nat) : Except Stop α → Except Stop α
  | .error (.trap t) => .error (.trap ⟨2, d64 i, .zero, t.sides⟩)
  | r => r

/-- Reads and checks descriptor `i` of a graph (R291). -/
def State.readDraft (s : State) (vf graph count i : Nat) : Except Stop (State × Draft) := do
  let a : Agent := .management
  let (s, d) ← asRefusal i (s.readDesc a vf (graph + 256 * i) true)
  need (s.checkDesc vf d false == 0) (refuse (s.checkDesc vf d false) i)
  let (s, l) ← asRefusal i (s.readList a vf d true)
  need (l.all listEntryOk) (refuse 6 i)
  let (s, succs) ← asRefusal i (s.readSucc a vf d true)
  need (succs.all fun k => decide (k < count)) (refuse 7 i)
  .ok (s, ⟨d, l, succs⟩)

/-- The launch record itself is well formed (R290, R291). -/
def launchOk (b : List Byte) : Bool :=
  field b 0 8 % 256 == 0 && decide (1 ≤ field b 8 2 ∧ field b 8 2 ≤ 32768) && bitsOf (field b 0xA 1) 7 4 == 0
    && bitsOf (field b 0xB 1) 7 3 == 0 && zeroAt b 0xC 52

/-- Reads the launch record at HEAD and its graph; a refusal names the node that failed (R291). -/
def State.readGraph (s : State) (vf va : Nat) : Except Stop (State × List Byte × List Draft) := do
  let (s, b) ← asRefusal 0xFFFF (s.readVa .management vf va 64 .read true)
  need (launchOk b) (refuse 1 0xFFFF)
  let n := field b 8 2
  let (s, l) ← (List.range n).foldlM (fun (r : State × List Draft) i => do
    let (s, d) ← r.1.readDraft vf (field b 0 8) n i
    .ok (s, r.2 ++ [d])) (s, [])
  .ok (s, b, l)

/-- The bytes of a launch record that can be read; else zero. -/
def State.peekRecord (s : State) (vf va : Nat) : List Byte :=
  match s.readVa .management vf va 64 .read true with
  | .ok (_, b) => b
  | .error _ => List.replicate 64 0

/-- The key of a graph of a queue (R292). -/
def graphOf (vf q gseq : Nat) : Nat := (vf * 16 + q) * 2 ^ 36 + gseq

/-- A graph enters the Hearth (R291, R295). -/
def State.enterGraph (s : State) (g prev ring : Nat) (flags : Byte) (l : List Draft) : State :=
  let busy := ((s.graph? prev).map fun h => !h.complete).getD false
  let h : Graph :=
    { ring := ring, flags := flags, submitted := l.length, nodes := l.length, held := flags.getLsbD 2 && busy
      complete := false, bad := 0 }
  let s := { s with hearth := { s.hearth with nodes := s.hearth.nodes.filter fun p => p.1 / 65536 != g } }
  ((List.range l.length).zip l).foldl (fun s p =>
    let counter := descDeps p.2.desc
    let s := s.setNode (nodeKey g p.1) (.fresh p.2.desc p.2.list counter p.2.succs s.tb)
    if counter = 0 ∧ !h.held then s.makeReady (nodeKey g p.1) else s) (s.setGraph g h)

/-- GRAPH_LAUNCH (R289, R291, R407, R436): the Hearth takes the record at HEAD. -/
def execGraphLaunch (vf q : Nat) (s : State) : Host.Outcome State Fault Refusal :=
  let k := s.sq vf q
  if !ringOn k.cfg || k.head == k.tail || k.resetting || (s.vf vf).tdisp == .locked then .next s
  else
    let va := k.base.toNat + 64 * k.head.toNat
    let n := 2 ^ 36 - 1
    let g := graphOf vf q k.gseq
    let prev := graphOf vf q ((k.gseq + n - 1) % n)
    let took (s : State) : State := s.updSq vf q fun k =>
      { k with head := BitVec.ofNat 16 ((k.head.toNat + 1) % ringSlots k.cfg), gseq := (k.gseq + 1) % n }
    match s.readGraph vf va with
    | .ok (s, b, l) => .next ((took s).enterGraph g prev (field b 0xA 1) (BitVec.ofNat 8 (field b 0xB 1)) l)
    | .error (.wait _ sides) => .next (s.applySides sides)
    | .error (.trap t) =>
      let ring := bitsOf (field (s.peekRecord vf va) 0xA 1) 3 0
      .next ((took (s.applySides t.sides)).postVf vf ring (record (nodeKey g t.val.toNat) 7 t.code.toNat 0 0 0))

/-! ### Pre-emptions -/

/-- A ready node of equal or higher priority fits the cores of a node: with free cores beside them, but not without one of them
(R227, R306). -/
def State.rival (s : State) (id : Dword) (n : Node) : Bool :=
  s.readyNodes.any fun p =>
    decide (s.prio p.1 ≤ s.prio id) && (List.range 512).any fun q => (placements q (nodeShape p.2.desc)).any fun l =>
      l.any n.cores.contains && (l.all fun c => s.coreFree c || n.cores.contains c) && s.fits p.1 p.2 l

/-- A forced pre-emption of a node, which is ready again from now (R303); an operator that it ends too late counts (R301). -/
def State.preempt (s : State) (id : Dword) : State :=
  ((s.countOverrun id).forcePreempt id).updNode id fun n => if n.state = .preempted then { n with since := s.tb } else n

/-- A debugger has halted a node, which keeps its cores (R430). -/
def State.halted (s : State) (n : Node) : Bool := n.cores.any fun c => (s.core c).dbg.halted

/-- Runs an event of a running node. -/
def onRunning (s : State) (id : Dword) (f : Node → State) : Host.Outcome State Fault Refusal :=
  match s.node? id with
  | some n => .next (if n.state = .running then f n else s)
  | none => .next s

/-- A pending pre-emption is due (R303, R413). -/
def State.preemptDue (s : State) (id : Dword) (n : Node) : Bool :=
  let bop := s.bop (nodeVf id) * usCycles
  match n.pendSince with
  | none => false
  | some t =>
    !s.untimedPend id n && !s.halted n && (decide (t + bop ≤ s.tb) || decide (s.opStart n + 2 * bop ≤ s.tb))

/-- FORCED_PREEMPTION (R303). -/
def execForcedPreemption (node : Dword) (s : State) : Host.Outcome State Fault Refusal :=
  onRunning s node fun n => if s.preemptDue node n then s.preempt node else s

/-- The waits that R306 counts. -/
def WaitOn.counts : WaitOn → Bool
  | .sem _ | .phaser _ _ | .time | .drainCh _ | .group | .backfill _ _ => true
  | _ => false

/-- A stream has waited 64 µs without a break (R306). -/
def Stream.waitedLong (t : Stream) (now : Nat) : Bool :=
  match t.wait with
  | some (w, since) => w.counts && decide (since + 64 * usCycles ≤ now)
  | none => false

/-- A wait pre-emption is due (R306). -/
def State.waitDue (s : State) (id : Dword) (n : Node) : Bool :=
  !s.halted n && n.cores.any (fun c => (s.core c).c.waitedLong s.tb || (s.core c).x.waitedLong s.tb) && s.rival id n

/-- WAIT_PREEMPTION (R306). -/
def execWaitPreemption (node : Dword) (s : State) : Host.Outcome State Fault Refusal :=
  onRunning s node fun n => if s.waitDue node n then s.preempt node else s

/-- A group of a node has been frozen for more than 64 µs by page faults (R227). -/
def State.frozenLong (s : State) (n : Node) : Bool :=
  !s.halted n && n.cores.any fun c => (s.core c).frozenAt.any fun t => decide (t + 64 * usCycles < s.tb)

/-- FROZEN_GROUP_PREEMPTION (R227). -/
def execFrozenGroupPreemption (node : Dword) (s : State) : Host.Outcome State Fault Refusal :=
  onRunning s node fun n => if s.frozenLong n && s.rival node n then s.preempt node else s

/-- OPERATOR_OVERRUN (R301). -/
def execOperatorOverrun (node : Dword) (s : State) : Host.Outcome State Fault Refusal := .next (s.countOverrun node)

/-- PARK_TIME_WAKE (R316): a parked node whose wake words hold is ready. -/
def execParkTimeWake (node : Dword) (s : State) : Host.Outcome State Fault Refusal := .next (s.wakeNode node)

/-! ### The Crucible's guarantee (R308) -/

/-- The minimum share G: the largest CSHARE. -/
def State.crucibleShare (s : State) : Nat := (s.vfs.map fun v => s.cfg v.1 0x19).foldl max 0

/-- Core time of running Crucible nodes in the window. -/
def State.crucibleRunning (s : State) : Nat :=
  (s.hearth.nodes.map fun p =>
    if descCru p.2.desc && p.2.state == .running then p.2.cores.length * (s.tb - max p.2.started s.hearth.window) else 0).sum

/-- Cores of the Crucible quartets. -/
def State.crucibleCores (s : State) : Nat := 4 * ((List.range 512).filter s.crucible).length

/-- CRUCIBLE_GUARANTEE (R308): a new window of 10 ms begins, or the share in this one is weighed against G. -/
def execCrucibleGuarantee (s : State) : Host.Outcome State Fault Refusal :=
  let h := s.hearth
  if h.window + 10000 * usCycles ≤ s.tb then
    .next { s with hearth := { h with window := s.tb, crucible := 0, raised := false } }
  else
    let used := h.crucible + s.crucibleRunning
    .next { s with hearth := { h with
      raised := decide (used * 100 < s.crucibleShare * (s.crucibleCores * (s.tb - h.window))) } }

/-! ### Records and interrupts (R310, R437) -/

/-- An event ring; VF 0 is the PF's. -/
def State.ring (s : State) (vf r : Nat) : Ring := if vf = 0 then s.pf.ring else SMap.get .init (s.vf vf).rings r

/-- Replaces an event ring. -/
def State.setRing (s : State) (vf r : Nat) (g : Ring) : State :=
  if vf = 0 then { s with pf := { s.pf with ring := g } }
  else s.updVf vf fun v => { v with rings := SMap.set .init v.rings r g }

/-- Room in a ring: it is enabled and not full (R437). -/
def Ring.room (g : Ring) : Bool := ringOn g.cfg && (g.tail.toNat + 1) % ringSlots g.cfg != g.head.toNat % ringSlots g.cfg

/-- COALN; 0 counts as 1 (R437). -/
def Ring.coaln (g : Ring) : Nat := max 1 (bitsOf g.cfg.toNat 23 16)

/-- COALT in µs. -/
def Ring.coalt (g : Ring) : Nat := bitsOf g.cfg.toNat 47 32

/-- The vectors of a function; VF 0 is the PF. -/
def State.vectors (s : State) (vf : Nat) : Vectors := if vf = 0 then s.pf.vectors else (s.vf vf).vectors

/-- Replaces them. -/
def State.setVectors (s : State) (vf : Nat) (v : Vectors) : State :=
  if vf = 0 then { s with pf := { s.pf with vectors := v } } else s.updVf vf fun f => { f with vectors := v }

/-- What a word of a vector table reads after reset: every vector is masked (log entry 125, PRESUMED). -/
def vectorReset (i : Nat) : Dword := if i % 2 = 1 then 0x100000000 else 0

/-- Word `i` of a vector table: the address of vector i/2, or its data and control. -/
def Vectors.word (v : Vectors) (i : Nat) : Dword := SMap.get 0 v.table i ^^^ vectorReset i

/-- The mask bit of a vector. -/
def Vectors.masked (v : Vectors) (n : Nat) : Bool := (v.word (2 * n + 1)).getLsbD 32

/-- An interrupt message of a function (R437): a masked vector holds it back. -/
def State.message (s : State) (vf n : Nat) : State :=
  let v := s.vectors vf
  if v.masked n then s.setVectors vf { v with pend := v.pend ||| d64 (2 ^ n) }
  else { s with pf := { s.pf with msix := (vf, n) :: s.pf.msix } }

/-- A word of a vector table is written: a message that waited goes out where its vector is no longer masked. -/
def State.writeVector (s : State) (vf i : Nat) (w : Dword) : State :=
  let v := s.vectors vf
  let w := if i % 2 = 1 then w &&& 0x1FFFFFFFF else w &&& ~~~(3 : Dword)
  let v := { v with table := SMap.set 0 v.table i (w ^^^ vectorReset i) }
  if v.pend.getLsbD (i / 2) && !v.masked (i / 2) then
    (s.setVectors vf { v with pend := v.pend &&& ~~~(d64 (2 ^ (i / 2))) }).message vf (i / 2)
  else s.setVectors vf v

/-- Sends a ring's interrupt message (R437). -/
def State.interrupt (s : State) (vf r : Nat) : State :=
  (s.setRing vf r { s.ring vf r with unsignalled := 0 }).message vf r

/-- Stores 32 bytes in a ring's slot: in host memory for the PF's ring (R439), else through the VF's translation. -/
def State.storeRecord (s : State) (vf va : Nat) (b : List Byte) : Except Stop State :=
  if vf = 0 then .ok { s with host := Memory.write s.host va b } else s.commitVa .management vf va b true

/-- No ring of a VF holds a record of a queue's nodes, and none is still to come (R296, R312). -/
def State.queueWritten (s : State) (vf q : Nat) : Bool :=
  let of (id : Nat) : Bool := id / 2 ^ 52 == vf * 16 + q
  ((s.vf vf).rings.all fun p => p.2.held.all fun r => !of (field r 8 8))
    && s.hearth.nodes.all fun p => !of p.1 || match p.2.state with | .ending _ _ => false | _ => true

/-- The resets of a VF's queues complete once every record of theirs is written (R312). -/
def State.endResets (s : State) (vf : Nat) : State :=
  let ended (p : Nat × SubQ) : Nat × SubQ :=
    if p.2.resetting && s.queueWritten vf p.1 then (p.1, { p.2 with head := 0, tail := 0, gseq := 0, resetting := false }) else p
  s.updVf vf fun v => { v with sq := (v.sq.map ended).filter fun p => p.2 != .init }

/-- Tries to write the first held record of a ring (R310). -/
def State.writeRecord (s : State) (vf r : Nat) : State :=
  let g := s.ring vf r
  match g.held with
  | [] => s
  | rec :: rest =>
    if !g.room then s
    else
      match s.storeRecord vf (g.base.toNat + 32 * g.tail.toNat) (putBytes rec 0 (leBytes 8 s.tb)) with
      | .ok s =>
        let n := g.unsignalled + 1
        let s := s.setRing vf r { g with
          held := rest, tail := BitVec.ofNat 16 ((g.tail.toNat + 1) % ringSlots g.cfg), unsignalled := n
          oldest := if g.unsignalled = 0 then s.tb else g.oldest, faulted := false }
        (if g.coaln ≤ n then s.interrupt vf r else s).endResets vf
      | .error e =>
        let sides := match e with
          | .trap t => t.sides
          | .wait _ l => l
        if g.faulted then s
        else ((s.applySides sides).setRing vf r { g with faulted := true }).postPf 0 0x97 0 (r + 256 * vf) 0

/-- EVENT_RECORD_WRITE (R310). -/
def execEventRecordWrite (vf ring : Nat) (s : State) : Host.Outcome State Fault Refusal :=
  .next (if (s.ring vf ring).faulted then s else s.writeRecord vf ring)

/-- RING_FAULT_RETRY (R310). -/
def execRingFaultRetry (vf ring : Nat) (s : State) : Host.Outcome State Fault Refusal :=
  .next (if (s.ring vf ring).faulted then s.writeRecord vf ring else s)

/-- EVENT_COALESCE_TIMEOUT (R437). -/
def execEventCoalesceTimeout (vf ring : Nat) (s : State) : Host.Outcome State Fault Refusal :=
  let g := s.ring vf ring
  .next (if g.unsignalled ≠ 0 ∧ g.coalt ≠ 0 ∧ g.oldest + g.coalt * usCycles ≤ s.tb then s.interrupt vf ring else s)

/-! ### Rows, lines, page faults, visibility orders -/

/-- L1_EVICTION (R199): a line is written back and leaves. -/
def execL1Eviction (core line : Nat) (s : State) : Host.Outcome State Fault Refusal :=
  .next (s.flushIf core fun l => l.va == 64 * line)

/-- ROW_FILL_COMPLETE (R91, R92): a row that is being filled holds its words, or the cause that its fill met; rows that had
no room are taken. A row whose node has left becomes VALID (log entry 119, DEDUCED). -/
def execRowFillComplete (core row : Nat) (s : State) : Host.Outcome State Fault Refusal :=
  let s := s.updCore core fun c => if c.c.run || c.x.run then c.leaseRows s.tb else c
  let r := SMap.get .free (s.core core).rows row
  if r.state ≠ 1 then .next s
  else
    let ends (s : State) (words : List Word) (mark : Option Byte) : State :=
      s.updCore core fun c =>
        let r' := { r with state := if c.uses? r then 3 else 2, words := words, mark := mark }
        { c with rows := SMap.set .free c.rows row r' }
    match s.readVa (.stream core) r.vf r.va 512 .fetch with
    | .ok (s, b) => .next (ends s ((List.range 128).map fun i => BitVec.ofNat 32 (field b (4 * i) 4)) none)
    | .error (.wait _ sides) => .next (s.applySides sides)
    | .error (.trap t) => .next (ends (s.applySides t.sides) [] (some t.code))

/-- PAGE_FAULT_DEADLINE (R225): a page fault is not answered within T_pf. -/
def execPageFaultDeadline (tag : Nat) (s : State) : Host.Outcome State Fault Refusal :=
  match s.pf.faults.lookup tag with
  | none => .next s
  | some f =>
    if !f.failed && decide (f.since + s.tpf f.vf * usCycles ≤ s.tb) then
      .next { s with pf := { s.pf with faults := SMap.insert tag { f with failed := true } (SMap.erase s.pf.faults tag) } }
    else .next s

/-- WRITE_SERIALISE (R262). -/
def execWriteSerialise (n : Nat) (s : State) : Host.Outcome State Fault Refusal :=
  .next (if s.mem.maySerialise n then { s with mem := s.mem.serialise n } else s)

/-- REMOTE_WRITE_APPLY (R264). -/
def execRemoteWriteApply (die id : Nat) (s : State) : Host.Outcome State Fault Refusal :=
  .next (if s.mem.mayApply die id then { s with mem := s.mem.apply die id } else s)

end Sys2Proof.Machine
end

