-- ==== Sys2Proof/Machine/Hang.lean ====
section
/-! DEFINITION. The hang detection (R427 to R429). -/

namespace Sys2Proof.Machine
open Sys2Proof

/-- What the instructions of a stream's waiting group use (R429). -/
def Core.waitingUses (c : Core) (x : Bool) : List Uses :=
  if (c.stream x).wait.isNone then []
  else
    match c.next x with
    | .group g => g.map fun p => c.uses p.1
    | _ => []

/-- The C-stream's waiting group signals a semaphore. -/
def Core.waitingSignals (c : Core) (n : Nat) : Bool :=
  c.c.wait.isSome &&
    match c.next false with
    | .group g => g.any fun p =>
      match p.1 with
      | .semsig o => o.n.toNat == n
      | _ => false
    | _ => false

/-- A queued command of a core signals a semaphore. -/
def Core.queuedSignals (c : Core) (n : Nat) : Bool :=
  [EngQ.load, .store, .matrix, .backfill].any fun q =>
    (c.eng q).cmds.any fun k => ((tailOf k.op).bind Tail.sigSem).any fun m => m.toNat == n

/-- A wait of a stream (`x`), or of an engine's head, is an orphan (R429). -/
def State.orphan (s : State) (core : Nat) (x : Bool) (w : WaitOn) : Bool :=
  let c := s.core core
  let other := c.waitingUses (!x)
  let pops (q : Nat) : Bool := other.any fun u => u.pop.any fun p => p.1.toNat == q
  let pushes (q : Nat) : Bool := other.any fun u => u.push.any fun r => r.toNat == q
  match w with
  | .popQ q | .qwrEmpty q => !pushes q
  | .pushQ q | .qrdFull q => !pops q
  | .cqPop => !other.any fun u => u.cqw
  | .cqPush => !other.any fun u => u.cqr
  | .sem n | .tail n => !c.queuedSignals n && !c.waitingSignals n
  | .phaser d i => (SMap.get .idle (s.die d).phasers i).ns == 0
  | _ => false

/-- The waits of a core that are marked, in the order of ORPHAN's bits (R428). -/
def State.orphans (s : State) (core : Nat) : List Bool :=
  let c := s.core core
  let st (x : Bool) : Bool := (c.stream x).wait.any fun w => s.orphan core x w.1
  let en (e : EngQueue) : Bool := e.wait.any fun w => s.orphan core false w
  [st false, st true, en c.load, en c.store, en c.matrix]

/-- Bits of a list, the first lowest. -/
def bitsNat : List Bool → Nat
  | [] => 0
  | b :: l => (if b then 1 else 0) + 2 * bitsNat l

/-- A command's word and tail (R428). -/
def Cmd.word (k : Option Cmd) : Nat :=
  match k with
  | none => 0
  | some k =>
    match encodeWords k.op with
    | [w] => w.toNat
    | w :: t :: _ => w.toNat + 2 ^ 32 * t.toNat
    | [] => 0

/-- A queue's 48 bytes of the hang record. -/
def EngQueue.hangBytes (e : EngQueue) : List Byte :=
  leBytes 4 e.head.toNat ++ leBytes 4 e.cmds.length ++ leBytes 8 e.step ++ leBytes 8 (Cmd.word e.cmds.head?)
    ++ leBytes 8 ((e.wait.map WaitOn.word).getD 0) ++ leBytes 8 (Cmd.word e.cmds.getLast?) ++ leBytes 8 0

/-- Fills of the queues (R428: FILLS). -/
def Core.fillsWord (c : Core) : Nat :=
  ((List.range 16).map fun q => (c.queue q).length % 8 * 2 ^ (3 * q)).sum
    + c.vec.toX.length * 2 ^ 48 + c.vec.toC.length * 2 ^ 56

/-- The hang record of a core (R428). -/
def State.hangRecord (s : State) (id : Dword) (core : Nat) : List Byte :=
  let c := s.core core
  let members := ((s.node? id).map fun n => n.members).getD []
  let ph (m : Member) : List Byte :=
    let p := s.phaser m.id
    leBytes 8 m.id.toNat ++ leBytes 4 p.phase.toNat ++ leBytes 2 p.ns ++ leBytes 2 p.arr
  let body := leBytes 8 s.tb ++ leBytes 8 id.toNat ++ leBytes 2 core ++ leBytes 1 c.nci ++ leBytes 1 (bitsNat (s.orphans core))
    ++ leBytes 4 0 ++ leBytes 4 c.c.pc.toNat ++ leBytes 4 c.x.pc.toNat ++ leBytes 8 c.c.waitWord ++ leBytes 8 c.x.waitWord
    ++ c.load.hangBytes ++ c.store.hangBytes ++ c.matrix.hangBytes
    ++ ((List.range 32).flatMap fun n => leBytes 2 (c.sem n).count.toNat ++ leBytes 2 (c.sem n).ceiling.toNat)
    ++ leBytes 8 c.fillsWord ++ leBytes 8 members.length ++ members.flatMap ph
  body ++ List.replicate (1024 - body.length) 0

/-- Writes the hang record of a core; a fault of the write drops it (R428). -/
def State.writeHang (s : State) (id : Dword) (core : Nat) : State :=
  let c := s.core core
  if c.csr.dhbase = 0 then s
  else
    match s.commitVa (.stream core) c.vfid c.csr.dhbase.toNat (s.hangRecord id core) true with
    | .ok t => t
    | .error (.trap t) => s.applySides t.sides
    | .error (.wait _ l) => s.applySides l

/-- A node has not advanced for T_hang (R427). -/
def State.hung (s : State) (n : Node) : Bool :=
  let last := n.cores.foldl (fun m c => max m (s.core c).advanced) 0
  let limit := (n.cores.head?.map fun c => (s.core c).csr.dhang.toNat).getD 0
  decide (last + limit * usCycles ≤ s.tb)

/-- HANG_DETECT (R427, R428): each core's record is captured and written, and the node is aborted. -/
def execHangDetect (node : Dword) (s : State) : Host.Outcome State Fault Refusal :=
  onRunning s node fun n =>
    if s.hung n then
      let marks := (n.cores.map fun c => ((s.orphans c).filter fun b => b).length).sum
      let s := n.cores.foldl (fun s c => s.writeHang node c) s
      s.abortNode node 4 0 0 marks
    else s

end Sys2Proof.Machine
end

