-- ==== Sys2Proof/Machine/HashTree.lean ====
section
/-! DEFINITION. The weight hash tree (R409): its levels and root, the nodes that firmware-reserved memory holds, and the way
from a leaf to the measured root. -/

namespace Sys2Proof.Machine
open Sys2Proof

/-- The bytes of a word, lowest first. -/
def wordBytes {w : Nat} (v : BitVec w) : List Byte := leBytes (w / 8) v.toNat

/-- A node: the hash of its children in ascending order. -/
def hashOf (children : List (BitVec 512)) : BitVec 512 := Config.sha512 (children.map wordBytes).flatten

/-- One level of the tree: nodes of up to 8 children; the number bounds the nodes. -/
def hashLevel : Nat → List (BitVec 512) → List (BitVec 512)
  | 0, _ => []
  | _ + 1, [] => []
  | n + 1, l => hashOf (l.take 8) :: hashLevel n (l.drop 8)

/-- The root: the single node of the top level; the number bounds the levels. -/
def hashRoot : Nat → List (BitVec 512) → BitVec 512
  | 0, l => l.headD 0
  | n + 1, l =>
    match hashLevel l.length l with
    | [r] => r
    | up => hashRoot n up

/-- The key of a stored node: its level, from 1 on, and its place there. -/
def nodeAt (level i : Nat) : Nat := level * 2 ^ 32 + i

/-- What reserved memory holds at a place of a level; level 0 holds the leaves. -/
def Sec.stored (k : Sec) (level i : Nat) : Option (BitVec 512) :=
  if level = 0 then k.leaves.lookup i else k.hashNodes.lookup (nodeAt level i)

/-- Every stored node above a level agrees with its children; the number bounds the levels. -/
def Sec.nodesOk (k : Sec) : Nat → Nat → List (BitVec 512) → Bool
  | 0, _, _ => true
  | n + 1, level, l =>
    if l.length ≤ 1 ∧ level ≠ 0 ∨ l = [] then true
    else
      let up := hashLevel l.length l
      ((List.range up.length).all fun i => k.stored (level + 1) i == up[i]?) && k.nodesOk n (level + 1) up

/-- The stored children of a node. -/
def Sec.children (k : Sec) (level i : Nat) : List (BitVec 512) := (List.range 8).filterMap fun j => k.stored level (8 * i + j)

/-- A stored value of a level agrees with the measured root: each node on the way up agrees with its children, and the last is the
root (R409); the number bounds the levels. -/
def Sec.pathOk (k : Sec) : Nat → Nat → Nat → Bool
  | 0, _, _ => false
  | n + 1, level, i =>
    match k.stored (level + 1) (i / 8) with
    | none => level != 0 && i == 0 && k.stored level i == k.root && k.root.isSome
    | some h => hashOf (k.children level (i / 8)) == h && k.pathOk n (level + 1) (i / 8)

/-- A frame agrees with its leaf, and the leaf with the measured root (R252, R409). -/
def State.frameGood (s : State) (frame : Nat) : Bool :=
  match s.sec.weightFrames.find? fun p => p.2 == frame with
  | some p =>
    s.sec.leaves.lookup p.1 == some (Config.sha512 (s.mem.readAt none none (frame * 2 ^ 19) (2 ^ 19))) && s.sec.pathOk 16 0 p.1
  | none => false

/-- The lines of a frame of which a read may meet something. -/
def MemSys.suspects (m : MemSys) (frame : Nat) : List Nat :=
  ((m.latent.map Prod.fst ++ m.poison.map Prod.fst ++ m.tagDiff.map Prod.fst).filter fun l => l / 8192 == frame)
    ++ if m.broken = [] ∨ (m.frameKey.lookup frame).isNone then [] else (List.range 8192).map (frame * 8192 + ·)

/-- The check of a frame reads all of it (R252, R387): poison is consumed, and corrected errors are met. -/
def State.meetFrame (s : State) (frame : Nat) : Except Stop State :=
  let lines := s.mem.suspects frame
  match lines.find? fun l => s.mem.poisoned none none (64 * l) with
  | some l => trapAddr 0x71 (64 * l) [.meet [l]]
  | none => .ok (s.meetLines lines)

end Sys2Proof.Machine
end

