-- ==== Sys2Proof/Machine/Transfer.lean ====
section
/-! DEFINITION. The transfer channels (R241 to R258): copies, the decrypt and verify modes, reduction packets (R451), drain,
cursor and configuration. -/

namespace Sys2Proof.Machine
open Sys2Proof

/-! ### Copies at their push -/

/-- XLD at its push. -/
def execXld (o : CCopy) (s : State) : Host.Outcome State Fault Refusal :=
  runStream s fun s => s.push .load (.xld o) o.c0 o.c1 o.c2 o.tail o.stop

/-- XLD_DEC at its push. -/
def execXldDec (o : CCopy) (s : State) : Host.Outcome State Fault Refusal :=
  runStream s fun s => s.push .load (.xldDec o) o.c0 o.c1 o.c2 o.tail o.stop

/-- XLD_VFY at its push. -/
def execXldVfy (o : CCopy) (s : State) : Host.Outcome State Fault Refusal :=
  runStream s fun s => s.push .load (.xldVfy o) o.c0 o.c1 o.c2 o.tail o.stop

/-- XST at its push. -/
def execXst (o : CCopy) (s : State) : Host.Outcome State Fault Refusal :=
  runStream s fun s => s.push .store (.xst o) o.c0 o.c1 o.c2 o.tail o.stop

/-- XCP at its push. -/
def execXcp (o : CCopy) (s : State) : Host.Outcome State Fault Refusal :=
  runStream s fun s => s.push .store (.xcp o) o.c0 o.c1 o.c2 o.tail o.stop

/-- XCP_SCL at its push. -/
def execXcpScl (o : CCopy) (s : State) : Host.Outcome State Fault Refusal :=
  runStream s fun s => s.push .store (.xcpScl o) o.c0 o.c1 o.c2 o.tail o.stop

/-- XCP_VFY at its push. -/
def execXcpVfy (o : CCopy) (s : State) : Host.Outcome State Fault Refusal :=
  runStream s fun s => s.push .store (.xcpVfy o) o.c0 o.c1 o.c2 o.tail o.stop

/-! ### Descriptors (R245, R246) -/

/-- The kinds of copy. -/
inductive CopyKind where
  /-- xld -/
  | ld
  /-- xld.dec -/
  | dec
  /-- xst -/
  | st
  /-- xcp -/
  | cp
  deriving DecidableEq, Repr

/-- What a copy command is. -/
structure CopyOp where
  kind : CopyKind
  scl : Bool
  vfy : Bool
  deriving DecidableEq, Repr

/-- The copy that a queued command is. -/
def copyOf : Instr → Option CopyOp
  | .xld _ => some ⟨.ld, false, false⟩
  | .xldDec _ => some ⟨.dec, false, false⟩
  | .xldVfy _ => some ⟨.ld, false, true⟩
  | .xst _ => some ⟨.st, false, false⟩
  | .xcp _ => some ⟨.cp, false, false⟩
  | .xcpScl _ => some ⟨.cp, true, false⟩
  | .xcpVfy _ => some ⟨.cp, false, true⟩
  | _ => none

/-- ORGi. -/
def cdOrg (d : List Byte) (i : Nat) : Int := signed 32 (field d (4 * i) 4)
/-- CNTi. -/
def cdCnt (d : List Byte) (i : Nat) : Nat := field d (0x10 + 4 * i) 4
/-- SPBASE. -/
def cdBase (d : List Byte) : Nat := field d 0x20 4
/-- SPSTR. -/
def cdStride (d : List Byte) : Nat := field d 0x24 4
/-- SCALEH. -/
def cdScale (d : List Byte) : Dword := d64 (field d 0x28 8)
/-- DORGi. -/
def cdDorg (d : List Byte) (i : Nat) : Int := signed 32 (field d (0x30 + 4 * i) 4)

/-- A copy that has latched its operands: what it is, its descriptor, and its handle entries in order. -/
structure Copy where
  op : CopyOp
  desc : List Byte
  first : HEntry
  /-- the destination of xcp; otherwise the handle itself -/
  second : HEntry
  scale : HEntry
  deriving DecidableEq, Repr

/-- Rows of P. -/
def Copy.rows (k : Copy) : Nat := cdCnt k.desc 0 * cdCnt k.desc 1 * cdCnt k.desc 2
/-- Elements of a row. -/
def Copy.cols (k : Copy) : Nat := cdCnt k.desc 3
/-- Element width of P. -/
def Copy.width (k : Copy) : Nat := k.first.width
/-- Bytes of a row. -/
def Copy.rowLen (k : Copy) : Nat := ceilDiv (k.cols * k.width) 8
/-- Bytes of P. -/
def Copy.size (k : Copy) : Nat := k.rows * k.rowLen
/-- Chunks of P. -/
def Copy.chunks (k : Copy) : Nat := ceilDiv k.size 16384

/-- An element of the region: its row and its index in the row. -/
abbrev Spot := Nat × Nat

/-- The byte of P at which an element begins. -/
def Copy.byteOf (k : Copy) (p : Spot) : Nat := p.1 * k.rowLen + p.2 * k.width / 8

/-- The elements of chunk j (R246). -/
def Copy.spots (k : Copy) (j : Nat) : List Spot :=
  let lo := 16384 * j
  let n := min 16384 (k.size - lo)
  let per := if k.width = 4 then 2 else 1
  let bytes := if k.width = 4 then 1 else k.width / 8
  (List.range (n / bytes)).flatMap fun i =>
    let b := lo + i * bytes
    let e := b % k.rowLen / bytes * per
    ((List.range per).filter fun x => decide (e + x < k.cols)).map fun x => (b / k.rowLen, e + x)

/-- The coordinates of an element from an origin. -/
def Copy.coords (k : Copy) (org : Nat → Int) (p : Spot) : Coords :=
  let c1 := cdCnt k.desc 1
  let c2 := cdCnt k.desc 2
  [org 0 + (p.1 / (c1 * c2) : Nat), org 1 + (p.1 / c2 % c1 : Nat), org 2 + (p.1 % c2 : Nat), org 3 + (p.2 : Nat)]

/-- The origin of the region in the destination handle. -/
def Copy.destOrg (k : Copy) (i : Nat) : Int := if k.op.kind = .cp then cdDorg k.desc i else cdOrg k.desc i

/-- The scratchpad offset of an element of width w: its first byte. -/
def Copy.spOff (k : Copy) (p : Spot) : Nat := cdBase k.desc + p.1 * cdStride k.desc + p.2 * k.width / 8

/-- An element of width w in the scratchpad. -/
def Core.spElem (c : Core) (w off i : Nat) : Nat :=
  if w = 4 then leNat (c.spRead off 1) / 16 ^ (i % 2) % 16 else leNat (c.spRead off (w / 8))

/-- Writes an element of width w to the scratchpad; the other nibble of a byte stays (R17). -/
def Core.putSpElem (c : Core) (w off i v : Nat) : Core :=
  if w = 4 then
    let old := leNat (c.spRead off 1)
    c.spWrite off [BitVec.ofNat 8 (if i % 2 = 1 then old % 16 + 16 * (v % 16) else old / 16 * 16 + v % 16)]
  else c.spWrite off (leBytes (w / 8) v)

/-! ### The checks of R247 -/

/-- The C-stream of a core is in device mode, where handles may name any VF (R228). -/
def State.deviceOf (s : State) (core : Nat) : Bool := (s.core core).c.mode = .device

/-- Reads the descriptor: in the scratchpad, or in memory for a transform node (R245). -/
def State.copyDesc (s : State) (core : Nat) (q : EngQ) (off : Dword) : Except Stop (State × List Byte) := do
  need (off.toNat % 16 == 0) (engFault 0x37)
  if s.isTransform core then s.readVa (.engine core q) (s.core core).vfid off.toNat 64
  else
    need (off.toNat + 64 ≤ (s.core core).spBytes) (engFault 0x37)
    .ok (s, (s.core core).spRead off.toNat 64)

/-- Stage 1: what needs no handle. -/
def CopyOp.descOk (k : CopyOp) (d : List Byte) (c2 : Dword) : Bool :=
  ((List.range 4).all fun i => cdCnt d i != 0)
    && (k.scl || zeroAt d 0x28 8)
    && (if k.kind = .cp then zeroAt d 0x20 8 else zeroAt d 0x30 16)
    && (k.kind == .cp || k.kind == .dec || c2 == 0)

/-- The extents of a scale tensor are those of its source, in blocks of 32 (R247). -/
def scaleExtents (src scale : HEntry) : Bool :=
  scale.extent 0 == src.extent 0 && scale.extent 1 == src.extent 1 && scale.extent 2 == src.extent 2
    && scale.extent 3 == ceilDiv (src.extent 3) 32

/-- Stage 3: what needs the element width. The alignment of SPBASE and SPSTR is checked here (log entry 22, DEDUCED), and the KIND and
RO that .vfy needs (R252; log entry 140, DEDUCED). -/
def Copy.ok (k : Copy) (spBytes : Nat) : Bool :=
  decide (k.size ≤ if k.op.kind = .dec then 2 ^ 16 else 2 ^ 30)
    && (k.op.kind == .cp
        || (cdBase k.desc % 16 == 0 && cdStride k.desc % 16 == 0 && decide (k.rowLen ≤ cdStride k.desc)
            && decide (cdBase k.desc + (k.rows - 1) * cdStride k.desc + k.rowLen ≤ spBytes)))
    && (!k.op.scl || (scaled8 k.first.fmt && k.scale.fmt == 7 && scaleExtents k.first k.scale))
    && (!k.op.vfy || (!k.first.blocks && k.first.ro))

/-- The line of a landing in which an element lies (R451). -/
def HEntry.landLine (e : HEntry) (c : Coords) : Nat :=
  match e.placeAt c with
  | .at tile elem => (tile * e.tileBytes + 64 * e.hdr + elem * e.width / 8) / 64
  | .pad => 0

/-- The first byte of a landing's line among the elements of the tiles, which follow one another without their headers (R233, R451). -/
def HEntry.lineStart (e : HEntry) (line : Nat) : Nat := (line - e.hdr) * 64

/-- The coordinates of an element of a tile. -/
def HEntry.coordsOf (e : HEntry) (tile elem : Nat) : Coords :=
  let t := [tile / (e.nt 1 * e.nt 2 * e.nt 3), tile / (e.nt 2 * e.nt 3) % e.nt 1, tile / e.nt 3 % e.nt 2, tile % e.nt 3]
  let o := [elem / 2 ^ (e.shift 1 + e.shift 2 + e.shift 3), elem / 2 ^ (e.shift 2 + e.shift 3) % 2 ^ e.shift 1
    , elem / 2 ^ e.shift 3 % 2 ^ e.shift 2, elem % 2 ^ e.shift 3]
  (List.range 4).map fun i => ((t.getD i 0 * 2 ^ e.shift i + o.getD i 0 : Nat) : Int)

/-- The elements of a landing's line, as coordinates. -/
def HEntry.lineCoords (e : HEntry) (line : Nat) : List Coords :=
  let first := e.lineStart line % e.tileBytes * 8 / e.width
  (List.range (512 / e.width)).map fun i => e.coordsOf (e.lineStart line / e.tileBytes) (first + i)

/-- The element of the region at coordinates of the destination, if the region holds it. -/
def Copy.spotAt (k : Copy) (c : Coords) : Option Spot :=
  let i (n : Nat) : Int := coord c n - k.destOrg n
  if (List.range 4).all fun n => decide (0 ≤ i n ∧ i n < (cdCnt k.desc n : Nat)) then
    some (((i 0).toNat * cdCnt k.desc 1 + (i 1).toNat) * cdCnt k.desc 2 + (i 2).toNat, (i 3).toNat)
  else none

/-- The handle that a copy writes, if it writes memory. -/
def Copy.dest (k : Copy) : Option HEntry :=
  match k.op.kind with
  | .st => some k.first
  | .cp => some k.second
  | _ => none

/-- The lines of a landing that chunk j begins: those whose first element of P lies in it. -/
def Copy.landLines (k : Copy) (e : HEntry) (j : Nat) : List Nat :=
  let at_ (p : Spot) : Coords := k.coords k.destOrg p
  let ok (p : Spot) : Bool := (List.range 4).all (e.inside (at_ p))
  let begins (line : Nat) : Bool :=
    ((e.lineCoords line).filterMap k.spotAt).all fun p => decide (16384 * j ≤ k.byteOf p)
  (((k.spots j).filter ok).map fun p => e.landLine (at_ p)).dedup.filter begins

/-- A copy to a landing covers whole lines (R451). -/
def Copy.landOk (k : Copy) : Bool :=
  match k.dest with
  | none => true
  | some e =>
    !e.landing || (List.range k.chunks).all fun j =>
      (k.landLines e j).all fun line => (e.lineCoords line).all fun c => (k.spotAt c).isSome && (List.range 4).all (e.inside c)

/-- An entry as a head command latches it: the handle, then its 64 bytes. -/
def HEntry.latch (e : HEntry) : List Byte := leBytes 8 e.handle.toNat ++ e.raw

/-- An entry from its latch. -/
def entryOfLatch (b : List Byte) : HEntry := .ofBytes (d64 (field b 0 8)) (hvfOf (d64 (field b 0 8))) (b.drop 8)

/-- The copy that a head command latched. -/
def EngQueue.copy (e : EngQueue) (op : CopyOp) : Copy :=
  let h (i : Nat) : HEntry := entryOfLatch (e.latch.entries.getD i [])
  ⟨op, e.latched 1, h 0, h 1, h 2⟩

/-- Step 0 of a copy (R247). -/
def State.copyBegin (s : State) (core : Nat) (q : EngQ) (op : CopyOp) (k : Cmd) : Except Stop (State × Copy) := do
  let a : Agent := .engine core q
  let dev := s.deviceOf core
  let (s, d) ← s.copyDesc core q k.c0
  s.onward (need (op.descOk d k.c2) (engFault 0x37))
  let (s, e1) ← s.onward (if op.kind = .st then s.deref a dev k.c1 true else s.derefRead a dev k.c1)
  let _ ← s.onward (s.handleKey e1)
  let (s, e2) ← s.onward (if op.kind = .cp then s.deref a dev k.c2 true else .ok (s, e1))
  let _ ← s.onward (s.handleKey e2)
  let (s, e3) ← s.onward (if op.scl then s.derefRead a dev (cdScale d) false 7 else .ok (s, e1))
  let cp : Copy := ⟨op, d, e1, e2, e3⟩
  s.onward (need (cp.ok (s.core core).spBytes && cp.landOk) (engFault 0x37))
  .ok (s.updEng core q fun e =>
    { e with latch := { e.latch with recs := [leBytes 8 cp.chunks, d], entries := [e1.latch, e2.latch, e3.latch] } }, cp)

/-! ### Chunks (R248) -/

/-- A fault of the access to an element leaves its byte of P in the record (R418: dfcur). -/
def atByte {α : Type} (n : Nat) : Except Stop α → Except Stop α
  | .error (.trap t) => .error (.trap { t with frec := { t.frec with cur := d64 n } })
  | r => r

/-- The value of a scaled source as a destination's code (R248); an integer destination takes CvtF2I (log entry 23, DEDUCED). -/
def scaleCode (src dst s x : Nat) : Nat :=
  let v := codeVal src x
  match Fp.Fmt.ofCode dst with
  | some g => if s % 256 = 0xFF then g.nan else (Fp.round (Fp.mulV v (Fp.decodeScale s)) g .rne false 0).bits
  | none => (Fp.cvtF2I (Fp.mulV v (Fp.decodeScale s)) (Fp.codeBits dst) .rne).bits

/-- The value that a copy writes for an element of the region (R248): the source is read, and converted. -/
def State.copyValue (s : State) (core : Nat) (q : EngQ) (k : Copy) (p : Spot) : Except Stop (State × Nat) :=
  if k.op.kind = .st then .ok (s, (s.core core).spElem k.width (k.spOff p) p.2)
  else atByte (k.byteOf p) do
    let a : Agent := .engine core q
    let c := k.coords (cdOrg k.desc) p
    let (s, v) ← s.readElem a k.first c
    if k.op.scl && k.first.fmt != k.second.fmt then
      let (s, x) ← s.readElem a k.scale [coord c 0, coord c 1, coord c 2, coord c 3 / 32]
      .ok (s, scaleCode k.first.fmt k.second.fmt x v)
    else if k.op.kind = .cp && k.first.fmt != k.second.fmt then
      .ok (s, (convElem k.first.fmt k.second.fmt .rne false 0 v).bits)
    else .ok (s, v)

/-- The elements that chunk j reads: its own, and those of the lines that it sends whole to a landing (R252, R451). -/
def Copy.readSpots (k : Copy) (j : Nat) : List Spot :=
  match k.dest with
  | none => k.spots j
  | some e => if e.landing then k.spots j ++ (k.landLines e j).flatMap fun line => (e.lineCoords line).filterMap k.spotAt else k.spots j

/-- The frames that the sources of some elements lie in, as frame numbers of 512 KiB. -/
def State.sourceFrames (s : State) (core : Nat) (q : EngQ) (k : Copy) (spots : List Spot) : Except Stop (State × List Nat) :=
  spots.foldlM (fun (r : State × List Nat) p => do
    let a : Agent := .engine core q
    let c := k.coords (cdOrg k.desc) p
    match ← atByte (k.byteOf p) (k.first.place c false) with
    | .pad => .ok r
    | .at tile elem =>
      let (s, l) ← atByte (k.byteOf p) do
        let (s, f) ← r.1.tileFrame a k.first c tile
        s.frameLeaf a k.first f (64 * k.first.hdr + elem * k.first.width / 8) .read
      let frame := l.pa / 2 ^ 19
      .ok (s, if r.2.contains frame then r.2 else r.2 ++ [frame])) (s, [])

/-- The check of the frames that a chunk reads (R252). -/
def State.verify (s : State) (frames : List Nat) : Except Stop State :=
  frames.foldlM (fun (s : State) f => do
    if SMap.get false s.sec.checked f then .ok s
    else s.onward do
      let s ← s.meetFrame f
      s.onward (need (s.frameGood f) (engFault 0x39))
      .ok { s with sec := { s.sec with checked := SMap.set false s.sec.checked f true } }) s

/-- The message of a reduction packet (R447: REDUCE, R451). -/
def reduceMsg (e : HEntry) (vf line : Nat) (data : Nat) : LinkMsg :=
  let head := bitsOf e.aux 53 42 + bitsOf e.aux 41 32 * 2 ^ 16 + bitsOf e.aux 31 0 * 2 ^ 32 + line * 2 ^ 64
  requestMsg 4 6 vf false false false 0 0 (BitVec.ofNat 640 (head + data * 2 ^ 128))

/-- A line of a landing as it leaves: encrypted under the handle's key, as every write through the handle is (R399). -/
def State.landData (s : State) (e : HEntry) (line : Nat) (bytes : List Byte) : Except Stop Nat := do
  match ← s.handleKey e with
  | none => .ok (leNat bytes)
  | some k =>
    let tweak := tweakOf (e.lineStart line / e.tileBytes) (e.lineStart line % e.tileBytes + 64 * e.hdr)
    .ok (Config.xtsSeal k tweak (unitOf bytes)).toNat

/-- The packets of chunk j of a copy to a landing. -/
def State.landChunk (s : State) (core : Nat) (q : EngQ) (k : Copy) (e : HEntry) (j : Nat) :
    Except Stop (State × List OutWrite) :=
  (k.landLines e j).foldlM (fun (r : State × List OutWrite) line => do
    let v ← ((e.lineCoords line).filterMap k.spotAt).foldlM (fun (r : State × List Nat) p => do
      let (s, v) ← r.1.copyValue core q k p
      .ok (s, r.2 ++ [v])) (r.1, [])
    let data ← v.1.landData e line (packBytes e.width v.2)
    let p : OutWrite :=
      { vf := e.vf, va := 0, pa := 0, pte := 0, bytes := [], nibbles := [], key := none
        packet := some (bitsOf e.aux 59 54, line, reduceMsg e e.vf line data) }
    .ok (v.1, r.2 ++ [p])) (s, [])

/-- The values of the elements of a chunk, read before any of them is written (R248). -/
def State.chunkValues (s : State) (core : Nat) (q : EngQ) (k : Copy) (spots : List Spot) :
    Except Stop (State × List (Spot × Nat)) :=
  spots.foldlM (fun (r : State × List (Spot × Nat)) p => do
    let (s, v) ← r.1.copyValue core q k p
    .ok (s, r.2 ++ [(p, v)])) (s, [])

/-- Writes values to the scratchpad. -/
def Core.putValues (c : Core) (k : Copy) (vs : List (Spot × Nat)) : Core :=
  vs.foldl (fun c v => c.putSpElem k.width (k.spOff v.1) v.1.2 v.2) c

/-- An xcp moves plaintext obtained through a key to a destination without one (R400); a landing without one has no frame at all, let
alone an encrypted one, and refuses it too (log entry 146, DEDUCED). -/
def Copy.guarded (k : Copy) : Bool := k.op.kind = .cp && k.first.keyid != 0 && k.second.keyid = 0

/-- Where the values of a chunk go in memory. Where R400 asks for it, each destination frame must be encrypted. -/
def State.chunkWrites (s : State) (core : Nat) (q : EngQ) (k : Copy) (e : HEntry) (vs : List (Spot × Nat)) :
    Except Stop (State × List OutWrite) := do
  let r ← vs.foldlM (fun (r : State × List OutWrite) v => atByte (k.byteOf v.1) do
    let (s, w) ← r.1.elemTarget (.engine core q) e (k.coords k.destOrg v.1) v.2
    s.onward (need (!(k.guarded && !w.pte.getLsbD 7)) (trapAddr 0x70 w.va))
    .ok (s, w :: r.2)) (s, [])
  .ok (r.1, joinWrites r.2.reverse)

/-- The colour of a command's stores. -/
def cmdColour (i : Instr) : BitVec 3 := ((tailOf i).map Tail.colour).getD 0

/-- Every write of a queue of a core is performed at a scope, and those to peers are answered. -/
def State.engineDone (s : State) (core : Nat) (q : EngQ) (scope : Nat) : Bool :=
  s.mem.performed (.engine core q) (dieOf core) scope allColours && s.peers.all fun r => !r.unacked (.engine core q)

/-- Writes of the chunk in progress leave as requests, as far as the core's pool and its channel's cap allow (R242); the step
is complete once they are all performed at core scope (R248). -/
def State.copyEmit (s : State) (core : Nat) (q : EngQ) (k : Cmd) (ws : List OutWrite) : Except Stop State := do
  let ch := (channelOf k.op).getD 0
  let colours := colourBit (cmdColour k.op)
  if ws = [] then
    need (s.engineDone core q 1) (waitOn .order)
    .ok ((s.updEng core q fun e => { e with todo := none }).stepUp core q)
  else
    let n := s.requestRoom core ch
    need (n != 0) (waitOn .pool)
    match s.emitSome (.engine core q) colours (some ch) n ws with
    | (t, rest, none) => .ok (t.updEng core q fun e => { e with todo := some rest })
    | (t, rest, some e) =>
      if rest = ws then .error e else .ok (t.updEng core q fun e => { e with todo := some rest })

/-- Reads the current chunk of a copy: the writes that it makes in memory; a copy to the scratchpad is complete at once (R248). -/
def State.copyRead (s : State) (core : Nat) (q : EngQ) (cp : Copy) (j : Nat) : Except Stop (State × Option (List OutWrite)) := do
  let s ← if cp.op.vfy then do
      let (s, fs) ← s.sourceFrames core q cp (cp.readSpots j)
      s.onward (s.verify fs)
    else .ok s
  match cp.dest with
  | none =>
    let (s, vs) ← s.chunkValues core q cp (cp.spots j)
    .ok (s.updCore core fun c => c.putValues cp vs, none)
  | some d =>
    if d.landing then do
      need (!cp.guarded) (trapOf 0x70 0)
      match (cp.spots j).find? fun p => !(List.range 4).all (d.inside (cp.coords cp.destOrg p)) with
      | some p => atByte (cp.byteOf p) (d.fault 0x27 (cp.coords cp.destOrg p) 0)
      | none =>
        let (s, ws) ← s.landChunk core q cp d j
        .ok (s, some ws)
    else
      let (s, vs) ← s.chunkValues core q cp (cp.spots j)
      let (s, ws) ← s.chunkWrites core q cp d vs
      .ok (s, some ws)

/-- A turn of a copy at its current chunk (R248): every read before any write, then its writes. -/
def State.copyStep (s : State) (core : Nat) (q : EngQ) (op : CopyOp) (k : Cmd) (e : EngQueue) : Except Stop State :=
  match e.todo with
  | some ws => s.copyEmit core q k ws
  | none => do
    let (s, ws) ← s.copyRead core q (e.copy op) e.step
    match ws with
    | none => .ok (s.stepUp core q)
    | some ws => .ok (s.updEng core q fun e => { e with todo := some ws })

/-- The writes of a core's copies on a channel are performed at module scope (R253). -/
def State.channelPerformed (s : State) (core ch : Nat) : Bool :=
  let mine (a : Agent) (c : Option Nat) : Bool := ofCores [core] a && c == some ch
  (s.mem.pend.all fun w => !mine w.agent w.chan)
    && (s.mem.log.all fun e => !mine e.2.agent e.2.chan || allDies.all fun d => e.2.dies.contains d)
    && s.peers.all fun r => !(mine r.agent r.chan && r.unacked r.agent)

/-- Earlier copies of a core on a channel have retired, and their writes are performed at module scope (R253). -/
def State.drainedChannel (s : State) (core ch : Nat) : Bool :=
  let c := s.core core
  (c.load.cmds ++ c.store.cmds).all (fun k => channelOf k.op != some ch) && s.channelPerformed core ch

/-- COPY_CHUNK (R248): one chunk, or an xdrain of a transform node's list (R258). -/
def execCopyChunk (core : Nat) (q : EngQ) (s : State) : Host.Outcome State Fault Refusal :=
  .next (s.latchStep core q fun k =>
    match k.op with
    | .xldDec _ => none
    | .xdrain o =>
      some (fun s =>
        if s.channelPerformed core o.ch.toNat then .ok (s.oneStep core q) else waitOn (.drainCh o.ch.toNat),
        fun _ s => .ok s)
    | i => (copyOf i).map fun op =>
      (fun s => do
        let (s, _) ← s.copyBegin core q op k
        .ok s, fun e s => s.copyStep core q op k e))

/-! ### xld.dec (R251) -/

/-- A decrypting xld latches its descriptor and entry. A crypto record that is misaligned or lies outside the scratchpad raises 0x37
before the descriptor is read; R251 names no fault for it (log entry 139, DESIGN CHOICE). -/
def State.decBegin (s : State) (core : Nat) (k : Cmd) : Except Stop State := do
  need (k.c2.toNat % 32 == 0 && decide (k.c2.toNat + 32 ≤ (s.core core).spBytes)) (engFault 0x37)
  let (s, _) ← s.copyBegin core .load ⟨.dec, false, false⟩ k
  .ok s

/-- The rows of P as bytes, from its elements. -/
def Copy.packed (k : Copy) (vs : List Nat) : List Byte :=
  (List.range k.rows).flatMap fun i => packBytes k.width ((vs.drop (i * k.cols)).take k.cols)

/-- The one step of a decrypting xld: P is read and its tag is checked; a tag failure writes no byte and posts an event. -/
def State.decStep (s : State) (core : Nat) (k : Cmd) (e : EngQueue) : Except Stop State := do
  let c := s.core core
  let cp := e.copy ⟨.dec, false, false⟩
  let r := c.spRead k.c2.toNat 32
  let slot := field r 0xC 1
  need (slot ≤ 63 && zeroAt r 0xD 3) (engFault 0x38)
  match (s.vf c.vfid).keys.lookup slot with
  | none => engFault 0x38
  | some key =>
    let spots := (List.range cp.rows).flatMap fun i => (List.range cp.cols).map fun x => (i, x)
    let (s, vs) ← s.chunkValues core .load cp spots
    let s := s.stepUp core .load
    let text := cp.packed (vs.map Prod.snd)
    let k1 : BitVec 256 := key.extractLsb' 0 256
    let iv : BitVec 96 := BitVec.ofNat 96 (field r 0 12)
    if Config.gcmTag k1 iv [] text == BitVec.ofNat 128 (field r 0x10 16) then
      let plain := Config.gcmOpen k1 iv text
      let value (p : Spot) : Nat := Fp.packedElem ((plain.drop (p.1 * cp.rowLen)).take cp.rowLen) cp.width p.2
      .ok (s.updCore core fun c => c.putValues cp (spots.map fun p => (p, value p)))
    else
      let s := s.updCore core fun c => { c with csr := { c.csr with xtagf := d64 (2 ^ 32) + e.head.zeroExtend 64 } }
      .ok (match c.node with
        | some id => s.postNode id 0x8E 0 0 e.head.toNat
        | none => s)

/-- DECRYPT_STEP (R251): a tag failure writes no byte. -/
def execDecryptStep (core : Nat) (s : State) : Host.Outcome State Fault Refusal :=
  .next (s.latchStep core .load fun k =>
    match k.op with
    | .xldDec _ => some (fun s => s.decBegin core k, fun e s => s.decStep core k e)
    | _ => none)

/-! ### xdrain, xcur, xcfg -/

/-- XDRAIN (R253). -/
def execXdrain (o : CCh) (s : State) : Host.Outcome State Fault Refusal :=
  runStream s fun s => do
    need (s.drainedChannel s.cur o.ch.toNat) (waitOn (.drainCh o.ch.toNat))
    .ok (s.done o.stop)

/-- The cursor of a queue (R254). -/
def EngQueue.cursor (e : EngQueue) : Nat :=
  (if e.begun then 2 ^ 49 else 0) + (if e.fault.isSome then 2 ^ 48 else 0) + e.step % 2 ^ 16 * 2 ^ 32 + e.head.toNat

/-- XCUR (R254). -/
def execXcur (o : CCur) (s : State) : Host.Outcome State Fault Refusal :=
  let e := if o.store then s.here.store else s.here.load
  .next ((s.setReg o.d (d64 e.cursor)).done o.stop)

/-- XCFG (R255). -/
def execXcfg (o : CCfg) (s : State) : Host.Outcome State Fault Refusal :=
  runStream s fun s => do
    let v := s.reg o.a
    need (v.toNat ≤ 8192) (trapOf 0x37 v)
    let n := o.ch.toNat
    let old := SMap.get (0 : Dword) s.here.csr.xch n
    .ok (((s.setReg o.d old).updHere fun c => { c with csr := { c.csr with xch := SMap.set 0 c.csr.xch n v } }).done o.stop)

end Sys2Proof.Machine
end

