-- ==== Sys2Proof/Machine/Context.lean ====
section
/-! DEFINITION. The part of a fused array that each quadrant holds (R175), the context area of a core byte by byte (R420),
and the checks under which a context resumes (R431). Where R420 gives an item no place within its part, and no width, the
place is the model's (log entry 77, DESIGN CHOICE). -/

namespace Sys2Proof.Machine
open Sys2Proof

/-! ### A fused array by quadrants (R175) -/

/-- The first K and the first column of the plane part that a core holds in a standing fusion of a shape. -/
def arrayPart (shape core : Nat) : Nat × Nat :=
  let m := memberOf core
  (if shape = 2 ∨ shape = 3 then 64 * (m / 2) else 0, if shape = 1 ∨ shape = 3 then 64 * (m % 2) else 0)

/-- A core's quadrant holds banks of the array: the south ones alone where the shape joins along K. -/
def holdsBanks (shape core : Nat) : Bool := (shape != 2 && shape != 3) || memberOf core / 2 == 1

/-- Entries of a table by 128 * row + column: some rows from a row on, 64 columns from a column on, counted from there. -/
def partOf {α : Type} (m : SMap α) (row rows col : Nat) : SMap α :=
  m.filterMap fun p =>
    if row ≤ p.1 / 128 ∧ p.1 / 128 < row + rows ∧ col ≤ p.1 % 128 ∧ p.1 % 128 < col + 64 then
      some (p.1 - (128 * row + col), p.2)
    else none

/-- The part of a plane from some K and column on; a part without elements is EMPTY. -/
def Plane.part (p : Plane) (k n : Nat) : Plane :=
  if p.ready && (decide (p.kp ≤ k) || decide (p.np ≤ n)) then .empty
  else
    { p with kp := min 64 (p.kp - k), np := min 64 (p.np - n), elems := partOf p.elems k 64 n
             scales := partOf p.scales (k / 32) 2 n }

/-- The part of a bank from a column on. m, l, t and the maps, which have no column, stand in every part. -/
def Bank.part (b : Bank) (n : Nat) : Bank := { b with acc := partOf b.acc 0 64 n }

/-- The part of a factor slot: 64 rows of factor B, which are columns of the array. -/
def Factor.part (f : Factor) (n : Nat) : Factor := { f with rows := (f.rows.drop n).take 64, scales := (f.scales.drop n).take 64 }

/-- A core's quadrant with its own part of a standing array; storage that the array does not use keeps its reset state. -/
def State.held (s : State) (core : Nat) : Quadrant :=
  let q := (s.core core).quad
  if q.role = 0 || q.pending then q
  else
    let a := (s.core q.lead).quad
    let p := arrayPart q.shape core
    let q := { q with act := a.act.part p.1 p.2, shd := a.shd.part p.1 p.2 }
    if holdsBanks q.shape core then
      { q with bank0 := a.bank0.part p.2, bank1 := a.bank1.part p.2, slots := a.slots.map fun f => (f.1, f.2.part p.2) }
    else { q with bank0 := .init, bank1 := .init, slots := [] }

/-- Changes a core's quadrant where its storage stands: for a member of a standing array, the array at its lead, from the
member's first K and column on. Storage that the array does not use keeps its reset state. -/
def State.updHeld (s : State) (core : Nat) (banks : Bool) (f : Nat → Nat → Quadrant → Quadrant) : State :=
  let q := (s.core core).quad
  if q.role = 0 || q.pending then s.updQuad core (f 0 0)
  else if banks && !holdsBanks q.shape core then s
  else s.updQuad q.lead (f (arrayPart q.shape core).1 (arrayPart q.shape core).2)

/-! ### The parts of the area (R420) -/

/-- Bytes cut or filled with zeros to a length. -/
def fitBytes (n : Nat) (l : List Byte) : List Byte := (l ++ List.replicate (n - l.length) 0).take n

/-- The engine queues in the order of the area. -/
abbrev engOrder : List EngQ := [.load, .store, .matrix, .backfill]

/-- The CSR entries of a stream, then of the vector CSRs for the X-stream: number and value. -/
def Core.streamEntries (c : Core) (x : Bool) : List (Nat × Dword) :=
  let t := c.stream x
  [(0x003, d64 ((if x then 256 else 0) + t.mode.code))]
    ++ ((List.range 5).map fun i => (0x010 + i, t.trapCsr i))
    ++ ((List.range 7).map fun i => (0x020 + i, t.loops.get i))
    ++ ((List.range 10).map fun i => (0x3C0 + i, t.frec.get i))
    ++ (if x then ([0x100, 0x101, 0x344] ++ (List.range 32).map (0x360 + ·)).map fun n => (n, (c.xCsr n).getD 0) else [])

/-- The CSRs of a core that are its own registers. -/
def coreNumbers : List Nat :=
  [0x001, 0x002, 0x006, 0x008, 0x009, 0x181, 0x200, 0x240, 0x241, 0x242, 0x243, 0x244] ++ (List.range 8).map (0x280 + ·)
    ++ [0x289, 0x2C2, 0x301, 0x302, 0x305, 0x340, 0x380, 0x3CA, 0x3CB, 0x3CC]

/-- The CSR entries of a context, in order: bits 15 to 12 of a number name its copy. -/
def Core.csrEntries (c : Core) : List (Nat × Dword) :=
  c.streamEntries false ++ (c.streamEntries true).map (fun p => (0x1000 + p.1, p.2))
    ++ coreNumbers.map fun n => (0x2000 + n, (c.csr.get n).getD 0)

/-- The number under which the area has a CSR of a stream: the stream's copy, or the core's own. -/
def Core.csrPlace (c : Core) (x : Bool) (n : Nat) : Nat :=
  let mine := (if x then 0x1000 else 0) + n
  if c.csrEntries.any fun p => p.1 == mine then mine else 0x2000 + n

/-- The offset of a CSR's entry. -/
def Core.csrOffset (c : Core) (n : Nat) : Nat := 0x0500 + 16 * (c.csrEntries.map Prod.fst).idxOf n

/-- A stream's registers s0 to s31, then its handler bank. -/
def Stream.regBytes (t : Stream) : List Byte :=
  (List.range 32).flatMap fun r => leBytes 8 (if r = 0 then 0 else (SMap.get 0 t.regs r).toNat)
def Stream.handlerBytes (t : Stream) : List Byte := (List.range 8).flatMap fun r => leBytes 8 (SMap.get 0 t.hregs (24 + r)).toNat

/-- The values that the debugger wrote as a queue's contents and that no command holds, by the queue's offset. -/
def Core.rawFill (c : Core) (off : Nat) : Nat := ((c.dbg.raw.filter fun r => r.1 == off).map fun r => r.2.2.length / 64).sum

/-- The offset of a queue's entries. -/
def queueOffset (q : EngQ) : Nat := 0x2000 + 0x1000 * engOrder.idxOf q
/-- The offset of what a queue's head has latched. -/
def latchOffset (q : EngQ) : Nat := 0x5400 + 0x2E0 * engOrder.idxOf q
/-- The offset of a queue's fault record. -/
def faultOffset (q : EngQ) : Nat := 0x1000 + 0x80 * engOrder.idxOf q

/-- The header, with the streams' offsets and the fills of the queues after what the rule names. -/
def Core.headerBytes (c : Core) (core : Nat) : List Byte :=
  leBytes 8 c.csr.nodeid.toNat ++ leBytes 8 c.saveTb ++ leBytes 8 c.spBytes ++ leBytes 4 (memberOf core) ++ leBytes 4 c.saveCause
    ++ leBytes 8 c.c.pc.toNat ++ leBytes 8 c.x.pc.toNat ++ leBytes 16 0
    ++ ((List.range 32).flatMap fun q => leBytes 1 (c.queue q).length)
    ++ engOrder.flatMap fun q => leBytes 1 ((c.eng q).cmds.length + c.rawFill (queueOffset q))

/-- A word that the debugger writes into a queue, as its 64 bytes; a queued command is the same. -/
def CtxCmd.bytes (k : CtxCmd) : List Byte :=
  fitBytes 64 (leBytes 4 k.word.toNat ++ leBytes 4 k.tail.toNat ++ leBytes 8 k.c0.toNat ++ leBytes 8 k.c1.toNat
    ++ leBytes 8 k.c2.toNat ++ leBytes 8 k.stamp.toNat)
def Cmd.bytes (k : Cmd) : List Byte :=
  fitBytes 64 (leBytes 8 (Cmd.word (some k)) ++ leBytes 8 k.c0.toNat ++ leBytes 8 k.c1.toNat ++ leBytes 8 k.c2.toNat
    ++ leBytes 8 k.stamp.toNat)

/-- What a queue's head stands at: index, step, state bits, tail signal, and the latched records, entries and banks. -/
def EngQueue.latchBytes (e : EngQueue) : List Byte :=
  let parts (l : List (List Byte)) : List Byte := l.flatMap fun b => leBytes 2 b.length ++ b
  fitBytes 0x2E0 (leBytes 4 e.head.toNat ++ leBytes 4 ((if e.begun then 1 else 0) + (if e.sigPending then 2 else 0)
      + (if e.untimed then 4 else 0) + (match e.held with | none => 0 | some x => if x then 0x18 else 8))
    ++ leBytes 8 e.step ++ leBytes 1 e.latch.recs.length ++ leBytes 1 e.latch.entries.length ++ leBytes 2 e.latch.banks.length
    ++ (e.latch.banks.flatMap fun b => leBytes 2 (b.1 + if b.2 then 256 else 0))
    ++ parts e.latch.recs ++ parts e.latch.entries)

/-- A fault record, and the fault at which the head stands. -/
def EngQueue.faultBytes (e : EngQueue) : List Byte :=
  ((List.range 10).flatMap fun i => leBytes 8 (e.frec.get i).toNat)
    ++ match e.fault with
      | none => []
      | some f => leBytes 1 1 ++ leBytes 1 f.1.toNat ++ leBytes 1 (if f.2 then 1 else 0)

/-- A semaphore, and how many tail signals on it are pending. -/
def Core.semBytes (c : Core) (n : Nat) : List Byte :=
  let due (q : EngQ) : Bool :=
    (c.eng q).sigPending && (c.eng q).cmds.head?.any fun k => ((tailOf k.op).bind Tail.sigSem).any fun m => m.toNat == n
  leBytes 2 (c.sem n).count.toNat ++ leBytes 2 (c.sem n).ceiling.toNat ++ leBytes 4 (engOrder.filter due).length

/-- The accesses that waited at the save. -/
def Core.waitBytes (c : Core) : List Byte := c.dbg.waiting.flatMap fun v => leBytes 8 v.toNat

/-- A table slot of the node's mask: owner, states and readers of the active and the shadow bank (R141). -/
def TSlot.stateBytes (t : TSlot) : List Byte :=
  leBytes 2 (match t.owner with | none => 0 | some v => 256 + v) ++ leBytes 1 t.active.state ++ leBytes 1 t.shadow.state
    ++ leBytes 4 t.active.readers ++ leBytes 4 t.shadow.readers ++ leBytes 4 0

/-- An entry of the probe-region tag table (R203). -/
def PEntry.tagBytes (p : PEntry) : List Byte :=
  fitBytes 32 (leBytes 1 p.state ++ leBytes 1 p.vf ++ leBytes 1 p.cause.toNat ++ leBytes 1 p.pins ++ leBytes 4 p.index
    ++ leBytes 4 p.gen ++ leBytes 4 p.tile ++ leBytes 8 p.handle.toNat ++ leBytes 4 p.ticket ++ leBytes 4 p.recency)

/-- The elements of a plane, row by row of K, two bytes each. -/
def Plane.elemBytes (p : Plane) : List Byte :=
  (List.range 4096).flatMap fun i => leBytes 2 (p.elem (i / 64) (i % 64))
/-- State, format, extents and scales of a plane. -/
def Plane.stateBytes (p : Plane) : List Byte :=
  leBytes 1 (if p.ready then 1 else 0) ++ leBytes 1 p.fmt.toNat ++ leBytes 1 p.kp ++ leBytes 1 p.np ++ leBytes 12 0
    ++ (List.range 128).flatMap fun i => leBytes 1 (p.scale (i / 64) (i % 64))

/-- The words of a bank, its intermediates, its side registers and its maps. -/
def Bank.accBytes (b : Bank) : List Byte := (List.range 4096).flatMap fun i => leBytes 4 (b.word (i / 64) (i % 64))
def Bank.interBytes (b : Bank) : List Byte := (List.range 4096).flatMap fun i => leBytes 4 (b.inter (i / 64) (i % 64))
def Bank.sideBytes (b : Bank) : List Byte :=
  ((List.range 64).flatMap fun r => leBytes 4 (b.max r)) ++ (List.range 64).flatMap fun r => leBytes 4 (b.sum r)
def Bank.mapBytes (b : Bank) : List Byte :=
  ((List.range 8).map fun i => SMap.get (0 : Byte) b.tenant i) ++ (List.range 8).map fun i => SMap.get (0 : Byte) b.comp i

/-- A factor slot: its descriptor, its state, factor B's rows of 128 bytes, their scales of 2. -/
def Factor.bytes (f : Factor) : List Byte :=
  fitBytes 0x80 (fitBytes 80 f.desc ++ leBytes 1 (if f.ready then 1 else 0))
    ++ ((List.range 64).flatMap fun i => fitBytes 128 (f.rows.getD i []))
    ++ (List.range 64).flatMap fun i => fitBytes 2 (f.scales.getD i [])

/-- The slots of the mask of a core's node. -/
def State.maskOf (s : State) (core : Nat) : Nat := (((s.core core).node.bind s.node?).map fun n => descSlots n.desc).getD 0

/-- The area of a core but for its scratchpad: offsets and the bytes there, the latest first. Everything else is zero. -/
def State.ctxParts (s : State) (core : Nat) : List (Nat × List Byte) :=
  let c := s.core core
  let q := s.held core
  let mask := s.maskOf core
  let slots := (List.range 16).filter fun i => bitOf mask i
  (c.dbg.raw.map fun r => (r.1, r.2.2))
    ++ [(0x0000, c.headerBytes core), (0x0100, c.c.regBytes), (0x0200, c.x.regBytes), (0x0300, c.c.handlerBytes)
      , (0x0340, c.x.handlerBytes), (0x0380, (List.range 7).flatMap fun k => leBytes 4 (SMap.get 0 c.vec.masks (k + 1)).toNat)
      , (0x03C0, c.vec.toX.flatMap fun v => leBytes 8 v.toNat), (0x0440, c.vec.toC.flatMap fun v => leBytes 8 v.toNat)
      , (0x04C0, leBytes 1 c.vec.toX.length ++ leBytes 1 c.vec.toC.length)
      , (0x0500, c.csrEntries.flatMap fun p => leBytes 8 p.1 ++ leBytes 8 p.2.toNat)
      , (0x0D00, (List.range 32).flatMap c.semBytes), (0x0E00, c.waitBytes)]
    ++ slots.map (fun i => (0x0F00 + 16 * i, (SMap.get .init c.slots i).stateBytes))
    ++ engOrder.map (fun k => (faultOffset k, (c.eng k).faultBytes))
    ++ (List.range c.slotCount).map (fun i => (0x1200 + 32 * i, (SMap.get .init c.probe i).tagBytes))
    ++ engOrder.map (fun k => (queueOffset k, (c.eng k).cmds.flatMap Cmd.bytes))
    ++ engOrder.map (fun k => (latchOffset k, (c.eng k).latchBytes))
    ++ [(0x5F80, (List.range 8).flatMap fun i => leBytes 8 (SMap.get 0 c.csr.xch i).toNat)]
    ++ (List.range 32).map (fun k => (0x6000 + 0x200 * k, (c.queue k).flatMap fun v => leBytes 128 v.toNat))
    ++ [(0xA000, q.act.elemBytes), (0xC000, q.shd.elemBytes), (0xE000, q.act.stateBytes), (0xE800, q.shd.stateBytes)
      , (0xF000, q.bank0.accBytes), (0x13000, q.bank1.accBytes), (0x17000, q.bank0.interBytes), (0x1B000, q.bank1.interBytes)
      , (0x1F000, q.bank0.sideBytes ++ q.bank1.sideBytes), (0x1F400, q.bank0.mapBytes ++ q.bank1.mapBytes)
      , (0x1F420, leBytes 1 q.shape ++ leBytes 1 q.role ++ leBytes 1 (if q.pending then 1 else 0) ++ leBytes 1 (memberOf q.lead)
          ++ leBytes 4 c.csr.mflags.toNat)]
    ++ (List.range 16).map (fun i => (0x20000 + 0x2400 * i, (q.factor i).bytes))
    ++ slots.flatMap fun i =>
      let t := SMap.get .init c.slots i
      [(0x44000 + 0x3000 * i, t.active.data.take 5184), (0x45800 + 0x3000 * i, t.shadow.data.take 5184)]

/-- Bytes of the context area of a core (R420). -/
def State.ctxBytes (s : State) (core off len : Nat) : List Byte :=
  let parts := s.ctxParts core
  let c := s.core core
  (List.range len).map fun i =>
    let o := off + i
    if 0x74000 ≤ o ∧ o < 0x74000 + c.spBytes then (c.spRead (o - 0x74000) 1).headD 0
    else ((parts.find? fun p => decide (p.1 ≤ o ∧ o < p.1 + p.2.length)).map fun p => p.2.getD (o - p.1) 0).getD 0

/-! ### The checks of a resumption (R431) -/

/-- A value that a CSR may hold: the one that a device-mode write of it leaves. -/
def csrHolds (x : Bool) (n : Nat) (v : Dword) (get : Core → Option Dword) : Bool :=
  let blank := Core.init.setStream x { Stream.init with mode := .device }
  get (blank.putCsr x n v) == some v

/-- A CSR entry holds no reserved value: its number as the area has it, its value. -/
def csrLegal (n : Nat) (v : Dword) : Bool :=
  let k := n % 0x1000
  if n < 0x2000 then
    let x := decide (0x1000 ≤ n)
    if k = 0x003 then true
    else if k = 0x3C0 then (v &&& ~~~(0x107FF : Dword)) == 0 && decide (bitsOf v.toNat 10 8 ≤ 5)
    else if 0x010 ≤ k ∧ k ≤ 0x014 then csrHolds x k v fun c => some ((c.stream x).trapCsr (k - 0x010))
    else if 0x020 ≤ k ∧ k ≤ 0x026 then csrHolds x k v fun c => some ((c.stream x).loops.get (k - 0x020))
    else if 0x3C1 ≤ k ∧ k ≤ 0x3C9 then csrHolds x k v fun c => some ((c.stream x).frec.get (k - 0x3C0))
    else if k = 0x100 then vtypeOk v && (v &&& ~~~vtypeMask) == 0
    else csrHolds true k v fun c => c.xCsr k
  else if k = 0x006 then v.toNat < 2 ^ 17
  else if k = 0x200 then
    (v &&& ~~~(0x003FFFFF00000333 : Dword)) == 0 && bitsOf v.toNat 9 8 != 3
      && decide (0x180000 ≤ bitsOf v.toNat 53 32 ∧ bitsOf v.toNat 53 32 ≤ 0x200000)
  else if k = 0x3CC then (v &&& ~~~(0xFF03 : Dword)) == 0
  else if k = 0x008 then vtypeOk v && (v &&& ~~~vtypeMask) == 0
  else if k = 0x289 then decide (v.toNat < 2 ^ 33)
  else if [0x009, 0x181, 0x240, 0x241, 0x2C2, 0x340, 0x380, 0x3CA, 0x3CB].contains k ∨ (0x280 ≤ k ∧ k ≤ 0x287) then
    csrHolds false k v fun c => c.csr.get k
  else true

/-- A plane that is READY has a format of mlw and extents within its array (R161, R182). -/
def Quadrant.planeLegal (q : Quadrant) (p : Plane) : Bool :=
  !p.ready || (decide (1 ≤ p.fmt.toNat ∧ p.fmt.toNat ≤ 5) && decide (1 ≤ p.kp ∧ p.kp ≤ q.arrayK) && decide (1 ≤ p.np ∧ p.np ≤ q.arrayN))

/-- A map byte names a slot or none. -/
def mapLegal (b : Byte) : Bool := (b &&& 0x70) == 0

/-- A factor slot that is READY holds a descriptor without a reserved value (R187). -/
def Factor.legal (f : Factor) : Bool :=
  !f.ready || (f.desc.length == 80 && zeroAt f.desc 0x46 10 && decide (1 ≤ field f.desc 0x44 2 ∧ field f.desc 0x44 2 ≤ 64)
    && decide (1 ≤ recFmt f.desc ∧ recFmt f.desc ≤ 3))

/-- The causes with which a head may stand (R416: delivery E; R423: poison and core errors in device mode). -/
def engineCauses : List Nat :=
  (List.range 8).map (0x20 + ·) ++ [0x29, 0x2B, 0x2C, 0x30, 0x31, 0x32, 0x34, 0x35, 0x36, 0x37, 0x38, 0x39] ++ (List.range 6).map (0x40 + ·)
    ++ [0x50, 0x60, 0x62, 0x63, 0x64, 0x70, 0x71, 0x72]

/-- A latched record or descriptor of a command has no reserved field or value that its step 0 would refuse (R165, R245, R340). -/
def recordLegal (k : Cmd) (rs : List (List Byte)) : Bool :=
  match copyOf k.op, k.op with
  | some o, _ => rs = [] || o.descOk (rs.getD 1 []) k.c2
  | none, .attn _ => rs = [] || (zeroAt (rs.getD 1 []) 0x5D 3 && zeroAt (rs.getD 1 []) 0x64 28 && bitsOf (atMode (rs.getD 1 [])) 7 5 == 0)
  | none, .mlw _ | none, .mst _ | none, .mmul _ | none, .mmulSmax _ | none, .mlora _ =>
    rs.all fun r => bitsOf (field r 0xC 1) 7 5 == 0 && zeroAt r 0xD 3
  | none, _ => true

/-- What a head has latched holds no reserved value: its records, and handle entries of 64 bytes after their handles (R231). -/
def EngQueue.latchLegal (e : EngQueue) : Bool :=
  (e.cmds.head?.all fun k => recordLegal k e.latch.recs)
    && (e.latch.entries.all fun b => b.length == 72 && (entryOfLatch b).valid && (entryOfLatch b).wf 7)
    && e.latch.banks.all fun b => decide (b.1 < 16)

/-- A probe-region entry holds no reserved value (R203). -/
def PEntry.legal (p : PEntry) : Bool := decide (p.state ≤ 3 ∧ p.vf < 256 ∧ p.index < 2 ^ 20 ∧ p.gen < 4096)

/-- The waiting accesses hold wait words of R428's kinds. -/
def waitingLegal (l : List Dword) : Bool := (l.take 6).all fun v => v.toNat < 2 ^ 32 && decide (v.toNat % 256 ≤ 18)

/-- The banks of a table slot are in states that they have (R138): the active one is never LOADING. -/
def TSlot.legal (t : TSlot) : Bool :=
  decide (t.active.state ≤ 2) && t.active.state != 1 && decide (t.shadow.state ≤ 2) && t.owner.all fun v => decide (v ≤ 255)

/-- The invariants of R431: whether each holds, and the offset of what it is about. -/
def State.ctxChecks (s : State) (core : Nat) : List (Bool × Nat) :=
  let c := s.core core
  let q := c.quad
  (c.dbg.raw.map fun r => (false, r.2.1))
    ++ [(c.c.pc.toNat % 4 == 0, 0x20), (c.x.pc.toNat % 4 == 0, 0x28)]
    ++ (List.range 32).map (fun k => (decide ((c.queue k).length ≤ 4), 0x40 + k))
    ++ engOrder.map (fun k => (decide ((c.eng k).cmds.length ≤ if k = .backfill then 16 else 64), 0x60 + engOrder.idxOf k))
    ++ [(decide (c.vec.toX.length ≤ 16), 0x4C0), (decide (c.vec.toC.length ≤ 16), 0x4C1)]
    ++ c.csrEntries.map (fun p => (csrLegal p.1 p.2 || (p.1 == 0x2200 && p.2 == 0 && c.node.isNone), c.csrOffset p.1))
    ++ (List.range 32).map (fun n => (decide ((c.sem n).count.toNat ≤ (c.sem n).ceiling.toNat), 0xD00 + 8 * n))
    ++ (List.range 16).map (fun i => ((SMap.get .init c.slots i).legal, 0xF00 + 16 * i))
    ++ engOrder.map (fun k => (csrLegal 0x3C0 (c.eng k).frec.cause, faultOffset k))
    ++ engOrder.map (fun k => ((c.eng k).fault.all fun f => engineCauses.contains f.1.toNat, faultOffset k + 0x51))
    ++ engOrder.map (fun k => ((c.eng k).latchLegal, latchOffset k))
    ++ [(waitingLegal c.dbg.waiting, 0xE00)]
    ++ (List.range c.slotCount).map (fun i => ((SMap.get .init c.probe i).legal, 0x1200 + 32 * i))
    ++ [(q.planeLegal q.act, 0xE000), (q.planeLegal q.shd, 0xE800)]
    ++ (List.range 32).map (fun i =>
        (mapLegal ((q.bank0.mapBytes ++ q.bank1.mapBytes).getD i 0), 0x1F400 + i))
    ++ [(decide (q.shape ≤ 3), 0x1F420), (decide (q.role ≤ 3), 0x1F421)]
    ++ (List.range 16).map fun i => ((q.factor i).legal, 0x20050 + 0x2400 * i)

/-- The first invariant that a context fails, as an offset in its area. -/
def State.badOffset (s : State) (core : Nat) : Option Nat := ((s.ctxChecks core).find? fun p => !p.1).map Prod.snd

end Sys2Proof.Machine
end

