-- ==== Sys2Proof/Machine/HbmEvents.lean ====
section
/-! DEFINITION. The memory-side units: collective landing (R41, R381 to R384), patrol scrubbing (R385, R386) and the restoration of weight frames (R389). -/

namespace Sys2Proof.Machine
open Sys2Proof Fp

/-- A reduction packet (R382, R447, R451). -/
structure ReducePkt where
  /-- the target VF under the export table -/
  vf : Nat
  landing : BitVec 16
  rank : BitVec 16
  epoch : Word
  line : Word
  data : BitVec 512
  poison : Bool
  deriving DecidableEq, Repr

/-! ### Landing entries (R382) -/

/-- DEST. -/
def landDest (e : List Byte) : Nat := field e 0 8
/-- NLINE. -/
def landLines (e : List Byte) : Nat := field e 8 4
/-- FMT. -/
def landFmt (e : List Byte) : Nat := bitsOf (field e 0xC 1) 3 0
/-- ACC. -/
def landAcc (e : List Byte) : Bool := bitOf (field e 0xD 1) 1
/-- K. -/
def landK (e : List Byte) : Nat := field e 0xE 2
/-- DONE. -/
def landDone (e : List Byte) : Nat := field e 0x10 8
/-- EPOCH. -/
def landEpoch (e : List Byte) : Word := BitVec.ofNat 32 (field e 0x18 4)

/-- The fields of an entry are as R382 requires. -/
def landFieldsOk (e : List Byte) : Bool :=
  bitOf (field e 0xD 1) 0 && bitsOf (field e 0xC 1) 7 4 == 0 && bitsOf (field e 0xD 1) 7 2 == 0 && zeroAt e 0x1C 36
    && [0, 1, 6].contains (landFmt e) && decide (1 ≤ landK e ∧ landK e ≤ 1024) && decide (1 ≤ landLines e)
    && landDest e % 64 == 0 && landDone e % 8 == 0

/-- The leaf of a page that a landing may write, as (memory-side, half). -/
def State.landLeaf (s : State) (vf va : Nat) : State × Option Leaf :=
  if lwbase ≤ va then (s, none)
  else
    match s.translate .management vf va .write true with
    | .ok (s, l) => (s, some l)
    | .error e => (s.keepMet e, none)

/-- The half of a memory-side leaf of HBM. -/
def Leaf.half? (l : Leaf) : Option Nat :=
  match regionOf l.pa with
  | .hbm d => if l.ms then some d else none
  | _ => none

/-- The first addresses of the 512 KiB pages that a destination touches. -/
def landPages (e : List Byte) : List Nat :=
  let first := landDest e / 2 ^ 19
  let last := (landDest e + 64 * landLines e - 1) / 2 ^ 19
  (List.range (last + 1 - first)).map fun i => (first + i) * 2 ^ 19

/-- The half that every page of a destination is homed on, where the pages and DONE are as R382 requires. -/
def State.landHalf (s : State) (vf : Nat) (e : List Byte) : State × Option Nat :=
  let r := (landPages e).foldl (fun (r : State × List (Option Nat)) a =>
    let q := r.1.landLeaf vf a
    (q.1, r.2 ++ [q.2.bind Leaf.half?])) (s, [])
  let d := r.1.landLeaf vf (landDone e)
  let h := (r.2.head?.bind id)
  (d.1, if r.2.all (· == h) && d.2.isSome then h else none)

/-- Reads landing entry n of a VF (R382); an entry that cannot be read is none. -/
def State.landEntry (s : State) (vf n : Nat) : State × Option (List Byte) :=
  if s.cfg vf 0x18 ≤ n then (s, none)
  else
    match s.readVa .management vf (s.cfg vf 0x17 + 64 * n) 64 .read true with
    | .ok (s, e) => (s, some e)
    | .error e => (s.keepMet e, none)

/-! ### The line (R383) -/

/-- What an element of a line becomes: the root of its tree, or the sum with what the destination holds. -/
def landElem (fmt : Nat) (acc : Bool) (dest : Nat) (parts : List Nat) : Nat :=
  match fmt with
  | 0 => if acc then (fadd32 dest (landTree32 parts)).bits else landTree32 parts
  | 1 =>
    if acc then (rndBf16 (addV (decode .bf16 dest) (decode .fp32 (landTree32 (parts.map fun b => b * 2 ^ 16)))) .rne 0).bits
    else landTreeBf16 parts
  | _ => if acc then (dest + landTreeInt parts) % 2 ^ 32 else landTreeInt parts

/-- Bytes of an element. -/
def landWidth (fmt : Nat) : Nat := if fmt = 1 then 2 else 4

/-- The line that the contributions of ranks 0 to K - 1 make, in rank order. -/
def landLine (e : List Byte) (dest : List Byte) (parts : List (BitVec 512)) : List Byte :=
  let w := landWidth (landFmt e)
  ((List.range (64 / w)).map fun x =>
    leBytes w (landElem (landFmt e) (landAcc e) (field dest (w * x) w)
      (parts.map fun p => (p.extractLsb' (8 * w * x) (8 * w)).toNat))).flatten

/-- The contributions to a line, in rank order. -/
def Landing.ofLine (g : Landing) (line : Nat) : List (BitVec 512) :=
  (List.range (landK g.entry)).filterMap fun r => (g.parts.find? fun p => p.1 == line && p.2.1 == r).map fun p => p.2.2

/-- A line becomes poisoned in memory, by data that are. -/
def State.poisonLine (s : State) (line : Nat) : State := { s with mem := s.mem.spoil line }.weightLine line

/-- Line `i` of a landing is written (R383, R384): with its data, or as poison where a contribution, or the destination that it
adds to, is poisoned. -/
def State.landWrite (s : State) (vf half : Nat) (g : Landing) (i : Nat) : State :=
  let a : Agent := .memSide half
  match s.translate a vf (landDest g.entry + 64 * i) .write true with
  | .error e => s.keepMet e
  | .ok (s, l) =>
    let (s, bad, dest) := if !landAcc g.entry then (s, false, List.replicate 64 0) else
      match s.readLeaf a vf l 64 with
      | .ok (s, b) => (s, false, b)
      | .error (.trap t) => (s.applySides t.sides, true, List.replicate 64 0)
      | .error (.wait _ l) => (s.applySides l, true, List.replicate 64 0)
    match s.commitLeaf a vf l (landLine g.entry dest (g.ofLine i)) with
    | .ok s => if bad || g.poisoned.contains i then s.poisonLine (l.pa / 64) else s
    | .error e => s.keepMet e

/-- One is added to a word, in one step at its home, or by an AMO where it is a peer's (R383, R449). -/
def State.landAdd (s : State) (a : Agent) (vf va : Nat) : Except Stop State := do
  checkSpace va 8 .amo
  let (s, l) ← s.translate a vf va .amo true
  match regionOf l.pa with
  | .peer m =>
    match s.peerPort a.number m with
    | none => .ok s
    | some p =>
      let msg := requestMsg 0 3 vf false false true 0 ((l.pa - 2 ^ 51) % 2 ^ 44) 1
      .ok (s.sendPeer 0x05 msg (.mk' a p l.pa 8 true true))
  | _ =>
    let (s, b) ← s.onward (s.readLeaf a vf l 8)
    s.onward (s.commitLeaf a vf l (leBytes 8 (field b 0 8 + 1)))

/-- DONE rises by 1, after everything that the unit wrote (R383). -/
def State.landFinish (s : State) (vf half : Nat) (g : Landing) : State :=
  match s.landAdd (.memSide half) vf (landDone g.entry) with
  | .ok s => s
  | .error e => s.applySides e.sides

/-- Keeps what a landing holds. -/
def State.setLanding (s : State) (vf n : Nat) (g : Landing) : State :=
  s.updVf vf fun v => { v with landings := SMap.insert n g (SMap.erase v.landings n) }

/-- A packet joins its tree (R383), and the line and the landing are finished where it is the last. -/
def State.landPart (s : State) (vf n half : Nat) (g : Landing) (p : ReducePkt) : State :=
  let i := p.line.toNat
  let g := { g with
    parts := g.parts ++ [(i, p.rank.toNat, if p.poison then 0 else p.data)]
    poisoned := if p.poison then i :: g.poisoned else g.poisoned }
  let s := if p.poison then s.postRing0 vf 0x8D 4 n else s
  if (g.ofLine i).length < landK g.entry then s.setLanding vf n g
  else
    let g' := { g with complete := i :: g.complete }
    let s := (s.landWrite vf half g i).setLanding vf n g'
    if g'.complete.length < landLines g.entry then s else s.landFinish vf half g'

/-- The record of the packet's epoch: as latched, or from an entry that passes R382 and R384. -/
def State.landOpen (s : State) (p : ReducePkt) (e : List Byte) : Option Landing :=
  match (s.vf p.vf).landings.lookup p.landing.toNat with
  | some g =>
    if g.epoch = p.epoch then (if g.dead then none else some g)
    else if landFieldsOk e then some ⟨p.epoch, e, [], [], [], false⟩ else none
  | none => if landFieldsOk e then some ⟨p.epoch, e, [], [], [], false⟩ else none

/-- An epoch that is still open when its VF settles is abandoned: its partials are gone, and its packets are dropped (R384, R413). -/
def Landing.settled (g : Landing) : Landing :=
  if g.complete.length < landLines g.entry then { g with parts := [], poisoned := [], complete := [], dead := true } else g

/-- A record whose epoch software has left is discarded (R384). -/
def State.landForget (s : State) (vf n : Nat) (epoch : Word) : State :=
  s.updVf vf fun v => { v with landings := v.landings.filter fun q => q.1 != n || q.2.epoch == epoch }

/-- A reduction packet lands (R383, R384). -/
def State.land (s : State) (p : ReducePkt) : State :=
  let n := p.landing.toNat
  let drop (s : State) (cause : Nat) : State := s.postRing0 p.vf 0x8D cause n
  match s.landEntry p.vf n with
  | (s, none) => drop s 3
  | (s, some e) =>
    let s := s.landForget p.vf n (landEpoch e)
    if landEpoch e ≠ p.epoch then drop s 3
    else
      match s.landOpen p e with
      | none => drop s 3
      | some g =>
        match s.landHalf p.vf g.entry with
        | (s, none) => drop s 3
        | (s, some half) =>
          if landK g.entry ≤ p.rank.toNat ∨ landLines g.entry ≤ p.line.toNat then drop (s.setLanding p.vf n g) 2
          else if g.parts.any fun q => q.1 == p.line.toNat && q.2.1 == p.rank.toNat then drop s 1
          else s.landPart p.vf n half g p

/-! ### Scrubbing and restoration -/

/-- SCRUB_VISIT (R385 to R387): a line of a half is read and corrected at its home. -/
def execScrubVisit (half line : Nat) (s : State) : Host.Outcome State Fault Refusal :=
  let l := half * 2 ^ 29 + line
  .next (if (SMap.get LineErr.none s.mem.latent l).copy = 0 then s.meetLine l else s)

/-- The poisoned lines of a frame. -/
def MemSys.poisonedOf (m : MemSys) (frame : Nat) : List Nat :=
  (m.poison.filter fun p => p.2 != 0 && p.1 / 8192 == frame).map Prod.fst

/-- The poisoned lines of a frame are rewritten whole, from an image of the frame (R389). -/
def State.rewriteFrame (s : State) (frame : Nat) (image : List Byte) : State :=
  (s.mem.poisonedOf frame).foldl (fun s line =>
    let bytes := (image.drop (64 * (line % 8192))).take 64
    let cells := (numbered bytes).map fun p => (64 * line + p.1, p.2)
    { s with mem := s.mem.commit .management 0 cells false (s.mem.frameKey.lookup frame).isSome }) s

/-- WEIGHT_RESTORE (R389) of frame `frame` of the image. -/
def execWeightRestore (frame : Nat) (s : State) : Host.Outcome State Fault Refusal :=
  match s.sec.weightFrames.lookup frame with
  | none => .next s
  | some f =>
    let after := { s with sec := { s.sec with
      restoring := SMap.set false s.sec.restoring f false, checked := SMap.set false s.sec.checked f false } }
    match Config.hostCopy frame with
    | none => .next (after.postPf 0 (Config.eventStatus 1).toNat 0 frame (f * 2 ^ 19))
    | some b =>
      if s.sec.leaves.lookup frame = some (Config.sha512 b) ∧ s.sec.pathOk 16 0 frame ∧ b.length = 2 ^ 19 then .next (after.rewriteFrame f b)
      else .next (after.postPf 0 (Config.eventStatus 1).toNat 0 frame (f * 2 ^ 19))

end Sys2Proof.Machine
end

