-- ==== Sys2Proof/Machine/Quiesce.lean ====
section
/-! DEFINITION. Stopping the work of a VF: queue resets (R312), the destruction of keys (R395, R396, R405) and the ERROR state (R407), suspensions (R300, R413), and what a teardown removes (R441). -/

namespace Sys2Proof.Machine
open Sys2Proof

/-! ### Queue resets (R312) -/

/-- A node that has been dispatched and has not ended: running, pre-empted, parked, or between dispatches. -/
def Node.begun (n : Node) : Bool :=
  match n.state with
  | .running | .preempted | .yielded | .parked | .rolledBack => true
  | .ready => n.check.isSome
  | .waiting | .ending _ _ | .ended _ => false

/-- A node that was stopped and whose record waits (R296). -/
def Node.isEnding (n : Node) : Bool := match n.state with | .ending _ _ => true | _ => false

/-- A stopped node (R312, steps 2 and 3): its ABORTED record, and the end of its cores, memberships and page faults. -/
def State.abortStopped (s : State) (id : Dword) : State :=
  s.stopWith id 5 (s.nodeRecord id 5 0 0 0) fun s => s.updNode id fun n => { n with state := .ended 5, saved := [] }

/-- A node that will never run. -/
def State.markDropped (s : State) (id : Dword) : State :=
  (s.updNode id fun n => { n with state := .ended 6 }).dropDeficits (nodeVf id)

/-- A graph of a queue that is reset (R312, R297). -/
def State.resetGraph (s : State) (g : Nat) : State :=
  match s.graph? g with
  | none => s
  | some h =>
    if h.complete then s
    else
      let live := (s.nodesOf g).filter fun p => !p.2.state.isEnded
      let never := (live.filter fun p => !p.2.begun && !p.2.isEnding).map fun p => d64 p.1
      let run := (live.filter fun p => p.2.begun).map fun p => d64 p.1
      let s := never.foldl State.markDropped s
      let s := run.foldl State.abortStopped s
      let s := s.setGraph g { h with bad := if h.bad = 0 ∧ run ≠ [] then 5 else h.bad }
      let s := if h.flags.getLsbD 0 || h.flags.getLsbD 1 then never.foldl (fun s id => s.postNode id 6 0 0 0) s else s
      s.checkGraph g

/-- The graphs of a queue. -/
def State.graphsOf (s : State) (vf q : Nat) : List Nat := (s.hearth.graphs.filter fun p => p.1 / 2 ^ 36 == vf * 16 + q).map Prod.fst

/-- A queue is reset (R312). -/
def State.resetQueue (s : State) (vf q : Nat) : State :=
  if (s.sq vf q).resetting then s
  else
    let s := s.updSq vf q fun k => { k with resetting := true }
    let s := (s.graphsOf vf q).foldl State.resetGraph s
    (s.runRewinds.runRetires.wakeAll).endResets vf

/-- SQ_RESET (R312, R436). -/
def execSqReset (h : HostReq) (q : Nat) (s : State) : Host.Outcome State Fault Refusal := onHost h s fun s => s.resetQueue h.vf q

/-! ### Keys and encrypted frames (R395, R396, R405) -/

/-- A VF's keys are destroyed: its frames can no longer be read. -/
def State.destroyKeys (s : State) (vf : Nat) : State := s.updVf vf fun v => { v with km := none, keys := [] }

/-- Every line's counter of an encrypted frame rises, as a write of each line raises it (R404). -/
def MemSys.raiseFrame (m : MemSys) (f : Nat) : MemSys :=
  (List.range 8192).foldl (fun m i => m.raise (f * 2 ^ 19 + 64 * i)) m

/-- Firmware removes a VF's encrypted frames: every line is the encryption of zeros, under no key (R405). -/
def State.releaseFrames (s : State) (vf : Nat) : State :=
  let fs := (s.mem.frameKey.filter fun p => p.2.1 == vf).map Prod.fst
  let m := fs.foldl (fun (m : MemSys) f => (m.zeroFrame f).raiseFrame f) s.mem
  { s with mem := { m with frameKey := m.frameKey.filter fun p => p.2.1 != vf } }

/-! ### ERROR (R407) -/

/-- The nodes of a VF. -/
def State.nodesOfVf (s : State) (vf : Nat) : List (Nat × Node) := s.hearth.nodes.filter fun p => nodeVf (d64 p.1) == vf

/-- Every dispatched, pre-empted and parked node of a VF is aborted as a queue reset aborts it: ABORTED, and no dependant is
released. -/
def State.abortBegun (s : State) (vf : Nat) : State :=
  (s.nodesOfVf vf).foldl (fun s p => if p.2.begun then s.abortNode (d64 p.1) 5 0 0 0 else s) s

/-- A VF enters ERROR (R407). -/
def State.enterError (s : State) (vf : Nat) : State :=
  ((s.updVf vf fun v => { v with tdisp := .error }).abortBegun vf).destroyKeys vf

/-! ### Suspensions (R300, R413) -/

/-- A suspension of a kind begins: a pre-emption is pending on every running node. -/
def State.beginSuspension (s : State) (vf kind : Nat) : State :=
  (s.nodesOfVf vf).foldl (fun s p => s.pendPreempt (d64 p.1) true) (s.updVf vf fun v => { v with susp := kind })

/-- A suspension ends: pre-emptions that it alone made pending are withdrawn. -/
def State.endSuspension (s : State) (vf : Nat) : State :=
  (s.nodesOfVf vf).foldl (fun s p => s.updNode (d64 p.1) fun n =>
    if n.pendSusp then { n with pendSince := none, pendSusp := false } else n) (s.updVf vf fun v => { v with susp := 0 })

/-- A migration is abandoned, and the VF resumes (R413). -/
def State.abandonMigration (s : State) (vf : Nat) : State :=
  let was := (s.vf vf).susp
  let s := s.updVf vf fun v => { v with migr := none }
  if was = 2 then s.endSuspension vf else s

/-! ### Teardown (R441) -/

/-- Every record that a VF's rings hold is written where a ring can take it. -/
def State.flushRings (s : State) (vf : Nat) : State :=
  (s.vf vf).rings.foldl (fun s p => p.2.held.foldl (fun s _ => s.writeRecord vf p.1) s) s

/-- A core gives up what a VF left on it: its table slots (R142), instruction rows, translations and probe entries. -/
def Core.forget (c : Core) (vf : Nat) : Core :=
  { c with slots := (c.slots.map fun p => if p.2.owner = some vf then (p.1, TSlot.init) else p).filter fun p => p.2 != .init
           rows := c.rows.filter fun p => p.2.vf != vf || p.2.state == 0
           tlb := c.tlb.filter fun e => e.vf != vf, probe := c.probe.filter fun p => p.2.vf != vf
           l1 := c.l1.filter fun l => l.vf != vf }

/-- A die gives up what a VF held: phasers of its range (R275), blocks, backfill requests, probe entries. -/
def Die.forget (d : Die) (vf first count : Nat) : Die :=
  { d with phasers := d.phasers.filter fun p => decide (p.1 < first ∨ first + count ≤ p.1)
           blocks := d.blocks.filter fun p => p.2.vf != vf, bfq := d.bfq.filter fun e => e.vf != vf
           probe := d.probe.filter fun p => p.2.vf != vf
           tickets := d.tickets.filter fun t => match t.2 with | .adapter v _ => v != vf | .probe _ _ => true }

/-- The nodes and graphs of a VF leave the Hearth. -/
def Hearth.forget (h : Hearth) (vf : Nat) : Hearth :=
  { h with nodes := h.nodes.filter fun p => nodeVf (d64 p.1) != vf, graphs := h.graphs.filter fun p => p.1 / 2 ^ 40 != vf
           rewinds := h.rewinds.filter fun r => nodeVf r.1 != vf, retires := h.retires.filter fun r => r.vf != vf }

/-- Every adapter entry of a VF is retired, without waiting (R364). -/
def State.retireAll (s : State) (vf : Nat) : State :=
  (s.vf vf).adapters.foldl (fun s p => s.retire vf p.1 1 true) s

/-- A VF is torn down (R441: R312, R142, R275, R364, R395); its IDE stream is torn down with it. -/
def State.tearDown (s : State) (vf : Nat) : State :=
  let s := (List.range 16).foldl (fun s q => (s.graphsOf vf q).foldl State.resetGraph s) s
  let s := (s.nodesOfVf vf).foldl (fun s p => if p.2.begun then s.abortStopped (d64 p.1) else s) s
  let s := ((s.retireAll vf).flushRings vf).destroyKeys vf
  let s := s.releaseFrames vf
  let first := s.cfg vf 0x11
  let count := s.cfg vf 0x12
  { s with
    cores := (s.cores.map fun p => (p.1, p.2.forget vf)).filter fun p => p.2 != .init
    dies := (s.dies.map fun p => (p.1, p.2.forget vf first count)).filter fun p => p.2 != .init
    hearth := s.hearth.forget vf
    pf := { s.pf with faults := s.pf.faults.filter fun p => p.2.vf != vf }
    peers := s.peers.filter fun r => !(r.parked.any fun (p : Dword × Nat) => nodeVf p.1 == vf)
    sec := { s.sec with ide := s.sec.ide.filter (fun p => p.1 / 2 != vf), imports := SMap.erase s.sec.imports vf }
    vfs := SMap.erase s.vfs vf }

end Sys2Proof.Machine
end

