-- ==== Sys2Proof/Machine/Security.lean ====
section
/-! DEFINITION. The security engine and the management core: key messages (R397, R398), TDISP and IDE (R407, R408),
boot and measurements (R409 to R411), SPDM (R411), the base model (R365). -/

namespace Sys2Proof.Machine
open Sys2Proof

/-- The number of a byte list, first byte lowest. -/
def bytesWord (w : Nat) (b : List Byte) : BitVec w := BitVec.ofNat w (leNat b)

/-- An answer is given. -/
def State.reply (s : State) (b : List Byte) : State := { s with sec := { s.sec with answers := b :: s.sec.answers } }

/-! ### Key messages (R397, R398) -/

/-- The label of the wrapping key: the ASCII text of R398. -/
def keyLabel : List Byte := "apirdy keyload".toList.map fun c => BitVec.ofNat 8 c.toNat

/-- Bytes 0x00 to 0x0F of a message. -/
def keyAad (m : KeyMsg) : List Byte := [m.proto, m.op, m.vf, m.slot] ++ wordBytes m.nonce

/-- The ciphertext that the tag covers: WKEY, or nothing for a clear. -/
def keyText (m : KeyMsg) : List Byte := if m.op = 2 then [] else wordBytes m.wkey

/-- STATUS of R398 in its own order; 0 accepts. -/
def State.keyStatus (s : State) (x : Session) (m : KeyMsg) : Nat :=
  if Config.gcmTag (Config.hkdf x.secret keyLabel) m.nonce (keyAad m) (keyText m) ≠ m.tag then 1
  else if !x.tenant || m.vf.toNat != m.session then 2
  else if (s.vf m.session).tdisp ≠ .run then 3
  else if 64 ≤ m.slot.toNat ∨ (m.op ≠ 1 ∧ m.op ≠ 2) then 4
  else if (x.lastNonce.map fun n => decide (m.nonce.toNat ≤ n.toNat)).getD false then 5
  else 0

/-- The slot after an accepted message. -/
def keyWrite (x : Session) (m : KeyMsg) (keys : SMap (BitVec 512)) : SMap (BitVec 512) :=
  let old := SMap.erase keys m.slot.toNat
  if m.op = 2 then old
  else SMap.insert m.slot.toNat (bytesWord 512 (Config.gcmOpen (Config.hkdf x.secret keyLabel) m.nonce (keyText m))) old

/-- A message of a finished secure session; one outside any session is no key-load message. -/
def State.keyMessage (s : State) (m : KeyMsg) : State :=
  match s.sec.sessions.lookup m.session with
  | none => s
  | some x =>
    if !x.finished || m.proto != 0xA7 then s
    else
      let st := s.keyStatus x m
      let s := s.reply [m.proto, m.op, m.vf, m.slot, BitVec.ofNat 8 st]
      if st ≠ 0 then s
      else
        let s := s.updVf m.session fun v => { v with keys := keyWrite x m v.keys }
        { s with sec := { s.sec with
          sessions := SMap.insert m.session { x with lastNonce := some m.nonce } (SMap.erase s.sec.sessions m.session) } }

/-- KEY_LOAD (R397, R398). -/
def execKeyLoad (m : KeyMsg) (s : State) : Host.Outcome State Fault Refusal := .next (s.keyMessage m)

/-- KEY_CLEAR (R398). -/
def execKeyClear (m : KeyMsg) (s : State) : Host.Outcome State Fault Refusal := .next (s.keyMessage m)

/-! ### TDISP and IDE (R407, R408) -/

/-- Firmware answers requests from step 8 of the boot table on (R410). -/
def State.booted (s : State) : Bool := s.sec.stage == 8

/-- Runs a request for a VF that exists. -/
def onVf (s : State) (vf : Nat) (f : State → State) : Host.Outcome State Fault Refusal :=
  .next (if (s.vf vf).present then f s else s)

/-- A request takes a VF from one state to another; from any other state it violates the protocol (R407). -/
def State.tdispMove (s : State) (vf : Nat) (source target : Tdisp) : State :=
  if (s.vf vf).tdisp = source then s.updVf vf fun v => { v with tdisp := target }
  else if (s.vf vf).tdisp = .error then s
  else s.enterError vf

/-- LOCK_INTERFACE_REQUEST. -/
def execLockInterfaceRequest (vf : Nat) (s : State) : Host.Outcome State Fault Refusal :=
  onVf s vf fun s => s.tdispMove vf .unlocked .locked

/-- START_INTERFACE_REQUEST. -/
def execStartInterfaceRequest (vf : Nat) (s : State) : Host.Outcome State Fault Refusal :=
  onVf s vf fun s => s.tdispMove vf .locked .run

/-- STOP_INTERFACE: keys are destroyed, encrypted frames rewritten, key slots cleared (R405, R407). -/
def execStopInterface (vf : Nat) (s : State) : Host.Outcome State Fault Refusal :=
  onVf s vf fun s => ((s.destroyKeys vf).releaseFrames vf).updVf vf fun v => { v with tdisp := .unlocked }

/-- The locked configuration fields of a VF (R394), in order of ID and INDEX. -/
def State.lockedFields (s : State) (vf : Nat) : List Byte :=
  ([0x01, 0x02, 0x03, 0x09, 0x0A, 0x0B, 0x0C, 0x0D, 0x11, 0x12, 0x17, 0x18, 0x1B, 0x1C, 0x1D, 0x1E, 0x1F, 0x20, 0x21].map fun id =>
    ((List.range (if [0x02, 0x03, 0x0C, 0x0D].contains id then 32 else 1)).map fun i => leBytes 8 (s.cfg vf id i)).flatten).flatten

/-- The device interface report's content: BAR ranges, the hash of the locked fields, the partition (R407). -/
def State.interfaceReport (s : State) (vf : Nat) : List Byte :=
  leBytes 8 (2 ^ 16) ++ leBytes 8 (s.cfg vf 0x1B) ++ leBytes 8 (2 ^ 36) ++ wordBytes (Config.sha512 (s.lockedFields vf))
    ++ ((List.range 32).map fun i => leBytes 8 (s.cfg vf 0x02 i)).flatten

/-- GET_DEVICE_INTERFACE_REPORT. -/
def execGetDeviceInterfaceReport (vf : Nat) (s : State) : Host.Outcome State Fault Refusal :=
  onVf s vf fun s => s.reply (Config.answer 0x84 (s.interfaceReport vf))

/-- The IDE streams (R408; log entry 127, DEDUCED): the selective stream of each function by its number, and the link stream of each host
port at 256 + port. -/
def State.ideStream (s : State) (n : Nat) : Bool := n == 0 || (s.vf n).present || n == 256 || n == 257

/-- IDE_KM (R408): a key of a stream, in key set 0 or 1, over a secure session. -/
def execIdeKm (stream keyset : Nat) (key : BitVec 256) (s : State) : Host.Outcome State Fault Refusal :=
  .next (if keyset < 2 && s.ideStream stream && s.booted && s.sec.sessions.any (fun p => p.2.finished) then { s with sec := { s.sec with
    ide := SMap.insert (2 * stream + keyset) key (SMap.erase s.sec.ide (2 * stream + keyset)) } } else s)

/-- IDE_CHECK_FAILURE (R408): the request is dropped and the VF enters ERROR. -/
def execIdeCheckFailure (vf : Nat) (s : State) : Host.Outcome State Fault Refusal :=
  onVf s vf fun s => if (s.vf vf).tdisp = .error then s else s.enterError vf

/-! ### Measurements and SPDM (R411) -/

/-- MEAS_i := SHA-512(MEAS_i ‖ d). -/
def Sec.extend (k : Sec) (i : Nat) (d : BitVec 512) : Sec :=
  { k with meas := SMap.set 0 k.meas i (Config.sha512 (wordBytes (SMap.get (0 : BitVec 512) k.meas i) ++ wordBytes d)) }

/-- A measurement register. -/
def Sec.measure (k : Sec) (i : Nat) : BitVec 512 := SMap.get 0 k.meas i

/-- Answers an SPDM request, once firmware does (R410). -/
def State.spdm (s : State) (code : Nat) (content : List Byte) : State :=
  if s.booted then s.reply (Config.answer code content) else s

/-- GET_VERSION: 1.2 and 1.3. -/
def execGetVersion (s : State) : Host.Outcome State Fault Refusal := .next (s.spdm 0x84 [0x12, 0x13])

/-- GET_CAPABILITIES. -/
def execGetCapabilities (s : State) : Host.Outcome State Fault Refusal := .next (s.spdm 0xE1 [])

/-- NEGOTIATE_ALGORITHMS. -/
def execNegotiateAlgorithms (s : State) : Host.Outcome State Fault Refusal := .next (s.spdm 0xE3 [])

/-- The bytes of the identity key's certificate, from the key. -/
def Sec.certificate (k : Sec) : List Byte := Config.answer 0 ((k.identity.map wordBytes).getD [])

/-- GET_DIGESTS: the hash of the certificate chain. -/
def execGetDigests (s : State) : Host.Outcome State Fault Refusal :=
  .next (s.spdm 0x81 (wordBytes (Config.sha512 s.sec.certificate)))

/-- GET_CERTIFICATE. -/
def execGetCertificate (s : State) : Host.Outcome State Fault Refusal := .next (s.spdm 0x82 s.sec.certificate)

/-- CHALLENGE: the identity key signs the nonce and the measurements. -/
def execChallenge (nonce : BitVec 256) (s : State) : Host.Outcome State Fault Refusal :=
  let text := wordBytes nonce ++ ((List.range 16).map fun i => wordBytes (s.sec.measure i)).flatten
  .next (s.spdm 0x83 (match s.sec.identity with
    | some k => Config.ed25519Sign k text
    | none => []))

/-- GET_MEASUREMENTS: indices 1 to 16 report MEAS0 to MEAS15. -/
def execGetMeasurements (index : Nat) (s : State) : Host.Outcome State Fault Refusal :=
  .next (if 1 ≤ index ∧ index ≤ 16 then s.spdm 0xE0 (wordBytes (s.sec.measure (index - 1))) else s.spdm 0xFF [])

/-- Changes the session bound to a VF. -/
def State.setSession (s : State) (vf : Nat) (x : Option Session) : State :=
  let rest := SMap.erase s.sec.sessions vf
  { s with sec := { s.sec with sessions := match x with | some x => SMap.insert vf x rest | none => rest } }

/-- KEY_EXCHANGE. -/
def execKeyExchange (vf : Nat) (tenant : Bool) (pub : BitVec 768) (s : State) : Host.Outcome State Fault Refusal :=
  .next (if s.booted then
    (s.setSession vf (some ⟨tenant, Config.sessionSecret pub vf, false, none⟩)).spdm 0xE4 [] else s)

/-- FINISH. -/
def execFinish (vf : Nat) (mac : BitVec 512) (s : State) : Host.Outcome State Fault Refusal :=
  match s.sec.sessions.lookup vf with
  | some x =>
    .next (if s.booted && Config.finishOk x.secret mac then (s.setSession vf (some { x with finished := true })).spdm 0xE5 [] else s)
  | none => .next s

/-- END_SESSION. -/
def execEndSession (vf : Nat) (s : State) : Host.Outcome State Fault Refusal :=
  .next (if s.booted then (s.setSession vf none).spdm 0xEC [] else s)

/-! ### Boot (R409, R410) -/

/-- Step 3 of R410 for a slot: the public key's hash, the signature, the version. -/
def Sec.slotOk (k : Sec) (f : FlashSlot) : Bool :=
  Config.sha512 (wordBytes f.pubKey) == k.fuseHash && Config.ed25519Ok f.pubKey (Config.sha512 f.image) f.signature
    && decide (k.fuseSvn ≤ f.svn)

/-- Every weight frame agrees with its leaf (R409). -/
def State.weightsOk (s : State) : Bool :=
  s.sec.leaves.all fun p =>
    match s.sec.weightFrames.lookup p.1 with
    | some f => Config.sha512 (s.mem.readAt none none (f * 2 ^ 19) (2 ^ 19)) == p.2
    | none => false

/-- Steps 4 and 5: measurements and the identity key. -/
def Sec.measureBoot (k : Sec) (f : FlashSlot) : Sec :=
  let fuses := wordBytes k.fuseHash ++ leBytes 8 k.fuseSvn ++ [if k.debugLock then 1 else 0]
  let k := ((k.extend 0 (Config.sha512 f.image)).extend 1 (Config.sha512 f.header)).extend 2 (Config.sha512 fuses)
  let text := wordBytes (k.measure 0) ++ wordBytes (k.measure 1) ++ wordBytes (k.measure 2)
  { k with identity := k.uds.map fun u => Config.identityKey u (Config.sha512 text), uds := none }

/-- Firmware records an event: it extends a register from MEAS5 on, and the event log holds an entry (R411). -/
def Sec.record (k : Sec) (e : Nat × BitVec 512) : Sec :=
  let i := 5 + e.1 % 11
  { k.extend i e.2 with log := k.log ++ [(i, e.2)] }

/-- The pool of a die at bring-up (R321): within its home, in whole frames. -/
def Die.withPool (k : Die) (d : Nat) : Die :=
  let p := Config.poolOf d
  { k with poolBase := d * 2 ^ 35 + p.1 % 2 ^ 16 * 2 ^ 19, poolBlocks := min p.2.1 (2 ^ 21), poolBs := p.2.2 % 4 }

/-- The populated bytes of a CXL window at bring-up: both ports together give at most 8 TiB (R5, R375). -/
def cxlPart (port : Nat) : Nat :=
  if port = 0 then min (Config.cxlCapacity 0) (2 ^ 43) else min (Config.cxlCapacity port) (2 ^ 43 - min (Config.cxlCapacity 0) (2 ^ 43))

/-- The LINKCTL message of a port (R447): the layout of slot 1 is not given (log entry 153, DESIGN CHOICE). -/
def linkctlMsg (port : Nat) : Byte × LinkMsg :=
  (0x0B, requestMsg 7 0 0 false false false 0 0 ((Config.linkctlSlot Config.ownModule port).setWidth 640))

/-- Step 7 (R410): firmware sets the grade table, reserves the metadata regions, gives the dies their pools and the CXL windows their
extents, measures its configuration, and records what it records. -/
def State.bringUp (s : State) : State :=
  { s with
    dies := (List.range 32).foldl (fun ds d => SMap.upd .init ds d fun k => k.withPool d) s.dies
    mem := { s.mem with
      reserved := Config.metadataFrames.foldl (fun m f => SMap.set false m f true) s.mem.reserved
      grade := Config.gradeTable.foldl (fun m p => SMap.set 0 m p.1 p.2) s.mem.grade
      cxlExtent := (List.range 2).foldl (fun m p => SMap.set 0 m p (cxlPart p)) s.mem.cxlExtent }
    sec := Config.bootEvents.foldl Sec.record (s.sec.extend 4 Config.firmwareDigest)
    -- each port tells its partner who it is (R445, R447; log entry 153, DESIGN CHOICE)
    ports := (List.range 64).foldl (fun m p => SMap.upd .init m p fun q => { q with out := q.out ++ [linkctlMsg p] }) s.ports }

/-- Step 8: firmware answers SPDM, and checks and measures the base model; a failure stops boot there (R409, R410). -/
def State.loadModel (s : State) : State :=
  let l := s.sec.leaves.map Prod.snd
  let s := { s with sec := { s.sec with stage := 8 } }
  if s.weightsOk && s.sec.nodesOk 16 0 l then
    { s with sec := { s.sec.extend 3 (hashRoot 16 l) with root := some (hashRoot 16 l) } }
  else s

/-- BOOT (R410), from reset; with both slots bad the module is in recovery (stage 9). -/
def execBoot (s : State) : Host.Outcome State Fault Refusal :=
  if s.sec.stage ≠ 0 then .next s
  else
    let k := s.sec
    if k.slotOk k.slotA then .next ({ s with sec := k.measureBoot k.slotA }).bringUp.loadModel
    else if k.slotOk k.slotB then .next ({ s with sec := k.measureBoot k.slotB }).bringUp.loadModel
    else .next { s with sec := { k with stage := 9 } }

/-! ### The base model (R365) -/

/-- BASE_MODEL_REPLACE (R365): only while no node is dispatched; none is until the retirements have ended. -/
def execBaseModelReplace (hash : Dword) (s : State) : Host.Outcome State Fault Refusal :=
  if (s.hearth.nodes.any fun p => p.2.state == .running) || s.sec.nextBase.isSome then .next s
  else
    let s := { s with sec := { s.sec with nextBase := some hash } }
    .next (s.vfs.foldl (fun s v =>
      v.2.adapters.foldl (fun s p => if p.2.ver != 0 && p.2.compat != hash then s.retire v.1 p.1 2 false else s) s) s).endReplace

end Sys2Proof.Machine
end

