-- ==== Sys2Proof/Machine/Debug.lean ====
section
/-! DEFINITION. The debugger (R430 to R432). -/

namespace Sys2Proof.Machine
open Sys2Proof

/-! ### Attaching and halting (R430) -/

/-- DEBUG_ATTACH. -/
def execDebugAttach (core : Nat) (s : State) : Host.Outcome State Fault Refusal :=
  .next (if s.debugOpen core then s.updCore core fun c => { c with dbg := { c.dbg with attached := true } } else s)

/-- DEBUG_HALT: every core of the node stops as under a forced pre-emption, and the node keeps its cores. -/
def execDebugHalt (core : Nat) (s : State) : Host.Outcome State Fault Refusal :=
  let c := s.core core
  .next (if c.dbg.attached && s.debugOpen core && !c.dbg.halted && (c.node.isSome || c.c.run || c.x.run) then s.haltNode core saveHalt else s)

/-! ### Reading and writing the saved context (R431) -/

/-- The mode of a code (R84). -/
def modeOf (v : Dword) : Option Mode :=
  match v.toNat with
  | 0 => some .node
  | 1 => some .handler
  | 2 => some .device
  | _ => none

/-- A CSR of a stream's saved context, replaced as it is written. -/
def Stream.rawCsr (t : Stream) (n : Nat) (v : Dword) : Stream :=
  let l := t.loops
  let f := t.frec
  match n with
  | 0x003 => { t with mode := (modeOf (v &&& 0xFF)).getD t.mode }
  | 0x010 => { t with tvec := v }
  | 0x011 => { t with epc := v }
  | 0x012 => { t with ecause := v }
  | 0x013 => { t with eval := v }
  | 0x014 => { t with estatus := v }
  | 0x026 => { t with loops := { l with depth := v.toNat } }
  | 0x3C0 => { t with frec := { f with cause := v } }
  | 0x3C1 => { t with frec := { f with idx := v } }
  | 0x3C7 => { t with frec := { f with tile := v } }
  | _ => t.putCsr n v

/-- A CSR of the X-stream's vector state, replaced. -/
def CoreVec.rawCsr (r : CoreVec) (n : Nat) (v : Dword) : CoreVec :=
  match n with
  | 0x100 => { r with vtype := v }
  | 0x101 => { r with vflags := v }
  | 0x344 => { r with vcidx := v }
  | _ => if 0x360 ≤ n ∧ n ≤ 0x37F then { r with vcthr := SMap.set 0x7F800000 r.vcthr (n - 0x360) v } else r

/-- A plain CSR of a core, replaced. -/
def CoreCsr.rawCsr (r : CoreCsr) (n : Nat) (v : Dword) : CoreCsr :=
  if 0x280 ≤ n ∧ n ≤ 0x287 then { r with xch := SMap.set 0 r.xch (n - 0x280) v }
  else
    match n with
    | 0x001 => { r with vfid := v.setWidth 8 }
    | 0x002 => { r with nodeid := v }
    | 0x006 => { r with grpid := v }
    | 0x008 => { r with vtdef := v }
    | 0x009 => { r with coldef := v }
    | 0x200 => { r with lmcfg := v }
    | 0x3CC => { r with dbgstat := v }
    | 0x181 => { r with mflags := v }
    | 0x240 => { r with htbase := v }
    | 0x241 => { r with htcount := v }
    | 0x242 => { r with xlsplit := v }
    | 0x243 => { r with xlfrz := v }
    | 0x244 => { r with xlpfa := v }
    | 0x289 => { r with xtagf := v }
    | 0x2C2 => { r with amoflags := v }
    | 0x301 => { r with nopst := v }
    | 0x302 => { r with npos := v }
    | 0x305 => { r with novr := v }
    | 0x340 => { r with kvva := v }
    | 0x380 => { r with adcfg := v }
    | 0x3CA => { r with dhbase := v }
    | 0x3CB => { r with dhang := v }
    | _ => r

/-- A value that no field can hold stands as it was written; the latest write of a place counts (R431). -/
def Core.setRaw (c : Core) (off : Nat) (v : Option (Nat × List Byte)) : Core :=
  let rest := c.dbg.raw.filter fun r => r.1 != off
  { c with dbg := { c.dbg with raw := match v with | none => rest | some w => (off, w) :: rest } }

/-- The queue of a command. -/
def engOf : Instr → Option EngQ
  | .xld _ | .xldDec _ | .xldVfy _ | .tload _ | .tinval _ | .tinvalSh _ => some .load
  | .xst _ | .xcp _ | .xcpScl _ | .xcpVfy _ => some .store
  | .bkfill _ => some .backfill
  | .mlw _ | .mswap _ | .mmul _ | .mmulSmax _ | .mst _ | .mzero _ | .mamap _ | .mlora _ | .mloraClr _ | .mfuse _ | .mfuseOff _
  | .attn _ => some .matrix
  | _ => none

/-- A command of a saved queue; words that are no command of that queue make none. -/
def ctxCmd (q : EngQ) (k : CtxCmd) : Option Cmd :=
  match decodeWord false k.word k.tail with
  | .ok i => if engOf i = some q then some ⟨i, k.c0, k.c1, k.c2, k.stamp⟩ else none
  | .error _ => none

/-- Replaces a queue's contents. Words of which one is no command stand as they were written. -/
def Core.putCmds (c : Core) (q : EngQ) (head : Word) (l : List CtxCmd) : Core :=
  let e := c.eng q
  let at_ := queueOffset q
  match l.findIdx? fun k => (ctxCmd q k).isNone with
  | none => (c.setEng q { e with head := head, cmds := l.filterMap (ctxCmd q) }).setRaw at_ none
  | some i => (c.setEng q { e with head := head, cmds := [] }).setRaw at_ (some (at_ + 64 * i, l.flatMap CtxCmd.bytes))

/-- Changes the active or the shadow bank of a table slot. -/
def TSlot.ctxBank (t : TSlot) (shadow : Bool) (f : TBank → TBank) : TSlot :=
  t.setBank (t.flip != shadow) (f (t.bank (t.flip != shadow)))

/-- Changes a plane. -/
def Quadrant.ctxPlane (q : Quadrant) (shadow : Bool) (f : Plane → Plane) : Quadrant :=
  if shadow then { q with shd := f q.shd } else { q with act := f q.act }

/-- The place in the array of an entry that a member's area counts as 128 * row + column. -/
def inArray (i row col : Nat) : Nat := i + 128 * row + col

/-- The saved context of a core after a write of what stands in its own storage. -/
def Core.ctxWrite (c : Core) (mask : Nat) : CtxWrite → Core
  | .scalar x handler r v =>
    c.setStream x (let t := c.stream x
      if r = 0 then t
      else if handler then { t with hregs := SMap.set 0 t.hregs r.toNat v }
      else { t with regs := SMap.set 0 t.regs r.toNat v })
  | .csr x n v =>
    let c := c.setStream x ((c.stream x).rawCsr n.toNat v)
    let c := { c with csr := c.csr.rawCsr n.toNat v, vec := if x then c.vec.rawCsr n.toNat v else c.vec }
    let off := c.csrOffset (c.csrPlace x n.toNat)
    let held := if n.toNat = 0x003 then (modeOf (v &&& ~~~(0x100 : Dword))).isSome
      else ((c.csrEntries.lookup (c.csrPlace x n.toNat)).map fun w => w == v).getD true
    c.setRaw off (if held then none else some (off, leBytes 8 n.toNat ++ leBytes 8 v.toNat))
  | .pc x v => c.setStream x { c.stream x with pc := v, gpc := v }
  | .mask k v => c.setMask k v
  | .queue q l => c.setQueue q.toNat l
  | .controlQueue toX l => { c with vec := if toX then { c.vec with toX := l } else { c.vec with toC := l } }
  | .semaphore n count ceiling => c.setSem n.toNat ⟨count, ceiling⟩
  | .scratchpad off v => if off < c.spBytes then c.spWrite off [v] else c
  | .step q v => c.setEng q { c.eng q with step := v.toNat }
  | .engine q head l => c.putCmds q head l
  | .table n shadow off v =>
    if bitOf mask n then c.updSlot n fun t => t.ctxBank shadow fun b => { b with data := setAt b.data off v } else c
  | .bankState n shadow st r =>
    if bitOf mask n then c.updSlot n fun t => t.ctxBank shadow fun b => { b with state := st, readers := r } else c
  | .slotOwner n v => if bitOf mask n then c.updSlot n fun t => { t with owner := v.map BitVec.toNat } else c
  | .faultField q i v =>
    let e := c.eng q
    let f := if i = 0 then { e.frec with cause := v } else e.frec.put i.toNat v
    let off := faultOffset q + 8 * i.toNat
    (c.setEng q { e with frec := f }).setRaw off (if f.get i.toNat = v ∨ 10 ≤ i.toNat then none else some (off, leBytes 8 v.toNat))
  | .fault q f => c.setEng q { c.eng q with fault := f }
  | .latch q recs entries banks => c.setEng q { c.eng q with latch := ⟨recs, entries, banks, c.images banks⟩ }
  | .tailSignal q v => c.setEng q { c.eng q with sigPending := v }
  | .probeTag n st vf index gen tile handle ticket pins recency cause =>
    if n < c.slotCount then
      { c with probe := SMap.upd .init c.probe n fun p =>
          { p with state := st, vf := vf, index := index, gen := gen, tile := tile, handle := handle, ticket := ticket
                   pins := pins, recency := recency, cause := cause } }
    else c
  | .waiting i v => if i < 32 then { c with dbg := { c.dbg with waiting := setAt c.dbg.waiting i v } } else c
  | _ => c

/-- The saved contexts after a write. What a fused array holds is replaced where the array stands (R175). -/
def State.ctxWrite (s : State) (core : Nat) : CtxWrite → State
  | .read off len => s.reply (s.ctxBytes core off len)
  | .acc b i v => s.updHeld core true fun _ n q => q.updBank b fun k => { k with acc := SMap.set 0 k.acc (inArray i 0 n) v }
  | .inter b i v => s.updHeld core true fun _ _ q => q.updBank b fun k => { k with t := SMap.set 0 k.t i v }
  | .side b l row v =>
    s.updHeld core true fun _ _ q => q.updBank b fun k =>
      if l then { k with l := SMap.set 0 k.l row v } else { k with m := SMap.set 0xFF800000 k.m row v }
  | .map b comp i v =>
    s.updHeld core true fun _ _ q => q.updBank b fun k =>
      if comp then { k with comp := SMap.set 0 k.comp i.toNat v } else { k with tenant := SMap.set 0 k.tenant i.toNat v }
  | .plane sh i v =>
    s.updHeld core false fun k n q => q.ctxPlane sh fun p => { p with elems := SMap.set 0 p.elems (inArray i k n) v }
  | .planeScale sh i v =>
    s.updHeld core false fun k n q => q.ctxPlane sh fun p => { p with scales := SMap.set 0x7F p.scales (inArray i (k / 32) n) v }
  | .planeState sh ready fmt kp np =>
    s.updHeld core false fun k n q => q.ctxPlane sh fun p => { p with ready := ready, fmt := fmt, kp := k + kp, np := n + np }
  | .factor i ready desc rows scales =>
    s.updHeld core true fun _ n q => q.updFactor i fun f =>
      { ready := ready, desc := desc, rows := f.rows.take n ++ rows ++ f.rows.drop (n + 64)
        scales := f.scales.take n ++ scales ++ f.scales.drop (n + 64) }
  | .fusion shape role => s.updQuad core fun q => { q with shape := shape, role := role }
  | w => s.updCore core fun c => c.ctxWrite (s.maskOf core) w

/-- DEBUG_CONTEXT_WRITE: a write, or a read that firmware answers with the area's bytes. -/
def execDebugContextWrite (core : Nat) (w : CtxWrite) (s : State) : Host.Outcome State Fault Refusal :=
  let d := (s.core core).dbg
  .next (if d.attached && d.halted && s.debugOpen core then s.ctxWrite core w else s)

/-! ### Resuming (R431, R432) -/

/-- The cores of the node of a core. -/
def State.nodeCores (s : State) (core : Nat) : List Nat :=
  match (s.core core).node.bind s.node? with
  | some n => n.cores
  | none => [core]

/-- Resumes a halted node where its contexts hold; otherwise firmware reports the offset. -/
def State.resumeWith (s : State) (core : Nat) (f : State → State) : State :=
  if !(s.core core).dbg.halted then s
  else
    match (s.nodeCores core).findSome? fun c => s.badOffset c with
    | some o => s.reply (leBytes 4 o)
    | none => f s

/-- DEBUG_RESUME. -/
def execDebugResume (core : Nat) (s : State) : Host.Outcome State Fault Refusal :=
  .next (s.resumeWith core fun s =>
    (s.nodeCores core).foldl (fun s c => s.updCore c fun k => { k with dbg := { k.dbg with halted := false, only := none } }) s)

/-- DEBUG_SINGLE_STEP: one group of one stream, with every engine and the other stream held. It ends in a halt, which an interface
in RUN refuses (R407). -/
def execDebugSingleStep (core : Nat) (x : Bool) (s : State) : Host.Outcome State Fault Refusal :=
  .next (if s.debugOpen core then
      s.resumeWith core fun s => s.updCore core fun k => { k with dbg := { k.dbg with only := some x } }
    else s)

end Sys2Proof.Machine
end

