-- ==== Sys2Proof/Machine/Migration.lean ====
section
/-! DEFINITION. Live migration (R412 to R414): what the source of a migration exports, and what the importer makes of it at the
destination. -/

namespace Sys2Proof.Machine
open Sys2Proof

/-- What the migration of a settled VF carries beside its pages and blocks (R413). Nodes hold their checkpoints, adapter logs and
memberships. -/
structure VfImage where
  cfg : SMap Dword
  adapters : SMap AdEntry
  keys : SMap (BitVec 512)
  sq : SMap SubQ
  rings : SMap Ring
  nodes : SMap Node
  graphs : SMap Graph
  /-- phaser states by die, and by number in the VF's range -/
  phasers : List (Nat × Nat × Phaser)
  /-- reference counts of blocks (R414) -/
  refs : List (Nat × Nat)
  deriving DecidableEq, Repr

/-- The bytes in which an image travels, whose layout the manual does not give (log entry 128, DESIGN CHOICE). -/
opaque imageBytes : VfImage → List Byte

/-- The image that an importer finds in such bytes. -/
opaque imageOf : List Byte → Option VfImage

/-- What a target reference names (R447; log entry 128, DESIGN CHOICE). -/
inductive Target where
  /-- a 512 KiB virtual page -/
  | page (n : Nat)
  /-- a block by its number at the source -/
  | block (b : Nat)
  | image
  deriving DecidableEq, Repr

/-- The reference of a target: its kind in the top byte. -/
def Target.code : Target → Dword
  | .page n => d64 n
  | .block b => d64 (2 ^ 56 + b)
  | .image => d64 (2 ^ 57)

/-- The target of a reference. -/
def Target.of (r : Dword) : Target :=
  match r.toNat / 2 ^ 56 with
  | 0 => .page (bitsOf r.toNat 36 0)
  | 1 => .block (bitsOf r.toNat 31 0)
  | _ => .image

/-! ### The source -/

/-- The leaves of a table of a level, from a virtual address on: the 512 KiB pages that they map. -/
def State.tablePages (s : State) : Nat → Nat → Nat → List Nat
  | 0, base, va => (List.range 64).filterMap fun i =>
      let e := BitVec.ofNat 64 (leNat (s.mem.readAt none none (base + 8 * i) 8))
      if e.getLsbD 0 && e.getLsbD 1 then some (va / 2 ^ 19 + i) else none
  | level + 1, base, va => (List.range (tableSize (level + 1) / 8)).flatMap fun i =>
      let e := BitVec.ofNat 64 (leNat (s.mem.readAt none none (base + 8 * i) 8))
      let at_ := va + i * pageSize (level + 1)
      if !e.getLsbD 0 then []
      else if e.getLsbD 1 then (List.range (pageSize (level + 1) / 2 ^ 19)).map fun k => at_ / 2 ^ 19 + k
      else s.tablePages level (pteAddr e) at_

/-- A page of a VF's block window that holds blocks of its range: it goes out block by block (R322, R412). -/
def State.blockPage (s : State) (vf page : Nat) : Bool :=
  let off := page * 2 ^ 19 - s.cfg vf 0x0B
  let d := off / 2 ^ 36
  let size := 2 ^ (14 + (s.die d).poolBs)
  decide (s.cfg vf 0x0B ≤ page * 2 ^ 19 ∧ d < 32 ∧ off % 2 ^ 36 / size < (s.blockRange vf d).2
    ∧ (s.blockRange vf d).1 ≤ (off % 2 ^ 36 + 2 ^ 19 - 1) / size)

/-- A fragment of an SPDM message between security engines, of up to 80 bytes (R447: MGMT). -/
def mgmtMsg (fragment : List Byte) : Byte × LinkMsg :=
  let b := fragment.take 80
  (0x0A, requestMsg 6 0 0 false false false (BitVec.ofNat 8 b.length) 0 (BitVec.ofNat 640 (leNat b)))

/-- The security engines agree on the stream key over the link (R412, R445). -/
def State.offerKey (s : State) (vf module : Nat) : State :=
  match s.peerPort Agent.management.number module with
  | some p => s.updPort p fun q => { q with out := q.out ++ (Config.keyOffer module vf s.tb).map mgmtMsg }
  | none => s

/-- MIGRATE_START (R412, R441): the dirty log begins, and the first round takes every page that the VF maps. -/
def State.beginMigration (s : State) (vf module deadline : Nat) : State :=
  let g : Migration :=
    { module := module, deadlineMs := deadline, since := none, settled := false, dirty := []
      round := s.tablePages 3 (s.cfg vf 0x01) 0, key := Config.exportKey module vf s.tb, seq := 0, off := 0, blocks := [] }
  (s.offerKey vf module).updVf vf fun f => { f with migr := some g }

/-- A message of a migration stream (R447). -/
def migrateMsg (vf off : Nat) (seq ref : Dword) (last : Bool) (data : BitVec 512) : Byte × LinkMsg :=
  (0x09, requestMsg 5 6 vf false false last 0 off (data ++ ref ++ seq : BitVec 640))

/-- An item goes out, encrypted under the stream key, and the tag after it (R412, R447); none where there is no key, or no port
to the module is up. -/
def State.sendItem (s : State) (vf : Nat) (t : Target) (text : List Byte) : Option State :=
  (s.vf vf).migr.bind fun g =>
    g.key.bind fun key =>
      (s.peerPort Agent.management.number g.module).map fun p =>
        let iv := d64 g.seq
        let c := Config.gcmSeal64 key iv text
        let n := ceilDiv c.length 64
        let pieces := (List.range n).map fun i =>
          migrateMsg vf (g.off + 64 * i) iv t.code false (BitVec.ofNat 512 (leNat ((c.drop (64 * i)).take 64)))
        let last := migrateMsg vf (g.off + 64 * n) iv t.code true ((Config.gcmTag64 key iv c).setWidth 512)
        (s.updPort p fun q => { q with out := q.out ++ pieces ++ [last] }).updVf vf fun f =>
          { f with migr := some { g with seq := g.seq + 1, off := g.off + 64 * (n + 1) } }

/-- A page goes out (R412); one that cannot be read, because nothing maps it any longer or its home is poisoned, does not. -/
def State.exportPage (s : State) (vf page : Nat) : Option State :=
  if s.blockPage vf page then some s
  else
  match s.readVa .management vf (page * 2 ^ 19) (2 ^ 19) .read true with
  | .ok (s, b) => s.sendItem vf (.page page) b
  | .error e => some (s.applySides e.sides)

/-- The blocks of a VF, by number. -/
def State.blocksOf (s : State) (vf : Nat) : List Nat :=
  s.dies.flatMap fun d => (d.2.blocks.filter fun p => p.2.vf == vf && p.2.refs != 0).map fun p => d.1 * 2 ^ 27 + p.1

/-- A block is dirty: its SEQ or WGEN differs from those at its last export (R412). -/
def State.blockDirty (s : State) (vf b : Nat) (g : Migration) : Bool :=
  match (s.peekHeader (b / 2 ^ 27) vf b).2 with
  | some h => g.blocks.lookup b != some (h.seq, h.wgen)
  | none => false

/-- A block goes out with its header (R412). -/
def State.exportBlock (s : State) (vf b : Nat) : Option State :=
  match s.readBlockAt .management vf b 0 (2 ^ (14 + (s.die (b / 2 ^ 27)).poolBs)) with
  | .ok (s, bytes) =>
    let h := Header.ofBytes bytes
    (s.sendItem vf (.block b) bytes).map fun s => s.updVf vf fun f =>
      { f with migr := f.migr.map fun g => { g with blocks := SMap.insert b (h.seq, h.wgen) (SMap.erase g.blocks b) } }
  | .error e => some (s.applySides e.sides)

/-- The first dirty block of a VF. -/
def State.dirtyBlock (s : State) (vf : Nat) (g : Migration) : Option Nat := (s.blocksOf vf).find? fun b => s.blockDirty vf b g

/-- The dirty log is read, which clears it; the writes that it holds are performed first (R412). -/
def State.readDirty (s : State) (vf : Nat) : State :=
  let s := { s with mem := s.mem.drain fun _ => true }
  s.updVf vf fun f => { f with migr := f.migr.map fun g => { g with round := g.round ++ g.dirty, dirty := [] } }

/-- A pre-copy round goes on by one page or block (R412). -/
def State.exportStep (s : State) (vf : Nat) : State :=
  match (s.vf vf).migr with
  | none => s
  | some g =>
    if g.settled then s
    else
      match g.round with
      | p :: rest =>
        ((s.exportPage vf p).map fun (s : State) => s.updVf vf fun f =>
          { f with migr := f.migr.map fun g => { g with round := rest } }).getD s
      | [] =>
        match s.dirtyBlock vf g with
        | some b => (s.exportBlock vf b).getD s
        | none => if g.dirty = [] then s else s.readDirty vf

/-- What a settled VF is, beside its pages and blocks (R413). -/
def State.imageOfVf (s : State) (vf : Nat) : VfImage :=
  let f := s.vf vf
  let first := s.cfg vf 0x11
  { cfg := f.cfg, adapters := f.adapters, keys := f.keys, sq := f.sq, rings := f.rings
    nodes := s.nodesOfVf vf, graphs := s.hearth.graphs.filter fun p => p.1 / 2 ^ 40 == vf
    phasers := s.dies.flatMap fun d =>
      (d.2.phasers.filter fun p => decide (first ≤ p.1 ∧ p.1 < first + s.cfg vf 0x12)).map fun p => (d.1, p.1 - first, p.2)
    refs := (s.blocksOf vf).map fun b => (b, (s.blockInfo b).refs) }

/-- On settlement the remaining dirty pages and blocks go out, and then the image (R413). -/
def State.exportRest (s : State) (vf : Nat) : Option State := do
  let s := s.readDirty vf
  let g ← (s.vf vf).migr
  let s ← g.round.foldlM (fun (s : State) p => s.exportPage vf p) s
  let s ← ((s.blocksOf vf).filter fun b => s.blockDirty vf b g).foldlM (fun (s : State) b => s.exportBlock vf b) s
  let s := s.updVf vf fun f => { f with migr := f.migr.map fun g => { g with round := [] } }
  s.sendItem vf .image (imageBytes (s.imageOfVf vf))

/-! ### The importer (R414) -/

/-- The stream of a VF as it arrives. One that begins, at offset 0, has a key of its own, and ends what came before it (R395). -/
def State.importOf (s : State) (source vf off : Nat) : State × Import :=
  match if off = 0 then none else s.sec.imports.lookup vf with
  | some g => (s, g)
  | none =>
    ({ s with sec := { s.sec with importNo := s.sec.importNo + 1 } }, ⟨Config.importKey source vf s.sec.importNo, 0, [], []⟩)

/-- Keeps it. -/
def State.setImport (s : State) (vf : Nat) (g : Import) : State :=
  { s with sec := { s.sec with imports := SMap.insert vf g (SMap.erase s.sec.imports vf) } }

/-- The stream has ended, and its key is destroyed (R395). -/
def State.endImport (s : State) (vf : Nat) : State :=
  { s with sec := { s.sec with imports := SMap.erase s.sec.imports vf } }

/-- The block that a block of the source is here: the one that it has become, or a new one of the VF's range. -/
def State.importBlock (s : State) (vf b : Nat) (g : Import) : Option (State × Import × Nat) :=
  match g.blocks.lookup b with
  | some n => some (s, g, n)
  | none =>
    let d := Config.importDie vf (b / 2 ^ 27) % 32
    if s.freeBlocks vf d = 0 then none
    else
      let r := s.takeBlock vf d
      some (r.1, { g with blocks := SMap.insert b r.2 g.blocks }, r.2)

/-- The fields that name places of the module itself stay as the PF set them here (R414; log entry 128, DESIGN CHOICE). -/
def placeField (key : Nat) : Bool := [0x01, 0x02, 0x03, 0x0C, 0x0D].contains (key / 4096)

/-- The configuration that is carried, with the places of this module. -/
def mergedCfg (old new : SMap Dword) : SMap Dword :=
  new.foldl (fun m p => if placeField p.1 then m else SMap.set 0 m p.1 p.2) (old.filter fun p => placeField p.1)

/-- The tile-table entry of a tile is rewritten, once where handles share it (R414). -/
def State.importTile (vf : Nat) (blocks : SMap Nat) (r : State × List Nat) (va : Nat) : State × List Nat :=
  let s := r.1
  if r.2.contains va then r
  else
    match s.readVa .management vf va 8 .read true with
    | .error e => (s.keepMet e, r.2)
    | .ok (t, b) =>
      let w := leNat b
      match blocks.lookup (w % 2 ^ 32) with
      | some n =>
        if w / 2 ^ 63 = 0 then (t, r.2)
        else
          match t.commitVa .management vf va (leBytes 8 (2 ^ 63 + n)) true with
          | .ok t => (t, va :: r.2)
          | .error e => (t.keepMet e, r.2)
      | none => (t, r.2)

/-- ADIE of an AUX. -/
def auxOnDie (aux die : Nat) : Nat := aux / 2 ^ 53 * 2 ^ 53 + die % 32 * 2 ^ 48 + aux % 2 ^ 48

/-- A handle of KIND 1 has its tile table and ADIE rewritten (R414). -/
def State.importHandle (vf : Nat) (blocks : SMap Nat) (r : State × List Nat) (i : Nat) : State × List Nat :=
  let s := r.1
  let va := s.cfg vf 0x09 + 64 * i
  match s.readVa .management vf va 64 .read true with
  | .error e => (s.keepMet e, r.2)
  | .ok (t, b) =>
    let e := HEntry.ofBytes (d64 (vf * 2 ^ 56 + i)) vf b
    if !e.valid || !e.blocks then (t, r.2)
    else
      let (t, l) := ((List.range e.ntiles).map fun n => e.ttbase + 8 * n).foldl (State.importTile vf blocks) (t, r.2)
      if e.auxType ≠ 1 then (t, l)
      else
        match t.commitVa .management vf (va + 0x30) (leBytes 8 (auxOnDie e.aux (Config.importDie vf e.adie))) true with
        | .ok t => (t, l)
        | .error e => (t.keepMet e, l)

/-- The image of a VF is taken (R413, R414): configuration, adapter table, key slots, queues, nodes, graphs and phasers; block
reference counts; and the tables that name blocks. -/
def State.importImage (s : State) (vf : Nat) (im : VfImage) (blocks : SMap Nat) : State :=
  let s := s.updVf vf fun f => { f with
    cfg := mergedCfg f.cfg im.cfg, adapters := im.adapters, keys := im.keys, sq := im.sq, rings := im.rings }
  let put {α : Type} (m : SMap α) (l : SMap α) : SMap α := l.foldl (fun m p => SMap.insert p.1 p.2 (SMap.erase m p.1)) m
  let s := { s with hearth := { s.hearth with nodes := put s.hearth.nodes im.nodes, graphs := put s.hearth.graphs im.graphs } }
  let s := im.phasers.foldl (fun (s : State) p => s.updDie p.1 fun k =>
    { k with phasers := SMap.set .idle k.phasers (s.cfg vf 0x11 + p.2.1) p.2.2 }) s
  let s := im.refs.foldl (fun (s : State) p =>
    match blocks.lookup p.1 with
    | some n => s.updDie (n / 2 ^ 27) fun k => { k with blocks := SMap.set .free k.blocks (n % 2 ^ 27) ⟨p.2, vf⟩ }
    | none => s) s
  ((List.range (s.cfg vf 0x0A)).foldl (State.importHandle vf blocks) (s, [])).1

/-- An item whose tag matched is placed (R412, R414): under this module's own key for the VF, at its own addresses. -/
def State.importItem (s : State) (vf : Nat) (g : Import) (t : Target) (text : List Byte) : State :=
  match t with
  | .page n =>
    if s.blockPage vf n then s.setImport vf g
    else
      match s.commitVa .management vf (n * 2 ^ 19) text true with
      | .ok s => s.setImport vf g
      | .error e => (s.keepMet e).setImport vf g
  | .block b =>
    match s.importBlock vf b g with
    | some (s, g, n) => (s.commitBlockAt .management vf n 0 text).setImport vf g
    | none => s.setImport vf g
  | .image =>
    match imageOf text with
    | some im => (s.importImage vf im g.blocks).endImport vf
    | none => s.endImport vf

/-- A message of a migration stream arrives: one that is not the stream's next is not taken. -/
def State.importMsg (s : State) (m : LinkMsg) : State :=
  let vf := m.vf.toNat
  let (s, g) := s.importOf m.srcMod.toNat vf m.addr.toNat
  if !(s.vf vf).present || m.addr.toNat ≠ g.off then s
  else
    let data : BitVec 512 := m.body.extractLsb' 128 512
    let g' := { g with off := g.off + 64 }
    if !m.flag3 then s.setImport vf { g' with text := g.text ++ leBytes 64 data.toNat }
    else
      let iv : Dword := m.body.extractLsb' 0 64
      let g' := { g' with text := [] }
      if Config.gcmTag64 g.key iv g.text = data.setWidth 128 then
        s.importItem vf g' (.of (m.body.extractLsb' 64 64)) (Config.gcmOpen64 g.key iv g.text)
      else s.setImport vf g'

end Sys2Proof.Machine
end

