-- ==== Sys2Proof/Machine/PfCommands.lean ====
section
/-! DEFINITION. The PF's commands and answers (R223, R225, R379, R392, R394, R412 to R414, R440 to R442). -/

namespace Sys2Proof.Machine
open Sys2Proof

/-! ### Command blocks (R440) -/

/-- What a command answers: the state, the result code of CMDSTAT (R439) and RESULT. -/
structure Reply where
  state : State
  code : Nat
  result : Dword
  deriving DecidableEq, Repr

/-- A command that succeeds. -/
def granted (s : State) : Reply := ⟨s, 0, 0⟩

/-- A command that is refused with a code, without effect. -/
def turned (s : State) (code : Nat) : Reply := ⟨s, code, 0⟩

/-- RESULT goes back into the block, and CMDSTAT takes the code (R440). -/
def Reply.finish (r : Reply) : State :=
  { r.state with
    host := Memory.write r.state.host (r.state.pf.cmdAddr.toNat + 0x20) (leBytes 8 r.result.toNat)
    pf := { r.state.pf with cmdStat := d64 r.code } }

/-- A command is performed: a reserved byte that is not zero gives result 3 (R440), a VF that does not exist gives
result 2 where the command needs one (R441). -/
def State.command (s : State) (c : PfCmd) (needsVf : Bool) (f : State → Nat → Reply) : State :=
  (if c.reserved ≠ 0 then turned s 3
   else if needsVf && !(s.vf c.vf.toNat).present then turned s 2
   else f s c.vf.toNat).finish

/-! ### CREATE, TEARDOWN, keys, grades -/

/-- CREATE (R441, R395); VFs are creatable after the base model is measured (R453). -/
def State.pfCreate (s : State) (vf : Nat) : Reply :=
  if vf = 0 ∨ (s.vf vf).present ∨ s.sec.root.isNone then turned s 2
  else
    granted { s with
      vfs := SMap.set .init s.vfs vf { Vf.init with present := true, km := some s.sec.nextKey }
      sec := { s.sec with nextKey := s.sec.nextKey + 1 } }

/-- CREATE. -/
def execCreate (c : PfCmd) (s : State) : Host.Outcome State Fault Refusal := .next (s.command c false fun s v => s.pfCreate v)

/-- TEARDOWN. -/
def execTeardown (c : PfCmd) (s : State) : Host.Outcome State Fault Refusal := .next (s.command c true fun s v => granted (s.tearDown v))

/-- CLEAR_KEYS (R397). -/
def execClearKeys (c : PfCmd) (s : State) : Host.Outcome State Fault Refusal :=
  .next (s.command c true fun s v => granted (s.updVf v fun f => { f with keys := [] }))

/-- Some leaf below a table of a level maps a byte of a frame. -/
def State.tableMaps (s : State) (frame : Nat) : Nat → Nat → Bool
  | 0, base => (List.range 64).any fun i =>
      let e := BitVec.ofNat 64 (leNat (s.mem.readAt none none (base + 8 * i) 8))
      e.getLsbD 0 && e.getLsbD 1 && pteAddr e / 2 ^ 19 == frame
  | level + 1, base => (List.range (tableSize (level + 1) / 8)).any fun i =>
      let e := BitVec.ofNat 64 (leNat (s.mem.readAt none none (base + 8 * i) 8))
      e.getLsbD 0 &&
        (if e.getLsbD 1 then decide (pteAddr e ≤ frame * 2 ^ 19 ∧ frame * 2 ^ 19 < pteAddr e + pageSize (level + 1))
         else s.tableMaps frame level (pteAddr e))

/-- Some leaf of a VF maps a frame (R379). -/
def State.mapped (s : State) (frame : Nat) : Bool :=
  s.vfs.any fun p => p.2.present && s.tableMaps frame 3 (s.cfg p.1 0x01)

/-- SET_GRADE (R379, R441). -/
def State.pfGrade (s : State) (c : PfCmd) : Reply :=
  let pa := c.addr.toNat
  let f := pa / 2 ^ 19
  let hbm := match regionOf pa with
    | .hbm d => s.homed d
    | _ => false
  if 2 < c.value.toNat ∨ pa % 2 ^ 19 ≠ 0 ∨ !hbm ∨ s.mapped f then turned s 3
  else
    let m := s.mem.zeroFrame f
    let s := s.uncheck pa
    granted { s with mem := { m with grade := SMap.set 0 m.grade f (BitVec.ofNat 2 c.value.toNat) } }

/-- SET_GRADE. -/
def execSetGrade (c : PfCmd) (s : State) : Host.Outcome State Fault Refusal :=
  .next (s.command c (c.vf != 0) fun s _ => s.pfGrade c)

/-! ### Fields (R394, R441) -/

/-- Bits of a VF field; 0 for a number that names none. -/
def fieldWidth : Nat → Nat
  | 0x01 => 52
  | 0x02 | 0x03 => 64
  | 0x04 => 3
  | 0x05 => 8
  | 0x06 => 10
  | 0x07 => 17
  | 0x08 => 20
  | 0x09 | 0x0B | 0x17 | 0x1B | 0x1D => 56
  | 0x0A => 21
  | 0x0C | 0x0D | 0x0E => 22
  | 0x0F => 5
  | 0x10 => 16
  | 0x11 => 12
  | 0x12 | 0x18 => 13
  | 0x13 => 17
  | 0x14 => 32
  | 0x15 => 16
  | 0x16 => 4
  | 0x19 => 7
  | 0x1A => 12
  | 0x1C | 0x20 => 64
  | 0x1E | 0x1F => 32
  | 0x21 => 1
  | _ => 0

/-- Values of INDEX of a VF field. -/
def fieldCount (id : Nat) : Nat := if [0x02, 0x03, 0x0C, 0x0D, 0x0E, 0x10].contains id then 32 else 1

/-- A field that CONFIG_LOCKED and RUN freeze. -/
def fieldLocked (id : Nat) : Bool :=
  [0x01, 0x02, 0x03, 0x09, 0x0A, 0x0B, 0x0C, 0x0D, 0x11, 0x12, 0x17, 0x18, 0x1B, 0x1C, 0x1D, 0x1E, 0x1F, 0x20, 0x21].contains id

/-- 0, or a value of a range. -/
def zeroOr (lo hi v : Nat) : Bool := v == 0 || decide (lo ≤ v ∧ v ≤ hi)

/-- BASE or LIMIT in bytes is a multiple of 512 KiB (R322). -/
def State.rangeAligned (s : State) (d v : Nat) : Bool := v * 2 ^ (14 + (s.die d).poolBs) % 2 ^ 19 == 0

/-- A binary of a handler of `n` bytes holds an entry offset (R90). -/
def entryIn (off n : Nat) : Bool := off % 4 == 0 && (decide (off < n) || n == 0 || off == 0)

/-- The handler image with one length replaced is as R90 requires. -/
def State.handlerOk (s : State) (vf lenC lenX : Nat) : Bool :=
  decide (ceilDiv lenC 512 + ceilDiv lenX 512 ≤ 64)
    && entryIn (s.cfg vf 0x20 % 2 ^ 32) lenC && entryIn (s.cfg vf 0x20 / 2 ^ 32) lenX

/-- A value lies in the range of a VF field (R394 and the rules that it names). -/
def State.fieldRange (s : State) (vf id index v : Nat) : Bool :=
  match id with
  | 0x01 => v % tableSize 3 == 0
  | 0x06 => zeroOr 20 1000 v
  | 0x07 => zeroOr 100 100000 v
  | 0x08 => zeroOr 1000 1000000 v
  | 0x09 => v % 64 == 0
  | 0x0A => decide (v ≤ 2 ^ 20)
  | 0x0B => v % 2 ^ 41 == 0
  | 0x0C | 0x0D => s.rangeAligned index v
  | 0x0F => decide (v ≤ 16)
  | 0x11 => decide (v + s.cfg vf 0x12 ≤ 4096)
  | 0x12 => decide (s.cfg vf 0x11 + v ≤ 4096)
  | 0x13 => decide (v ≤ 65536)
  | 0x14 => decide (v % 2 ^ 16 + v / 2 ^ 16 ≤ 65536)
  | 0x18 => decide (v ≤ 4096)
  | 0x19 => decide (v ≤ 100)
  | 0x1A => zeroOr ((List.range 2048).filter (s.inPart vf)).length 4095 v
  | 0x1B => v % 2 ^ 36 == 0
  | 0x1E => v != 0 && v % 4 == 0 && s.handlerOk vf v (s.cfg vf 0x1F)
  | 0x1F => v != 0 && v % 4 == 0 && s.handlerOk vf (s.cfg vf 0x1E) v
  | 0x20 => decide (v % 2 ^ 32 % 4 = 0 ∧ v % 2 ^ 32 < s.cfg vf 0x1E ∧ v / 2 ^ 32 % 4 = 0 ∧ v / 2 ^ 32 < s.cfg vf 0x1F)
  | _ => true

/-- Two ranges of indices meet; an empty range rangesMeet none. -/
def rangesMeet (a an b bn : Nat) : Bool := decide (a < b + bn ∧ b < a + an ∧ 0 < an ∧ 0 < bn)

/-- Entries that a VF counts for on a die (R202): its quota, or what it holds there. -/
def State.probeClaim (s : State) (vf d quota : Nat) : Nat :=
  max quota ((s.die d).probe.filter fun p => p.2.vf == vf && p.2.state != 0).length

/-- A write of a field would overlap with, or overfill against, another VF (R202, R275, R298, R322, R374, R392). -/
def State.fieldClash (s : State) (vf id index v : Nat) : Bool :=
  let others := (s.vfs.filter fun p => p.2.present && p.1 != vf).map Prod.fst
  match id with
  | 0x02 => others.any fun o => s.cfg o 0x03 index &&& v != 0
  | 0x03 =>
    (others.any fun o => s.cfg o 0x02 index &&& v != 0)
      || (List.range 64).any fun i => v.testBit i && s.crucible (quartetOf (64 * index + i))
  | 0x0C => others.any fun o =>
      rangesMeet v (s.cfg vf 0x0D index - v) (s.cfg o 0x0C index) (s.cfg o 0x0D index - s.cfg o 0x0C index)
  | 0x0D => others.any fun o =>
      rangesMeet (s.cfg vf 0x0C index) (v - s.cfg vf 0x0C index) (s.cfg o 0x0C index) (s.cfg o 0x0D index - s.cfg o 0x0C index)
  | 0x10 => decide ((s.die index).probeUnits * 128 < s.probeClaim vf index v
      + (others.map fun o => s.probeClaim o index (s.cfg o 0x10 index)).sum)
  | 0x11 => others.any fun o => rangesMeet v (s.cfg vf 0x12) (s.cfg o 0x11) (s.cfg o 0x12)
  | 0x12 => others.any fun o => rangesMeet (s.cfg vf 0x11) v (s.cfg o 0x11) (s.cfg o 0x12)
  | 0x14 => others.any fun o => rangesMeet (v % 2 ^ 16) (v / 2 ^ 16) (s.cfg o 0x14 % 2 ^ 16) (s.cfg o 0x14 / 2 ^ 16)
  | _ => false

/-- The slots of cores that leave a partition become unowned (R142). -/
def State.leaveCores (s : State) (vf index v : Nat) : State :=
  let gone := (List.range 64).filter fun i => (s.cfg vf 0x02 index).testBit i && !v.testBit i
  gone.foldl (fun s i => s.updCore (64 * index + i) fun c =>
    { c with slots := (c.slots.map fun p => if p.2.owner = some vf then (p.1, TSlot.init) else p).filter fun p => p.2 != .init }) s

/-- SET_FIELD of a VF field: a locked field first, then the value, then the other VFs (R441). -/
def State.pfSetVf (s : State) (vf id index v : Nat) : Reply :=
  if fieldWidth id = 0 ∨ fieldCount id ≤ index then turned s 3
  else if fieldLocked id && (s.vf vf).tdisp != .unlocked then
    ⟨if (s.vf vf).tdisp = .error then s else s.enterError vf, 4, 0⟩
  else if 2 ^ fieldWidth id ≤ v ∨ !s.fieldRange vf id index v then turned s 3
  else if s.fieldClash vf id index v then turned s 5
  else
    let s := if id = 0x02 then s.leaveCores vf index v else s
    granted (s.updVf vf fun f => { f with cfg := SMap.set 0 f.cfg (4096 * id + index) (d64 v) })

/-- A node is dispatched on a die. -/
def State.dieBusy (s : State) (d : Nat) : Bool := s.cores.any fun p => dieOf p.1 == d && p.2.node.isSome

/-- A quartet lies in some VF's exclusive partition (R441). -/
def State.quartetExclusive (s : State) (q : Nat) : Bool :=
  s.vfs.any fun p => p.2.present && (List.range 4).any fun i => s.exclusive p.1 (4 * q + i)

/-- SET_FIELD of a module field (R441). -/
def State.pfSetModule (s : State) (id index v v2 : Nat) : Reply :=
  match id with
  | 0x40 =>
    if 8 ≤ index then turned s 3
    else if (List.range 64).any fun i => v.testBit i && s.quartetExclusive (64 * index + i) then turned s 5
    else granted { s with pf := { s.pf with crucMap := SMap.set 0 s.pf.crucMap index (d64 v) } }
  | 0x41 =>
    if 32 ≤ index ∨ 12 < v ∨ s.dieBusy index ∨ (s.die index).probe.any (fun p => p.2.pins != 0) then turned s 3
    else granted (s.updDie index fun k => { k with probeUnits := v, probe := [] })
  | 0x42 =>
    if 32 ≤ index ∨ v = 0 ∨ 24 < v then turned s 3
    else granted (s.updDie index fun k => { k with scrub := v })
  | 0x43 =>
    if 64 ≤ index then turned s 3
    else granted { s with pf := { s.pf with route := SMap.set 0 s.pf.route index (d64 v) } }
  | 0x44 =>
    if 256 * 64 ≤ index ∨ 256 ≤ v then turned s 3
    else granted { s with pf := { s.pf with exportTo := SMap.set (0, 0) s.pf.exportTo index (v, d64 v2) } }
  | _ => turned s 3

/-- SET_FIELD. -/
def execSetField (c : PfCmd) (s : State) : Host.Outcome State Fault Refusal :=
  .next (s.command c (c.vf != 0) fun s v =>
    if v = 0 then s.pfSetModule c.field.toNat c.index.toNat c.value.toNat c.value2.toNat
    else s.pfSetVf v c.field.toNat c.index.toNat c.value.toNat)

/-- The value of a module field. -/
def State.moduleField (s : State) (id index : Nat) : Option Dword :=
  match id with
  | 0x40 => if index < 8 then some (SMap.get 0 s.pf.crucMap index) else none
  | 0x41 => if index < 32 then some (d64 (s.die index).probeUnits) else none
  | 0x42 => if index < 32 then some (d64 (s.die index).scrub) else none
  | 0x43 => if index < 64 then some (SMap.get 0 s.pf.route index) else none
  | 0x44 => if index < 256 * 64 then some (d64 (SMap.get (0, 0) s.pf.exportTo index).1) else none
  | _ => none

/-- GET_FIELD (R441). -/
def State.pfGet (s : State) (vf id index : Nat) : Reply :=
  if vf = 0 then
    match s.moduleField id index with
    | some v => ⟨s, 0, v⟩
    | none => turned s 3
  else if fieldWidth id = 0 ∨ fieldCount id ≤ index then turned s 3
  else ⟨s, 0, d64 (s.cfg vf id index)⟩

/-- GET_FIELD. -/
def execGetField (c : PfCmd) (s : State) : Host.Outcome State Fault Refusal :=
  .next (s.command c (c.vf != 0) fun s v => s.pfGet v c.field.toNat c.index.toNat)

/-! ### Suspension and migration (R300, R412 to R414) -/

/-- SUSPEND (R441). -/
def State.pfSuspend (s : State) (vf v : Nat) : Reply :=
  match v, (s.vf vf).migr with
  | 0, _ => granted (s.beginSuspension vf 1)
  | 1, some g => granted ((s.beginSuspension vf 2).updVf vf fun f => { f with migr := some { g with since := some s.tb, settled := false } })
  | _, _ => turned s 3

/-- SUSPEND. -/
def execSuspend (c : PfCmd) (s : State) : Host.Outcome State Fault Refusal :=
  .next (s.command c true fun s v => s.pfSuspend v c.value.toNat)

/-- RESUME (R441): a settlement that has begun is given up with its suspension. -/
def execResume (c : PfCmd) (s : State) : Host.Outcome State Fault Refusal :=
  .next (s.command c true fun s v => granted ((s.endSuspension v).updVf v fun f =>
    { f with migr := f.migr.map fun g => { g with since := none, settled := false } }))

/-- MIGRATE_START (R412, R441): the dirty log begins. -/
def State.pfMigrate (s : State) (vf module deadline : Nat) : Reply :=
  if 64 ≤ module ∨ 1000 < deadline ∨ (s.vf vf).migr.isSome then turned s 3
  else granted (s.beginMigration vf module (orDefault deadline 10))

/-- MIGRATE_START. -/
def execMigrateStart (c : PfCmd) (s : State) : Host.Outcome State Fault Refusal :=
  .next (s.command c true fun s v => s.pfMigrate v c.value.toNat c.value2.toNat)

/-- MIGRATE_STOP (R413, R414, R441): after settlement the VF's keys are destroyed and it does not run here again; or the
migration is abandoned. -/
def State.pfMigrateStop (s : State) (vf v : Nat) : Reply :=
  match v, (s.vf vf).migr with
  | 0, some g =>
    if g.settled then granted ((s.destroyKeys vf).updVf vf fun f => { f with migr := none, susp := 1 }) else turned s 3
  | 1, some _ => granted (s.abandonMigration vf)
  | _, _ => turned s 3

/-- MIGRATE_STOP. -/
def execMigrateStop (c : PfCmd) (s : State) : Host.Outcome State Fault Refusal :=
  .next (s.command c true fun s v => s.pfMigrateStop v c.value.toNat)

/-- A VF is settled (R413): every node stands at an operator boundary (one that is rolled back does once its rewinds have
ended), is parked, or has never run, and its backfill requests and
adapter loads are complete. -/
def State.quiet (s : State) (vf : Nat) : Bool :=
  ((s.nodesOfVf vf).all fun p =>
    match p.2.state with
    | .running | .preempted | .ending _ _ => false
    | .rolledBack => !s.hearth.rewinds.any fun r => r.1 == d64 p.1
    | _ => true)
    && s.dies.all (fun p => p.2.bfq.all fun e => e.vf != vf) && (s.vf vf).adapters.all fun p => p.2.state != 1

/-- MIGRATION_SETTLE (R412, R413): what remains of the VF goes out, and open landing epochs are abandoned. -/
def execMigrationSettle (vf : Nat) (s : State) : Host.Outcome State Fault Refusal :=
  match (s.vf vf).migr with
  | some g =>
    if (s.vf vf).susp = 2 ∧ g.since.isSome ∧ !g.settled ∧ s.quiet vf then
      match s.exportRest vf with
      | some s =>
        let calm (f : Vf) : Vf :=
          { f with migr := f.migr.map (fun g => { g with settled := true }), landings := f.landings.map fun p => (p.1, p.2.settled) }
        .next (s.updVf vf calm)
      | none => .next s
    else .next s
  | none => .next s

/-- MIGRATION_DEADLINE (R413): a VF that has not settled resumes on the source. -/
def execMigrationDeadline (vf : Nat) (s : State) : Host.Outcome State Fault Refusal :=
  match (s.vf vf).migr with
  | some g =>
    let due := (g.since.map fun t => decide (t + g.deadlineMs * msCycles ≤ s.tb)).getD false
    .next (if (s.vf vf).susp = 2 ∧ !g.settled ∧ due then s.abandonMigration vf else s)
  | none => .next s

/-- BAD_OPCODE (R440, R441): result 1, or 3 where a reserved byte is not zero. -/
def execBadOpcode (c : PfCmd) (s : State) : Host.Outcome State Fault Refusal := .next (turned s (if c.reserved ≠ 0 then 3 else 1)).finish

/-! ### Page-fault answers (R225, R442) -/

/-- RESOLVE_RETRY: the access translates again. -/
def execResolveRetry (tag : Nat) (s : State) : Host.Outcome State Fault Refusal :=
  match s.pf.faults.lookup tag with
  | some f => .next (if f.failed then s else { s with pf := { s.pf with faults := SMap.erase s.pf.faults tag } })
  | none => .next s

/-- RESOLVE_FAIL: the access raises 0x22 when it next translates. -/
def execResolveFail (tag : Nat) (s : State) : Host.Outcome State Fault Refusal :=
  match s.pf.faults.lookup tag with
  | some f => .next { s with pf := { s.pf with
      faults := SMap.insert tag { f with failed := true } (SMap.erase s.pf.faults tag) } }
  | none => .next s

/-! ### Shootdown (R223) -/

/-- The VF and the range of the request: base, and end. -/
def Pf.range (p : Pf) : Nat × Nat × Nat :=
  let vf := bitsOf p.sdReq.toNat 63 56
  let base := bitsOf p.sdReq.toNat 55 0
  if p.sdLen = 0 then (vf, 0, 2 ^ 56) else (vf, base, base + p.sdLen.toNat)

/-- A TLB drops every entry that overlaps the range. -/
def dropTlb (t : List TlbEntry) (r : Nat × Nat × Nat) : List TlbEntry :=
  t.filter fun e => !(e.vf == r.1 && decide (e.va < r.2.2 ∧ r.2.1 < e.va + pageSize e.level))

/-- The L1 lines of a shootdown's range are evicted. -/
def State.evictRange (s : State) (r : Nat × Nat × Nat) : State :=
  s.cores.foldl (fun s p => s.flushIf p.1 fun l => l.vf == r.1 && decide (l.va < r.2.2 ∧ r.2.1 < l.va + 64)) s

/-- Copies of a VF read their current chunk again, so that no write of theirs goes through an old entry. -/
def Core.rereadChunks (c : Core) (vf : Nat) : Core :=
  let again (q : EngQueue) : EngQueue := { q with todo := none }
  if c.vfid = vf || c.vfid = 0 then { c with load := again c.load, store := again c.store } else c

/-- SHOOTDOWN (R223): the L1 lines of the range are evicted, so that what those entries translated comes to be performed, and
every TLB drops its entries. -/
def execShootdown (s : State) : Host.Outcome State Fault Refusal :=
  if s.pf.sdBusy then .next s
  else
    let r := s.pf.range
    let s := s.evictRange r
    .next { s with
      cores := s.cores.map fun p => (p.1, { p.2.rereadChunks r.1 with tlb := dropTlb p.2.tlb r })
      pf := { s.pf with sdBusy := true, sdRange := r } }

/-- A write may go through an entry of a VF, or may be a page-table store of the PF or the host. -/
def concerns (vf : Nat) (a : Agent) (w : Nat) : Bool :=
  w == vf || w == 0 || match a with | .host _ _ | .management => true | _ => false

/-- The VF of a request to a peer. -/
def State.vfOfPeer (s : State) (r : PeerReq) : Nat :=
  match r.parked with
  | some p => nodeVf p.1
  | none => (s.core r.agent.core).vfid

/-- Every write of a VF and of the PF is performed at module scope, and their requests to peers are answered (R223). -/
def State.allPerformed (s : State) (vf : Nat) : Bool :=
  (s.mem.pend.all fun w => !concerns vf w.agent w.vf) && (s.mem.log.all fun e => !concerns vf e.2.agent e.2.vf)
    && s.peers.all fun r => r.resp.isSome || !concerns vf r.agent (s.vfOfPeer r)

/-- SHOOTDOWN_DONE (R223, R439): what TLBs and L1s have taken since from a table that a store had not reached leaves them too, and a
chunk that went through it in the meantime is read again. -/
def execShootdownDone (s : State) : Host.Outcome State Fault Refusal :=
  if !s.pf.sdBusy then .next s
  else
    let r := s.pf.sdRange
    let s := s.evictRange r
    let s := { s with cores := s.cores.map fun (p : Nat × Core) => (p.1, { p.2 with tlb := dropTlb p.2.tlb r }) }
    if s.allPerformed r.1 then
      let s := { s with cores := s.cores.map fun (p : Nat × Core) => (p.1, p.2.rereadChunks r.1), pf := { s.pf with sdBusy := false } }
      .next (s.postPf 0 0x93 0 0 0)
    else .next s

end Sys2Proof.Machine
end

