-- ==== Sys2Proof/Machine/HostRegs.lean ====
section
/-! DEFINITION. What the host writes and reads: the registers of BAR0 (R435 to R440), doorbells, event rings, and the
window of BAR2 (R434). -/

namespace Sys2Proof

/-! ### Parts of registers -/

/-- An access is 8 bytes and aligned, or 4 bytes and aligned (R435). -/
def RegWrite.aligned (w : RegWrite) : Bool := if w.wide then w.offset % 8 == 0 else w.offset % 4 == 0

/-- It reaches bits [63:32]. -/
def RegWrite.high (w : RegWrite) : Bool := w.wide || w.offset % 8 == 4

/-- It reaches bits [31:0]. -/
def RegWrite.low (w : RegWrite) : Bool := w.wide || w.offset % 8 == 0

/-- The register's value after the write, from what it held. -/
def RegWrite.merge (w : RegWrite) (old : Dword) : Dword :=
  if w.wide then w.value
  else if w.offset % 8 = 4 then (w.value.extractLsb' 0 32 ++ old.extractLsb' 0 32 : BitVec 64)
  else (old.extractLsb' 32 32 ++ w.value.extractLsb' 0 32 : BitVec 64)

end Sys2Proof

namespace Sys2Proof.Machine
open Sys2Proof

/-- EN and LOG2N of a ring's configuration, LOG2N as the nearest legal value (R435), with the bits of a mask. -/
def legalCfg (mask v : Dword) : Dword :=
  let n := bitsOf v.toNat 4 0
  (v &&& (mask ||| 0x100)) ||| d64 (if n < 4 then 4 else if 16 < n then 16 else n)

/-! ### Submission queues (R435, R436) -/

/-- A doorbell (R436): the function's earlier writes are seen by the Hearth's reads (R274). -/
def State.doorbell (s : State) (h : HostReq) (q : Nat) (v : Dword) : State :=
  let vf := h.vf
  let k := s.sq vf q
  if !ringOn k.cfg || k.resetting then s
  else if ringSlots k.cfg ≤ bitsOf v.toNat 15 0 then s.updSq vf q fun k => { k with err := true }
  else
    let s := { s with mem := s.mem.drain fun a => a == Agent.host vf h.port }
    s.updSq vf q fun k => { k with tail := v.extractLsb' 0 16, err := false }

/-- SQ_DOORBELL (R436). -/
def execSqDoorbell (h : HostReq) (q : Nat) (v : Dword) (s : State) : Host.Outcome State Fault Refusal :=
  onHost h s fun s => s.doorbell h q v

/-- A write to a register of a submission queue; a reset that comes with it is handled first. -/
def State.writeSq (s : State) (w : RegWrite) (q r : Nat) : State :=
  let k := s.sq w.vf q
  let fixed := ringOn k.cfg && k.head != k.tail
  match r with
  | 0 => if fixed then s else s.updSq w.vf q fun k => { k with base := w.merge k.base &&& ~~~(0xFFF : Dword) }
  | 1 => if fixed then s else s.updSq w.vf q fun k => { k with cfg := legalCfg 0 (w.merge k.cfg) }
  | 2 => if w.low then s.doorbell w.req q (w.merge 0) else s
  | _ => if w.high && (w.merge 0).getLsbD 32 then s.resetQueue w.vf q else s

/-! ### Event rings (R310, R435, R437) -/

/-- A ring whose record could not be written is tried again (R310). -/
def State.retryRing (s : State) (vf r : Nat) : State := if (s.ring vf r).faulted then s.writeRecord vf r else s

/-- A write of ERHEAD: one that would pass the tail is ignored (R437). -/
def State.writeHead (s : State) (vf r : Nat) (v : Dword) : State :=
  let g := s.ring vf r
  let n := ringSlots g.cfg
  let h := bitsOf v.toNat 15 0
  let far (x : Nat) : Nat := (x + n - g.head.toNat % n) % n
  let s := if h < n ∧ far h ≤ far g.tail.toNat then s.setRing vf r { g with head := v.extractLsb' 0 16 } else s
  s.retryRing vf r

/-- ERHEAD_WRITE (R437). -/
def execErheadWrite (h : HostReq) (ring : Nat) (v : Dword) (s : State) : Host.Outcome State Fault Refusal :=
  onHost h s fun s => s.writeHead h.vf ring v

/-- The fields of ERCFG beside EN and LOG2N: COALT and COALN. -/
def coalMask : Dword := 0x0000FFFF00FF0000

/-- A write to a register of an event ring. -/
def State.writeRing (s : State) (w : RegWrite) (r i : Nat) : State :=
  let g := s.ring w.vf r
  match i with
  | 0 =>
    (if ringOn g.cfg then s else s.setRing w.vf r { g with base := w.merge g.base &&& ~~~(0xFFF : Dword) }).retryRing w.vf r
  | 1 => (if ringOn g.cfg then s else s.setRing w.vf r { g with cfg := legalCfg coalMask (w.merge g.cfg) }).retryRing w.vf r
  | 2 => if w.low then s.writeHead w.vf r (w.merge 0) else s
  | _ => s

/-! ### The other registers of a VF -/

/-- RESUME (R316, R435): the parks of KIND 1 of a node that stands parked end. -/
def State.resumeNode (s : State) (vf : Nat) (id : Dword) : State :=
  match s.node? id with
  | none => s
  | some n =>
    if n.state != .parked || nodeVf id != vf then s
    else
      let left := n.wakes.filter fun w => bitsOf w.2.toNat 63 62 != 1
      (s.setNode id { n with wakes := left }).wakeNode id

/-- RESUME_WRITE (R435). -/
def execResumeWrite (h : HostReq) (node : Dword) (s : State) : Host.Outcome State Fault Refusal :=
  onHost h s fun s => s.resumeNode h.vf node

/-- ADCMD (R435, R438). -/
def State.adcmd (s : State) (vf : Nat) (v : Dword) : State :=
  match bitsOf v.toNat 63 62 with
  | 1 => s.hostEvict vf (v.extractLsb' 0 32)
  | 2 => s.hostRetire vf (v.extractLsb' 0 32)
  | _ => s

/-- A write to a word of a vector table. -/
def State.writeTable (s : State) (w : RegWrite) (i : Nat) : State := s.writeVector w.vf i (w.merge ((s.vectors w.vf).word i))

/-- A write to BAR0 of a VF (R434, R435). -/
def State.writeVfReg (s : State) (w : RegWrite) : State :=
  let o := w.offset
  if o < 0x200 then s.writeSq w (o / 0x20) (o % 0x20 / 8)
  else if 0x400 ≤ o ∧ o < 0x600 then s.writeRing w ((o - 0x400) / 0x20) (o % 0x20 / 8)
  else if o / 8 * 8 = 0x800 then s.resumeNode w.vf (w.merge 0)
  else if o / 8 * 8 = 0x808 then s.adcmd w.vf (w.merge 0)
  else if 0x8000 ≤ o ∧ o < 0x8000 + 16 * 17 then s.writeTable w ((o - 0x8000) / 8)
  else s

/-! ### The PF's registers (R439, R440) -/

/-- The command block of 64 bytes (R440). -/
def parseCmd (b : List Byte) : PfCmd :=
  { opcode := BitVec.ofNat 8 (field b 0 1), vf := BitVec.ofNat 8 (field b 1 1), field := BitVec.ofNat 16 (field b 2 2)
    index := BitVec.ofNat 32 (field b 4 4), value := d64 (field b 8 8), value2 := d64 (field b 0x10 8)
    addr := d64 (field b 0x18 8), reserved := BitVec.ofNat 192 (field b 0x28 24) }

/-- Performs a command by its opcode (R441). -/
def State.runCommand (s : State) (c : PfCmd) : State :=
  stateOf s (match c.opcode.toNat with
    | 1 => execCreate c s
    | 2 => execTeardown c s
    | 3 => execSetField c s
    | 4 => execGetField c s
    | 5 => execSuspend c s
    | 6 => execResume c s
    | 7 => execMigrateStart c s
    | 8 => execMigrateStop c s
    | 9 => execSetGrade c s
    | 10 => execClearKeys c s
    | _ => execBadOpcode c s)

/-- Firmware performs the command that stands: it reads the block once, and BUSY ends (R440). When it does is the model's choice (log
entry 131, DESIGN CHOICE). -/
def State.perform (s : State) : State :=
  if s.pf.cmdStat.getLsbD 63 then s.runCommand (parseCmd (Memory.read s.host s.pf.cmdAddr.toNat 64)) else s

/-- RESOLVE (R225, R439). -/
def State.resolve? (s : State) (v : Dword) : State :=
  let tag := bitsOf v.toNat 31 0
  match bitsOf v.toNat 63 62 with
  | 1 => stateOf s (execResolveRetry tag s)
  | 2 => stateOf s (execResolveFail tag s)
  | _ => s

/-- PWRCAP holds 8000 to 15 000; a value outside is not taken. -/
def State.writeCap (s : State) (v : Dword) : State :=
  let n := bitsOf v.toNat 15 0
  if 8000 ≤ n ∧ n ≤ 15000 then { s with pf := { s.pf with pwrCap := d64 n } } else s

/-- A write to BAR0 of the PF (R434, R439). -/
def State.writePfReg (s : State) (w : RegWrite) : State :=
  if 0x30000 ≤ w.offset ∧ w.offset < 0x30000 + 16 * 4 then s.writeTable w ((w.offset - 0x30000) / 8)
  else
  match w.offset / 8 * 8 with
  | 0x0000 => s.writeRing w 0 0
  | 0x0008 => s.writeRing w 0 1
  | 0x0010 => s.writeRing w 0 2
  | 0x0100 => { s with pf := { s.pf with cmdAddr := w.merge s.pf.cmdAddr &&& ~~~(0x3F : Dword) } }
  | 0x0108 => { s with pf := { s.pf with cmdStat := s.pf.cmdStat ||| 0x8000000000000000 } }
  | 0x0180 => s.resolve? (w.merge 0)
  | 0x0200 => { s with pf := { s.pf with sdReq := w.merge s.pf.sdReq } }
  | 0x0208 => { s with pf := { s.pf with sdLen := w.merge s.pf.sdLen } }
  | 0x0210 => stateOf s (execShootdown s)
  | 0x2000 => s.writeCap (w.merge s.pf.pwrCap)
  | _ => s

/-- The host sees BAR0 once firmware runs, and not in recovery (R410, R453). -/
def State.visible (s : State) : Bool := decide (6 ≤ s.sec.stage ∧ s.sec.stage ≤ 8)

/-- REGISTER_WRITE (R435, R439). -/
def execRegisterWrite (w : RegWrite) (s : State) : Host.Outcome State Fault Refusal :=
  onHost w.req s fun s => (if !w.aligned || !s.visible then s else if w.vf = 0 then s.writePfReg w else if (s.vf w.vf).present then s.writeVfReg w else s)

/-! ### Reading registers -/

/-- SQSTAT (R435). -/
def SubQ.status (k : SubQ) : Dword :=
  d64 ((if k.resetting then 2 ^ 32 else 0) + (if k.err then 2 ^ 31 else 0) + k.head.toNat)

/-- The number of a TDISP state (R435). -/
def Tdisp.code : Tdisp → Nat
  | .unlocked => 0
  | .locked => 1
  | .run => 2
  | .error => 3

/-- VFSTAT (R435). -/
def Vf.status (v : Vf) : Dword :=
  d64 (v.tdisp.code + (if v.susp = 0 then 0 else 2 ^ 8) + if v.migr.isSome then 2 ^ 9 else 0)

/-- What an event ring's register reads. -/
def Ring.register (g : Ring) (i : Nat) : Dword :=
  match i with
  | 0 => g.base
  | 1 => g.cfg
  | 2 => g.head.setWidth 64
  | _ => g.tail.setWidth 64

/-- A register of a VF's BAR0, at a multiple of 8, as a read of 8 bytes returns it (R434, R435). -/
def State.readVfReg (s : State) (vf o : Nat) : Dword :=
  if o < 0x200 then
    let k := s.sq vf (o / 0x20)
    match o % 0x20 / 8 with
    | 0 => k.base
    | 1 => k.cfg
    | 2 => 0
    | _ => k.status
  else if 0x400 ≤ o ∧ o < 0x600 then (s.ring vf ((o - 0x400) / 0x20)).register (o % 0x20 / 8)
  else if o = 0x810 then (s.vf vf).adstat
  else if o = 0x818 then (s.vf vf).status
  else if 0x8000 ≤ o ∧ o < 0x8000 + 16 * 17 then (s.vectors vf).word ((o - 0x8000) / 8)
  else if o = 0x9000 then (s.vectors vf).pend
  else 0

/-- THSTAT (R439). -/
def State.thstat (s : State) : Dword :=
  d64 ((allDies.map fun d => (s.die d).temp).foldl max 0 % 256
    + (allDies.map fun d => (s.die d).throttle).foldl max 0 * 2 ^ 8
    + if allDies.any fun d => (s.die d).trip then 2 ^ 16 else 0)

/-- A register of the PF's BAR0, at a multiple of 8, as a read of 8 bytes returns it (R434, R439). -/
def State.readPfReg (s : State) (o : Nat) : Dword :=
  if 0x30000 ≤ o ∧ o < 0x30000 + 16 * 4 then s.pf.vectors.word ((o - 0x30000) / 8)
  else if o < 0x20 then s.pf.ring.register (o / 8)
  else if 0x1000 ≤ o ∧ o < 0x1100 then SMap.get 0 s.mem.corrected ((o - 0x1000) / 8)
  else
    match o with
    | 0x0100 => s.pf.cmdAddr
    | 0x0110 => s.pf.cmdStat
    | 0x0200 => s.pf.sdReq
    | 0x0208 => s.pf.sdLen
    | 0x0218 => if s.pf.sdBusy then 0x8000000000000000 else 0
    | 0x2000 => s.pf.pwrCap
    | 0x2008 => s.thstat
    | _ => 0

/-- An aligned host read of BAR0, of 8 bytes or of 4 (R435). -/
def State.readReg (s : State) (vf o : Nat) (wide : Bool) : Dword :=
  let w := if !s.visible then 0 else if vf = 0 then s.readPfReg (o / 8 * 8)
    else if (s.vf vf).present then s.readVfReg vf (o / 8 * 8) else 0
  if wide then w else if o % 8 = 4 then (w.extractLsb' 32 32).setWidth 64 else (w.extractLsb' 0 32).setWidth 64

/-- Vector 16 tells the host of a virtual module's events (R437): of a change of ADSTAT or VFSTAT since it last did (log entry
125). -/
def State.tellModule (s : State) (vf : Nat) : State :=
  let now := ((s.vf vf).adstat, (s.vf vf).status)
  if !(s.vf vf).present || (s.vf vf).told == now then s
  else (s.updVf vf fun v => { v with told := now }).message vf 16

/-! ### BAR2 (R434) -/

/-- The agent of a host request (R433). -/
def hostAgent (h : HostReq) : Agent := .host h.vf h.port

/-- A store of the host agent (R434). -/
def State.hostStore (s : State) (h : HostReq) (va : Nat) (bs : List Byte) : Except Stop State := do
  checkSpace va bs.length .st
  let first := min bs.length (2 ^ 19 - va % 2 ^ 19)
  let (s, l) ← s.translate (hostAgent h) h.vf va .st true
  if first = bs.length then s.writeLeaf (hostAgent h) h.vf l (numbered bs) 1
  else
    let (s, l2) ← s.translate (hostAgent h) h.vf (va + first) .st true
    let s ← s.writeLeaf (hostAgent h) h.vf l (numbered (bs.take first)) 1
    s.writeLeaf (hostAgent h) h.vf l2 (numbered (bs.drop first)) 1

/-- A load of the host agent (R434). -/
def State.hostLoad (s : State) (h : HostReq) (va n : Nat) : Except Stop (State × List Byte) :=
  s.readVa (hostAgent h) h.vf va n .ld true

/-- What follows an access that faults, or that is refused: its sides, and event 0x91 with its address (R434, R442). -/
def State.bar2Fault (s : State) (va : Nat) (sides : List Side) : State :=
  ({ (s.applySides sides) with pf := { (s.applySides sides).pf with completion := none } }).postPf 0 0x91 0 0 va

/-- Bytes of an access. -/
def bar2Bytes (a : Bar2) : Nat := match a.data with | some bs => bs.length | none => a.size

/-- The access names a window of a function that the host sees (R410, R434). -/
def State.inWindow (s : State) (a : Bar2) : Bool :=
  s.visible && (s.vf a.vf).present && decide (a.offset + bar2Bytes a ≤ 2 ^ 36)

/-- The PF's recovery registers, the only ones in recovery (R410, R434): they read as 0, and writes change nothing (log
entry 125, PRESUMED). -/
def State.recoveryBar (s : State) (a : Bar2) : State :=
  if 6 ≤ s.sec.stage ∧ a.offset + bar2Bytes a ≤ 2 ^ 16 ∧ a.data.isNone then
    { s with pf := { s.pf with completion := some (List.replicate a.size 0) } }
  else s

/-- A load or a store of the host agent: one that faults completes at once with Completer Abort, and a load of peer memory waits
for the peer (R434, R448). -/
def State.bar2 (s : State) (a : Bar2) : State :=
  let va := s.cfg a.vf 0x1B + a.offset
  if a.vf = 0 then s.recoveryBar a
  else if !s.inWindow a then s
  else if s.refuses a.req then s.bar2Fault va []
  else
    match a.data with
    | some bs =>
      match s.hostStore a.req va bs with
      | .ok t => t
      | .error e => s.bar2Fault va e.sides
    | none =>
      match s.hostLoad a.req va a.size with
      | .ok (t, bs) => { t with pf := { t.pf with completion := some bs } }
      | .error (.wait .peer sides) =>
        let t := s.applySides sides
        { t with pf := { t.pf with reads := t.pf.reads ++ [a] } }
      | .error e => s.bar2Fault va e.sides

/-- BAR2_ACCESS (R434). -/
def execBar2Access (a : Bar2) (s : State) : Host.Outcome State Fault Refusal := .next (s.bar2 a)

/-- The host's loads that wait for a peer are looked at again. -/
def State.retryReads (s : State) : State := s.pf.reads.foldl State.bar2 { s with pf := { s.pf with reads := [] } }

end Sys2Proof.Machine
end

