-- ==== Sys2Proof/Machine/Kv.lean ====
section
/-! DEFINITION. Handle instructions (R237 to R240), the block allocator's instructions (R327 to R335), and the backfill
queue's acceptance (R346 to R349). -/

namespace Sys2Proof.Machine
open Sys2Proof

/-! ### hview, hchk, hqry -/

/-- HVIEW (R238). -/
def execHview (o : R3) (s : State) : Host.Outcome State Fault Refusal :=
  runStream s fun s => do
    let h := s.reg o.a
    let (s, e) ← s.deref s.me s.device h false
    let v := (s.reg o.b).toNat
    s.onward <| need (decide (v ≠ 0 ∧ v ≤ 0xFFFFFF ∧ v ≤ e.e0)) (trapHand 0x27 h)
    .ok ((s.setReg o.d (d64 (h.toNat / 2 ^ 24 * 2 ^ 24 + v))).done o.stop)

/-- A cause that hchk reports and does not raise (R239): all but poison. -/
def reported (code : Byte) : Bool := decide (0x20 ≤ code.toNat ∧ code.toNat ≤ 0x2C)

/-- The check of an element for hchk: the cause, and whether it is padding. -/
def HEntry.chkElem (e : HEntry) (c : Coords) : Nat :=
  match e.place c false with
  | .ok .pad => 2 ^ 8
  | .ok (.at _ _) => 0
  | .error (.trap t) => t.code.toNat
  | .error _ => 0

/-- HCHK (R239). -/
def execHchk (o : R3) (s : State) : Host.Outcome State Fault Refusal :=
  runStream s fun s => do
    let off := (s.reg o.b).toNat
    if o.b = 0 then .ok () else s.spRange off 16
    let (s, v) ← match s.deref s.me s.device (s.reg o.a) false with
      | .ok (s', e) => .ok (s', if o.b = 0 then 0 else e.chkElem (s.here.coordsAt off))
      | .error (.trap t) =>
        if reported t.code then .ok (s.applySides t.sides, t.code.toNat) else .error (.trap t)
      | .error w => .error w
    .ok ((s.setReg o.d (d64 v)).done o.stop)

/-- HQRY (R240). -/
def execHqry (o : R3) (s : State) : Host.Outcome State Fault Refusal :=
  runStream s fun s => do
    let h := s.reg o.a
    let (s, e) ← s.deref s.me s.device h false
    let k := (s.reg o.b).toNat
    s.onward <| need (k ≤ 7) (trapHand 0x27 h)
    .ok ((s.setReg o.d (d64 (field e.raw (8 * k) 8))).done o.stop)

/-! ### The allocator's instructions -/

/-- An allocator instruction is a release and an acquire of module scope for the C-stream (R327). -/
def State.allocator (s : State) : Except Stop State := do
  let s ← s.release s.me (dieOf s.cur) 3
  .ok s.settleAll

/-- The result word (R330). -/
def allocWord (st nblk len : Nat) : Dword := d64 (st * 2 ^ 60 + nblk % 2 ^ 16 * 2 ^ 32 + len % 2 ^ 32)

/-- An allocator instruction ends: its result, and event 0x88 after QUOTA and EMPTY (R329). -/
def State.allocDone (s : State) (o : R3) (h : Dword) (st nblk len : Nat) : State :=
  let s := if st = 1 ∨ st = 2 then s.side (.allocFail st (indexOf h)) else s
  (s.setReg o.d (allocWord st nblk len)).done o.stop

/-- A trap 0x61 (R352). -/
def kvOperand {α : Type} (v : Dword) : Except Stop α := trapOf 0x61 v

/-- BALLOC (R331). -/
def execBalloc (o : R3) (s : State) : Host.Outcome State Fault Refusal :=
  runStream s fun s => do
    let s ← s.allocator
    let h := s.reg o.a
    let (s, e) ← s.derefKv s.me s.device h
    let n := (s.reg o.b).toNat
    s.onward <| need (decide (1 ≤ n ∧ n ≤ e.kvP)) (kvOperand (s.reg o.b))
    let len := e.kvLen + n
    if len ≤ e.nblk * e.kvP then
      let s ← s.onward (s.writeAux s.me e e.nblk len)
      .ok (s.allocDone o h 0 e.nblk len)
    else
      let st := if e.extent 1 < len then 3 else s.allocStatus e.vf e.adie e.layers
      if st != 0 then .ok (s.allocDone o h st e.nblk e.kvLen)
      else
        let s ← s.onward (forNat e.layers s fun s l => do
          let (s, b) ← s.newBlock s.me e l e.nblk 0 0
          s.onward (s.writeBlock s.me e (e.kvTile l e.nblk) (some b)))
        let s ← s.onward (s.writeAux s.me e (e.nblk + 1) len)
        .ok (s.allocDone o h 0 (e.nblk + 1) len)

/-- BTRIM (R332). -/
def execBtrim (o : R3) (s : State) : Host.Outcome State Fault Refusal :=
  runStream s fun s => do
    let s ← s.allocator
    let h := s.reg o.a
    let (s, e) ← s.derefKv s.me s.device h
    let len := (s.reg o.b).toNat
    s.onward <| need (len ≤ e.kvLen) (kvOperand (s.reg o.b))
    s.onward <| need (!s.bfRunning e.vf h len) (waitOn (.backfill (indexOf h) len))
    let s := s.bfDrop e.vf h len
    let (s, st) ← s.onward (s.kvTrim s.me e len)
    .ok (if st = 0 then s.allocDone o h 0 (ceilDiv len e.kvP) len else s.allocDone o h st e.nblk e.kvLen)

/-- BFREE (R333). -/
def execBfree (o : R2) (s : State) : Host.Outcome State Fault Refusal :=
  runStream s fun s => do
    let s ← s.allocator
    let h := s.reg o.a
    let (s, e) ← s.derefKv s.me s.device h
    s.onward <| need (!s.bfRunning e.vf h 0) (waitOn (.backfill (indexOf h) 0))
    let s := s.bfDrop e.vf h 0
    let s ← s.onward (s.dropBlocks s.me e 0 false)
    let s ← s.onward (s.writeAux s.me e 0 0)
    .ok ((s.setReg o.d (allocWord 0 0 0)).done o.stop)

/-- The destination of a fork agrees with its source and is empty (R334). -/
def forkOk (x y : HEntry) : Bool :=
  y.kvLen == 0 && y.nblk == 0 && x.adie == y.adie && x.fmt == y.fmt && x.extent 0 == y.extent 0
    && x.extent 2 == y.extent 2 && x.extent 3 == y.extent 3 && x.shift 1 == y.shift 1
    && x.blockBytes == y.blockBytes && !(x.vf == y.vf && indexOf x.handle == indexOf y.handle)

/-- Some PEND bit is set in a block of a sequence. -/
def State.anyPending (s : State) (a : Agent) (e : HEntry) : Except Stop (State × Bool) :=
  (List.range (e.layers * e.nblk)).foldlM (fun (r : State × Bool) i => r.1.onward do
    let (s, b) ← r.1.readBlock a e (e.kvTile (i / e.nblk) (i % e.nblk))
    match b with
    | none => .ok (s, r.2)
    | some b =>
      let (s, h) ← s.onward (s.readHeader a e.vf b)
      .ok (s, r.2 || h.pend != 0)) (s, false)

/-- The tail of one layer is copied to a block of its own (R334, R336). -/
def State.forkTail (s : State) (a : Agent) (x y : HEntry) (l full part : Nat) : Except Stop State := do
  let (s, b) ← s.readBlock a x (x.kvTile l full)
  match b with
  | none => .ok s
  | some b =>
    let (s, h) ← s.onward (s.readHeader a x.vf b)
    s.onward <| need (!h.seq.getLsbD 0) (waitOn (.odd (indexOf x.handle) (full * x.kvP) (full * x.kvP + x.kvP)))
    let (s, n) ← s.onward (s.newBlock a y l full 0 (h.lost &&& bitsBelow part))
    let (s, bs) ← s.onward (s.readBlockAt a x.vf b 64 x.tileBytes)
    let s := s.commitBlockAt a y.vf n 64 bs
    s.onward (s.writeBlock a y (y.kvTile l full) (some n))

/-- The full blocks of one layer are shared. -/
def State.forkShare (s : State) (a : Agent) (x y : HEntry) (l full : Nat) : Except Stop State :=
  forNat full s fun s i => do
    let (s, b) ← s.readBlock a x (x.kvTile l i)
    let s ← s.onward (s.writeBlock a y (y.kvTile l i) b)
    .ok (match b with | some b => s.refBlock b true | none => s)

/-- BFORK (R334). -/
def execBfork (o : R3) (s : State) : Host.Outcome State Fault Refusal :=
  runStream s fun s => do
    let s ← s.allocator
    let h := s.reg o.b
    let (s, x) ← s.deref s.me s.device (s.reg o.a) false
    let (s, y) ← s.onward (s.deref s.me s.device h false)
    s.onward <| need (s.kvOk x) (trapHand 0x60 (s.reg o.a))
    s.onward <| need (s.kvOk y) (trapHand 0x60 h)
    s.onward <| need (forkOk x y) (kvOperand h)
    let full := x.kvLen / x.kvP
    let part := x.kvLen % x.kvP
    let (s, busy) ← s.onward (s.anyPending s.me x)
    let st :=
      if busy then 4
      else if y.extent 1 < x.kvLen then 3
      else if part = 0 then 0
      else s.allocStatus y.vf y.adie y.layers
    if st != 0 then .ok (s.allocDone o h st y.nblk y.kvLen)
    else
      let s ← s.onward (forNat x.layers s fun s l => do
        let s ← s.forkShare s.me x y l full
        if part = 0 then .ok s else s.onward (s.forkTail s.me x y l full part))
      let s ← s.onward (s.writeAux s.me y x.nblk x.kvLen)
      .ok (s.allocDone o h 0 x.nblk x.kvLen)

/-- Word k of a block (R335). -/
def State.statWord (s : State) (b k : Nat) (h : Header) : Dword :=
  match k with
  | 0 => h.seq
  | 1 => h.pend
  | 2 => h.lost
  | 3 => h.owner
  | 4 => h.wgen
  | 5 => d64 (h.lblk * 2 ^ 32 + h.layer)
  | _ =>
    let n := (s.blockInfo b).refs
    d64 ((if 2 ≤ n then 2 ^ 48 else 0) + n % 2 ^ 16 * 2 ^ 32 + b)

/-- BSTAT (R335). -/
def execBstat (o : R3) (s : State) : Host.Outcome State Fault Refusal :=
  runStream s fun s => do
    let s ← s.allocator
    let (s, e) ← s.derefKv s.me s.device (s.reg o.a)
    let v := (s.reg o.b).toNat
    let tile := bitsOf v 31 0
    let k := bitsOf v 34 32
    s.onward <| need (v / 2 ^ 35 == 0 && decide (tile < e.ntiles)) (kvOperand (s.reg o.b))
    if k = 7 then .ok ((s.setReg o.d (d64 e.aux)).done o.stop)
    else
      let (s, b) ← s.onward (s.readBlock s.me e tile)
      match b with
      | none => .ok ((s.setReg o.d 0).done o.stop)
      | some b =>
        let (s, h) ← s.onward (s.readHeader s.me e.vf b)
        .ok ((s.setReg o.d (s.statWord b k h)).done o.stop)

/-! ### Backfill (R346, R347) -/

/-- BKFILL at its push (R346, R348). -/
def execBkfill (o : C3) (s : State) : Host.Outcome State Fault Refusal :=
  runStream s fun s => s.push .backfill (.bkfill o) o.c0 o.c1 o.c2 o.tail o.stop

/-- How the acceptance of a request fails: the CAUSE of 0x89, the blocks located and their P, and the record's ring if it was
read. -/
structure BfFault where
  cause : Nat
  blocks : List Nat
  p : Nat
  ring : Option Nat
  sides : List Side
  deriving DecidableEq, Repr

/-- A stop as a failure of acceptance. -/
def bfStop (blocks : List Nat) (p : Nat) (ring : Option Nat) : Stop → BfFault
  | .trap t => ⟨t.code.toNat, blocks, p, ring, t.sides⟩
  | .wait _ sides => ⟨0x22, blocks, p, ring, sides⟩

/-- A stop of acceptance becomes a failure. -/
def bfTry {α : Type} (s : State) (blocks : List Nat) (p : Nat) (ring : Option Nat) (x : Except Stop α) : Except BfFault α :=
  (s.onward x).mapError (bfStop blocks p ring)

/-- A request that passed its checks: the blocks to mark and the queue entry. -/
structure BfTaken where
  blocks : List Nat
  entry : BfEntry
  deriving DecidableEq, Repr

/-- The number of the first free entry of a die's backfill queue, among those of all dies (R350; log entry 122, DEDUCED). -/
def State.freeEntry (s : State) (d : Nat) : Nat :=
  d * 1024 + ((List.range 1024).find? fun i => !(s.die d).bfq.any fun e => e.nidx % 1024 == i).getD 0

/-- Steps 3 to 5 of R347. -/
def State.bfTake (s : State) (core : Nat) (k : Cmd) : Except BfFault (State × BfTaken) := do
  let d := dieOf core
  let a : Agent := .backfill d
  let vf := (s.core core).vfid
  let pos := bitsOf k.c1.toNat 31 0
  let first := bitsOf k.c1.toNat 47 32
  let last := bitsOf k.c1.toNat 63 48
  let fail (s : State) (blocks : List Nat) (p : Nat) (ring : Option Nat) (cause : Nat) : Except BfFault Unit :=
    .error ⟨cause, blocks, p, ring, [.seen s]⟩
  if (s.core core).c.mode = .device ∨ hvfOf k.c0 = vf then .ok () else fail s [] 64 none 0x24
  let (s, e) ← bfTry s [] 64 none (s.derefKv a true k.c0 true)
  if first ≤ last ∧ last < e.layers ∧ pos < e.kvLen then .ok () else fail s [] 64 none 0x61
  let r ← (List.range (last + 1 - first)).foldlM (fun (r : State × List Nat) i => do
    let at_ : Coords := [(first + i : Nat), (pos : Nat), 0, 0]
    let (s, f) ← bfTry r.1 [] 64 none (r.1.tileFrame a e at_ (e.kvTile (first + i) (pos / e.kvP)) true)
    match f with
    | .block b => .ok (s, r.2 ++ [b])
    | .page _ => .ok (s, r.2)) (s, [])
  let (s, bs) := r
  if k.c2.toNat % 64 = 0 then .ok () else fail s bs e.kvP none 0x28
  let (s, rb) ← bfTry s bs e.kvP none (s.readVa a vf k.c2.toNat 64 .read true)
  let ring := bitsOf (field rb 0x18 1) 3 0
  if bitsOf (field rb 0x18 1) 7 4 = 0 ∧ zeroAt rb 0x19 39 then .ok () else fail s bs e.kvP (some ring) 1
  let entry : BfEntry :=
    { vf := vf, handle := k.c0, pos := pos, first := first, last := last, desc := field rb 0 8
      hidden := d64 (field rb 8 8), argx := d64 (field rb 0x10 8), ring := ring, node := none, tries := 0
      nidx := s.freeEntry d, failed := 0, blocks := bs, p := e.kvP }
  match s.bfDesc d entry with
  | (s, .error c) => .error ⟨c, bs, e.kvP, some ring, [.seen s]⟩
  | (s, .ok _) => .ok (s, ⟨bs, entry⟩)

/-- Sets a bit of the headers of some blocks: LOST, or PEND in the blocks that are not shared (R347). -/
def State.markBlocks (s : State) (d vf : Nat) (bit : Dword) (pend : Bool) (bs : List Nat) : State :=
  bs.foldl (fun s b =>
    let own := pend && decide ((s.blockInfo b).refs ≤ 1)
    s.pokeHeader d vf b fun h =>
      if own then { h with pend := h.pend ||| bit } else { h with lost := h.lost ||| bit }) s

/-- The ring of a failure: the record's, or that of the issuing node's graph. -/
def State.bfRing (s : State) (core : Nat) (r : Option Nat) : Nat :=
  r.getD ((((s.core core).node.bind fun id => s.graph? (graphKey id)).map fun g => g.ring).getD 0)

/-- Steps 3 to 7 of R347: the request is taken, or refused. -/
def State.bfAccept (s : State) (core : Nat) (k : Cmd) : State :=
  let d := dieOf core
  let vf := (s.core core).vfid
  let pos := bitsOf k.c1.toNat 31 0
  match s.bfTake core k with
  | .ok (s, t) =>
    let bit : Dword := d64 (2 ^ (pos % t.entry.p))
    let s := s.markBlocks d vf bit true t.blocks
    let s := s.updDie d fun k => { k with bfq := k.bfq ++ [t.entry] }
    s.bfCreate d t.entry 0 2
  | .error f =>
    let s := s.applySides f.sides
    let s := s.markBlocks d vf (d64 (2 ^ (pos % f.p))) false f.blocks
    s.postVf vf (s.bfRing core f.ring) (record ((s.core core).node.getD 0) 0x89 f.cause 0 pos (((s.core core).node.map s.stepWord).getD 0))

/-- The die's queue has room for a VF (R347). -/
def State.bfRoom (s : State) (d vf : Nat) : Bool :=
  decide ((s.die d).bfq.length < 1024 ∧ ((s.die d).bfq.filter fun e => e.vf == vf).length < 64)

/-- BKFILL_ACCEPT (R347). -/
def execBkfillAccept (core : Nat) (s : State) : Host.Outcome State Fault Refusal :=
  .next (s.headStep core .backfill fun k _ =>
    match k.op with
    | .bkfill _ => some fun s => do
      need (s.bfRoom (dieOf core) (s.core core).vfid) (waitOn .bfFull)
      let s ← s.release (.stream core) (dieOf core) 3
      .ok ((s.settleAll.bfAccept core k).oneStep core .backfill)
    | _ => none)

end Sys2Proof.Machine
end

