-- ==== Sys2Proof/Machine/Links.lean ====
section
/-! DEFINITION. Horay Link and CXL (R443 to R451): flits, retry, messages of peers, and links that go down. -/

namespace Sys2Proof.Machine
open Sys2Proof

/-! ### Flits (R446) -/

/-- The first 0xF8 bytes of a flit. -/
def flitBytes (f : Flit) : List Byte :=
  leBytes 2 (f.seq.toNat + f.kind.toNat * 2 ^ 12) ++ leBytes 2 (f.ack.toNat + if f.av then 2 ^ 15 else 0)
    ++ [f.pause, 0, 0, 0] ++ leBytes 240 f.slots.toNat

/-- One bit of the reflected CRC-64. -/
def crcBit (c : BitVec 64) : BitVec 64 := if c.getLsbD 0 then (c >>> 1) ^^^ 0xC96C5795D7870F42 else c >>> 1

/-- CRC-64 of ECMA-182, reflected, with initial value and final exclusive-or all ones. -/
def crc64 (b : List Byte) : Dword :=
  (b.foldl (fun c x => crcBit (crcBit (crcBit (crcBit (crcBit (crcBit (crcBit (crcBit (c ^^^ x.setWidth 64))))))))) (-1 : BitVec 64)) ^^^ (-1)

/-- The CRC is right. -/
def flitGood (f : Flit) : Bool := crc64 (flitBytes f) == f.crc

/-- A flit with its CRC. -/
def sealFlit (f : Flit) : Flit := { f with crc := crc64 (flitBytes f) }

/-- ACK, AV and PAUSE that a flit sent now carries: ACK is valid once a counted flit has been received good. -/
def Port.tells (p : Port) : BitVec 12 × Bool × Byte := (if p.heard then p.rxSeq else 0, p.heard, p.pausing)

/-- A flit of a port: KIND, SEQ and slots. -/
def Port.flit (p : Port) (kind : Nat) (seq : BitVec 12) (slots : BitVec 1920) : Flit :=
  sealFlit ⟨seq, BitVec.ofNat 4 kind, p.tells.1, p.tells.2.1, p.tells.2.2, slots, 0⟩

/-- A flit leaves. -/
def Port.send (p : Port) (f : Flit) : Port := { p with wire := p.wire ++ [f], told := p.tells }

/-- A counted flit leaves and is held until an ACK covers it. -/
def Port.sendCounted (p : Port) (kind : Nat) (slots : BitVec 1920) : Port :=
  let f := p.flit kind (p.txSeq + 1) slots
  { p.send f with txSeq := p.txSeq + 1, retry := p.retry ++ [f] }

/-- An uncounted flit leaves: a replay request (KIND 2). -/
def Port.sendReplayRequest (p : Port) : Port := { p.send (p.flit 2 p.txSeq 0) with awaiting := true }

/-- The flits of the retry buffer after the one that an ACK names; an ACK that names none covers none. -/
def coverAck (l : List Flit) (ack : BitVec 12) : List Flit :=
  if l.any fun f => f.seq == ack then (l.dropWhile fun f => f.seq != ack).drop 1 else l

/-- The ACK and PAUSE of a good flit. Channels 1 and 7 are never paused. -/
def Port.hear (p : Port) (ack : Option (BitVec 12)) (pause : Byte) : Port :=
  { p with retry := match ack with
            | some a => coverAck p.retry a
            | none => p.retry
           paused := pause &&& 0x7D }

/-! ### Messages (R447) -/

/-- Slots of a message, by its opcode, SIZE and CODE. -/
def msgSlots (op size code : Nat) : Nat :=
  match op with
  | 0x02 => if size = 6 then 5 else 2
  | 0x03 => if size = 6 then 6 else 2
  | 0x05 | 0x06 | 0x0B => 2
  | 0x07 | 0x09 => 6
  | 0x0A => 1 + max 1 (min 5 (ceilDiv code 16))
  | _ => 1

/-- The header slot of a message. -/
def msgHeader (op : Byte) (m : LinkMsg) : BitVec 128 :=
  let flags := (if m.poison then 1 else 0) + (if m.acquire then 2 else 0) + (if m.release then 4 else 0) + if m.flag3 then 8 else 0
  bytesNum 128 (leBytes 1 op.toNat ++ leBytes 1 (m.vc.toNat + m.size.toNat * 8) ++ leBytes 1 m.srcMod.toNat
    ++ leBytes 1 m.vf.toNat ++ leBytes 2 m.tag.toNat ++ leBytes 1 flags ++ leBytes 1 m.code.toNat ++ leBytes 8 m.addr.toNat)
where
  /-- The number of some bytes. -/
  bytesNum (w : Nat) (b : List Byte) : BitVec w := BitVec.ofNat w (leNat b)

/-- The slots of a flit that carries one message. -/
def msgFlit (op : Byte) (m : LinkMsg) : BitVec 1920 :=
  let n := msgSlots op.toNat m.size.toNat m.code.toNat
  BitVec.ofNat 1920 ((msgHeader op m).toNat + m.body.toNat % 2 ^ (128 * (n - 1)) * 2 ^ 128)

/-! ### Receive buffers (R444, R446) -/

/-- Bytes that a receive buffer holds. -/
def Port.level (p : Port) (vc : Nat) : Nat :=
  ((p.held.filter fun q => q.2.vc.toNat == vc).map fun q => 16 * msgSlots q.1.toNat q.2.size.toNat q.2.code.toNat).sum

/-- PAUSE as the buffers stand: a channel's bit is set above 48 KiB and cleared below 32 KiB; channels 1 and 7 have none. -/
def Port.gate (p : Port) : Port :=
  let bit (v : Nat) : Byte := BitVec.ofNat 8 (2 ^ v)
  { p with pausing := [0, 2, 3, 4, 5, 6].foldl (fun b v =>
      if 48 * 1024 < p.level v then b ||| bit v else if p.level v < 32 * 1024 then b &&& ~~~bit v else b) p.pausing }

/-- A message waits in its receive buffer. -/
def Port.hold (p : Port) (op : Byte) (m : LinkMsg) : Port := { p with held := p.held ++ [(op, m)] }.gate

/-- Firmware takes the messages that its ports hold for it. -/
def State.takeHeld (s : State) : State :=
  let l := s.ports.flatMap fun p => p.2.held
  if l = [] then s
  else
    { s with
      sec := { s.sec with inbox := l.reverse ++ s.sec.inbox }
      ports := s.ports.map fun p => (p.1, { p.2 with held := [] }.gate) }

/-- Messages may leave on a channel now (R446). -/
def Port.mayStart (p : Port) (m : LinkMsg) : Bool := !p.paused.getLsbD m.vc.toNat

/-- An idle flit leaves where the partner has not been told what a flit would tell it (R446; log entry 153, DESIGN CHOICE). -/
def Port.idle (p : Port) : Port := if p.told == p.tells then p else p.send (p.flit 0 p.txSeq 0)

/-- Sends the first message whose channel is not paused, if the retry buffer has room (R446). -/
def Port.pump (p : Port) : Port :=
  if p.down then p
  else if 1024 ≤ p.retry.length then p.idle
  else
    match p.out.find? fun q => p.mayStart q.2 with
    | none => p.idle
    | some q => ({ p with out := p.out.erase q }).sendCounted (if q.1 = 0x0B then 3 else 1) (msgFlit q.1 q.2)

/-- Queues a response: it travels on channel 1 with the request's TAG, SRCMOD and VF (R448); one with data slots marks their poison
(R447). -/
def State.respond (s : State) (port : Nat) (op : Byte) (m : LinkMsg) (code : Nat) (body : BitVec 640) : State :=
  let r : LinkMsg :=
    { m with vc := 1, poison := code != 0 && msgSlots op.toNat m.size.toNat 0 != 1, acquire := false, release := false, flag3 := false, code := BitVec.ofNat 8 code
             addr := 0, body := if code = 0 then body else 0 }
  s.updPort port fun p => { p with out := p.out ++ [(op, r)] }

/-! ### Ports that go down (R444, R450) -/

/-- Requests that a condition selects are answered with poison. A write of a core's agent then stands as refused, for no peer
acknowledged it as performed (R450; log entry 144, DEDUCED); no other agent's is kept. -/
def refuseAll (p : PeerReq → Bool) (l : List PeerReq) : List PeerReq :=
  (l.filter fun r => !(p r && r.write && r.agent.tlbCore.isNone)).map fun r => if p r then { r with resp := some ([], true) } else r

/-- Outstanding requests of a port that goes down are answered with poison (R444). -/
def losePort (port : Nat) (l : List PeerReq) : List PeerReq := refuseAll (fun r => r.port == port && r.resp.isNone) l

/-- A port goes down: event 0x94 with INDEX the port. -/
def State.portDown (s : State) (port : Nat) : State :=
  let s := s.updPort port fun p => { p with down := true, out := [], sent := [] }
  (State.postPf { s with peers := losePort port s.peers } 0 0x94 0 port 0).endStopped

/-- A flit is discarded (R446): the first one is answered with a replay request, and a replay whose first flit, a counted one, is
discarded again has failed; eight failures in a row take the port down. -/
def State.discard (s : State) (port : Nat) (counted : Bool) (seq : BitVec 12) : State :=
  let p := s.port port
  if p.down then s
  else if !p.awaiting then s.updPort port Port.sendReplayRequest
  else if !counted || seq != p.rxSeq + 1 then s
  else
    let s := s.updPort port fun p => { p.sendReplayRequest with fails := p.fails + 1 }
    if (s.port port).fails < 8 then s else s.portDown port

/-- A flit takes a SEQ of its own (R446). -/
def countedFlit (f : Flit) : Bool := f.kind == 1 || f.kind == 3

/-- BAD_FLIT (R446): a bad CRC, a reserved KIND or an unexpected SEQ. -/
def execBadFlit (port : Nat) (f : Flit) (s : State) : Host.Outcome State Fault Refusal :=
  let p := s.port port
  let expected := if (countedFlit f) then p.rxSeq + 1 else p.rxSeq
  .next (if flitGood f && decide (f.kind.toNat < 4) && f.seq == expected then s else s.discard port (countedFlit f) f.seq)

/-- The flit is an uncounted one of a kind, received good. -/
def Port.takes (p : Port) (kind : Nat) (f : Flit) : Bool := flitGood f && f.kind.toNat == kind && f.seq == p.rxSeq

/-- REPLAY_REQUEST (R446): every counted flit after the latest good one goes out again; one with an unexpected SEQ is
discarded. -/
def execReplayRequest (port : Nat) (f : Flit) (s : State) : Host.Outcome State Fault Refusal :=
  if (s.port port).down then .next s
  else if (s.port port).takes 2 f then
    .next (s.updPort port fun p =>
      let p := p.hear (if f.av then some f.ack else none) f.pause
      { p with wire := p.wire ++ p.retry })
  else .next (s.discard port (countedFlit f) f.seq)

/-- IDLE_FLIT (R446): its ACK and PAUSE are taken; a SEQ other than the latest good one shows a loss. -/
def execIdleFlit (port : Nat) (f : Flit) (s : State) : Host.Outcome State Fault Refusal :=
  if (s.port port).down then .next s
  else if (s.port port).takes 0 f then .next (s.updPort port fun p => p.hear (if f.av then some f.ack else none) f.pause)
  else .next (s.discard port (countedFlit f) f.seq)

/-- A message of a good counted flit: the flit's own part comes with its first message. -/
def State.receive (s : State) (port : Nat) (m : LinkMsg) (f : State → State) : State :=
  let p := s.port port
  if p.down then s
  else if m.first then
    if m.seq ≠ p.rxSeq + 1 then s.discard port true m.seq
    else f (s.updPort port fun p => { p.hear m.ack m.pause with rxSeq := m.seq, awaiting := false, fails := 0, heard := true })
  else if m.seq = p.rxSeq then f s
  else s

/-! ### Requests of peers (R448 to R450) -/

/-- The target VF and EXPBASE of a request; VF 0 is none (R449). -/
def State.exported (s : State) (m : LinkMsg) : Nat × Nat :=
  let e := SMap.get (0, 0) s.pf.exportTo (256 * m.srcMod.toNat + m.vf.toNat)
  (e.1, e.2.toNat)

/-- Bytes of an access, by SIZE. -/
def msgBytes (m : LinkMsg) : Nat := 2 ^ m.size.toNat

/-- The agent of a request. -/
def peerAgent (m : LinkMsg) : Agent := .peer m.srcMod.toNat

/-- Slot bytes of a message body. -/
def bodyBytes (m : LinkMsg) (o n : Nat) : List Byte := (List.range n).map fun i => m.body.extractLsb' (8 * (o + i)) 8

/-- What a failed access leaves: its sides, and STATUS 1. -/
def State.refuseTo (s : State) (port : Nat) (op : Byte) (m : LinkMsg) (e : Stop) : State :=
  (s.applySides e.sides).respond port op m 1 0

/-- READ of a peer (R449). -/
def State.peerRequestRead (s : State) (port : Nat) (m : LinkMsg) : State :=
  let (vf, base) := s.exported m
  if vf = 0 then s.respond port 0x02 m 2 0
  else
    match s.readVa (peerAgent m) vf (base + m.addr.toNat) (msgBytes m) .read true with
    | .ok (s, b) => s.respond port 0x02 m 0 (BitVec.ofNat 640 (leNat b))
    | .error e => s.refuseTo port 0x02 m e

/-- READ. -/
def execRead (port : Nat) (m : LinkMsg) (s : State) : Host.Outcome State Fault Refusal :=
  .next (s.receive port m fun s => s.peerRequestRead port m)

/-- The bytes of a WRITE, numbered from its address. -/
def writeBytes (m : LinkMsg) : List (Nat × Byte) :=
  if m.size = 6 then (numbered (bodyBytes m 16 64)).filter fun p => m.body.getLsbD p.1
  else numbered (bodyBytes m 0 (msgBytes m))

/-- A write of a peer through a leaf, performed at module scope; poisoned data poison their line. -/
def State.peerStore (s : State) (m : LinkMsg) (vf va : Nat) : Except Stop State := do
  checkSpace va (msgBytes m) .write
  let (s, l) ← s.translate (peerAgent m) vf va .write true
  let s ← s.commitCells (peerAgent m) vf l ((writeBytes m).map fun p => (l.pa + p.1, p.2))
  .ok (if m.poison then s.poisonLine (l.pa / 64) else s)

/-- WRITE of a peer (R448, R449). -/
def State.peerRequestWrite (s : State) (port : Nat) (m : LinkMsg) : State :=
  let (vf, base) := s.exported m
  if vf = 0 then s.respond port 0x04 m 2 0
  else
    match s.peerStore m vf (base + m.addr.toNat) with
    | .ok s => s.respond port 0x04 m 0 0
    | .error e => s.refuseTo port 0x04 m e

/-- WRITE. -/
def execWrite (port : Nat) (m : LinkMsg) (s : State) : Host.Outcome State Fault Refusal :=
  .next (s.receive port m fun s => s.peerRequestWrite port m)

/-- The operation of an AMO message. -/
def amoOfMsg (m : LinkMsg) (va : Nat) : AmoOp :=
  let z := if m.flag3 then 8 else 4
  { size := z, op := m.code.toNat, addr := va, v := leNat (bodyBytes m 0 z), e := leNat (bodyBytes m 8 z)
    acquire := m.acquire, release := m.release, scope := 4 }

/-- AMO of a peer (R283, R449). -/
def State.peerRequestAmo (s : State) (port : Nat) (m : LinkMsg) : State :=
  let (vf, base) := s.exported m
  let va := base + m.addr.toNat
  let o := amoOfMsg m va
  if vf = 0 then s.respond port 0x06 m 2 0
  else
    match (do
      checkSpace va o.size .amo
      need (va % o.size == 0) (trapAddr 0x28 va)
      let (s, l) ← s.translate (peerAgent m) vf va .amo true
      s.amoHome (peerAgent m) vf l o 0 : Except Stop (State × Nat × Fp.Flags)) with
    | .ok (s, old, _) => s.respond port 0x06 m 0 (BitVec.ofNat 640 old)
    | .error e => s.refuseTo port 0x06 m e

/-- AMO. -/
def execAmo (port : Nat) (m : LinkMsg) (s : State) : Host.Outcome State Fault Refusal :=
  .next (s.receive port m fun s => s.peerRequestAmo port m)

/-- The packet of a REDUCE message for a VF (R447, R451). -/
def packetOf (m : LinkMsg) (vf : Nat) : ReducePkt :=
  { vf := vf, landing := m.body.extractLsb' 0 16, rank := m.body.extractLsb' 16 16, epoch := m.body.extractLsb' 32 32
    line := m.body.extractLsb' 64 32, data := m.body.extractLsb' 128 512, poison := m.poison }

/-- REDUCE of a peer (R383, R448). -/
def State.peerReduce (s : State) (port : Nat) (m : LinkMsg) : State :=
  let vf := (s.exported m).1
  if vf = 0 then s.respond port 0x08 m 2 0 else (s.land (packetOf m vf)).respond port 0x08 m 0 0

/-- REDUCE. -/
def execReduce (port : Nat) (m : LinkMsg) (s : State) : Host.Outcome State Fault Refusal :=
  .next (s.receive port m fun s => s.peerReduce port m)

/-! ### Responses (R448) -/

/-- The request that a response names: still without an answer, on a port, with a tag. -/
def PeerReq.named (r : PeerReq) (port : Nat) (m : LinkMsg) : Bool := r.port == port && r.tag == m.tag && r.resp.isNone

/-- The answer of the request with a tag on a port. -/
def PeerReq.answered (r : PeerReq) (port : Nat) (m : LinkMsg) (data : List Byte) : PeerReq :=
  if r.named port m then { r with resp := some (data, m.poison || m.code != 0) } else r

/-- A response arrives on a port: the requests become as `f` says, and the tag is free again. -/
def State.respondTo (s : State) (port : Nat) (m : LinkMsg) (f : List PeerReq → List PeerReq) : State :=
  if ((s.port port).sent.lookup m.tag.toNat).isNone then s
  else
    ({ s with peers := f s.peers }.updPort port fun p => { p with sent := SMap.erase p.sent m.tag.toNat }).endStopped

/-- An acknowledgement reaches its requester: the write is performed at module scope at the peer. One with another STATUS than 0 says
that it was refused. -/
def State.acknowledge (s : State) (port : Nat) (m : LinkMsg) : State :=
  s.respondTo port m fun l =>
    if m.code = 0 then l.filter fun r => !r.named port m else refuseAll (fun r => r.named port m) l

/-- A response with data reaches its requester; that of an atomic whose result nobody takes is its acknowledgement. -/
def State.answer (s : State) (port : Nat) (m : LinkMsg) (data : List Byte) : State :=
  s.respondTo port m fun l =>
    if m.code = 0 then (l.filter fun r => !(r.named port m && r.write)).map fun r => r.answered port m data
    else refuseAll (fun r => r.named port m) l

/-- READ_RSP. -/
def execReadRsp (port : Nat) (m : LinkMsg) (s : State) : Host.Outcome State Fault Refusal :=
  .next (s.receive port m fun s => s.answer port m (bodyBytes m 0 (msgBytes m)))

/-- WRITE_ACK. -/
def execWriteAck (port : Nat) (m : LinkMsg) (s : State) : Host.Outcome State Fault Refusal :=
  .next (s.receive port m fun s => s.acknowledge port m)

/-- AMO_RSP. -/
def execAmoRsp (port : Nat) (m : LinkMsg) (s : State) : Host.Outcome State Fault Refusal :=
  .next (s.receive port m fun s => s.answer port m (bodyBytes m 0 8))

/-- REDUCE_ACK. -/
def execReduceAck (port : Nat) (m : LinkMsg) (s : State) : Host.Outcome State Fault Refusal :=
  .next (s.receive port m fun s => s.acknowledge port m)

/-! ### Migration, management, link control, reserved opcodes -/

/-- MIGRATE (R412, R414): a piece of a migration stream, which the importer takes. -/
def execMigrate (port : Nat) (m : LinkMsg) (s : State) : Host.Outcome State Fault Refusal :=
  .next (s.receive port m fun s => s.importMsg m)

/-- MGMT: a fragment of an SPDM message waits in the receive buffer of its channel until firmware takes it (R444). -/
def execMgmt (port : Nat) (m : LinkMsg) (s : State) : Host.Outcome State Fault Refusal :=
  .next (s.receive port m fun s => s.updPort port fun p => p.hold 0x0A m)

/-- LINKCTL: the partner's module, port and power state. -/
def execLinkctl (port : Nat) (m : LinkMsg) (s : State) : Host.Outcome State Fault Refusal :=
  .next (s.receive port m fun s => s.updPort port fun p => { p with partner := m.body.extractLsb' 0 128 })

/-- RESERVED_MESSAGE: the port goes down. -/
def execReservedMessage (port : Nat) (m : LinkMsg) (s : State) : Host.Outcome State Fault Refusal :=
  .next (s.receive port m fun s => s.portDown port)

/-! ### CXL (R443) -/

/-- CXL_LINK_DOWN: every access to the window returns poison from now on; event 0x94. -/
def execCxlLinkDown (port : Nat) (s : State) : Host.Outcome State Fault Refusal :=
  if SMap.get false s.mem.cxlDown port then .next s
  else .next ({ s with mem := { s.mem with cxlDown := SMap.set false s.mem.cxlDown port true } }.postPf 0 0x94 0 (64 + port) 0)

end Sys2Proof.Machine
end

