-- ==== Sys2Proof/Machine/Masks.lean ====
section
/-! DEFINITION. Mask registers, queue and lane moves, vsett (R111, R135, R136). -/

namespace Sys2Proof.Machine
open Sys2Proof

/-- Writes a mask register and retires (R135). -/
def State.putMask (s : State) (d : MaskReg) (v : Word) (stop : Bool) : State := (s.updHere fun c => c.setMask d v).done stop

/-- KAND (R135). -/
def execKand (o : K3) (s : State) : Host.Outcome State Fault Refusal :=
  .next (s.putMask o.d (s.here.mask o.a &&& s.here.mask o.b) o.stop)

/-- KOR (R135). -/
def execKor (o : K3) (s : State) : Host.Outcome State Fault Refusal :=
  .next (s.putMask o.d (s.here.mask o.a ||| s.here.mask o.b) o.stop)

/-- KXOR (R135). -/
def execKxor (o : K3) (s : State) : Host.Outcome State Fault Refusal :=
  .next (s.putMask o.d (s.here.mask o.a ^^^ s.here.mask o.b) o.stop)

/-- KNOT (R135). -/
def execKnot (o : K2) (s : State) : Host.Outcome State Fault Refusal :=
  .next (s.putMask o.d (~~~(s.here.mask o.a)) o.stop)

/-- KMOV (R135). -/
def execKmov (o : K2) (s : State) : Host.Outcome State Fault Refusal :=
  .next (s.putMask o.d (s.here.mask o.a) o.stop)

/-- KMOV_FROM_SCALAR (R135). -/
def execKmovFromScalar (o : KFrom) (s : State) : Host.Outcome State Fault Refusal :=
  .next (s.putMask o.d ((s.reg o.a).setWidth 32) o.stop)

/-- KMOV_TO_SCALAR (R135). -/
def execKmovToScalar (o : KTo) (s : State) : Host.Outcome State Fault Refusal :=
  .next ((s.setReg o.d ((s.here.mask o.a).zeroExtend 64)).done o.stop)

/-- KPOP (R135). -/
def execKpop (o : KTo) (s : State) : Host.Outcome State Fault Refusal :=
  .next ((s.setReg o.d (d64 ((List.range 32).filter fun l => (s.here.mask o.a).getLsbD l).length)).done o.stop)

/-- QDROP (R136). -/
def execQdrop (o : RA) (s : State) : Host.Outcome State Fault Refusal :=
  runStream s fun s => do
    s.queues (.qdrop o)
    .ok ((s.updHere fun c => (c.takeEntry o.a false).2).done o.stop)

/-- QCNT (R136). -/
def execQcnt (o : R2) (s : State) : Host.Outcome State Fault Refusal :=
  .next ((s.setReg o.d (d64 (s.here.queue o.a.toNat).length)).done o.stop)

/-- VEXT (R136). -/
def execVext (o : VExt) (s : State) : Host.Outcome State Fault Refusal :=
  runStream s fun s => do
    s.queues (.vext o)
    let (a, c) := s.here.takeEntry o.a o.pa
    .ok (((s.setCore s.cur c).setReg o.d (d64 (elemOf a 32 o.lane.toNat))).done o.stop)

/-- VINS (R136). -/
def execVins (o : V2n) (s : State) : Host.Outcome State Fault Refusal :=
  runStream s fun s => do
    s.queues (.vins o)
    let v := (s.reg o.b).toNat % 2 ^ 32
    let (a, c) := s.here.takeEntry o.a o.pa
    let r := buildElems 32 fun l => if laneOn (s.here.mask o.k) l then v else elemOf a 32 l
    .ok ((s.setCore s.cur (c.pushEntry o.d r)).done o.stop)

/-- VMOVS (R136). -/
def execVmovs (o : VMovs) (s : State) : Host.Outcome State Fault Refusal :=
  runStream s fun s => do
    s.queues (.vmovs o)
    let r := buildLanes (s.here.mask o.k) fun _ => (s.reg o.a).toNat % 2 ^ 32
    .ok ((s.updHere fun c => c.pushEntry o.d r).done o.stop)

/-- VSETT (R136, R111). -/
def execVsett (o : R2) (s : State) : Host.Outcome State Fault Refusal :=
  runStream s fun s => do
    let v := s.reg o.a &&& vtypeMask
    need (vtypeOk v) (trapOf 0x1A v)
    let old := s.here.vec.vtype
    .ok (((s.updHere fun c => { c with vec := { c.vec with vtype := v } }).setReg o.d old).done o.stop)

end Sys2Proof.Machine
end

