-- ==== Sys2Proof/Machine/Power.lean ====
section
/-! DEFINITION. Power and cooling (R452, R453). -/

namespace Sys2Proof.Machine
open Sys2Proof

/-- THROTTLE_CHANGE (R452): eight steps down; each change posts event 0x95. -/
def execThrottleChange (die level : Nat) (s : State) : Host.Outcome State Fault Refusal :=
  if 8 < level ∨ (s.die die).throttle = level then .next s
  else .next ((s.updDie die fun d => { d with throttle := level }).postPf 0 0x95 0 0 0)

/-- The nodes that hold a core of a die. -/
def State.nodesOn (s : State) (die : Nat) : List Dword :=
  (s.cores.filterMap fun p => if dieOf p.1 = die then p.2.node else none).eraseDups

/-- A node meets the core error of a tripped die: it is contained, and firmware in device mode takes a precise trap on each of its
cores there (R416, R423, R453). -/
def State.tripNode (s : State) (die : Nat) (id : Dword) : State :=
  let mine := s.cores.filterMap fun p =>
    if dieOf p.1 = die ∧ p.2.node = some id ∧ p.2.c.mode = .device then some p.1 else none
  if mine = [] then s.contain id 0x72 0 else mine.foldl (fun s c => s.preciseTrap c false ⟨0x72, 0, .zero, []⟩) s

/-- A die trips (R453): it takes no dispatch, and every node with a core on it is contained as a core error. -/
def State.tripDie (s : State) (die : Nat) : State :=
  let s := s.updDie die fun d => { d with trip := true, temp := max d.temp 115 }
  (s.nodesOn die).foldl (fun s id => s.tripNode die id) s

/-- DIE_TRIP (R453): the die is at 115 °C. -/
def execDieTrip (die : Nat) (s : State) : Host.Outcome State Fault Refusal := .next (s.tripDie die)

/-- COOLANT_LOSS (R453): every die trips. -/
def execCoolantLoss (s : State) : Host.Outcome State Fault Refusal := .next (allDies.foldl State.tripDie s)

/-- TRIP_CLEAR (R453): the die is below 95 °C, and firmware clears its trip. -/
def execTripClear (die : Nat) (s : State) : Host.Outcome State Fault Refusal :=
  .next (s.updDie die fun d => { d with trip := false, temp := min d.temp 94 })

end Sys2Proof.Machine
end

