-- ==== Sys2Proof/Machine/Probes.lean ====
section
/-! DEFINITION. probe and pinv (R212, R213), and the end of a fill (R204). -/

namespace Sys2Proof.Machine
open Sys2Proof

/-- A probe key record (R212). -/
structure ProbeKey where
  handle : Dword
  tile : Nat
  /-- REGION: this die's probe-managed L2 -/
  die : Bool
  deriving DecidableEq, Repr

/-- A trap 0x2A of a record at an offset (R205). -/
def probeOperand (off : Nat) : Except Stop Unit := trapAddr 0x2A off

/-- Reads and checks the key record at a scratchpad offset (R205, R212). -/
def Core.probeRecord (c : Core) (off : Nat) : Except Stop ProbeKey := do
  need (off % 32 == 0 && decide (off + 32 ≤ c.spBytes)) (probeOperand off)
  let b := c.spRead off 32
  let ctl := field b 0x10 1
  need (field b 0x0C 4 == 0 && decide (ctl ≤ 1) && zeroAt b 0x11 15) (probeOperand off)
  need (ctl == 1 || c.prsz != 0) (probeOperand off)
  .ok ⟨d64 (field b 0 8), field b 8 4, ctl == 1⟩

/-- The table that a record names. -/
def State.probeTable (s : State) (k : ProbeKey) : PTable := if k.die then .die (dieOf s.cur) else .region s.cur

/-- The tile size that a record's region takes (R205). -/
def State.probeTile (s : State) (k : ProbeKey) : Nat := if k.die then 2 ^ 19 else s.here.slotBytes

/-- The check of the handle, and whether its generation is that of its entry (R212). `stale`: the generation is not looked at, and every
other check is made (R213). -/
def State.probeHandle (s : State) (k : ProbeKey) (off : Nat) (stale : Bool := false) : Except Stop (State × Bool) := do
  let (s', e) ← s.readEntry s.me s.device k.handle
  s'.onward do
    need e.valid (trapHand 0x26 e.handle)
    if e.gen != genOf k.handle && !stale then .ok (s', false)
    else
      need e.wf (trapHand 0x2B e.handle)
      need (e.tileBytes == s.probeTile k) (probeOperand off)
      .ok (s', true)

/-- The key of a record: the running VF, the handle and the tile (R203, R212). -/
def State.probeKeyOf (s : State) (k : ProbeKey) : PKey := { PKey.of k.handle k.tile with vf := s.here.vfid }

/-- The result word of a probe (R212). -/
def probeWord (status : Nat) (region : Bool) (cause value : Nat) : Dword :=
  d64 (status * 2 ^ 60 + (if region then 2 ^ 59 else 0) + cause * 2 ^ 48 + value)

/-- Before a probe or a pinv looks at a die table, the pins of its entries follow the references (R359). -/
def State.learnFor (s : State) (k : ProbeKey) : State := if k.die then s.learnAll s.here.vfid else s

/-- What a probe reports of a slot in region 0: its scratchpad offset; in region 1, its number (R212). -/
def State.slotValue (s : State) (k : ProbeKey) (i : Nat) : Nat :=
  if k.die then i else s.here.spBytes - s.here.prBytes + i * s.here.slotBytes

/-- A probe of a key that has an entry, or has none: the state, the status, CAUSE and VALUE (R212). -/
def State.probeEntry (s : State) (k : ProbeKey) : State × Nat × Nat × Nat :=
  let s := s.learnFor k
  let t := s.probeTable k
  match s.pfind t (s.probeKeyOf k) with
  | some i =>
    let e := s.pentry t i
    match e.state with
    | 1 => (s, 2, 0, e.ticket)
    | 2 => (s.setPentry t i { e with recency := s.tb }, 0, 0, s.slotValue k i)
    | _ => (s.setPentry t i .init, 4, e.cause.toNat, 0)
  | none =>
    match s.pchoose t s.here.vfid with
    | none => (s, 3, 0, 0)
    | some i =>
      let r := s.queueFill t i s.here.vfid k.handle k.tile
      (r.1, 1, 0, r.2)

/-- PROBE (R212). -/
def execProbe (o : RProbe) (s : State) : Host.Outcome State Fault Refusal :=
  runStream s fun s => do
    let miss := s.wordTarget (o.off.signExtend 64)
    s.target miss
    let off := (s.reg o.a).toNat
    let k ← s.here.probeRecord off
    match ← s.probeHandle k off with
    | (s, false) => .ok ((s.setReg o.d (probeWord 5 k.die 0 0)).jumpTo miss)
    | (s, true) =>
      let (s, st, cause, value) := s.probeEntry k
      let s := s.setReg o.d (probeWord st k.die cause value)
      .ok (if st = 0 then s.done o.stop else s.jumpTo miss)

/-- The stream waits on a fill, at whose end the entry was invalidated for it (R213). -/
def State.awaitedFill (s : State) : Bool :=
  match s.self.wait with
  | some (.fill _ _, _) => true
  | _ => false

/-- PINV (R213). Where it waited for a fill, the end of the fill took the entry away: see `State.endFill`. -/
def execPinv (o : R2) (s : State) : Host.Outcome State Fault Refusal :=
  runStream s fun s => do
    let off := (s.reg o.a).toNat
    let k ← s.here.probeRecord off
    let (s, _) ← s.probeHandle k off true
    let s := s.learnFor k
    let t := s.probeTable k
    match s.pfind t (s.probeKeyOf k) with
    | none => .ok ((s.setReg o.d (if s.awaitedFill then 1 else 0)).done o.stop)
    | some i =>
      let e := s.pentry t i
      if e.state = 1 then s.onward (waitOn (.fill (!k.die) i))
      else if e.pins ≠ 0 then .ok ((s.setReg o.d 2).done o.stop)
      else .ok (((s.setPentry t i .init).setReg o.d 1).done o.stop)

/-! ### Fills (R204) -/

/-- A fill of a factor page counts against its VF's adapter fill quota (R361). -/
def State.fillCounted (s : State) (e : PEntry) : Bool := (s.factorRefs e.vf e.index e.gen).isSome

/-- PROBE_FILL_COMPLETE (R204): the fill of a ticket ends; a factor page's waits for its quota. -/
def execProbeFillComplete (die ticket : Nat) (s : State) : Host.Outcome State Fault Refusal :=
  match (s.die die).tickets.lookup ticket with
  | some (.probe core slot) =>
    let t : PTable := match core with
      | some c => .region c
      | none => .die die
    let e := s.pentry t slot
    if e.state ≠ 1 ∨ e.ticket ≠ ticket then .next (s.endTicket die ticket)
    else if core.isNone && s.fillCounted e then
      if s.fillRoom e.vf then
        let u := s.endFill t slot
        .next (if (u.pentry t slot).state = 1 then u else u.countFill e.vf)
      else .next s
    else .next (s.endFill t slot)
  | _ => .next s

end Sys2Proof.Machine
end

