-- ==== Sys2Proof/Machine/Semaphores.lean ====
section
/-! DEFINITION. The semaphore instructions (R93 to R96) and the phaser instructions (R275 to R282). -/

namespace Sys2Proof.Machine
open Sys2Proof

/-! ### Semaphores -/

/-- SEMSET (R96). -/
def execSemset (o : SSet) (s : State) : Host.Outcome State Fault Refusal :=
  runStream s fun s => do
    let c := s.reg o.a
    let m := s.reg o.b
    need (m != 0 && decide (m.toNat ≤ 0xFFFF ∧ c.toNat ≤ m.toNat)) (trapOf 0x51 (o.n.zeroExtend 64))
    .ok ((s.updHere fun k => ((k.ungrant o.n.toNat).setSem o.n.toNat ⟨c.setWidth 16, m.setWidth 16⟩).semServe o.n.toNat).done
      o.stop)

/-- SEMSIG (R96): a release at core scope (R270, R273). -/
def execSemsig (o : SN) (s : State) : Host.Outcome State Fault Refusal :=
  runStream s fun s => do
    match (s.here.ungrant o.n.toNat).semSignal o.n.toNat with
    | none => trapOf 0x50 (o.n.zeroExtend 64)
    | some c =>
      let s ← s.release s.me (dieOf s.cur) 0
      .ok ((s.updHere fun k => { k with sems := c.sems, waiters := c.waiters, granted := c.granted }).done o.stop)

/-- SEMWAIT (R96). -/
def execSemwait (o : SN) (s : State) : Host.Outcome State Fault Refusal :=
  runStream s fun s =>
    match s.here.semTake o.n.toNat .stream with
    | none => waitOn (.sem o.n.toNat)
    | some c => .ok ((s.setCore s.cur c).done o.stop)

/-- The engine queues that wait on a semaphore (R96: semrd). -/
def Core.engineWaits (c : Core) (n : Nat) : Nat :=
  ([EngQ.load, .store, .matrix, .backfill].map fun q =>
    if c.waiters.contains (n, Waiter.engine q) then 2 ^ qCode q else 0).foldl (· + ·) 0

/-- SEMRD (R96). -/
def execSemrd (o : SRd) (s : State) : Host.Outcome State Fault Refusal :=
  let c := s.here
  let m := c.semNow o.n.toNat
  .next ((s.setReg o.d (d64 (c.engineWaits o.n.toNat * 2 ^ 32 + m.ceiling.toNat * 2 ^ 16 + m.count.toNat))).done o.stop)

/-! ### Phasers -/

/-- A phaser id's checks (R281). -/
def State.phaserId (s : State) (id : Dword) : Except Stop Unit :=
  let n := id.toNat
  let vf := bitsOf n 63 56
  let base := s.cfg vf 0x11
  need (bitsOf n 55 21 == 0 && bitsOf n 15 12 == 0 && (s.device || vf == s.here.vfid)
      && decide (base ≤ phaserIndex id ∧ phaserIndex id < base + s.cfg vf 0x12)) (trapOf 0x52 id)

/-- The record that the node of the core holds for a phaser. -/
def State.memberOf? (s : State) (id : Dword) : Option Member :=
  (s.here.node.bind s.node?).bind fun n => n.members.find? fun m => m.id == id

/-- The record, of a mode that a condition admits (R281: 0x53). -/
def State.needMember (s : State) (id : Dword) (p : Member → Bool) : Except Stop Member :=
  match s.memberOf? id with
  | some m => if p m then .ok m else trapOf 0x53 id
  | none => trapOf 0x53 id

/-- Changes the records of the node of the core. -/
def State.updMembers (s : State) (f : List Member → List Member) : State :=
  match s.here.node with
  | some id => s.updNode id fun n => { n with members := f n.members }
  | none => s

/-- Replaces the record for a phaser. -/
def State.setMember (s : State) (m : Member) : State :=
  s.updMembers fun l => l.map fun x => if x.id = m.id then m else x

/-- The records that the node of the core holds. -/
def State.memberCount (s : State) : Nat := ((s.here.node.bind s.node?).map fun n => n.members.length).getD 32

/-- PHREG (R281). A stream that runs for no node has no room for a record (log entry 20, DESIGN CHOICE). -/
def execPhreg (o : RAB) (s : State) : Host.Outcome State Fault Refusal :=
  runStream s fun s => do
    let id := s.reg o.a
    let cfg := (s.reg o.b).toNat
    let mode := cfg % 4
    let scope := bitsOf cfg 6 4
    s.phaserId id
    need (bitsOf cfg 3 2 == 0 && cfg / 2 ^ 7 == 0 && mode != 0 && decide (2 ≤ scope ∧ scope ≤ 4)
        && (s.memberOf? id).isNone) (trapOf 0x53 id)
    let p := s.phaser id
    need (decide (s.memberCount < 32) && p.nmem != 65535) (trapOf 0x54 id)
    need ((p.nmem == 0 || p.scope == scope) && (scope != 2 || dieOf s.cur == phaserDie id)) (trapOf 0x53 id)
    let s := s.updMembers fun l => l ++ [p.member id scope mode]
    .ok ((s.setPhaser id (p.register scope mode)).done o.stop)

/-- The signalling part of phsig and phadv (R281): an arrival, released at the phaser's scope. -/
def State.arrive (s : State) (id : Dword) (m : Member) : Except Stop State := do
  let p := s.phaser id
  need (m.sp == p.phase) (waitOn (.phaser (phaserDie id) (phaserIndex id)))
  let s ← s.release s.me (dieOf s.cur) p.scope
  let s := (s.setPhaser id { p with arr := p.arr + 1 }.advance).setMember { m with sp := m.sp + 1 }
  .ok (s.updHere fun c => { c with advanced := s.tb })

/-- The phase that a member waits for has completed (R281). -/
def Phaser.passed (p : Phaser) (m : Member) : Bool := decide (1 ≤ (p.phase - m.wp).toNat ∧ (p.phase - m.wp).toNat < 2 ^ 31)

/-- The waiting part of phwait and phadv (R281). -/
def State.awaitPhase (s : State) (id : Dword) (m : Member) : Except Stop State := do
  need ((s.phaser id).passed m) (waitOn (.phaser (phaserDie id) (phaserIndex id)))
  .ok (s.setMember { m with wp := m.wp + 1 })

/-- PHSIG (R281). -/
def execPhsig (o : RA) (s : State) : Host.Outcome State Fault Refusal :=
  runStream s fun s => do
    let id := s.reg o.a
    s.phaserId id
    let m ← s.needMember id Member.signals
    let s ← s.arrive id m
    .ok (s.done o.stop)

/-- PHWAIT (R281). -/
def execPhwait (o : RA) (s : State) : Host.Outcome State Fault Refusal :=
  runStream s fun s => do
    let id := s.reg o.a
    s.phaserId id
    let m ← s.needMember id Member.waits
    let s ← s.awaitPhase id m
    .ok (s.done o.stop)

/-- PHADV (R281): its arrival stands while its waiting part waits. -/
def execPhadv (o : RA) (s : State) : Host.Outcome State Fault Refusal :=
  runStream s fun s => do
    let id := s.reg o.a
    s.phaserId id
    let m ← s.needMember id fun m => m.mode == 3
    let s ← if m.sp = m.wp then s.arrive id m else .ok s
    let m ← s.needMember id fun m => m.mode == 3
    match s.awaitPhase id m with
    | .ok t => .ok (t.done o.stop)
    | .error (.wait on sides) => .ok (s.waitHere on sides)
    | .error (.trap t) => .error (.trap t)

/-- PHDROP (R281): the release goes with the arrival that it makes. -/
def execPhdrop (o : RA) (s : State) : Host.Outcome State Fault Refusal :=
  runStream s fun s => do
    let id := s.reg o.a
    s.phaserId id
    let m ← s.needMember id fun _ => true
    let p := s.phaser id
    let s ← if m.signals && m.sp == p.phase then s.release s.me (dieOf s.cur) p.scope else .ok s
    .ok (((s.updMembers fun l => l.filter fun x => x.id != id).setPhaser id (p.drop m)).done o.stop)

/-- PHQRY (R282). -/
def execPhqry (o : R2) (s : State) : Host.Outcome State Fault Refusal :=
  runStream s fun s => do
    let id := s.reg o.a
    s.phaserId id
    let p := s.phaser id
    .ok ((s.setReg o.d (d64 (p.phase.toNat * 2 ^ 32 + p.ns % 2 ^ 16 * 2 ^ 16 + p.arr % 2 ^ 16))).done o.stop)

/-- PHQRY_M (R282). -/
def execPhqryM (o : R2) (s : State) : Host.Outcome State Fault Refusal :=
  runStream s fun s => do
    let id := s.reg o.a
    s.phaserId id
    let v := match s.memberOf? id with
      | none => 0
      | some m => m.wp.toNat * 2 ^ 32 + m.mode * 2 ^ 30 + if m.sp = (s.phaser id).phase + 1 then 1 else 0
    .ok ((s.setReg o.d (d64 v)).done o.stop)

end Sys2Proof.Machine
end

