-- ==== Sys2Proof/Machine/TimedIssue.lean ====
section
/-! DEFINITION. The steps of a head command by its operation (R88), and timed issue (R172). -/

namespace Sys2Proof.Machine
open Sys2Proof

/-- A step of the head command. -/
def State.engineWork (s : State) (core : Nat) (q : EngQ) (i : Instr) : Host.Outcome State Fault Refusal :=
  match i with
  | .xldDec _ => execDecryptStep core s
  | .xld _ | .xldVfy _ | .xst _ | .xcp _ | .xcpScl _ | .xcpVfy _ | .xdrain _ => execCopyChunk core q s
  | .tload _ => execTloadUnit core s
  | .tinval _ | .tinvalSh _ => execTinvalEffect core s
  | .mlw _ => execMlwRow core s
  | .mswap _ => execMswapExchange core s
  | .mmul o =>
    let e := (s.core core).matrix
    if o.last && e.latch.recs != [] && e.step == (if o.tr then recCols (e.latched 0) else recRows (e.latched 0)) then
      execSideCorrection core s
    else execMmulRow core s
  | .mmulSmax _ => execMmulSmaxRow core s
  | .mst _ => execMstRow core s
  | .mzero _ => execMzeroEffect core s
  | .mamap _ => execMamapEffect core s
  | .mlora _ => execMloraRow core s
  | .mloraClr _ => execMloraClrEffect core s
  | .mfuse _ => execMfuseStanding core s
  | .mfuseOff _ => execMfuseOffEffect core s
  | .attn _ =>
    let e := (s.core core).matrix
    if e.latch.recs != [] && e.step == atChunks (e.latched 1) then execAttnOutputStep core s else execAttnChunk core s
  | .bkfill _ => execBkfillAccept core s
  | _ => .next s

/-- A queue's head has not begun after all: the queue and the core's semaphores are as in `c`, with what the head waits on. -/
def Core.unbegun (c d : Core) (q : EngQ) : Core :=
  { d.setEng q { c.eng q with wait := (d.eng q).wait } with
    sems := c.sems, waiters := c.waiters, granted := c.granted, advanced := c.advanced }

/-- A timed head begins in this cycle where its first step can start (R172): the step is tried, and where it would be delayed nothing
has begun but what the step asks of memory. A pending translation, an awaited memory response and the want of room among the core's
transfer requests delay it (log entry 133, DEDUCED). -/
def State.beginTimed (s : State) (core : Nat) (q : EngQ) (k : Cmd) : State :=
  let t := s.beginHead core q k
  if !((t.core core).eng q).begun then t
  else
    let u := stateOf t (t.engineWork core q k.op)
    if (((u.core core).eng q).wait.map WaitOn.ofMemory).getD false then u.updCore core fun d => (s.core core).unbegun d q else t

/-- TIMED_ISSUE (R172): a timed command issues in the first cycle of its window that admits it. -/
def execTimedIssue (core : Nat) (q : EngQ) (s : State) : Host.Outcome State Fault Refusal :=
  let e := (s.core core).eng q
  let g := (s.gsc core).toNat
  .next (match e.standing, e.window with
    | some k, some (lo, hi) => if lo ≤ g ∧ g ≤ hi ∧ !s.frozen core then s.beginTimed core q k else s
    | _, _ => s)

end Sys2Proof.Machine
end

