-- ==== Sys2Proof/Machine/VectorInt.lean ====
section
/-! DEFINITION. Integer lane arithmetic, integer compares and select (R119, R123, R124). -/

namespace Sys2Proof.Machine
open Sys2Proof

/-- Integer lane arithmetic of two sources, element by element (R119). -/
def State.intLanes (s : State) (i : Instr) (o : V3) (f : (w : Nat) → BitVec w → BitVec w → BitVec w) : Except Stop State :=
  s.vec2 i o intType fun c a b =>
    let w := Fp.codeBits c.et
    buildMasked w (c.mask o.k) fun j =>
      ⟨(f w (BitVec.ofNat w (elemOf a w j)) (BitVec.ofNat w (elemOf b w j))).toNat, .zero⟩

/-- A bitwise operation on whole lanes, whatever the element type (R119). -/
def State.bitLanes (s : State) (i : Instr) (o : V3) (f : Word → Word → Word) : Except Stop State :=
  s.vec2 i o anyType fun c a b =>
    (buildLanes (c.mask o.k) fun l => (f (BitVec.ofNat 32 (elemOf a 32 l)) (BitVec.ofNat 32 (elemOf b 32 l))).toNat, .zero)

/-- The shift amount of an element of width w: its low 5 or 3 bits (R119). -/
def laneShift (w : Nat) (y : BitVec w) : Nat := y.toNat % w

/-- VADD (R119). -/
def execVadd (o : V3) (s : State) : Host.Outcome State Fault Refusal :=
  runStream s fun s => s.intLanes (.vadd o) o fun _ x y => x + y

/-- VSUB (R119). -/
def execVsub (o : V3) (s : State) : Host.Outcome State Fault Refusal :=
  runStream s fun s => s.intLanes (.vsub o) o fun _ x y => x - y

/-- VMUL (R119). -/
def execVmul (o : V3) (s : State) : Host.Outcome State Fault Refusal :=
  runStream s fun s => s.intLanes (.vmul o) o fun _ x y => x * y

/-- VMULH (R119). -/
def execVmulh (o : V3) (s : State) : Host.Outcome State Fault Refusal :=
  runStream s fun s => s.intLanes (.vmulh o) o fun w x y => BitVec.ofInt w (x.toInt * y.toInt / 2 ^ w)

/-- VSHL (R119). -/
def execVshl (o : V3) (s : State) : Host.Outcome State Fault Refusal :=
  runStream s fun s => s.intLanes (.vshl o) o fun w x y => x <<< laneShift w y

/-- VSHR (R119). -/
def execVshr (o : V3) (s : State) : Host.Outcome State Fault Refusal :=
  runStream s fun s => s.intLanes (.vshr o) o fun w x y => x >>> laneShift w y

/-- VSRA (R119). -/
def execVsra (o : V3) (s : State) : Host.Outcome State Fault Refusal :=
  runStream s fun s => s.intLanes (.vsra o) o fun w x y => x.sshiftRight (laneShift w y)

/-- VMIN (R119). -/
def execVmin (o : V3) (s : State) : Host.Outcome State Fault Refusal :=
  runStream s fun s => s.intLanes (.vmin o) o fun _ x y => if x.slt y then x else y

/-- VMAX (R119). -/
def execVmax (o : V3) (s : State) : Host.Outcome State Fault Refusal :=
  runStream s fun s => s.intLanes (.vmax o) o fun _ x y => if x.slt y then y else x

/-- VMINU (R119). -/
def execVminu (o : V3) (s : State) : Host.Outcome State Fault Refusal :=
  runStream s fun s => s.intLanes (.vminu o) o fun _ x y => if x.ult y then x else y

/-- VMAXU (R119). -/
def execVmaxu (o : V3) (s : State) : Host.Outcome State Fault Refusal :=
  runStream s fun s => s.intLanes (.vmaxu o) o fun _ x y => if x.ult y then y else x

/-- VAND (R119). -/
def execVand (o : V3) (s : State) : Host.Outcome State Fault Refusal :=
  runStream s fun s => s.bitLanes (.vand o) o fun x y => x &&& y

/-- VOR (R119). -/
def execVor (o : V3) (s : State) : Host.Outcome State Fault Refusal :=
  runStream s fun s => s.bitLanes (.vor o) o fun x y => x ||| y

/-- VXOR (R119). -/
def execVxor (o : V3) (s : State) : Host.Outcome State Fault Refusal :=
  runStream s fun s => s.bitLanes (.vxor o) o fun x y => x ^^^ y

/-- An integer compare of INT32 lanes (R123). -/
def State.intCmp (s : State) (i : Instr) (o : VCmp) (f : Word → Word → Bool) : Except Stop State :=
  s.vecCmp i o (fun t => t == 6) fun x y => (f (BitVec.ofNat 32 x) (BitVec.ofNat 32 y), false)

/-- VICMP_EQ (R123). -/
def execVicmpEq (o : VCmp) (s : State) : Host.Outcome State Fault Refusal :=
  runStream s fun s => s.intCmp (.vicmpEq o) o fun x y => x == y

/-- VICMP_LT (R123). -/
def execVicmpLt (o : VCmp) (s : State) : Host.Outcome State Fault Refusal :=
  runStream s fun s => s.intCmp (.vicmpLt o) o fun x y => x.slt y

/-- VICMP_LE (R123). -/
def execVicmpLe (o : VCmp) (s : State) : Host.Outcome State Fault Refusal :=
  runStream s fun s => s.intCmp (.vicmpLe o) o fun x y => x.sle y

/-- VICMP_LTU (R123). -/
def execVicmpLtu (o : VCmp) (s : State) : Host.Outcome State Fault Refusal :=
  runStream s fun s => s.intCmp (.vicmpLtu o) o fun x y => x.ult y

/-- VICMP_LEU (R123). -/
def execVicmpLeu (o : VCmp) (s : State) : Host.Outcome State Fault Refusal :=
  runStream s fun s => s.intCmp (.vicmpLeu o) o fun x y => x.ule y

/-- VSEL (R124): it writes every lane. -/
def execVsel (o : V3) (s : State) : Host.Outcome State Fault Refusal :=
  runStream s fun s => s.vec2 (.vsel o) o anyType fun c a b =>
    (buildElems 32 fun l => if laneOn (c.mask o.k) l then elemOf a 32 l else elemOf b 32 l, .zero)

end Sys2Proof.Machine
end

