-- ==== Sys2Proof/Machine/VectorPerm.lean ====
section
/-! DEFINITION. Permutations and random numbers (R133, R134). -/

namespace Sys2Proof.Machine
open Sys2Proof

/-- VSHUF (R133). -/
def execVshuf (o : V3) (s : State) : Host.Outcome State Fault Refusal :=
  runStream s fun s => s.vec2 (.vshuf o) o anyType fun c a b =>
    (buildLanes (c.mask o.k) fun l => if elemOf b 32 l < 32 then elemOf a 32 (elemOf b 32 l) else 0, .zero)

/-- A permutation of one source by a number in vb (R133). -/
def State.moveLanes (s : State) (i : Instr) (o : V2n) (f : (n l : Nat) → Option Nat) : Except Stop State :=
  s.vec1 i o.d o.a o.pa o.stop anyType fun c a =>
    (buildLanes (c.mask o.k) fun l => match f o.b.toNat l with | some j => elemOf a 32 j | none => 0, .zero)

/-- VBCAST (R133). -/
def execVbcast (o : V2n) (s : State) : Host.Outcome State Fault Refusal :=
  runStream s fun s => s.moveLanes (.vbcast o) o fun n _ => some n

/-- VSLIDE_UP (R133). -/
def execVslideUp (o : V2n) (s : State) : Host.Outcome State Fault Refusal :=
  runStream s fun s => s.moveLanes (.vslideUp o) o fun n l => if n ≤ l then some (l - n) else none

/-- VSLIDE_DN (R133). -/
def execVslideDn (o : V2n) (s : State) : Host.Outcome State Fault Refusal :=
  runStream s fun s => s.moveLanes (.vslideDn o) o fun n l => if l + n < 32 then some (l + n) else none

/-- VCOMPRESS (R133): every lane is written. -/
def execVcompress (o : V2) (s : State) : Host.Outcome State Fault Refusal :=
  runStream s fun s => s.vec1 (.vcompress o) o.d o.a o.pa o.stop anyType fun c a =>
    (ofElems 32 (((List.range 32).filter fun l => laneOn (c.mask o.k) l).map fun l => elemOf a 32 l), .zero)

/-- The word of a lane (R134). -/
def randWord (key counter : Dword) (l : Nat) : Word :=
  let z := key + ((counter <<< 5) ||| d64 l) * 0x9E3779B97F4A7C15
  let z := (z ^^^ (z >>> 30)) * 0xBF58476D1CE4E5B9
  let z := (z ^^^ (z >>> 27)) * 0x94D049BB133111EB
  (z ^^^ (z >>> 31)).extractLsb' 32 32

/-- The FP32 encoding of (w >> 8) × 2^-24 (R134). -/
def uniform (w : Word) : Nat := (Fp.rne32 (.fin false (w.toNat / 2 ^ 8) (-24))).bits

/-- A random vector (R134). -/
def State.randLanes (s : State) (i : Instr) (o : VRnd) (f : Word → Nat) : Except Stop State := do
  s.queues i
  let k := s.here.mask o.k
  let v := buildLanes k fun l => f (randWord (s.reg o.a) (s.reg o.b) l)
  .ok ((s.updHere fun c => c.pushEntry o.d v).done o.stop)

/-- VRAND (R134). -/
def execVrand (o : VRnd) (s : State) : Host.Outcome State Fault Refusal :=
  runStream s fun s => s.randLanes (.vrand o) o BitVec.toNat

/-- VRAND_U (R134). -/
def execVrandU (o : VRnd) (s : State) : Host.Outcome State Fault Refusal :=
  runStream s fun s => s.randLanes (.vrandU o) o uniform

end Sys2Proof.Machine
end

