-- ==== Sys2Proof/Machine/VectorRed.lean ====
section
/-! DEFINITION. Reductions and scans (R130 to R132). -/

namespace Sys2Proof.Machine
open Sys2Proof

/-- The elements of a source as FP32 encodings or INT32 words, with the identity where a lane is not included (R130). -/
def redElems (et : Nat) (k : Word) (id : Nat) (a : Vec) : List Nat :=
  let w := Fp.codeBits et
  (List.range (1024 / w)).map fun i =>
    if elemOn k w i then (if et = 1 then elemOf a w i * 2 ^ 16 else elemOf a w i) else id

/-- FP32, BF16 or INT32. -/
def redType (t : Nat) : Bool := t == 0 || t == 1 || t == 6

/-- The sum of wrapping INT32 words. -/
def intSum (l : List Nat) : Nat := l.foldl (fun x y => (x + y) % 2 ^ 32) 0

/-- The signed maximum or minimum of INT32 words. -/
def intMinMax (wantMax : Bool) (l : List Nat) : Nat :=
  match l with
  | [] => 0
  | x :: t => t.foldl (fun x y => if (BitVec.ofNat 32 x).slt (BitVec.ofNat 32 y) = wantMax then y else x) x

/-- The identity of a maximum or minimum (R130). -/
def redIdent (et : Nat) (wantMax : Bool) : Nat :=
  if et = 6 then (if wantMax then 0x80000000 else 0x7FFFFFFF) else if wantMax then 0xFF800000 else 0x7F800000

/-- The maximum or minimum of a source (R130). -/
def redMinMax (et : Nat) (wantMax : Bool) (k : Word) (a : Vec) : Fp.Res :=
  let l := redElems et k (redIdent et wantMax) a
  if et = 6 then ⟨intMinMax wantMax l, .zero⟩ else Fp.treeMinMax wantMax l

/-- Every lane takes the root. -/
def splat (r : Fp.Res) : Vec × Fp.Flags := (buildElems 32 fun _ => r.bits, r.fl)

/-- VRSUM (R130). -/
def execVrsum (o : V2) (s : State) : Host.Outcome State Fault Refusal :=
  runStream s fun s => s.vec1 (.vrsum o) o.d o.a o.pa o.stop redType fun c a =>
    splat (if c.et = 6 then ⟨intSum (redElems 6 (c.mask o.k) 0 a), .zero⟩
      else Fp.treeSum (redElems c.et (c.mask o.k) 0x80000000 a))

/-- VRMAX (R130). -/
def execVrmax (o : V2) (s : State) : Host.Outcome State Fault Refusal :=
  runStream s fun s => s.vec1 (.vrmax o) o.d o.a o.pa o.stop redType fun c a =>
    splat (redMinMax c.et true (c.mask o.k) a)

/-- VRMIN (R130). -/
def execVrmin (o : V2) (s : State) : Host.Outcome State Fault Refusal :=
  runStream s fun s => s.vec1 (.vrmin o) o.d o.a o.pa o.stop redType fun c a =>
    splat (redMinMax c.et false (c.mask o.k) a)

/-- The index of a maximum M (R131). -/
def argIndex (et : Nat) (k : Word) (a : Vec) (m : Nat) : Nat :=
  let w := Fp.codeBits et
  let l := redElems et k 0 a
  let inc := (List.range (1024 / w)).filter fun i => elemOn k w i
  let isNan (x : Nat) : Bool := et != 6 && (Fp.decode .fp32 x).isNan
  let hit := if isNan m then none else inc.find? fun i => l.getD i 0 == m
  match hit with
  | some i => i
  | none => (inc.find? fun i => isNan (l.getD i 0)).getD 0xFFFFFFFF

/-- VRARGMAX (R131). -/
def execVrargmax (o : V2) (s : State) : Host.Outcome State Fault Refusal :=
  runStream s fun s => s.vec1 (.vrargmax o) o.d o.a o.pa o.stop redType fun c a =>
    let m := redMinMax c.et true (c.mask o.k) a
    (ofElems 32 [argIndex c.et (c.mask o.k) a m.bits, m.bits], m.fl)

/-- The wrapping prefix sums of INT32 words. -/
def intScan (l : List Nat) : List Nat :=
  (l.foldl (fun (r : List Nat × Nat) x => (r.1 ++ [(r.2 + x) % 2 ^ 32], (r.2 + x) % 2 ^ 32)) ([], 0)).1

/-- VSCAN (R132): every lane is written. -/
def execVscan (o : V2) (s : State) : Host.Outcome State Fault Refusal :=
  runStream s fun s => s.vec1 (.vscan o) o.d o.a o.pa o.stop (fun t => t == 0 || t == 6) fun c a =>
    if c.et = 6 then (ofElems 32 (intScan (redElems 6 (c.mask o.k) 0 a)), .zero)
    else
      let r := Fp.scanSum (redElems 0 (c.mask o.k) 0x80000000 a)
      (ofElems 32 r.1, r.2)

end Sys2Proof.Machine
end

