-- ==== Sys2Proof/Machine/Dispatch.lean ====
section
/-! DEFINITION. The dispatch: one arm per constructor of Instr. -/

namespace Sys2Proof.Machine
open Sys2Proof

/-- The outcome of an instruction or event in a state. -/
def exec (i : Instr) (s : State) : Host.Outcome State Fault Refusal :=
  match i with
  | .add o => Sys2Proof.Machine.execAdd o s
  | .sub o => Sys2Proof.Machine.execSub o s
  | .and o => Sys2Proof.Machine.execAnd o s
  | .or o => Sys2Proof.Machine.execOr o s
  | .xor o => Sys2Proof.Machine.execXor o s
  | .shl o => Sys2Proof.Machine.execShl o s
  | .shr o => Sys2Proof.Machine.execShr o s
  | .sra o => Sys2Proof.Machine.execSra o s
  | .mul o => Sys2Proof.Machine.execMul o s
  | .mulh o => Sys2Proof.Machine.execMulh o s
  | .mulhu o => Sys2Proof.Machine.execMulhu o s
  | .div o => Sys2Proof.Machine.execDiv o s
  | .divu o => Sys2Proof.Machine.execDivu o s
  | .rem o => Sys2Proof.Machine.execRem o s
  | .remu o => Sys2Proof.Machine.execRemu o s
  | .min o => Sys2Proof.Machine.execMin o s
  | .max o => Sys2Proof.Machine.execMax o s
  | .minu o => Sys2Proof.Machine.execMinu o s
  | .maxu o => Sys2Proof.Machine.execMaxu o s
  | .slt o => Sys2Proof.Machine.execSlt o s
  | .sltu o => Sys2Proof.Machine.execSltu o s
  | .clz o => Sys2Proof.Machine.execClz o s
  | .popc o => Sys2Proof.Machine.execPopc o s
  | .addi o => Sys2Proof.Machine.execAddi o s
  | .andi o => Sys2Proof.Machine.execAndi o s
  | .ori o => Sys2Proof.Machine.execOri o s
  | .xori o => Sys2Proof.Machine.execXori o s
  | .shli o => Sys2Proof.Machine.execShli o s
  | .shri o => Sys2Proof.Machine.execShri o s
  | .srai o => Sys2Proof.Machine.execSrai o s
  | .slti o => Sys2Proof.Machine.execSlti o s
  | .sltiu o => Sys2Proof.Machine.execSltiu o s
  | .lui o => Sys2Proof.Machine.execLui o s
  | .auipc o => Sys2Proof.Machine.execAuipc o s
  | .lea o => Sys2Proof.Machine.execLea o s
  | .beq o => Sys2Proof.Machine.execBeq o s
  | .bne o => Sys2Proof.Machine.execBne o s
  | .blt o => Sys2Proof.Machine.execBlt o s
  | .bge o => Sys2Proof.Machine.execBge o s
  | .bltu o => Sys2Proof.Machine.execBltu o s
  | .bgeu o => Sys2Proof.Machine.execBgeu o s
  | .jal o => Sys2Proof.Machine.execJal o s
  | .jalr o => Sys2Proof.Machine.execJalr o s
  | .loop o => Sys2Proof.Machine.execLoop o s
  | .loopi o => Sys2Proof.Machine.execLoopi o s
  | .cqpush o => Sys2Proof.Machine.execCqpush o s
  | .cqpop o => Sys2Proof.Machine.execCqpop o s
  | .csrr o => Sys2Proof.Machine.execCsrr o s
  | .csrw o => Sys2Proof.Machine.execCsrw o s
  | .csrs o => Sys2Proof.Machine.execCsrs o s
  | .csrc o => Sys2Proof.Machine.execCsrc o s
  | .nop o => Sys2Proof.Machine.execNop o s
  | .trap o => Sys2Proof.Machine.execTrap o s
  | .eret o => Sys2Proof.Machine.execEret o s
  | .brk o => Sys2Proof.Machine.execBrk o s
  | .wait o => Sys2Proof.Machine.execWait o s
  | .ld o => Sys2Proof.Machine.execLd o s
  | .st o => Sys2Proof.Machine.execSt o s
  | .amoAdd o => Sys2Proof.Machine.execAmoAdd o s
  | .amoAnd o => Sys2Proof.Machine.execAmoAnd o s
  | .amoOr o => Sys2Proof.Machine.execAmoOr o s
  | .amoXor o => Sys2Proof.Machine.execAmoXor o s
  | .amoSwap o => Sys2Proof.Machine.execAmoSwap o s
  | .amoMin o => Sys2Proof.Machine.execAmoMin o s
  | .amoMax o => Sys2Proof.Machine.execAmoMax o s
  | .amoMinu o => Sys2Proof.Machine.execAmoMinu o s
  | .amoMaxu o => Sys2Proof.Machine.execAmoMaxu o s
  | .amoCas o => Sys2Proof.Machine.execAmoCas o s
  | .amoFadd o => Sys2Proof.Machine.execAmoFadd o s
  | .amoFmin o => Sys2Proof.Machine.execAmoFmin o s
  | .amoFmax o => Sys2Proof.Machine.execAmoFmax o s
  | .fence o => Sys2Proof.Machine.execFence o s
  | .cinv o => Sys2Proof.Machine.execCinv o s
  | .cwb o => Sys2Proof.Machine.execCwb o s
  | .l2hint o => Sys2Proof.Machine.execL2hint o s
  | .l2hintDemote o => Sys2Proof.Machine.execL2hintDemote o s
  | .qrd o => Sys2Proof.Machine.execQrd o s
  | .qrdh o => Sys2Proof.Machine.execQrdh o s
  | .qwr o => Sys2Proof.Machine.execQwr o s
  | .xld o => Sys2Proof.Machine.execXld o s
  | .xldDec o => Sys2Proof.Machine.execXldDec o s
  | .xldVfy o => Sys2Proof.Machine.execXldVfy o s
  | .xst o => Sys2Proof.Machine.execXst o s
  | .xcp o => Sys2Proof.Machine.execXcp o s
  | .xcpScl o => Sys2Proof.Machine.execXcpScl o s
  | .xcpVfy o => Sys2Proof.Machine.execXcpVfy o s
  | .xdrain o => Sys2Proof.Machine.execXdrain o s
  | .xcur o => Sys2Proof.Machine.execXcur o s
  | .xcfg o => Sys2Proof.Machine.execXcfg o s
  | .mlw o => Sys2Proof.Machine.execMlw o s
  | .mswap o => Sys2Proof.Machine.execMswap o s
  | .mmul o => Sys2Proof.Machine.execMmul o s
  | .mmulSmax o => Sys2Proof.Machine.execMmulSmax o s
  | .mst o => Sys2Proof.Machine.execMst o s
  | .mzero o => Sys2Proof.Machine.execMzero o s
  | .mlora o => Sys2Proof.Machine.execMlora o s
  | .mloraClr o => Sys2Proof.Machine.execMloraClr o s
  | .mamap o => Sys2Proof.Machine.execMamap o s
  | .mfuse o => Sys2Proof.Machine.execMfuse o s
  | .mfuseOff o => Sys2Proof.Machine.execMfuseOff o s
  | .attn o => Sys2Proof.Machine.execAttn o s
  | .hview o => Sys2Proof.Machine.execHview o s
  | .hchk o => Sys2Proof.Machine.execHchk o s
  | .hqry o => Sys2Proof.Machine.execHqry o s
  | .balloc o => Sys2Proof.Machine.execBalloc o s
  | .bfree o => Sys2Proof.Machine.execBfree o s
  | .btrim o => Sys2Proof.Machine.execBtrim o s
  | .bfork o => Sys2Proof.Machine.execBfork o s
  | .bstat o => Sys2Proof.Machine.execBstat o s
  | .bkfill o => Sys2Proof.Machine.execBkfill o s
  | .aadmit o => Sys2Proof.Machine.execAadmit o s
  | .aresolve o => Sys2Proof.Machine.execAresolve o s
  | .arel o => Sys2Proof.Machine.execArel o s
  | .apublish o => Sys2Proof.Machine.execApublish o s
  | .aclaim o => Sys2Proof.Machine.execAclaim o s
  | .probe o => Sys2Proof.Machine.execProbe o s
  | .pinv o => Sys2Proof.Machine.execPinv o s
  | .phreg o => Sys2Proof.Machine.execPhreg o s
  | .phdrop o => Sys2Proof.Machine.execPhdrop o s
  | .phsig o => Sys2Proof.Machine.execPhsig o s
  | .phwait o => Sys2Proof.Machine.execPhwait o s
  | .phadv o => Sys2Proof.Machine.execPhadv o s
  | .phqry o => Sys2Proof.Machine.execPhqry o s
  | .phqryM o => Sys2Proof.Machine.execPhqryM o s
  | .semset o => Sys2Proof.Machine.execSemset o s
  | .semsig o => Sys2Proof.Machine.execSemsig o s
  | .semwait o => Sys2Proof.Machine.execSemwait o s
  | .semrd o => Sys2Proof.Machine.execSemrd o s
  | .nyield o => Sys2Proof.Machine.execNyield o s
  | .ndone o => Sys2Proof.Machine.execNdone o s
  | .ndoneAbort o => Sys2Proof.Machine.execNdoneAbort o s
  | .npark o => Sys2Proof.Machine.execNpark o s
  | .nspawn o => Sys2Proof.Machine.execNspawn o s
  | .ndep o => Sys2Proof.Machine.execNdep o s
  | .ndepRel o => Sys2Proof.Machine.execNdepRel o s
  | .grpjoin o => Sys2Proof.Machine.execGrpjoin o s
  | .grpleave o => Sys2Proof.Machine.execGrpleave o s
  | .tload o => Sys2Proof.Machine.execTload o s
  | .tinval o => Sys2Proof.Machine.execTinval o s
  | .tinvalSh o => Sys2Proof.Machine.execTinvalSh o s
  | .tqry o => Sys2Proof.Machine.execTqry o s
  | .vadd o => Sys2Proof.Machine.execVadd o s
  | .vsub o => Sys2Proof.Machine.execVsub o s
  | .vmul o => Sys2Proof.Machine.execVmul o s
  | .vmulh o => Sys2Proof.Machine.execVmulh o s
  | .vand o => Sys2Proof.Machine.execVand o s
  | .vor o => Sys2Proof.Machine.execVor o s
  | .vxor o => Sys2Proof.Machine.execVxor o s
  | .vshl o => Sys2Proof.Machine.execVshl o s
  | .vshr o => Sys2Proof.Machine.execVshr o s
  | .vsra o => Sys2Proof.Machine.execVsra o s
  | .vmin o => Sys2Proof.Machine.execVmin o s
  | .vmax o => Sys2Proof.Machine.execVmax o s
  | .vminu o => Sys2Proof.Machine.execVminu o s
  | .vmaxu o => Sys2Proof.Machine.execVmaxu o s
  | .vfadd o => Sys2Proof.Machine.execVfadd o s
  | .vfsub o => Sys2Proof.Machine.execVfsub o s
  | .vfmul o => Sys2Proof.Machine.execVfmul o s
  | .vfmin o => Sys2Proof.Machine.execVfmin o s
  | .vfmax o => Sys2Proof.Machine.execVfmax o s
  | .vfabs o => Sys2Proof.Machine.execVfabs o s
  | .vfneg o => Sys2Proof.Machine.execVfneg o s
  | .vfma o => Sys2Proof.Machine.execVfma o s
  | .vcvt o => Sys2Proof.Machine.execVcvt o s
  | .vpack o => Sys2Proof.Machine.execVpack o s
  | .vunpack o => Sys2Proof.Machine.execVunpack o s
  | .vbscale o => Sys2Proof.Machine.execVbscale o s
  | .vrsum o => Sys2Proof.Machine.execVrsum o s
  | .vrmax o => Sys2Proof.Machine.execVrmax o s
  | .vrmin o => Sys2Proof.Machine.execVrmin o s
  | .vrargmax o => Sys2Proof.Machine.execVrargmax o s
  | .vscan o => Sys2Proof.Machine.execVscan o s
  | .vshuf o => Sys2Proof.Machine.execVshuf o s
  | .vbcast o => Sys2Proof.Machine.execVbcast o s
  | .vslideUp o => Sys2Proof.Machine.execVslideUp o s
  | .vslideDn o => Sys2Proof.Machine.execVslideDn o s
  | .vcompress o => Sys2Proof.Machine.execVcompress o s
  | .vfunc o => Sys2Proof.Machine.execVfunc o s
  | .tsel o => Sys2Proof.Machine.execTsel o s
  | .vrand o => Sys2Proof.Machine.execVrand o s
  | .vrandU o => Sys2Proof.Machine.execVrandU o s
  | .vconf o => Sys2Proof.Machine.execVconf o s
  | .kand o => Sys2Proof.Machine.execKand o s
  | .kor o => Sys2Proof.Machine.execKor o s
  | .kxor o => Sys2Proof.Machine.execKxor o s
  | .knot o => Sys2Proof.Machine.execKnot o s
  | .kmov o => Sys2Proof.Machine.execKmov o s
  | .kmovFromScalar o => Sys2Proof.Machine.execKmovFromScalar o s
  | .kmovToScalar o => Sys2Proof.Machine.execKmovToScalar o s
  | .kpop o => Sys2Proof.Machine.execKpop o s
  | .qdrop o => Sys2Proof.Machine.execQdrop o s
  | .qcnt o => Sys2Proof.Machine.execQcnt o s
  | .vext o => Sys2Proof.Machine.execVext o s
  | .vins o => Sys2Proof.Machine.execVins o s
  | .vmovs o => Sys2Proof.Machine.execVmovs o s
  | .vsett o => Sys2Proof.Machine.execVsett o s
  | .vfcmpEq o => Sys2Proof.Machine.execVfcmpEq o s
  | .vfcmpLt o => Sys2Proof.Machine.execVfcmpLt o s
  | .vfcmpLe o => Sys2Proof.Machine.execVfcmpLe o s
  | .vfcmpUn o => Sys2Proof.Machine.execVfcmpUn o s
  | .vicmpEq o => Sys2Proof.Machine.execVicmpEq o s
  | .vicmpLt o => Sys2Proof.Machine.execVicmpLt o s
  | .vicmpLe o => Sys2Proof.Machine.execVicmpLe o s
  | .vicmpLtu o => Sys2Proof.Machine.execVicmpLtu o s
  | .vicmpLeu o => Sys2Proof.Machine.execVicmpLeu o s
  | .vsel o => Sys2Proof.Machine.execVsel o s
  | .fetchPastEnd => Sys2Proof.Machine.execFetchPastEnd s
  | .siblingTrap core x => Sys2Proof.Machine.execSiblingTrap core x s
  | .engineFaultDelivery core => Sys2Proof.Machine.execEngineFaultDelivery core s
  | .eqdropWrite core v => Sys2Proof.Machine.execEqdropWrite core v s
  | .commandStart core q => Sys2Proof.Machine.execCommandStart core q s
  | .timedIssue core q => Sys2Proof.Machine.execTimedIssue core q s
  | .scheduleMiss core q => Sys2Proof.Machine.execScheduleMiss core q s
  | .commandRetire core q => Sys2Proof.Machine.execCommandRetire core q s
  | .copyChunk core q => Sys2Proof.Machine.execCopyChunk core q s
  | .decryptStep core => Sys2Proof.Machine.execDecryptStep core s
  | .tloadUnit core => Sys2Proof.Machine.execTloadUnit core s
  | .tinvalEffect core => Sys2Proof.Machine.execTinvalEffect core s
  | .mlwRow core => Sys2Proof.Machine.execMlwRow core s
  | .mswapExchange core => Sys2Proof.Machine.execMswapExchange core s
  | .mmulRow core => Sys2Proof.Machine.execMmulRow core s
  | .mmulSmaxRow core => Sys2Proof.Machine.execMmulSmaxRow core s
  | .sideCorrection core => Sys2Proof.Machine.execSideCorrection core s
  | .mstRow core => Sys2Proof.Machine.execMstRow core s
  | .mzeroEffect core => Sys2Proof.Machine.execMzeroEffect core s
  | .mamapEffect core => Sys2Proof.Machine.execMamapEffect core s
  | .mloraRow core => Sys2Proof.Machine.execMloraRow core s
  | .mloraClrEffect core => Sys2Proof.Machine.execMloraClrEffect core s
  | .mfuseStanding core => Sys2Proof.Machine.execMfuseStanding core s
  | .mfuseOffEffect core => Sys2Proof.Machine.execMfuseOffEffect core s
  | .attnChunk core => Sys2Proof.Machine.execAttnChunk core s
  | .attnOutputStep core => Sys2Proof.Machine.execAttnOutputStep core s
  | .bkfillAccept core => Sys2Proof.Machine.execBkfillAccept core s
  | .l1Eviction core line => Sys2Proof.Machine.execL1Eviction core line s
  | .rowFillComplete core row => Sys2Proof.Machine.execRowFillComplete core row s
  | .probeFillComplete die ticket => Sys2Proof.Machine.execProbeFillComplete die ticket s
  | .pageFaultDeadline tag => Sys2Proof.Machine.execPageFaultDeadline tag s
  | .frozenGroupPreemption node => Sys2Proof.Machine.execFrozenGroupPreemption node s
  | .writeSerialise n => Sys2Proof.Machine.execWriteSerialise n s
  | .remoteWriteApply die id => Sys2Proof.Machine.execRemoteWriteApply die id s
  | .graphLaunch vf q => Sys2Proof.Machine.execGraphLaunch vf q s
  | .nodeDispatch cores => Sys2Proof.Machine.execNodeDispatch cores s
  | .forcedPreemption node => Sys2Proof.Machine.execForcedPreemption node s
  | .waitPreemption node => Sys2Proof.Machine.execWaitPreemption node s
  | .operatorOverrun node => Sys2Proof.Machine.execOperatorOverrun node s
  | .parkTimeWake node => Sys2Proof.Machine.execParkTimeWake node s
  | .eventRecordWrite vf ring => Sys2Proof.Machine.execEventRecordWrite vf ring s
  | .ringFaultRetry vf ring => Sys2Proof.Machine.execRingFaultRetry vf ring s
  | .eventCoalesceTimeout vf ring => Sys2Proof.Machine.execEventCoalesceTimeout vf ring s
  | .hangDetect node => Sys2Proof.Machine.execHangDetect node s
  | .crucibleGuarantee => Sys2Proof.Machine.execCrucibleGuarantee s
  | .adapterLoadComplete vf idx => Sys2Proof.Machine.execAdapterLoadComplete vf idx s
  | .adapterFillQuotaTick vf => Sys2Proof.Machine.execAdapterFillQuotaTick vf s
  | .reduce port m => Sys2Proof.Machine.execReduce port m s
  | .scrubVisit half line => Sys2Proof.Machine.execScrubVisit half line s
  | .weightRestore frame => Sys2Proof.Machine.execWeightRestore frame s
  | .registerWrite w => Sys2Proof.Machine.execRegisterWrite w s
  | .sqDoorbell h q v => Sys2Proof.Machine.execSqDoorbell h q v s
  | .sqReset h q => Sys2Proof.Machine.execSqReset h q s
  | .erheadWrite h ring v => Sys2Proof.Machine.execErheadWrite h ring v s
  | .resumeWrite h node => Sys2Proof.Machine.execResumeWrite h node s
  | .adcmdEvict h handle => Sys2Proof.Machine.execAdcmdEvict h handle s
  | .adcmdRetire h handle => Sys2Proof.Machine.execAdcmdRetire h handle s
  | .bar2Access a => Sys2Proof.Machine.execBar2Access a s
  | .create c => Sys2Proof.Machine.execCreate c s
  | .teardown c => Sys2Proof.Machine.execTeardown c s
  | .setField c => Sys2Proof.Machine.execSetField c s
  | .getField c => Sys2Proof.Machine.execGetField c s
  | .suspend c => Sys2Proof.Machine.execSuspend c s
  | .resume c => Sys2Proof.Machine.execResume c s
  | .migrateStart c => Sys2Proof.Machine.execMigrateStart c s
  | .migrateStop c => Sys2Proof.Machine.execMigrateStop c s
  | .setGrade c => Sys2Proof.Machine.execSetGrade c s
  | .clearKeys c => Sys2Proof.Machine.execClearKeys c s
  | .resolveRetry tag => Sys2Proof.Machine.execResolveRetry tag s
  | .resolveFail tag => Sys2Proof.Machine.execResolveFail tag s
  | .shootdown => Sys2Proof.Machine.execShootdown s
  | .shootdownDone => Sys2Proof.Machine.execShootdownDone s
  | .migrationSettle vf => Sys2Proof.Machine.execMigrationSettle vf s
  | .migrationDeadline vf => Sys2Proof.Machine.execMigrationDeadline vf s
  | .keyLoad m => Sys2Proof.Machine.execKeyLoad m s
  | .keyClear m => Sys2Proof.Machine.execKeyClear m s
  | .lockInterfaceRequest vf => Sys2Proof.Machine.execLockInterfaceRequest vf s
  | .startInterfaceRequest vf => Sys2Proof.Machine.execStartInterfaceRequest vf s
  | .stopInterface vf => Sys2Proof.Machine.execStopInterface vf s
  | .getDeviceInterfaceReport vf => Sys2Proof.Machine.execGetDeviceInterfaceReport vf s
  | .ideKm stream keyset key => Sys2Proof.Machine.execIdeKm stream keyset key s
  | .getVersion => Sys2Proof.Machine.execGetVersion s
  | .getCapabilities => Sys2Proof.Machine.execGetCapabilities s
  | .negotiateAlgorithms => Sys2Proof.Machine.execNegotiateAlgorithms s
  | .getDigests => Sys2Proof.Machine.execGetDigests s
  | .getCertificate => Sys2Proof.Machine.execGetCertificate s
  | .challenge nonce => Sys2Proof.Machine.execChallenge nonce s
  | .getMeasurements index => Sys2Proof.Machine.execGetMeasurements index s
  | .keyExchange vf tenant pub => Sys2Proof.Machine.execKeyExchange vf tenant pub s
  | .finish vf mac => Sys2Proof.Machine.execFinish vf mac s
  | .endSession vf => Sys2Proof.Machine.execEndSession vf s
  | .boot => Sys2Proof.Machine.execBoot s
  | .debugAttach core => Sys2Proof.Machine.execDebugAttach core s
  | .debugHalt core => Sys2Proof.Machine.execDebugHalt core s
  | .debugContextWrite core w => Sys2Proof.Machine.execDebugContextWrite core w s
  | .debugResume core => Sys2Proof.Machine.execDebugResume core s
  | .debugSingleStep core x => Sys2Proof.Machine.execDebugSingleStep core x s
  | .throttleChange die level => Sys2Proof.Machine.execThrottleChange die level s
  | .dieTrip die => Sys2Proof.Machine.execDieTrip die s
  | .coolantLoss => Sys2Proof.Machine.execCoolantLoss s
  | .cxlLinkDown port => Sys2Proof.Machine.execCxlLinkDown port s
  | .badFlit port f => Sys2Proof.Machine.execBadFlit port f s
  | .replayRequest port f => Sys2Proof.Machine.execReplayRequest port f s
  | .read port m => Sys2Proof.Machine.execRead port m s
  | .readRsp port m => Sys2Proof.Machine.execReadRsp port m s
  | .write port m => Sys2Proof.Machine.execWrite port m s
  | .writeAck port m => Sys2Proof.Machine.execWriteAck port m s
  | .amo port m => Sys2Proof.Machine.execAmo port m s
  | .amoRsp port m => Sys2Proof.Machine.execAmoRsp port m s
  | .reduceAck port m => Sys2Proof.Machine.execReduceAck port m s
  | .migrate port m => Sys2Proof.Machine.execMigrate port m s
  | .mgmt port m => Sys2Proof.Machine.execMgmt port m s
  | .linkctl port m => Sys2Proof.Machine.execLinkctl port m s
  | .reservedMessage port m => Sys2Proof.Machine.execReservedMessage port m s
  | .illegalOpcode f at_ => Sys2Proof.Machine.execIllegalOpcode f at_ s
  | .badOpcode c => Sys2Proof.Machine.execBadOpcode c s
  | .idleFlit port f => Sys2Proof.Machine.execIdleFlit port f s
  | .tripClear die => Sys2Proof.Machine.execTripClear die s
  | .baseModelReplace hash => Sys2Proof.Machine.execBaseModelReplace hash s
  | .ideCheckFailure vf => Sys2Proof.Machine.execIdeCheckFailure vf s

end Sys2Proof.Machine
end

