-- ==== Sys2Proof/Machine/Storage.lean ====
section
/-! DEFINITION. The storage of a core that SEC-DED protects (R421): what it means that a step reads a word, and what an error of
the word that it reads does. -/

namespace Sys2Proof.Machine
open Sys2Proof

/-! ### A word with every bit turned over -/

/-- Bytes of a list from an offset on, turned over. -/
def flipBytes (b : List Byte) (o n : Nat) : List Byte :=
  putBytes b o (((b.drop o).take n).map fun x => ~~~x)

/-- A plane's element or scale, turned over. -/
def Plane.flip (p : Plane) (scale : Bool) (i : Nat) : Plane :=
  if scale then { p with scales := SMap.upd 0x7F p.scales i fun x => ~~~x } else { p with elems := SMap.upd 0 p.elems i fun x => ~~~x }

/-- A word of a table bank's image, turned over. -/
def TBank.flipWord (b : TBank) (w : Nat) : TBank := { b with data := flipBytes b.data (8 * w) 8 }

/-- A bank of a quadrant changed. -/
def Quadrant.onBank (q : Quadrant) (one : Bool) (f : Bank → Bank) : Quadrant :=
  if one then { q with bank1 := f q.bank1 } else { q with bank0 := f q.bank0 }

/-- A core whose word at a place of its storage is turned over. -/
def Core.flip (c : Core) : CoreStore → Core
  | .sp w => { c with sp := Memory.write c.sp (8 * w) ((Memory.read c.sp (8 * w) 8).map fun x => ~~~x) }
  | .l1 va => { c with l1 := c.l1.map fun l => if l.va = va / 64 * 64 then { l with bytes := flipBytes l.bytes (va % 64 / 8 * 8) 8 } else l }
  | .row r w => { c with rows := SMap.upd .free c.rows r fun x => { x with words := x.words.set w (~~~(x.words.getD w 0)) } }
  | .queue q n w => c.setQueue q ((c.queue q).set n (((c.queue q).getD n 0) ^^^ ((0xFFFFFFFFFFFFFFFF : Vec) <<< (64 * w))))
  | .reg x r => c.setStream x { c.stream x with regs := SMap.upd 0 (c.stream x).regs r fun v => ~~~v }
  | .hreg x r => c.setStream x { c.stream x with hregs := SMap.upd 0 (c.stream x).hregs r fun v => ~~~v }
  | .mask k => { c with vec := { c.vec with masks := SMap.upd 0 c.vec.masks k fun v => ~~~v } }
  | .table i one w => { c with slots := SMap.upd .init c.slots i fun t =>
      if one then { t with bank1 := t.bank1.flipWord w } else { t with bank0 := t.bank0.flipWord w } }
  | .plane shadow i =>
    { c with quad := if shadow then { c.quad with shd := c.quad.shd.flip false i } else { c.quad with act := c.quad.act.flip false i } }
  | .scale shadow i =>
    { c with quad := if shadow then { c.quad with shd := c.quad.shd.flip true i } else { c.quad with act := c.quad.act.flip true i } }
  | .acc one i => { c with quad := c.quad.onBank one fun b => { b with acc := SMap.upd 0 b.acc i fun v => ~~~v } }
  | .side one l i => { c with quad := c.quad.onBank one fun b =>
      if l then { b with l := SMap.upd 0 b.l i fun v => ~~~v } else { b with m := SMap.upd 0xFF800000 b.m i fun v => ~~~v } }
  | .inter one i => { c with quad := c.quad.onBank one fun b => { b with t := SMap.upd 0 b.t i fun v => ~~~v } }
  | .factor i row w => { c with quad := { c.quad with slots := SMap.upd .empty c.quad.slots i fun f =>
      { f with rows := f.rows.set row (flipBytes (f.rows.getD row []) (8 * w) 8) } } }
  | .factorScale i row w => { c with quad := { c.quad with slots := SMap.upd .empty c.quad.slots i fun f =>
      { f with scales := f.scales.set row (flipBytes (f.scales.getD row []) (8 * w) 8) } } }
  | .factorDesc i w => { c with quad := { c.quad with slots := SMap.upd .empty c.quad.slots i fun f =>
      { f with desc := flipBytes f.desc (8 * w) 8 } } }

/-- The state with a word of a core's storage turned over. -/
def State.flip (s : State) (e : Nat × CoreErr) : State := s.updCore e.1 fun c => c.flip e.2.store

/-! ### What a step makes of an error -/

/-- The errors of storage that no read has met. -/
def State.errors (s : State) : List (Nat × CoreErr) := s.cores.flatMap fun p => p.2.ecc.map fun e => (p.1, e)

/-- What becomes of a word in a step. -/
inductive WordFate where
  /-- it stands as it did -/
  | kept
  /-- it has been overwritten, or what held it has left the core -/
  | gone
  /-- what the step does depends on it -/
  | read
  deriving DecidableEq, Repr

/-- The fate of a word with an error in a step that leads from `s` to `t`: the step has read the word where its instructions name it
as an operand (`named`), or where it does something else with the word turned over (log entry 70, DESIGN CHOICE). -/
def wordFate (f : State → Host.Outcome State Fault Refusal) (named : Nat × CoreErr → Bool) (s t : State) (e : Nat × CoreErr) :
    WordFate :=
  if !t.errors.contains e then .gone
  else if named e then .read
  else
    match f (s.flip e) with
    | .next u => if u = t then .gone else if u = t.flip e then .kept else .read
    | .fault _ => .read
    | .refused _ => .read

/-- An error leaves the list of its core. -/
def State.dropError (s : State) (e : Nat × CoreErr) : State := s.updCore e.1 fun c => { c with ecc := c.ecc.filter fun x => x != e.2 }

/-- A single-bit error is corrected on the read, and counted in a PF counter (R421). -/
def State.correct (s : State) (e : Nat × CoreErr) : State :=
  let s := s.dropError e
  { s with pf := { s.pf with coreCorrected := if s.pf.coreCorrected = 0xFFFFFFFFFFFFFFFF then s.pf.coreCorrected
      else s.pf.coreCorrected + 1 } }

/-- What a step comes to over storage with errors: none where a read met a double-bit error, which the answer then names. -/
def afterErrors (f : State → Host.Outcome State Fault Refusal) (named : Nat × CoreErr → Bool) (s t : State)
    (l : List (Nat × CoreErr)) : Except (Nat × CoreErr) State :=
  let fates := l.map fun e => (e, wordFate f named s t e)
  match fates.find? fun p => p.2 == .read && p.1.2.double with
  | some p => .error p.1
  | none => .ok (fates.foldl (fun t p =>
      match p.2 with
      | .kept => t
      | .gone => t.dropError p.1
      | .read => t.correct p.1) t)

/-- A double-bit error is found on a read: core error 0x72, contained, or a precise trap of firmware (R421, R423). -/
def State.coreError (s : State) (core : Nat) : State :=
  s.preciseTrap core (s.turn == .stream true && s.cur == core) ⟨0x72, 0, .zero, []⟩

/-- A step over storage with errors: what the step does, unless it reads a double-bit error, which leaves it undone. `named`: what a
step from a state to another names as operands. -/
def guarded (f : State → Host.Outcome State Fault Refusal) (named : State → State → Nat × CoreErr → Bool) (skip : State → State)
    (s : State) : Host.Outcome State Fault Refusal :=
  match s.errors with
  | [] => f s
  | l =>
    match f s with
    | .next t =>
      match afterErrors f (named s t) s t l with
      | .ok t => .next t
      | .error e => .next (skip (s.coreError e.1))
    | .fault x => .fault x
    | .refused x => .refused x

end Sys2Proof.Machine
end

