-- ==== Sys2Proof/Machine/Run.lean ====
section
/-! DEFINITION. What one step does (log entry 1, DESIGN CHOICE): the next event of the agenda, or the agent whose turn it is; then time
moves on (R83, R172, R173, R174, R310, R427, R446). -/

namespace Sys2Proof.Machine
open Sys2Proof

/-! ### Streams (R53, R69, R74, R77) -/

/-- The stream that executes is a core's C-stream or X-stream. -/
def State.onStream (s : State) (core : Nat) (x : Bool) : State := { s with cur := core, curX := x, issue := .retired }

/-- The stream stands at an instruction of its group. -/
def State.atInstr (s : State) (gpc off : Dword) : State := s.updSelf fun t => { t with pc := off, gpc := gpc }

/-- Executes one instruction of a group. -/
def State.issueOne (s : State) (gpc : Dword) (p : Placed) : Host.Outcome State Fault Refusal := exec p.1 (s.atInstr gpc p.2)

/-- A CSR instruction (major 21). In a group it reads and writes before the others take effect (R53). -/
def isCsr : Instr → Bool
  | .csrr _ | .csrw _ | .csrs _ | .csrc _ => true
  | _ => false

/-- The instructions of a group with a mark on the last: CSR instructions first, and queued commands last, so that no other
instruction of the group finds what the push of one changes (R53, R157, R254). -/
def issueOrder (g : List Placed) : List (Placed × Bool) :=
  let marked := (List.range g.length).zip g |>.map fun p => (p.2, p.1 + 1 == g.length)
  let pushes (p : Placed × Bool) : Bool := clsOf p.1.1 == .e
  marked.filter (fun p => isCsr p.1.1) ++ marked.filter (fun p => !isCsr p.1.1 && !pushes p) ++ marked.filter pushes

/-- The first instruction of a group, in program order, that does not retire where the group begins, and what it leaves
(log entry 26, DEDUCED). -/
def State.firstStop (s : State) (gpc : Dword) : List Placed → Option State
  | [] => none
  | p :: rest =>
    let alone := stateOf s (s.issueOne gpc p)
    if alone.issue = .retired then s.firstStop gpc rest else some alone

/-- Runs the instructions of a group `g` in order. `past`: pc and gpc that the last one left. Where an instruction does not
retire, none of the group takes effect (R77). -/
def State.issueAll (start s : State) (gpc : Dword) (g : List Placed) (past : Option (Dword × Dword)) :
    List (Placed × Bool) → State
  | [] =>
    match past with
    | some (pc, g) => s.updSelf fun t => { t with pc := pc, gpc := g }
    | none => s
  | (p, last) :: rest =>
    let t := stateOf s (s.issueOne gpc p)
    if t.issue = .retired then
      start.issueAll t gpc g (if last then some (t.self.pc, t.self.gpc) else past) rest
    else
      match start.firstStop gpc g with
      | some u => u
      | none => { start.updSelf (fun u => { u with wait := t.self.wait }) with issue := .waiting }

/-- Issues a group of the stream that executes. -/
def State.issueGroup (s : State) (g : List Placed) : Host.Outcome State Fault Refusal :=
  let gpc := s.self.gpc
  match g with
  | [p] => s.issueOne gpc p
  | _ =>
    match s.here.groupQueues s.curX g with
    | .error e => .next (s.settled (.error e))
    | .ok _ => .next (s.issueAll s gpc g none (issueOrder g))

/-- A stream may issue: it runs, and no debugger holds it (R430, R432). -/
def Core.mayIssue (c : Core) (x : Bool) : Bool := (c.stream x).run && (!c.dbg.halted || c.dbg.only == some x)

/-- A single step ends once its group has issued (R432). -/
def State.endStep (s : State) (core : Nat) : State :=
  if s.issue = .waiting then s else s.updCore core fun c => { c with dbg := { c.dbg with only := none } }

/-- The same, on an outcome. -/
def endStepOf (core : Nat) : Host.Outcome State Fault Refusal → Host.Outcome State Fault Refusal
  | .next t => .next (t.endStep core)
  | .fault f => .fault f
  | .refused r => .refused r

/-- What a stream issues from its instruction store. -/
def State.issueNext (s : State) (core : Nat) (x : Bool) : Host.Outcome State Fault Refusal :=
  match (s.core core).next x with
  | .past => execFetchPastEnd s
  | .bad f a => execIllegalOpcode f a s
  | .trap _ t => .next (s.trapHere t)
  | .stall => .next (s.waitHere .row [])
  | .group g => s.issueGroup g

/-- The C-stream stands at a semwait that a signal has served (R94): it completes before a trap is taken. -/
def Core.served (c : Core) : Bool :=
  match c.c.wait with
  | some (.sem n, _) => c.granted.contains (n, .stream)
  | _ => false

/-- A stream's turn: a sibling trap, an engine fault, or its next group (R78, R80). -/
def State.streamTurn (s : State) (core : Nat) (x : Bool) : Host.Outcome State Fault Refusal :=
  let c := s.core core
  let s := s.onStream core x
  if !c.mayIssue x then .next s
  else
    let r :=
      if (c.stream x).sib.isSome && !(!x && c.served) then execSiblingTrap core x s
      else if !x && c.c.mode != .handler && !c.pendingFaults.isEmpty && !c.served then execEngineFaultDelivery core s
      else s.issueNext core x
    if c.dbg.halted then endStepOf core r else r

/-! ### Engines (R88) -/

/-- An engine's turn: its head starts, takes a step, or retires; nothing moves on a halted core (R430). -/
def State.engineTurn (s : State) (core : Nat) (q : EngQ) : Host.Outcome State Fault Refusal :=
  let c := s.core core
  let e := c.eng q
  match e.cmds with
  | [] => .next s
  | k :: _ =>
    if c.dbg.halted || e.fault.isSome then .next s
    else if !e.begun && !e.sigPending then execCommandStart core q s
    else if e.sigPending || e.finished then execCommandRetire core q s
    else s.engineWork core q k.op

/-! ### Memory (R262, R264) -/

/-- The memory's turn: the first write that may be serialised is, and the first that a die's order may take enters it. -/
def State.memoryTurn (s : State) : State :=
  let m := s.mem
  let m := match (List.range m.pend.length).find? m.maySerialise with
    | some n => m.serialise n
    | none => m
  let m := match (m.log.flatMap fun e => allDies.map fun d => (d, e.1)).find? fun p => m.mayApply p.1 p.2 with
    | some p => m.apply p.1 p.2
    | none => m
  { s with mem := m }

/-! ### The Hearth and the units around it -/

/-- What the Hearth and the units may do next: a move on the state. -/
abbrev Move := State → Host.Outcome State Fault Refusal

/-- Identities of nodes in a state. -/
def State.nodesIn (s : State) (p : NodeState → Bool) : List Dword :=
  (s.hearth.nodes.filter fun n => p n.2.state).map fun n => d64 n.1

/-- The rings and queues of the VFs. -/
def State.ringMoves (s : State) : List Move :=
  [execEventRecordWrite 0 0, execEventCoalesceTimeout 0 0]
    ++ s.vfs.flatMap (fun v => v.2.rings.flatMap fun r => [execEventRecordWrite v.1 r.1, execEventCoalesceTimeout v.1 r.1])
    ++ s.vfs.flatMap fun v => v.2.sq.map fun q => execGraphLaunch v.1 q.1

/-- Free cores for the node that the Hearth would choose, or the cores to free for one that is blocked (R299, R300). -/
def State.placement (s : State) : Option (List Nat) :=
  match s.pick.bind fun p => (s.node? p.2).map fun n => (p.2, n) with
  | some (id, n) => allPlacements.find? fun l => l.all s.coreFree && s.fits id n l && !l.any (s.keptFrom id)
  | none =>
    let starved := s.starved
    allPlacements.find? fun l => !l.all s.coreFree && starved.any fun p => s.blocked l p && !(s.holders l).all s.pending

/-- Moves of nodes. -/
def State.nodeMoves (s : State) : List Move :=
  (if s.readyNodes.isEmpty then [] else s.placement.toList.map execNodeDispatch)
    ++ (s.nodesIn fun n => n == .running).flatMap (fun id =>
      [execForcedPreemption id, execWaitPreemption id, execFrozenGroupPreemption id, execOperatorOverrun id, execHangDetect id])
    ++ (s.nodesIn fun n => n == .parked).map execParkTimeWake

/-- Moves of cores, dies and adapters. -/
def State.unitMoves (s : State) : List Move :=
  s.cores.flatMap (fun c => (c.2.rows.filter fun r => r.2.state == 1).map fun r => execRowFillComplete c.1 r.1)
    ++ s.dies.flatMap (fun d => (d.2.tickets.filter fun t => match t.2 with | .probe _ _ => true | .adapter _ _ => false).map
      fun t => execProbeFillComplete d.1 t.1)
    ++ s.vfs.flatMap (fun v => execAdapterFillQuotaTick v.1 ::
      (v.2.adapters.filter fun a => a.2.state == 1).map fun a => execAdapterLoadComplete v.1 a.1)
    ++ s.pf.faults.map (fun f => execPageFaultDeadline f.1)
    ++ (s.sec.weightFrames.filter fun w => SMap.get false s.sec.restoring w.2).map fun w => execWeightRestore w.1

/-- What waits on pages, and what the host reads of peers, is tried again (R338, R364, R434). -/
def retryUnits (s : State) : Host.Outcome State Fault Refusal := .next s.runRewinds.runRetires.retryReads

/-- The migration copies of a VF go on (R412). -/
def migrationRound (vf : Nat) (s : State) : Host.Outcome State Fault Refusal := .next (s.exportStep vf)

/-- Vector 16 of a VF (R437). -/
def tellHost (vf : Nat) (s : State) : Host.Outcome State Fault Refusal := .next (s.tellModule vf)

/-- Moves of the PF. -/
def State.pfMoves (s : State) : List Move :=
  [execShootdownDone, retryUnits]
    ++ (if s.vfs.any fun v => s.cfg v.1 0x19 != 0 then [execCrucibleGuarantee] else [])
    ++ s.vfs.flatMap fun v => tellHost v.1 ::
      if v.2.migr.isSome then [execMigrationSettle v.1, execMigrationDeadline v.1, migrationRound v.1] else []

/-- Everything the Hearth and the units may do. -/
def State.moves (s : State) : List Move := s.ringMoves ++ s.nodeMoves ++ s.unitMoves ++ s.pfMoves

/-- The Hearth's turn: the first move that changes the state, beginning at a place of the list that moves on with time. -/
def State.hearthTurn (s : State) : State :=
  let l := s.moves
  let l := l.drop (s.tb % (l.length + 1)) ++ l.take (s.tb % (l.length + 1))
  (l.findSome? fun f =>
    let t := stateOf s (f s)
    if t = s then none else some t).getD s

/-! ### Whose turn it is -/

/-- The first core of the module. -/
def State.firstCore (s : State) : Option Nat := s.cores.head?.map Prod.fst

/-- The core after the present one. -/
def State.nextCore (s : State) (core : Nat) : Option Nat := (s.cores.find? fun p => decide (core < p.1)).map Prod.fst

/-- The turn passes on: the streams and queues of each core, then memory, then the Hearth. -/
def State.passOn (s : State) (turn : Turn) (core : Nat) : State :=
  match turn with
  | .stream false => { s with turn := .stream true, cur := core }
  | .stream true => { s with turn := .engine .load, cur := core }
  | .engine .load => { s with turn := .engine .store, cur := core }
  | .engine .store => { s with turn := .engine .matrix, cur := core }
  | .engine .matrix => { s with turn := .engine .backfill, cur := core }
  | .engine .backfill =>
    match s.nextCore core with
    | some c => { s with turn := .stream false, cur := c }
    | none => { s with turn := .memory, cur := core }
  | .memory => { s with turn := .hearth, cur := core }
  | .hearth =>
    match s.firstCore with
    | some c => { s with turn := .stream false, cur := c }
    | none => { s with turn := .memory, cur := core }

/-- What the agent whose turn it is does. -/
def State.takeTurn (s : State) : Host.Outcome State Fault Refusal :=
  match s.turn with
  | .stream x => s.streamTurn s.cur x
  | .engine q => s.engineTurn s.cur q
  | .memory => .next s.memoryTurn
  | .hearth => .next s.hearthTurn

/-! ### Time -/

/-- What the agents of a core wait on. -/
def Core.waits (c : Core) : List WaitOn :=
  (c.c.wait.map Prod.fst).toList ++ (c.x.wait.map Prod.fst).toList ++ c.load.wait.toList ++ c.store.wait.toList
    ++ c.matrix.wait.toList ++ c.backfill.wait.toList

/-- Time of a node on some cores does not count toward T_hang (R427). -/
def State.uncounted (s : State) (cs : List Nat) : Bool :=
  let w := cs.flatMap fun c => (s.core c).waits
  cs.any s.frozen || (!w.isEmpty && w.all fun x => x == .time)
    || w.any fun x => match x with
      | .pending _ _ | .backfill _ _ => true
      | _ => false

/-- A cycle passes on a core (R174, R219, R427). -/
def State.tickCore (s : State) (core : Nat) (c : Core) : Core :=
  if c.node.isNone then c
  else
    let f := s.frozen core
    let n := s.uncounted ((c.node.bind s.node?).map (fun n => n.cores) |>.getD [core])
    { c with csr := { c.csr with xlfrz := if f then c.csr.xlfrz + 1 else c.csr.xlfrz }
             advanced := if n then c.advanced + 1 else c.advanced
             frozenAt := if s.pageFrozen core then c.frozenAt <|> some s.tb else none }

/-- A move of every queue of every core whose head is held to its stamp. -/
def State.timed (s : State) (move : Nat → EngQ → State → Host.Outcome State Fault Refusal) : State :=
  s.cores.foldl (fun s p => [EngQ.load, .store, .matrix, .backfill].foldl (fun s q =>
    if ((s.core p.1).eng q).window.isSome then stateOf s (move p.1 q s) else s) s) s

/-- A semwait of a C-stream that a signal served in this cycle retires in it, unless the rest of its group waits (R75, R94, R95):
what stops the stream later finds the group after it (log entry 132, DEDUCED). -/
def State.retireServed (s : State) : State :=
  let t := s.cores.foldl (fun s p =>
    let c := s.core p.1
    if c.served && c.mayIssue false then stateOf s ((s.onStream p.1 false).issueNext p.1 false) else s) s
  { t with cur := s.cur, curX := s.curX, issue := s.issue }

/-- Rings whose record cannot be written are tried again once every millisecond (R310). -/
def State.retryRings (s : State) : State :=
  if s.tb % msCycles ≠ 0 then s
  else
    s.vfs.foldl (fun s v => v.2.rings.foldl (fun s r => stateOf s (execRingFaultRetry v.1 r.1 s)) s)
      (stateOf s (execRingFaultRetry 0 0 s))

/-- Ports send what they may (R446). -/
def State.pumpPorts (s : State) : State :=
  { s with ports := s.ports.map fun (p : Nat × Port) => (p.1, p.2.pump) }

/-- A cycle passes: the timed commands that it admits issue in it, before tb rises, and the windows that it closes are missed in the
next (R172, R173). -/
def State.tick (s : State) : State :=
  let s := s.retireServed.timed execTimedIssue
  let s := { s with tb := s.tb + 1, cores := s.cores.map fun (p : Nat × Core) => (p.1, s.tickCore p.1 p.2) }
  (s.notePrios.timed execScheduleMiss).retryRings.pumpPorts

/-- Firmware's turn: a command of the PF that stands is performed, and messages of peers are taken (R440, R444). -/
def State.firmware (s : State) : State := s.perform.takeHeld

/-! ### One step -/

/-- The first event of the agenda, or the turn; then a cycle passes. -/
def State.move (s : State) : Host.Outcome State Fault Refusal :=
  match s.agenda with
  | i :: rest =>
    match exec i { s with agenda := rest } with
    | .next t => .next t.tick
    | .fault f => .fault f
    | .refused r => .refused r
  | [] =>
    match s.takeTurn with
    | .next t => .next ((t.passOn s.turn s.cur).firmware.tick)
    | .fault f => .fault f
    | .refused r => .refused r

/-- A move that a core error leaves undone is over (R421). -/
def State.skip (s : State) : State :=
  match s.agenda with
  | _ :: rest => State.tick { s with agenda := rest }
  | [] => (s.passOn s.turn s.cur).tick

/-- A place of a core's storage is an operand of an instruction: a register, a mask, or an entry of a queue (R52). -/
def Uses.names (u : Uses) (handler : Bool) : CoreStore → Bool
  | .reg _ r => decide (r < 24 ∨ !handler) && u.sr.any fun a => a.toNat == r
  | .hreg _ r => decide (24 ≤ r) && handler && u.sr.any fun a => a.toNat == r
  | .mask k => u.kr.any fun a => a.toNat == k
  | .queue q n _ => u.pop.any fun p => p.1.toNat == q && decide (n < neededOf p.1 u.pop)
  | _ => false

/-- The stream whose turn it is issued a group from `s` to `t`, and an instruction of it has the place of an error as an operand
(R421). -/
def State.namesError (s t : State) (e : Nat × CoreErr) : Bool :=
  match s.agenda, s.turn with
  | [], .stream x =>
    let c := s.core s.cur
    let own := match e.2.store with
      | .reg y _ | .hreg y _ => y == x
      | .mask _ | .queue _ _ _ => x
      | _ => false
    let taken := (c.stream x).sib.isSome || (!x && c.c.mode != .handler && !c.pendingFaults.isEmpty)
    own && e.1 == s.cur && c.mayIssue x && !taken && t.issue != .waiting &&
      match c.next x with
      | .group g => g.any fun p => (c.uses p.1).names ((c.stream x).mode == .handler) e.2.store
      | _ => false
  | _, _ => false

/-- A step: a move over storage whose errors its reads meet (R421). -/
def State.run (s : State) : Host.Outcome State Fault Refusal := guarded State.move State.namesError State.skip s

/-! ### Placing an instruction for the next step -/

/-- The words of an instruction whose bits are w: the word, a tail word where E is set, and a nop that ends the group
where S is clear. -/
def imageWords (w : Nat) : List Word :=
  let w0 := BitVec.ofNat 32 w
  let tail := if w0.getLsbD 1 then [BitVec.ofNat 32 (w / 2 ^ 32)] else []
  w0 :: tail ++ if w0.getLsbD 0 then [] else [0x58000001]

/-- The words decode in the C-stream. -/
def forC (w : Nat) : Bool :=
  match decodeWord false (BitVec.ofNat 32 w) (BitVec.ofNat 32 (w / 2 ^ 32)) with
  | .ok _ => true
  | .error _ => false

/-- Core 0 runs an image whose one row holds some words, in one stream, from offset 0. -/
def Core.holding (c : Core) (x : Bool) (ws : List Word) : Core :=
  let row : IRow := ⟨3, 0, c.csr.vfid.toNat, x, 0, 0, ws, none, 0⟩
  let t : Stream := { c.stream x with pc := 0, gpc := 0, run := true, sib := none, wait := none }
  let img : Image := if x then ⟨0, 0, 0, 0, 4 * ws.length⟩ else ⟨0, 0, 0, 4 * ws.length, 0⟩
  { (c.setStream x t) with rows := [(0, row)], image := img }

/-- The next step issues the instruction whose bits are w, on core 0. -/
def State.placeWord (s : State) (w : Nat) : State :=
  let x := !forC w
  let s := s.updCore 0 fun c => c.holding x (imageWords w)
  { s with agenda := [], turn := .stream x, cur := 0 }

end Sys2Proof.Machine
end

