-- ==== Sys2Proof/Machine/Step.lean ====
section
/-! DEFINITION. The step function, and how the host places an instruction for the next step. -/

namespace Sys2Proof.Machine

/-- One step of the module (log entry 1, DESIGN CHOICE). -/
def step : State → Host.Outcome State Fault Refusal := State.run

/-- The state with an instruction of the opcode table placed where the next step fetches it: in core 0's instruction
store, in a stream that runs from offset 0 (log entry 2, DESIGN CHOICE). -/
def State.withFetchWord (s : State) (_nbits w : Nat) : State := s.placeWord w

end Sys2Proof.Machine
end

