-- ==== Sys2Proof/Laws/Encoding.lean ====
section
/-! SUPPORT. The fields of a word and of a tail word, read back from the words that hold them (R44, R46), and what an
instruction's word decodes to once its row is known (R60). -/

namespace Sys2Proof

/-! ### Words (R42, R44) -/

/-- A word gives back the fields that it was built from. -/
theorem RWord.ofWord_toWord (r : RWord) : RWord.ofWord r.toWord = r := by
  obtain ⟨major, d, a, b, fn, e, s⟩ := r
  simp only [RWord.ofWord, RWord.toWord, RWord.mk.injEq]
  refine ⟨?_, ?_, ?_, ?_, ?_, ?_, ?_⟩
  case refine_6 | refine_7 => simp only [BitVec.getLsbD_append, BitVec.getLsbD_ofBool]; simp
  all_goals
    apply BitVec.eq_of_getLsbD_eq
    intro i hi
    simp only [BitVec.getLsbD_extractLsb', BitVec.getLsbD_append, BitVec.getLsbD_ofBool]
    interval_cases i <;> simp

/-! ### Tail words (R46, R48) -/

/-- The fields of the tail word of some fields: numbers. -/
theorem Tail.toWord_numbers (t : Tail) :
    t.toWord.extractLsb' 26 5 = t.waitSem.getD 0 ∧ t.toWord.extractLsb' 20 5 = t.sigSem.getD 0
      ∧ t.toWord.extractLsb' 15 3 = t.scope ∧ t.toWord.extractLsb' 12 3 = t.colour
      ∧ t.toWord.extractLsb' 7 4 = (t.timed.map Prod.fst).getD 0 ∧ t.toWord.extractLsb' 2 5 = (t.timed.map Prod.snd).getD 0
      ∧ t.toWord.extractLsb' 0 2 = 0 := by
  unfold Tail.toWord
  refine ⟨?_, ?_, ?_, ?_, ?_, ?_, ?_⟩
  all_goals
    apply BitVec.eq_of_getLsbD_eq
    intro i hi
    simp only [BitVec.getLsbD_extractLsb', BitVec.getLsbD_append, BitVec.getLsbD_ofBool]
    interval_cases i <;> simp

/-- The fields of the tail word of some fields: flags. -/
theorem Tail.toWord_flags (t : Tail) :
    t.toWord.getLsbD 31 = t.waitSem.isSome ∧ t.toWord.getLsbD 25 = t.sigSem.isSome
      ∧ t.toWord.getLsbD 19 = t.acquire ∧ t.toWord.getLsbD 18 = t.release ∧ t.toWord.getLsbD 11 = t.timed.isSome := by
  unfold Tail.toWord
  refine ⟨?_, ?_, ?_, ?_, ?_⟩ <;> simp only [BitVec.getLsbD_append, BitVec.getLsbD_ofBool] <;> simp

/-- A tail word gives back the fields that it was built from. -/
theorem Tail.ofWord_toWord (t : Tail) : Tail.ofWord t.toWord = t := by
  obtain ⟨hw, hg, hs, hc, hk, ht, -⟩ := t.toWord_numbers
  obtain ⟨fw, fg, fa, fl, ft⟩ := t.toWord_flags
  simp only [Tail.ofWord, hw, hg, hs, hc, hk, ht, fw, fg, fa, fl, ft]
  obtain ⟨w, g, a, l, sc, co, ti⟩ := t
  cases w <;> cases g <;> cases ti <;> rfl

/-- A tail that R48 admits holds no reserved SCOPE. -/
theorem Tail.toWord_scope (t : Tail) (h : t.wf) : tailBadScope t.toWord = false := by
  simp only [Tail.wf, Bool.and_eq_true, decide_eq_true_eq] at h
  simp only [tailBadScope, t.toWord_numbers.2.2.1, decide_eq_false_iff_not]
  omega

/-- A tail that R48 admits holds no reserved field. -/
theorem Tail.toWord_field (t : Tail) (h : t.wf) : tailBadField t.toWord = false := by
  obtain ⟨hw, hg, hs, -, hk, ht, hz⟩ := t.toWord_numbers
  obtain ⟨fw, fg, fa, fl, ft⟩ := t.toWord_flags
  simp only [tailBadField, hw, hg, hs, hk, ht, hz, fw, fg, fa, fl, ft]
  simp only [Tail.wf] at h
  obtain ⟨w, g, a, l, sc, co, ti⟩ := t
  cases w <;> cases g <;> cases ti <;> cases a <;> cases l <;> simp_all

/-! ### Rows (R60) -/

/-- A row that refuses none of its word's fields gives the instruction. -/
theorem Row.decode_plain (row : Row) (r : RWord) (next : Word) (hv : row.badVal = false) (hf : row.badField = false)
    (he : r.e = false) : row.decode r next = .ok (row.build r.s none) := by
  simp [Row.decode, hv, hf, he]

/-- A row that takes a tail, and refuses none of its word's fields nor of the tail's, gives the command. -/
theorem Row.decode_tailed (row : Row) (r : RWord) (t : Option Tail) (next : Word) (hv : row.badVal = false)
    (hf : row.badField = false) (ht : row.tailed = true) (hw : tailWf t) (hb : ∀ u ∈ t, row.badTail u = false)
    (he : r.e = t.isSome) (hn : ∀ u ∈ t, next = u.toWord) : row.decode r next = .ok (row.build r.s t) := by
  cases t with
  | none => simpa using row.decode_plain r next hv hf he
  | some u =>
    have hw : u.wf := hw
    simp [Row.decode, hv, hf, ht, he, hn u rfl, u.toWord_scope hw, u.toWord_field hw, u.ofWord_toWord, hb u rfl]

/-! ### Fields of fn (R54, R58) and spread immediates (R44, R45) -/

/-- The selector of a selector with modifier bits. -/
theorem fnS_sel (s : BitVec 4) (m : BitVec 5) : (fnS s m).extractLsb' 5 4 = s := by
  apply BitVec.eq_of_getLsbD_eq
  intro i hi
  simp only [fnS, BitVec.getLsbD_extractLsb', BitVec.getLsbD_append]
  interval_cases i <;> simp

/-- The modifier bits of a selector with modifier bits. -/
theorem fnS_mods (s : BitVec 4) (m : BitVec 5) : (fnS s m).extractLsb' 0 5 = m := by
  apply BitVec.eq_of_getLsbD_eq
  intro i hi
  simp only [fnS, BitVec.getLsbD_extractLsb', BitVec.getLsbD_append]
  interval_cases i <;> simp

/-- The op of format V. -/
theorem fnV_op (k : MaskReg) (a b : Bool) (op : BitVec 4) : (fnV k a b op).extractLsb' 0 4 = op := by
  apply BitVec.eq_of_getLsbD_eq
  intro i hi
  simp only [fnV, BitVec.getLsbD_extractLsb', BitVec.getLsbD_append]
  interval_cases i <;> simp

/-- The mask of format V. -/
theorem fnV_k (k : MaskReg) (a b : Bool) (op : BitVec 4) : (fnV k a b op).extractLsb' 6 3 = k := by
  apply BitVec.eq_of_getLsbD_eq
  intro i hi
  simp only [fnV, BitVec.getLsbD_extractLsb', BitVec.getLsbD_append]
  interval_cases i <;> simp

/-- Bit [7] of format V. -/
theorem fnV_pa (k : MaskReg) (a b : Bool) (op : BitVec 4) : (fnV k a b op).getLsbD 5 = a := by
  simp only [fnV, BitVec.getLsbD_append, BitVec.getLsbD_ofBool]; simp

/-- Bit [6] of format V. -/
theorem fnV_pb (k : MaskReg) (a b : Bool) (op : BitVec 4) : (fnV k a b op).getLsbD 4 = b := by
  simp only [fnV, BitVec.getLsbD_append, BitVec.getLsbD_ofBool]; simp

/-- A mask number read from its 5-bit field. -/
theorem maskField_low (k : MaskReg) : (maskField k).extractLsb' 0 3 = k := by revert k; decide

/-- The bits above a mask number are 0. -/
theorem maskField_high (k : MaskReg) : (maskField k).extractLsb' 3 2 = 0 := by revert k; decide

/-- A 14-bit field spread over b and fn. -/
theorem join14 (v : BitVec 14) : v.extractLsb' 9 5 ++ v.extractLsb' 0 9 = v := by
  apply BitVec.eq_of_getLsbD_eq
  intro i hi
  simp only [BitVec.getLsbD_extractLsb', BitVec.getLsbD_append]
  interval_cases i <;> simp

/-- A 19-bit field spread over a, b and fn. -/
theorem join19 (v : BitVec 19) : v.extractLsb' 14 5 ++ v.extractLsb' 9 5 ++ v.extractLsb' 0 9 = v := by
  apply BitVec.eq_of_getLsbD_eq
  intro i hi
  simp only [BitVec.getLsbD_extractLsb', BitVec.getLsbD_append]
  interval_cases i <;> simp

/-- A 24-bit field spread over d, a, b and fn. -/
theorem join24 (v : BitVec 24) : v.extractLsb' 19 5 ++ v.extractLsb' 14 5 ++ v.extractLsb' 9 5 ++ v.extractLsb' 0 9 = v := by
  apply BitVec.eq_of_getLsbD_eq
  intro i hi
  simp only [BitVec.getLsbD_extractLsb', BitVec.getLsbD_append]
  interval_cases i <;> simp

/-- A 10-bit field spread over d and a. -/
theorem join10 (v : BitVec 10) : v.extractLsb' 5 5 ++ v.extractLsb' 0 5 = v := by
  apply BitVec.eq_of_getLsbD_eq
  intro i hi
  simp only [BitVec.getLsbD_extractLsb', BitVec.getLsbD_append]
  interval_cases i <;> simp

/-! ### Modifier bits and immediates, field by field -/

/-- One modifier bit. -/
theorem one_bit (b : Bool) : ((0 : BitVec 4) ++ BitVec.ofBool b).getLsbD 0 = b := by
  simp only [BitVec.getLsbD_append, BitVec.getLsbD_ofBool]; simp

/-- The bits above one modifier bit. -/
theorem one_rest (b : Bool) : ((0 : BitVec 4) ++ BitVec.ofBool b).extractLsb' 1 4 = 0 := by
  apply BitVec.eq_of_getLsbD_eq
  intro i hi
  simp only [BitVec.getLsbD_extractLsb', BitVec.getLsbD_append, BitVec.getLsbD_ofBool]
  interval_cases i <;> simp

/-- The mode of a copy command (R57). -/
theorem mode_high (m : BitVec 2) (c : BitVec 3) : (m ++ c).extractLsb' 3 2 = m := by
  apply BitVec.eq_of_getLsbD_eq
  intro i hi
  simp only [BitVec.getLsbD_extractLsb', BitVec.getLsbD_append]
  interval_cases i <;> simp

/-- The channel of a copy command (R57). -/
theorem mode_low (m : BitVec 2) (c : BitVec 3) : (m ++ c).extractLsb' 0 3 = c := by
  apply BitVec.eq_of_getLsbD_eq
  intro i hi
  simp only [BitVec.getLsbD_extractLsb', BitVec.getLsbD_append]
  interval_cases i <;> simp

/-- The size of an amo (R284). -/
theorem amo_dbl (d a l : Bool) (s : BitVec 2) : (BitVec.ofBool d ++ BitVec.ofBool a ++ BitVec.ofBool l ++ s).getLsbD 4 = d := by
  simp only [BitVec.getLsbD_append, BitVec.getLsbD_ofBool]; simp

/-- The acquire bit of an amo (R284). -/
theorem amo_acquire (d a l : Bool) (s : BitVec 2) : (BitVec.ofBool d ++ BitVec.ofBool a ++ BitVec.ofBool l ++ s).getLsbD 3 = a := by
  simp only [BitVec.getLsbD_append, BitVec.getLsbD_ofBool]; simp

/-- The release bit of an amo (R284). -/
theorem amo_release (d a l : Bool) (s : BitVec 2) : (BitVec.ofBool d ++ BitVec.ofBool a ++ BitVec.ofBool l ++ s).getLsbD 2 = l := by
  simp only [BitVec.getLsbD_append, BitVec.getLsbD_ofBool]; simp

/-- The scope of an amo (R284). -/
theorem amo_scope (d a l : Bool) (s : BitVec 2) : (BitVec.ofBool d ++ BitVec.ofBool a ++ BitVec.ofBool l ++ s).extractLsb' 0 2 = s := by
  apply BitVec.eq_of_getLsbD_eq
  intro i hi
  simp only [BitVec.getLsbD_extractLsb', BitVec.getLsbD_append, BitVec.getLsbD_ofBool]
  interval_cases i <;> simp

/-- Bit 2 of three modifier bits. -/
theorem three_bit_two (t l f : Bool) : ((0 : BitVec 2) ++ BitVec.ofBool t ++ BitVec.ofBool l ++ BitVec.ofBool f).getLsbD 2 = t := by
  simp only [BitVec.getLsbD_append, BitVec.getLsbD_ofBool]; simp

/-- Bit 1 of three modifier bits. -/
theorem three_bit_one (t l f : Bool) : ((0 : BitVec 2) ++ BitVec.ofBool t ++ BitVec.ofBool l ++ BitVec.ofBool f).getLsbD 1 = l := by
  simp only [BitVec.getLsbD_append, BitVec.getLsbD_ofBool]; simp

/-- Bit 0 of three modifier bits. -/
theorem three_bit_zero (t l f : Bool) : ((0 : BitVec 2) ++ BitVec.ofBool t ++ BitVec.ofBool l ++ BitVec.ofBool f).getLsbD 0 = f := by
  simp only [BitVec.getLsbD_append, BitVec.getLsbD_ofBool]; simp

/-- The bits above three modifier bits. -/
theorem three_bit_three (t l f : Bool) : ((0 : BitVec 2) ++ BitVec.ofBool t ++ BitVec.ofBool l ++ BitVec.ofBool f).getLsbD 3 = false := by
  simp only [BitVec.getLsbD_append, BitVec.getLsbD_ofBool]; simp

/-- The bits above three modifier bits. -/
theorem three_bit_four (t l f : Bool) : ((0 : BitVec 2) ++ BitVec.ofBool t ++ BitVec.ofBool l ++ BitVec.ofBool f).getLsbD 4 = false := by
  simp only [BitVec.getLsbD_append, BitVec.getLsbD_ofBool]; simp

/-- The bits above three modifier bits. -/
theorem three_rest (t l f : Bool) : ((0 : BitVec 2) ++ BitVec.ofBool t ++ BitVec.ofBool l ++ BitVec.ofBool f).extractLsb' 3 2 = 0 := by
  apply BitVec.eq_of_getLsbD_eq
  intro i hi
  simp only [BitVec.getLsbD_extractLsb', BitVec.getLsbD_append, BitVec.getLsbD_ofBool]
  interval_cases i <;> simp

/-- The shape of mfuse (R188). -/
theorem shape_low (s : BitVec 2) : ((0 : BitVec 3) ++ s).extractLsb' 0 2 = s := by
  apply BitVec.eq_of_getLsbD_eq
  intro i hi
  simp only [BitVec.getLsbD_extractLsb', BitVec.getLsbD_append]
  interval_cases i <;> simp

/-- The bits above the shape of mfuse. -/
theorem shape_high (s : BitVec 2) : ((0 : BitVec 3) ++ s).extractLsb' 2 3 = 0 := by
  apply BitVec.eq_of_getLsbD_eq
  intro i hi
  simp only [BitVec.getLsbD_extractLsb', BitVec.getLsbD_append]
  interval_cases i <;> simp

/-- The top bit of ld (R57). -/
theorem ld_top (e : Bool) (s : BitVec 2) (m : BitVec 7) : ((0 : BitVec 1) ++ BitVec.ofBool e ++ s ++ (0 : BitVec 3) ++ m).getLsbD 13 = false := by
  simp only [BitVec.getLsbD_append, BitVec.getLsbD_ofBool]; simp

/-- SE of ld (R57). -/
theorem ld_se (e : Bool) (s : BitVec 2) (m : BitVec 7) : ((0 : BitVec 1) ++ BitVec.ofBool e ++ s ++ (0 : BitVec 3) ++ m).getLsbD 12 = e := by
  simp only [BitVec.getLsbD_append, BitVec.getLsbD_ofBool]; simp

/-- The size of ld (R57). -/
theorem ld_size (e : Bool) (s : BitVec 2) (m : BitVec 7) : ((0 : BitVec 1) ++ BitVec.ofBool e ++ s ++ (0 : BitVec 3) ++ m).extractLsb' 10 2 = s := by
  apply BitVec.eq_of_getLsbD_eq
  intro i hi
  simp only [BitVec.getLsbD_extractLsb', BitVec.getLsbD_append, BitVec.getLsbD_ofBool]
  interval_cases i <;> simp

/-- The unused bits of ld (R57). -/
theorem ld_zero (e : Bool) (s : BitVec 2) (m : BitVec 7) : ((0 : BitVec 1) ++ BitVec.ofBool e ++ s ++ (0 : BitVec 3) ++ m).extractLsb' 7 3 = 0 := by
  apply BitVec.eq_of_getLsbD_eq
  intro i hi
  simp only [BitVec.getLsbD_extractLsb', BitVec.getLsbD_append, BitVec.getLsbD_ofBool]
  interval_cases i <;> simp

/-- The offset of ld (R57). -/
theorem ld_imm (e : Bool) (s : BitVec 2) (m : BitVec 7) : ((0 : BitVec 1) ++ BitVec.ofBool e ++ s ++ (0 : BitVec 3) ++ m).extractLsb' 0 7 = m := by
  apply BitVec.eq_of_getLsbD_eq
  intro i hi
  simp only [BitVec.getLsbD_extractLsb', BitVec.getLsbD_append, BitVec.getLsbD_ofBool]
  interval_cases i <;> simp

/-- The top bit of st (R57). -/
theorem st_top (e : Bool) (s : BitVec 2) (c : BitVec 3) (m : BitVec 7) : ((0 : BitVec 1) ++ BitVec.ofBool e ++ s ++ c ++ m).getLsbD 13 = false := by
  simp only [BitVec.getLsbD_append, BitVec.getLsbD_ofBool]; simp

/-- DEF of st (R57). -/
theorem st_def (e : Bool) (s : BitVec 2) (c : BitVec 3) (m : BitVec 7) : ((0 : BitVec 1) ++ BitVec.ofBool e ++ s ++ c ++ m).getLsbD 12 = e := by
  simp only [BitVec.getLsbD_append, BitVec.getLsbD_ofBool]; simp

/-- The size of st (R57). -/
theorem st_size (e : Bool) (s : BitVec 2) (c : BitVec 3) (m : BitVec 7) : ((0 : BitVec 1) ++ BitVec.ofBool e ++ s ++ c ++ m).extractLsb' 10 2 = s := by
  apply BitVec.eq_of_getLsbD_eq
  intro i hi
  simp only [BitVec.getLsbD_extractLsb', BitVec.getLsbD_append, BitVec.getLsbD_ofBool]
  interval_cases i <;> simp

/-- The colour of st (R57). -/
theorem st_colour (e : Bool) (s : BitVec 2) (c : BitVec 3) (m : BitVec 7) : ((0 : BitVec 1) ++ BitVec.ofBool e ++ s ++ c ++ m).extractLsb' 7 3 = c := by
  apply BitVec.eq_of_getLsbD_eq
  intro i hi
  simp only [BitVec.getLsbD_extractLsb', BitVec.getLsbD_append, BitVec.getLsbD_ofBool]
  interval_cases i <;> simp

/-- The offset of st (R57). -/
theorem st_imm (e : Bool) (s : BitVec 2) (c : BitVec 3) (m : BitVec 7) : ((0 : BitVec 1) ++ BitVec.ofBool e ++ s ++ c ++ m).extractLsb' 0 7 = m := by
  apply BitVec.eq_of_getLsbD_eq
  intro i hi
  simp only [BitVec.getLsbD_extractLsb', BitVec.getLsbD_append, BitVec.getLsbD_ofBool]
  interval_cases i <;> simp

/-- The number of a CSR (R55). -/
theorem csr_number (c : BitVec 12) (m : BitVec 2) : (c ++ m).extractLsb' 2 12 = c := by
  apply BitVec.eq_of_getLsbD_eq
  intro i hi
  simp only [BitVec.getLsbD_extractLsb', BitVec.getLsbD_append]
  interval_cases i <;> simp

/-- The operation on a CSR (R55). -/
theorem csr_op (c : BitVec 12) (m : BitVec 2) : (c ++ m).extractLsb' 0 2 = m := by
  apply BitVec.eq_of_getLsbD_eq
  intro i hi
  simp only [BitVec.getLsbD_extractLsb', BitVec.getLsbD_append]
  interval_cases i <;> simp

/-- The operation of a shift (R55). -/
theorem shift_op (m : BitVec 2) (n : BitVec 6) : (m ++ (0 : BitVec 6) ++ n).extractLsb' 12 2 = m := by
  apply BitVec.eq_of_getLsbD_eq
  intro i hi
  simp only [BitVec.getLsbD_extractLsb', BitVec.getLsbD_append]
  interval_cases i <;> simp

/-- The unused bits of a shift (R55). -/
theorem shift_zero (m : BitVec 2) (n : BitVec 6) : (m ++ (0 : BitVec 6) ++ n).extractLsb' 6 6 = 0 := by
  apply BitVec.eq_of_getLsbD_eq
  intro i hi
  simp only [BitVec.getLsbD_extractLsb', BitVec.getLsbD_append]
  interval_cases i <;> simp

/-- The count of a shift (R55). -/
theorem shift_count (m : BitVec 2) (n : BitVec 6) : (m ++ (0 : BitVec 6) ++ n).extractLsb' 0 6 = n := by
  apply BitVec.eq_of_getLsbD_eq
  intro i hi
  simp only [BitVec.getLsbD_extractLsb', BitVec.getLsbD_append]
  interval_cases i <;> simp

/-- The top bit before a 13-bit immediate (R55). -/
theorem imm13_op (m : BitVec 1) (n : BitVec 13) : (m ++ n).getLsbD 13 = m.getLsbD 0 := by
  simp only [BitVec.getLsbD_append]; simp

/-- A 13-bit immediate (R55). -/
theorem imm13_low (m : BitVec 1) (n : BitVec 13) : (m ++ n).extractLsb' 0 13 = n := by
  apply BitVec.eq_of_getLsbD_eq
  intro i hi
  simp only [BitVec.getLsbD_extractLsb', BitVec.getLsbD_append]
  interval_cases i <;> simp

/-- The top bit before a 13-bit immediate (R55). -/
theorem imm13_first (m : BitVec 1) (n : BitVec 13) : (m ++ n).extractLsb' 13 1 = m := by
  apply BitVec.eq_of_getLsbD_eq
  intro i hi
  simp only [BitVec.getLsbD_extractLsb', BitVec.getLsbD_append]
  interval_cases i; simp

/-- The scale of lea (R55). -/
theorem lea_low (n : BitVec 2) : ((0 : BitVec 7) ++ n).extractLsb' 0 2 = n := by
  apply BitVec.eq_of_getLsbD_eq
  intro i hi
  simp only [BitVec.getLsbD_extractLsb', BitVec.getLsbD_append]
  interval_cases i <;> simp

/-- The bits above the scale of lea (R55). -/
theorem lea_high (n : BitVec 2) : ((0 : BitVec 7) ++ n).extractLsb' 2 7 = 0 := by
  apply BitVec.eq_of_getLsbD_eq
  intro i hi
  simp only [BitVec.getLsbD_extractLsb', BitVec.getLsbD_append]
  interval_cases i <;> simp

/-- A 15-bit field spread over d, a and b. -/
theorem join15 (v : BitVec 15) : v.extractLsb' 10 5 ++ v.extractLsb' 5 5 ++ v.extractLsb' 0 5 = v := by
  apply BitVec.eq_of_getLsbD_eq
  intro i hi
  simp only [BitVec.getLsbD_extractLsb', BitVec.getLsbD_append]
  interval_cases i <;> simp

/-- The mask of fence (R57). -/
theorem fence_mask (m : BitVec 8) (s : BitVec 3) : (m ++ s ++ (0 : BitVec 4)).extractLsb' 7 8 = m := by
  apply BitVec.eq_of_getLsbD_eq
  intro i hi
  simp only [BitVec.getLsbD_extractLsb', BitVec.getLsbD_append]
  interval_cases i <;> simp

/-- The scope of fence (R57). -/
theorem fence_scope (m : BitVec 8) (s : BitVec 3) : (m ++ s ++ (0 : BitVec 4)).extractLsb' 4 3 = s := by
  apply BitVec.eq_of_getLsbD_eq
  intro i hi
  simp only [BitVec.getLsbD_extractLsb', BitVec.getLsbD_append]
  interval_cases i <;> simp

/-- The unused bits of fence (R57). -/
theorem fence_zero (m : BitVec 8) (s : BitVec 3) : (m ++ s ++ (0 : BitVec 4)).extractLsb' 0 4 = 0 := by
  apply BitVec.eq_of_getLsbD_eq
  intro i hi
  simp only [BitVec.getLsbD_extractLsb', BitVec.getLsbD_append]
  interval_cases i <;> simp

/-- The third source of vfma (R58). -/
theorem vfma_c (c : Reg) (k : MaskReg) (n : Bool) : (c ++ k ++ BitVec.ofBool n).extractLsb' 4 5 = c := by
  apply BitVec.eq_of_getLsbD_eq
  intro i hi
  simp only [BitVec.getLsbD_extractLsb', BitVec.getLsbD_append, BitVec.getLsbD_ofBool]
  interval_cases i <;> simp

/-- The mask of vfma (R58). -/
theorem vfma_k (c : Reg) (k : MaskReg) (n : Bool) : (c ++ k ++ BitVec.ofBool n).extractLsb' 1 3 = k := by
  apply BitVec.eq_of_getLsbD_eq
  intro i hi
  simp only [BitVec.getLsbD_extractLsb', BitVec.getLsbD_append, BitVec.getLsbD_ofBool]
  interval_cases i <;> simp

/-- NEG of vfma (R58). -/
theorem vfma_neg (c : Reg) (k : MaskReg) (n : Bool) : (c ++ k ++ BitVec.ofBool n).getLsbD 0 = n := by
  simp only [BitVec.getLsbD_append, BitVec.getLsbD_ofBool]; simp

/-- The bits above a part number are 0. -/
theorem part_high (p : BitVec 3) : ((0 : BitVec 2) ++ p).extractLsb' 3 2 = 0 := by revert p; decide

/-- A part number in a 5-bit field. -/
theorem part_low (p : BitVec 3) : ((0 : BitVec 2) ++ p).extractLsb' 0 3 = p := by revert p; decide

/-- A tail that carries no stamp is a tail that R48 admits. -/
theorem tailUntimed_wf (t : Option Tail) (h : tailUntimed t) : tailWf t ∧ ∀ u ∈ t, u.timed.isSome = false := by
  cases t <;> simp_all [tailUntimed, tailWf]

/-- The tail of tload (R46, R48, R155). -/
theorem tailUncoloured_wf (t : Option Tail) (h : tailUncoloured t) :
    tailWf t ∧ ∀ u ∈ t, (u.timed.isSome || u.colour != 0) = false := by
  cases t <;> simp_all [tailUncoloured, tailWf]

/-- A tail that carries semaphores only is a tail that R48 admits. -/
theorem tailSems_wf (t : Option Tail) (h : tailSems t) : tailWf t ∧ ∀ u ∈ t,
    (u.acquire || u.release || u.scope != 0 || u.colour != 0 || u.timed.isSome) = false := by
  cases t <;> simp_all [tailSems, tailWf, Tail.wf]

/-- The fields of a selector and its modifier bits, as one set of equations for simp. -/
theorem fieldsS :
    (∀ (s : BitVec 4) (m : BitVec 5), (fnS s m).extractLsb' 5 4 = s)
      ∧ (∀ (s : BitVec 4) (m : BitVec 5), (fnS s m).extractLsb' 0 5 = m)
      ∧ (∀ (b : Bool), ((0 : BitVec 4) ++ BitVec.ofBool b).getLsbD 0 = b)
      ∧ (∀ (b : Bool), ((0 : BitVec 4) ++ BitVec.ofBool b).extractLsb' 1 4 = 0)
      ∧ (∀ (m : BitVec 2) (c : BitVec 3), (m ++ c).extractLsb' 3 2 = m)
      ∧ (∀ (m : BitVec 2) (c : BitVec 3), (m ++ c).extractLsb' 0 3 = c)
      ∧ (∀ (d a l : Bool) (s : BitVec 2), (BitVec.ofBool d ++ BitVec.ofBool a ++ BitVec.ofBool l ++ s).getLsbD 4 = d)
      ∧ (∀ (d a l : Bool) (s : BitVec 2), (BitVec.ofBool d ++ BitVec.ofBool a ++ BitVec.ofBool l ++ s).getLsbD 3 = a)
      ∧ (∀ (d a l : Bool) (s : BitVec 2), (BitVec.ofBool d ++ BitVec.ofBool a ++ BitVec.ofBool l ++ s).getLsbD 2 = l)
      ∧ (∀ (d a l : Bool) (s : BitVec 2), (BitVec.ofBool d ++ BitVec.ofBool a ++ BitVec.ofBool l ++ s).extractLsb' 0 2 = s)
      ∧ (∀ (t l f : Bool), ((0 : BitVec 2) ++ BitVec.ofBool t ++ BitVec.ofBool l ++ BitVec.ofBool f).getLsbD 2 = t)
      ∧ (∀ (t l f : Bool), ((0 : BitVec 2) ++ BitVec.ofBool t ++ BitVec.ofBool l ++ BitVec.ofBool f).getLsbD 1 = l)
      ∧ (∀ (t l f : Bool), ((0 : BitVec 2) ++ BitVec.ofBool t ++ BitVec.ofBool l ++ BitVec.ofBool f).getLsbD 0 = f)
      ∧ (∀ (t l f : Bool), ((0 : BitVec 2) ++ BitVec.ofBool t ++ BitVec.ofBool l ++ BitVec.ofBool f).getLsbD 3 = false)
      ∧ (∀ (t l f : Bool), ((0 : BitVec 2) ++ BitVec.ofBool t ++ BitVec.ofBool l ++ BitVec.ofBool f).getLsbD 4 = false)
      ∧ (∀ (t l f : Bool), ((0 : BitVec 2) ++ BitVec.ofBool t ++ BitVec.ofBool l ++ BitVec.ofBool f).extractLsb' 3 2 = 0)
      ∧ (∀ (s : BitVec 2), ((0 : BitVec 3) ++ s).extractLsb' 0 2 = s)
      ∧ (∀ (s : BitVec 2), ((0 : BitVec 3) ++ s).extractLsb' 2 3 = 0) :=
  ⟨fnS_sel,
    fnS_mods,
    one_bit,
    one_rest,
    mode_high,
    mode_low,
    amo_dbl,
    amo_acquire,
    amo_release,
    amo_scope,
    three_bit_two,
    three_bit_one,
    three_bit_zero,
    three_bit_three,
    three_bit_four,
    three_rest,
    shape_low,
    shape_high⟩

/-- The fields of format V, as one set of equations for simp. -/
theorem fieldsV :
    (∀ (k : MaskReg) (a b : Bool) (op : BitVec 4), (fnV k a b op).extractLsb' 0 4 = op)
      ∧ (∀ (k : MaskReg) (a b : Bool) (op : BitVec 4), (fnV k a b op).extractLsb' 6 3 = k)
      ∧ (∀ (k : MaskReg) (a b : Bool) (op : BitVec 4), (fnV k a b op).getLsbD 5 = a)
      ∧ (∀ (k : MaskReg) (a b : Bool) (op : BitVec 4), (fnV k a b op).getLsbD 4 = b)
      ∧ (∀ (k : MaskReg), (maskField k).extractLsb' 0 3 = k)
      ∧ (∀ (k : MaskReg), (maskField k).extractLsb' 3 2 = 0)
      ∧ (∀ (c : Reg) (k : MaskReg) (n : Bool), (c ++ k ++ BitVec.ofBool n).extractLsb' 4 5 = c)
      ∧ (∀ (c : Reg) (k : MaskReg) (n : Bool), (c ++ k ++ BitVec.ofBool n).extractLsb' 1 3 = k)
      ∧ (∀ (c : Reg) (k : MaskReg) (n : Bool), (c ++ k ++ BitVec.ofBool n).getLsbD 0 = n)
      ∧ (∀ (p : BitVec 3), ((0 : BitVec 2) ++ p).extractLsb' 3 2 = 0)
      ∧ (∀ (p : BitVec 3), ((0 : BitVec 2) ++ p).extractLsb' 0 3 = p) :=
  ⟨fnV_op,
    fnV_k,
    fnV_pa,
    fnV_pb,
    maskField_low,
    maskField_high,
    vfma_c,
    vfma_k,
    vfma_neg,
    part_high,
    part_low⟩

/-- The fields of spread immediates, as one set of equations for simp. -/
theorem fieldsI :
    (∀ (v : BitVec 14), v.extractLsb' 9 5 ++ v.extractLsb' 0 9 = v)
      ∧ (∀ (v : BitVec 19), v.extractLsb' 14 5 ++ v.extractLsb' 9 5 ++ v.extractLsb' 0 9 = v)
      ∧ (∀ (v : BitVec 24), v.extractLsb' 19 5 ++ v.extractLsb' 14 5 ++ v.extractLsb' 9 5 ++ v.extractLsb' 0 9 = v)
      ∧ (∀ (v : BitVec 10), v.extractLsb' 5 5 ++ v.extractLsb' 0 5 = v)
      ∧ (∀ (e : Bool) (s : BitVec 2) (m : BitVec 7), ((0 : BitVec 1) ++ BitVec.ofBool e ++ s ++ (0 : BitVec 3) ++ m).getLsbD 13 = false)
      ∧ (∀ (e : Bool) (s : BitVec 2) (m : BitVec 7), ((0 : BitVec 1) ++ BitVec.ofBool e ++ s ++ (0 : BitVec 3) ++ m).getLsbD 12 = e)
      ∧ (∀ (e : Bool) (s : BitVec 2) (m : BitVec 7), ((0 : BitVec 1) ++ BitVec.ofBool e ++ s ++ (0 : BitVec 3) ++ m).extractLsb' 10 2 = s)
      ∧ (∀ (e : Bool) (s : BitVec 2) (m : BitVec 7), ((0 : BitVec 1) ++ BitVec.ofBool e ++ s ++ (0 : BitVec 3) ++ m).extractLsb' 7 3 = 0)
      ∧ (∀ (e : Bool) (s : BitVec 2) (m : BitVec 7), ((0 : BitVec 1) ++ BitVec.ofBool e ++ s ++ (0 : BitVec 3) ++ m).extractLsb' 0 7 = m)
      ∧ (∀ (e : Bool) (s : BitVec 2) (c : BitVec 3) (m : BitVec 7), ((0 : BitVec 1) ++ BitVec.ofBool e ++ s ++ c ++ m).getLsbD 13 = false)
      ∧ (∀ (e : Bool) (s : BitVec 2) (c : BitVec 3) (m : BitVec 7), ((0 : BitVec 1) ++ BitVec.ofBool e ++ s ++ c ++ m).getLsbD 12 = e)
      ∧ (∀ (e : Bool) (s : BitVec 2) (c : BitVec 3) (m : BitVec 7), ((0 : BitVec 1) ++ BitVec.ofBool e ++ s ++ c ++ m).extractLsb' 10 2 = s)
      ∧ (∀ (e : Bool) (s : BitVec 2) (c : BitVec 3) (m : BitVec 7), ((0 : BitVec 1) ++ BitVec.ofBool e ++ s ++ c ++ m).extractLsb' 7 3 = c)
      ∧ (∀ (e : Bool) (s : BitVec 2) (c : BitVec 3) (m : BitVec 7), ((0 : BitVec 1) ++ BitVec.ofBool e ++ s ++ c ++ m).extractLsb' 0 7 = m)
      ∧ (∀ (c : BitVec 12) (m : BitVec 2), (c ++ m).extractLsb' 2 12 = c)
      ∧ (∀ (c : BitVec 12) (m : BitVec 2), (c ++ m).extractLsb' 0 2 = m)
      ∧ (∀ (m : BitVec 2) (n : BitVec 6), (m ++ (0 : BitVec 6) ++ n).extractLsb' 12 2 = m)
      ∧ (∀ (m : BitVec 2) (n : BitVec 6), (m ++ (0 : BitVec 6) ++ n).extractLsb' 6 6 = 0)
      ∧ (∀ (m : BitVec 2) (n : BitVec 6), (m ++ (0 : BitVec 6) ++ n).extractLsb' 0 6 = n)
      ∧ (∀ (m : BitVec 1) (n : BitVec 13), (m ++ n).getLsbD 13 = m.getLsbD 0)
      ∧ (∀ (m : BitVec 1) (n : BitVec 13), (m ++ n).extractLsb' 0 13 = n)
      ∧ (∀ (m : BitVec 1) (n : BitVec 13), (m ++ n).extractLsb' 13 1 = m)
      ∧ (∀ (n : BitVec 2), ((0 : BitVec 7) ++ n).extractLsb' 0 2 = n)
      ∧ (∀ (n : BitVec 2), ((0 : BitVec 7) ++ n).extractLsb' 2 7 = 0)
      ∧ (∀ (v : BitVec 15), v.extractLsb' 10 5 ++ v.extractLsb' 5 5 ++ v.extractLsb' 0 5 = v)
      ∧ (∀ (m : BitVec 8) (s : BitVec 3), (m ++ s ++ (0 : BitVec 4)).extractLsb' 7 8 = m)
      ∧ (∀ (m : BitVec 8) (s : BitVec 3), (m ++ s ++ (0 : BitVec 4)).extractLsb' 4 3 = s)
      ∧ (∀ (m : BitVec 8) (s : BitVec 3), (m ++ s ++ (0 : BitVec 4)).extractLsb' 0 4 = 0) :=
  ⟨join14,
    join19,
    join24,
    join10,
    ld_top,
    ld_se,
    ld_size,
    ld_zero,
    ld_imm,
    st_top,
    st_def,
    st_size,
    st_colour,
    st_imm,
    csr_number,
    csr_op,
    shift_op,
    shift_zero,
    shift_count,
    imm13_op,
    imm13_low,
    imm13_first,
    lea_low,
    lea_high,
    join15,
    fence_mask,
    fence_scope,
    fence_zero⟩

/-- The derived fields of a word, as one set of equations for simp. -/
theorem wordFields (r : RWord) :
    r.sel = (r.fn.extractLsb' 5 4).toNat ∧ r.mods = r.fn.extractLsb' 0 5 ∧ r.op = (r.fn.extractLsb' 0 4).toNat
      ∧ r.k = r.fn.extractLsb' 6 3 ∧ r.pa = r.fn.getLsbD 5 ∧ r.pb = r.fn.getLsbD 4 ∧ r.imm14 = r.b ++ r.fn :=
  ⟨rfl, rfl, rfl, rfl, rfl, rfl, rfl⟩

end Sys2Proof
end

