-- ==== Sys2Proof/Laws/PerInstr.lean ====
section
/-! SUPPORT. Laws stated once for each constructor of Instr: an instruction's words decode to it (R42 to R60). -/

set_option Elab.async false

namespace Sys2Proof

/-- A well-formed instruction's word, with its tail behind it where it has one, decodes to it in every stream whose map
holds it; an event has no word. -/
def Laws.Roundtrip.Statement (i : Instr) : Prop :=
  i.wf = true → ∀ e, encode i = some e → ∀ (x : Bool) (next : Word), (∀ y ∈ e.stream, y = x) →
    (∀ t ∈ e.tail, next = t.toWord) → decodeWord x e.word.toWord next = .ok i

/-- The statement of an instruction without a tail, from its row. -/
theorem Laws.roundtrip_plain {i : Instr} {x0 : Option Bool} {r : RWord} {row : Row} (h : encode i = some ⟨x0, r, none⟩)
    (hr : ∀ x, (∀ y ∈ x0, y = x) → rowOf x r = .ok row) (he : r.e = false)
    (hv : i.wf → row.badVal = false ∧ row.badField = false ∧ row.build r.s none = i) : Roundtrip.Statement i := by
  intro hw e h' x next hx hn
  obtain rfl := Option.some.inj (h.symm.trans h')
  obtain ⟨h1, h2, h3⟩ := hv hw
  simp only [decodeWord, RWord.ofWord_toWord, decodeR, hr x hx, row.decode_plain r next h1 h2 he, h3]

/-- The statement of a queued command, from its row. -/
theorem Laws.roundtrip_tailed {i : Instr} {r : RWord} {t : Option Tail} {row : Row}
    (h : encode i = some ⟨some false, r, t⟩) (hr : rowOf false r = .ok row) (he : r.e = t.isSome)
    (ht : row.tailed = true)
    (hv : i.wf → row.badVal = false ∧ row.badField = false ∧ tailWf t ∧ (∀ u ∈ t, row.badTail u = false)
      ∧ row.build r.s t = i) : Roundtrip.Statement i := by
  intro hw e h' x next hx hn
  obtain rfl := Option.some.inj (h.symm.trans h')
  obtain ⟨h1, h2, h3, h4, h5⟩ := hv hw
  obtain rfl := hx false rfl
  simp only [decodeWord, RWord.ofWord_toWord, decodeR, hr, row.decode_tailed r t next h1 h2 ht h3 h4 he hn, h5]

/-- An instruction without a word. -/
theorem Laws.roundtrip_event {i : Instr} (h : encode i = none) : Roundtrip.Statement i := by
  intro _ e he
  rw [h] at he
  cases he

theorem Laws.Roundtrip.add (o : R3) : Roundtrip.Statement (.add o) :=
  roundtrip_plain rfl (fun _ _ => rfl) rfl fun _ => ⟨rfl, rfl, rfl⟩

theorem Laws.Roundtrip.sub (o : R3) : Roundtrip.Statement (.sub o) :=
  roundtrip_plain rfl (fun _ _ => rfl) rfl fun _ => ⟨rfl, rfl, rfl⟩

theorem Laws.Roundtrip.and (o : R3) : Roundtrip.Statement (.and o) :=
  roundtrip_plain rfl (fun _ _ => rfl) rfl fun _ => ⟨rfl, rfl, rfl⟩

theorem Laws.Roundtrip.or (o : R3) : Roundtrip.Statement (.or o) :=
  roundtrip_plain rfl (fun _ _ => rfl) rfl fun _ => ⟨rfl, rfl, rfl⟩

theorem Laws.Roundtrip.xor (o : R3) : Roundtrip.Statement (.xor o) :=
  roundtrip_plain rfl (fun _ _ => rfl) rfl fun _ => ⟨rfl, rfl, rfl⟩

theorem Laws.Roundtrip.shl (o : R3) : Roundtrip.Statement (.shl o) :=
  roundtrip_plain rfl (fun _ _ => rfl) rfl fun _ => ⟨rfl, rfl, rfl⟩

theorem Laws.Roundtrip.shr (o : R3) : Roundtrip.Statement (.shr o) :=
  roundtrip_plain rfl (fun _ _ => rfl) rfl fun _ => ⟨rfl, rfl, rfl⟩

theorem Laws.Roundtrip.sra (o : R3) : Roundtrip.Statement (.sra o) :=
  roundtrip_plain rfl (fun _ _ => rfl) rfl fun _ => ⟨rfl, rfl, rfl⟩

theorem Laws.Roundtrip.mul (o : R3) : Roundtrip.Statement (.mul o) :=
  roundtrip_plain rfl (fun _ _ => rfl) rfl fun _ => ⟨rfl, rfl, rfl⟩

theorem Laws.Roundtrip.mulh (o : R3) : Roundtrip.Statement (.mulh o) :=
  roundtrip_plain rfl (fun _ _ => rfl) rfl fun _ => ⟨rfl, rfl, rfl⟩

theorem Laws.Roundtrip.mulhu (o : R3) : Roundtrip.Statement (.mulhu o) :=
  roundtrip_plain rfl (fun _ _ => rfl) rfl fun _ => ⟨rfl, rfl, rfl⟩

theorem Laws.Roundtrip.div (o : R3) : Roundtrip.Statement (.div o) :=
  roundtrip_plain rfl (fun _ _ => rfl) rfl fun _ => ⟨rfl, rfl, rfl⟩

theorem Laws.Roundtrip.divu (o : R3) : Roundtrip.Statement (.divu o) :=
  roundtrip_plain rfl (fun _ _ => rfl) rfl fun _ => ⟨rfl, rfl, rfl⟩

theorem Laws.Roundtrip.rem (o : R3) : Roundtrip.Statement (.rem o) :=
  roundtrip_plain rfl (fun _ _ => rfl) rfl fun _ => ⟨rfl, rfl, rfl⟩

theorem Laws.Roundtrip.remu (o : R3) : Roundtrip.Statement (.remu o) :=
  roundtrip_plain rfl (fun _ _ => rfl) rfl fun _ => ⟨rfl, rfl, rfl⟩

theorem Laws.Roundtrip.min (o : R3) : Roundtrip.Statement (.min o) :=
  roundtrip_plain rfl (fun _ _ => rfl) rfl fun _ => ⟨rfl, rfl, rfl⟩

theorem Laws.Roundtrip.max (o : R3) : Roundtrip.Statement (.max o) :=
  roundtrip_plain rfl (fun _ _ => rfl) rfl fun _ => ⟨rfl, rfl, rfl⟩

theorem Laws.Roundtrip.minu (o : R3) : Roundtrip.Statement (.minu o) :=
  roundtrip_plain rfl (fun _ _ => rfl) rfl fun _ => ⟨rfl, rfl, rfl⟩

theorem Laws.Roundtrip.maxu (o : R3) : Roundtrip.Statement (.maxu o) :=
  roundtrip_plain rfl (fun _ _ => rfl) rfl fun _ => ⟨rfl, rfl, rfl⟩

theorem Laws.Roundtrip.slt (o : R3) : Roundtrip.Statement (.slt o) :=
  roundtrip_plain rfl (fun _ _ => rfl) rfl fun _ => ⟨rfl, rfl, rfl⟩

theorem Laws.Roundtrip.sltu (o : R3) : Roundtrip.Statement (.sltu o) :=
  roundtrip_plain rfl (fun _ _ => rfl) rfl fun _ => ⟨rfl, rfl, rfl⟩

theorem Laws.Roundtrip.clz (o : R2) : Roundtrip.Statement (.clz o) :=
  roundtrip_plain rfl (fun _ _ => rfl) rfl fun _ => ⟨rfl, rfl, rfl⟩

theorem Laws.Roundtrip.popc (o : R2) : Roundtrip.Statement (.popc o) :=
  roundtrip_plain rfl (fun _ _ => rfl) rfl fun _ => ⟨rfl, rfl, rfl⟩

theorem Laws.Roundtrip.addi (o : RI) : Roundtrip.Statement (.addi o) :=
  roundtrip_plain rfl (fun _ _ => rfl) rfl fun _ => ⟨rfl, rfl, by simp only [wordFields, fieldsI]⟩

theorem Laws.Roundtrip.andi (o : RI) : Roundtrip.Statement (.andi o) :=
  roundtrip_plain rfl (fun _ _ => rfl) rfl fun _ => ⟨rfl, rfl, by simp only [wordFields, fieldsI]⟩

theorem Laws.Roundtrip.ori (o : RI) : Roundtrip.Statement (.ori o) :=
  roundtrip_plain rfl (fun _ _ => rfl) rfl fun _ => ⟨rfl, rfl, by simp only [wordFields, fieldsI]⟩

theorem Laws.Roundtrip.xori (o : RI) : Roundtrip.Statement (.xori o) :=
  roundtrip_plain rfl (fun _ _ => rfl) rfl fun _ => ⟨rfl, rfl, by simp only [wordFields, fieldsI]⟩

theorem Laws.Roundtrip.shli (o : RSh) : Roundtrip.Statement (.shli o) :=
  roundtrip_plain rfl
    (fun _ _ => by simp only [rowOf, rowShared, rowMajor0, rowMajor5, rowMajor6, rowMajor21, wordFields, fieldsI]; rfl) rfl
    fun _ => ⟨by rfl, by rfl, by rfl⟩

theorem Laws.Roundtrip.shri (o : RSh) : Roundtrip.Statement (.shri o) :=
  roundtrip_plain rfl
    (fun _ _ => by simp only [rowOf, rowShared, rowMajor0, rowMajor5, rowMajor6, rowMajor21, wordFields, fieldsI]; rfl) rfl
    fun _ => ⟨by rfl, by rfl, by rfl⟩

theorem Laws.Roundtrip.srai (o : RSh) : Roundtrip.Statement (.srai o) :=
  roundtrip_plain rfl
    (fun _ _ => by simp only [rowOf, rowShared, rowMajor0, rowMajor5, rowMajor6, rowMajor21, wordFields, fieldsI]; rfl) rfl
    fun _ => ⟨by rfl, by rfl, by rfl⟩

theorem Laws.Roundtrip.slti (o : RI13) : Roundtrip.Statement (.slti o) :=
  roundtrip_plain rfl
    (fun _ _ => by simp only [rowOf, rowShared, rowMajor0, rowMajor5, rowMajor6, rowMajor21, wordFields, fieldsI]; rfl) rfl
    fun _ => ⟨by rfl, by rfl, by rfl⟩

theorem Laws.Roundtrip.sltiu (o : RI13) : Roundtrip.Statement (.sltiu o) :=
  roundtrip_plain rfl
    (fun _ _ => by simp only [rowOf, rowShared, rowMajor0, rowMajor5, rowMajor6, rowMajor21, wordFields, fieldsI]; rfl) rfl
    fun _ => ⟨by rfl, by rfl, by rfl⟩

theorem Laws.Roundtrip.lui (o : RU) : Roundtrip.Statement (.lui o) :=
  roundtrip_plain rfl (fun _ _ => rfl) rfl fun _ => ⟨rfl, rfl, by simp only [fieldsI]⟩

theorem Laws.Roundtrip.auipc (o : RU) : Roundtrip.Statement (.auipc o) :=
  roundtrip_plain rfl (fun _ _ => rfl) rfl fun _ => ⟨rfl, rfl, by simp only [fieldsI]⟩

theorem Laws.Roundtrip.lea (o : RLea) : Roundtrip.Statement (.lea o) :=
  roundtrip_plain rfl (fun _ _ => rfl) rfl
    fun _ => ⟨by simp only [fieldsI]; rfl, rfl, by simp only [fieldsI]⟩

theorem Laws.Roundtrip.beq (o : RBr) : Roundtrip.Statement (.beq o) :=
  roundtrip_plain rfl (fun _ _ => rfl) rfl fun _ => ⟨rfl, rfl, by simp only [wordFields, fieldsI]⟩

theorem Laws.Roundtrip.bne (o : RBr) : Roundtrip.Statement (.bne o) :=
  roundtrip_plain rfl (fun _ _ => rfl) rfl fun _ => ⟨rfl, rfl, by simp only [wordFields, fieldsI]⟩

theorem Laws.Roundtrip.blt (o : RBr) : Roundtrip.Statement (.blt o) :=
  roundtrip_plain rfl (fun _ _ => rfl) rfl fun _ => ⟨rfl, rfl, by simp only [wordFields, fieldsI]⟩

theorem Laws.Roundtrip.bge (o : RBr) : Roundtrip.Statement (.bge o) :=
  roundtrip_plain rfl (fun _ _ => rfl) rfl fun _ => ⟨rfl, rfl, by simp only [wordFields, fieldsI]⟩

theorem Laws.Roundtrip.bltu (o : RBr) : Roundtrip.Statement (.bltu o) :=
  roundtrip_plain rfl (fun _ _ => rfl) rfl fun _ => ⟨rfl, rfl, by simp only [wordFields, fieldsI]⟩

theorem Laws.Roundtrip.bgeu (o : RBr) : Roundtrip.Statement (.bgeu o) :=
  roundtrip_plain rfl (fun _ _ => rfl) rfl fun _ => ⟨rfl, rfl, by simp only [wordFields, fieldsI]⟩

theorem Laws.Roundtrip.jal (o : RJ) : Roundtrip.Statement (.jal o) :=
  roundtrip_plain rfl (fun _ _ => rfl) rfl fun _ => ⟨rfl, rfl, by simp only [fieldsI]⟩

theorem Laws.Roundtrip.jalr (o : RI) : Roundtrip.Statement (.jalr o) :=
  roundtrip_plain rfl (fun _ _ => rfl) rfl fun _ => ⟨rfl, rfl, by simp only [wordFields, fieldsI]⟩

theorem Laws.Roundtrip.loop (o : RLoop) : Roundtrip.Statement (.loop o) :=
  roundtrip_plain rfl (fun _ _ => rfl) rfl fun _ => ⟨rfl, rfl, by simp only [wordFields, fieldsI]⟩

theorem Laws.Roundtrip.loopi (o : RLoopI) : Roundtrip.Statement (.loopi o) :=
  roundtrip_plain rfl
    (fun _ _ => by simp only [rowOf, rowShared, rowMajor0, rowMajor5, rowMajor6, rowMajor21, wordFields, fieldsI]; rfl) rfl
    fun hw => ⟨by simp only [Instr.wf] at hw ⊢; grind, by rfl, by rfl⟩

theorem Laws.Roundtrip.cqpush (o : RA) : Roundtrip.Statement (.cqpush o) :=
  roundtrip_plain rfl
    (fun _ _ => by simp only [rowOf, rowShared, rowMajor0, rowMajor5, rowMajor6, rowMajor21, wordFields, fieldsS]; rfl) rfl
    fun _ => ⟨by rfl, by rfl, by rfl⟩

theorem Laws.Roundtrip.cqpop (o : RD) : Roundtrip.Statement (.cqpop o) :=
  roundtrip_plain rfl
    (fun _ _ => by simp only [rowOf, rowShared, rowMajor0, rowMajor5, rowMajor6, rowMajor21, wordFields, fieldsS]; rfl) rfl
    fun _ => ⟨by rfl, by rfl, by rfl⟩

theorem Laws.Roundtrip.csrr (o : RCsrR) : Roundtrip.Statement (.csrr o) :=
  roundtrip_plain rfl
    (fun _ _ => by simp only [rowOf, rowShared, rowMajor0, rowMajor5, rowMajor6, rowMajor21, wordFields, fieldsI]; rfl) rfl
    fun _ => ⟨by rfl, by rfl, by rfl⟩

theorem Laws.Roundtrip.csrw (o : RCsr) : Roundtrip.Statement (.csrw o) :=
  roundtrip_plain rfl
    (fun _ _ => by simp only [rowOf, rowShared, rowMajor0, rowMajor5, rowMajor6, rowMajor21, wordFields, fieldsI]; rfl) rfl
    fun _ => ⟨by rfl, by rfl, by rfl⟩

theorem Laws.Roundtrip.csrs (o : RCsr) : Roundtrip.Statement (.csrs o) :=
  roundtrip_plain rfl
    (fun _ _ => by simp only [rowOf, rowShared, rowMajor0, rowMajor5, rowMajor6, rowMajor21, wordFields, fieldsI]; rfl) rfl
    fun _ => ⟨by rfl, by rfl, by rfl⟩

theorem Laws.Roundtrip.csrc (o : RCsr) : Roundtrip.Statement (.csrc o) :=
  roundtrip_plain rfl
    (fun _ _ => by simp only [rowOf, rowShared, rowMajor0, rowMajor5, rowMajor6, rowMajor21, wordFields, fieldsI]; rfl) rfl
    fun _ => ⟨by rfl, by rfl, by rfl⟩

theorem Laws.Roundtrip.nop (o : R0) : Roundtrip.Statement (.nop o) :=
  roundtrip_plain rfl
    (fun _ _ => by simp only [rowOf, rowShared, rowMajor0, rowMajor5, rowMajor6, rowMajor21, wordFields, fieldsS]; rfl) rfl
    fun _ => ⟨by rfl, by rfl, by rfl⟩

theorem Laws.Roundtrip.trap (o : RCode) : Roundtrip.Statement (.trap o) :=
  roundtrip_plain rfl
    (fun _ _ => by simp only [rowOf, rowShared, rowMajor0, rowMajor5, rowMajor6, rowMajor21, wordFields, fieldsS]; rfl) rfl
    fun _ => ⟨by rfl, by rfl, by simp only [wordFields, fieldsS]⟩

theorem Laws.Roundtrip.eret (o : R0) : Roundtrip.Statement (.eret o) :=
  roundtrip_plain rfl
    (fun _ _ => by simp only [rowOf, rowShared, rowMajor0, rowMajor5, rowMajor6, rowMajor21, wordFields, fieldsS]; rfl) rfl
    fun _ => ⟨by rfl, by rfl, by rfl⟩

theorem Laws.Roundtrip.brk (o : RCode) : Roundtrip.Statement (.brk o) :=
  roundtrip_plain rfl
    (fun _ _ => by simp only [rowOf, rowShared, rowMajor0, rowMajor5, rowMajor6, rowMajor21, wordFields, fieldsS]; rfl) rfl
    fun _ => ⟨by rfl, by rfl, by simp only [wordFields, fieldsS]⟩

theorem Laws.Roundtrip.wait (o : RA) : Roundtrip.Statement (.wait o) :=
  roundtrip_plain rfl
    (fun _ _ => by simp only [rowOf, rowShared, rowMajor0, rowMajor5, rowMajor6, rowMajor21, wordFields, fieldsS]; rfl) rfl
    fun _ => ⟨by rfl, by rfl, by rfl⟩

theorem Laws.Roundtrip.ld (o : MLd) : Roundtrip.Statement (.ld o) :=
  roundtrip_plain rfl
    (fun x hx => by obtain rfl := hx false rfl; simp only [rowOf, rowC, rowMajor34, rowMajor35, rowMajor37, rowMajor38, wordFields, fieldsI]; rfl) rfl
    fun hw => ⟨by simp only [Instr.wf] at hw ⊢; grind, by rfl, by rfl⟩

theorem Laws.Roundtrip.st (o : MSt) : Roundtrip.Statement (.st o) :=
  roundtrip_plain rfl
    (fun x hx => by obtain rfl := hx false rfl; simp only [rowOf, rowC, rowMajor34, rowMajor35, rowMajor37, rowMajor38, wordFields, fieldsI]; rfl) rfl
    fun hw => ⟨by rfl, by simp only [Instr.wf] at hw ⊢; grind, by rfl⟩

theorem Laws.Roundtrip.amoAdd (o : RAmo) : Roundtrip.Statement (.amoAdd o) :=
  roundtrip_plain rfl
    (fun x hx => by obtain rfl := hx false rfl; simp only [rowOf, rowC, rowMajor34, rowMajor35, rowMajor37, rowMajor38, wordFields, fieldsS]; rfl) rfl
    fun hw => ⟨by rfl, by simp only [Instr.wf, RAmo.wf] at hw ⊢; grind, by rfl⟩

theorem Laws.Roundtrip.amoAnd (o : RAmo) : Roundtrip.Statement (.amoAnd o) :=
  roundtrip_plain rfl
    (fun x hx => by obtain rfl := hx false rfl; simp only [rowOf, rowC, rowMajor34, rowMajor35, rowMajor37, rowMajor38, wordFields, fieldsS]; rfl) rfl
    fun hw => ⟨by rfl, by simp only [Instr.wf, RAmo.wf] at hw ⊢; grind, by rfl⟩

theorem Laws.Roundtrip.amoOr (o : RAmo) : Roundtrip.Statement (.amoOr o) :=
  roundtrip_plain rfl
    (fun x hx => by obtain rfl := hx false rfl; simp only [rowOf, rowC, rowMajor34, rowMajor35, rowMajor37, rowMajor38, wordFields, fieldsS]; rfl) rfl
    fun hw => ⟨by rfl, by simp only [Instr.wf, RAmo.wf] at hw ⊢; grind, by rfl⟩

theorem Laws.Roundtrip.amoXor (o : RAmo) : Roundtrip.Statement (.amoXor o) :=
  roundtrip_plain rfl
    (fun x hx => by obtain rfl := hx false rfl; simp only [rowOf, rowC, rowMajor34, rowMajor35, rowMajor37, rowMajor38, wordFields, fieldsS]; rfl) rfl
    fun hw => ⟨by rfl, by simp only [Instr.wf, RAmo.wf] at hw ⊢; grind, by rfl⟩

theorem Laws.Roundtrip.amoSwap (o : RAmo) : Roundtrip.Statement (.amoSwap o) :=
  roundtrip_plain rfl
    (fun x hx => by obtain rfl := hx false rfl; simp only [rowOf, rowC, rowMajor34, rowMajor35, rowMajor37, rowMajor38, wordFields, fieldsS]; rfl) rfl
    fun hw => ⟨by rfl, by simp only [Instr.wf, RAmo.wf] at hw ⊢; grind, by rfl⟩

theorem Laws.Roundtrip.amoMin (o : RAmo) : Roundtrip.Statement (.amoMin o) :=
  roundtrip_plain rfl
    (fun x hx => by obtain rfl := hx false rfl; simp only [rowOf, rowC, rowMajor34, rowMajor35, rowMajor37, rowMajor38, wordFields, fieldsS]; rfl) rfl
    fun hw => ⟨by rfl, by simp only [Instr.wf, RAmo.wf] at hw ⊢; grind, by rfl⟩

theorem Laws.Roundtrip.amoMax (o : RAmo) : Roundtrip.Statement (.amoMax o) :=
  roundtrip_plain rfl
    (fun x hx => by obtain rfl := hx false rfl; simp only [rowOf, rowC, rowMajor34, rowMajor35, rowMajor37, rowMajor38, wordFields, fieldsS]; rfl) rfl
    fun hw => ⟨by rfl, by simp only [Instr.wf, RAmo.wf] at hw ⊢; grind, by rfl⟩

theorem Laws.Roundtrip.amoMinu (o : RAmo) : Roundtrip.Statement (.amoMinu o) :=
  roundtrip_plain rfl
    (fun x hx => by obtain rfl := hx false rfl; simp only [rowOf, rowC, rowMajor34, rowMajor35, rowMajor37, rowMajor38, wordFields, fieldsS]; rfl) rfl
    fun hw => ⟨by rfl, by simp only [Instr.wf, RAmo.wf] at hw ⊢; grind, by rfl⟩

theorem Laws.Roundtrip.amoMaxu (o : RAmo) : Roundtrip.Statement (.amoMaxu o) :=
  roundtrip_plain rfl
    (fun x hx => by obtain rfl := hx false rfl; simp only [rowOf, rowC, rowMajor34, rowMajor35, rowMajor37, rowMajor38, wordFields, fieldsS]; rfl) rfl
    fun hw => ⟨by rfl, by simp only [Instr.wf, RAmo.wf] at hw ⊢; grind, by rfl⟩

theorem Laws.Roundtrip.amoCas (o : RAmo) : Roundtrip.Statement (.amoCas o) :=
  roundtrip_plain rfl
    (fun x hx => by obtain rfl := hx false rfl; simp only [rowOf, rowC, rowMajor34, rowMajor35, rowMajor37, rowMajor38, wordFields, fieldsS]; rfl) rfl
    fun hw => ⟨by rfl, by simp only [Instr.wf, RAmo.wf] at hw ⊢; grind, by rfl⟩

theorem Laws.Roundtrip.amoFadd (o : RAmoF) : Roundtrip.Statement (.amoFadd o) :=
  roundtrip_plain rfl
    (fun x hx => by obtain rfl := hx false rfl; simp only [rowOf, rowC, rowMajor34, rowMajor35, rowMajor37, rowMajor38, wordFields, fieldsS]; rfl) rfl
    fun hw => ⟨by rfl, by simp only [Instr.wf, RAmoF.wf] at hw ⊢; grind, by rfl⟩

theorem Laws.Roundtrip.amoFmin (o : RAmoF) : Roundtrip.Statement (.amoFmin o) :=
  roundtrip_plain rfl
    (fun x hx => by obtain rfl := hx false rfl; simp only [rowOf, rowC, rowMajor34, rowMajor35, rowMajor37, rowMajor38, wordFields, fieldsS]; rfl) rfl
    fun hw => ⟨by rfl, by simp only [Instr.wf, RAmoF.wf] at hw ⊢; grind, by rfl⟩

theorem Laws.Roundtrip.amoFmax (o : RAmoF) : Roundtrip.Statement (.amoFmax o) :=
  roundtrip_plain rfl
    (fun x hx => by obtain rfl := hx false rfl; simp only [rowOf, rowC, rowMajor34, rowMajor35, rowMajor37, rowMajor38, wordFields, fieldsS]; rfl) rfl
    fun hw => ⟨by rfl, by simp only [Instr.wf, RAmoF.wf] at hw ⊢; grind, by rfl⟩

theorem Laws.Roundtrip.fence (o : RFence) : Roundtrip.Statement (.fence o) :=
  roundtrip_plain rfl
    (fun x hx => by obtain rfl := hx false rfl; simp only [rowOf, rowC, rowMajor34, rowMajor35, rowMajor37, rowMajor38, wordFields, fieldsS, fieldsI]; rfl) rfl
    fun hw => ⟨by simp only [Instr.wf] at hw ⊢; grind, by rfl, by rfl⟩

theorem Laws.Roundtrip.cinv (o : RAB) : Roundtrip.Statement (.cinv o) :=
  roundtrip_plain rfl
    (fun x hx => by obtain rfl := hx false rfl; simp only [rowOf, rowC, rowMajor34, rowMajor35, rowMajor37, rowMajor38, wordFields, fieldsS]; rfl) rfl
    fun _ => ⟨by rfl, by rfl, by rfl⟩

theorem Laws.Roundtrip.cwb (o : RAB) : Roundtrip.Statement (.cwb o) :=
  roundtrip_plain rfl
    (fun x hx => by obtain rfl := hx false rfl; simp only [rowOf, rowC, rowMajor34, rowMajor35, rowMajor37, rowMajor38, wordFields, fieldsS]; rfl) rfl
    fun _ => ⟨by rfl, by rfl, by rfl⟩

theorem Laws.Roundtrip.l2hint (o : RAB) : Roundtrip.Statement (.l2hint o) :=
  roundtrip_plain rfl
    (fun x hx => by obtain rfl := hx false rfl; simp only [rowOf, rowC, rowMajor34, rowMajor35, rowMajor37, rowMajor38, wordFields, fieldsS]; rfl) rfl
    fun _ => ⟨by rfl, by rfl, by rfl⟩

theorem Laws.Roundtrip.l2hintDemote (o : RAB) : Roundtrip.Statement (.l2hintDemote o) :=
  roundtrip_plain rfl
    (fun x hx => by obtain rfl := hx false rfl; simp only [rowOf, rowC, rowMajor34, rowMajor35, rowMajor37, rowMajor38, wordFields, fieldsS]; rfl) rfl
    fun _ => ⟨by rfl, by rfl, by rfl⟩

theorem Laws.Roundtrip.qrd (o : R3) : Roundtrip.Statement (.qrd o) :=
  roundtrip_plain rfl
    (fun x hx => by obtain rfl := hx false rfl; simp only [rowOf, rowC, rowMajor34, rowMajor35, rowMajor37, rowMajor38, wordFields, fieldsS]; rfl) rfl
    fun hw => ⟨by simp only [Instr.wf] at hw ⊢; grind, by rfl, by rfl⟩

theorem Laws.Roundtrip.qrdh (o : R3) : Roundtrip.Statement (.qrdh o) :=
  roundtrip_plain rfl
    (fun x hx => by obtain rfl := hx false rfl; simp only [rowOf, rowC, rowMajor34, rowMajor35, rowMajor37, rowMajor38, wordFields, fieldsS]; rfl) rfl
    fun hw => ⟨by simp only [Instr.wf] at hw ⊢; grind, by rfl, by rfl⟩

theorem Laws.Roundtrip.qwr (o : R3) : Roundtrip.Statement (.qwr o) :=
  roundtrip_plain rfl
    (fun x hx => by obtain rfl := hx false rfl; simp only [rowOf, rowC, rowMajor34, rowMajor35, rowMajor37, rowMajor38, wordFields, fieldsS]; rfl) rfl
    fun hw => ⟨by simp only [Instr.wf] at hw ⊢; grind, by rfl, by rfl⟩

theorem Laws.Roundtrip.xld (o : CCopy) : Roundtrip.Statement (.xld o) :=
  roundtrip_tailed rfl
    (by simp only [rowOf, rowC, rowMajor34, rowMajor35, rowMajor37, rowMajor38, wordFields, fieldsS]; rfl) rfl rfl
    fun hw => ⟨by rfl, by rfl, hw, fun _ _ => rfl, by rfl⟩

theorem Laws.Roundtrip.xldDec (o : CCopy) : Roundtrip.Statement (.xldDec o) :=
  roundtrip_tailed rfl
    (by simp only [rowOf, rowC, rowMajor34, rowMajor35, rowMajor37, rowMajor38, wordFields, fieldsS]; rfl) rfl rfl
    fun hw => ⟨by rfl, by rfl, hw, fun _ _ => rfl, by rfl⟩

theorem Laws.Roundtrip.xldVfy (o : CCopy) : Roundtrip.Statement (.xldVfy o) :=
  roundtrip_tailed rfl
    (by simp only [rowOf, rowC, rowMajor34, rowMajor35, rowMajor37, rowMajor38, wordFields, fieldsS]; rfl) rfl rfl
    fun hw => ⟨by rfl, by rfl, hw, fun _ _ => rfl, by rfl⟩

theorem Laws.Roundtrip.xst (o : CCopy) : Roundtrip.Statement (.xst o) :=
  roundtrip_tailed rfl
    (by simp only [rowOf, rowC, rowMajor34, rowMajor35, rowMajor37, rowMajor38, wordFields, fieldsS]; rfl) rfl rfl
    fun hw => ⟨by rfl, by rfl, hw, fun _ _ => rfl, by rfl⟩

theorem Laws.Roundtrip.xcp (o : CCopy) : Roundtrip.Statement (.xcp o) :=
  roundtrip_tailed rfl
    (by simp only [rowOf, rowC, rowMajor34, rowMajor35, rowMajor37, rowMajor38, wordFields, fieldsS]; rfl) rfl rfl
    fun hw => ⟨by rfl, by rfl, hw, fun _ _ => rfl, by rfl⟩

theorem Laws.Roundtrip.xcpScl (o : CCopy) : Roundtrip.Statement (.xcpScl o) :=
  roundtrip_tailed rfl
    (by simp only [rowOf, rowC, rowMajor34, rowMajor35, rowMajor37, rowMajor38, wordFields, fieldsS]; rfl) rfl rfl
    fun hw => ⟨by rfl, by rfl, hw, fun _ _ => rfl, by rfl⟩

theorem Laws.Roundtrip.xcpVfy (o : CCopy) : Roundtrip.Statement (.xcpVfy o) :=
  roundtrip_tailed rfl
    (by simp only [rowOf, rowC, rowMajor34, rowMajor35, rowMajor37, rowMajor38, wordFields, fieldsS]; rfl) rfl rfl
    fun hw => ⟨by rfl, by rfl, hw, fun _ _ => rfl, by rfl⟩

theorem Laws.Roundtrip.xdrain (o : CCh) : Roundtrip.Statement (.xdrain o) :=
  roundtrip_plain rfl
    (fun x hx => by obtain rfl := hx false rfl; simp only [rowOf, rowC, rowMajor34, rowMajor35, rowMajor37, rowMajor38, wordFields, fieldsS]; rfl) rfl
    fun _ => ⟨by rfl, by rfl, by rfl⟩

theorem Laws.Roundtrip.xcur (o : CCur) : Roundtrip.Statement (.xcur o) :=
  roundtrip_plain rfl
    (fun x hx => by obtain rfl := hx false rfl; simp only [rowOf, rowC, rowMajor34, rowMajor35, rowMajor37, rowMajor38, wordFields, fieldsS]; rfl) rfl
    fun _ => ⟨by rfl, by rfl, by rfl⟩

theorem Laws.Roundtrip.xcfg (o : CCfg) : Roundtrip.Statement (.xcfg o) :=
  roundtrip_plain rfl
    (fun x hx => by obtain rfl := hx false rfl; simp only [rowOf, rowC, rowMajor34, rowMajor35, rowMajor37, rowMajor38, wordFields, fieldsS]; rfl) rfl
    fun _ => ⟨by rfl, by rfl, by rfl⟩

theorem Laws.Roundtrip.mlw (o : CMlw) : Roundtrip.Statement (.mlw o) :=
  roundtrip_tailed rfl
    (by simp only [rowOf, rowC, rowMajor34, rowMajor35, rowMajor37, rowMajor38, wordFields, fieldsS]; rfl) rfl rfl
    fun hw => ⟨by rfl, by rfl, hw, fun _ _ => rfl, by rfl⟩

theorem Laws.Roundtrip.mswap (o : C0) : Roundtrip.Statement (.mswap o) :=
  roundtrip_tailed rfl
    (by simp only [rowOf, rowC, rowMajor34, rowMajor35, rowMajor37, rowMajor38, wordFields, fieldsS]; rfl) rfl rfl
    fun hw => ⟨by rfl, by rfl, hw, fun _ _ => rfl, by rfl⟩

theorem Laws.Roundtrip.mmul (o : CMmul) : Roundtrip.Statement (.mmul o) :=
  roundtrip_tailed rfl
    (by simp only [rowOf, rowC, rowMajor34, rowMajor35, rowMajor37, rowMajor38, wordFields, fieldsS]; rfl) rfl rfl
    fun hw => ⟨by rfl, by rfl, hw, fun _ _ => rfl, by rfl⟩

theorem Laws.Roundtrip.mmulSmax (o : C3) : Roundtrip.Statement (.mmulSmax o) :=
  roundtrip_tailed rfl
    (by simp only [rowOf, rowC, rowMajor34, rowMajor35, rowMajor37, rowMajor38, wordFields, fieldsS]; rfl) rfl rfl
    fun hw => ⟨by rfl, by rfl, hw, fun _ _ => rfl, by rfl⟩

theorem Laws.Roundtrip.mst (o : CMst) : Roundtrip.Statement (.mst o) :=
  roundtrip_tailed rfl
    (by simp only [rowOf, rowC, rowMajor34, rowMajor35, rowMajor37, rowMajor38, wordFields, fieldsS]; rfl) rfl rfl
    fun hw => ⟨by rfl, by rfl, hw, fun _ _ => rfl, by rfl⟩

theorem Laws.Roundtrip.mzero (o : C1) : Roundtrip.Statement (.mzero o) :=
  roundtrip_tailed rfl
    (by simp only [rowOf, rowC, rowMajor34, rowMajor35, rowMajor37, rowMajor38, wordFields, fieldsS]; rfl) rfl rfl
    fun hw => ⟨by rfl, by rfl, hw, fun _ _ => rfl, by rfl⟩

theorem Laws.Roundtrip.mlora (o : C2) : Roundtrip.Statement (.mlora o) :=
  roundtrip_tailed rfl
    (by simp only [rowOf, rowC, rowMajor34, rowMajor35, rowMajor37, rowMajor38, wordFields, fieldsS]; rfl) rfl rfl
    fun hw => ⟨by rfl, by rfl, hw, fun _ _ => rfl, by rfl⟩

theorem Laws.Roundtrip.mloraClr (o : CB) : Roundtrip.Statement (.mloraClr o) :=
  roundtrip_tailed rfl
    (by simp only [rowOf, rowC, rowMajor34, rowMajor35, rowMajor37, rowMajor38, wordFields, fieldsS]; rfl) rfl rfl
    fun hw => ⟨by rfl, by rfl, hw, fun _ _ => rfl, by rfl⟩

theorem Laws.Roundtrip.mamap (o : C3) : Roundtrip.Statement (.mamap o) :=
  roundtrip_tailed rfl
    (by simp only [rowOf, rowC, rowMajor34, rowMajor35, rowMajor37, rowMajor38, wordFields, fieldsS]; rfl) rfl rfl
    fun hw => ⟨by rfl, by rfl, hw, fun _ _ => rfl, by rfl⟩

theorem Laws.Roundtrip.mfuse (o : CFuse) : Roundtrip.Statement (.mfuse o) := fun hw => by
  have hs : (o.shape == 0) = false := by
    have := hw
    simp only [Instr.wf, Bool.and_eq_true] at this
    simpa using this.2
  refine roundtrip_tailed rfl (row := { build := fun s t => .mfuse ⟨o.shape, t, s⟩, tailed := true }) ?_ rfl rfl
    (fun hw => ⟨rfl, rfl, ?_, fun _ _ => rfl, rfl⟩) hw
  · simp only [rowOf, rowC, rowMajor38, wordFields, fieldsS, hs]
    rfl
  · simp only [Instr.wf, Bool.and_eq_true] at hw
    exact hw.1

theorem Laws.Roundtrip.mfuseOff (o : C0) : Roundtrip.Statement (.mfuseOff o) :=
  roundtrip_tailed rfl
    (by simp only [rowOf, rowC, rowMajor34, rowMajor35, rowMajor37, rowMajor38, wordFields, fieldsS]; rfl) rfl rfl
    fun hw => ⟨by rfl, by rfl, hw, fun _ _ => rfl, by rfl⟩

theorem Laws.Roundtrip.attn (o : C1) : Roundtrip.Statement (.attn o) :=
  roundtrip_tailed rfl (by simp only [rowOf, rowC, wordFields, fieldsS]; rfl) rfl rfl
    fun hw => ⟨rfl, rfl, (tailUntimed_wf _ hw).1, (tailUntimed_wf _ hw).2, rfl⟩

theorem Laws.Roundtrip.hview (o : R3) : Roundtrip.Statement (.hview o) :=
  roundtrip_plain rfl
    (fun x hx => by obtain rfl := hx false rfl; simp only [rowOf, rowC, rowMajor34, rowMajor35, rowMajor37, rowMajor38, wordFields, fieldsS]; rfl) rfl
    fun _ => ⟨by rfl, by rfl, by rfl⟩

theorem Laws.Roundtrip.hchk (o : R3) : Roundtrip.Statement (.hchk o) :=
  roundtrip_plain rfl
    (fun x hx => by obtain rfl := hx false rfl; simp only [rowOf, rowC, rowMajor34, rowMajor35, rowMajor37, rowMajor38, wordFields, fieldsS]; rfl) rfl
    fun _ => ⟨by rfl, by rfl, by rfl⟩

theorem Laws.Roundtrip.hqry (o : R3) : Roundtrip.Statement (.hqry o) :=
  roundtrip_plain rfl
    (fun x hx => by obtain rfl := hx false rfl; simp only [rowOf, rowC, rowMajor34, rowMajor35, rowMajor37, rowMajor38, wordFields, fieldsS]; rfl) rfl
    fun _ => ⟨by rfl, by rfl, by rfl⟩

theorem Laws.Roundtrip.balloc (o : R3) : Roundtrip.Statement (.balloc o) :=
  roundtrip_plain rfl
    (fun x hx => by obtain rfl := hx false rfl; simp only [rowOf, rowC, rowMajor34, rowMajor35, rowMajor37, rowMajor38, wordFields, fieldsS]; rfl) rfl
    fun _ => ⟨by rfl, by rfl, by rfl⟩

theorem Laws.Roundtrip.bfree (o : R2) : Roundtrip.Statement (.bfree o) :=
  roundtrip_plain rfl
    (fun x hx => by obtain rfl := hx false rfl; simp only [rowOf, rowC, rowMajor34, rowMajor35, rowMajor37, rowMajor38, wordFields, fieldsS]; rfl) rfl
    fun _ => ⟨by rfl, by rfl, by rfl⟩

theorem Laws.Roundtrip.btrim (o : R3) : Roundtrip.Statement (.btrim o) :=
  roundtrip_plain rfl
    (fun x hx => by obtain rfl := hx false rfl; simp only [rowOf, rowC, rowMajor34, rowMajor35, rowMajor37, rowMajor38, wordFields, fieldsS]; rfl) rfl
    fun _ => ⟨by rfl, by rfl, by rfl⟩

theorem Laws.Roundtrip.bfork (o : R3) : Roundtrip.Statement (.bfork o) :=
  roundtrip_plain rfl
    (fun x hx => by obtain rfl := hx false rfl; simp only [rowOf, rowC, rowMajor34, rowMajor35, rowMajor37, rowMajor38, wordFields, fieldsS]; rfl) rfl
    fun _ => ⟨by rfl, by rfl, by rfl⟩

theorem Laws.Roundtrip.bstat (o : R3) : Roundtrip.Statement (.bstat o) :=
  roundtrip_plain rfl
    (fun x hx => by obtain rfl := hx false rfl; simp only [rowOf, rowC, rowMajor34, rowMajor35, rowMajor37, rowMajor38, wordFields, fieldsS]; rfl) rfl
    fun _ => ⟨by rfl, by rfl, by rfl⟩

theorem Laws.Roundtrip.bkfill (o : C3) : Roundtrip.Statement (.bkfill o) :=
  roundtrip_tailed rfl (by simp only [rowOf, rowC, wordFields, fieldsS]; rfl) rfl rfl
    fun hw => ⟨rfl, rfl, (tailSems_wf _ hw).1, (tailSems_wf _ hw).2, rfl⟩

theorem Laws.Roundtrip.aadmit (o : R2) : Roundtrip.Statement (.aadmit o) :=
  roundtrip_plain rfl
    (fun x hx => by obtain rfl := hx false rfl; simp only [rowOf, rowC, rowMajor34, rowMajor35, rowMajor37, rowMajor38, wordFields, fieldsS]; rfl) rfl
    fun _ => ⟨by rfl, by rfl, by rfl⟩

theorem Laws.Roundtrip.aresolve (o : R3) : Roundtrip.Statement (.aresolve o) :=
  roundtrip_plain rfl
    (fun x hx => by obtain rfl := hx false rfl; simp only [rowOf, rowC, rowMajor34, rowMajor35, rowMajor37, rowMajor38, wordFields, fieldsS]; rfl) rfl
    fun _ => ⟨by rfl, by rfl, by rfl⟩

theorem Laws.Roundtrip.arel (o : RA) : Roundtrip.Statement (.arel o) :=
  roundtrip_plain rfl
    (fun x hx => by obtain rfl := hx false rfl; simp only [rowOf, rowC, rowMajor34, rowMajor35, rowMajor37, rowMajor38, wordFields, fieldsS]; rfl) rfl
    fun _ => ⟨by rfl, by rfl, by rfl⟩

theorem Laws.Roundtrip.apublish (o : R3) : Roundtrip.Statement (.apublish o) :=
  roundtrip_plain rfl
    (fun x hx => by obtain rfl := hx false rfl; simp only [rowOf, rowC, rowMajor34, rowMajor35, rowMajor37, rowMajor38, wordFields, fieldsS]; rfl) rfl
    fun _ => ⟨by rfl, by rfl, by rfl⟩

theorem Laws.Roundtrip.aclaim (o : R3) : Roundtrip.Statement (.aclaim o) :=
  roundtrip_plain rfl
    (fun x hx => by obtain rfl := hx false rfl; simp only [rowOf, rowC, rowMajor34, rowMajor35, rowMajor37, rowMajor38, wordFields, fieldsS]; rfl) rfl
    fun _ => ⟨by rfl, by rfl, by rfl⟩

theorem Laws.Roundtrip.probe (o : RProbe) : Roundtrip.Statement (.probe o) :=
  roundtrip_plain rfl
    (fun x hx => by obtain rfl := hx false rfl; simp only [rowOf, rowC, rowMajor34, rowMajor35, rowMajor37, rowMajor38, wordFields, fieldsI]; rfl) rfl
    fun _ => ⟨by rfl, by rfl, by rfl⟩

theorem Laws.Roundtrip.pinv (o : R2) : Roundtrip.Statement (.pinv o) :=
  roundtrip_plain rfl
    (fun x hx => by obtain rfl := hx false rfl; simp only [rowOf, rowC, rowMajor34, rowMajor35, rowMajor37, rowMajor38, wordFields, fieldsI]; rfl) rfl
    fun _ => ⟨by rfl, by rfl, by rfl⟩

theorem Laws.Roundtrip.phreg (o : RAB) : Roundtrip.Statement (.phreg o) :=
  roundtrip_plain rfl
    (fun x hx => by obtain rfl := hx false rfl; simp only [rowOf, rowC, rowMajor34, rowMajor35, rowMajor37, rowMajor38, wordFields, fieldsS]; rfl) rfl
    fun _ => ⟨by rfl, by rfl, by rfl⟩

theorem Laws.Roundtrip.phdrop (o : RA) : Roundtrip.Statement (.phdrop o) :=
  roundtrip_plain rfl
    (fun x hx => by obtain rfl := hx false rfl; simp only [rowOf, rowC, rowMajor34, rowMajor35, rowMajor37, rowMajor38, wordFields, fieldsS]; rfl) rfl
    fun _ => ⟨by rfl, by rfl, by rfl⟩

theorem Laws.Roundtrip.phsig (o : RA) : Roundtrip.Statement (.phsig o) :=
  roundtrip_plain rfl
    (fun x hx => by obtain rfl := hx false rfl; simp only [rowOf, rowC, rowMajor34, rowMajor35, rowMajor37, rowMajor38, wordFields, fieldsS]; rfl) rfl
    fun _ => ⟨by rfl, by rfl, by rfl⟩

theorem Laws.Roundtrip.phwait (o : RA) : Roundtrip.Statement (.phwait o) :=
  roundtrip_plain rfl
    (fun x hx => by obtain rfl := hx false rfl; simp only [rowOf, rowC, rowMajor34, rowMajor35, rowMajor37, rowMajor38, wordFields, fieldsS]; rfl) rfl
    fun _ => ⟨by rfl, by rfl, by rfl⟩

theorem Laws.Roundtrip.phadv (o : RA) : Roundtrip.Statement (.phadv o) :=
  roundtrip_plain rfl
    (fun x hx => by obtain rfl := hx false rfl; simp only [rowOf, rowC, rowMajor34, rowMajor35, rowMajor37, rowMajor38, wordFields, fieldsS]; rfl) rfl
    fun _ => ⟨by rfl, by rfl, by rfl⟩

theorem Laws.Roundtrip.phqry (o : R2) : Roundtrip.Statement (.phqry o) :=
  roundtrip_plain rfl
    (fun x hx => by obtain rfl := hx false rfl; simp only [rowOf, rowC, rowMajor34, rowMajor35, rowMajor37, rowMajor38, wordFields, fieldsS]; rfl) rfl
    fun _ => ⟨by rfl, by rfl, by rfl⟩

theorem Laws.Roundtrip.phqryM (o : R2) : Roundtrip.Statement (.phqryM o) :=
  roundtrip_plain rfl
    (fun x hx => by obtain rfl := hx false rfl; simp only [rowOf, rowC, rowMajor34, rowMajor35, rowMajor37, rowMajor38, wordFields, fieldsS]; rfl) rfl
    fun _ => ⟨by rfl, by rfl, by rfl⟩

theorem Laws.Roundtrip.semset (o : SSet) : Roundtrip.Statement (.semset o) :=
  roundtrip_plain rfl
    (fun x hx => by obtain rfl := hx false rfl; simp only [rowOf, rowC, rowMajor34, rowMajor35, rowMajor37, rowMajor38, wordFields, fieldsS]; rfl) rfl
    fun _ => ⟨by rfl, by rfl, by rfl⟩

theorem Laws.Roundtrip.semsig (o : SN) : Roundtrip.Statement (.semsig o) :=
  roundtrip_plain rfl
    (fun x hx => by obtain rfl := hx false rfl; simp only [rowOf, rowC, rowMajor34, rowMajor35, rowMajor37, rowMajor38, wordFields, fieldsS]; rfl) rfl
    fun _ => ⟨by rfl, by rfl, by rfl⟩

theorem Laws.Roundtrip.semwait (o : SN) : Roundtrip.Statement (.semwait o) :=
  roundtrip_plain rfl
    (fun x hx => by obtain rfl := hx false rfl; simp only [rowOf, rowC, rowMajor34, rowMajor35, rowMajor37, rowMajor38, wordFields, fieldsS]; rfl) rfl
    fun _ => ⟨by rfl, by rfl, by rfl⟩

theorem Laws.Roundtrip.semrd (o : SRd) : Roundtrip.Statement (.semrd o) :=
  roundtrip_plain rfl
    (fun x hx => by obtain rfl := hx false rfl; simp only [rowOf, rowC, rowMajor34, rowMajor35, rowMajor37, rowMajor38, wordFields, fieldsS]; rfl) rfl
    fun _ => ⟨by rfl, by rfl, by rfl⟩

theorem Laws.Roundtrip.nyield (o : RAB) : Roundtrip.Statement (.nyield o) :=
  roundtrip_plain rfl
    (fun x hx => by obtain rfl := hx false rfl; simp only [rowOf, rowC, rowMajor34, rowMajor35, rowMajor37, rowMajor38, wordFields, fieldsS]; rfl) rfl
    fun _ => ⟨by rfl, by rfl, by rfl⟩

theorem Laws.Roundtrip.ndone (o : R0) : Roundtrip.Statement (.ndone o) :=
  roundtrip_plain rfl
    (fun x hx => by obtain rfl := hx false rfl; simp only [rowOf, rowC, rowMajor34, rowMajor35, rowMajor37, rowMajor38, wordFields, fieldsS]; rfl) rfl
    fun _ => ⟨by rfl, by rfl, by rfl⟩

theorem Laws.Roundtrip.ndoneAbort (o : RA) : Roundtrip.Statement (.ndoneAbort o) :=
  roundtrip_plain rfl
    (fun x hx => by obtain rfl := hx false rfl; simp only [rowOf, rowC, rowMajor34, rowMajor35, rowMajor37, rowMajor38, wordFields, fieldsS]; rfl) rfl
    fun _ => ⟨by rfl, by rfl, by rfl⟩

theorem Laws.Roundtrip.npark (o : RAB) : Roundtrip.Statement (.npark o) :=
  roundtrip_plain rfl
    (fun x hx => by obtain rfl := hx false rfl; simp only [rowOf, rowC, rowMajor34, rowMajor35, rowMajor37, rowMajor38, wordFields, fieldsS]; rfl) rfl
    fun _ => ⟨by rfl, by rfl, by rfl⟩

theorem Laws.Roundtrip.nspawn (o : R3) : Roundtrip.Statement (.nspawn o) :=
  roundtrip_plain rfl
    (fun x hx => by obtain rfl := hx false rfl; simp only [rowOf, rowC, rowMajor34, rowMajor35, rowMajor37, rowMajor38, wordFields, fieldsS]; rfl) rfl
    fun _ => ⟨by rfl, by rfl, by rfl⟩

theorem Laws.Roundtrip.ndep (o : R2) : Roundtrip.Statement (.ndep o) :=
  roundtrip_plain rfl
    (fun x hx => by obtain rfl := hx false rfl; simp only [rowOf, rowC, rowMajor34, rowMajor35, rowMajor37, rowMajor38, wordFields, fieldsS]; rfl) rfl
    fun _ => ⟨by rfl, by rfl, by rfl⟩

theorem Laws.Roundtrip.ndepRel (o : R2) : Roundtrip.Statement (.ndepRel o) :=
  roundtrip_plain rfl
    (fun x hx => by obtain rfl := hx false rfl; simp only [rowOf, rowC, rowMajor34, rowMajor35, rowMajor37, rowMajor38, wordFields, fieldsS]; rfl) rfl
    fun _ => ⟨by rfl, by rfl, by rfl⟩

theorem Laws.Roundtrip.grpjoin (o : RAB) : Roundtrip.Statement (.grpjoin o) :=
  roundtrip_plain rfl
    (fun x hx => by obtain rfl := hx false rfl; simp only [rowOf, rowC, rowMajor34, rowMajor35, rowMajor37, rowMajor38, wordFields, fieldsS]; rfl) rfl
    fun _ => ⟨by rfl, by rfl, by rfl⟩

theorem Laws.Roundtrip.grpleave (o : R0) : Roundtrip.Statement (.grpleave o) :=
  roundtrip_plain rfl
    (fun x hx => by obtain rfl := hx false rfl; simp only [rowOf, rowC, rowMajor34, rowMajor35, rowMajor37, rowMajor38, wordFields, fieldsS]; rfl) rfl
    fun _ => ⟨by rfl, by rfl, by rfl⟩

theorem Laws.Roundtrip.tload (o : CTload) : Roundtrip.Statement (.tload o) :=
  roundtrip_tailed rfl (by simp only [rowOf, rowC, wordFields, fieldsS]; rfl) rfl rfl fun hw =>
    ⟨rfl,
    by simp only []; rfl, (tailUncoloured_wf _ hw).1, (tailUncoloured_wf _ hw).2,
    by simp only []⟩

theorem Laws.Roundtrip.tinval (o : CB) : Roundtrip.Statement (.tinval o) :=
  roundtrip_tailed rfl (by simp only [rowOf, rowC, wordFields, fieldsS]; rfl) rfl rfl fun hw =>
    ⟨rfl,
    by simp only []; rfl, (tailUntimed_wf _ hw).1, (tailUntimed_wf _ hw).2,
    by simp only []⟩

theorem Laws.Roundtrip.tinvalSh (o : CB) : Roundtrip.Statement (.tinvalSh o) :=
  roundtrip_tailed rfl (by simp only [rowOf, rowC, wordFields, fieldsS]; rfl) rfl rfl fun hw =>
    ⟨rfl,
    by simp only []; rfl, (tailUntimed_wf _ hw).1, (tailUntimed_wf _ hw).2,
    by simp only []⟩

theorem Laws.Roundtrip.tqry (o : R2) : Roundtrip.Statement (.tqry o) :=
  roundtrip_plain rfl
    (fun x hx => by obtain rfl := hx false rfl; simp only [rowOf, rowC, rowMajor34, rowMajor35, rowMajor37, rowMajor38, wordFields, fieldsS]; rfl) rfl
    fun _ => ⟨by rfl, by rfl, by rfl⟩

theorem Laws.Roundtrip.vadd (o : V3) : Roundtrip.Statement (.vadd o) :=
  roundtrip_plain rfl
    (fun x hx => by obtain rfl := hx true rfl; simp only [rowOf, rowX, rowMasks, rowMoves, wordFields, fieldsV]; rfl) rfl fun hw =>
    ⟨by simp only [Instr.wf, V3.wf] at hw ⊢; grind,
    by rfl,
    by simp only [wordFields, fieldsV]⟩

theorem Laws.Roundtrip.vsub (o : V3) : Roundtrip.Statement (.vsub o) :=
  roundtrip_plain rfl
    (fun x hx => by obtain rfl := hx true rfl; simp only [rowOf, rowX, rowMasks, rowMoves, wordFields, fieldsV]; rfl) rfl fun hw =>
    ⟨by simp only [Instr.wf, V3.wf] at hw ⊢; grind,
    by rfl,
    by simp only [wordFields, fieldsV]⟩

theorem Laws.Roundtrip.vmul (o : V3) : Roundtrip.Statement (.vmul o) :=
  roundtrip_plain rfl
    (fun x hx => by obtain rfl := hx true rfl; simp only [rowOf, rowX, rowMasks, rowMoves, wordFields, fieldsV]; rfl) rfl fun hw =>
    ⟨by simp only [Instr.wf, V3.wf] at hw ⊢; grind,
    by rfl,
    by simp only [wordFields, fieldsV]⟩

theorem Laws.Roundtrip.vmulh (o : V3) : Roundtrip.Statement (.vmulh o) :=
  roundtrip_plain rfl
    (fun x hx => by obtain rfl := hx true rfl; simp only [rowOf, rowX, rowMasks, rowMoves, wordFields, fieldsV]; rfl) rfl fun hw =>
    ⟨by simp only [Instr.wf, V3.wf] at hw ⊢; grind,
    by rfl,
    by simp only [wordFields, fieldsV]⟩

theorem Laws.Roundtrip.vand (o : V3) : Roundtrip.Statement (.vand o) :=
  roundtrip_plain rfl
    (fun x hx => by obtain rfl := hx true rfl; simp only [rowOf, rowX, rowMasks, rowMoves, wordFields, fieldsV]; rfl) rfl fun hw =>
    ⟨by simp only [Instr.wf, V3.wf] at hw ⊢; grind,
    by rfl,
    by simp only [wordFields, fieldsV]⟩

theorem Laws.Roundtrip.vor (o : V3) : Roundtrip.Statement (.vor o) :=
  roundtrip_plain rfl
    (fun x hx => by obtain rfl := hx true rfl; simp only [rowOf, rowX, rowMasks, rowMoves, wordFields, fieldsV]; rfl) rfl fun hw =>
    ⟨by simp only [Instr.wf, V3.wf] at hw ⊢; grind,
    by rfl,
    by simp only [wordFields, fieldsV]⟩

theorem Laws.Roundtrip.vxor (o : V3) : Roundtrip.Statement (.vxor o) :=
  roundtrip_plain rfl
    (fun x hx => by obtain rfl := hx true rfl; simp only [rowOf, rowX, rowMasks, rowMoves, wordFields, fieldsV]; rfl) rfl fun hw =>
    ⟨by simp only [Instr.wf, V3.wf] at hw ⊢; grind,
    by rfl,
    by simp only [wordFields, fieldsV]⟩

theorem Laws.Roundtrip.vshl (o : V3) : Roundtrip.Statement (.vshl o) :=
  roundtrip_plain rfl
    (fun x hx => by obtain rfl := hx true rfl; simp only [rowOf, rowX, rowMasks, rowMoves, wordFields, fieldsV]; rfl) rfl fun hw =>
    ⟨by simp only [Instr.wf, V3.wf] at hw ⊢; grind,
    by rfl,
    by simp only [wordFields, fieldsV]⟩

theorem Laws.Roundtrip.vshr (o : V3) : Roundtrip.Statement (.vshr o) :=
  roundtrip_plain rfl
    (fun x hx => by obtain rfl := hx true rfl; simp only [rowOf, rowX, rowMasks, rowMoves, wordFields, fieldsV]; rfl) rfl fun hw =>
    ⟨by simp only [Instr.wf, V3.wf] at hw ⊢; grind,
    by rfl,
    by simp only [wordFields, fieldsV]⟩

theorem Laws.Roundtrip.vsra (o : V3) : Roundtrip.Statement (.vsra o) :=
  roundtrip_plain rfl
    (fun x hx => by obtain rfl := hx true rfl; simp only [rowOf, rowX, rowMasks, rowMoves, wordFields, fieldsV]; rfl) rfl fun hw =>
    ⟨by simp only [Instr.wf, V3.wf] at hw ⊢; grind,
    by rfl,
    by simp only [wordFields, fieldsV]⟩

theorem Laws.Roundtrip.vmin (o : V3) : Roundtrip.Statement (.vmin o) :=
  roundtrip_plain rfl
    (fun x hx => by obtain rfl := hx true rfl; simp only [rowOf, rowX, rowMasks, rowMoves, wordFields, fieldsV]; rfl) rfl fun hw =>
    ⟨by simp only [Instr.wf, V3.wf] at hw ⊢; grind,
    by rfl,
    by simp only [wordFields, fieldsV]⟩

theorem Laws.Roundtrip.vmax (o : V3) : Roundtrip.Statement (.vmax o) :=
  roundtrip_plain rfl
    (fun x hx => by obtain rfl := hx true rfl; simp only [rowOf, rowX, rowMasks, rowMoves, wordFields, fieldsV]; rfl) rfl fun hw =>
    ⟨by simp only [Instr.wf, V3.wf] at hw ⊢; grind,
    by rfl,
    by simp only [wordFields, fieldsV]⟩

theorem Laws.Roundtrip.vminu (o : V3) : Roundtrip.Statement (.vminu o) :=
  roundtrip_plain rfl
    (fun x hx => by obtain rfl := hx true rfl; simp only [rowOf, rowX, rowMasks, rowMoves, wordFields, fieldsV]; rfl) rfl fun hw =>
    ⟨by simp only [Instr.wf, V3.wf] at hw ⊢; grind,
    by rfl,
    by simp only [wordFields, fieldsV]⟩

theorem Laws.Roundtrip.vmaxu (o : V3) : Roundtrip.Statement (.vmaxu o) :=
  roundtrip_plain rfl
    (fun x hx => by obtain rfl := hx true rfl; simp only [rowOf, rowX, rowMasks, rowMoves, wordFields, fieldsV]; rfl) rfl fun hw =>
    ⟨by simp only [Instr.wf, V3.wf] at hw ⊢; grind,
    by rfl,
    by simp only [wordFields, fieldsV]⟩

theorem Laws.Roundtrip.vfadd (o : V3) : Roundtrip.Statement (.vfadd o) :=
  roundtrip_plain rfl
    (fun x hx => by obtain rfl := hx true rfl; simp only [rowOf, rowX, rowMasks, rowMoves, wordFields, fieldsV]; rfl) rfl fun hw =>
    ⟨by simp only [Instr.wf, V3.wf] at hw ⊢; grind,
    by rfl,
    by simp only [wordFields, fieldsV]⟩

theorem Laws.Roundtrip.vfsub (o : V3) : Roundtrip.Statement (.vfsub o) :=
  roundtrip_plain rfl
    (fun x hx => by obtain rfl := hx true rfl; simp only [rowOf, rowX, rowMasks, rowMoves, wordFields, fieldsV]; rfl) rfl fun hw =>
    ⟨by simp only [Instr.wf, V3.wf] at hw ⊢; grind,
    by rfl,
    by simp only [wordFields, fieldsV]⟩

theorem Laws.Roundtrip.vfmul (o : V3) : Roundtrip.Statement (.vfmul o) :=
  roundtrip_plain rfl
    (fun x hx => by obtain rfl := hx true rfl; simp only [rowOf, rowX, rowMasks, rowMoves, wordFields, fieldsV]; rfl) rfl fun hw =>
    ⟨by simp only [Instr.wf, V3.wf] at hw ⊢; grind,
    by rfl,
    by simp only [wordFields, fieldsV]⟩

theorem Laws.Roundtrip.vfmin (o : V3) : Roundtrip.Statement (.vfmin o) :=
  roundtrip_plain rfl
    (fun x hx => by obtain rfl := hx true rfl; simp only [rowOf, rowX, rowMasks, rowMoves, wordFields, fieldsV]; rfl) rfl fun hw =>
    ⟨by simp only [Instr.wf, V3.wf] at hw ⊢; grind,
    by rfl,
    by simp only [wordFields, fieldsV]⟩

theorem Laws.Roundtrip.vfmax (o : V3) : Roundtrip.Statement (.vfmax o) :=
  roundtrip_plain rfl
    (fun x hx => by obtain rfl := hx true rfl; simp only [rowOf, rowX, rowMasks, rowMoves, wordFields, fieldsV]; rfl) rfl fun hw =>
    ⟨by simp only [Instr.wf, V3.wf] at hw ⊢; grind,
    by rfl,
    by simp only [wordFields, fieldsV]⟩

theorem Laws.Roundtrip.vfabs (o : V2) : Roundtrip.Statement (.vfabs o) :=
  roundtrip_plain rfl
    (fun x hx => by obtain rfl := hx true rfl; simp only [rowOf, rowX, rowMasks, rowMoves, wordFields, fieldsV]; rfl) rfl fun hw =>
    ⟨by simp only [Instr.wf, V2.wf] at hw ⊢; grind,
    by simp only [wordFields, fieldsV]; rfl,
    by simp only [wordFields, fieldsV]⟩

theorem Laws.Roundtrip.vfneg (o : V2) : Roundtrip.Statement (.vfneg o) :=
  roundtrip_plain rfl
    (fun x hx => by obtain rfl := hx true rfl; simp only [rowOf, rowX, rowMasks, rowMoves, wordFields, fieldsV]; rfl) rfl fun hw =>
    ⟨by simp only [Instr.wf, V2.wf] at hw ⊢; grind,
    by simp only [wordFields, fieldsV]; rfl,
    by simp only [wordFields, fieldsV]⟩

theorem Laws.Roundtrip.vfma (o : V4) : Roundtrip.Statement (.vfma o) :=
  roundtrip_plain rfl
    (fun x hx => by obtain rfl := hx true rfl; simp only [rowOf, rowX, rowMasks, rowMoves, wordFields, fieldsV]; rfl) rfl fun hw =>
    ⟨by simp only [Instr.wf] at hw ⊢; grind,
    by rfl,
    by rfl⟩

theorem Laws.Roundtrip.vcvt (o : VCvt) : Roundtrip.Statement (.vcvt o) :=
  roundtrip_plain rfl
    (fun x hx => by obtain rfl := hx true rfl; simp only [rowOf, rowX, rowMasks, rowMoves, wordFields, fieldsV]; rfl) rfl fun hw =>
    ⟨by simp only [Instr.wf] at hw ⊢; grind,
    by rfl,
    by rfl⟩

theorem Laws.Roundtrip.vpack (o : V3) : Roundtrip.Statement (.vpack o) :=
  roundtrip_plain rfl
    (fun x hx => by obtain rfl := hx true rfl; simp only [rowOf, rowX, rowMasks, rowMoves, wordFields, fieldsV]; rfl) rfl fun hw =>
    ⟨by simp only [Instr.wf, V3.wf] at hw ⊢; grind,
    by rfl,
    by simp only [wordFields, fieldsV]⟩

theorem Laws.Roundtrip.vunpack (o : VUnpack) : Roundtrip.Statement (.vunpack o) :=
  roundtrip_plain rfl
    (fun x hx => by obtain rfl := hx true rfl; simp only [rowOf, rowX, rowMasks, rowMoves, wordFields, fieldsV, one_bit, one_rest]; rfl) rfl fun hw =>
    ⟨by simp only [Instr.wf] at hw ⊢; grind,
    by rfl,
    by rfl⟩

theorem Laws.Roundtrip.vbscale (o : V2n) : Roundtrip.Statement (.vbscale o) :=
  roundtrip_plain rfl
    (fun x hx => by obtain rfl := hx true rfl; simp only [rowOf, rowX, rowMasks, rowMoves, wordFields, fieldsV]; rfl) rfl fun hw =>
    ⟨by simp only [Instr.wf, V2n.wf] at hw ⊢; grind,
    by rfl,
    by simp only [wordFields, fieldsV]⟩

theorem Laws.Roundtrip.vrsum (o : V2) : Roundtrip.Statement (.vrsum o) :=
  roundtrip_plain rfl
    (fun x hx => by obtain rfl := hx true rfl; simp only [rowOf, rowX, rowMasks, rowMoves, wordFields, fieldsV]; rfl) rfl fun hw =>
    ⟨by simp only [Instr.wf, V2.wf] at hw ⊢; grind,
    by simp only [wordFields, fieldsV]; rfl,
    by simp only [wordFields, fieldsV]⟩

theorem Laws.Roundtrip.vrmax (o : V2) : Roundtrip.Statement (.vrmax o) :=
  roundtrip_plain rfl
    (fun x hx => by obtain rfl := hx true rfl; simp only [rowOf, rowX, rowMasks, rowMoves, wordFields, fieldsV]; rfl) rfl fun hw =>
    ⟨by simp only [Instr.wf, V2.wf] at hw ⊢; grind,
    by simp only [wordFields, fieldsV]; rfl,
    by simp only [wordFields, fieldsV]⟩

theorem Laws.Roundtrip.vrmin (o : V2) : Roundtrip.Statement (.vrmin o) :=
  roundtrip_plain rfl
    (fun x hx => by obtain rfl := hx true rfl; simp only [rowOf, rowX, rowMasks, rowMoves, wordFields, fieldsV]; rfl) rfl fun hw =>
    ⟨by simp only [Instr.wf, V2.wf] at hw ⊢; grind,
    by simp only [wordFields, fieldsV]; rfl,
    by simp only [wordFields, fieldsV]⟩

theorem Laws.Roundtrip.vrargmax (o : V2) : Roundtrip.Statement (.vrargmax o) :=
  roundtrip_plain rfl
    (fun x hx => by obtain rfl := hx true rfl; simp only [rowOf, rowX, rowMasks, rowMoves, wordFields, fieldsV]; rfl) rfl fun hw =>
    ⟨by simp only [Instr.wf, V2.wf] at hw ⊢; grind,
    by simp only [wordFields, fieldsV]; rfl,
    by simp only [wordFields, fieldsV]⟩

theorem Laws.Roundtrip.vscan (o : V2) : Roundtrip.Statement (.vscan o) :=
  roundtrip_plain rfl
    (fun x hx => by obtain rfl := hx true rfl; simp only [rowOf, rowX, rowMasks, rowMoves, wordFields, fieldsV]; rfl) rfl fun hw =>
    ⟨by simp only [Instr.wf, V2.wf] at hw ⊢; grind,
    by simp only [wordFields, fieldsV]; rfl,
    by simp only [wordFields, fieldsV]⟩

theorem Laws.Roundtrip.vshuf (o : V3) : Roundtrip.Statement (.vshuf o) :=
  roundtrip_plain rfl
    (fun x hx => by obtain rfl := hx true rfl; simp only [rowOf, rowX, rowMasks, rowMoves, wordFields, fieldsV]; rfl) rfl fun hw =>
    ⟨by simp only [Instr.wf, V3.wf] at hw ⊢; grind,
    by rfl,
    by simp only [wordFields, fieldsV]⟩

theorem Laws.Roundtrip.vbcast (o : V2n) : Roundtrip.Statement (.vbcast o) :=
  roundtrip_plain rfl
    (fun x hx => by obtain rfl := hx true rfl; simp only [rowOf, rowX, rowMasks, rowMoves, wordFields, fieldsV]; rfl) rfl fun hw =>
    ⟨by simp only [Instr.wf, V2n.wf] at hw ⊢; grind,
    by rfl,
    by simp only [wordFields, fieldsV]⟩

theorem Laws.Roundtrip.vslideUp (o : V2n) : Roundtrip.Statement (.vslideUp o) :=
  roundtrip_plain rfl
    (fun x hx => by obtain rfl := hx true rfl; simp only [rowOf, rowX, rowMasks, rowMoves, wordFields, fieldsV]; rfl) rfl fun hw =>
    ⟨by simp only [Instr.wf, V2n.wf] at hw ⊢; grind,
    by rfl,
    by simp only [wordFields, fieldsV]⟩

theorem Laws.Roundtrip.vslideDn (o : V2n) : Roundtrip.Statement (.vslideDn o) :=
  roundtrip_plain rfl
    (fun x hx => by obtain rfl := hx true rfl; simp only [rowOf, rowX, rowMasks, rowMoves, wordFields, fieldsV]; rfl) rfl fun hw =>
    ⟨by simp only [Instr.wf, V2n.wf] at hw ⊢; grind,
    by rfl,
    by simp only [wordFields, fieldsV]⟩

theorem Laws.Roundtrip.vcompress (o : V2) : Roundtrip.Statement (.vcompress o) :=
  roundtrip_plain rfl
    (fun x hx => by obtain rfl := hx true rfl; simp only [rowOf, rowX, rowMasks, rowMoves, wordFields, fieldsV]; rfl) rfl fun hw =>
    ⟨by simp only [Instr.wf, V2.wf] at hw ⊢; grind,
    by simp only [wordFields, fieldsV]; rfl,
    by simp only [wordFields, fieldsV]⟩

theorem Laws.Roundtrip.vfunc (o : VFn) : Roundtrip.Statement (.vfunc o) :=
  roundtrip_plain rfl
    (fun x hx => by obtain rfl := hx true rfl; simp only [rowOf, rowX, rowMasks, rowMoves, wordFields, fieldsV]; rfl) rfl fun hw =>
    ⟨by simp only [Instr.wf] at hw ⊢; grind,
    by rfl,
    by rfl⟩

theorem Laws.Roundtrip.tsel (o : VSel) : Roundtrip.Statement (.tsel o) :=
  roundtrip_plain rfl (fun x hx => by obtain rfl := hx true rfl; exact rfl) rfl
    fun _ => ⟨rfl, by simp only [wordFields, fieldsV]; rfl, by simp only [fieldsV]⟩

theorem Laws.Roundtrip.vrand (o : VRnd) : Roundtrip.Statement (.vrand o) :=
  roundtrip_plain rfl
    (fun x hx => by obtain rfl := hx true rfl; simp only [rowOf, rowX, rowMasks, rowMoves, wordFields, fieldsV]; rfl) rfl fun hw =>
    ⟨by simp only [Instr.wf] at hw ⊢; grind,
    by rfl,
    by rfl⟩

theorem Laws.Roundtrip.vrandU (o : VRnd) : Roundtrip.Statement (.vrandU o) :=
  roundtrip_plain rfl
    (fun x hx => by obtain rfl := hx true rfl; simp only [rowOf, rowX, rowMasks, rowMoves, wordFields, fieldsV]; rfl) rfl fun hw =>
    ⟨by simp only [Instr.wf] at hw ⊢; grind,
    by rfl,
    by rfl⟩

theorem Laws.Roundtrip.vconf (o : VCmp) : Roundtrip.Statement (.vconf o) :=
  roundtrip_plain rfl
    (fun x hx => by obtain rfl := hx true rfl; simp only [rowOf, rowX, rowMasks, rowMoves, wordFields, fieldsV]; rfl) rfl fun hw =>
    ⟨by simp only [Instr.wf, VCmp.wf, fieldsV] at hw ⊢; grind,
    by simp only [fieldsV]; rfl,
    by simp only [wordFields, fieldsV]⟩

theorem Laws.Roundtrip.kand (o : K3) : Roundtrip.Statement (.kand o) :=
  roundtrip_plain rfl
    (fun x hx => by obtain rfl := hx true rfl; simp only [rowOf, rowX, rowMasks, rowMoves, wordFields, fieldsV]; rfl) rfl fun hw =>
    ⟨by simp only [Instr.wf, fieldsV] at hw ⊢; grind,
    by simp only [wordFields, fieldsV]; rfl,
    by simp only [fieldsV]⟩

theorem Laws.Roundtrip.kor (o : K3) : Roundtrip.Statement (.kor o) :=
  roundtrip_plain rfl
    (fun x hx => by obtain rfl := hx true rfl; simp only [rowOf, rowX, rowMasks, rowMoves, wordFields, fieldsV]; rfl) rfl fun hw =>
    ⟨by simp only [Instr.wf, fieldsV] at hw ⊢; grind,
    by simp only [wordFields, fieldsV]; rfl,
    by simp only [fieldsV]⟩

theorem Laws.Roundtrip.kxor (o : K3) : Roundtrip.Statement (.kxor o) :=
  roundtrip_plain rfl
    (fun x hx => by obtain rfl := hx true rfl; simp only [rowOf, rowX, rowMasks, rowMoves, wordFields, fieldsV]; rfl) rfl fun hw =>
    ⟨by simp only [Instr.wf, fieldsV] at hw ⊢; grind,
    by simp only [wordFields, fieldsV]; rfl,
    by simp only [fieldsV]⟩

theorem Laws.Roundtrip.knot (o : K2) : Roundtrip.Statement (.knot o) :=
  roundtrip_plain rfl
    (fun x hx => by obtain rfl := hx true rfl; simp only [rowOf, rowX, rowMasks, rowMoves, wordFields, fieldsV]; rfl) rfl fun hw =>
    ⟨by simp only [Instr.wf, fieldsV] at hw ⊢; grind,
    by simp only [wordFields, fieldsV]; rfl,
    by simp only [fieldsV]⟩

theorem Laws.Roundtrip.kmov (o : K2) : Roundtrip.Statement (.kmov o) :=
  roundtrip_plain rfl
    (fun x hx => by obtain rfl := hx true rfl; simp only [rowOf, rowX, rowMasks, rowMoves, wordFields, fieldsV]; rfl) rfl fun hw =>
    ⟨by simp only [Instr.wf, fieldsV] at hw ⊢; grind,
    by simp only [wordFields, fieldsV]; rfl,
    by simp only [fieldsV]⟩

theorem Laws.Roundtrip.kmovFromScalar (o : KFrom) : Roundtrip.Statement (.kmovFromScalar o) :=
  roundtrip_plain rfl
    (fun x hx => by obtain rfl := hx true rfl; simp only [rowOf, rowX, rowMasks, rowMoves, wordFields, fieldsV]; rfl) rfl fun hw =>
    ⟨by simp only [Instr.wf] at hw ⊢; grind,
    by rfl,
    by rfl⟩

theorem Laws.Roundtrip.kmovToScalar (o : KTo) : Roundtrip.Statement (.kmovToScalar o) :=
  roundtrip_plain rfl
    (fun x hx => by obtain rfl := hx true rfl; simp only [rowOf, rowX, rowMasks, rowMoves, wordFields, fieldsV]; rfl) rfl
    fun _ => ⟨by rfl, by simp only [wordFields, fieldsV]; rfl, by simp only [fieldsV]⟩

theorem Laws.Roundtrip.kpop (o : KTo) : Roundtrip.Statement (.kpop o) :=
  roundtrip_plain rfl (fun x hx => by obtain rfl := hx true rfl; exact rfl) rfl
    fun _ => ⟨rfl, by simp only [wordFields, fieldsV]; rfl, by simp only [fieldsV]⟩

theorem Laws.Roundtrip.qdrop (o : RA) : Roundtrip.Statement (.qdrop o) :=
  roundtrip_plain rfl
    (fun x hx => by obtain rfl := hx true rfl; simp only [rowOf, rowX, rowMasks, rowMoves, wordFields, fieldsV]; rfl) rfl fun hw =>
    ⟨by simp only [Instr.wf] at hw ⊢; grind,
    by rfl,
    by rfl⟩

theorem Laws.Roundtrip.qcnt (o : R2) : Roundtrip.Statement (.qcnt o) :=
  roundtrip_plain rfl (fun x hx => by obtain rfl := hx true rfl; exact rfl) rfl
    fun _ => ⟨rfl, by simp only [wordFields, fieldsV]; rfl, rfl⟩

theorem Laws.Roundtrip.vext (o : VExt) : Roundtrip.Statement (.vext o) :=
  roundtrip_plain rfl
    (fun x hx => by obtain rfl := hx true rfl; simp only [rowOf, rowX, rowMasks, rowMoves, wordFields, fieldsV]; rfl) rfl fun hw =>
    ⟨by simp only [Instr.wf] at hw ⊢; grind,
    by rfl,
    by rfl⟩

theorem Laws.Roundtrip.vins (o : V2n) : Roundtrip.Statement (.vins o) :=
  roundtrip_plain rfl
    (fun x hx => by obtain rfl := hx true rfl; simp only [rowOf, rowX, rowMasks, rowMoves, wordFields, fieldsV]; rfl) rfl fun hw =>
    ⟨by simp only [Instr.wf, V2n.wf] at hw ⊢; grind,
    by rfl,
    by simp only [wordFields, fieldsV]⟩

theorem Laws.Roundtrip.vmovs (o : VMovs) : Roundtrip.Statement (.vmovs o) :=
  roundtrip_plain rfl
    (fun x hx => by obtain rfl := hx true rfl; simp only [rowOf, rowX, rowMasks, rowMoves, wordFields, fieldsV]; rfl) rfl fun hw =>
    ⟨by simp only [Instr.wf] at hw ⊢; grind,
    by rfl,
    by rfl⟩

theorem Laws.Roundtrip.vsett (o : R2) : Roundtrip.Statement (.vsett o) :=
  roundtrip_plain rfl (fun x hx => by obtain rfl := hx true rfl; exact rfl) rfl
    fun _ => ⟨rfl, by simp only [wordFields, fieldsV]; rfl, rfl⟩

theorem Laws.Roundtrip.vfcmpEq (o : VCmp) : Roundtrip.Statement (.vfcmpEq o) :=
  roundtrip_plain rfl
    (fun x hx => by obtain rfl := hx true rfl; simp only [rowOf, rowX, rowMasks, rowMoves, wordFields, fieldsV]; rfl) rfl fun hw =>
    ⟨by simp only [Instr.wf, VCmp.wf, fieldsV] at hw ⊢; grind,
    by simp only [fieldsV]; rfl,
    by simp only [wordFields, fieldsV]⟩

theorem Laws.Roundtrip.vfcmpLt (o : VCmp) : Roundtrip.Statement (.vfcmpLt o) :=
  roundtrip_plain rfl
    (fun x hx => by obtain rfl := hx true rfl; simp only [rowOf, rowX, rowMasks, rowMoves, wordFields, fieldsV]; rfl) rfl fun hw =>
    ⟨by simp only [Instr.wf, VCmp.wf, fieldsV] at hw ⊢; grind,
    by simp only [fieldsV]; rfl,
    by simp only [wordFields, fieldsV]⟩

theorem Laws.Roundtrip.vfcmpLe (o : VCmp) : Roundtrip.Statement (.vfcmpLe o) :=
  roundtrip_plain rfl
    (fun x hx => by obtain rfl := hx true rfl; simp only [rowOf, rowX, rowMasks, rowMoves, wordFields, fieldsV]; rfl) rfl fun hw =>
    ⟨by simp only [Instr.wf, VCmp.wf, fieldsV] at hw ⊢; grind,
    by simp only [fieldsV]; rfl,
    by simp only [wordFields, fieldsV]⟩

theorem Laws.Roundtrip.vfcmpUn (o : VCmp) : Roundtrip.Statement (.vfcmpUn o) :=
  roundtrip_plain rfl
    (fun x hx => by obtain rfl := hx true rfl; simp only [rowOf, rowX, rowMasks, rowMoves, wordFields, fieldsV]; rfl) rfl fun hw =>
    ⟨by simp only [Instr.wf, VCmp.wf, fieldsV] at hw ⊢; grind,
    by simp only [fieldsV]; rfl,
    by simp only [wordFields, fieldsV]⟩

theorem Laws.Roundtrip.vicmpEq (o : VCmp) : Roundtrip.Statement (.vicmpEq o) :=
  roundtrip_plain rfl
    (fun x hx => by obtain rfl := hx true rfl; simp only [rowOf, rowX, rowMasks, rowMoves, wordFields, fieldsV]; rfl) rfl fun hw =>
    ⟨by simp only [Instr.wf, VCmp.wf, fieldsV] at hw ⊢; grind,
    by simp only [fieldsV]; rfl,
    by simp only [wordFields, fieldsV]⟩

theorem Laws.Roundtrip.vicmpLt (o : VCmp) : Roundtrip.Statement (.vicmpLt o) :=
  roundtrip_plain rfl
    (fun x hx => by obtain rfl := hx true rfl; simp only [rowOf, rowX, rowMasks, rowMoves, wordFields, fieldsV]; rfl) rfl fun hw =>
    ⟨by simp only [Instr.wf, VCmp.wf, fieldsV] at hw ⊢; grind,
    by simp only [fieldsV]; rfl,
    by simp only [wordFields, fieldsV]⟩

theorem Laws.Roundtrip.vicmpLe (o : VCmp) : Roundtrip.Statement (.vicmpLe o) :=
  roundtrip_plain rfl
    (fun x hx => by obtain rfl := hx true rfl; simp only [rowOf, rowX, rowMasks, rowMoves, wordFields, fieldsV]; rfl) rfl fun hw =>
    ⟨by simp only [Instr.wf, VCmp.wf, fieldsV] at hw ⊢; grind,
    by simp only [fieldsV]; rfl,
    by simp only [wordFields, fieldsV]⟩

theorem Laws.Roundtrip.vicmpLtu (o : VCmp) : Roundtrip.Statement (.vicmpLtu o) :=
  roundtrip_plain rfl
    (fun x hx => by obtain rfl := hx true rfl; simp only [rowOf, rowX, rowMasks, rowMoves, wordFields, fieldsV]; rfl) rfl fun hw =>
    ⟨by simp only [Instr.wf, VCmp.wf, fieldsV] at hw ⊢; grind,
    by simp only [fieldsV]; rfl,
    by simp only [wordFields, fieldsV]⟩

theorem Laws.Roundtrip.vicmpLeu (o : VCmp) : Roundtrip.Statement (.vicmpLeu o) :=
  roundtrip_plain rfl
    (fun x hx => by obtain rfl := hx true rfl; simp only [rowOf, rowX, rowMasks, rowMoves, wordFields, fieldsV]; rfl) rfl fun hw =>
    ⟨by simp only [Instr.wf, VCmp.wf, fieldsV] at hw ⊢; grind,
    by simp only [fieldsV]; rfl,
    by simp only [wordFields, fieldsV]⟩

theorem Laws.Roundtrip.vsel (o : V3) : Roundtrip.Statement (.vsel o) :=
  roundtrip_plain rfl
    (fun x hx => by obtain rfl := hx true rfl; simp only [rowOf, rowX, rowMasks, rowMoves, wordFields, fieldsV]; rfl) rfl fun hw =>
    ⟨by simp only [Instr.wf, V3.wf] at hw ⊢; grind,
    by rfl,
    by simp only [wordFields, fieldsV]⟩

theorem Laws.Roundtrip.fetchPastEnd : Roundtrip.Statement .fetchPastEnd := roundtrip_event rfl

theorem Laws.Roundtrip.siblingTrap (core : Nat) (x : Bool) : Roundtrip.Statement (.siblingTrap core x) := roundtrip_event rfl

theorem Laws.Roundtrip.engineFaultDelivery (core : Nat) : Roundtrip.Statement (.engineFaultDelivery core) := roundtrip_event rfl

theorem Laws.Roundtrip.eqdropWrite (core : Nat) (v : Dword) : Roundtrip.Statement (.eqdropWrite core v) := roundtrip_event rfl

theorem Laws.Roundtrip.commandStart (core : Nat) (q : EngQ) : Roundtrip.Statement (.commandStart core q) := roundtrip_event rfl

theorem Laws.Roundtrip.timedIssue (core : Nat) (q : EngQ) : Roundtrip.Statement (.timedIssue core q) := roundtrip_event rfl

theorem Laws.Roundtrip.scheduleMiss (core : Nat) (q : EngQ) : Roundtrip.Statement (.scheduleMiss core q) := roundtrip_event rfl

theorem Laws.Roundtrip.commandRetire (core : Nat) (q : EngQ) : Roundtrip.Statement (.commandRetire core q) := roundtrip_event rfl

theorem Laws.Roundtrip.copyChunk (core : Nat) (q : EngQ) : Roundtrip.Statement (.copyChunk core q) := roundtrip_event rfl

theorem Laws.Roundtrip.decryptStep (core : Nat) : Roundtrip.Statement (.decryptStep core) := roundtrip_event rfl

theorem Laws.Roundtrip.tloadUnit (core : Nat) : Roundtrip.Statement (.tloadUnit core) := roundtrip_event rfl

theorem Laws.Roundtrip.tinvalEffect (core : Nat) : Roundtrip.Statement (.tinvalEffect core) := roundtrip_event rfl

theorem Laws.Roundtrip.mlwRow (core : Nat) : Roundtrip.Statement (.mlwRow core) := roundtrip_event rfl

theorem Laws.Roundtrip.mswapExchange (core : Nat) : Roundtrip.Statement (.mswapExchange core) := roundtrip_event rfl

theorem Laws.Roundtrip.mmulRow (core : Nat) : Roundtrip.Statement (.mmulRow core) := roundtrip_event rfl

theorem Laws.Roundtrip.mmulSmaxRow (core : Nat) : Roundtrip.Statement (.mmulSmaxRow core) := roundtrip_event rfl

theorem Laws.Roundtrip.sideCorrection (core : Nat) : Roundtrip.Statement (.sideCorrection core) := roundtrip_event rfl

theorem Laws.Roundtrip.mstRow (core : Nat) : Roundtrip.Statement (.mstRow core) := roundtrip_event rfl

theorem Laws.Roundtrip.mzeroEffect (core : Nat) : Roundtrip.Statement (.mzeroEffect core) := roundtrip_event rfl

theorem Laws.Roundtrip.mamapEffect (core : Nat) : Roundtrip.Statement (.mamapEffect core) := roundtrip_event rfl

theorem Laws.Roundtrip.mloraRow (core : Nat) : Roundtrip.Statement (.mloraRow core) := roundtrip_event rfl

theorem Laws.Roundtrip.mloraClrEffect (core : Nat) : Roundtrip.Statement (.mloraClrEffect core) := roundtrip_event rfl

theorem Laws.Roundtrip.mfuseStanding (core : Nat) : Roundtrip.Statement (.mfuseStanding core) := roundtrip_event rfl

theorem Laws.Roundtrip.mfuseOffEffect (core : Nat) : Roundtrip.Statement (.mfuseOffEffect core) := roundtrip_event rfl

theorem Laws.Roundtrip.attnChunk (core : Nat) : Roundtrip.Statement (.attnChunk core) := roundtrip_event rfl

theorem Laws.Roundtrip.attnOutputStep (core : Nat) : Roundtrip.Statement (.attnOutputStep core) := roundtrip_event rfl

theorem Laws.Roundtrip.bkfillAccept (core : Nat) : Roundtrip.Statement (.bkfillAccept core) := roundtrip_event rfl

theorem Laws.Roundtrip.l1Eviction (core : Nat) (line : Nat) : Roundtrip.Statement (.l1Eviction core line) := roundtrip_event rfl

theorem Laws.Roundtrip.rowFillComplete (core : Nat) (row : Nat) : Roundtrip.Statement (.rowFillComplete core row) := roundtrip_event rfl

theorem Laws.Roundtrip.probeFillComplete (die : Nat) (ticket : Nat) : Roundtrip.Statement (.probeFillComplete die ticket) := roundtrip_event rfl

theorem Laws.Roundtrip.pageFaultDeadline (tag : Nat) : Roundtrip.Statement (.pageFaultDeadline tag) := roundtrip_event rfl

theorem Laws.Roundtrip.frozenGroupPreemption (node : Dword) : Roundtrip.Statement (.frozenGroupPreemption node) := roundtrip_event rfl

theorem Laws.Roundtrip.writeSerialise (n : Nat) : Roundtrip.Statement (.writeSerialise n) := roundtrip_event rfl

theorem Laws.Roundtrip.remoteWriteApply (die : Nat) (id : Nat) : Roundtrip.Statement (.remoteWriteApply die id) := roundtrip_event rfl

theorem Laws.Roundtrip.graphLaunch (vf q : Nat) : Roundtrip.Statement (.graphLaunch vf q) := roundtrip_event rfl

theorem Laws.Roundtrip.nodeDispatch (cores : List Nat) : Roundtrip.Statement (.nodeDispatch cores) := roundtrip_event rfl

theorem Laws.Roundtrip.forcedPreemption (node : Dword) : Roundtrip.Statement (.forcedPreemption node) := roundtrip_event rfl

theorem Laws.Roundtrip.waitPreemption (node : Dword) : Roundtrip.Statement (.waitPreemption node) := roundtrip_event rfl

theorem Laws.Roundtrip.operatorOverrun (node : Dword) : Roundtrip.Statement (.operatorOverrun node) := roundtrip_event rfl

theorem Laws.Roundtrip.parkTimeWake (node : Dword) : Roundtrip.Statement (.parkTimeWake node) := roundtrip_event rfl

theorem Laws.Roundtrip.eventRecordWrite (vf ring : Nat) : Roundtrip.Statement (.eventRecordWrite vf ring) := roundtrip_event rfl

theorem Laws.Roundtrip.ringFaultRetry (vf ring : Nat) : Roundtrip.Statement (.ringFaultRetry vf ring) := roundtrip_event rfl

theorem Laws.Roundtrip.eventCoalesceTimeout (vf ring : Nat) : Roundtrip.Statement (.eventCoalesceTimeout vf ring) := roundtrip_event rfl

theorem Laws.Roundtrip.hangDetect (node : Dword) : Roundtrip.Statement (.hangDetect node) := roundtrip_event rfl

theorem Laws.Roundtrip.crucibleGuarantee : Roundtrip.Statement .crucibleGuarantee := roundtrip_event rfl

theorem Laws.Roundtrip.adapterLoadComplete (vf idx : Nat) : Roundtrip.Statement (.adapterLoadComplete vf idx) := roundtrip_event rfl

theorem Laws.Roundtrip.adapterFillQuotaTick (vf : Nat) : Roundtrip.Statement (.adapterFillQuotaTick vf) := roundtrip_event rfl

theorem Laws.Roundtrip.reduce (port : Nat) (m : LinkMsg) : Roundtrip.Statement (.reduce port m) := roundtrip_event rfl

theorem Laws.Roundtrip.scrubVisit (half line : Nat) : Roundtrip.Statement (.scrubVisit half line) := roundtrip_event rfl

theorem Laws.Roundtrip.weightRestore (frame : Nat) : Roundtrip.Statement (.weightRestore frame) := roundtrip_event rfl

theorem Laws.Roundtrip.registerWrite (w : RegWrite) : Roundtrip.Statement (.registerWrite w) := roundtrip_event rfl

theorem Laws.Roundtrip.sqDoorbell (h : HostReq) (q : Nat) (v : Dword) : Roundtrip.Statement (.sqDoorbell h q v) := roundtrip_event rfl

theorem Laws.Roundtrip.sqReset (h : HostReq) (q : Nat) : Roundtrip.Statement (.sqReset h q) := roundtrip_event rfl

theorem Laws.Roundtrip.erheadWrite (h : HostReq) (ring : Nat) (v : Dword) : Roundtrip.Statement (.erheadWrite h ring v) := roundtrip_event rfl

theorem Laws.Roundtrip.resumeWrite (h : HostReq) (node : Dword) : Roundtrip.Statement (.resumeWrite h node) := roundtrip_event rfl

theorem Laws.Roundtrip.adcmdEvict (h : HostReq) (handle : Word) : Roundtrip.Statement (.adcmdEvict h handle) := roundtrip_event rfl

theorem Laws.Roundtrip.adcmdRetire (h : HostReq) (handle : Word) : Roundtrip.Statement (.adcmdRetire h handle) := roundtrip_event rfl

theorem Laws.Roundtrip.bar2Access (a : Bar2) : Roundtrip.Statement (.bar2Access a) := roundtrip_event rfl

theorem Laws.Roundtrip.create (c : PfCmd) : Roundtrip.Statement (.create c) := roundtrip_event rfl

theorem Laws.Roundtrip.teardown (c : PfCmd) : Roundtrip.Statement (.teardown c) := roundtrip_event rfl

theorem Laws.Roundtrip.setField (c : PfCmd) : Roundtrip.Statement (.setField c) := roundtrip_event rfl

theorem Laws.Roundtrip.getField (c : PfCmd) : Roundtrip.Statement (.getField c) := roundtrip_event rfl

theorem Laws.Roundtrip.suspend (c : PfCmd) : Roundtrip.Statement (.suspend c) := roundtrip_event rfl

theorem Laws.Roundtrip.resume (c : PfCmd) : Roundtrip.Statement (.resume c) := roundtrip_event rfl

theorem Laws.Roundtrip.migrateStart (c : PfCmd) : Roundtrip.Statement (.migrateStart c) := roundtrip_event rfl

theorem Laws.Roundtrip.migrateStop (c : PfCmd) : Roundtrip.Statement (.migrateStop c) := roundtrip_event rfl

theorem Laws.Roundtrip.setGrade (c : PfCmd) : Roundtrip.Statement (.setGrade c) := roundtrip_event rfl

theorem Laws.Roundtrip.clearKeys (c : PfCmd) : Roundtrip.Statement (.clearKeys c) := roundtrip_event rfl

theorem Laws.Roundtrip.resolveRetry (tag : Nat) : Roundtrip.Statement (.resolveRetry tag) := roundtrip_event rfl

theorem Laws.Roundtrip.resolveFail (tag : Nat) : Roundtrip.Statement (.resolveFail tag) := roundtrip_event rfl

theorem Laws.Roundtrip.shootdown : Roundtrip.Statement .shootdown := roundtrip_event rfl

theorem Laws.Roundtrip.shootdownDone : Roundtrip.Statement .shootdownDone := roundtrip_event rfl

theorem Laws.Roundtrip.migrationSettle (vf : Nat) : Roundtrip.Statement (.migrationSettle vf) := roundtrip_event rfl

theorem Laws.Roundtrip.migrationDeadline (vf : Nat) : Roundtrip.Statement (.migrationDeadline vf) := roundtrip_event rfl

theorem Laws.Roundtrip.keyLoad (m : KeyMsg) : Roundtrip.Statement (.keyLoad m) := roundtrip_event rfl

theorem Laws.Roundtrip.keyClear (m : KeyMsg) : Roundtrip.Statement (.keyClear m) := roundtrip_event rfl

theorem Laws.Roundtrip.lockInterfaceRequest (vf : Nat) : Roundtrip.Statement (.lockInterfaceRequest vf) := roundtrip_event rfl

theorem Laws.Roundtrip.startInterfaceRequest (vf : Nat) : Roundtrip.Statement (.startInterfaceRequest vf) := roundtrip_event rfl

theorem Laws.Roundtrip.stopInterface (vf : Nat) : Roundtrip.Statement (.stopInterface vf) := roundtrip_event rfl

theorem Laws.Roundtrip.getDeviceInterfaceReport (vf : Nat) : Roundtrip.Statement (.getDeviceInterfaceReport vf) := roundtrip_event rfl

theorem Laws.Roundtrip.ideKm (stream keyset : Nat) (key : BitVec 256) : Roundtrip.Statement (.ideKm stream keyset key) := roundtrip_event rfl

theorem Laws.Roundtrip.getVersion : Roundtrip.Statement .getVersion := roundtrip_event rfl

theorem Laws.Roundtrip.getCapabilities : Roundtrip.Statement .getCapabilities := roundtrip_event rfl

theorem Laws.Roundtrip.negotiateAlgorithms : Roundtrip.Statement .negotiateAlgorithms := roundtrip_event rfl

theorem Laws.Roundtrip.getDigests : Roundtrip.Statement .getDigests := roundtrip_event rfl

theorem Laws.Roundtrip.getCertificate : Roundtrip.Statement .getCertificate := roundtrip_event rfl

theorem Laws.Roundtrip.challenge (nonce : BitVec 256) : Roundtrip.Statement (.challenge nonce) := roundtrip_event rfl

theorem Laws.Roundtrip.getMeasurements (index : Nat) : Roundtrip.Statement (.getMeasurements index) := roundtrip_event rfl

theorem Laws.Roundtrip.keyExchange (vf : Nat) (tenant : Bool) (pub : BitVec 768) : Roundtrip.Statement (.keyExchange vf tenant pub) := roundtrip_event rfl

theorem Laws.Roundtrip.finish (vf : Nat) (mac : BitVec 512) : Roundtrip.Statement (.finish vf mac) := roundtrip_event rfl

theorem Laws.Roundtrip.endSession (vf : Nat) : Roundtrip.Statement (.endSession vf) := roundtrip_event rfl

theorem Laws.Roundtrip.boot : Roundtrip.Statement .boot := roundtrip_event rfl

theorem Laws.Roundtrip.debugAttach (core : Nat) : Roundtrip.Statement (.debugAttach core) := roundtrip_event rfl

theorem Laws.Roundtrip.debugHalt (core : Nat) : Roundtrip.Statement (.debugHalt core) := roundtrip_event rfl

theorem Laws.Roundtrip.debugContextWrite (core : Nat) (w : CtxWrite) : Roundtrip.Statement (.debugContextWrite core w) := roundtrip_event rfl

theorem Laws.Roundtrip.debugResume (core : Nat) : Roundtrip.Statement (.debugResume core) := roundtrip_event rfl

theorem Laws.Roundtrip.debugSingleStep (core : Nat) (x : Bool) : Roundtrip.Statement (.debugSingleStep core x) := roundtrip_event rfl

theorem Laws.Roundtrip.throttleChange (die level : Nat) : Roundtrip.Statement (.throttleChange die level) := roundtrip_event rfl

theorem Laws.Roundtrip.dieTrip (die : Nat) : Roundtrip.Statement (.dieTrip die) := roundtrip_event rfl

theorem Laws.Roundtrip.coolantLoss : Roundtrip.Statement .coolantLoss := roundtrip_event rfl

theorem Laws.Roundtrip.cxlLinkDown (port : Nat) : Roundtrip.Statement (.cxlLinkDown port) := roundtrip_event rfl

theorem Laws.Roundtrip.badFlit (port : Nat) (f : Flit) : Roundtrip.Statement (.badFlit port f) := roundtrip_event rfl

theorem Laws.Roundtrip.replayRequest (port : Nat) (f : Flit) : Roundtrip.Statement (.replayRequest port f) := roundtrip_event rfl

theorem Laws.Roundtrip.read (port : Nat) (m : LinkMsg) : Roundtrip.Statement (.read port m) := roundtrip_event rfl

theorem Laws.Roundtrip.readRsp (port : Nat) (m : LinkMsg) : Roundtrip.Statement (.readRsp port m) := roundtrip_event rfl

theorem Laws.Roundtrip.write (port : Nat) (m : LinkMsg) : Roundtrip.Statement (.write port m) := roundtrip_event rfl

theorem Laws.Roundtrip.writeAck (port : Nat) (m : LinkMsg) : Roundtrip.Statement (.writeAck port m) := roundtrip_event rfl

theorem Laws.Roundtrip.amo (port : Nat) (m : LinkMsg) : Roundtrip.Statement (.amo port m) := roundtrip_event rfl

theorem Laws.Roundtrip.amoRsp (port : Nat) (m : LinkMsg) : Roundtrip.Statement (.amoRsp port m) := roundtrip_event rfl

theorem Laws.Roundtrip.reduceAck (port : Nat) (m : LinkMsg) : Roundtrip.Statement (.reduceAck port m) := roundtrip_event rfl

theorem Laws.Roundtrip.migrate (port : Nat) (m : LinkMsg) : Roundtrip.Statement (.migrate port m) := roundtrip_event rfl

theorem Laws.Roundtrip.mgmt (port : Nat) (m : LinkMsg) : Roundtrip.Statement (.mgmt port m) := roundtrip_event rfl

theorem Laws.Roundtrip.linkctl (port : Nat) (m : LinkMsg) : Roundtrip.Statement (.linkctl port m) := roundtrip_event rfl

theorem Laws.Roundtrip.reservedMessage (port : Nat) (m : LinkMsg) : Roundtrip.Statement (.reservedMessage port m) := roundtrip_event rfl

theorem Laws.Roundtrip.illegalOpcode (f : EncFault) (at_ : Dword) : Roundtrip.Statement (.illegalOpcode f at_) := roundtrip_event rfl

theorem Laws.Roundtrip.badOpcode (c : PfCmd) : Roundtrip.Statement (.badOpcode c) := roundtrip_event rfl

theorem Laws.Roundtrip.idleFlit (port : Nat) (f : Flit) : Roundtrip.Statement (.idleFlit port f) := roundtrip_event rfl

theorem Laws.Roundtrip.tripClear (die : Nat) : Roundtrip.Statement (.tripClear die) := roundtrip_event rfl

theorem Laws.Roundtrip.baseModelReplace (hash : Dword) : Roundtrip.Statement (.baseModelReplace hash) := roundtrip_event rfl

theorem Laws.Roundtrip.ideCheckFailure (vf : Nat) : Roundtrip.Statement (.ideCheckFailure vf) := roundtrip_event rfl

end Sys2Proof
end

