-- ==== Sys2Proof/Safety.lean ====
section
/-! DEFINITION. The words in which statements about the module are made: what a step leaves alone (frames), how an
instruction of a stream retires, traps or waits, and the canonical form of the module's memories. -/

namespace Sys2Proof.Machine
open Sys2Proof

/-! ### Frames -/

/-- Every byte of memory reads as before: device physical memory as any agent reads it, every scratchpad, and host
memory. -/
def MemorySame (s t : State) : Prop :=
  (∀ view agent pa, t.mem.byteAt view agent pa = s.mem.byteAt view agent pa)
    ∧ (∀ core a, (t.core core).sp.byte a = (s.core core).sp.byte a) ∧ ∀ a, t.host.byte a = s.host.byte a

/-- Nothing of the module changed but one core, and how the last issue ended. -/
def OnlyCore (s t : State) (core : Nat) : Prop :=
  t = { s with cores := t.cores, issue := t.issue } ∧ ∀ d, d ≠ core → t.core d = s.core d

/-- Nothing of the module changed but the stream that executes, and the note of when its node last advanced. -/
def OnlyStream (s t : State) : Prop :=
  OnlyCore s t s.cur ∧ t.here = { s.here.setStream s.curX t.self with advanced := t.here.advanced }

/-- Of the stream that executes nothing changed but registers, offsets, loop levels and the record of a wait: the mode,
the trap registers and the fault record are as before. -/
def OnlyRegs (s t : State) : Prop :=
  t.self = { s.self with pc := t.self.pc, gpc := t.self.gpc, regs := t.self.regs, hregs := t.self.hregs
                         loops := t.self.loops, wait := t.self.wait }

/-- A register number names the handler bank in a mode (R72). -/
def inHandlerBank (m : Mode) (r : Reg) : Prop := m = .handler ∧ 24 ≤ r.toNat

/-- Every scalar register of the stream that executes, in both banks, reads as before, but register `d` of the bank
that the present mode names. -/
def RegsBut (s t : State) (d : Reg) : Prop :=
  ∀ (m : Mode) (r : Reg), (r ≠ d ∨ ¬(inHandlerBank m r ↔ inHandlerBank s.self.mode r)) →
    ({ t.self with mode := m } : Stream).reg r = ({ s.self with mode := m } : Stream).reg r

/-- Every scalar register of the stream that executes reads as before. -/
def RegsSame (s t : State) : Prop := t.self.regs = s.self.regs ∧ t.self.hregs = s.self.hregs

/-! ### Ends of an instruction -/

/-- The stream goes on behind `n` words; a group ends with the word that has S (R69). Where a loop body may end, the
statements about loops say where it goes on. -/
def GoesOn (s t : State) (n : Nat) (stop : Bool) : Prop :=
  t.issue = .retired ∧ t.self.wait = none ∧
    ((s.self.loops.depth = 0 ∨ s.self.mode = .handler ∨ stop = false) →
      t.self.pc = s.self.pc + BitVec.ofNat 64 (4 * n) ∧ t.self.gpc = if stop then t.self.pc else s.self.gpc)

/-- An instruction of one word retires, and its only effect is `v` in register `d`; a write to s0 is discarded. -/
def Writes (s t : State) (d : Reg) (v : Dword) (stop : Bool) : Prop :=
  (d ≠ 0 → t.reg d = v) ∧ t.reg 0 = 0 ∧ RegsBut s t d ∧ OnlyRegs s t ∧ OnlyStream s t ∧ MemorySame s t
    ∧ GoesOn s t 1 stop

/-- An instruction of `n` words retires with no effect but the advance of its stream. Where `s` is a state to which an
instruction's effect has been written out, this says that the effect is all that happened. -/
def AdvancesBy (s t : State) (n : Nat) (stop : Bool) : Prop :=
  RegsSame s t ∧ OnlyRegs s t ∧ OnlyStream s t ∧ MemorySame s t ∧ GoesOn s t n stop

/-- An instruction of one word retires with no effect but the advance of its stream. -/
def OnlyAdvances (s t : State) (stop : Bool) : Prop := AdvancesBy s t 1 stop

/-- The stream goes on at an offset, with a new group there. -/
def GoesTo (t : State) (target : Dword) : Prop :=
  t.issue = .retired ∧ t.self.wait = none ∧ t.self.pc = target ∧ t.self.gpc = target

/-- A taken transfer to an offset ends every loop level whose body does not hold it, innermost first; in handler mode the levels
stand (R105). -/
def LeavesLoops (s t : State) (target : Dword) : Prop :=
  let l := s.self.loops
  let inner := l.start1.toNat ≤ target.toNat ∧ target.toNat ≤ l.end1.toNat
  let outer := l.start0.toNat ≤ target.toNat ∧ target.toNat ≤ l.end0.toNat
  (s.self.mode = .handler ∨ l.depth = 0 → t.self.loops = l)
    ∧ (s.self.mode ≠ .handler → l.depth = 1 → t.self.loops = if outer then l else { l with depth := 0 })
    ∧ (s.self.mode ≠ .handler → l.depth = 2 →
        t.self.loops = if inner then l else if outer then { l with depth := 1 } else { l with depth := 0 })

/-- An offset is one that a transfer of the stream that executes may take (R102): a multiple of 4 inside its binary. -/
def State.mayGoTo (s : State) (target : Dword) : Prop :=
  target.toNat % 4 = 0 ∧ target.toNat < s.here.binLen s.curX s.self.mode

/-- A trap taken by a stream that may take one (R77, R78): the group's offset, cause, value and status are saved, the
mode enters the handler's from node mode and stays in device mode, the stream goes on at its trap vector with its fault
record as given, and the other stream is posted its sibling trap where it is in node mode. No other register of either
stream changes, a wait of the stream has not begun, so that reads which it sent to peers are given up, and the rest of the module is as
before. -/
def TookTrap (s t : State) (core : Nat) (x : Bool) (code : Byte) (val : Dword) (flags : Nat) (rec : FaultRec) : Prop :=
  let a := (s.core core).stream x
  let o := (s.core core).stream (!x)
  OnlyCore (s.dropReads (.stream core)) t core
    ∧ (t.core core).stream x =
      { a with epc := a.gpc, ecause := code.zeroExtend 64, eval := val, estatus := BitVec.ofNat 64 (flags + a.mode.code)
               mode := if a.mode = .node then .handler else a.mode
               pc := a.tvec, gpc := a.tvec, frec := rec, sib := none, wait := none }
    ∧ (t.core core).stream (!x) = (if o.mode = .node then { o with sib := some code } else o)
    ∧ t.core core =
      { s.core core with c := (t.core core).c, x := (t.core core).x, waiters := (t.core core).waiters
                         joining := (t.core core).joining, stand := (t.core core).stand }
    ∧ MemorySame s t

/-- The fault record of a precise trap that writes no more than its cause (R417, R418). -/
def plainRec (x : Bool) (code : Byte) : FaultRec :=
  { FaultRec.zero with cause := BitVec.ofNat 64 (2 ^ 16 + (if x then 1 else 0) * 2 ^ 8 + code.toNat) }

/-- The stream that executes takes a precise trap that shows only its cause: none of its group's instructions has
effect. -/
def TrapsHere (s t : State) (code : Byte) (val : Dword) : Prop :=
  TookTrap s t s.cur s.curX code val 0 (plainRec s.curX code) ∧ t.issue = .trapped

/-- A stream can take a trap without ending its node (R77, R90). -/
def State.canTrap (s : State) (core : Nat) (x : Bool) : Prop :=
  ((s.core core).stream x).mode ≠ .handler ∧
    (((s.core core).stream x).mode = .node → s.noHandler (s.core core).vfid = false)

/-- The stream that executes can take a trap without ending its node. -/
def State.mayTrap (s : State) : Prop := s.canTrap s.cur s.curX

/-- The stream that executes waits: its group has not begun, and nothing changed but its own record of the wait, and the
semaphore's queue of waiters (R74, R94, R95). -/
def Waits (s t : State) (on : WaitOn) : Prop :=
  t.issue = .waiting ∧ t.self.pc = s.self.gpc ∧ t.self.wait.map Prod.fst = some on ∧ RegsSame s t ∧ OnlyRegs s t
    ∧ OnlyCore s t s.cur ∧ MemorySame s t
    ∧ t.here = { s.here.setStream s.curX t.self with waiters := t.here.waiters }

/-! ### Memory as an instruction meets it -/

/-- The lines of `n` bytes at a leaf are plain memory to an agent's access for a VF: no peer window and no aperture, no poison,
no error and no broken tag not yet met, a frame that it sees as data, and no probe-managed entry that serves it (R204, R375,
R387, R396, R405, R406). -/
def State.plainLines (s : State) (a : Agent) (vf : Nat) (l : Leaf) (n : Nat) : Prop :=
  (∀ i, i < n → ∃ k, regionOf (l.pa + i) = .hbm k ∨ regionOf (l.pa + i) = .cxl k)
    ∧ (∀ x ∈ linesOf l.pa n, SMap.get 0 s.mem.poison x = 0 ∧ s.mem.latent.lookup x = none ∧ s.mem.untrue x = false
        ∧ ∀ k, regionOf (64 * x) = .cxl k → SMap.get false s.mem.cxlDown k = false)
    ∧ s.sight a vf l.pa l.enc = .plain ∧ s.serving a l.pa = none

/-- The page of a write to an address of a VF joins the dirty log of the VF's migration, and nothing else changes; without a
migration nothing does (R412). -/
def LogsPage (s t : State) (vf va : Nat) : Prop :=
  t = { s with vfs := t.vfs } ∧ (∀ v, v ≠ vf → t.vf v = s.vf v) ∧ ((s.vf vf).migr = none → t = s)
    ∧ ∀ g, (s.vf vf).migr = some g → t.vf vf = { s.vf vf with migr := some { g with
        dirty := if va / 2 ^ 19 ∈ g.dirty then g.dirty else g.dirty ++ [va / 2 ^ 19] } }

/-- The memory system's log lies in the order of its serial numbers, all below the next one. -/
def MemSys.ordered (m : MemSys) : Prop := (m.log.map Prod.fst).Pairwise (· < ·) ∧ ∀ p ∈ m.log, p.1 < m.nextId

/-! ### Command queues -/

/-- Of a core nothing changed but its command queues and what their commands work on: semaphores, their waiters and
the waits they have served, table slots and the quadrant. -/
def OnlyQueues (a b : Core) : Prop :=
  b = { a with load := b.load, store := b.store, matrix := b.matrix, backfill := b.backfill, sems := b.sems
               waiters := b.waiters, granted := b.granted, slots := b.slots, quad := b.quad, advanced := b.advanced }

/-- Another core and every other queue of this one are as before. -/
def OnlyQueue (s t : State) (core : Nat) (q : EngQ) : Prop :=
  OnlyCore s t core ∧ t.issue = s.issue ∧ OnlyQueues (s.core core) (t.core core) ∧ MemorySame s t
    ∧ ∀ p, p ≠ q → (t.core core).eng p = (s.core core).eng p

/-- A step of a head command completes: where `s` holds its effect, its counter is one higher, it does not wait, it holds
the latched records `recs`, and nothing else changed. -/
def StepsHead (s t : State) (core : Nat) (q : EngQ) (recs : List (List Byte)) : Prop :=
  let e := (s.core core).eng q
  t = { s with cores := t.cores } ∧ (∀ d, d ≠ core → t.core d = s.core d)
    ∧ t.core core =
      { (s.core core).setEng q { e with step := e.step + 1, wait := none, latch := { e.latch with recs := recs } } with
          advanced := s.tb }

/-- The head command of a queue meets an engine fault that shows only its cause: it keeps its place, and its fault record
holds its number and step (R80, R417). Nothing else changed. -/
def FaultsHead (s t : State) (core : Nat) (q : EngQ) (code : Byte) : Prop :=
  let e := (s.core core).eng q
  let src := match q with | .load => 2 | .store => 3 | .matrix => 4 | .backfill => 5
  t = { s with cores := t.cores } ∧ (∀ d, d ≠ core → t.core d = s.core d)
    ∧ t.core core = (s.core core).setEng q
      { e with fault := some (code, false), wait := none, todo := none
               frec := { FaultRec.zero with cause := BitVec.ofNat 64 (2 ^ 16 + src * 2 ^ 8 + code.toNat)
                                            idx := e.head.zeroExtend 64, step := BitVec.ofNat 64 e.step } }

/-- The head command of a queue waits; nothing else changed. -/
def WaitsHead (s t : State) (core : Nat) (q : EngQ) (on : WaitOn) : Prop :=
  t = { s with cores := t.cores } ∧ (∀ d, d ≠ core → t.core d = s.core d)
    ∧ t.core core = (s.core core).setEng q { (s.core core).eng q with wait := some on }

/-! ### Vector queues -/

/-- The entries that an X-stream instruction reads, in operand order: a pop takes the head, a peek leaves it (R115). -/
def Core.readsOf (c : Core) : List (Reg × Bool) → List Vec
  | [] => []
  | (q, peek) :: rest =>
    (c.queue q.toNat).headD 0 :: (if peek then c else c.setQueue q.toNat (c.queue q.toNat).tail).readsOf rest

/-- The queues after those reads. -/
def Core.afterReads (c : Core) : List (Reg × Bool) → Core
  | [] => c
  | (q, peek) :: rest => (if peek then c else c.setQueue q.toNat (c.queue q.toNat).tail).afterReads rest

/-- Of the core that executes nothing changed but its streams' offsets, vector queues, masks and vflags. -/
def OnlyVector (s t : State) : Prop :=
  OnlyCore s t s.cur ∧ t.here =
    { s.here.setStream s.curX t.self with
        vec := { s.here.vec with queues := t.here.vec.queues, masks := t.here.vec.masks, vflags := t.here.vec.vflags }
        advanced := t.here.advanced }

/-- An X-stream instruction of one word retires: it read the entries of `l`, pushed `v` into queue `d` and raised the
flags `fl` in vflags; nothing else changed but, perhaps, scalar registers. -/
def PushesEntry (s t : State) (l : List (Reg × Bool)) (d : Reg) (v : Vec) (fl : Dword) (stop : Bool) : Prop :=
  (∀ q : Nat, t.here.queue q = if q = d.toNat then (s.here.afterReads l).queue q ++ [v] else (s.here.afterReads l).queue q)
    ∧ (∀ k, t.here.mask k = s.here.mask k) ∧ t.here.vec.vflags = s.here.vec.vflags ||| fl
    ∧ OnlyRegs s t ∧ OnlyVector s t ∧ MemorySame s t ∧ GoesOn s t 1 stop

/-- The same, and no scalar register changed. -/
def Pushes (s t : State) (l : List (Reg × Bool)) (d : Reg) (v : Vec) (fl : Dword) (stop : Bool) : Prop :=
  PushesEntry s t l d v fl stop ∧ RegsSame s t

/-- An X-stream instruction of one word retires: it read the entries of `l`, wrote `v` into mask `d` and raised the flags
`fl` in vflags; nothing else changed. No word names k0 as `d` (R59). -/
def SetsMask (s t : State) (l : List (Reg × Bool)) (d : MaskReg) (v : Word) (fl : Dword) (stop : Bool) : Prop :=
  (∀ q : Nat, t.here.queue q = (s.here.afterReads l).queue q)
    ∧ (∀ k, t.here.mask k = if k = d then v else s.here.mask k)
    ∧ t.here.vec.vflags = s.here.vec.vflags ||| fl
    ∧ RegsSame s t ∧ OnlyRegs s t ∧ OnlyVector s t ∧ MemorySame s t ∧ GoesOn s t 1 stop

/-- Flags of a vector instruction (R112, R116): each is raised where an active element, of `n`, raises it. -/
def RaisesFlags (fl : Dword) (n : Nat) (on : Nat → Bool) (f : Nat → Fp.Flags) : Prop :=
  fl.toNat < 4 ∧ (fl.getLsbD 0 = true ↔ ∃ j, j < n ∧ on j = true ∧ (f j).nv = true)
    ∧ (fl.getLsbD 1 = true ↔ ∃ j, j < n ∧ on j = true ∧ (f j).ovf = true)

/-- An instruction that finds its queues ready, but not an element type that it accepts, traps with 0x1B (R117). -/
def RefusesType (s : State) (i : Instr) : Prop :=
  s.queues i = .ok () → s.mayTrap → ∃ t, exec i s = .next t ∧ TrapsHere s t 0x1B s.here.vec.vtype

/-! ### The PF's commands -/

/-- A PF command is answered (R439, R440): where `s` holds its effect, CMDSTAT holds the code, the command block's RESULT
the result, and nothing else changed. -/
def Replies (s t : State) (code : Nat) (result : Dword) : Prop :=
  t = { s with host := t.host, pf := { s.pf with cmdStat := BitVec.ofNat 64 code } }
    ∧ ∀ a, t.host.byte a =
      if s.pf.cmdAddr.toNat + 0x20 ≤ a ∧ a < s.pf.cmdAddr.toNat + 0x28 then
        result.extractLsb' (8 * (a - s.pf.cmdAddr.toNat - 0x20)) 8
      else s.host.byte a

/-! ### The canonical form -/

/-- The module's memories are in their canonical form: device memory that every die agrees on, and host memory. -/
def Canonical (s : State) : Prop := Memory.wf s.mem.base = true ∧ Memory.wf s.host = true

end Sys2Proof.Machine
end

