-- ==== Sys2Proof/Certificates/Slice0/Obligations.lean ====
section
/-! DEFINITION. The statements about the module, for the provers: one definition each. -/

open Sys2Proof Sys2Proof.Machine

/-! ### Words and instructions (chapters 02, 04) -/

/-- Decode of encode: every well-formed instruction's word, with its tail behind it where it has one, decodes to that
instruction, with every operand at every value that R46, R48 and R59 allow, in every stream whose map holds it. -/
def Obligations.DecodeEncode : Prop := ∀ i : Instr, Laws.Roundtrip.Statement i

/-- Encode of decode: a word that decodes is the word of a well-formed instruction, and its tail the tail. No two words
stand for one instruction. -/
def Obligations.EncodeDecode : Prop :=
  ∀ (x : Bool) (w next : Word) (i : Instr), decodeWord x w next = .ok i →
    i.wf = true ∧ ∃ e, encode i = some e ∧ (∀ y ∈ e.stream, y = x) ∧ e.word.toWord = w
      ∧ (e.tail.isSome = w.getLsbD 1) ∧ ∀ t ∈ e.tail, t.toWord = next

/-- The words of the manual's worked example of the scalar streams (R108) and a word of the vector family (R119), read as written. -/
def Obligations.WordsRead : Prop :=
  decodeWord false 0x04C00001 0 = .ok (.addi ⟨6, 0, 0, true⟩)
    ∧ decodeWord false 0x1CA00049 0 = .ok (.lui ⟨5, 0x12, true⟩)
    ∧ decodeWord false 0x04A500D1 0 = .ok (.addi ⟨5, 5, 0x34, true⟩)
    ∧ decodeWord false 0x4C03000D 0 = .ok (.loopi ⟨3, 3, true⟩)
    ∧ decodeWord false 0x00C62801 0 = .ok (.add ⟨6, 6, 5, true⟩)
    ∧ decodeWord false 0x14A50005 0 = .ok (.shli ⟨5, 5, 1, true⟩)
    ∧ decodeWord false 0x50060001 0 = .ok (.cqpush ⟨6, true⟩)
    ∧ decodeWord true 0x50E00081 0 = .ok (.cqpop ⟨7, true⟩)
    ∧ decodeWord true 0x81801001 0 = .ok (.vadd ⟨12, 0, 2, 0, false, false, true⟩)

/-- R43, R69: a step whose turn is a stream's issues what the words at its program counter decode to. Where the first word
ends its group (S = 1) and carries no tail, or carries one, the step is exec of the decoded instruction in the state whose
stream stands at it; then the turn passes on and a cycle passes. R49 to R53: of a group of two instructions, where the first
that executes and then the second retire, both have taken effect, the second upon the first, and the stream stands where the
last word leaves it; a CSR instruction executes first and a queued command last, whichever stands first. Where one of them
alone does not retire, the group does what that one does alone and nothing else. A group beyond a limit of R50 or R51 is
refused with cause 0x06 at its later word; one whose instructions name the same register, one of them to write it (R52), or
whose transfer is not its last, with 0x05. An event of the agenda is executed likewise. Stated where no word of a core's
storage holds an error that no read has met (R421). What rests here on the model's own reading is in log entries 1, 4. -/
def Obligations.StepRunsDecoded : Prop :=
  (∀ (s : State) (x : Bool) (w next : Word) (i : Instr),
    s.errors = [] → s.agenda = [] → s.turn = .stream x → (s.core s.cur).mayIssue x = true → (s.core s.cur).dbg.halted = false →
    ((s.core s.cur).stream x).sib = none →
    (x = true ∨ (s.core s.cur).c.mode = .handler ∨ (s.core s.cur).pendingFaults = []) →
    let c := s.core s.cur
    let off := (c.stream x).gpc.toNat
    c.fetch x (c.stream x).mode off = .word w → w.getLsbD 0 = true →
    (w.getLsbD 1 = true → c.fetch x (c.stream x).mode (off + 4) = .word next) →
    off + (if w.getLsbD 1 then 8 else 4) ≤ c.binLen x (c.stream x).mode →
    decodeWord x w next = .ok i →
    (∀ e, (c.stream x).loops.depth ≤ 2 → (c.stream x).insideEnd (off + (if w.getLsbD 1 then 8 else 4)) ≠ some e) →
    step s =
      match exec i ((s.onStream s.cur x).atInstr (c.stream x).gpc (c.stream x).gpc) with
      | .next t => .next ((t.passOn (.stream x) s.cur).firmware.tick)
      | .fault f => .fault f
      | .refused r => .refused r)
  ∧ (∀ (s : State) (x : Bool) (p q : Placed) (ws : List Word) (stop : Nat),
    s.errors = [] → s.agenda = [] → s.turn = .stream x → (s.core s.cur).mayIssue x = true → (s.core s.cur).dbg.halted = false →
    ((s.core s.cur).stream x).sib = none →
    (x = true ∨ (s.core s.cur).c.mode = .handler ∨ (s.core s.cur).pendingFaults = []) →
    let c := s.core s.cur
    let u := c.stream x
    c.group x = .words ws stop → decodeGroup x u.gpc.toNat ws = .ok [p, q] →
    let here := s.onStream s.cur x
    let gives (t : State) : Prop := step s = .next ((t.passOn (.stream x) s.cur).firmware.tick)
    let runs (i : Placed) (b t : State) : Prop := exec i.1 (b.atInstr u.gpc i.2) = .next t
    (∀ f a t, groupFault x c.vec.vtype c.vec.vcidx [p, q] = some (f, a) → exec (.illegalOpcode f a) here = .next t → gives t)
    ∧ (groupFault x c.vec.vtype c.vec.vcidx [p, q] = none → u.insideEnd stop = none → here.here.groupQueues x [p, q] = .ok () →
      let back := (isCsr q.1 = true ∧ isCsr p.1 = false) ∨ (clsOf p.1 = .e ∧ clsOf q.1 ≠ .e)
      (¬back → ∀ a b, runs p here a → runs q a b → a.issue = .retired → b.issue = .retired →
        gives (b.updSelf fun t => { t with pc := b.self.pc, gpc := b.self.gpc }))
      ∧ (back → ∀ a b, runs q here a → runs p a b → a.issue = .retired → b.issue = .retired →
        gives (b.updSelf fun t => { t with pc := a.self.pc, gpc := a.self.gpc }))
      ∧ (¬back → ∀ a, runs p here a → a.issue ≠ .retired → gives a)
      ∧ (¬back → ∀ a b d, runs p here a → a.issue = .retired → runs q a b → b.issue ≠ .retired →
        runs q here d → d.issue ≠ .retired → gives d)
      ∧ (back → ∀ a b, runs p here a → runs q here b → b.issue ≠ .retired → gives (if a.issue = .retired then b else a))))
  ∧ (∀ (vt idx a b : Dword) (p q : Instr),
    let refuses (x : Bool) (f : EncFault) (at_ : Dword) : Prop := groupFault x vt idx [(p, a), (q, b)] = some (f, at_)
    ((aloneOf p = true ∨ aloneOf q = true) → ∀ x, refuses x .illegalLength b)
    ∧ (clsOf p = clsOf q → (clsOf p = .m ∨ clsOf p = .e → refuses false .illegalLength b)
        ∧ (clsOf p = .p ∨ clsOf p = .s → refuses true .illegalLength b))
    ∧ ∀ o u : R3, p = .add o →
        (q = .sub u → (o.d ≠ 0 ∧ (u.a = o.d ∨ u.b = o.d ∨ u.d = o.d)) ∨ (u.d ≠ 0 ∧ (o.a = u.d ∨ o.b = u.d)) →
          refuses false .illegalGroup b)
        ∧ (q = .sub u → (o.d = 0 ∨ (u.a ≠ o.d ∧ u.b ≠ o.d ∧ u.d ≠ o.d)) → (u.d = 0 ∨ (o.a ≠ u.d ∧ o.b ≠ u.d)) →
          groupFault false vt idx [(p, a), (q, b)] = none)
        ∧ ∀ j : RJ, groupFault false vt idx [(.jal j, a), (p, b)] = some (.illegalGroup, a))
  ∧ ∀ (s : State) (i : Instr) (rest : List Instr), s.errors = [] → s.agenda = i :: rest →
    step s =
      match exec i { s with agenda := rest } with
      | .next t => .next t.tick
      | .fault f => .fault f
      | .refused r => .refused r

/-! ### Scalar arithmetic (R97 to R99) -/

/-- R97: every integer R-form completes in every state, in every mode and either stream; s[d] takes the value of the table, a
write to s0 is discarded, and nothing else changes. clz and popc have no b: a word that names one is refused. R98: every
immediate form completes in every state with the value of the rule, and nothing else changes; a shift's word bits [13:8] are
zero or the word is refused. R99: lui, auipc and lea complete in every state with the value of the rule, and nothing else
changes; lea's fn 0x004 and above are refused with cause 0x02. -/
def Obligations.ScalarForms : Prop :=
  ((∀ (o : R3) (s : State),
     let x := s.reg o.a
     let y := s.reg o.b
     let puts (i : Instr) (v : Dword) : Prop := ∃ t, exec i s = .next t ∧ Writes s t o.d v o.stop
     puts (.add o) (x + y) ∧ puts (.sub o) (x - y) ∧ puts (.and o) (x &&& y) ∧ puts (.or o) (x ||| y)
       ∧ puts (.xor o) (x ^^^ y) ∧ puts (.shl o) (x <<< (y.toNat % 64)) ∧ puts (.shr o) (x >>> (y.toNat % 64))
       ∧ puts (.sra o) (x.sshiftRight (y.toNat % 64)) ∧ puts (.mul o) (x * y)
       ∧ puts (.mulh o) ((x.signExtend 128 * y.signExtend 128).extractLsb' 64 64)
       ∧ puts (.mulhu o) ((x.zeroExtend 128 * y.zeroExtend 128).extractLsb' 64 64)
       ∧ puts (.div o) (if y = 0 then 0xFFFFFFFFFFFFFFFF else x.sdiv y)
       ∧ puts (.divu o) (if y = 0 then 0xFFFFFFFFFFFFFFFF else x / y)
       ∧ puts (.rem o) (if y = 0 then x else x.srem y) ∧ puts (.remu o) (if y = 0 then x else x % y)
       ∧ puts (.min o) (BitVec.ofInt 64 (min x.toInt y.toInt)) ∧ puts (.max o) (BitVec.ofInt 64 (max x.toInt y.toInt))
       ∧ puts (.minu o) (BitVec.ofNat 64 (min x.toNat y.toNat)) ∧ puts (.maxu o) (BitVec.ofNat 64 (max x.toNat y.toNat))
       ∧ puts (.slt o) (if x.toInt < y.toInt then 1 else 0) ∧ puts (.sltu o) (if x.toNat < y.toNat then 1 else 0))
   ∧ (∀ (o : R2) (s : State),
     let x := s.reg o.a
     (∃ t n, exec (.clz o) s = .next t ∧ Writes s t o.d (BitVec.ofNat 64 n) o.stop ∧ n ≤ 64
         ∧ (∀ i, 64 - n ≤ i → x.getLsbD i = false) ∧ (n < 64 → x.getLsbD (63 - n) = true))
       ∧ ∃ t, exec (.popc o) s = .next t
         ∧ Writes s t o.d (BitVec.ofNat 64 ((List.range 64).countP fun i => x.getLsbD i)) o.stop)
   ∧ ∀ (x : Bool) (r : RWord) (next : Word), r.major = 0 → r.fn = 0x015 ∨ r.fn = 0x016 → r.b ≠ 0 →
     ∃ f, decodeR x r next = .error f)
  ∧ ((∀ (o : RI) (s : State),
     let x := s.reg o.a
     let y := o.imm.signExtend 64
     let puts (i : Instr) (v : Dword) : Prop := ∃ t, exec i s = .next t ∧ Writes s t o.d v o.stop
     puts (.addi o) (x + y) ∧ puts (.andi o) (x &&& y) ∧ puts (.ori o) (x ||| y) ∧ puts (.xori o) (x ^^^ y))
   ∧ (∀ (o : RSh) (s : State),
     let x := s.reg o.a
     let puts (i : Instr) (v : Dword) : Prop := ∃ t, exec i s = .next t ∧ Writes s t o.d v o.stop
     puts (.shli o) (x <<< o.n.toNat) ∧ puts (.shri o) (x >>> o.n.toNat) ∧ puts (.srai o) (x.sshiftRight o.n.toNat))
   ∧ (∀ (o : RI13) (s : State),
     let x := s.reg o.a
     let y : Dword := o.imm.signExtend 64
     let puts (i : Instr) (v : Dword) : Prop := ∃ t, exec i s = .next t ∧ Writes s t o.d v o.stop
     puts (.slti o) (if x.toInt < y.toInt then 1 else 0) ∧ puts (.sltiu o) (if x.toNat < y.toNat then 1 else 0))
   ∧ ∀ (x : Bool) (r : RWord) (next : Word), r.major = 5 → r.imm14.extractLsb' 6 6 ≠ 0 →
     ∃ f, decodeR x r next = .error f)
  ∧ ((∀ (o : RU) (s : State),
     let up : Dword := (BitVec.ofNat 32 (o.imm.toNat * 2 ^ 13)).signExtend 64
     (∃ t, exec (.lui o) s = .next t ∧ Writes s t o.d up o.stop)
       ∧ ∃ t, exec (.auipc o) s = .next t ∧ Writes s t o.d (s.self.pc + up) o.stop)
   ∧ (∀ (o : RLea) (s : State), ∃ t, exec (.lea o) s = .next t
       ∧ Writes s t o.d (s.reg o.a + s.reg o.b * BitVec.ofNat 64 (2 ^ o.sh.toNat)) o.stop)
   ∧ ∀ (x : Bool) (r : RWord) (next : Word), r.major = 9 → 4 ≤ r.fn.toNat → decodeR x r next = .error .reservedValue)

/-! ### Control transfers and loops (R100 to R105) -/

/-- R100, R102: a branch whose condition holds goes to its own offset plus 4 times its offset field where that lies in
the binary, and takes trap 0x15 with the target in eval where it does not; a branch whose condition fails goes on. No
branch changes a register. R105: outside handler mode a transfer that is taken ends each loop level, innermost first, whose
body does not hold the target; the counts stay. -/
def Obligations.Branches : Prop :=
  ∀ (o : RBr) (s : State),
    let x := s.reg o.a
    let y := s.reg o.b
    let target := s.self.pc + o.off.signExtend 64 * 4
    let branches (i : Instr) (holds : Prop) : Prop :=
      (holds → s.mayGoTo target → ∃ t, exec i s = .next t ∧ GoesTo t target ∧ LeavesLoops s t target
          ∧ RegsSame s t ∧ OnlyRegs s t ∧ OnlyStream s t ∧ MemorySame s t)
      ∧ (¬holds → ∃ t, exec i s = .next t ∧ OnlyAdvances s t o.stop)
      ∧ (holds → ¬s.mayGoTo target → s.mayTrap → ∃ t, exec i s = .next t ∧ TrapsHere s t 0x15 target)
    branches (.beq o) (x = y) ∧ branches (.bne o) (x ≠ y) ∧ branches (.blt o) (x.toInt < y.toInt)
      ∧ branches (.bge o) (y.toInt ≤ x.toInt) ∧ branches (.bltu o) (x.toNat < y.toNat)
      ∧ branches (.bgeu o) (y.toNat ≤ x.toNat)

/-- R101, R102: jal links into s31 and jalr into s[d], which it writes after it has read s[a]; the target is checked
before the transfer, and a target outside the binary writes no link. R105: they
end loop levels as a branch does. -/
def Obligations.Links : Prop :=
  let links (i : Instr) (s : State) (d : Reg) (target : Dword) : Prop :=
    (s.mayGoTo target → ∃ t, exec i s = .next t ∧ GoesTo t target ∧ LeavesLoops s t target ∧ (d ≠ 0 → t.reg d = s.self.pc + 4)
        ∧ RegsBut s t d ∧ OnlyRegs s t ∧ OnlyStream s t ∧ MemorySame s t)
    ∧ (¬s.mayGoTo target → s.mayTrap → ∃ t, exec i s = .next t ∧ TrapsHere s t 0x15 target)
  (∀ (o : RJ) (s : State), links (.jal o) s 31 (s.self.pc + o.off.signExtend 64 * 4))
    ∧ ∀ (o : RI) (s : State), links (.jalr o) s o.d (s.reg o.a + o.imm.signExtend 64)

/-- R103: loop and loopi open the next level, whose body runs from the next word to the offset's word; loop with a count of 0
skips the body, and where the skip lands on the last word of the enclosing body's, that level counts down as R104 says; an
offset that is not positive and a third level trap with 0x14; a loop in handler mode (R105) takes trap 0x14 there, which ends
the node (R77). loopi with n = 0 is no instruction. R104, R105: when a group whose last word lies at lend of the innermost
level retires, its count goes down; a count that stays above 0 goes back to lstart, and one that reaches 0 ends the level and
hands the test to the outer level. Stated of nop, whose only effect is to retire. In handler mode no level counts. -/
def Obligations.HardwareLoops : Prop :=
  (let opens (i : Instr) (s : State) (off : BitVec 14) (n : Dword) : Prop :=
     let p := s.self.pc
     let last := p + off.signExtend 64 * 4
     let l := s.self.loops
     (s.self.mode ≠ .handler → 0 < off.toInt → l.depth < 2 → n ≠ 0 →
       ∃ t, exec i s = .next t ∧ GoesTo t (p + 4) ∧ t.self.loops.depth = l.depth + 1
         ∧ (if l.depth = 0 then
             t.self.loops = { l with start0 := p + 4, end0 := last, cnt0 := n, depth := 1 }
           else t.self.loops = { l with start1 := p + 4, end1 := last, cnt1 := n, depth := l.depth + 1 })
         ∧ RegsSame s t ∧ OnlyRegs s t ∧ OnlyStream s t ∧ MemorySame s t)
     ∧ (s.self.mode ≠ .handler → 0 < off.toInt → l.depth < 2 → n = 0 →
       (l.depth = 0 ∨ l.end0 ≠ last) → ∃ t, exec i s = .next t ∧ GoesTo t (last + 4) ∧ t.self.loops = l
         ∧ RegsSame s t ∧ OnlyRegs s t ∧ OnlyStream s t ∧ MemorySame s t)
     ∧ (s.self.mode ≠ .handler → 0 < off.toInt → l.depth = 1 → n = 0 → l.end0 = last →
       ∃ t, exec i s = .next t ∧ RegsSame s t ∧ OnlyRegs s t ∧ OnlyStream s t ∧ MemorySame s t
         ∧ (l.cnt0 ≠ 1 → GoesTo t l.start0 ∧ t.self.loops = { l with cnt0 := l.cnt0 - 1 })
         ∧ (l.cnt0 = 1 → GoesTo t (last + 4) ∧ t.self.loops = { l with cnt0 := 0, depth := 0 }))
     ∧ (s.self.mode ≠ .handler → (off.toInt ≤ 0 ∨ l.depth = 2) → s.mayTrap →
       ∃ t, exec i s = .next t ∧ TrapsHere s t 0x14 p)
     ∧ (s.self.mode = .handler → exec i s = .next (s.trapHere ⟨0x14, p, .zero, []⟩))
   (∀ (o : RLoop) (s : State), opens (.loop o) s o.off (s.reg o.a))
     ∧ (∀ (o : RLoopI) (s : State), o.n ≠ 0 → opens (.loopi o) s o.off (o.n.zeroExtend 64))
     ∧ ∀ (x : Bool) (r : RWord) (next : Word), r.major = 19 → r.d = 0 → r.a = 0 →
       decodeR x r next = .error .reservedValue)
  ∧ (∀ s : State,
     let l := s.self.loops
     let here := s.self.pc
     ∃ t, exec (.nop ⟨true⟩) s = .next t ∧ RegsSame s t ∧ OnlyRegs s t ∧ OnlyStream s t ∧ MemorySame s t
       ∧ t.self.gpc = t.self.pc
       ∧ (s.self.mode = .handler → t.self.loops = l ∧ t.self.pc = here + 4)
       ∧ (s.self.mode ≠ .handler → l.depth = 1 → l.end0 = here → l.cnt0 ≠ 1 →
           t.self.loops = { l with cnt0 := l.cnt0 - 1 } ∧ t.self.pc = l.start0)
       ∧ (s.self.mode ≠ .handler → l.depth = 1 → l.end0 = here → l.cnt0 = 1 →
           t.self.loops = { l with cnt0 := 0, depth := 0 } ∧ t.self.pc = here + 4)
       ∧ (s.self.mode ≠ .handler → l.depth = 1 → l.end0 ≠ here → t.self.loops = l ∧ t.self.pc = here + 4)
       ∧ (s.self.mode ≠ .handler → l.depth = 2 → l.end1 = here → l.cnt1 ≠ 1 →
           t.self.loops = { l with cnt1 := l.cnt1 - 1 } ∧ t.self.pc = l.start1)
       ∧ (s.self.mode ≠ .handler → l.depth = 2 → l.end1 = here → l.cnt1 = 1 → l.end0 ≠ here →
           t.self.loops = { l with cnt1 := 0, depth := 1 } ∧ t.self.pc = here + 4)
       ∧ (s.self.mode ≠ .handler → l.depth = 2 → l.end1 = here → l.cnt1 = 1 → l.end0 = here → l.cnt0 ≠ 1 →
           t.self.loops = { l with cnt1 := 0, cnt0 := l.cnt0 - 1, depth := 1 } ∧ t.self.pc = l.start0)
       ∧ (s.self.mode ≠ .handler → l.depth = 2 → l.end1 ≠ here → t.self.loops = l ∧ t.self.pc = here + 4))

/-! ### Traps and the system instructions (R77 to R81, R102, R108) -/

/-- R108, R60, R102: trap, brk without a debugger, an eret in node mode, a group with an encoding fault and a group at the
end of its binary take their precise trap, with its cause and eval. R108, R430: brk with a debugger attached retires; it
leaves its code in dbgstat[15:8] and halts every core of its node, its own among them. R108, R80: eret in handler or device
mode goes to epc in the mode that estatus.PM names, where epc is a multiple of 4 inside that mode's binary; a C-stream's eret
also lets every engine go on whose fault the C-stream has taken, and R81: a command behind one that the stream's handler
dropped is free to start. Nothing else changes. In device mode an epc outside takes trap 0x15. What rests here on the model's
own reading is in log entries 35, 58. -/
def Obligations.TrapsAndBreaks : Prop :=
  (∀ s : State, s.mayTrap →
     (∀ o : RCode, ∃ t, exec (.trap o) s = .next t ∧ TrapsHere s t 0x16 (o.code.zeroExtend 64))
     ∧ (∀ o : RCode, s.here.dbg.attached = false ∨ s.debugOpen s.cur = false →
         ∃ t, exec (.brk o) s = .next t ∧ TrapsHere s t 0x17 (o.code.zeroExtend 64))
     ∧ (∀ o : R0, s.self.mode = .node → ∃ t, exec (.eret o) s = .next t ∧ TrapsHere s t 0x18 0)
     ∧ (∀ (f : EncFault) (place : Dword), ∃ t, exec (.illegalOpcode f place) s = .next t ∧
         TrapsHere s t (match f with
           | .illegalOpcode => 0x01
           | .reservedValue => 0x02
           | .reservedField => 0x03
           | .unexpectedTail => 0x04
           | .illegalGroup => 0x05
           | .illegalLength => 0x06) place)
     ∧ ∃ t, exec .fetchPastEnd s = .next t
         ∧ TrapsHere s t 0x15 (BitVec.ofNat 64 (s.here.binLen s.curX s.self.mode)))
  ∧ (∀ (o : RCode) (s : State), s.here.dbg.attached = true → s.debugOpen s.cur = true →
     (∀ id n, s.here.node = some id → s.node? id = some n → s.cur ∈ n.cores) →
     ∃ t, exec (.brk o) s = .next t ∧ t.here.dbg.halted = true ∧ t.here.dbg.attached = true
       ∧ (∀ id n, s.here.node = some id → s.node? id = some n → ∀ c ∈ n.cores, (t.core c).dbg.halted = true)
       ∧ t.here.csr.dbgstat = (s.here.csr.dbgstat &&& 0xFF) ||| BitVec.ofNat 64 (o.code.toNat * 2 ^ 8)
       ∧ RegsSame s t ∧ t.self.mode = s.self.mode ∧ t.issue = .retired
       ∧ (s.self.loops.depth = 0 ∨ s.self.mode = .handler ∨ o.stop = false → t.self.pc = s.self.pc + 4))
  ∧ (∀ (o : R0) (s : State), s.self.mode ≠ .node →
     let m : Mode := match s.self.estatus.toNat % 4 with
       | 0 => .node
       | 1 => .handler
       | _ => .device
     let ok := s.self.epc.toNat % 4 = 0 ∧ s.self.epc.toNat < s.here.binLen s.curX m
     (ok → ∃ t, exec (.eret o) s = .next t ∧ GoesTo t s.self.epc ∧ t.self.mode = m
       ∧ t.self = { s.self with mode := m, pc := s.self.epc, gpc := s.self.epc, wait := none }
       ∧ OnlyCore s t s.cur ∧ MemorySame s t
       ∧ t.here = { s.here.setStream s.curX t.self with
           load := t.here.load, store := t.here.store, matrix := t.here.matrix, backfill := t.here.backfill
           advanced := t.here.advanced }
       ∧ ∀ q, t.here.eng q =
           (let e := s.here.eng q
            let e := if e.held = some s.curX then { e with held := none } else e
            if s.curX = false ∧ e.fault.any Prod.snd = true then { e with fault := none, frec := .zero } else e))
     ∧ (¬ok → s.self.mode = .device → ∃ t, exec (.eret o) s = .next t ∧ TrapsHere s t 0x15 s.self.epc))

/-- R108: nop retires with no effect in every state, and so do the hints of R211, which change no value that an agent
reads; wait retires once tb has reached its operand, and waits until then. -/
def Obligations.HintsAndWaits : Prop :=
  ∀ s : State,
    (∀ o : R0, ∃ t, exec (.nop o) s = .next t ∧ OnlyAdvances s t o.stop)
    ∧ (∀ o : RAB, (∃ t, exec (.l2hint o) s = .next t ∧ OnlyAdvances s t o.stop)
        ∧ ∃ t, exec (.l2hintDemote o) s = .next t ∧ OnlyAdvances s t o.stop)
    ∧ ∀ o : RA, ((s.reg o.a).toNat ≤ s.tb → ∃ t, exec (.wait o) s = .next t ∧ OnlyAdvances s t o.stop)
        ∧ (s.tb < (s.reg o.a).toNat → ∃ t, exec (.wait o) s = .next t ∧ Waits s t .time)

/-- R78: a stream to which a sibling trap is posted takes trap 0x19 with the other stream's cause in eval and SIB set. R80:
the C-stream takes the pending engine fault of the first faulted queue in the order load, store, matrix, backfill, with the
head's index in eval and the queue in estatus, MORE set where another is pending; the queue keeps its head. R81: a write of
eqdrop outside node mode drops the faulted head of the queue that it names; the queue goes on at the next command, which
stands until the handler of the C-stream, or of the X-stream where the C-stream is in none, returns. A value above 3 and a
queue that stands at no fault change nothing. What rests here on the model's own reading is in log entry 8. -/
def Obligations.DeferredTraps : Prop :=
  (∀ (core : Nat) (x : Bool) (s : State) (code : Byte),
     ((s.core core).stream x).sib = some code → ((s.core core).stream x).run = true → s.canTrap core x →
     ∃ t, exec (.siblingTrap core x) s = .next t
       ∧ TookTrap s t core x 0x19 (code.zeroExtend 64) (2 ^ 10) (plainRec x 0x19))
  ∧ (∀ (core : Nat) (s : State) (q : EngQ) (rest : List EngQ) (code : Byte),
     let c := s.core core
     c.c.run = true → s.canTrap core false → c.pendingFaults = q :: rest → (c.eng q).fault = some (code, false) →
     let q' : State := s.updCore core fun k => k.setEng q { k.eng q with fault := some (code, true) }
     ∃ t, exec (.engineFaultDelivery core) s = .next t
       ∧ TookTrap q' t core false code ((c.eng q).head.zeroExtend 64)
           (2 ^ 11 + (match q with | .load => 0 | .store => 1 | .matrix => 2 | .backfill => 3) * 2 ^ 12
             + if rest = [] then 0 else 2 ^ 15) (c.eng q).frec)
  ∧ (∀ (core : Nat) (v : Dword) (s : State) (q : EngQ),
     let c := s.core core
     c.c.mode ≠ .node ∨ c.x.mode ≠ .node →
     (v = (match q with | .load => 0 | .store => 1 | .matrix => 2 | .backfill => 3) → (c.eng q).fault.isSome = true →
       (c.eng q).cmds ≠ [] →
       ∃ t, exec (.eqdropWrite core v) s = .next t ∧ OnlyCore s t core ∧ MemorySame s t
         ∧ ((t.core core).eng q).cmds = (c.eng q).cmds.tail ∧ ((t.core core).eng q).head = (c.eng q).head + 1
         ∧ ((t.core core).eng q).fault = none ∧ ((t.core core).eng q).step = 0
         ∧ ((c.eng q).cmds.tail ≠ [] → c.c.mode = .handler → ((t.core core).eng q).held = some false)
         ∧ ((c.eng q).cmds.tail ≠ [] → c.c.mode = .node → c.x.mode = .handler → ((t.core core).eng q).held = some true)
         ∧ (∀ p, p ≠ q → (t.core core).eng p = c.eng p) ∧ (t.core core).c = c.c ∧ (t.core core).x = c.x)
     ∧ ((4 ≤ v.toNat ∨ (v = (match q with | .load => 0 | .store => 1 | .matrix => 2 | .backfill => 3)
           ∧ (c.eng q).fault = none)) →
         ∃ t, exec (.eqdropWrite core v) s = .next t ∧ ∀ d, t.core d = s.core d))

/-! ### Control and status registers (R82, R83, R107) -/

/-- R107, R82: csrr reads a CSR into s[d] and changes nothing else; csrs and csrc with a = s0 only read. In node mode a write
of a CSR that node mode may only read is ignored, and s[d] still takes the old value. R82: an unassigned number below 0x400
takes trap 0x13 in every mode, and one above takes 0x12 outside device mode and 0x13 in it, with the number in eval; no
register is written. -/
def Obligations.CsrAccess : Prop :=
  (∀ (s : State) (v : Dword),
     (∀ o : RCsrR, o.csr.toNat < 0x400 → s.csr? o.csr.toNat = some v →
       ∃ t, exec (.csrr o) s = .next t ∧ Writes s t o.d v o.stop)
     ∧ ∀ o : RCsr, o.csr.toNat < 0x400 → s.csr? o.csr.toNat = some v →
       (o.a = 0 → (∃ t, exec (.csrs o) s = .next t ∧ Writes s t o.d v o.stop)
         ∧ ∃ t, exec (.csrc o) s = .next t ∧ Writes s t o.d v o.stop)
       ∧ (s.self.mode = .node → o.csr.toNat ∉ [0x008, 0x009, 0x181, 0x289, 0x2C2, 0x3CA] →
           (s.curX = true → o.csr.toNat ∉ [0x100, 0x101, 0x344] ∧ ¬(0x360 ≤ o.csr.toNat ∧ o.csr.toNat ≤ 0x37F)) →
           (∃ t, exec (.csrw o) s = .next t ∧ Writes s t o.d v o.stop)
           ∧ (∃ t, exec (.csrs o) s = .next t ∧ Writes s t o.d v o.stop)
           ∧ ∃ t, exec (.csrc o) s = .next t ∧ Writes s t o.d v o.stop))
  ∧ (∀ (s : State), s.mayTrap →
     let traps (i : Instr) (n : Nat) : Prop :=
       (n < 0x400 → s.csr? n = none → ∃ t, exec i s = .next t ∧ TrapsHere s t 0x13 (BitVec.ofNat 64 n))
       ∧ (0x400 ≤ n → ∃ t, exec i s = .next t
           ∧ TrapsHere s t (if s.self.mode = .device then 0x13 else 0x12) (BitVec.ofNat 64 n))
     (∀ o : RCsrR, traps (.csrr o) o.csr.toNat)
       ∧ ∀ o : RCsr, traps (.csrw o) o.csr.toNat ∧ traps (.csrs o) o.csr.toNat ∧ traps (.csrc o) o.csr.toNat)

/-- R107, R83: csrw, csrs and csrc give s[d] the old value and the CSR the new one, of which the CSR keeps the bits that its
chapter gives it: the CSRs that every mode writes, those of handler and device mode, and those of device mode, among them the
queues' indices and steps (R83) and a channel's limit up to 8192 (R256); a 1 written to bit 32 of xtagf clears FAIL (R256).
No other CSR and nothing else changes. R111: a value of vtype or vtdef that breaks the rule is refused with 0x1A. R85:
estatus as a write leaves it: PM 3 is written as 2, and the other bits that R85 gives it are kept. R83: ldepth 3 is not
written. R111: a value that breaks vtype's rule is refused with 0x1A. What rests here on the model's own reading is in log
entries 51, 138. -/
def Obligations.CsrUpdates : Prop :=
  (let anyMode : List (Nat × Dword) := [(0x009, 7), (0x181, 3), (0x2C2, 3), (0x3CA, 0xFFFFFFFFFFFFFFC0)]
   let handler : List (Nat × Dword) :=
     [(0x010, 0xFFFFFFFC), (0x011, 0xFFFFFFFFFFFFFFFF), (0x012, 0xFF), (0x013, 0xFFFFFFFFFFFFFFFF),
      (0x3C0, 0x107FF), (0x3C1, 0xFFFFFFFF), (0x3C2, 0xFFFFFFFFFFFFFFFF), (0x3C3, 0xFFFFFFFFFFFFFFFF),
      (0x3C4, 0xFFFFFFFFFFFFFFFF), (0x3C5, 0xFFFFFFFFFFFFFFFF), (0x3C6, 0xFFFFFFFFFFFFFFFF), (0x3C7, 0xFFFFFFFF),
      (0x3C8, 0xFFFFFFFFFFFFFFFF), (0x3C9, 0xFFFFFFFFFFFFFFFF)]
   let device : List (Nat × Dword) :=
     [(0x240, 0x00FFFFFFFFFFFFC0), (0x241, 0x1FFFFF), (0x242, 0xFFFFFFFFFFFFFFFF), (0x340, 0x00FFFE0000000000),
      (0x380, 0xF01FFFF), (0x3CB, 0xFFFFF)]
   let xOnly : List (Nat × Dword) := [(0x101, 3), (0x344, 31)] ++ (List.range 32).map fun i => (0x360 + i, 0xFFFFFFFF)
   ∀ (o : RCsr) (s : State) (old : Dword), s.csr? o.csr.toNat = some old →
     let n := o.csr.toNat
     let m := s.self.mode
     let puts (i : Instr) (v : Dword) : Prop :=
       ∃ t, exec i s = .next t ∧ t.csr? n = some v ∧ (o.d ≠ 0 → t.reg o.d = old)
         ∧ RegsBut s t o.d ∧ OnlyCore s t s.cur ∧ MemorySame s t ∧ GoesOn s t 1 o.stop ∧ t.self.mode = m
         ∧ ∀ j, j ≠ n → ¬(0x020 ≤ j ∧ j ≤ 0x026) → t.csr? j = s.csr? j
     let each (p : Instr → Dword → Prop) : Prop := p (.csrw o) (s.reg o.a)
       ∧ (o.a ≠ 0 → p (.csrs o) (old ||| s.reg o.a) ∧ p (.csrc o) (old &&& ~~~(s.reg o.a)))
     let sets (f : Dword → Dword) : Prop := each fun i v => puts i (f v)
     (∀ bits, (n, bits) ∈ anyMode ∨ (m ≠ .node ∧ (n, bits) ∈ handler) ∨ (m = .device ∧ (n, bits) ∈ device)
         ∨ (s.curX = true ∧ (n, bits) ∈ xOnly) → sets fun v => v &&& bits)
     ∧ (m = .handler ∨ (m = .device ∧ o.stop = false) → 0x020 ≤ n → n ≤ 0x025 → sets fun v => v)
     ∧ (m = .device → n ∈ [0x040, 0x042, 0x044] → sets fun v => (old &&& 0xFFFFFFFF00000000) ||| (v &&& 0xFFFFFFFF))
     ∧ (m = .device → n ∈ [0x041, 0x043, 0x045] → sets fun v => v)
     ∧ (m = .device → 0x280 ≤ n → n ≤ 0x287 → sets fun v => if v.toNat % 2 ^ 14 ≤ 8192 then v &&& 0x3FFF else old)
     ∧ (n = 0x289 → sets fun v => if v.getLsbD 32 then old &&& 0xFFFFFFFF else old)
     ∧ (n = 0x008 ∨ (n = 0x100 ∧ s.curX = true) → each fun i v =>
         (vtypeOk (v &&& vtypeMask) = true → puts i (v &&& vtypeMask))
         ∧ (vtypeOk (v &&& vtypeMask) = false → s.mayTrap → ∃ t, exec i s = .next t ∧ TrapsHere s t 0x1A (v &&& vtypeMask))))
  ∧ (∀ (o : RCsr) (s : State),
     (s.self.mode ≠ .node → o.csr = 0x014 → ∃ t, exec (.csrw o) s = .next t
       ∧ t.csr? 0x014 = some (let v := s.reg o.a
           if v.toNat % 4 = 3 then (v &&& 0xFC00) ||| 2 else v &&& 0xFC03))
     ∧ (s.self.mode = .handler → o.csr = 0x026 → (s.reg o.a).toNat % 4 = 3 → ∃ t, exec (.csrw o) s = .next t
         ∧ t.self.loops.depth = s.self.loops.depth)
     ∧ (s.self.mode = .handler → o.csr = 0x026 → (s.reg o.a).toNat % 4 ≠ 3 → ∃ t, exec (.csrw o) s = .next t
         ∧ t.self.loops.depth = (s.reg o.a).toNat % 4)
     ∧ (s.curX = true → o.csr = 0x100 → s.mayTrap → vtypeOk (s.reg o.a &&& vtypeMask) = false →
         ∃ t, exec (.csrw o) s = .next t ∧ TrapsHere s t 0x1A (s.reg o.a &&& vtypeMask))
     ∧ (s.curX = true → o.csr = 0x100 → vtypeOk (s.reg o.a &&& vtypeMask) = true →
         ∃ t, exec (.csrw o) s = .next t ∧ t.here.vec.vtype = s.reg o.a &&& vtypeMask
           ∧ (o.d ≠ 0 → t.reg o.d = s.here.vec.vtype)))

/-! ### Control queues and semaphores (R93 to R96, R106) -/

/-- R106: cqpush appends s[a] to the stream's outgoing control queue and waits where it holds 16 values; cqpop takes the
head of the incoming one into s[d] and waits where it is empty. Nothing else changes. -/
def Obligations.ControlQueues : Prop :=
  ∀ s : State,
    let v := s.here.vec
    let out := if s.curX then v.toC else v.toX
    let inc := if s.curX then v.toX else v.toC
    (∀ o : RA,
      (out.length < 16 → ∃ t, exec (.cqpush o) s = .next t ∧ MemorySame s t
        ∧ OnlyAdvances (s.updHere fun c => { c with vec :=
            if s.curX then { c.vec with toC := v.toC ++ [s.reg o.a] }
            else { c.vec with toX := v.toX ++ [s.reg o.a] } }) t o.stop)
      ∧ (16 ≤ out.length → ∃ t, exec (.cqpush o) s = .next t ∧ Waits s t .cqPush))
    ∧ ∀ o : RD,
      (∀ x rest, inc = x :: rest → ∃ t, exec (.cqpop o) s = .next t ∧ MemorySame s t
        ∧ Writes (s.updHere fun c => { c with vec :=
            if s.curX then { c.vec with toX := rest } else { c.vec with toC := rest } }) t o.d x o.stop)
      ∧ (inc = [] → ∃ t, exec (.cqpop o) s = .next t ∧ Waits s t .cqPop)

/-- R96, R93, R94: semset gives a semaphore its count and ceiling and traps on a bad pair; semsig adds 1, as a release at
core scope, and traps at the ceiling; both serve waiters in the same cycle, first come first: where the first waiter is no
timed command and the count was 0, the signal's count goes to that waiter at once, and where nothing waits the count is as
written. semwait completes a wait that a signal has served; else it takes 1 where no earlier waiter stands before it, and
waits where it cannot; semrd reports. Nothing else changes. What rests here on the model's own reading is in log entries 48,
59. -/
def Obligations.Semaphores : Prop :=
  ∀ s : State,
    let served (n : Nat) (v : Sem) : State := s.updHere fun k => ((k.ungrant n).setSem n v).semServe n
    let idle (n : Nat) : Prop := (∀ p ∈ s.here.waiters, p.1 ≠ n) ∧ (n, Waiter.stream) ∉ s.here.granted
    let now (n : Nat) : Sem := s.here.semNow n
    (∀ o : Sys2Proof.SSet,
      let n := o.n.toNat
      let c := s.reg o.a
      let m := s.reg o.b
      let v : Sem := ⟨BitVec.ofNat 16 c.toNat, BitVec.ofNat 16 m.toNat⟩
      let ok := m ≠ 0 ∧ m.toNat ≤ 0xFFFF ∧ c.toNat ≤ m.toNat
      (ok → ∃ t, exec (.semset o) s = .next t ∧ MemorySame s t ∧ OnlyAdvances (served n v) t o.stop
        ∧ (idle n → t.here.sem n = v ∧ t.here.waiters = s.here.waiters ∧ t.here.granted = s.here.granted))
      ∧ (¬ok → s.mayTrap → ∃ t, exec (.semset o) s = .next t ∧ TrapsHere s t 0x51 (o.n.zeroExtend 64)))
    ∧ (∀ o : SN,
      let n := o.n.toNat
      let m := now n
      let v : Sem := { m with count := m.count + 1 }
      let done := s.mem.performed (.stream s.cur) (s.cur / 64) 0 0xFF = true
      (m.count ≠ m.ceiling → done → ∃ t, exec (.semsig o) s = .next t ∧ MemorySame s t ∧ OnlyAdvances (served n v) t o.stop
        ∧ (idle n → t.here.sem n = v ∧ t.here.waiters = s.here.waiters ∧ t.here.granted = s.here.granted)
        ∧ (∀ w, s.here.waiters.find? (fun p => p.1 == n) = some w → s.here.timedWaiter w.2 = false →
            (n, Waiter.stream) ∉ s.here.granted → m.count = 0 →
            t.here.sem n = m ∧ t.here.waiters = s.here.waiters.filter (· != w) ∧ t.here.granted = s.here.granted ++ [w]))
      ∧ (m.count ≠ m.ceiling → ¬done → ∃ t, exec (.semsig o) s = .next t ∧ Waits s t .order)
      ∧ (m.count = m.ceiling → s.mayTrap → ∃ t, exec (.semsig o) s = .next t ∧ TrapsHere s t 0x50 (o.n.zeroExtend 64)))
    ∧ (∀ o : SN,
      let n := o.n.toNat
      let m := s.here.sem n
      let granted := (n, Waiter.stream) ∈ s.here.granted
      let first := ∀ p, s.here.waiters.find? (fun p => p.1 == n) = some p → p.2 = Waiter.stream
      (granted → ∃ t, exec (.semwait o) s = .next t ∧ MemorySame s t
        ∧ OnlyAdvances (s.updHere fun k =>
            { k with granted := s.here.granted.filter fun p => p != (n, Waiter.stream) }) t o.stop)
      ∧ (¬granted → first → m.count ≠ 0 → ∃ t, exec (.semwait o) s = .next t ∧ MemorySame s t
        ∧ OnlyAdvances (s.updHere fun k =>
            { k.setSem n { m with count := m.count - 1 } with
              waiters := s.here.waiters.filter fun p => p != (n, Waiter.stream) }) t o.stop)
      ∧ (¬granted → ¬first ∨ m.count = 0 → ∃ t, exec (.semwait o) s = .next t ∧ Waits s t (.sem n)))
    ∧ ∀ o : SRd,
      let m := now o.n.toNat
      let waits (q : EngQ) (k : Nat) : Nat := if (o.n.toNat, Waiter.engine q) ∈ s.here.waiters then 2 ^ k else 0
      ∃ t, exec (.semrd o) s = .next t ∧ Writes s t o.d (BitVec.ofNat 64
        ((waits .load 0 + waits .store 1 + waits .matrix 2 + waits .backfill 3) * 2 ^ 32
          + m.ceiling.toNat * 2 ^ 16 + m.count.toNat)) o.stop

/-! ### Loads, stores, fences and atomics (R198 to R211, R268 to R271, R283 to R286) -/

/-- R207, R194: a ld in the local window reads scratchpad bytes, least significant first, extended as SE says; a st writes
them and no other byte. A misaligned address takes trap 0x28 and an address past SPBYTES 0x29. R207, R215: what a ld or st
refuses, in order: an address of 2^56 or above (0x20), a range that begins below the local window and ends in it (0x21), a
misaligned address (0x28), one past SPBYTES in the local window (0x29). The trap leaves its address in eval. -/
def Obligations.LocalAccess : Prop :=
  ((∀ (o : MLd) (s : State),
     let n := 2 ^ o.size.toNat
     let a := (s.reg o.base + o.imm.signExtend 64 * BitVec.ofNat 64 n).toNat
     let off := a - 0x00FFFFFFFFE00000
     let w := leNat (Memory.read s.here.sp off n)
     (a < 2 ^ 56 → 0x00FFFFFFFFE00000 ≤ a → a % n = 0 → off + n ≤ s.here.spBytes →
       ∃ t, exec (.ld o) s = .next t
         ∧ Writes s t o.d (if o.se then (BitVec.ofNat (8 * n) w).signExtend 64 else BitVec.ofNat 64 w) o.stop))
   ∧ ∀ (o : MSt) (s : State),
     let n := 2 ^ o.size.toNat
     let a := (s.reg o.base + o.imm.signExtend 64 * BitVec.ofNat 64 n).toNat
     let off := a - 0x00FFFFFFFFE00000
     a < 2 ^ 56 → 0x00FFFFFFFFE00000 ≤ a → a % n = 0 → off + n ≤ s.here.spBytes →
       ∃ t sp, exec (.st o) s = .next t ∧ OnlyAdvances (s.updHere fun c => { c with sp := sp }) t o.stop
         ∧ (∀ i, i < n → t.here.sp.byte (off + i) = (s.reg o.d).extractLsb' (8 * i) 8)
         ∧ (∀ b, ¬(off ≤ b ∧ b < off + n) → t.here.sp.byte b = s.here.sp.byte b)
         ∧ (∀ view agent pa, t.mem.byteAt view agent pa = s.mem.byteAt view agent pa)
         ∧ ∀ b, t.host.byte b = s.host.byte b)
  ∧ (∀ (s : State), s.mayTrap →
     let traps (i : Instr) (a n : Nat) : Prop :=
       let takes (code : Byte) : Prop := ∃ t, exec i s = .next t ∧ t.issue = .trapped
         ∧ TookTrap s t s.cur s.curX code (BitVec.ofNat 64 a) 0
             { plainRec s.curX code with addr := BitVec.ofNat 64 a }
       let straddles := a < 0x00FFFFFFFFE00000 ∧ 0x00FFFFFFFFE00000 ≤ a + n - 1
       (2 ^ 56 ≤ a → takes 0x20) ∧ (straddles → takes 0x21) ∧ (a < 2 ^ 56 → ¬straddles → a % n ≠ 0 → takes 0x28)
         ∧ (a < 2 ^ 56 → a % n = 0 → 0x00FFFFFFFFE00000 ≤ a → s.here.spBytes < a - 0x00FFFFFFFFE00000 + n → takes 0x29)
     (∀ o : MLd, traps (.ld o) (s.reg o.base + o.imm.signExtend 64 * BitVec.ofNat 64 (2 ^ o.size.toNat)).toNat
         (2 ^ o.size.toNat))
       ∧ ∀ o : MSt, traps (.st o) (s.reg o.base + o.imm.signExtend 64 * BitVec.ofNat 64 (2 ^ o.size.toNat)).toNat
         (2 ^ o.size.toNat))

/-- R207, R261, R263, R198: a ld through the leaf of its page that does not use the L1 reads each byte as its die's
visibility order and its own stores give it; a line that the L1 holds whole, or whose bytes it holds as stored, answers from
there. R198: one that it does not hold, where there is room, enters it whole; of one that it holds only in part the missing
bytes are read and the stored ones stay. Nothing else changes but s[d]. Where translation refuses the access, the load takes
that trap, or waits (R225), and writes no register. What rests here on the model's own reading is in log entry 7. -/
def Obligations.LoadsFromMemory : Prop :=
  (∀ (o : MLd) (s q : State) (l : Leaf),
     let n := 2 ^ o.size.toNat
     let a := (s.reg o.base + o.imm.signExtend 64 * BitVec.ofNat 64 n).toNat
     a % n = 0 → a + n - 1 < 0x00FFFFFFFFE00000 → s.translate (.stream s.cur) s.here.vfid a .ld = .ok (q, l) →
     q.curX = s.curX → q.cur = s.cur → q.here.vfid = s.here.vfid → l.va = a →
     let loads (bs : List Byte) : Prop := ∃ t, exec (.ld o) s = .next t ∧ Writes q t o.d
       (if o.se then (BitVec.ofNat (8 * n) (leNat bs)).signExtend 64 else BitVec.ofNat 64 (leNat bs)) o.stop
     (q.here.cached l = false → q.plainLines (.stream s.cur) q.here.vfid l n →
       loads ((List.range n).map fun i => q.mem.byteAt (some (s.cur / 64)) (some (.stream s.cur)) (l.pa + i)))
     ∧ (∀ x, q.here.cached l = true → l1Find q.here.l1 q.here.vfid a = some x →
       x.whole = true ∨ (∀ i, i < n → x.mask.getLsbD (a % 64 + i) = true) → loads ((x.bytes.drop (a % 64)).take n))
     ∧ (q.here.cached l = true → q.plainLines (.stream s.cur) q.here.vfid { l with va := a / 64 * 64, pa := l.pa / 64 * 64 } 64 →
       let line := (List.range 64).map fun i => q.mem.byteAt (some (s.cur / 64)) (some (.stream s.cur)) (l.pa / 64 * 64 + i)
       let fills (y : L1Line) : Prop := ∃ t, exec (.ld o) s = .next t
         ∧ Writes (q.updHere fun c => { c with l1 := y :: q.here.l1.filter fun x => !(x.vf == y.vf && x.va == y.va) }) t o.d
             (if o.se then (BitVec.ofNat (8 * n) (leNat ((y.bytes.drop (a % 64)).take n))).signExtend 64
              else BitVec.ofNat 64 (leNat ((y.bytes.drop (a % 64)).take n))) o.stop
       (l1Find q.here.l1 q.here.vfid a = none → q.here.l1.length < q.here.l1Lines →
         fills ⟨q.here.vfid, a / 64 * 64, l.pa / 64 * 64, line, 0, 0, true, l.enc⟩)
       ∧ ∀ x, l1Find q.here.l1 q.here.vfid a = some x → x.whole = false →
         (∃ i, i < n ∧ x.mask.getLsbD (a % 64 + i) = false) → q.here.l1.length ≤ q.here.l1Lines →
         fills { x with whole := true
                        bytes := (List.range 64).map fun i => if x.mask.getLsbD i then x.bytes.getD i 0 else line.getD i 0 }))
  ∧ ∀ (o : MLd) (s : State),
    let n := 2 ^ o.size.toNat
    let a := (s.reg o.base + o.imm.signExtend 64 * BitVec.ofNat 64 n).toNat
    a % n = 0 → a + n - 1 < 0x00FFFFFFFFE00000 →
    (∀ x, s.translate (.stream s.cur) s.here.vfid a .ld = .error (.trap x) → x.code ≠ 0x71 → x.code ≠ 0x72 →
      let b := s.applySides x.sides
      b.cur = s.cur → b.curX = s.curX → b.mayTrap →
      ∃ t, exec (.ld o) s = .next t ∧ t.issue = .trapped
        ∧ TookTrap b t s.cur s.curX x.code x.val 0 (x.shown s.curX))
    ∧ ∀ w l, s.translate (.stream s.cur) s.here.vfid a .ld = .error (.wait w l) →
      let b := s.applySides l
      b.cur = s.cur → b.curX = s.curX → ∃ t, exec (.ld o) s = .next t ∧ Waits b t w

/-- R207, R262, R263, R268: a st through the leaf of its page that does not use the L1 issues one write of its bytes with its
colour; the core's own accesses read them at once and every other byte, and every byte for every other agent, is as before.
R412: in a VF that migrates the page joins the dirty log. R198, R207: a st that uses the L1, of a line that the L1 does not
hold yet and has room for, leaves its bytes in a new line of the L1, marked as stored; of a line that the L1 holds it changes
the bytes that it stores, and marks them; no byte of memory changes for any agent, and no other line. R412: in a VF that
migrates the page joins the dirty log. What rests here on the model's own reading is in log entry 106. -/
def Obligations.Stores : Prop :=
  (∀ (o : MSt) (s q : State) (l : Leaf),
     let n := 2 ^ o.size.toNat
     let a := (s.reg o.base + o.imm.signExtend 64 * BitVec.ofNat 64 n).toNat
     let me : Agent := .stream s.cur
     a % n = 0 → a + n - 1 < 0x00FFFFFFFFE00000 → s.translate me s.here.vfid a .st = .ok (q, l) →
     q.curX = s.curX → q.cur = s.cur → q.here.vfid = s.here.vfid → l.va = a →
     q.here.cached l = false → (∃ k, regionOf l.pa = .hbm k ∨ regionOf l.pa = .cxl k) →
     q.sight me q.here.vfid l.pa l.enc = .plain → q.serving me l.pa = none →
     ∃ t m p, exec (.st o) s = .next t ∧ OnlyAdvances { p with mem := m } t o.stop ∧ LogsPage q p q.here.vfid a
       ∧ m = { q.mem with pend := m.pend }
       ∧ (∀ view agent pa, m.byteAt view agent pa =
           if agent = some me ∧ l.pa ≤ pa ∧ pa < l.pa + n then (s.reg o.d).extractLsb' (8 * (pa - l.pa)) 8
           else q.mem.byteAt view agent pa)
       ∧ ∃ w, m.pend = q.mem.pend ++ w ∧ ∀ x ∈ w, x.agent = me ∧
           x.colours = BitVec.ofNat 8 (2 ^ (if o.deflt then q.here.csr.coldef.toNat % 8 else o.colour.toNat)))
  ∧ (∀ (o : MSt) (s q : State) (l : Leaf),
     let n := 2 ^ o.size.toNat
     let a := (s.reg o.base + o.imm.signExtend 64 * BitVec.ofNat 64 n).toNat
     a % n = 0 → a + n - 1 < 0x00FFFFFFFFE00000 → s.translate (.stream s.cur) s.here.vfid a .st = .ok (q, l) →
     q.curX = s.curX → q.cur = s.cur → q.here.vfid = s.here.vfid → l.va = a → q.here.cached l = true →
     ¬(q.pfAccess (.stream s.cur) q.here.vfid = true ∧ q.sealedFrame l.pa = true) →
     let stored (i : Nat) : Prop := a % 64 ≤ i ∧ i < a % 64 + n
     let leaves (y : L1Line) (l1 : List L1Line) : Prop := ∃ t p, exec (.st o) s = .next t ∧ LogsPage q p q.here.vfid a
       ∧ OnlyAdvances (p.updHere fun c => { c with l1 := y :: l1 }) t o.stop ∧ MemorySame q t
     (l1Find q.here.l1 q.here.vfid a = none → q.here.l1.length < q.here.l1Lines →
       ∃ y, leaves y q.here.l1 ∧ y.vf = q.here.vfid ∧ y.va = a / 64 * 64 ∧ y.whole = false
         ∧ ∀ i, i < 64 → y.mask.getLsbD i = decide (a % 64 ≤ i ∧ i < a % 64 + n)
           ∧ (stored i → y.bytes.getD i 0 = (s.reg o.d).extractLsb' (8 * (i - a % 64)) 8))
     ∧ ∀ x, l1Find q.here.l1 q.here.vfid a = some x → x.bytes.length = 64 → q.here.l1.length ≤ q.here.l1Lines →
       ∃ y, leaves y (q.here.l1.filter fun z => !(z.vf == x.vf && z.va == x.va))
         ∧ y = { x with bytes := y.bytes, mask := y.mask, colours := x.colours |||
             BitVec.ofNat 8 (2 ^ (if o.deflt then q.here.csr.coldef.toNat % 8 else o.colour.toNat)) }
         ∧ ∀ i, i < 64 → y.mask.getLsbD i = (x.mask.getLsbD i || decide (a % 64 ≤ i ∧ i < a % 64 + n))
           ∧ (stored i → y.bytes.getD i 0 = (s.reg o.d).extractLsb' (8 * (i - a % 64)) 8)
           ∧ (¬stored i → y.bytes.getD i 0 = x.bytes.getD i 0))

/-- R210, R199: cwb writes the stored bytes of the L1 lines of its range back, each as a store of the line's colours, and
keeps the lines; cinv also drops them. Lines outside the range, registers and every byte as other agents read it are as
before. Stated of lines of plain memory whose copy in the L1 holds no error. R271, R264: a fence retires once every earlier
write of its core whose colours meet MASK is performed at SCOPE, and waits until then; at module scope and above what its die
has seen becomes a causal predecessor of its later writes. It changes no byte. -/
def Obligations.RangesAndFences : Prop :=
  (∀ (o : RAB) (s : State),
     let a := (s.reg o.a).toNat
     let n := (s.reg o.b).toNat
     let hit (x : L1Line) : Bool :=
       n != 0 && x.vf == s.here.vfid && decide (a < x.va + 64 ∧ x.va < min (a + n) (2 ^ 56))
     let me : Agent := .stream s.cur
     let plain (x : L1Line) : Prop := s.here.l1Bad x = false ∧ (s.vf x.vf).migr = none
       ∧ (∃ k, regionOf x.pa = .hbm k ∨ regionOf x.pa = .cxl k) ∧ s.sight me x.vf x.pa x.enc = .plain
       ∧ ∀ c ∈ x.dirty, s.serving me c.1 = none
     let ends (i : Instr) (l1 : List L1Line) : Prop :=
       (∀ x ∈ s.here.l1, hit x = true → plain x) →
       ∃ t m, exec i s = .next t
         ∧ OnlyAdvances { (s.updHere fun c => { c with l1 := l1 }) with mem := m } t o.stop
         ∧ m = { s.mem with pend := m.pend }
         ∧ (∀ view agent pa, agent ≠ some (.stream s.cur) → m.byteAt view agent pa = s.mem.byteAt view agent pa)
         ∧ ∃ w, m.pend = s.mem.pend ++ w
           ∧ (∀ x ∈ w, x.agent = .stream s.cur ∧ ∃ y ∈ s.here.l1, hit y = true ∧ x.colours = y.colours
               ∧ ∀ c ∈ x.cells, c ∈ y.dirty)
           ∧ ∀ y ∈ s.here.l1, hit y = true → ∀ c ∈ y.dirty, ∃ x ∈ w, c ∈ x.cells
     ends (.cinv o) (s.here.l1.filter fun x => !hit x)
       ∧ ends (.cwb o) (s.here.l1.map fun x => if hit x then { x with mask := 0, colours := 0 } else x))
  ∧ (∀ (o : RFence) (s : State),
     let done := s.mem.performed (.stream s.cur) (s.cur / 64) o.scope.toNat o.mask = true
       ∧ (o.scope.toNat < 4 ∨ s.peersDone (.stream s.cur) = true)
     (done → ∃ t p, exec (.fence o) s = .next t ∧ MemorySame s t
       ∧ OnlyAdvances { s with mem := { s.mem with preds := p } } t o.stop
       ∧ (o.scope.toNat ≤ 2 → p = s.mem.preds)
       ∧ (3 ≤ o.scope.toNat → ∀ x ∈ s.mem.log, x.2.dies.contains (s.cur / 64) = true →
           ∃ ids, (Agent.stream s.cur, ids) ∈ p ∧ x.1 ∈ ids))
     ∧ (¬done → ∃ t, exec (.fence o) s = .next t ∧ Waits s t .order))

/-- R283 to R286: an amo reads and writes its location at the home in one step. s[d] takes the old value, sign-extended for
an integer operation; the location takes the new one, and a cas whose comparison fails writes nothing; no other byte changes
in the home's order. R286: an FP operation ORs its flags into amoflags: NV for a signalling NaN, and in fadd for the
difference of infinities, OF where the sum overflows. Stated of plain memory that the L1 does not hold, whose home has every
write in its order, where a release has nothing to wait for. What rests here on the model's own reading is in log entry
57. -/
def Obligations.Atomics : Prop :=
  ∀ (s q : State) (l : Leaf) (n a : Nat) (d b : Reg),
    let me : Agent := .stream s.cur
    let w := 8 * n
    a % n = 0 → a + n - 1 < 0x00FFFFFFFFE00000 → s.translate me s.here.vfid a .amo = .ok (q, l) → l.va = a →
    l.pa % n = 0 → q.curX = s.curX → q.cur = s.cur → q.self = s.self → q.here.vfid = s.here.vfid →
    (∀ x ∈ q.here.l1, ¬(x.vf = q.here.vfid ∧ x.va = a / 64 * 64)) → (q.vf q.here.vfid).migr = none →
    q.plainLines me q.here.vfid l n → q.mem.ordered →
    (∀ d, homeDie (homeOf l.pa l.ms) = some d → ∀ e ∈ q.mem.log, e.2.dies.contains d = true) →
    let m0 := q.mem.flushOwn me l.pa
    let old := leNat ((List.range n).map fun i => m0.byteAt none (some me) (l.pa + i))
    let x := BitVec.ofNat w old
    let y := BitVec.ofNat w (s.reg b).toNat
    let answers (i : Instr) (stop : Bool) (wide : Bool) (new : Option (BitVec w)) (raised : Fp.Flags := .zero) : Prop :=
      ∃ t m fl, exec i s = .next t
        ∧ Writes { (q.updHere fun c => { c with csr := { c.csr with amoflags := c.csr.amoflags ||| fl } }) with mem := m } t d
            (if wide then x.signExtend 64 else BitVec.ofNat 64 old) stop
        ∧ fl = BitVec.ofNat 64 ((if raised.ovf then 2 else 0) + if raised.nv then 1 else 0)
        ∧ (∀ v, new = some v → ∀ i, i < n → m.byteAt none (some me) (l.pa + i) = v.extractLsb' (8 * i) 8)
        ∧ (∀ agent pa, ¬(l.pa ≤ pa ∧ pa < l.pa + n) → m.byteAt none agent pa = m0.byteAt none agent pa)
        ∧ (new = none → ∀ agent pa, m.byteAt none agent pa = m0.byteAt none agent pa)
    (∀ o : RAmo, o.d = d → o.b = b → n = (if o.dbl then 8 else 4) → a = (s.reg o.a).toNat →
      (o.release = true → q.mem.performed me (s.cur / 64) (o.scope.toNat + 1) 0xFF = true ∧ q.peersDone me = true) →
      answers (.amoAdd o) o.stop true (some (x + y)) ∧ answers (.amoAnd o) o.stop true (some (x &&& y))
        ∧ answers (.amoOr o) o.stop true (some (x ||| y)) ∧ answers (.amoXor o) o.stop true (some (x ^^^ y))
        ∧ answers (.amoSwap o) o.stop true (some y)
        ∧ answers (.amoMin o) o.stop true (some (if x.toInt < y.toInt then x else y))
        ∧ answers (.amoMax o) o.stop true (some (if x.toInt < y.toInt then y else x))
        ∧ answers (.amoMinu o) o.stop true (some (if x.toNat < y.toNat then x else y))
        ∧ answers (.amoMaxu o) o.stop true (some (if x.toNat < y.toNat then y else x))
        ∧ answers (.amoCas o) o.stop true (if x = BitVec.ofNat w (s.reg o.d).toNat then some y else none))
    ∧ ∀ o : RAmoF, o.d = d → o.b = b → n = 4 → a = (s.reg o.a).toNat →
      (o.release = true → q.mem.performed me (s.cur / 64) (o.scope.toNat + 1) 0xFF = true ∧ q.peersDone me = true) →
      let p := Fp.decode .fp32 old
      let r := Fp.decode .fp32 y.toNat
      let signalling := p.isSnan || r.isSnan
      let opposite := decide (∃ neg : Bool, p = .inf neg ∧ r = .inf (!neg))
      answers (.amoFadd o) o.stop false (some (BitVec.ofNat w (Fp.fadd32 old y.toNat).bits))
          ⟨signalling || opposite, (Fp.fadd32 old y.toNat).fl.ovf⟩
        ∧ answers (.amoFmin o) o.stop false (some (BitVec.ofNat w (Fp.fminmax .fp32 false old y.toNat).bits))
            ⟨signalling, false⟩
        ∧ answers (.amoFmax o) o.stop false (some (BitVec.ofNat w (Fp.fminmax .fp32 true old y.toNat).bits))
            ⟨signalling, false⟩

/-- R208, R74: qrd completes where its fed queue has room: it pushes the 128 scratchpad bytes at its offset as an entry, byte
i in bits [8i + 7:8i]; qwr completes where its out queue holds an entry: it pops it and writes its bytes there and no other
byte; a full fed queue makes qrd wait and an empty out queue qwr. An offset that is no multiple of 16 takes trap 0x28, one
past SPBYTES 0x29. R209: qrdh completes where its queue has room and its handle's elements can be read: it pushes the
elements from the coordinates in the scratchpad. Nothing else changes. What rests here on the model's own reading is in log
entries 62, 129. -/
def Obligations.ScratchpadQueues : Prop :=
  ∀ (o : R3) (s : State), s.curX = false → o.d.toNat < 16 →
    let off := (s.reg o.a + s.reg o.b).toNat
    let room := (s.here.queue o.d.toNat).length < 4
    let fits := off % 16 = 0 ∧ off + 128 ≤ s.here.spBytes
    let refuses (i : Instr) : Prop := ∀ code : Byte,
      (code = 0x28 ∧ off % 16 ≠ 0) ∨ (code = 0x29 ∧ off % 16 = 0 ∧ s.here.spBytes < off + 128) → s.mayTrap →
      ∃ t, exec i s = .next t ∧ t.issue = .trapped ∧ TookTrap s t s.cur s.curX code (BitVec.ofNat 64 off) 0
        { plainRec s.curX code with addr := BitVec.ofNat 64 off }
    (fits → room → ∃ t v, exec (.qrd o) s = .next t ∧ MemorySame s t
        ∧ OnlyAdvances (s.updHere fun c => c.setQueue o.d.toNat (c.queue o.d.toNat ++ [v])) t o.stop
        ∧ ∀ i, i < 128 → v.extractLsb' (8 * i) 8 = s.here.sp.byte (off + i))
    ∧ (¬room → ∃ t, exec (.qrd o) s = .next t ∧ Waits s t (.qrdFull o.d.toNat))
    ∧ (room → refuses (.qrd o))
    ∧ (∀ v rest, fits → s.here.queue o.d.toNat = v :: rest → ∃ t sp, exec (.qwr o) s = .next t
        ∧ OnlyAdvances (s.updHere fun c => { c.setQueue o.d.toNat rest with sp := sp }) t o.stop
        ∧ (∀ i, i < 128 → t.here.sp.byte (off + i) = v.extractLsb' (8 * i) 8)
        ∧ ∀ b, ¬(off ≤ b ∧ b < off + 128) → t.here.sp.byte b = s.here.sp.byte b)
    ∧ (s.here.queue o.d.toNat = [] → ∃ t, exec (.qwr o) s = .next t ∧ Waits s t (.qwrEmpty o.d.toNat))
    ∧ (s.here.queue o.d.toNat ≠ [] → refuses (.qwr o))
    ∧ (¬room → ∃ t, exec (.qrdh o) s = .next t ∧ Waits s t (.qrdFull o.d.toNat))
    ∧ ∀ (q1 q2 : State) (e : HEntry) (vs : List Nat), room → (s.reg o.b).toNat % 16 = 0 →
      (s.reg o.b).toNat + 16 ≤ s.here.spBytes →
      s.derefRead (.stream s.cur) (decide (s.self.mode = .device)) (s.reg o.a) = .ok (q1, e) →
      q1.readRun (.stream s.cur) e (q1.here.coordsAt (s.reg o.b).toNat) (1024 / e.width) = .ok (q2, vs) →
      q1.cur = s.cur →
      ∃ t v, exec (.qrdh o) s = .next t
        ∧ OnlyAdvances (q2.updHere fun c => c.setQueue o.d.toNat (c.queue o.d.toNat ++ [v])) t o.stop
        ∧ ∀ i, i < 1024 / e.width → v.toNat / 2 ^ (e.width * i) % 2 ^ e.width = vs.getD i 0 % 2 ^ e.width

/-! ### Command queues (R86 to R89, R172, R173, R253 to R255) -/

/-- R87, R86: an instruction of a queued unit appends its command to its queue, with its operand registers and the stamp that
its tail names as they stand, and goes on behind its words; it waits where the queue is full (64 commands; 16 of the backfill
queue). Nothing is done yet. A push on the matrix queue of a fusion's member traps (R176). tload marks the shadow bank of an
owned slot LOADING at once (R152). R253 to R255: xdrain retires once no copy of its channel is queued and the writes of the
core's copies on that channel are performed at module scope, those to peers acknowledged, and waits until then; xcur reports
a queue's head, step, fault and whether it has begun; xcfg sets a channel's limit and gives s[d] the old one, and takes trap
0x37 for a limit above 8192. Nothing else changes. What rests here on the model's own reading is in log entry 105. -/
def Obligations.CommandControl : Prop :=
  (∀ s : State,
     let entersFrom (s' : State) (i : Instr) (q : EngQ) (c0 c1 c2 : Reg) (tail : Option Tail) (stop : Bool) : Prop :=
       ((s.here.eng q).cmds.length < (if q = .backfill then 16 else 64) →
           (q = .matrix → s.here.quad.role ≠ 2 ∧ s.here.quad.role ≠ 3) →
         ∃ t, exec i s = .next t ∧ MemorySame s t
           ∧ AdvancesBy (s'.updHere fun c => c.setEng q { c.eng q with
               cmds := (c.eng q).cmds ++ [⟨i, s.reg c0, s.reg c1, s.reg c2,
                 match tail.bind Tail.timed with | some (_, r) => s.reg r | none => 0⟩] })
               t (if tail.isSome then 2 else 1) stop)
       ∧ ((if q = .backfill then 16 else 64) ≤ (s.here.eng q).cmds.length →
           ∃ t, exec i s = .next t ∧ Waits s t (.queueFull q))
       ∧ ((s.here.eng q).cmds.length < (if q = .backfill then 16 else 64) → q = .matrix →
           s.here.quad.role = 2 ∨ s.here.quad.role = 3 → s.mayTrap →
           ∃ t, exec i s = .next t ∧ TrapsHere s t 0x33 (BitVec.ofNat 64 s.here.quad.lead))
     let enters := entersFrom s
     let loading (o : CTload) : State :=
       let n := (s.reg o.c1).toNat
       if n ≤ 15 ∧ (s.here.slot n).owner = some s.here.vfid then
         s.updHere fun c => c.setSlot n ((c.slot n).setShadow { (c.slot n).shadow with state := 1 })
       else s
     (∀ o : CCopy, enters (.xld o) .load o.c0 o.c1 o.c2 o.tail o.stop
         ∧ enters (.xldDec o) .load o.c0 o.c1 o.c2 o.tail o.stop
         ∧ enters (.xldVfy o) .load o.c0 o.c1 o.c2 o.tail o.stop
         ∧ enters (.xst o) .store o.c0 o.c1 o.c2 o.tail o.stop
         ∧ enters (.xcp o) .store o.c0 o.c1 o.c2 o.tail o.stop
         ∧ enters (.xcpScl o) .store o.c0 o.c1 o.c2 o.tail o.stop
         ∧ enters (.xcpVfy o) .store o.c0 o.c1 o.c2 o.tail o.stop)
     ∧ (∀ o : CMlw, enters (.mlw o) .matrix o.c0 0 0 o.tail o.stop)
     ∧ (∀ o : C0, enters (.mswap o) .matrix 0 0 0 o.tail o.stop ∧ enters (.mfuseOff o) .matrix 0 0 0 o.tail o.stop)
     ∧ (∀ o : CMmul, enters (.mmul o) .matrix o.c0 o.c1 0 o.tail o.stop)
     ∧ (∀ o : C3, enters (.mmulSmax o) .matrix o.c0 o.c1 o.c2 o.tail o.stop
         ∧ enters (.mamap o) .matrix o.c0 o.c1 o.c2 o.tail o.stop
         ∧ enters (.bkfill o) .backfill o.c0 o.c1 o.c2 o.tail o.stop)
     ∧ (∀ o : CMst, enters (.mst o) .matrix o.c0 o.c1 0 o.tail o.stop)
     ∧ (∀ o : C1, enters (.mzero o) .matrix o.c0 0 0 o.tail o.stop ∧ enters (.attn o) .matrix o.c0 0 0 o.tail o.stop)
     ∧ (∀ o : C2, enters (.mlora o) .matrix o.c0 o.c1 0 o.tail o.stop)
     ∧ (∀ o : CB, enters (.mloraClr o) .matrix 0 o.c1 0 o.tail o.stop
         ∧ enters (.tinval o) .load 0 o.c1 0 o.tail o.stop ∧ enters (.tinvalSh o) .load 0 o.c1 0 o.tail o.stop)
     ∧ (∀ o : CFuse, enters (.mfuse o) .matrix 0 0 0 o.tail o.stop)
     ∧ ∀ o : CTload, entersFrom (loading o) (.tload o) .load o.c0 o.c1 0 o.tail o.stop)
  ∧ (∀ s : State,
     (∀ o : CCh,
       let mine (a : Agent) (c : Option Nat) : Prop := ofCores [s.cur] a = true ∧ c = some o.ch.toNat
       let done := (∀ k ∈ s.here.load.cmds ++ s.here.store.cmds, channelOf k.op ≠ some o.ch.toNat)
         ∧ (∀ w ∈ s.mem.pend, ¬mine w.agent w.chan)
         ∧ (∀ p ∈ s.mem.log, mine p.2.agent p.2.chan → ∀ d ∈ allDies, d ∈ p.2.dies)
         ∧ ∀ r ∈ s.peers, mine r.agent r.chan → r.unacked r.agent = false
       (done → ∃ t, exec (.xdrain o) s = .next t ∧ OnlyAdvances s t o.stop)
       ∧ (¬done → ∃ t, exec (.xdrain o) s = .next t ∧ Waits s t (.drainCh o.ch.toNat)))
     ∧ (∀ o : CCur,
       let e := if o.store then s.here.store else s.here.load
       ∃ t, exec (.xcur o) s = .next t ∧ Writes s t o.d (BitVec.ofNat 64
         ((if e.begun then 2 ^ 49 else 0) + (if e.fault.isSome then 2 ^ 48 else 0) + e.step % 2 ^ 16 * 2 ^ 32
           + e.head.toNat)) o.stop)
     ∧ ∀ o : CCfg,
       ((s.reg o.a).toNat ≤ 8192 → ∃ t, exec (.xcfg o) s = .next t ∧ MemorySame s t ∧ Writes
         (s.updHere fun c => { c with csr := { c.csr with xch := SMap.set 0 c.csr.xch o.ch.toNat (s.reg o.a) } }) t o.d
           (SMap.get 0 s.here.csr.xch o.ch.toNat) o.stop)
       ∧ (8192 < (s.reg o.a).toNat → s.mayTrap → ∃ t, exec (.xcfg o) s = .next t ∧ TrapsHere s t 0x37 (s.reg o.a)))

/-- R88, R94, R172, R173: a head command begins when the semaphore of its tail, if it names one, is taken: where a signal has
served its wait, or where it is the first waiter and the count is at least 1. Else it waits. A timed command begins in its
window only, and only where its first step, which is then tried, meets no delay of memory: else it has not begun. One whose
window has closed takes engine fault 0x30 and is untimed from then on. Nothing begins in a frozen group, nor behind a command
that a handler dropped, before that handler returns (R81). R88, R89, R94: a head command whose steps are complete leaves its
queue: after its release, where its tail has one, is performed, and with its signal, where its tail has one: the signal
serves a waiter at once, or raises the count. A signal at its semaphore's ceiling is engine fault 0x50 at the head, whose
work is not done again. Stated outside transform nodes. What rests here on the model's own reading is in log entry 133. -/
def Obligations.CommandEnds : Prop :=
  (∀ (core : Nat) (q : EngQ) (s : State) (k : Cmd) (rest : List Cmd),
     let c := s.core core
     let e := c.eng q
     let timed := (tailOf k.op).bind Tail.timed
     e.cmds = k :: rest → e.begun = false → e.fault = none → e.sigPending = false →
     (e.held.isSome = true ∨ s.frozen core = true →
       exec (.commandStart core q) s = .next s ∧ exec (.timedIssue core q) s = .next s)
     ∧ (e.held = none → s.frozen core = false →
     let begins (i : Instr) : Prop :=
       ((tailOf k.op).bind Tail.waitSem = none → ∃ t, exec i s = .next t ∧ OnlyQueue s t core q
         ∧ (t.core core).eng q = { e with begun := true, wait := none } ∧ (t.core core).sems = c.sems)
       ∧ ∀ n, (tailOf k.op).bind Tail.waitSem = some n →
         let m := c.sem n.toNat
         let served := (n.toNat, Waiter.engine q) ∈ c.granted
         let first := ∀ p, c.waiters.find? (fun p => p.1 == n.toNat) = some p → p.2 = Waiter.engine q
         (served ∨ (first ∧ m.count ≠ 0) → ∃ t, exec i s = .next t ∧ OnlyQueue s t core q
           ∧ (t.core core).eng q = { e with begun := true, wait := none }
           ∧ (¬served ∨ (n.toNat, Waiter.engine q) ∉ c.waiters → (n.toNat, Waiter.engine q) ∉ (t.core core).granted)
           ∧ (∀ j, j ≠ n.toNat → (t.core core).sem j = c.sem j)
           ∧ ((∀ p ∈ c.waiters, p.1 = n.toNat → ¬served ∧ p.2 = Waiter.engine q) →
             (t.core core).sem n.toNat = if served then m else { m with count := m.count - 1 }))
         ∧ (¬served → ¬first ∨ m.count = 0 → ∃ t, exec i s = .next t ∧ OnlyQueue s t core q
           ∧ (t.core core).eng q = { e with wait := some (.tail n.toNat) } ∧ (t.core core).sems = c.sems
           ∧ (n.toNat, Waiter.engine q) ∈ (t.core core).waiters)
     (timed = none ∨ e.untimed = true → begins (.commandStart core q))
     ∧ ∀ slack r, timed = some (slack, r) → e.untimed = false →
       let now := (s.gsc core).toNat
       let last := k.stamp.toNat + 4 * slack.toNat
       let onCore := (∃ o, k.op = .mlw o) ∨ (∃ o, k.op = .mswap o) ∨ (∃ o, k.op = .mmul o) ∨ (∃ o, k.op = .mst o)
         ∨ (∃ o, k.op = .mzero o) ∨ (∃ o, k.op = .mamap o) ∨ (∃ o, k.op = .mloraClr o)
       let b := s.updEng core q fun e => { e with begun := true, wait := none }
       (k.stamp.toNat ≤ now → now ≤ last → onCore → begins (.timedIssue core q))
       ∧ (k.stamp.toNat ≤ now → now ≤ last → (tailOf k.op).bind Tail.waitSem = none → ∀ u, b.engineWork core q k.op = .next u →
         (∀ w, ((u.core core).eng q).wait = some w → w.ofMemory = false) → exec (.timedIssue core q) s = .next b)
       ∧ (k.stamp.toNat ≤ now → now ≤ last → (tailOf k.op).bind Tail.waitSem = none → ∀ u w, b.engineWork core q k.op = .next u →
         ((u.core core).eng q).wait = some w → w.ofMemory = true →
         ∃ t, exec (.timedIssue core q) s = .next t ∧ (t.core core).eng q = { e with wait := some w }
           ∧ (t.core core).sems = c.sems ∧ (t.core core).waiters = c.waiters ∧ (t.core core).granted = c.granted)
       ∧ (now < k.stamp.toNat ∨ last < now → exec (.timedIssue core q) s = .next s)
       ∧ (last < now → s.isTransform core = false → ∃ t, exec (.scheduleMiss core q) s = .next t ∧ OnlyQueue s t core q
           ∧ ((t.core core).eng q).fault = some (0x30, false) ∧ ((t.core core).eng q).untimed = true
           ∧ ((t.core core).eng q).cmds = e.cmds ∧ ((t.core core).eng q).head = e.head)))
  ∧ (∀ (core : Nat) (q : EngQ) (s : State) (k : Cmd) (rest : List Cmd),
     let c := s.core core
     let e := c.eng q
     let me : Agent := .engine core q
     let releases := ∃ t, tailOf k.op = some t ∧ t.release = true
     e.cmds = k :: rest → e.begun = true → e.fault = none → e.sigPending = false → e.finished = true →
     s.isTransform core = false →
     (releases → ∀ t, tailOf k.op = some t →
       s.mem.performed me (core / 64) t.scope.toNat 0xFF = true ∧ (t.scope.toNat < 4 ∨ s.peersDone me = true)) →
     ((tailOf k.op).bind Tail.sigSem = none → ∃ t m, exec (.commandRetire core q) s = .next t
       ∧ OnlyQueue { s with mem := m } t core q ∧ m = { s.mem with preds := m.preds } ∧ (¬releases → m = s.mem)
       ∧ (t.core core).eng q = { EngQueue.init with head := e.head + 1, cmds := rest } ∧ (t.core core).sems = c.sems)
     ∧ ∀ n, (tailOf k.op).bind Tail.sigSem = some n →
       let a := c.sem n.toNat
       (a.count ≠ a.ceiling → ∃ t m, exec (.commandRetire core q) s = .next t
         ∧ OnlyQueue { s with mem := m } t core q ∧ m = { s.mem with preds := m.preds } ∧ (¬releases → m = s.mem)
         ∧ (t.core core).eng q = { EngQueue.init with head := e.head + 1, cmds := rest }
         ∧ (∀ j, j ≠ n.toNat → (t.core core).sem j = c.sem j)
         ∧ ((∀ p ∈ c.waiters, p.1 ≠ n.toNat) → (t.core core).sem n.toNat = { a with count := a.count + 1 })
         ∧ ∀ w ws, c.waiters = (n.toNat, w) :: ws → w ≠ Waiter.engine q → c.timedWaiter w = false →
             a.count.toNat < a.ceiling.toNat → (n.toNat, w) ∈ (t.core core).granted ∧ (n.toNat, w) ∉ (t.core core).waiters)
       ∧ (a.count = a.ceiling → ∃ t m, exec (.commandRetire core q) s = .next t
         ∧ OnlyQueue { s with mem := m } t core q ∧ m = { s.mem with preds := m.preds }
         ∧ ((t.core core).eng q).fault = some (0x50, false) ∧ ((t.core core).eng q).sigPending = true
         ∧ ((t.core core).eng q).cmds = e.cmds ∧ (t.core core).sems = c.sems))

/-! ### Handles, KV blocks, adapters and probes (chapters 06, 07, 12, 13) -/

/-- R238 to R240: hview gives its handle another VIEW within E0 and takes trap 0x27 on a value outside; hqry answers a word
of the entry and takes 0x27 on a number above 7; hchk answers 0 for a handle that dereferences and an element inside its
extents, 0x100 for padding, 0x27 for an element outside. Beyond what the dereference itself did (state q), only s[d] changes;
a trap keeps of the dereference what its accesses met and the TLB entries that it entered (keepSeen, R222). R239, R232: hchk
answers the cause of a handle that does not dereference, and does not trap: one of another VF outside device mode (0x24), and
one at or past the count of its table (0x26). -/
def Obligations.Handles : Prop :=
  (∀ (o : R3) (s q : State) (e : HEntry),
     let h := s.reg o.a
     let v := (s.reg o.b).toNat
     s.deref (.stream s.cur) (decide (s.self.mode = .device)) h false = .ok (q, e) →
     q.self = s.self →
     let writes (i : Instr) (w : Dword) : Prop := ∃ t, exec i s = .next t ∧ Writes q t o.d w o.stop
     let traps (i : Instr) : Prop := s.mayTrap → ∃ t, exec i s = .next t ∧ t.issue = .trapped
       ∧ TookTrap (s.keepSeen q) t s.cur s.curX 0x27 h 0 { plainRec s.curX 0x27 with hand := h }
     (v ≠ 0 → v ≤ 0xFFFFFF → v ≤ e.e0 → writes (.hview o) ((h &&& 0xFFFFFFFFFF000000) ||| BitVec.ofNat 64 v))
     ∧ (v = 0 ∨ 0xFFFFFF < v ∨ e.e0 < v → traps (.hview o))
     ∧ (v ≤ 7 → writes (.hqry o) (BitVec.ofNat 64 (leNat ((e.raw.drop (8 * v)).take 8))))
     ∧ (7 < v → traps (.hqry o))
     ∧ (o.b = 0 → writes (.hchk o) 0)
     ∧ (o.b ≠ 0 → v % 16 = 0 → v + 16 ≤ s.here.spBytes → e.flat = false →
         ∀ c : Coords, c = (List.range 4).map (fun i =>
             (BitVec.ofNat 32 (leNat (Memory.read s.here.sp (v + 4 * i) 4))).toInt) →
         writes (.hchk o)
           (if (List.range 4).all (e.inside c) = true then 0 else if e.win = true then 0x100 else 0x27)))
  ∧ (∀ (o : R3) (s : State), o.b = 0 →
     let h := s.reg o.a
     (s.self.mode ≠ .device → h.toNat / 2 ^ 56 ≠ s.here.vfid →
       ∃ t, exec (.hchk o) s = .next t ∧ Writes s t o.d 0x24 o.stop)
     ∧ (h.toNat / 2 ^ 56 = s.here.vfid → s.here.csr.htcount.toNat ≤ h.toNat / 2 ^ 24 % 2 ^ 20 →
       ∃ t, exec (.hchk o) s = .next t ∧ Writes s t o.d 0x26 o.stop))

/-- R327 to R335: the instructions on KV blocks wait until the core's earlier writes are performed at module scope,
dereference their handle (state q), and answer status, NBLK and LEN in s[d]. balloc inside the last block only lengthens LEN,
past the handle's extent answers 3, over the VF's quota 1 and from an empty pool 2 with event 0x88 (R329), and else takes a
new block for each layer, whose header begins with no PEND and no LOST bit and an even SEQ (R328); btrim answers the blocks
and length it keeps; bfree answers zero; bfork answers its source's blocks and length, and 3 on a destination too short;
bstat answers a word of a block, or AUX. A bad count traps with 0x61; a trap and a wait keep of the dereference what its
accesses met and its TLB entries (keepSeen, R222). What rests here on the model's own reading is in log entries 11, 17,
63. -/
def Obligations.KvInstructions : Prop :=
  ∀ (s r q : State) (e : HEntry) (d a b : Reg) (stop : Bool),
    let me : Agent := .stream s.cur
    let dev := decide (s.self.mode = .device)
    let h := s.reg a
    let v := (s.reg b).toNat
    let settled : State := { r with mem := r.mem.settle }
    s.release me (s.cur / 64) 3 = .ok r → settled.derefKv me dev h = .ok (q, e) → q.cur = s.cur → q.self = s.self →
    let word (st nblk len : Nat) : Dword := BitVec.ofNat 64 (st * 2 ^ 60 + nblk % 2 ^ 16 * 2 ^ 32 + len % 2 ^ 32)
    let answers (i : Instr) (q' : State) (w : Dword) : Prop := ∃ t, exec i s = .next t ∧ Writes q' t d w stop
    let o : R3 := ⟨d, a, b, stop⟩
    let posted (x : State) (hd : Dword) (st : Nat) : State :=
      match x.here.node with
      | some id => x.postNode id 0x88 st 0 (hd.toNat / 2 ^ 24 % 2 ^ 20)
      | none => x
    let quota (x : State) (n : Nat) : Prop := x.cfg e.vf 0x0E e.adie < x.blocksUsed e.vf e.adie + n
    let empty (x : State) (n : Nat) : Prop := x.freeBlocks e.vf e.adie < n
    (1 ≤ v → v ≤ e.kvP → e.kvLen + v ≤ e.nblk * e.kvP →
        ∀ q', q.writeAux me e e.nblk (e.kvLen + v) = .ok q' → answers (.balloc o) q' (word 0 e.nblk (e.kvLen + v)))
    ∧ (1 ≤ v → v ≤ e.kvP → e.nblk * e.kvP < e.kvLen + v → e.extent 1 < e.kvLen + v →
        answers (.balloc o) q (word 3 e.nblk e.kvLen))
    ∧ (1 ≤ v → v ≤ e.kvP → e.nblk * e.kvP < e.kvLen + v → e.kvLen + v ≤ e.extent 1 →
        (quota q e.layers → answers (.balloc o) (posted q h 1) (word 1 e.nblk e.kvLen))
        ∧ (¬quota q e.layers → empty q e.layers → answers (.balloc o) (posted q h 2) (word 2 e.nblk e.kvLen))
        ∧ (¬quota q e.layers → ¬empty q e.layers → ∀ q1 q2,
            (List.range e.layers).foldlM (fun (x : State) l => do
              let r ← x.newBlock (.stream x.cur) e l e.nblk 0 0
              r.1.writeBlock (.stream r.1.cur) e (e.kvTile l e.nblk) (some r.2)) q = .ok q1 →
            q1.cur = s.cur → q1.writeAux me e (e.nblk + 1) (e.kvLen + v) = .ok q2 →
            answers (.balloc o) q2 (word 0 (e.nblk + 1) (e.kvLen + v))))
    ∧ (∀ (l lb : Nat) (x y : State) (n : Nat) (hd : Header), q.takeBlock e.vf e.adie = (x, n) →
        x.readHeader me e.vf n = .ok (y, hd) →
        (n / 2 ^ 27 = e.adie → x.blockInfo n = ⟨1, e.vf⟩) ∧ q.newBlock me e l lb 0 0 =
          .ok (y.writeHeader me e.vf n ⟨(hd.seq ||| 1) + 1, 0, 0, e.handle, hd.wgen + 1, l, lb⟩, n))
    ∧ (v = 0 ∨ e.kvP < v → s.mayTrap → ∃ t, exec (.balloc o) s = .next t ∧ TrapsHere (s.keepSeen q) t 0x61 (s.reg b))
    ∧ (v ≤ e.kvLen → q.bfRunning e.vf h v = false →
        ∀ q', (q.bfDrop e.vf h v).kvTrim me e v = .ok (q', 0) → answers (.btrim o) q' (word 0 ((v + e.kvP - 1) / e.kvP) v))
    ∧ (v ≤ e.kvLen → q.bfRunning e.vf h v = false → v % e.kvP ≠ 0 →
        let keep := v / e.kvP + 1
        let below : Dword := BitVec.ofNat 64 (2 ^ min (v % e.kvP) 64 - 1)
        let cut (x : State) (l : Nat) : Except Stop State := do
          let r ← x.readBlock me e (e.kvTile l (keep - 1))
          match r.2 with
          | none => .ok r.1
          | some n =>
            let z ← r.1.readHeader me e.vf n
            .ok (z.1.writeHeader me e.vf n
              { z.2 with pend := z.2.pend &&& below, lost := z.2.lost &&& below, wgen := z.2.wgen + 1 })
        let ends (x : State) : Prop := ∀ q1 q2 q3, x.dropBlocks me e keep false = .ok q1 →
          (List.range e.layers).foldlM cut q1 = .ok q2 → q2.writeAux me e keep v = .ok q3 →
          answers (.btrim o) q3 (word 0 keep v)
        ∀ x shared, (q.bfDrop e.vf h v).tailShared me e (keep - 1) false = .ok (x, shared) →
          (shared = false → ends x)
          ∧ (shared = true → quota x e.layers → answers (.btrim o) (posted x h 1) (word 1 e.nblk e.kvLen))
          ∧ (shared = true → ¬quota x e.layers → empty x e.layers → answers (.btrim o) (posted x h 2) (word 2 e.nblk e.kvLen))
          ∧ (shared = true → ¬quota x e.layers → ¬empty x e.layers → ∀ y, x.unshareTail me e (keep - 1) false = .ok y → ends y))
    ∧ (v ≤ e.kvLen → q.bfRunning e.vf h v = true →
        ∃ t, exec (.btrim o) s = .next t ∧ Waits (s.keepSeen q) t (.backfill (h.toNat / 2 ^ 24 % 2 ^ 20) v))
    ∧ (q.bfRunning e.vf h 0 = false → ∀ q' q'', (q.bfDrop e.vf h 0).dropBlocks me e 0 false = .ok q' →
        q'.writeAux me e 0 0 = .ok q'' → answers (.bfree ⟨d, a, stop⟩) q'' 0)
    ∧ (∀ q1 q2 y pending, q.derefKv me dev (s.reg b) = .ok (q1, y) → q1.cur = s.cur → q1.kvOk e = true →
        forkOk e y = true → q1.anyPending me e = .ok (q2, pending) → q2.cur = s.cur →
        let share (x : State) (l : Nat) : Except Stop State := x.forkShare (.stream x.cur) e y l (e.kvLen / e.kvP)
        (pending = true → answers (.bfork o) q2 (word 4 y.nblk y.kvLen))
        ∧ (pending = false → y.extent 1 < e.kvLen → answers (.bfork o) q2 (word 3 y.nblk y.kvLen))
        ∧ (pending = false → e.kvLen ≤ y.extent 1 → e.kvLen % e.kvP = 0 → ∀ q3 q4,
            (List.range e.layers).foldlM share q2 = .ok q3 → q3.cur = s.cur → q3.writeAux me y e.nblk e.kvLen = .ok q4 →
            answers (.bfork o) q4 (word 0 e.nblk e.kvLen))
        ∧ (pending = false → e.kvLen ≤ y.extent 1 → e.kvLen % e.kvP ≠ 0 → y.vf = e.vf → y.layers = e.layers →
            (quota q2 e.layers → answers (.bfork o) (posted q2 (s.reg b) 1) (word 1 y.nblk y.kvLen))
            ∧ (¬quota q2 e.layers → empty q2 e.layers → answers (.bfork o) (posted q2 (s.reg b) 2) (word 2 y.nblk y.kvLen))
            ∧ (¬quota q2 e.layers → ¬empty q2 e.layers → ∀ q3 q4,
                (List.range e.layers).foldlM (fun (x : State) l => do
                  let x ← share x l
                  x.forkTail (.stream x.cur) e y l (e.kvLen / e.kvP) (e.kvLen % e.kvP)) q2 = .ok q3 →
                q3.cur = s.cur → q3.writeAux me y e.nblk e.kvLen = .ok q4 →
                answers (.bfork o) q4 (word 0 e.nblk e.kvLen))))
    ∧ (v / 2 ^ 35 = 0 → v % 2 ^ 32 < e.ntiles →
        (v / 2 ^ 32 % 8 = 7 → answers (.bstat o) q (BitVec.ofNat 64 e.aux))
        ∧ (v / 2 ^ 32 % 8 < 7 → ∀ q', q.readBlock me e (v % 2 ^ 32) = .ok (q', none) → answers (.bstat o) q' 0)
        ∧ (v / 2 ^ 32 % 8 < 6 → ∀ q1 q2 blk hd, q.readBlock me e (v % 2 ^ 32) = .ok (q1, some blk) → q1.cur = s.cur →
            q1.readHeader me e.vf blk = .ok (q2, hd) →
            answers (.bstat o) q2 (match v / 2 ^ 32 % 8 with
              | 0 => hd.seq
              | 1 => hd.pend
              | 2 => hd.lost
              | 3 => hd.owner
              | 4 => hd.wgen
              | _ => BitVec.ofNat 64 (hd.lblk * 2 ^ 32 + hd.layer))))
    ∧ (v / 2 ^ 35 ≠ 0 ∨ e.ntiles ≤ v % 2 ^ 32 → s.mayTrap →
        ∃ t, exec (.bstat o) s = .next t ∧ TrapsHere (s.keepSeen q) t 0x61 (s.reg b))

/-- R369 to R374, R355: the adapter instructions wait until the core's earlier writes are performed at module scope, and
answer a status in s[d]. aadmit of the current version adds a reference and a log record and starts the load of an absent
one, and the die entries of its factors are pinned by their references (R359); it answers 1 while it loads; a stale handle is
answered 2, another version 3, an empty entry 7. aresolve of a resident version that is referenced, the current or the
superseded one, writes the resolve record; of an absent or loading one it answers 1 and the ticket of the load. arel logs a
release, and traps with 0x68 where no reference is left. apublish makes a version current and keeps the one that is
referenced as superseded; it answers 4 for a busy entry, 3 for another version and 6 for a record of another shape. aclaim
takes a range, and answers 5 and the entry whose range it meets. An INDEX outside the table traps with 0x65 and a full log
with 0x67. They wait while a retirement of their VF waits (R364). What rests here on the model's own reading is in log
entries 17, 20, 65, 149. -/
def Obligations.AdapterInstructions : Prop :=
  ∀ (s r : State) (d a b : Reg) (stop : Bool),
    let me : Agent := .stream s.cur
    let tok := s.reg a
    let ver : BitVec 28 := tok.extractLsb' 32 28
    let hnd : Word := tok.extractLsb' 0 32
    let i := hnd.toNat % 65536
    let v := (s.reg b).toNat
    let vf := s.here.vfid
    let e := s.adapter vf i
    let stale := hnd.extractLsb' 16 16 ≠ e.gen ∨ e.state = 3
    let word (st x : Nat) : Dword := BitVec.ofNat 64 (st * 2 ^ 60 + x)
    let settled : State := { r with mem := r.mem.settle }
    let inTable := i < s.here.csr.adcfg.toNat % 2 ^ 17
    let answers (ins : Instr) (q : State) (w : Dword) : Prop := ∃ t, exec ins s = .next t ∧ Writes q t d w stop
    let o : R3 := ⟨d, a, b, stop⟩
    (¬inTable → s.mayTrap → ∀ ins, ins = .aadmit ⟨d, a, stop⟩ ∨ ins = .aresolve o ∨ ins = .arel ⟨a, stop⟩
        ∨ ins = .apublish o ∨ ins = .aclaim o → ∃ t, exec ins s = .next t ∧ TrapsHere s t 0x65 tok)
    ∧ (inTable → (∃ x ∈ s.hearth.retires, x.vf = vf) → ∀ ins, ins = .aadmit ⟨d, a, stop⟩ ∨ ins = .arel ⟨a, stop⟩
        ∨ ins = .apublish o → ∃ t, exec ins s = .next t ∧ Waits s t .order)
    ∧ (inTable → (∀ x ∈ s.hearth.retires, x.vf ≠ vf) → s.release me (s.cur / 64) 3 = .ok r →
      (e.ver = 0 → answers (.aadmit ⟨d, a, stop⟩) settled (word 7 0))
      ∧ (e.ver ≠ 0 → stale → answers (.aadmit ⟨d, a, stop⟩) settled (word 2 0))
      ∧ (e.ver ≠ 0 → ¬stale → ver ≠ 0 → ver ≠ e.ver → ver ≠ e.sver →
          answers (.aadmit ⟨d, a, stop⟩) settled (word 3 0))
      ∧ (∀ id n, s.here.node = some id → s.node? id = some n → e.ver ≠ 0 → ¬stale → ver = 0 ∨ ver = e.ver →
          (n.alog.length < 64 → ∃ t, exec (.aadmit ⟨d, a, stop⟩) s = .next t
            ∧ (d ≠ 0 → t.reg d = word (if e.state ≤ 1 then 1 else 0) (e.ver.toNat * 2 ^ 32 + hnd.toNat))
            ∧ t.adapter vf i = { e with refs := e.refs + 1, state := if e.state = 0 then 1 else e.state
                                        copied := if e.state = 0 then 0 else e.copied
                                        hands := (t.adapter vf i).hands, ohands := (t.adapter vf i).ohands }
            ∧ (∀ die k p, (t.die die).probe.lookup k = some p → (∃ x, some x ∈ e.hands ∧ p.keyed vf x = true) →
                p.pins = (t.factorRefs vf p.index p.gen).getD 0)
            ∧ t.node? id = some { n with alog := n.alog ++ [⟨false, hnd, e.ver⟩] }
            ∧ t.issue = .retired ∧ (∀ core, core ≠ s.cur → t.core core = s.core core) ∧ RegsBut s t d)
          ∧ (64 ≤ n.alog.length → s.mayTrap → ∃ t, exec (.aadmit ⟨d, a, stop⟩) s = .next t ∧ TrapsHere s t 0x67 tok))
      ∧ (v / 2 ^ 52 = 0 → v / 2 ^ 16 % 2 ^ 16 = 0 → v / 2 ^ 32 % 32 = 0 → v / 2 ^ 32 + 96 ≤ s.here.spBytes →
          let current := ver = e.ver ∧ e.refs ≠ 0
          let tickets := (s.die (s.cur / 64)).tickets
          let loads (k : Nat) : Prop := ∃ t, exec (.aresolve o) s = .next t ∧ (d ≠ 0 → t.reg d = word 1 k) ∧ RegsBut s t d
            ∧ t.adapter vf i = (if e.state = 0 then { e with state := 1, copied := 0 } else e) ∧ t.issue = .retired
            ∧ (∀ core, core ≠ s.cur → t.core core = s.core core)
            ∧ ∃ x ∈ (t.die (s.cur / 64)).tickets, x = (k, TicketOf.adapter vf i)
          (stale → answers (.aresolve o) settled (word 2 0))
          ∧ (¬stale → current → e.state = 2 → ∀ q,
              settled.resolve (v / 2 ^ 32) (v % 2 ^ 16) e.vrec.toNat e.nlayer e.fmt e.alpha e.rank e.ver = .ok q →
              answers (.aresolve o) q (word 0 0))
          ∧ (¬stale → current → e.state ≤ 1 → (∀ x ∈ tickets, x.2 ≠ .adapter vf i) → loads (s.die (s.cur / 64)).nextTicket)
          ∧ (¬stale → current → e.state ≤ 1 → ∀ k, tickets.find? (fun x => x.2 == .adapter vf i) = some (k, .adapter vf i) → loads k)
          ∧ (¬stale → ¬current → ver = e.sver → e.srefs ≠ 0 → ∀ q,
              settled.resolve (v / 2 ^ 32) (v % 2 ^ 16) e.svrec.toNat e.onlayer e.ofmt e.oalpha e.orank e.sver = .ok q →
              answers (.aresolve o) q (word 0 0))
          ∧ (¬stale → ¬current → (ver ≠ e.sver ∨ e.srefs = 0) → answers (.aresolve o) settled (word 3 0)))
      ∧ (∀ id n, s.here.node = some id → s.node? id = some n →
          let held := (n.alog.filter fun x => x.release && x.handle.toNat % 65536 == i && x.ver == ver).length
          let refs := if ver = e.ver then e.refs.toNat else if ver = e.sver then e.srefs.toNat else 0
          let traps (code : Byte) : Prop := s.mayTrap → ∃ t, exec (.arel ⟨a, stop⟩) s = .next t ∧ TrapsHere s t code tok
          (held < refs → n.alog.length < 64 → ∃ t, exec (.arel ⟨a, stop⟩) s = .next t
            ∧ OnlyAdvances (settled.setNode id { n with alog := n.alog ++ [⟨true, hnd, ver⟩] }) t stop)
          ∧ (refs ≤ held → traps 0x68) ∧ (held < refs → 64 ≤ n.alog.length → traps 0x67))
      ∧ (∀ q, hnd.extractLsb' 16 16 = e.gen → e.state ≠ 3 → e.state ≠ 1 → ver = e.ver → e.ver ≠ 0xFFFFFFF →
          e.refs = 0 ∨ e.srefs = 0 → settled.publish tok (s.reg b) = .ok (q, 0) → q.here.vfid = vf →
          answers (.apublish o) q
            (word 0 ((q.adapter vf i).ver.toNat * 2 ^ 32 + (q.adapter vf i).gen.toNat * 2 ^ 16 + i)))
      ∧ (∀ q, hnd.extractLsb' 16 16 = e.gen → settled.publish tok (s.reg b) = .ok (q, 0) →
          let f := q.adapter vf i
          q.here.vfid = vf → f.ver = ver + 1 ∧ f.refs = 0 ∧ f.vrec = s.reg b ∧ (f.state = 0 ∨ f.state = 2)
            ∧ f.sver = (if e.refs = 0 then e.sver else e.ver) ∧ f.srefs = (if e.refs = 0 then e.srefs else e.refs))
      ∧ (let tells (q : State) (st : Nat) : Prop :=
           answers (.apublish o) q (word st (e.ver.toNat * 2 ^ 32 + e.gen.toNat * 2 ^ 16 + i))
         let same := hnd.extractLsb' 16 16 = e.gen
         let live := e.state ≠ 3 ∨ (e.refs = 0 ∧ e.srefs = 0)
         let busy := e.ver = 0xFFFFFFF ∨ e.state = 1 ∨ (e.refs ≠ 0 ∧ e.srefs ≠ 0)
         (¬same → tells settled 2) ∧ (same → ¬live → tells settled 4) ∧ (same → live → ver ≠ e.ver → tells settled 3)
         ∧ (same → live → ver = e.ver → busy → tells settled 4)
         ∧ (same → live → ver = e.ver → ¬busy → v % 64 = 0 → ∀ q bs, settled.readVa me vf v 64 = .ok (q, bs) →
             q.here.vfid = vf → q.adapter vf i = e → headerBad bs = false → BitVec.ofNat 64 (field bs 0 8) ≠ q.sec.abase → tells q 6))
      ∧ (v / 2 ^ 32 = 0 →
          let first := v % 2 ^ 16
          let n := v / 2 ^ 16 % 2 ^ 16
          let base := s.cfg vf 0x14 % 2 ^ 16
          let meets (p : Nat × AdEntry) : Bool :=
            p.1 != i && decide (n ≠ 0 ∧ 0 < p.2.xcnt ∧ p.2.xfirst < first + n ∧ first < p.2.xfirst + p.2.xcnt)
          (n = 0 ∨ (base ≤ first ∧ first + n ≤ base + s.cfg vf 0x14 / 2 ^ 16 % 2 ^ 16)) →
          (stale → answers (.aclaim o) settled (word 2 0))
          ∧ (¬stale → ver ≠ e.ver → answers (.aclaim o) settled (word 3 0))
          ∧ (¬stale → ver = e.ver → ∀ j f, (s.vf vf).adapters.find? meets = some (j, f) →
              answers (.aclaim o) settled (word 5 j))
          ∧ (¬stale → ver = e.ver → (∀ p ∈ (s.vf vf).adapters, meets p = false) →
              answers (.aclaim o) (settled.updAdapter vf i fun e => { e with xfirst := first, xcnt := n }) (word 0 0))))

/-- R212, R213: probe of a VALID entry makes it the most recent, answers its place and goes on; of a FILLING one it answers
its ticket and goes to the miss offset; of a FAILED one it answers 4 and the cause, and empties it; without an entry it
queues the fill of a slot and answers 1 and the new ticket; a stale handle answers 5 and misses; with no slot to take it
answers 3 and misses. pinv empties an unpinned entry and answers 1; 0 for no entry, 2 for a pinned one; it waits for a fill,
whose end takes the entry away, and then answers 1; what the check and the pins met stays at the wait (keepSeen, R222). A
miss offset outside the binary traps with 0x15 before anything else. An entry's key is the running VF's. `p` is the state
after the handle's check, which for pinv does not look at the generation, and `q` the one in which the pins of the die's
entries are known (R359). R157, R158, R111: tqry reports a table slot to its owner, and only that it is another's to others;
tsel changes the banks of an owned slot whose shadow bank is READY, waits while it is LOADING, and traps with 0x42 on a slot
not owned and 0x43 on an EMPTY bank; vsett gives vtype its value, s[d] the old one, and traps with 0x1A on a value that
breaks the rule of vtype. Nothing else changes. What rests here on the model's own reading is in log entries 24, 51, 65, 66,
136, 137. -/
def Obligations.ProbesAndTables : Prop :=
  (∀ (s p : State) (d a : Reg) (stop : Bool) (k : ProbeKey),
     let off := (s.reg a).toNat
     let region : Nat := if k.die then 2 ^ 59 else 0
     let key : PKey := { PKey.of k.handle k.tile with vf := s.here.vfid }
     s.here.probeRecord off = .ok k →
     (∀ offs : BitVec 13,
       let miss := s.self.pc + offs.signExtend 64 * 4
       let o : RProbe := ⟨d, a, offs, stop⟩
       let misses (q' : State) (w : Dword) : Prop := ∃ t, exec (.probe o) s = .next t ∧ GoesTo t miss
         ∧ (d ≠ 0 → t.reg d = w) ∧ RegsBut q' t d ∧ OnlyRegs q' t ∧ OnlyStream q' t ∧ MemorySame q' t
       (¬s.mayGoTo miss → s.mayTrap → ∃ t, exec (.probe o) s = .next t ∧ TrapsHere s t 0x15 miss)
       ∧ (s.mayGoTo miss → s.probeHandle k off = .ok (p, false) → p.self = s.self → misses p (BitVec.ofNat 64 (5 * 2 ^ 60 + region)))
       ∧ (s.mayGoTo miss → s.probeHandle k off = .ok (p, true) → p.self = s.self → p.here.vfid = s.here.vfid →
           let q := p.learnFor k
           q.self = s.self → q.here.vfid = s.here.vfid → ∀ i,
           let t := q.probeTable k
           let e := q.pentry t i
           (q.pfind t key = some i → e.state = 2 → ∃ t', exec (.probe o) s = .next t' ∧
             Writes (q.setPentry t i { e with recency := q.tb }) t' d (BitVec.ofNat 64 (region +
               if k.die then i else q.here.spBytes - q.here.prBytes + i * q.here.slotBytes)) stop)
           ∧ (q.pfind t key = some i → e.state = 1 →
               misses q (BitVec.ofNat 64 (2 * 2 ^ 60 + region + e.ticket)))
           ∧ (q.pfind t key = some i → e.state = 3 →
               misses (q.setPentry t i .init) (BitVec.ofNat 64 (4 * 2 ^ 60 + region + e.cause.toNat * 2 ^ 48)))
           ∧ (q.pfind t key = none → q.pchoose t s.here.vfid = none →
               misses q (BitVec.ofNat 64 (3 * 2 ^ 60 + region)))
           ∧ (q.pfind t key = none → q.pchoose t s.here.vfid = some i →
               let n := (q.die t.home).nextTicket
               let f := (q.queueFill t i s.here.vfid k.handle k.tile).1
               misses f (BitVec.ofNat 64 (2 ^ 60 + region + n))
                 ∧ (f.pentry t i).state = 1 ∧ (f.pentry t i).ticket = n ∧ (f.pentry t i).handle = k.handle
                 ∧ (f.pentry t i).matches key = true
                 ∧ (n, TicketOf.probe (if k.die then none else some q.cur) i) ∈ (f.die t.home).tickets)))
     ∧ (s.probeHandle k off true = .ok (p, true) → p.self = s.self → p.here.vfid = s.here.vfid →
       let q := p.learnFor k
       q.self = s.self → q.here.vfid = s.here.vfid →
       let o : R2 := ⟨d, a, stop⟩
       let t := q.probeTable k
       let awaited := ∃ b i n, s.self.wait = some (.fill b i, n)
       (q.pfind t key = none → (¬awaited → ∃ t', exec (.pinv o) s = .next t' ∧ Writes q t' d 0 stop)
         ∧ (awaited → ∃ t', exec (.pinv o) s = .next t' ∧ Writes q t' d 1 stop))
       ∧ ∀ i, q.pfind t key = some i →
         let e := q.pentry t i
         (e.state ≠ 1 → e.pins = 0 → ∃ t', exec (.pinv o) s = .next t' ∧ Writes (q.setPentry t i .init) t' d 1 stop)
         ∧ (e.state ≠ 1 → e.pins ≠ 0 → ∃ t', exec (.pinv o) s = .next t' ∧ Writes q t' d 2 stop)
         ∧ (e.state = 1 → ∃ t', exec (.pinv o) s = .next t' ∧ Waits (s.keepSeen q) t' (.fill (!k.die) i))))
  ∧ (∀ s : State,
     (∀ o : R2,
       let x := s.here.slot ((s.reg o.a).toNat % 16)
       let act := if x.flip then x.bank1 else x.bank0
       let shd := if x.flip then x.bank0 else x.bank1
       let writes (n : Nat) : Prop := ∃ t, exec (.tqry o) s = .next t ∧ Writes s t o.d (BitVec.ofNat 64 n) o.stop
       (∀ v, x.owner = some v → v ≠ s.here.vfid → writes (2 * 2 ^ 32))
       ∧ (∀ own, (x.owner = none ∧ own = 0) ∨ (x.owner = some s.here.vfid ∧ own = 2 ^ 32) →
           writes (own + ((if act.state = 2 then 1 else 0) * 2 ^ 28 + shd.state * 2 ^ 26
             + (if act.state = 2 then tblNseg act.data else 0) * 2 ^ 17
             + (if shd.state = 2 then tblNseg shd.data else 0) * 2 ^ 8 + min 255 (act.readers + shd.readers)))))
     ∧ (∀ o : VSel,
       let n := o.slot.toNat
       let x := s.here.slot n
       let shd := if x.flip then x.bank0 else x.bank1
       let own := x.owner = some s.here.vfid
       (own → shd.state = 2 → ∃ t, exec (.tsel o) s = .next t ∧ MemorySame s t
         ∧ OnlyAdvances (s.updHere fun c => c.setSlot n { x with flip := !x.flip }) t o.stop)
       ∧ (own → shd.state = 1 → ∃ t, exec (.tsel o) s = .next t ∧ Waits s t (.tselLoading n))
       ∧ (own → shd.state = 0 → s.mayTrap → ∃ t, exec (.tsel o) s = .next t ∧ TrapsHere s t 0x43 (BitVec.ofNat 64 n))
       ∧ (¬own → s.mayTrap → ∃ t, exec (.tsel o) s = .next t ∧ TrapsHere s t 0x42 (BitVec.ofNat 64 n)))
     ∧ ∀ o : R2,
       let v := s.reg o.a &&& vtypeMask
       (vtypeOk v = true → ∃ t, exec (.vsett o) s = .next t ∧ MemorySame s t
         ∧ Writes (s.updHere fun c => { c with vec := { c.vec with vtype := v } }) t o.d s.here.vec.vtype o.stop)
       ∧ (vtypeOk v = false → s.mayTrap → ∃ t, exec (.vsett o) s = .next t ∧ TrapsHere s t 0x1A v))

/-! ### Phasers (R275 to R282) -/

/-- R281, R277: phreg adds its node to a phaser and gives it a member record; phsig arrives as a release at the phaser's
scope and waits where its record has arrived already; phwait passes a completed phase and waits for one that is not; phadv
does both, and its arrival stands while it waits; phdrop leaves. An id outside the VF's range traps with 0x52, a record that
is missing, of another mode or already there with 0x53, and a full node or phaser with 0x54. `p` is the phaser, `m` the
node's record. R282, R277: phqry reports a phaser's phase, signallers and arrivals; phqry.m the node's record on it. Nothing
else changes. An advance: with all its signallers arrived a phaser goes to its next phase, whose signallers are those of the
last with the registrations and drops since. What rests here on the model's own reading is in log entry 20. -/
def Obligations.PhaserInstructions : Prop :=
  (∀ (s : State) (nid : Dword) (n : Node) (a b : Reg) (stop : Bool),
     let id := s.reg a
     let p := s.phaser id
     let v := (s.reg b).toNat
     let mode := v % 4
     let scope := v / 16 % 8
     let turn : WaitOn := .phaser (id.toNat / 2 ^ 16 % 32) (id.toNat % 2 ^ 12)
     let inRange := id.toNat / 2 ^ 21 % 2 ^ 35 = 0 ∧ id.toNat / 2 ^ 12 % 16 = 0
       ∧ (s.self.mode = .device ∨ id.toNat / 2 ^ 56 = s.here.vfid)
       ∧ s.cfg (id.toNat / 2 ^ 56) 0x11 ≤ id.toNat % 2 ^ 12
       ∧ id.toNat % 2 ^ 12 < s.cfg (id.toNat / 2 ^ 56) 0x11 + s.cfg (id.toNat / 2 ^ 56) 0x12
     let record := n.members.find? fun m => m.id == id
     let update (q : State) (m' : Member) : State :=
       q.updNode nid fun n => { n with members := n.members.map fun x => if x.id = m'.id then m' else x }
     let ends (i : Instr) (q : State) : Prop := ∃ t, exec i s = .next t ∧ OnlyAdvances q t stop
     let traps (i : Instr) (code : Byte) : Prop := s.mayTrap → ∃ t, exec i s = .next t ∧ TrapsHere s t code id
     (¬inRange → (traps (.phreg ⟨a, b, stop⟩) 0x52 ∧ traps (.phsig ⟨a, stop⟩) 0x52 ∧ traps (.phwait ⟨a, stop⟩) 0x52
       ∧ traps (.phadv ⟨a, stop⟩) 0x52 ∧ traps (.phdrop ⟨a, stop⟩) 0x52))
     ∧ (inRange → s.here.node = some nid → s.node? nid = some n →
       (record = none → v / 2 ^ 7 = 0 → v / 4 % 4 = 0 → mode ≠ 0 → 2 ≤ scope → scope ≤ 4 →
         (n.members.length < 32 → p.nmem ≠ 65535 → (p.nmem = 0 ∨ p.scope = scope) →
           (scope = 2 → s.cur / 64 = id.toNat / 2 ^ 16 % 32) →
           ends (.phreg ⟨a, b, stop⟩)
             ((s.setNode nid { n with members := n.members ++ [⟨id, mode, p.phase + 1, p.phase + 1, scope⟩] }).setPhaser id
               { p with scope := if p.nmem = 0 then scope else p.scope, nmem := p.nmem + 1
                        dns := if mode = 2 then p.dns else p.dns + 1 }.advance))
         ∧ (32 ≤ n.members.length ∨ p.nmem = 65535 → traps (.phreg ⟨a, b, stop⟩) 0x54))
       ∧ (record.isSome = true → traps (.phreg ⟨a, b, stop⟩) 0x53)
       ∧ (record = none → traps (.phsig ⟨a, stop⟩) 0x53 ∧ traps (.phwait ⟨a, stop⟩) 0x53
           ∧ traps (.phadv ⟨a, stop⟩) 0x53 ∧ traps (.phdrop ⟨a, stop⟩) 0x53)
       ∧ ∀ m, record = some m →
         let released := s.mem.performed (.stream s.cur) (s.cur / 64) p.scope 0xFF = true
           ∧ (p.scope < 4 ∨ s.peersDone (.stream s.cur) = true)
         let r : State := { s with mem := s.mem.setPreds (.stream s.cur) (s.cur / 64) p.scope }
         let arrived : State := update (r.setPhaser id { p with arr := p.arr + 1 }.advance) { m with sp := m.sp + 1 }
         let passed (x : Phaser) : Prop := 1 ≤ (x.phase - m.wp).toNat ∧ (x.phase - m.wp).toNat < 2 ^ 31
         (m.mode = 1 ∨ m.mode = 3 → m.sp = p.phase → released → ends (.phsig ⟨a, stop⟩) arrived)
         ∧ (m.mode = 1 ∨ m.mode = 3 → m.sp ≠ p.phase → ∃ t, exec (.phsig ⟨a, stop⟩) s = .next t ∧ Waits s t turn)
         ∧ (m.mode = 2 ∨ m.mode = 3 → passed p → ends (.phwait ⟨a, stop⟩) (update s { m with wp := m.wp + 1 }))
         ∧ (m.mode = 2 ∨ m.mode = 3 → ¬passed p → ∃ t, exec (.phwait ⟨a, stop⟩) s = .next t ∧ Waits s t turn)
         ∧ (m.mode = 3 → m.sp ≠ m.wp → passed p → ends (.phadv ⟨a, stop⟩) (update s { m with wp := m.wp + 1 }))
         ∧ (m.mode = 3 → m.sp = m.wp → m.sp = p.phase → released →
             (passed (arrived.phaser id) →
               ends (.phadv ⟨a, stop⟩) (update arrived { m with sp := m.sp + 1, wp := m.wp + 1 }))
             ∧ (¬passed (arrived.phaser id) → ∃ t, exec (.phadv ⟨a, stop⟩) s = .next t ∧ 
               Waits (arrived.updHere fun c => { c with advanced := s.tb }) t turn))
         ∧ (m.mode = 2 → ends (.phdrop ⟨a, stop⟩) ((s.updNode nid fun n =>
             { n with members := n.members.filter fun x => x.id != id }).setPhaser id
               (if p.nmem ≤ 1 then { Phaser.idle with phase := p.phase } else { p with nmem := p.nmem - 1 }.advance)))
         ∧ (m.mode = 3 → m.sp = p.phase → released → 2 ≤ p.nmem → ends (.phdrop ⟨a, stop⟩) ((r.updNode nid fun n =>
             { n with members := n.members.filter fun x => x.id != id }).setPhaser id
               { p with nmem := p.nmem - 1, arr := p.arr + 1, dns := p.dns - 1 }.advance))))
  ∧ ((∀ (o : R2) (s : State), s.phaserId (s.reg o.a) = .ok () →
     let id := s.reg o.a
     let p := s.phaser id
     (∃ t, exec (.phqry o) s = .next t ∧ Writes s t o.d
       (BitVec.ofNat 64 (p.phase.toNat * 2 ^ 32 + p.ns % 2 ^ 16 * 2 ^ 16 + p.arr % 2 ^ 16)) o.stop)
     ∧ (s.memberOf? id = none → ∃ t, exec (.phqryM o) s = .next t ∧ Writes s t o.d 0 o.stop)
     ∧ ∀ m, s.memberOf? id = some m → ∃ t, exec (.phqryM o) s = .next t ∧ Writes s t o.d
         (BitVec.ofNat 64 (m.wp.toNat * 2 ^ 32 + m.mode * 2 ^ 30 + if m.sp = p.phase + 1 then 1 else 0)) o.stop)
   ∧ ∀ p : Phaser, 0 < p.nmem → (1 ≤ p.ns ∧ p.arr = p.ns) ∨ (p.ns = 0 ∧ 0 < p.dns) →
     p.advance = { p with phase := p.phase + 1, ns := ((p.ns : Int) + p.dns).toNat, dns := 0, arr := 0 }
       ∧ p.advance.advance = p.advance)

/-! ### Nodes (R316 to R320) -/

/-- R316, R317: nyield of a drained core with no pre-emption pending begins the node's next operator: the checkpoint holds
the graph position of the core, its offsets and its arguments, npos and nopst are the position and tb, the L1 is written back
and empty, and the stream goes on. A core that is not drained waits. npark of a node of one core leaves the core with its
wake word and parks. ndone of one core of several stops its streams and keeps the core; that of the last core ends the node
DONE, frees its cores and lowers the counter of each successor by 1, which makes one that reaches 0 ready (R295). ndone.abort
posts the node's record with status 1, CAUSE and INDEX from its operand (R311), ends the node, frees its cores, and drops the
successor that waits (R297). npark and ndone, whose drops are releases, first wait until the core's writes to peers are
acknowledged, and the record and the end of ndone.abort wait for the node's (R279, R296). A bad resume offset traps with
0x56, and ndone in handler mode does as R77 says for 0x56 in handler mode. R318, R319: nspawn of a descriptor without
successors adds a node to its graph and answers its number; it answers 1 where a successor no longer waits and 2 where the
graph is full, and adds none. ndep makes a waiting node wait for one more and ndep.rel for one fewer, a release; they answer
the counter, 1 with it for a node that does not wait, and ndep 2 for a counter at its top. The node whose counter reaches 0
is ready. What rests here on the model's own reading is in log entries 20, 76. -/
def Obligations.NodeInstructions : Prop :=
  (∀ (s : State) (nid : Dword) (n : Node), s.here.node = some nid → s.node? nid = some n → s.curX = false →
     let acked := s.coreAcked s.cur
     (∀ o : RAB,
       let v := s.reg o.a
       let ok := v.toNat % 2 ^ 32 % 4 = 0 ∧ v.toNat % 2 ^ 32 < s.here.image.lenC
         ∧ v.toNat / 2 ^ 32 % 4 = 0 ∧ v.toNat / 2 ^ 32 < s.here.image.lenX
       (¬ok → s.mayTrap → (∃ t, exec (.nyield o) s = .next t ∧ TrapsHere s t 0x56 v)
           ∧ ∃ t, exec (.npark o) s = .next t ∧ TrapsHere s t 0x56 v)
       ∧ (ok → s.here.stand = none → s.here.drained = false → ∃ t, exec (.nyield o) s = .next t ∧ Waits s t .drained)
       ∧ (∀ p, ok → s.here.stand = none → s.here.drained = true → n.pendSince = none → n.check = some p →
           s.here.nci < p.cores.length →
         ∃ t n' k, exec (.nyield o) s = .next t ∧ t.node? nid = some n' ∧ n'.check = some k
           ∧ k.cores = p.cores.set s.here.nci
             ⟨v.setWidth 32, (v >>> (32 : Nat)).setWidth 32, (List.range 8).map fun i => SMap.get 0 s.here.c.regs (i + 1), s.reg o.b⟩
           ∧ k.members = n.members ∧ n'.alog = [] ∧ n'.overrun = false ∧ n'.rollbacks = 0 ∧ n'.cores = n.cores
           ∧ t.here.csr.npos = s.reg o.b ∧ t.here.csr.nopst = BitVec.ofNat 64 s.tb ∧ t.here.l1 = []
           ∧ t.here.stand = none ∧ RegsSame s t ∧ OnlyRegs s t ∧ GoesOn s t 1 o.stop)
       ∧ (ok → (s.reg o.b).toNat / 2 ^ 62 = 1 → (s.reg o.b).toNat / 2 ^ 32 % 2 ^ 30 = 0 → s.here.stand = none →
           s.here.drained = true → acked = false → ∃ t, exec (.npark o) s = .next t ∧ Waits s t .order)
       ∧ (ok → s.here.stand = none → s.here.drained = true → acked = true → n.cores = [s.cur] → (s.reg o.b).toNat / 2 ^ 62 = 1 →
           (s.reg o.b).toNat / 2 ^ 32 % 2 ^ 30 = 0 →
         ∃ t n', exec (.npark o) s = .next t ∧ t.node? nid = some n' ∧ n'.state = .parked ∧ n'.cores = []
           ∧ n'.members = [] ∧ n'.wakes = [(s.cur / 64, s.reg o.b)] ∧ t.here.node = none ∧ t.here.c.run = false
           ∧ t.here.x.run = false ∧ t.issue = .retired))
     ∧ (∀ o : R0, s.self.mode ≠ .handler → s.here.enginesEmpty = true → s.here.csr.grpid.getLsbD 16 = false → acked = true →
         (∃ c ∈ n.cores, c ≠ s.cur ∧ c ∉ n.done) → s.cur ∉ n.done →
         ∃ t, exec (.ndone o) s = .next t ∧ t.node? nid = some { n with done := n.done ++ [s.cur] }
           ∧ t.here.c.run = false ∧ t.here.x.run = false ∧ t.here.l1 = [] ∧ t.here.node = some nid
           ∧ (∀ c, c ≠ s.cur → t.core c = s.core c) ∧ t.issue = .retired)
     ∧ (∀ o : R0, (s.self.mode = .handler → exec (.ndone o) s = .next (s.trapHere ⟨0x56, 0, .zero, []⟩))
         ∧ (s.self.mode ≠ .handler → s.here.enginesEmpty = false → ∃ t, exec (.ndone o) s = .next t ∧ Waits s t .drained)
         ∧ (s.self.mode ≠ .handler → s.here.enginesEmpty = true → acked = false → ∃ t, exec (.ndone o) s = .next t ∧ Waits s t .order))
     ∧ ∀ r, s.graph? (graphKey nid) = some r → r.complete = false → n.state = .running → descType n.desc ≠ 2 → s.cur ∈ n.cores →
         n.alog = [] → n.members = [] → (∀ p, n.check = some p → p.kv = []) → s.hearth.rewinds = [] → s.hearth.retires = [] →
       let succ (k : Nat) (m : Node) : Prop :=
         k < 65536 ∧ s.node? (nodeKey (graphKey nid) k) = some m ∧ m.state = .waiting
       let free (t : State) : Prop :=
         (∀ c ∈ n.cores, (t.core c).node = none ∧ (t.core c).c.run = false ∧ (t.core c).x.run = false)
           ∧ ∀ c, c ∉ n.cores → t.core c = s.core c
       (∀ o : R0, s.self.mode ≠ .handler → s.here.enginesEmpty = true → acked = true →
         (∀ c ∈ n.cores, c = s.cur ∨ c ∈ n.done) →
         ∃ t n', exec (.ndone o) s = .next t ∧ t.node? nid = some n' ∧ n'.state = .ended 0 ∧ n'.cores = [] ∧ free t
           ∧ ∀ k m, n.succs = [k] → succ k m →
             (2 ≤ m.counter → m.counter < 2 ^ 32 →
               t.node? (nodeKey (graphKey nid) k) = some { m with counter := m.counter - 1 })
             ∧ (m.counter = 1 → r.held = false →
               t.node? (nodeKey (graphKey nid) k) = some { m with counter := 0, state := .ready, since := s.tb }))
       ∧ ∀ o : RA,
         let v := (s.reg o.a).toNat
         let last := record nid 1 (v % 2 ^ 8) 0 (v / 2 ^ 32) (s.stepWord nid)
         let ring (t : State) := (SMap.get .init (t.vf (nodeVf nid)).rings r.ring).held
         (s.owes nid n.cores = false → ∃ t n', exec (.ndoneAbort o) s = .next t ∧ t.node? nid = some n' ∧ n'.state = .ended 1
           ∧ n'.cores = [] ∧ free t ∧ (∃ more, ring t = ring s ++ last :: more)
           ∧ ∀ k m, n.succs = [k] → succ k m → t.node? (nodeKey (graphKey nid) k) = some { m with state := .ended 6 })
         ∧ (s.owes nid n.cores = true → ∃ t n', exec (.ndoneAbort o) s = .next t ∧ t.node? nid = some n'
           ∧ n'.state = .ending 1 last ∧ n'.cores = [] ∧ free t ∧ ring t = ring s))
  ∧ (∀ (s : State) (nid : Dword) (g : Graph), s.here.node = some nid → s.graph? (nid.toNat / 65536) = some g →
     (∀ (o : R3) (q : State) (d : Desc) (l : List (List Byte)) (succ : List Nat),
       (s.reg o.a).toNat % 256 = 0 → s.reg o.b = 0 →
       s.spawnDesc s.here.vfid (s.reg o.a).toNat = .ok (q, d, l, succ) → q.graph? (nid.toNat / 65536) = some g →
       let key : Dword := BitVec.ofNat 64 (nid.toNat / 65536 * 65536 + g.nodes)
       (g.nodes < 65535 → succ = [] → ∃ t n', exec (.nspawn o) s = .next t
         ∧ Writes (State.setNode (q.setGraph (nid.toNat / 65536) { g with nodes := g.nodes + 1 }) key n') t o.d
             (BitVec.ofNat 64 g.nodes) o.stop
         ∧ n'.desc = d ∧ n'.counter = descDeps d % 2 ^ 32 ∧ n'.succs = []
         ∧ n'.state = (if descDeps d % 2 ^ 32 = 0 then .ready else .waiting))
       ∧ (g.nodes < 65535 → (∀ k ∈ succ, k < g.nodes) → (∃ k ∈ succ, q.nodeState (nid.toNat / 65536) k ≠ some .waiting) →
           ∃ t, exec (.nspawn o) s = .next t ∧ Writes q t o.d (BitVec.ofNat 64 (2 ^ 60)) o.stop)
       ∧ (65535 ≤ g.nodes → ∃ t, exec (.nspawn o) s = .next t ∧ Writes q t o.d (BitVec.ofNat 64 (2 * 2 ^ 60)) o.stop))
     ∧ ∀ (o : R2) (n : Node),
       let j := (s.reg o.a).toNat
       let key : Dword := BitVec.ofNat 64 (nid.toNat / 65536 * 65536 + j)
       j < g.nodes → s.node? key = some n →
       let writes (i : Instr) (q : State) (st v : Nat) : Prop :=
         ∃ t, exec i s = .next t ∧ Writes q t o.d (BitVec.ofNat 64 (st * 2 ^ 60 + v)) o.stop
       (n.state = .waiting → n.counter < 2 ^ 32 - 1 →
           writes (.ndep o) (s.setNode key { n with counter := n.counter + 1 }) 0 (n.counter + 1))
       ∧ (n.state = .waiting → n.counter = 2 ^ 32 - 1 → writes (.ndep o) s 2 n.counter)
       ∧ (n.state ≠ .waiting → writes (.ndep o) s 1 n.counter)
       ∧ ∀ r, s.release (.stream s.cur) (s.cur / 64) 3 = .ok r →
         (n.state = .waiting → 2 ≤ n.counter → n.counter < 2 ^ 32 →
             writes (.ndepRel o) (r.setNode key { n with counter := n.counter - 1 }) 0 (n.counter - 1))
         ∧ (n.state = .waiting → n.counter = 1 → ∃ t n', exec (.ndepRel o) s = .next t ∧ t.node? key = some n'
             ∧ n'.state = .ready ∧ n'.counter = 0 ∧ n'.since = s.tb ∧ (o.d ≠ 0 → t.reg o.d = 0) ∧ RegsBut s t o.d)
         ∧ (n.state ≠ .waiting → writes (.ndepRel o) r 1 n.counter))

/-- R320, R174: the grpjoin that completes a group gives every member its group id with the group's clock unfrozen, and
retires; one that does not waits. An operand with reserved bits, a mask without the core itself or beyond the node's cores, a
core that is in a group already, an id that a group of the node uses, and an id that another core joins with another mask
trap with 0x55. grpleave leaves a group that is not fused, once the core's queues are empty, waits until then, and traps with
0x55 outside a group. What rests here on the model's own reading is in log entry 59. -/
def Obligations.CoreGroups : Prop :=
  (∀ (o : RAB) (s : State),
    let a := s.reg o.a
    let id := a.toNat % 2 ^ 16
    let mask := (s.reg o.b).toNat % 16
    let bad := 2 ^ 16 ≤ a.toNat ∨ 16 ≤ (s.reg o.b).toNat ∨ s.here.csr.grpid.getLsbD 16 = true
      ∨ (∀ i, s.myCores[i]? = some s.cur → mask.testBit i = false) ∨ 2 ^ s.myCores.length ≤ mask
      ∨ (∃ c ∈ s.myCores, (s.core c).csr.grpid = BitVec.ofNat 64 (2 ^ 16 + id))
      ∨ ∃ c ∈ s.myCores, ∃ m, (s.core c).joining = some (id, m) ∧ m ≠ mask
    (s.cur ∈ s.myCores → s.myCores.Nodup → (bad ↔ s.joinOk a (s.reg o.b) = false))
    ∧ (s.cur ∈ s.myCores → s.myCores.Nodup → bad → s.mayTrap → ∃ t, exec (.grpjoin o) s = .next t ∧ TrapsHere s t 0x55 a)
    ∧ (s.joinOk a (s.reg o.b) = true → s.here.enginesEmpty = false → ∃ t, exec (.grpjoin o) s = .next t ∧ Waits s t .group)
    ∧ (s.joinOk a (s.reg o.b) = true → s.here.enginesEmpty = true → s.curX = false →
        (∀ c ∈ membersOf s.myCores mask, c ≠ s.cur → (s.core c).joining = some (id, mask)) → s.myCores.Nodup →
        ∃ t, exec (.grpjoin o) s = .next t ∧ GoesOn s t 1 o.stop ∧ RegsSame s t ∧ MemorySame s t
          ∧ (∀ c ∈ membersOf s.myCores mask, (t.core c).csr.grpid = BitVec.ofNat 64 (2 ^ 16 + id)
              ∧ (t.core c).csr.xlfrz = 0 ∧ (t.core c).joining = none
              ∧ (c ≠ s.cur → (t.core c).c.wait = none ∧ (t.core c).c.regs = (s.core c).c.regs))
          ∧ ∀ c, c ∉ membersOf s.myCores mask → c ≠ s.cur → t.core c = s.core c)
    ∧ (s.joinOk a (s.reg o.b) = true → s.here.enginesEmpty = true →
        (∃ c ∈ membersOf s.myCores mask, c ≠ s.cur ∧ (s.core c).joining ≠ some (id, mask)) →
        ∃ t, exec (.grpjoin o) s = .next t
          ∧ Waits (s.updHere fun c => { c with joining := some (id, mask) }) t .group))
  ∧ ∀ (o : R0) (s : State),
    let grouped := s.here.csr.grpid.getLsbD 16 = true ∧ s.here.quad.role = 0 ∧ s.here.quad.pending = false
    (grouped → s.here.enginesEmpty = true → ∃ t, exec (.grpleave o) s = .next t ∧ MemorySame s t
      ∧ OnlyAdvances (s.updHere fun c => { c with csr := { c.csr with grpid := 0, xlfrz := 0 } }) t o.stop)
    ∧ (grouped → s.here.enginesEmpty = false → ∃ t, exec (.grpleave o) s = .next t ∧ Waits s t .groupLeave)
    ∧ (¬grouped → s.mayTrap → ∃ t, exec (.grpleave o) s = .next t ∧ TrapsHere s t 0x55 0)

/-! ### The vector queues (R74, R75) -/

/-- R74, R75: when an X-stream instruction finds its queues ready. A local queue (q16 to q31) that lacks an entry it reads
traps with 0x10, and one without room for its push with 0x11; a shared queue (q0 to q15) makes it wait. Stated of vand, and
of qrd and qwr of the C-stream, which wait in the same way. What rests here on the model's own reading is in log entry 62. -/
def Obligations.QueueReadiness : Prop :=
  (∀ (o : V3) (s : State), s.curX = true → o.a ≠ o.b → o.d ≠ o.a → o.d ≠ o.b →
    let len (q : Reg) : Nat := (s.here.queue q.toNat).length
    let i : Instr := .vand o
    (1 ≤ len o.a → 1 ≤ len o.b → len o.d < 4 → s.queues i = .ok ())
    ∧ (16 ≤ o.a.toNat → len o.a = 0 → s.mayTrap → ∃ t, exec i s = .next t ∧ TrapsHere s t 0x10 (o.a.zeroExtend 64))
    ∧ (1 ≤ len o.a → 1 ≤ len o.b → 16 ≤ o.d.toNat → 4 ≤ len o.d → s.mayTrap →
        ∃ t, exec i s = .next t ∧ TrapsHere s t 0x11 (o.d.zeroExtend 64))
    ∧ (o.a.toNat < 16 → len o.a = 0 → 1 ≤ len o.b → len o.d < 4 →
        ∃ t, exec i s = .next t ∧ Waits s t (.popQ o.a.toNat))
    ∧ (1 ≤ len o.a → 1 ≤ len o.b → o.d.toNat < 16 → 4 ≤ len o.d →
        ∃ t, exec i s = .next t ∧ Waits s t (.pushQ o.d.toNat)))
  ∧ ∀ (o : R3) (s : State), s.curX = false → o.d.toNat < 16 →
    let len := (s.here.queue o.d.toNat).length
    (len < 4 → s.queues (.qrd o) = .ok ()) ∧ (1 ≤ len → s.queues (.qwr o) = .ok ())
    ∧ (4 ≤ len → ∃ t, exec (.qrd o) s = .next t ∧ Waits s t (.qrdFull o.d.toNat))
    ∧ (len = 0 → ∃ t, exec (.qwr o) s = .next t ∧ Waits s t (.qwrEmpty o.d.toNat))

/-! ### Vector arithmetic (R109 to R136) -/

/-- R119, R116, R117: integer lane arithmetic on INT32 elements of 32 bits or INT8 elements of 8: an active element takes
its operation, modulo the width, and an inactive one 0; the shift amount is the low bits of vb's element. No flag is
raised. Any other element type traps with 0x1B. -/
def Obligations.VectorInteger : Prop :=
  (∀ (o : V3) (s : State) (w : Nat), (s.here.et = 6 ∧ w = 32) ∨ (s.here.et = 5 ∧ w = 8) →
    let l := [(o.a, o.pa), (o.b, o.pb)]
    let a := (s.here.readsOf l).getD 0 0
    let b := (s.here.readsOf l).getD 1 0
    let lanes (i : Instr) (f : BitVec w → BitVec w → BitVec w) : Prop :=
      s.queues i = .ok () → ∃ t v, exec i s = .next t ∧ Pushes s t l o.d v 0 o.stop
        ∧ ∀ j, w * j < 1024 → v.extractLsb' (w * j) w =
            if (s.here.mask o.k).getLsbD (w * j / 32) then f (a.extractLsb' (w * j) w) (b.extractLsb' (w * j) w) else 0
    lanes (.vadd o) (fun x y => x + y) ∧ lanes (.vsub o) (fun x y => x - y) ∧ lanes (.vmul o) (fun x y => x * y)
      ∧ lanes (.vmulh o) (fun x y => (x.signExtend (2 * w) * y.signExtend (2 * w)).extractLsb' w w)
      ∧ lanes (.vshl o) (fun x y => x <<< (y.toNat % w)) ∧ lanes (.vshr o) (fun x y => x >>> (y.toNat % w))
      ∧ lanes (.vsra o) (fun x y => x.sshiftRight (y.toNat % w))
      ∧ lanes (.vmin o) (fun x y => if x.toInt < y.toInt then x else y)
      ∧ lanes (.vmax o) (fun x y => if x.toInt < y.toInt then y else x)
      ∧ lanes (.vminu o) (fun x y => if x.toNat < y.toNat then x else y)
      ∧ lanes (.vmaxu o) (fun x y => if x.toNat < y.toNat then y else x))
  ∧ ∀ (o : V3) (s : State), s.here.et ≠ 5 → s.here.et ≠ 6 →
    RefusesType s (.vadd o) ∧ RefusesType s (.vsub o) ∧ RefusesType s (.vmul o) ∧ RefusesType s (.vmulh o)
      ∧ RefusesType s (.vshl o) ∧ RefusesType s (.vshr o) ∧ RefusesType s (.vsra o) ∧ RefusesType s (.vmin o)
      ∧ RefusesType s (.vmax o) ∧ RefusesType s (.vminu o) ∧ RefusesType s (.vmaxu o)

/-- R119, R124, R133, R116: vand, vor, vxor and vshuf work on whole lanes whatever the element type, an inactive lane taking
0; vsel takes its first source's lane where the mask is set and the second's elsewhere. No flag is raised. R133, R134, R116:
vbcast copies one lane, the slides move lanes by a distance, vcompress packs the active lanes, and vrand and vrand.u give
each active lane the hash of its key, counter and lane, as a word or as a number in [0, 1). No flag is raised. -/
def Obligations.LanesAndMoves : Prop :=
  (∀ (o : V3) (s : State),
     let l := [(o.a, o.pa), (o.b, o.pb)]
     let a (j : Nat) : Word := ((s.here.readsOf l).getD 0 0).extractLsb' (32 * j) 32
     let b (j : Nat) : Word := ((s.here.readsOf l).getD 1 0).extractLsb' (32 * j) 32
     let on (j : Nat) : Bool := (s.here.mask o.k).getLsbD j
     let lanes (i : Instr) (f : Nat → Word) : Prop :=
       s.queues i = .ok () → ∃ t v, exec i s = .next t ∧ Pushes s t l o.d v 0 o.stop
         ∧ ∀ j, j < 32 → v.extractLsb' (32 * j) 32 = f j
     lanes (.vand o) (fun j => if on j then a j &&& b j else 0) ∧ lanes (.vor o) (fun j => if on j then a j ||| b j else 0)
       ∧ lanes (.vxor o) (fun j => if on j then a j ^^^ b j else 0) ∧ lanes (.vsel o) (fun j => if on j then a j else b j)
       ∧ lanes (.vshuf o) (fun j => if on j ∧ (b j).toNat < 32 then a (b j).toNat else 0))
  ∧ ((∀ (o : V2n) (s : State),
     let l := [(o.a, o.pa)]
     let n := o.b.toNat
     let a (j : Nat) : Word := ((s.here.readsOf l).getD 0 0).extractLsb' (32 * j) 32
     let moves (i : Instr) (f : Nat → Word) : Prop := s.queues i = .ok () → ∃ t v, exec i s = .next t
       ∧ Pushes s t l o.d v 0 o.stop
       ∧ ∀ j, j < 32 → v.extractLsb' (32 * j) 32 = if (s.here.mask o.k).getLsbD j then f j else 0
     moves (.vbcast o) (fun _ => a n) ∧ moves (.vslideUp o) (fun j => if n ≤ j then a (j - n) else 0)
       ∧ moves (.vslideDn o) (fun j => if j + n < 32 then a (j + n) else 0))
   ∧ (∀ (o : V2) (s : State),
     let l := [(o.a, o.pa)]
     let a (j : Nat) : Word := ((s.here.readsOf l).getD 0 0).extractLsb' (32 * j) 32
     let active := (List.range 32).filter fun j => (s.here.mask o.k).getLsbD j
     s.queues (.vcompress o) = .ok () → ∃ t v, exec (.vcompress o) s = .next t ∧ Pushes s t l o.d v 0 o.stop
       ∧ ∀ j, j < 32 → v.extractLsb' (32 * j) 32 = if j < active.length then a (active.getD j 0) else 0)
   ∧ ∀ (o : VRnd) (s : State),
     let z0 (j : Nat) : Dword := s.reg o.a + ((s.reg o.b <<< 5) ||| BitVec.ofNat 64 j) * 0x9E3779B97F4A7C15
     let z1 (j : Nat) : Dword := (z0 j ^^^ (z0 j >>> 30)) * 0xBF58476D1CE4E5B9
     let z2 (j : Nat) : Dword := (z1 j ^^^ (z1 j >>> 27)) * 0x94D049BB133111EB
     let word (j : Nat) : Word := (z2 j ^^^ (z2 j >>> 31)).extractLsb' 32 32
     let gives (i : Instr) (f : Nat → Word) : Prop := s.queues i = .ok () → ∃ t v, exec i s = .next t
       ∧ Pushes s t [] o.d v 0 o.stop
       ∧ ∀ j, j < 32 → v.extractLsb' (32 * j) 32 = if (s.here.mask o.k).getLsbD j then f j else 0
     gives (.vrand o) word
       ∧ gives (.vrandU o) (fun j => BitVec.ofNat 32 (Fp.rne32 (.fin false ((word j).toNat / 2 ^ 8) (-24))).bits))

/-- R120 to R122, R112, R116, R117: floating-point lane arithmetic on FP32 or BF16 elements: an active element takes the operation
of chapter 02, in the rounding mode of vtype with SR as RNE, and an inactive one 0; vfabs and vfneg change the sign bit
alone and raise no flag. The flags of the active elements join vflags. Other element types trap with 0x1B. -/
def Obligations.VectorFloat : Prop :=
  ∀ s : State,
    let md := s.here.laneMode
    let el (f : Fp.Fmt) (v : Vec) (j : Nat) : Nat := v.toNat / 2 ^ (f.bits * j) % 2 ^ f.bits
    let on (f : Fp.Fmt) (k : MaskReg) (j : Nat) : Bool := (s.here.mask k).getLsbD (f.bits * j / 32)
    let gives (f : Fp.Fmt) (i : Instr) (l : List (Reg × Bool)) (d : Reg) (k : MaskReg) (stop : Bool) (r : Nat → Fp.Res) :
        Prop := s.queues i = .ok () → ∃ t v fl, exec i s = .next t ∧ Pushes s t l d v fl stop
      ∧ RaisesFlags fl (1024 / f.bits) (on f k) (fun j => (r j).fl)
      ∧ ∀ j, f.bits * j < 1024 → el f v j = if on f k j then (r j).bits % 2 ^ f.bits else 0
    (∀ f : Fp.Fmt, (s.here.et = 0 ∧ f = .fp32) ∨ (s.here.et = 1 ∧ f = .bf16) →
      (∀ o : V3,
        let l := [(o.a, o.pa), (o.b, o.pb)]
        let a := el f ((s.here.readsOf l).getD 0 0)
        let b := el f ((s.here.readsOf l).getD 1 0)
        gives f (.vfadd o) l o.d o.k o.stop (fun j => Fp.fadd f md (a j) (b j))
          ∧ gives f (.vfsub o) l o.d o.k o.stop (fun j => Fp.fsub f md (a j) (b j))
          ∧ gives f (.vfmul o) l o.d o.k o.stop (fun j => Fp.fmul f md (a j) (b j))
          ∧ gives f (.vfmin o) l o.d o.k o.stop (fun j => Fp.fminmax f false (a j) (b j))
          ∧ gives f (.vfmax o) l o.d o.k o.stop (fun j => Fp.fminmax f true (a j) (b j)))
      ∧ (∀ o : V2,
        let a := el f ((s.here.readsOf [(o.a, o.pa)]).getD 0 0)
        let half := 2 ^ (f.bits - 1)
        gives f (.vfabs o) [(o.a, o.pa)] o.d o.k o.stop (fun j => ⟨a j % half, .zero⟩)
          ∧ gives f (.vfneg o) [(o.a, o.pa)] o.d o.k o.stop
              (fun j => ⟨if a j < half then a j + half else a j - half, .zero⟩))
      ∧ ∀ o : V4,
        let l := [(o.a, false), (o.b, false), (o.c, false)]
        let x (n : Nat) := el f ((s.here.readsOf l).getD n 0)
        gives f (.vfma o) l o.d o.k o.stop (fun j => Fp.ffma f md o.neg (x 0 j) (x 1 j) (x 2 j)))
    ∧ (2 ≤ s.here.et → (∀ o : V3, RefusesType s (.vfadd o) ∧ RefusesType s (.vfsub o) ∧ RefusesType s (.vfmul o)
          ∧ RefusesType s (.vfmin o) ∧ RefusesType s (.vfmax o))
        ∧ (∀ o : V2, RefusesType s (.vfabs o) ∧ RefusesType s (.vfneg o)) ∧ ∀ o : V4, RefusesType s (.vfma o))

/-- R125 to R129: vcvt converts the elements of its part from ET to CT; vpack takes the low half of every element of its
sources, vunpack each element of a half into twice its width; vbscale gives each block of 32 its scale, in a scalar register
whose other bits are 0, and its codes, with 0 in every later element. An inactive element takes 0. Under SR the random words
are popped from vtype's queue. What rests here on the model's own reading is in log entries 46, 47, 115, 117. -/
def Obligations.VectorConversions : Prop :=
  ∀ s : State,
    let et := s.here.et
    let ct := s.here.ct
    let el (w : Nat) (v : Vec) (j : Nat) : Nat := v.toNat / 2 ^ (w * j) % 2 ^ w
    let on (k : MaskReg) (w j : Nat) : Bool := (s.here.mask k).getLsbD (w * j / 32)
    (∀ o : VCvt, et ≤ 6 → ct ≤ 6 → o.part.toNat < cvtParts et ct → s.queues (.vcvt o) = .ok () →
      let l := (o.a, o.pa) :: randQ s.here.vec.vtype
      let a := (s.here.readsOf l).getD 0 0
      let rnd := (s.here.readsOf l).getD 1 0
      let w := Fp.codeBits ct
      let r (j : Nat) : Fp.Res := match cvtSource et ct o.part.toNat j with
        | none => ⟨0, .zero⟩
        | some k => convElem et ct s.here.rm s.here.nsat (randBits rnd w j) (el (Fp.codeBits et) a k)
      ∃ t v fl, exec (.vcvt o) s = .next t ∧ Pushes s t l o.d v fl o.stop
        ∧ RaisesFlags fl (1024 / w) (on o.k w) (fun j => (r j).fl)
        ∧ ∀ j, w * j < 1024 → el w v j = if on o.k w j then (r j).bits % 2 ^ w else 0)
    ∧ (∀ (o : V3) (w : Nat), w = Fp.codeBits et → et ≠ 4 → et ≤ 6 → s.queues (.vpack o) = .ok () →
      let l := [(o.a, o.pa), (o.b, o.pb)]
      let h := w / 2
      ∃ t v, exec (.vpack o) s = .next t ∧ Pushes s t l o.d v 0 o.stop
        ∧ ∀ j, h * j < 1024 → el h v j = if on o.k h j then
            el w ((s.here.readsOf l).getD (if j < 1024 / w then 0 else 1) 0) (j % (1024 / w)) % 2 ^ h else 0)
    ∧ (∀ (o : VUnpack) (w : Nat), w = Fp.codeBits et → et ≠ 0 → et ≠ 6 → et ≤ 6 → s.queues (.vunpack o) = .ok () →
      let l := [(o.a, o.pa)]
      ∃ t v, exec (.vunpack o) s = .next t ∧ Pushes s t l o.d v 0 o.stop
        ∧ ∀ j, 2 * w * j < 1024 → el (2 * w) v j = if on o.k (2 * w) j then
            el w ((s.here.readsOf l).getD 0 0) ((if o.part then 512 / w else 0) + j) * (if o.h then 2 ^ w else 1) else 0)
    ∧ ∀ (o : V2n) (f g : Fp.Fmt), (et = 0 ∧ g = .fp32) ∨ (et = 1 ∧ g = .bf16) → ct = 2 ∨ ct = 3 ∨ ct = 4 →
      Fp.Fmt.ofCode ct = some f → s.queues (.vbscale o) = .ok () →
      let l := (o.a, o.pa) :: randQ s.here.vec.vtype
      let a := (s.here.readsOf l).getD 0 0
      let rnd := (s.here.readsOf l).getD 1 0
      let src (j : Nat) : Fp.Val := if on o.k g.bits j then Fp.decode g (el g.bits a j) else .fin false 0 0
      let block (b : Nat) : Nat × List Fp.Res := scaleBlock f s.here.rm s.here.nsat
        ((List.range 32).map fun i => src (32 * b + i)) fun i => randBits rnd f.bits (32 * b + i)
      ∃ t v fl, exec (.vbscale o) s = .next t ∧ PushesEntry s t l o.d v fl o.stop ∧ RegsBut s t o.b
        ∧ RaisesFlags fl (1024 / g.bits) (fun _ => true) (fun i => ((block (i / 32)).2.map fun r => r.fl).getD (i % 32) .zero)
        ∧ (o.b ≠ 0 → t.reg o.b = BitVec.ofNat 64 ((block 0).1 % 256 + if et = 0 then 0 else (block 1).1 % 256 * 256))
        ∧ (∀ i, 1024 / g.bits ≤ i → f.bits * i < 1024 → el f.bits v i = 0)
        ∧ ∀ b j, b < 1024 / g.bits / 32 → j < 32 →
            el f.bits v (32 * b + j) = (((block b).2.map fun r => r.bits).getD j 0) % 2 ^ f.bits

/-- R130 to R132: vrsum, vrmax and vrmin put the sum, maximum or minimum of the included elements in every lane: of INT32
words modulo 2^32, and of FP32 or BF16 elements by the tree of chapter 02; vrargmax answers the maximum and its index; vscan
the running sums. An element of an inactive lane counts as the identity. What rests here on the model's own reading is in log
entry 67. -/
def Obligations.VectorReductions : Prop :=
  ∀ (o : V2) (s : State),
    let et := s.here.et
    let l := [(o.a, o.pa)]
    let a := (s.here.readsOf l).getD 0 0
    let lane (v : Vec) (j : Nat) : Word := v.extractLsb' (32 * j) 32
    let on (j : Nat) : Bool := (s.here.mask o.k).getLsbD j
    let ends (i : Instr) (f : Nat → Word) (g : Fp.Flags) : Prop := s.queues i = .ok () → ∃ t v, exec i s = .next t
      ∧ Pushes s t l o.d v (flagBits g) o.stop ∧ ∀ j, j < 32 → lane v j = f j
    let fps (id : Nat) : List Nat := redElems et (s.here.mask o.k) id a
    let words (id : Word) : List Word := (List.range 32).map fun j => if on j then lane a j else id
    (et = 6 →
      ends (.vrsum o) (fun _ => (words 0).foldl (· + ·) 0) .zero
      ∧ ends (.vrmax o) (fun _ => (words 0x80000000).foldl (fun x y => if x.toInt < y.toInt then y else x) 0x80000000) .zero
      ∧ ends (.vrmin o) (fun _ => (words 0x7FFFFFFF).foldl (fun x y => if y.toInt < x.toInt then y else x) 0x7FFFFFFF) .zero
      ∧ ends (.vscan o) (fun j => ((words 0).take (j + 1)).foldl (· + ·) 0) .zero)
    ∧ (et = 0 ∨ et = 1 →
      ends (.vrsum o) (fun _ => BitVec.ofNat 32 (Fp.treeSum (fps 0x80000000)).bits) (Fp.treeSum (fps 0x80000000)).fl
      ∧ ends (.vrmax o) (fun _ => BitVec.ofNat 32 (Fp.treeMinMax true (fps 0xFF800000)).bits)
          (Fp.treeMinMax true (fps 0xFF800000)).fl
      ∧ ends (.vrmin o) (fun _ => BitVec.ofNat 32 (Fp.treeMinMax false (fps 0x7F800000)).bits)
          (Fp.treeMinMax false (fps 0x7F800000)).fl)
    ∧ (et = 0 → ends (.vscan o) (fun j => BitVec.ofNat 32 ((Fp.scanSum (fps 0x80000000)).1.getD j 0))
        (Fp.scanSum (fps 0x80000000)).2)
    ∧ (et = 0 ∨ et = 1 ∨ et = 6 →
      let m := redMinMax et true (s.here.mask o.k) a
      ends (.vrargmax o) (fun j => if j = 0 then BitVec.ofNat 32 (argIndex et (s.here.mask o.k) a m.bits)
        else if j = 1 then BitVec.ofNat 32 m.bits else 0) m.fl)
    ∧ (et ≠ 0 → et ≠ 1 → et ≠ 6 → RefusesType s (.vrsum o) ∧ RefusesType s (.vrmax o) ∧ RefusesType s (.vrmin o)
        ∧ RefusesType s (.vrargmax o) ∧ RefusesType s (.vscan o))

/-- R159, R345: vfunc evaluates the READY table of an owned slot on every active element, and traps with 0x42 on a slot not
owned and 0x43 on one that is not READY; vconf sets the mask bit of every active lane whose difference reaches the
threshold that vcidx names, and raises NV for a signalling NaN among an active lane's sources and the threshold. -/
def Obligations.VectorTables : Prop :=
  (∀ (o : VFn) (s : State) (f : Fp.Fmt), (s.here.et = 0 ∧ f = .fp32) ∨ (s.here.et = 1 ∧ f = .bf16) →
    let l := [(o.a, o.pa)]
    let a := (s.here.readsOf l).getD 0 0
    let n := o.slot.toNat
    let x := s.here.slot n
    let bank := if x.flip then x.bank1 else x.bank0
    let on (j : Nat) : Bool := (s.here.mask o.k).getLsbD (f.bits * j / 32)
    s.queues (.vfunc o) = .ok () →
    (x.owner = some s.here.vfid → bank.state = 2 → ∀ r : Nat → Fp.Res,
      (∀ j, j < 1024 / f.bits → on j = true → funcElem bank.data s.here.et n s.here.laneMode
        (a.toNat / 2 ^ (f.bits * j) % 2 ^ f.bits) j = .ok (r j)) →
      ∃ t v fl, exec (.vfunc o) s = .next t ∧ Pushes s t l o.d v fl o.stop
        ∧ RaisesFlags fl (1024 / f.bits) on (fun j => (r j).fl)
        ∧ ∀ j, f.bits * j < 1024 → v.toNat / 2 ^ (f.bits * j) % 2 ^ f.bits =
            if on j then (r j).bits % 2 ^ f.bits else 0)
    ∧ (x.owner ≠ some s.here.vfid → s.mayTrap →
        ∃ t, exec (.vfunc o) s = .next t ∧ TrapsHere s t 0x42 (BitVec.ofNat 64 n))
    ∧ (x.owner = some s.here.vfid → bank.state ≠ 2 → s.mayTrap →
        ∃ t, exec (.vfunc o) s = .next t ∧ TrapsHere s t 0x43 (BitVec.ofNat 64 n)))
  ∧ ∀ (o : VCmp) (s : State), s.here.et = 0 → s.queues (.vconf o) = .ok () →
    let l := [(o.a, o.pa), (o.b, o.pb)]
    let lane (v : Vec) (j : Nat) : Nat := v.toNat / 2 ^ (32 * j) % 2 ^ 32
    let thr := (SMap.get 0x7F800000 s.here.vec.vcthr (s.here.vec.vcidx.toNat % 32)).toNat % 2 ^ 32
    let d (j : Nat) : Fp.Res :=
      Fp.fsub .fp32 .rne (lane ((s.here.readsOf l).getD 0 0) j) (lane ((s.here.readsOf l).getD 1 0) j)
    let at_least (j : Nat) : Bool := let v := Fp.decode .fp32 (d j).bits; let t := Fp.decode .fp32 thr
      !v.isNan && !t.isNan && !fpLt v t
    let snan : Bool := (Fp.decode .fp32 thr).isSnan
    o.d ≠ 0 → ∃ t v fl, exec (.vconf o) s = .next t ∧ SetsMask s t l o.d v fl o.stop
      ∧ RaisesFlags fl 32 (s.here.mask o.k).getLsbD (fun j => ⟨(d j).fl.nv || snan, (d j).fl.ovf⟩)
      ∧ ∀ j, j < 32 → v.getLsbD j = ((s.here.mask o.k).getLsbD j && at_least j)

/-- R123, R116: a compare of lanes sets the mask bit of every active lane that holds and clears the rest: INT32 lanes signed
or unsigned, FP32 lanes by value, where a NaN is less than nothing and equal to nothing. NV is raised by a signalling NaN,
and by any NaN in the ordered compares. k0 is no destination: a word that names it, vconf's too, has a reserved value (0x02,
R59, R73, R114). R135, R73, R136: the mask instructions compute masks, of which k0 is no destination (0x02), and move them to
and from scalar registers; kpop counts; qdrop pops an entry and qcnt counts them; vext reads a lane into a scalar register,
vins writes the active lanes of an entry with one, and vmovs makes an entry of it. Nothing else changes. -/
def Obligations.VectorMasks : Prop :=
  (∀ (o : VCmp) (s : State),
     let l := [(o.a, o.pa), (o.b, o.pb)]
     let a (j : Nat) : Word := ((s.here.readsOf l).getD 0 0).extractLsb' (32 * j) 32
     let b (j : Nat) : Word := ((s.here.readsOf l).getD 1 0).extractLsb' (32 * j) 32
     let on (j : Nat) : Bool := (s.here.mask o.k).getLsbD j
     let sets (i : Instr) (f : Nat → Bool) (nv : Nat → Bool) : Prop := o.d ≠ 0 → s.queues i = .ok () →
       ∃ t v fl, exec i s = .next t ∧ SetsMask s t l o.d v fl o.stop
         ∧ RaisesFlags fl 32 on (fun j => ⟨nv j, false⟩) ∧ ∀ j, j < 32 → v.getLsbD j = (on j && f j)
     let no (_ : Nat) : Bool := false
     let x (j : Nat) : Fp.Val := Fp.decode .fp32 (a j).toNat
     let y (j : Nat) : Fp.Val := Fp.decode .fp32 (b j).toNat
     let signalling (j : Nat) : Bool := (x j).isSnan || (y j).isSnan
     let nan (j : Nat) : Bool := (x j).isNan || (y j).isNan
     (s.here.et = 6 →
       sets (.vicmpEq o) (fun j => decide (a j = b j)) no
       ∧ sets (.vicmpLt o) (fun j => decide ((a j).toInt < (b j).toInt)) no
       ∧ sets (.vicmpLe o) (fun j => decide ((a j).toInt ≤ (b j).toInt)) no
       ∧ sets (.vicmpLtu o) (fun j => decide ((a j).toNat < (b j).toNat)) no
       ∧ sets (.vicmpLeu o) (fun j => decide ((a j).toNat ≤ (b j).toNat)) no)
     ∧ (s.here.et = 0 →
       sets (.vfcmpEq o) (fun j => fpEq (x j) (y j)) signalling
       ∧ sets (.vfcmpLt o) (fun j => fpLt (x j) (y j)) nan
       ∧ sets (.vfcmpLe o) (fun j => fpLt (x j) (y j) || fpEq (x j) (y j)) nan
       ∧ sets (.vfcmpUn o) nan signalling)
     ∧ (s.here.et ≠ 6 → RefusesType s (.vicmpEq o) ∧ RefusesType s (.vicmpLt o) ∧ RefusesType s (.vicmpLe o)
         ∧ RefusesType s (.vicmpLtu o) ∧ RefusesType s (.vicmpLeu o))
     ∧ (s.here.et ≠ 0 → RefusesType s (.vfcmpEq o) ∧ RefusesType s (.vfcmpLt o) ∧ RefusesType s (.vfcmpLe o)
         ∧ RefusesType s (.vfcmpUn o) ∧ RefusesType s (.vconf o))
     ∧ (o.d = 0 → ∀ i ∈ [.vicmpEq o, .vicmpLt o, .vicmpLe o, .vicmpLtu o, .vicmpLeu o, .vfcmpEq o, .vfcmpLt o, .vfcmpLe o,
         .vfcmpUn o, .vconf o], ∀ w, encodeWords i = [w] → decodeWord true w 0 = .error .reservedValue))
  ∧ (∀ s : State,
     let m := s.here.mask
     let sets (i : Instr) (d : MaskReg) (v : Word) (stop : Bool) : Prop :=
       (d ≠ 0 → ∃ t, exec i s = .next t ∧ SetsMask s t [] d v 0 stop)
         ∧ (d = 0 → ∀ w, encodeWords i = [w] → decodeWord true w 0 = .error .reservedValue)
     let writes (i : Instr) (q : State) (d : Reg) (v : Dword) (stop : Bool) : Prop :=
       ∃ t, exec i s = .next t ∧ Writes q t d v stop ∧ MemorySame s t
     (∀ o : K3, sets (.kand o) o.d (m o.a &&& m o.b) o.stop ∧ sets (.kor o) o.d (m o.a ||| m o.b) o.stop
       ∧ sets (.kxor o) o.d (m o.a ^^^ m o.b) o.stop)
     ∧ (∀ o : K2, sets (.knot o) o.d (~~~(m o.a)) o.stop ∧ sets (.kmov o) o.d (m o.a) o.stop)
     ∧ (∀ o : KFrom, sets (.kmovFromScalar o) o.d ((s.reg o.a).setWidth 32) o.stop)
     ∧ (∀ o : KTo, writes (.kmovToScalar o) s o.d ((m o.a).setWidth 64) o.stop
       ∧ writes (.kpop o) s o.d (BitVec.ofNat 64 ((List.range 32).countP fun j => (m o.a).getLsbD j)) o.stop)
     ∧ (∀ o : RA, s.queues (.qdrop o) = .ok () → ∃ t, exec (.qdrop o) s = .next t ∧ MemorySame s t ∧ OnlyAdvances
         (s.updHere fun c => c.setQueue o.a.toNat (c.queue o.a.toNat).tail) t o.stop)
     ∧ (∀ o : R2, writes (.qcnt o) s o.d (BitVec.ofNat 64 (s.here.queue o.a.toNat).length) o.stop)
     ∧ (∀ o : VExt, s.queues (.vext o) = .ok () → writes (.vext o)
         (s.updHere fun c => if o.pa then c else c.setQueue o.a.toNat (c.queue o.a.toNat).tail) o.d
         ((((s.here.queue o.a.toNat).headD 0).extractLsb' (32 * o.lane.toNat) 32).setWidth 64) o.stop)
     ∧ (∀ o : V2n, s.queues (.vins o) = .ok () → ∃ t v, exec (.vins o) s = .next t
         ∧ Pushes s t [(o.a, o.pa)] o.d v 0 o.stop
         ∧ ∀ j, j < 32 → v.extractLsb' (32 * j) 32 = if (m o.k).getLsbD j then (s.reg o.b).setWidth 32
             else ((s.here.queue o.a.toNat).headD 0).extractLsb' (32 * j) 32)
     ∧ ∀ o : VMovs, s.queues (.vmovs o) = .ok () → ∃ t v, exec (.vmovs o) s = .next t ∧ Pushes s t [] o.d v 0 o.stop
         ∧ ∀ j, j < 32 → v.extractLsb' (32 * j) 32 = if (m o.k).getLsbD j then (s.reg o.a).setWidth 32 else 0)

/-! ### Steps of the engines (R80, R88, R155, R156, R182 to R188, R248, R343) -/

/-- R156, R182, R186 to R188, R176: the head commands of one step, once begun. mswap exchanges the planes where the shadow
plane is READY and faults with 0x36 where it is not; mzero clears a bank and keeps its maps; mamap writes both maps and
clears t; mlora.clr empties a factor slot; mfuse.off ends a fusion, mfuse makes one, or stands pending at its lead while a
member's queue holds commands; tinval and tinval.sh empty the banks of a slot, and wait while one has readers. What rests
here on the model's own reading is in log entry 68. -/
def Obligations.ShortCommands : Prop :=
  ∀ (core : Nat) (s : State) (k : Cmd),
    let c := s.core core
    let w := c.quad
    let ends (i : Instr) (q : EngQ) (f : Core → Core) : Prop :=
      ∃ t, exec i s = .next t ∧ StepsHead (s.updCore core f) t core q [[]]
    let faults (i : Instr) (q : EngQ) (code : Byte) : Prop :=
      s.isTransform core = false → ∃ t, exec i s = .next t ∧ FaultsHead s t core q code
    let old : Bank := if k.c0.toNat = 1 then w.bank1 else w.bank0
    let bank (b : Bank) (c : Core) : Core :=
      { c with quad := if k.c0.toNat = 1 then { w with bank1 := b } else { w with bank0 := b } }
    let entry (v : Dword) (g : Nat) : Byte := v.extractLsb' (8 * g) 8
    (c.matrix.working = some k →
      (∀ o, k.op = .mswap o →
        (w.shd.ready = true →
          ends (.mswapExchange core) .matrix (fun c => { c with quad := { w with act := w.shd, shd := w.act } }))
        ∧ (w.shd.ready = false → faults (.mswapExchange core) .matrix 0x36))
      ∧ (∀ o, k.op = .mzero o →
        (k.c0.toNat ≤ 1 →
          ends (.mzeroEffect core) .matrix (bank { old with acc := [], m := [], l := [], t := [] }))
        ∧ (1 < k.c0.toNat → faults (.mzeroEffect core) .matrix 0x31))
      ∧ (∀ o, k.op = .mamap o →
        let ok := ∀ g, g < 8 → (entry k.c1 g).extractLsb' 4 3 = 0 ∧ (entry k.c2 g).extractLsb' 4 3 = 0
        (k.c0.toNat ≤ 1 → ok → ∃ x y, ends (.mamapEffect core) .matrix (bank { old with tenant := x, comp := y, t := [] })
          ∧ ∀ g, g < 8 → SMap.get (0 : Byte) x g = (if (entry k.c1 g).getLsbD 7 then entry k.c1 g else 0)
            ∧ SMap.get (0 : Byte) y g = (if (entry k.c2 g).getLsbD 7 then entry k.c2 g else 0))
        ∧ (1 < k.c0.toNat ∨ ¬ok → faults (.mamapEffect core) .matrix 0x31))
      ∧ (∀ o, k.op = .mloraClr o →
        (k.c1.toNat ≤ 15 → ends (.mloraClrEffect core) .matrix
          (fun c => { c with quad := { w with slots := SMap.set .empty w.slots k.c1.toNat .empty } }))
        ∧ (15 < k.c1.toNat → faults (.mloraClrEffect core) .matrix 0x31))
      ∧ (∀ o, k.op = .mfuseOff o →
        (w.role ≠ 1 → ends (.mfuseOffEffect core) .matrix (fun c => c))
        ∧ (w.role = 1 → ∀ ms, fuseMembers w.shape core = some ms →
            ∃ t b, exec (.mfuseOffEffect core) s = .next t ∧ StepsHead b t core .matrix [[]] ∧ b = { s with cores := b.cores }
              ∧ ∀ d, b.core d = if d ∈ ms then { s.core d with quad := Quadrant.init } else s.core d))
      ∧ ∀ o, k.op = .mfuse o →
        (fuseMembers o.shape.toNat core = none → faults (.mfuseStanding core) .matrix 0x34)
        ∧ ∀ ms, fuseMembers o.shape.toNat core = some ms →
          let idle := ∀ m ∈ ms, m ≠ core → (s.core m).matrix.cmds = []
          let mine := w.pending = true ∧ w.role = 1
          (¬mine → s.fuseOk core ms = false → faults (.mfuseStanding core) .matrix 0x34)
          ∧ (mine ∨ s.fuseOk core ms = true → idle →
              ∃ t b, exec (.mfuseStanding core) s = .next t ∧ StepsHead b t core .matrix [[]] ∧ b = { s with cores := b.cores }
                ∧ ∀ d, b.core d = if d ∈ ms then { s.core d with quad :=
                    { Quadrant.init with shape := o.shape.toNat, role := if d = core then 1 else 2, lead := core } }
                  else s.core d)
          ∧ (mine → ¬idle →
              ∃ t, exec (.mfuseStanding core) s = .next t ∧ WaitsHead s t core .matrix .members)
          ∧ (¬mine → s.fuseOk core ms = true → ¬idle → ∃ t, exec (.mfuseStanding core) s = .next t
              ∧ (∀ m ∈ ms, (t.core m).quad = { (s.core m).quad with
                  shape := o.shape.toNat, role := if m = core then 1 else 3, pending := true, lead := core })
              ∧ (t.core core).matrix.step = c.matrix.step ∧ (t.core core).matrix.cmds = c.matrix.cmds))
    ∧ (c.load.working = some k → ∀ sh o, k.op = (if sh then .tinvalSh o else .tinval o) →
        let n := k.c1.toNat
        let x := c.slot n
        let mine := c.c.mode = .device ∨ x.owner = some c.vfid
        let free := (if x.flip then x.bank0 else x.bank1).readers = 0
          ∧ (sh = true ∨ (if x.flip then x.bank1 else x.bank0).readers = 0)
        let shd := if x.flip then x.bank0 else x.bank1
        let e : TBank := if shd.state = 1 ∧ c.load.cmds.tail.any (fun k => k.loads n) = true then { TBank.empty with state := 1 }
          else .empty
        let y : TSlot :=
          if x.flip then { x with bank0 := e, bank1 := if sh then x.bank1 else .empty }
          else { x with bank1 := e, bank0 := if sh then x.bank0 else .empty }
        (15 < n → faults (.tinvalEffect core) .load 0x45)
        ∧ (n ≤ 15 → ¬mine → faults (.tinvalEffect core) .load 0x42)
        ∧ (n ≤ 15 → mine → free → ends (.tinvalEffect core) .load
            (fun c => c.setSlot n (if sh then y else { y with owner := none })))
        ∧ (n ≤ 15 → mine → ¬free → ∃ t, exec (.tinvalEffect core) s = .next t ∧ WaitsHead s t core .load .readers))

/-- R169, R182 to R185, R187, R179, R34: the steps of the matrix commands. `b` is the state once step 0 has checked the
records, and the state itself at a later step. mlw puts stored row i and its scales into the shadow plane, mlora into its
factor slot; mmul adds a row's products to row i of its bank, which for INT8 is the sum modulo 2^32, and that row's t
updates; mmul.last ends with the side correction of the mapped rows, whose t it clears; mmul.smax replaces a row and its m
and l; mst stores row i of a bank as its record says. The columns from N_p on, the other rows, and what of m, l, t and the
maps is not named stay as they were. What rests here on the model's own reading is in log entries 38, 43, 68. -/
def Obligations.MatrixSteps : Prop :=
  ∀ (core : Nat) (s b : State) (k : Cmd), (s.core core).matrix.working = some k →
    let i := (s.core core).matrix.step
    let c := b.core core
    let w := c.quad
    let r := c.matrix.latched 0
    let recs := c.matrix.latch.recs
    let begins (x : Except Stop State) : Prop := (i = 0 → x = .ok b) ∧ (i ≠ 0 → b = s)
    let steps (j : Instr) (f : Core → Core) : Prop :=
      ∃ t, exec j s = .next t ∧ StepsHead (b.updCore core f) t core .matrix recs
    let bank (n : Bool) : Bank := if n then w.bank1 else w.bank0
    let putBank (n : Bool) (x : Bank) : Quadrant := if n then { w with bank1 := x } else { w with bank0 := x }
    (∀ o, k.op = .mlw o → begins (s.mlwBegin core o k) → recRows r ≤ 128 → recCols r ≤ 128 → i < recRows r →
      ∃ p, steps (.mlwRow core) (fun c => { c with quad := { w with shd := p } })
        ∧ p.ready = decide (i + 1 = recRows r) ∧ p.fmt = w.shd.fmt ∧ p.kp = w.shd.kp ∧ p.np = w.shd.np
        ∧ (∀ j, j < recCols r → (if o.tr then p.elem i j else p.elem j i) = (c.recRow r i 0 (recCols r)).getD j 0 % 2 ^ 32)
        ∧ (∀ j, recCols r ≤ j → j < 128 →
            (if o.tr then p.elem i j else p.elem j i) = if o.tr then w.shd.elem i j else w.shd.elem j i)
        ∧ (∀ x y, x < 128 → y < 128 → (if o.tr then x else y) ≠ i → p.elem x y = w.shd.elem x y)
        ∧ ∀ g y, y < 128 →
            p.scale g y = if y = i ∧ recScl r = true ∧ g < recBlocks r then c.recScale r i g else w.shd.scale g y)
    ∧ (∀ o, k.op = .mlora o → ∀ d, k.c1.toNat ≤ 15 →
      (i = 0 → (s.core core).descriptor k.c0 = .ok d) → (i ≠ 0 → r = d) → b = s →
      let n := k.c1.toNat
      let f0 : Factor := if i = 0 then .empty else w.factor n
      let v := (d.drop 0x20).take 0x20
      ∃ t x, exec (.mloraRow core) s = .next t
        ∧ StepsHead (s.updCore core fun c => { c with quad := { w with slots := SMap.set .empty w.slots n x } }) t core .matrix
            (if i = 0 then [d] else recs)
        ∧ x.ready = decide (i + 1 = recRows v)
        ∧ x.rows = f0.rows.take i ++ [c.spRead (recBase v + i * recStride v) (recRowLen v)]
        ∧ x.desc = if i + 1 = recRows v then d else f0.desc)
    ∧ (∀ o, k.op = .mmul o → ∀ n korg, bankKorg k.c1 = .ok (n, korg) → begins (s.mmulBegin core o k) →
      i < (if o.tr then recCols r else recRows r) → w.act.np ≤ 128 →
      let res := c.mmulRow o.tr (bank n) korg i
      let fl := flagBits ((flagsOf res.1).or (flagsOf res.2))
      ∃ x, steps (.mmulRow core) (fun c => { c with quad := putBank n x, csr := { c.csr with mflags := c.csr.mflags ||| fl } })
        ∧ x = { bank n with acc := x.acc, t := x.t }
        ∧ (res.2.length ≤ 64 → ∀ row k, k < 64 → x.inter row k =
            if row = i ∧ k < res.2.length then (res.2.map fun r => r.bits).getD k 0 % 2 ^ 32 else (bank n).inter row k)
        ∧ (∀ j, w.act.np ≤ j → j < 128 → x.word i j = (bank n).word i j)
        ∧ (∀ j, j < w.act.np → x.word i j =
            ((res.1.map fun r => r.bits).getD j 0) % 2 ^ 32)
        ∧ (∀ row j, row ≠ i → j < 128 → x.word row j = (bank n).word row j)
        ∧ (recFmt r = 5 → ∀ j, j < w.act.np →
            let a := (c.aRow r o.tr i).elems
            x.word i j = (BitVec.ofInt 32 (((bank n).word i j : Int)
              + ((List.range a.length).map fun e => signed 8 (a.getD e 0) * signed 8 (w.act.elem e j)).sum)).toNat))
    ∧ (∀ o, k.op = .mmul o → ∀ n korg, bankKorg k.c1 = .ok (n, korg) → b = s → o.last = true → recs ≠ [] →
      i = (if o.tr then recCols r else recRows r) → w.act.np ≤ 128 →
      let mapped (row : Nat) : Bool := decide (row < i) && (bank n).pairs (row / 8) != []
      let fl := flagBits (flagsOf (((List.range i).filter mapped).flatMap fun r => w.correct (bank n) r))
      ∃ x, steps (.sideCorrection core)
          (fun c => { c with quad := putBank n x, csr := { c.csr with mflags := c.csr.mflags ||| fl } })
        ∧ x = { bank n with acc := x.acc, t := x.t }
        ∧ (∀ row k, k < 64 → x.inter row k = if mapped row = true then 0 else (bank n).inter row k)
        ∧ ∀ row j, j < 128 → x.word row j =
            if mapped row = true ∧ j < w.act.np then
              (((w.correct (bank n) row).map fun r => r.bits).getD j 0) % 2 ^ 32
            else (bank n).word row j)
    ∧ (∀ o, k.op = .mmulSmax o →
      ((s.core core).matrix.latch.recs = [] → s.smaxBegin core k = .ok b →
        exec (.mmulSmaxRow core) s = exec (.mmulSmaxRow core) (b.updEng core .matrix fun e => { e with wait := none }))
      ∧ ∀ n korg x, bankKorg k.c1 = .ok (n, korg) → b = s → recs ≠ [] → w.act.np ≤ 128 →
        smaxRow (c.matrix.latchedBank 0).2 (c.matrix.latchedBank 0).1 (c.recRow r i 0 (recCols r))
          ((List.range w.act.np).map ((bank n).word i)) ((bank n).max i) ((bank n).sum i)
          ((Fp.Fmt.ofCode w.act.fmt.toNat).getD .bf16) (fun e j => codeVal w.act.fmt.toNat (w.act.elem e j)) w.act.scale
          = .ok x →
        ∃ y, steps (.mmulSmaxRow core)
            (fun c => { c with quad := putBank n y, csr := { c.csr with mflags := c.csr.mflags ||| flagBits x.fl } })
          ∧ (∀ j, j < w.act.np → y.word i j = x.words.getD j 0 % 2 ^ 32)
          ∧ y = { bank n with acc := y.acc, m := y.m, l := y.l }
          ∧ (∀ row j, j < 128 → row ≠ i ∨ w.act.np ≤ j → y.word row j = (bank n).word row j)
          ∧ (∀ row, row ≠ i → y.max row = (bank n).max row ∧ y.sum row = (bank n).sum row)
          ∧ y.max i = x.m % 2 ^ 32 ∧ y.sum i = x.l % 2 ^ 32)
    ∧ ∀ o, k.op = .mst o → ∀ n, bankOf k.c1 = .ok n → begins (s.mstBegin core o k) →
      let ws := if o.side then [(bank n).max i, (bank n).sum i] else (List.range (recCols r)).map ((bank n).word i)
      let codes := storeCodes (recFmt r) (recScl r) (if o.rtz then .rtz else .rne) o.nsat ws
      ∃ sp, steps (.mstRow core)
          (fun c => { c with sp := sp, csr := { c.csr with mflags := c.csr.mflags ||| flagBits codes.2.2 } })
        ∧ sp = (c.putRecRow r i codes.1 codes.2.1).sp
        ∧ (recFmt r = 0 → recScl r = false → ∀ a : Nat,
            let at_ := recBase r + i * recStride r
            sp.byte a = if at_ ≤ a ∧ a < at_ + 4 * ws.length then
              BitVec.ofNat 8 (ws.getD ((a - at_) / 4) 0 / 2 ^ (8 * ((a - at_) % 4))) else c.sp.byte a)

/-- R248, R242, R250, R253, R258: COPY_CHUNK completes at every turn of a copy that has latched its operands and whose
accesses succeed. At a copy to the scratchpad it reads its chunk and writes every element: a step. At a copy to memory it
reads its chunk, every read before any write; then its writes leave, as many as the pools have room for; and once they are
all performed at core scope, and those to peers acknowledged, its step completes. It waits without room, and before they are
performed. An xdrain of a transform node's list completes once the writes of its channel are performed. A first turn latches
the descriptor and the handles. What rests here on the model's own reading is in log entries 19, 23, 44. -/
def Obligations.CopySteps : Prop :=
  ∀ (core : Nat) (s : State) (q : EngQ) (k : Cmd), ((s.core core).eng q).working = some k →
    let e := (s.core core).eng q
    let idle (b : State) (todo : Option (List OutWrite)) : State :=
      b.updEng core q fun e => { e with wait := none, todo := todo }
    (∀ op, copyOf k.op = some op → op.kind ≠ .dec →
      let cp := e.copy op
      let ch := (channelOf k.op).getD 0
      let colours : Byte := BitVec.ofNat 8 (2 ^ (cmdColour k.op).toNat)
      (e.latch.recs = [] → ∀ b c, s.copyBegin core q op k = .ok (b, c) →
        exec (.copyChunk core q) s = exec (.copyChunk core q) (b.updEng core q fun e => { e with wait := none }))
      ∧ (e.latch.recs ≠ [] → e.todo = none → op.kind = .ld → op.vfy = false → ∀ b vs,
          s.chunkValues core q cp (cp.spots e.step) = .ok (b, vs) →
          ∃ t, exec (.copyChunk core q) s = .next t
            ∧ StepsHead (b.updCore core fun c => c.putValues cp vs) t core q ((b.core core).eng q).latch.recs)
      ∧ (e.latch.recs ≠ [] → e.todo = none → ∀ d, cp.dest = some d → d.landing = false → op.vfy = false → ∀ b vs x ws,
          s.chunkValues core q cp (cp.spots e.step) = .ok (b, vs) → b.chunkWrites core q cp d vs = .ok (x, ws) →
          ((x.core core).eng q).step = e.step → ((x.core core).eng q).head = e.head →
          ∃ t, exec (.copyChunk core q) s = .next t ∧ t = idle x (some ws))
      ∧ (e.latch.recs ≠ [] → e.todo = some [] →
          (s.mem.performed (.engine core q) (core / 64) 1 0xFF = true → s.peersDone (.engine core q) = true →
            ∃ t, exec (.copyChunk core q) s = .next t
              ∧ StepsHead (s.updEng core q fun e => { e with todo := none }) t core q e.latch.recs)
          ∧ (s.mem.performed (.engine core q) (core / 64) 1 0xFF = false ∨ s.peersDone (.engine core q) = false →
            ∃ t, exec (.copyChunk core q) s = .next t ∧ WaitsHead s t core q .order))
      ∧ ∀ ws, e.latch.recs ≠ [] → e.todo = some ws → ws ≠ [] →
          (s.requestRoom core ch = 0 → ∃ t, exec (.copyChunk core q) s = .next t ∧ WaitsHead s t core q .pool)
          ∧ ∀ b rest stop, s.requestRoom core ch ≠ 0 →
              s.emitSome (.engine core q) colours (some ch) (s.requestRoom core ch) ws = (b, rest, stop) →
              rest.length < ws.length → ((b.core core).eng q).step = e.step → ((b.core core).eng q).head = e.head →
              ∃ t, exec (.copyChunk core q) s = .next t ∧ t = idle b (some rest))
    ∧ ∀ o, k.op = .xdrain o → e.latch.recs = [] →
      let mine (a : Agent) (c : Option Nat) : Prop := ofCores [core] a = true ∧ c = some o.ch.toNat
      let done := (∀ w ∈ s.mem.pend, ¬mine w.agent w.chan)
        ∧ (∀ p ∈ s.mem.log, mine p.2.agent p.2.chan → ∀ d ∈ allDies, d ∈ p.2.dies)
        ∧ ∀ r ∈ s.peers, mine r.agent r.chan → r.unacked r.agent = false
      (done → ∃ t, exec (.copyChunk core q) s = .next t ∧ StepsHead s t core q [[]])
      ∧ (¬done → ∃ t, exec (.copyChunk core q) s = .next t ∧ WaitsHead s t core q (.drainCh o.ch.toNat))

/-- R251: DECRYPT_STEP completes for a latched xld.dec whose record names a key and whose reads succeed: it reads P and
writes the elements of the plaintext where the tag holds; where it does not it writes no byte, and leaves the command's
number in xtagf and in the INDEX of event 0x8E on the node's ring (R311): a step in either case. R155: TLOAD_UNIT completes
for a tload of an owned slot whose read succeeds: it stores a unit of the image in the shadow bank, and the last unit makes
the bank READY. The first unit waits while the bank has readers. What rests here on the model's own reading is in log entries
10, 40. -/
def Obligations.DecryptAndTableLoads : Prop :=
  ∀ (core : Nat) (s : State) (k : Cmd), (s.core core).load.working = some k →
    let c := s.core core
    let e := c.load
    (∀ o, k.op = .xldDec o →
      let cp := e.copy ⟨.dec, false, false⟩
      let r := c.spRead k.c2.toNat 32
      let spots := (List.range cp.rows).flatMap fun i => (List.range cp.cols).map fun x => (i, x)
      e.latch.recs ≠ [] → field r 0xC 1 ≤ 63 → zeroAt r 0xD 3 = true →
      ∀ key v vs, (s.vf c.vfid).keys.lookup (field r 0xC 1) = some key → s.chunkValues core .load cp spots = .ok (v, vs) →
        let text := (List.range cp.rows).flatMap fun i =>
          packBytes cp.width (((vs.map Prod.snd).drop (i * cp.cols)).take cp.cols)
        let good := Config.gcmTag (key.extractLsb' 0 256) (BitVec.ofNat 96 (field r 0 12)) [] text
          = BitVec.ofNat 128 (field r 0x10 16)
        let plain := Config.gcmOpen (key.extractLsb' 0 256) (BitVec.ofNat 96 (field r 0 12)) text
        (good → ∃ t, exec (.decryptStep core) s = .next t ∧ StepsHead (v.updCore core fun c =>
            c.putValues cp (spots.map fun p =>
              (p, Fp.packedElem ((plain.drop (p.1 * cp.rowLen)).take cp.rowLen) cp.width p.2)))
            t core .load (v.core core).load.latch.recs)
        ∧ (¬good → ∃ t, exec (.decryptStep core) s = .next t ∧ MemorySame v t
          ∧ (t.core core).csr.xtagf = BitVec.ofNat 64 (2 ^ 32 + e.head.toNat)
          ∧ (t.core core).load.step = (v.core core).load.step + 1
          ∧ ∀ id, (v.core core).node = some id →
              (SMap.get .init (t.vf (nodeVf id)).rings (v.ringOfNode id)).held =
                (SMap.get .init (v.vf (nodeVf id)).rings (v.ringOfNode id)).held ++ [record id 0x8E 0 0 e.head.toNat (t.stepWord id)]))
    ∧ (∀ o, k.op = .tload o → k.c1.toNat ≤ 15 → k.c0.toNat % 64 = 0 → c.owns k.c1.toNat = true →
      let n := k.c1.toNat
      let put (b : State) (f : TBank → TBank) : State :=
        let x := (b.core core).slot n
        b.updCore core fun c => c.setSlot n (if x.flip then { x with bank0 := f x.bank0 } else { x with bank1 := f x.bank1 })
      let last (b : State) (len : Nat) : Prop :=
        len ≤ 64 * (e.step + 1) ∧ ((b.core core).load.cmds.tail.any fun k => k.loads n) = false
      (e.step = 0 → (if (c.slot n).flip then (c.slot n).bank0 else (c.slot n).bank1).readers = 0 → ∀ b h,
          s.tloadRead core o.sp k.c0 0 64 = .ok (b, h) → tblOk h = true →
          ∃ t, exec (.tloadUnit core) s = .next t ∧ StepsHead (put b fun x =>
            { x with data := h, state := if last b (tblBytes h) then 2 else x.state }) t core .load [h])
      ∧ (e.step = 0 → (if (c.slot n).flip then (c.slot n).bank0 else (c.slot n).bank1).readers ≠ 0 →
          ∃ t, exec (.tloadUnit core) s = .next t ∧ WaitsHead s t core .load .readers)
      ∧ (0 < e.step → ∀ b bytes, s.tloadRead core o.sp k.c0 e.step (tblBytes (e.latched 0)) = .ok (b, bytes) →
          ∃ t, exec (.tloadUnit core) s = .next t ∧ StepsHead (put b fun x =>
            { x with data := putBytes x.data (64 * e.step) bytes
                     state := if last b (tblBytes (e.latched 0)) then 2 else x.state }) t core .load
            (b.core core).load.latch.recs))

/-- R342, R343, R347: attn latches its request, then takes a chunk of positions a step, each of which puts its rows' words, m
and l into the banks, and ends with the output step, which writes every row; a bkfill is accepted by its die's queue with a
release, and waits while the queue has no room. What rests here on the model's own reading is in log entries 41, 42. -/
def Obligations.AttentionSteps : Prop :=
  ∀ (core : Nat) (s : State) (k : Cmd),
    let c := s.core core
    let e := c.matrix
    (e.working = some k → ∀ o, k.op = .attn o →
      let q := (e.attn).1
      let h := (e.attn).2
      (e.latch.recs = [] → ∀ b, s.attnBegin core k = .ok b →
        exec (.attnChunk core) s = exec (.attnChunk core) (b.updEng core .matrix fun e => { e with wait := none }))
      ∧ (e.latch.recs ≠ [] → e.step < atChunks (e.latched 1) → atDim q ≤ 128 →
        ∀ b ps (row : Nat → Smax × Fp.Flags), s.readChunk core q h e.step = .ok (b, ps) →
          (∀ r, r < atNq q → b.attnRow core q h ps e.step r = .ok (row r)) →
          ∃ t w fl, exec (.attnChunk core) s = .next t
            ∧ StepsHead (b.updCore core fun c => { c with quad := w, csr := { c.csr with mflags := c.csr.mflags ||| fl } })
                t core .matrix ((b.core core).matrix.latch.recs)
            ∧ fl.toNat < 4
            ∧ (∀ r, r < atNq q → w.bank0.max r = (row r).1.m % 2 ^ 32 ∧ w.bank0.sum r = (row r).1.l % 2 ^ 32
              ∧ ∀ n, n < atDim q → (if n < 64 then w.bank0.word r n else w.bank1.word r (n - 64))
                  = (row r).1.words.getD n 0 % 2 ^ 32)
            ∧ ∀ r, atNq q ≤ r → ∀ n, n < 128 → w.bank0.word r n = (b.core core).quad.bank0.word r n)
      ∧ (e.latch.recs ≠ [] → e.step = atChunks (e.latched 1) → ∀ ws : Nat → List Fp.Res,
          (∀ r, r < atNq q → c.attnOut q r = .ok (ws r)) →
          ∃ t, exec (.attnOutputStep core) s = .next t
            ∧ StepsHead (s.updCore core fun c => (List.range (atNq q)).foldl (fun c r => c.putOut q r (ws r)) c) t core .matrix
                e.latch.recs))
    ∧ (c.backfill.working = some k → ∀ o, k.op = .bkfill o →
      let queue := (s.die (core / 64)).bfq
      let room := queue.length < 1024 ∧ (queue.filter fun e => e.vf == c.vfid).length < 64
      (room → ∀ r, s.release (.stream core) (core / 64) 3 = .ok r → ∃ t, exec (.bkfillAccept core) s = .next t
        ∧ StepsHead (r.settleAll.bfAccept core k) t core .backfill [[]])
      ∧ (¬room → ∃ t, exec (.bkfillAccept core) s = .next t ∧ WaitsHead s t core .backfill .bfFull))

/-! ### Memory's own events (R199, R225, R262, R264) -/

/-- R262, R264, R199: a write that may be serialised leaves its agent and takes the next place of its home's order, where, of
lines without errors, every byte of it that takes effect reads so from then on; a die's order takes a write once it holds
what comes before it; an evicted line of an L1, of plain memory and without an error, is written back as its stores were, and
leaves. An event that may not happen yet changes nothing. R225, R442: a page fault that is not answered within T_pf, or is
answered FAIL, fails; RETRY removes one that has not failed, so that its access translates again. R91, R92: an instruction
row that is being filled takes its 128 words, or the cause that its fill met, and is leased where the core's node uses it,
VALID where no node of the core does any more. What rests here on the model's own reading is in log entries 1, 31, 50. -/
def Obligations.MemoryAndFaultEvents : Prop :=
  (∀ s : State,
     (∀ n, s.mem.ordered →
       (s.mem.maySerialise n = true → ∀ w, s.mem.pend[n]? = some w → ∃ t r, exec (.writeSerialise n) s = .next t
         ∧ t = { s with mem := t.mem } ∧ t.mem.pend = s.mem.pend.eraseIdx n ∧ t.mem.nextId = s.mem.nextId + 1
         ∧ t.mem.log = s.mem.log ++ [(s.mem.nextId, r)] ∧ t.mem.ordered ∧ r.agent = w.agent
         ∧ r.dies = (if w.home < 64 then [w.home % 32] else []) ∧ r.cells = s.mem.effective w.cells
         ∧ ((∀ c ∈ w.cells, s.mem.latent.lookup (c.1 / 64) = none) →
             ∀ pa, t.mem.byteAt none none pa = (r.cells.lookup pa).getD (s.mem.byteAt none none pa)))
       ∧ (s.mem.maySerialise n = false → exec (.writeSerialise n) s = .next s))
     ∧ (∀ die id, s.mem.ordered →
       (s.mem.mayApply die id = true → ∃ t, exec (.remoteWriteApply die id) s = .next t
         ∧ t = { s with mem := t.mem } ∧ t.mem.pend = s.mem.pend ∧ t.mem.ordered
         ∧ ∀ i r, s.mem.log.lookup i = some r →
             t.mem.log.lookup i = some (if i = id then { r with dies := r.dies ++ [die] } else r)
             ∨ (t.mem.log.lookup i = none ∧ ∀ d, d < 32 → d ∈ r.dies ∨ (i = id ∧ d = die)))
       ∧ (s.mem.mayApply die id = false → exec (.remoteWriteApply die id) s = .next s))
     ∧ ∀ core line, 
       let hit (x : L1Line) : Bool := x.va == 64 * line
       let l1 := (s.core core).l1
       (∀ x ∈ l1, hit x = true → (s.core core).l1Bad x = false ∧ (s.vf x.vf).migr = none
         ∧ (∃ k, regionOf x.pa = .hbm k ∨ regionOf x.pa = .cxl k) ∧ s.sight (.stream core) x.vf x.pa x.enc = .plain
         ∧ ∀ c ∈ x.dirty, s.serving (.stream core) c.1 = none) →
       ∃ t m, exec (.l1Eviction core line) s = .next t
         ∧ t = { (s.updCore core fun c => { c with l1 := l1.filter fun x => !hit x }) with mem := m }
         ∧ m = { s.mem with pend := m.pend }
         ∧ (∀ view agent pa, agent ≠ some (.stream core) → m.byteAt view agent pa = s.mem.byteAt view agent pa)
         ∧ ∃ w, m.pend = s.mem.pend ++ w
           ∧ (∀ x ∈ w, x.agent = .stream core ∧ ∃ y ∈ l1, hit y = true ∧ x.colours = y.colours ∧ ∀ c ∈ x.cells, c ∈ y.dirty)
           ∧ ∀ y ∈ l1, hit y = true → ∀ c ∈ y.dirty, ∃ x ∈ w, c ∈ x.cells)
  ∧ ((∀ (s : State) (tag : Nat),
     let gone (i : Instr) : Prop := ∃ t, exec i s = .next t ∧ t = { s with pf := { s.pf with faults := t.pf.faults } }
       ∧ ∀ k, t.pf.faults.lookup k = if k = tag then none else s.pf.faults.lookup k
     let fails (i : Instr) (f : PageFault) : Prop :=
       ∃ t, exec i s = .next t ∧ t = { s with pf := { s.pf with faults := t.pf.faults } }
         ∧ ∀ k, t.pf.faults.lookup k = if k = tag then some { f with failed := true } else s.pf.faults.lookup k
     (s.pf.faults.lookup tag = none →
       exec (.pageFaultDeadline tag) s = .next s ∧ exec (.resolveRetry tag) s = .next s ∧ exec (.resolveFail tag) s = .next s)
     ∧ ∀ f, s.pf.faults.lookup tag = some f →
       let due := f.failed = false ∧ f.since + s.tpf f.vf * 2700 ≤ s.tb
       (due → fails (.pageFaultDeadline tag) f) ∧ (¬due → exec (.pageFaultDeadline tag) s = .next s)
         ∧ (f.failed = false → gone (.resolveRetry tag)) ∧ (f.failed = true → exec (.resolveRetry tag) s = .next s)
         ∧ fails (.resolveFail tag) f)
   ∧ ∀ (s : State) (core row : Nat),
     let c := s.core core
     let b : State := s.updCore core fun c => if c.c.run || c.x.run then c.leaseRows s.tb else c
     let r := SMap.get .free (b.core core).rows row
     let inUse := (c.c.run = true ∨ c.x.run = true) ∧ r.vf = c.vfid ∧ (r.kernel = c.image.kernel ∨ r.kernel = c.himage.kernel)
     let fills (q : State) (words : List Word) (mark : Option Byte) : Prop :=
       ∃ t r', exec (.rowFillComplete core row) s = .next t ∧ t = { q with cores := t.cores }
         ∧ (∀ d, d ≠ core → t.core d = q.core d)
         ∧ t.core core = { q.core core with rows := SMap.set .free (q.core core).rows row r' }
         ∧ r' = { r with state := r'.state, words := words, mark := mark }
         ∧ (q.core core = b.core core → (inUse → r'.state = 3) ∧ (¬inUse → r'.state = 2))
     (r.state ≠ 1 → exec (.rowFillComplete core row) s = .next b)
     ∧ (r.state = 1 → ∀ q bytes, b.readVa (.stream core) r.vf r.va 512 .fetch = .ok (q, bytes) →
         fills q ((List.range 128).map fun i => BitVec.ofNat 32 (field bytes (4 * i) 4)) none)
     ∧ (r.state = 1 → ∀ x, b.readVa (.stream core) r.vf r.va 512 .fetch = .error (.trap x) →
         fills (b.applySides x.sides) [] (some x.code)))

/-! ### The Hearth (R227, R289 to R308, R316, R427) -/

/-- R289 to R292, R295: a launch from an enabled queue takes the record at HEAD. A well-formed graph enters with its nodes,
each with its descriptor and counter, ready where the counter is 0 and SERIAL does not hold it: the launch completes wherever
the record can be read; a malformed one leaves the reason on the ring that its record names, or on ring 0 where the record
cannot be read, and no node. HEAD and GSEQ go on in both cases. A queue that is empty or off launches nothing. R72, R83,
R299, R305, R424: dispatching the Hearth's choice on free cores that fit it and are not kept for a node before it. From its
descriptor or its checkpoint every core starts at the offsets there with the arguments in s1 to s8, in node mode, or in
device mode for the PF's firmware, with vtype, nodeid and graph position of the node; from a forced pre-emption it goes on
with the streams, queues, quadrant and scratchpad that were saved. No other core changes. With no choice nothing happens, and
where no core is free pre-emptions become pending on the holders. What rests here on the model's own reading is in log
entries 18, 78, 82. -/
def Obligations.LaunchAndDispatch : Prop :=
  (∀ (s : State) (vf q : Nat),
     let k := s.sq vf q
     let va := k.base.toNat + 64 * k.head.toNat
     let g := (vf * 16 + q) * 2 ^ 36 + k.gseq
     let open_ := k.cfg.getLsbD 8 = true ∧ k.head ≠ k.tail ∧ k.resetting = false ∧ (s.vf vf).tdisp ≠ .locked
     let moved (b t : State) : Prop := t.sq vf q = { b.sq vf q with
       head := BitVec.ofNat 16 (((b.sq vf q).head.toNat + 1) % 2 ^ ((b.sq vf q).cfg.toNat % 32)), gseq := ((b.sq vf q).gseq + 1) % (2 ^ 36 - 1) }
     (¬open_ → exec (.graphLaunch vf q) s = .next s)
     ∧ (open_ → vf < 256 → q < 16 → k.gseq < 2 ^ 36 →
       (∀ b rec l, s.readGraph vf va = .ok (b, rec, l) → ∃ t h,
         exec (.graphLaunch vf q) s = .next t ∧ moved b t ∧ t.graph? g = some h ∧ h.submitted = l.length ∧ h.nodes = l.length ∧ h.complete = false
         ∧ h.ring = field rec 0xA 1 ∧ h.flags = BitVec.ofNat 8 (field rec 0xB 1)
         ∧ (h.held = true → h.flags.getLsbD 2 = true) ∧ t.cores = b.cores ∧ t.mem = b.mem
         ∧ ∀ i d, l[i]? = some d → ∃ n, t.node? (BitVec.ofNat 64 (g * 65536 + i)) = some n ∧ n.desc = d.desc
             ∧ n.list = d.list ∧ n.succs = d.succs ∧ n.counter = descDeps d.desc
             ∧ n.state = if descDeps d.desc = 0 ∧ h.held = false then .ready else .waiting)
       ∧ ∀ x, s.readGraph vf va = .error (.trap x) → ∃ t, exec (.graphLaunch vf q) s = .next t
         ∧ moved (s.applySides x.sides) t ∧ t.hearth = (s.applySides x.sides).hearth ∧ t.mem = (s.applySides x.sides).mem
         ∧ let ring := match s.readVa .management vf va 64 .read true with
             | .ok (_, w) => field w 0xA 1 % 16
             | .error _ => 0
           (SMap.get .init (t.vf vf).rings ring).held =
             (SMap.get .init ((s.applySides x.sides).vf vf).rings ring).held
               ++ [record (BitVec.ofNat 64 (g * 65536 + x.val.toNat)) 7 x.code.toNat 0 0 0]))
  ∧ (∀ (s : State) (cores : List Nat),
     (s.pick = none → (∀ c ∈ cores, s.coreFree c = true) → exec (.nodeDispatch cores) s = .next s)
     ∧ (∀ b id n, (∀ c ∈ cores, s.coreFree c = true) → s.pick = some (b, id) → s.node? id = some n →
         s.fits id n cores = true → cores.Nodup → (∀ c ∈ cores, s.keptFrom id c = false) →
       ∃ t n', exec (.nodeDispatch cores) s = .next t ∧ t.node? id = some n' ∧ n'.state = .running ∧ n'.cores = cores
         ∧ n'.started = s.tb ∧ (∀ d, d ∉ cores → t.core d = s.core d)
         ∧ (n.state ≠ .preempted → ∀ i core, cores[i]? = some core →
             let p := n.check.getD ⟨List.replicate cores.length ⟨0, 0, (List.range 8).map (descArg n.desc), 0⟩, [], [], []⟩
             let r := p.cores.getD i ⟨0, 0, [], 0⟩
             let mode : Mode := if nodeVf id = 0 then .device else .node
             let c := t.core core
             let run := decide (descType n.desc ≠ 1)
             c.node = some id ∧ c.nci = i ∧ c.c.run = run ∧ c.x.run = run ∧ c.c.mode = mode ∧ c.x.mode = mode ∧ c.csr.npos = r.npos
               ∧ c.c.pc = r.offC.zeroExtend 64 ∧ c.x.pc = r.offX.zeroExtend 64
               ∧ (r.args.length = 8 → ∀ j, 1 ≤ j → j < 32 → c.c.reg (BitVec.ofNat 5 j) = r.args.getD (j - 1) 0)
               ∧ (∀ j : Reg, c.x.reg j = 0)
               ∧ c.vec.vtype = descVtdef n.desc ∧ c.csr.nodeid = id ∧ c.csr.vfid = BitVec.ofNat 8 (nodeVf id)
               ∧ c.load = EngQueue.init ∧ c.matrix = EngQueue.init ∧ c.quad = Quadrant.init)
         ∧ (n.state = .preempted → ∀ (i core : Nat) (saved : Nat × Core), cores[i]? = some core → n.saved[i]? = some saved →
             let c := t.core core
             c.c = saved.2.c ∧ c.x = saved.2.x ∧ c.vec = saved.2.vec ∧ c.load = saved.2.load ∧ c.store = saved.2.store
               ∧ c.matrix = saved.2.matrix ∧ c.backfill = saved.2.backfill ∧ (saved.2.quad.role = 0 → c.quad = saved.2.quad) ∧ c.sp = saved.2.sp
               ∧ c.sems = saved.2.sems ∧ c.csr.nopst = BitVec.ofNat 64 s.tb))
     ∧ ((∃ c ∈ cores, s.coreFree c = false) → ∀ b ∈ s.starved, s.blocked cores b = true →
       ∃ t, exec (.nodeDispatch cores) s = .next t ∧ t = { s with hearth := t.hearth }
         ∧ ∀ c ∈ cores, ∀ h n, (s.core c).node = some h → s.node? h = some n → n.state = .running → n.pendSince = none →
             t.node? h = some { n with pendSince := some s.tb, pendSusp := false }))

/-- R303, R306, R227, R301, R316, R308, R427: a running node is pre-empted by force once a pending pre-emption is due, once a
stream of it has waited for 64 µs, or page faults have frozen it so long, while a rival is ready; its cores are saved whole
and free. A node that a debugger has halted keeps its cores. An operator longer than 2 × B_op counts once in novr, also one
that a pre-emption ends; a parked node whose wake words hold is ready, and one with a word that does not hold keeps it; the
Crucible's window is weighed against its share; a node that does not advance for T_hang posts its record with status 4 and
the orphan waits, and ends. Where its condition does not hold, none of these events changes anything. What rests here on the
model's own reading is in log entries 4, 64, 79. -/
def Obligations.NodeEvents : Prop :=
  ∀ (s : State) (id : Dword) (n : Node), s.node? id = some n →
    let none_ (i : Instr) : Prop := exec i s = .next s
    let again (e : EngQueue) : EngQueue := { e with wait := none, todo := none }
    let halted := ∃ c ∈ n.cores, (s.core c).dbg.halted = true
    let us := 2700
    let bop := s.bop (nodeVf id) * us
    let late : Dword := if n.overrun = false ∧ s.opStart n + 2 * bop < s.tb then 1 else 0
    let preempts (i : Instr) : Prop := ∃ t n', exec i s = .next t ∧ t.node? id = some n' ∧ n'.state = .preempted
      ∧ n'.cores = [] ∧ n'.since = s.tb ∧ n'.pendSince = none ∧ n'.saved.map Prod.fst = n.cores
      ∧ (∀ c ∈ n.cores, (t.core c).node = none ∧ (t.core c).c.run = false ∧ (t.core c).x.run = false
          ∧ (t.core c).l1 = [])
      ∧ (∀ p ∈ n'.saved, p.2.c = { (s.core p.1).c with wait := none } ∧ p.2.x = { (s.core p.1).x with wait := none }
          ∧ p.2.vec = (s.core p.1).vec ∧ p.2.quad = (s.core p.1).quad
          ∧ p.2.csr = { (s.core p.1).csr with novr := (s.core p.1).csr.novr + late }
          ∧ p.2.load = again (s.core p.1).load ∧ p.2.store = again (s.core p.1).store
          ∧ p.2.matrix = again (s.core p.1).matrix)
      ∧ ∀ c, c ∉ n.cores → t.core c = s.core c
    let rival := s.rival id n = true
    let running := n.state = .running
    let due := ¬halted ∧ ∃ since, n.pendSince = some since ∧ ¬(n.pendSusp = true ∧ (s.vf (nodeVf id)).susp = 2)
      ∧ (since + bop ≤ s.tb ∨ s.opStart n + 2 * bop ≤ s.tb)
    let waited := ¬halted ∧ ∃ c ∈ n.cores, ((s.core c).c.waitedLong s.tb = true ∨ (s.core c).x.waitedLong s.tb = true)
    let frozen := ¬halted ∧ ∃ c ∈ n.cores, ∃ since, (s.core c).frozenAt = some since ∧ since + 64 * us < s.tb
    let long := running ∧ n.overrun = false ∧ s.opStart n + 2 * bop < s.tb
    n.cores.Nodup → (∀ c ∈ n.cores, ∀ p ∈ (s.core c).probe, p.2.state ≠ 1) →
    (running → due → preempts (.forcedPreemption id)) ∧ (¬(running ∧ due) → none_ (.forcedPreemption id))
    ∧ (running → waited → rival → preempts (.waitPreemption id)) ∧ (¬(running ∧ waited ∧ rival) → none_ (.waitPreemption id))
    ∧ (running → frozen → rival → preempts (.frozenGroupPreemption id))
    ∧ (¬(running ∧ frozen ∧ rival) → none_ (.frozenGroupPreemption id))
    ∧ (long → ∃ t, exec (.operatorOverrun id) s = .next t ∧ t.node? id = some { n with overrun := true }
        ∧ ∀ c, t.core c = if c ∈ n.cores then
            { s.core c with csr := { (s.core c).csr with novr := (s.core c).csr.novr + 1 } } else s.core c)
    ∧ (¬long → none_ (.operatorOverrun id))
    ∧ (n.state = .parked → (∀ w ∈ n.wakes, s.wakes w.1 w.2 = true) →
        ∃ t, exec (.parkTimeWake id) s = .next t ∧ t = { s with hearth := t.hearth }
          ∧ t.node? id = some { n with wakes := [], state := .ready, since := s.tb })
    ∧ (n.state = .parked → (∃ w ∈ n.wakes, s.wakes w.1 w.2 = false) →
        ∃ t, exec (.parkTimeWake id) s = .next t ∧ t = { s with hearth := t.hearth }
          ∧ t.node? id = some { n with wakes := n.wakes.filter fun w => !s.wakes w.1 w.2 })
    ∧ (n.state ≠ .parked → none_ (.parkTimeWake id))
    ∧ (n.state ≠ .running → none_ (.hangDetect id))
    ∧ (let h := s.hearth
       ∃ t, exec .crucibleGuarantee s = .next t
        ∧ (h.window + 10000 * us ≤ s.tb → t = { s with hearth := { h with window := s.tb, crucible := 0, raised := false } })
        ∧ (s.tb < h.window + 10000 * us →
            let share := decide ((h.crucible + s.crucibleRunning) * 100 < s.crucibleShare * (s.crucibleCores * (s.tb - h.window)))
            t = { s with hearth := { h with raised := share } }))
    ∧ (running → (∀ c ∈ n.cores, (s.core c).advanced + ((n.cores.head?.map fun c => (s.core c).csr.dhang.toNat).getD 0) * us ≤ s.tb) →
        n.cores ≠ [] → (∀ c ∈ n.cores, (s.core c).csr.dhbase = 0) → descType n.desc ≠ 2 →
        (∀ p, n.check = some p → p.kv = []) → n.alog = [] → n.members = [] → s.hearth.rewinds = [] → s.hearth.retires = [] →
        s.owes id n.cores = false → ∀ r, s.graph? (graphKey id) = some r → r.complete = false →
        let marks := (n.cores.map fun c => ((s.orphans c).filter fun b => b).length).sum
        let ring (t : State) := (SMap.get .init (t.vf (nodeVf id)).rings r.ring).held
        ∃ t n', exec (.hangDetect id) s = .next t ∧ t.node? id = some n' ∧ n'.state = .ended 4 ∧ n'.cores = []
          ∧ (∃ more, ring t = ring s ++ record id 4 0 0 marks (s.stepWord id) :: more)
          ∧ ∀ c ∈ n.cores, (t.core c).node = none ∧ (t.core c).c.run = false ∧ (t.core c).x.run = false)
    ∧ ((∃ c ∈ n.cores, s.tb < (s.core c).advanced + ((n.cores.head?.map fun c => (s.core c).csr.dhang.toNat).getD 0) * us) →
        none_ (.hangDetect id))

/-- R310, R437: the first record that a ring holds is written at its tail with the time, where the ring is on and has room;
the tail goes on, and a message is sent, or held back where its vector is masked, once COALN records wait, or COALT has
passed since the oldest. A write that faults posts PF event 0x97 once, and is tried again only by a retry. What rests here on
the model's own reading is in log entry 125. -/
def Obligations.EventRings : Prop :=
  ∀ (s : State) (vf r : Nat),
    let g := s.ring vf r
    let slots := 2 ^ (g.cfg.toNat % 32)
    let room := g.cfg.getLsbD 8 = true ∧ (g.tail.toNat + 1) % slots ≠ g.head.toNat % slots
    let due := g.unsignalled ≠ 0 ∧ g.cfg.toNat / 2 ^ 32 % 2 ^ 16 ≠ 0
      ∧ g.oldest + g.cfg.toNat / 2 ^ 32 % 2 ^ 16 * 2700 ≤ s.tb
    let tells (b t : State) : Prop :=
      ((b.vectors vf).masked r = false → t.pf.msix = (vf, r) :: b.pf.msix)
      ∧ ((b.vectors vf).masked r = true → t.pf.msix = b.pf.msix
          ∧ (t.vectors vf).pend = (b.vectors vf).pend ||| BitVec.ofNat 64 (2 ^ r))
    let writes (i : Instr) : Prop := ∀ first rest, g.held = first :: rest → room → ∀ b,
      s.storeRecord vf (g.base.toNat + 32 * g.tail.toNat) (putBytes first 0 (leBytes 8 s.tb)) = .ok b →
      ∃ t, exec i s = .next t ∧ (t.ring vf r).held = rest
        ∧ (t.ring vf r).tail = BitVec.ofNat 16 ((g.tail.toNat + 1) % slots) ∧ (t.ring vf r).faulted = false
        ∧ t.mem = b.mem ∧ t.host = b.host ∧ t.cores = b.cores
        ∧ (max 1 (g.cfg.toNat / 2 ^ 16 % 2 ^ 8) ≤ g.unsignalled + 1 → (t.ring vf r).unsignalled = 0 ∧ tells b t)
        ∧ (g.unsignalled + 1 < max 1 (g.cfg.toNat / 2 ^ 16 % 2 ^ 8) →
            t.pf.msix = b.pf.msix ∧ (t.ring vf r).unsignalled = g.unsignalled + 1)
    let stays (i : Instr) : Prop := g.held = [] ∨ ¬room → exec i s = .next s
    (g.faulted = false → writes (.eventRecordWrite vf r) ∧ stays (.eventRecordWrite vf r)
        ∧ exec (.ringFaultRetry vf r) s = .next s
        ∧ ∀ first rest, g.held = first :: rest → room → vf ≠ 0 → ∀ x,
            s.storeRecord vf (g.base.toNat + 32 * g.tail.toNat) (putBytes first 0 (leBytes 8 s.tb)) = .error (.trap x) →
            ∃ t, exec (.eventRecordWrite vf r) s = .next t ∧ (t.ring vf r) = { g with faulted := true }
              ∧ t.pf.ring.held = (s.applySides x.sides).pf.ring.held ++ [record 0 0x97 0 0 (r + 256 * vf) 0])
    ∧ (g.faulted = true → writes (.ringFaultRetry vf r) ∧ stays (.ringFaultRetry vf r)
        ∧ exec (.eventRecordWrite vf r) s = .next s)
    ∧ (due → ∃ t, exec (.eventCoalesceTimeout vf r) s = .next t ∧ t.ring vf r = { g with unsignalled := 0 }
        ∧ tells s t ∧ t.mem = s.mem ∧ t.host = s.host ∧ t.cores = s.cores)
    ∧ (¬due → exec (.eventCoalesceTimeout vf r) s = .next s)

/-- R204, R361, R385 to R389, R383: the units behind the cores. A probe fill ends with its entry VALID, or FAILED with the
cause that it met, and its ticket is over; an adapter load that has copied its pages leaves its entry LOADED, and at a fault
NOT LOADED with event 0x8A; the fill quota starts again each millisecond; a scrub corrects what its line's grade can, counts
it, and poisons the line otherwise; weight restoration rewrites the poisoned lines of a frame with the bytes of an image that
agrees with its leaf and the measured root; and a reduction packet that no rule drops joins its landing, which holds its data
until its line is written with those of every rank, and adds to DONE once every line is. What rests here on the model's own
reading is in log entries 13, 56, 72, 74, 103. -/
def Obligations.UnitEvents : Prop :=
  (∀ (s : State) (die ticket slot : Nat) (core : Option Nat), (s.die die).tickets.lookup ticket = some (.probe core slot) →
    let t0 : PTable := match core with | some c => .region c | none => .die die
    let e := s.pentry t0 slot
    let fill := s.fillBytes die e.vf e.handle e.tile core.isNone
    e.state = 1 → e.ticket = ticket → t0.home = die →
    (core = none → s.fillCounted e = true → s.fillRoom e.vf = false → exec (.probeFillComplete die ticket) s = .next s)
    ∧ ((core = none → s.fillCounted e = false) →
    (∀ b bytes pa, fill = .ok (b, bytes, pa) →
      ∃ t, exec (.probeFillComplete die ticket) s = .next t ∧ (t.die die).tickets.lookup ticket = none ∧ t.mem = b.mem
        ∧ (b.pinvWaits t0 slot = true → e.pins = 0 → t.pentry t0 slot = PEntry.init)
        ∧ (core = none → b.pinvWaits t0 slot = false ∨ e.pins ≠ 0 → t.pentry t0 slot = { e with state := 2, ticket := 0, frame := pa / 2 ^ 19, bytes := keptBytes pa bytes })
        ∧ ∀ c, core = some c → (b.pinvWaits t0 slot = false → t.pentry t0 slot = { e with state := 2, ticket := 0 })
          ∧ (t.core c).sp = Memory.write (b.core c).sp
            ((b.core c).spBytes - (b.core c).prBytes + slot * (b.core c).slotBytes) bytes)
    ∧ ∀ x, fill = .error (.trap x) →
      let u := (s.applySides x.sides).dropReads (fillAgent die e.vf)
      u.pinvWaits t0 slot = false → ∃ t, exec (.probeFillComplete die ticket) s = .next t ∧ t.mem = u.mem
        ∧ t.pentry t0 slot = { e with state := 3, ticket := 0, cause := x.code } ∧ (t.die die).tickets.lookup ticket = none))
  ∧ (∀ (s : State) (vf i : Nat),
    let e := s.adapter vf i
    let fails (c : State) (x : Trap) : Prop :=
      let u := (c.applySides x.sides).dropReads adapterAgent
      ∃ t, exec (.adapterLoadComplete vf i) s = .next t
        ∧ t.adapter vf i = { u.adapter vf i with state := 0, copied := 0 } ∧ t.mem = u.mem
        ∧ (SMap.get .init (t.vf vf).rings 0).held = (SMap.get .init (u.vf vf).rings 0).held
            ++ [record 0 0x8A x.code.toNat 0 (s.adHandle vf i) 0]
    (e.state ≠ 1 → exec (.adapterLoadComplete vf i) s = .next s)
    ∧ (e.state = 1 → ∀ x, s.loadPlan vf i = .error (.trap x) → fails s x)
    ∧ (e.state = 1 → ∀ w l, s.loadPlan vf i = .error (.wait w l) → exec (.adapterLoadComplete vf i) s = .next (s.applySides l))
    ∧ (e.state = 1 → ∀ c l, s.loadPlan vf i = .ok (c, l) →
        let run := c.loadPages vf i e.back.toNat e.copied (l.drop e.copied)
        (l.length ≤ e.copied → ∃ t, exec (.adapterLoadComplete vf i) s = .next t
          ∧ t.adapter vf i = { c.adapter vf i with state := 2, copied := 0 } ∧ t.mem = c.mem)
        ∧ (run.2 = .whole → ∃ t, exec (.adapterLoadComplete vf i) s = .next t
          ∧ t.adapter vf i = { run.1.adapter vf i with state := 2, copied := 0 } ∧ t.mem = run.1.mem)
        ∧ (run.2 = .quota → exec (.adapterLoadComplete vf i) s = .next run.1)
        ∧ (∀ x, run.2 = .stopped (.trap x) → fails run.1 x)
        ∧ ∀ w sides, run.2 = .stopped (.wait w sides) → exec (.adapterLoadComplete vf i) s = .next (run.1.applySides sides))
    ∧ let ms := 1000 * 2700
      (∃ t, exec (.adapterFillQuotaTick vf) s = .next t
        ∧ ((s.vf vf).fillStart / ms < s.tb / ms →
            t.vf vf = { s.vf vf with fillUsed := 0, fillStart := s.tb } ∧ t = { s with vfs := t.vfs })
        ∧ (s.tb / ms ≤ (s.vf vf).fillStart / ms → t = s)))
  ∧ (∀ (s : State) (half line : Nat),
    let l := half * 2 ^ 29 + line
    let visits (f : LineFate) (n : State) : Prop := (SMap.get LineErr.none s.mem.latent l).copy = 0 → s.mem.fate l = f →
      exec (.scrubVisit half line) s = .next n
    ((SMap.get LineErr.none s.mem.latent l).copy ≠ 0 → exec (.scrubVisit half line) s = .next s)
    ∧ visits .clean s ∧ (∀ w, visits (.unseen w 0) s)
    ∧ (∀ w f, (SMap.get LineErr.none s.mem.latent l).copy = 0 → s.mem.fate l = .unseen w f → f ≠ 0 →
        ∃ t, exec (.scrubVisit half line) s = .next t ∧ t.cores = s.cores ∧ t.pf = s.pf
          ∧ (SMap.get LineErr.none t.mem.latent l).flips = (SMap.get LineErr.none s.mem.latent l).flips &&& ~~~f)
    ∧ ((SMap.get LineErr.none s.mem.latent l).copy = 0 → s.mem.fate l = .corrected → line < 2 ^ 29 →
        ∃ t, exec (.scrubVisit half line) s = .next t ∧ MemorySame s t ∧ t.mem.latent.lookup l = none ∧ t.cores = s.cores
        ∧ SMap.get (0 : Dword) t.mem.corrected half = (if SMap.get (0 : Dword) s.mem.corrected half = 0xFFFFFFFFFFFFFFFF then
            0xFFFFFFFFFFFFFFFF else SMap.get (0 : Dword) s.mem.corrected half + 1))
    ∧ ((SMap.get LineErr.none s.mem.latent l).copy = 0 → s.mem.fate l = .lost →
        ∃ t, exec (.scrubVisit half line) s = .next t ∧ SMap.get 0 t.mem.poison l = s.mem.nextId + 1
        ∧ t.mem.latent.lookup l = none ∧ t.cores = s.cores
        ∧ t.pf.ring.held = s.pf.ring.held ++ [record 0 (Config.eventStatus 0).toNat 0 0 0 (64 * l)])
    ∧ ∀ e i, s.mem.latent.lookup l = some e → e.copy = 0 → bitsSet e.flips = [i] →
        s.mem.fate l = if (SMap.get 0 s.mem.grade (l / 8192)).toNat = 2 then .lost else .corrected)
  ∧ (∀ (s : State) (frame : Nat),
    (s.sec.weightFrames.lookup frame = none → exec (.weightRestore frame) s = .next s)
    ∧ ∀ f, s.sec.weightFrames.lookup frame = some f → ∃ t, exec (.weightRestore frame) s = .next t
      ∧ SMap.get false t.sec.restoring f = false ∧ SMap.get false t.sec.checked f = false ∧ t.cores = s.cores
      ∧ ((∀ image, Config.hostCopy frame = some image → s.sec.leaves.lookup frame ≠ some (Config.sha512 image)
            ∨ s.sec.pathOk 16 0 frame = false ∨ image.length ≠ 2 ^ 19) →
          t.mem = s.mem ∧ t.pf.ring.held = s.pf.ring.held
            ++ [record 0 (Config.eventStatus 1).toNat 0 0 frame (f * 2 ^ 19)])
      ∧ ∀ image, Config.hostCopy frame = some image → s.sec.leaves.lookup frame = some (Config.sha512 image) →
          s.sec.pathOk 16 0 frame = true → image.length = 2 ^ 19 → f < 2 ^ 21 →
          (∀ line, SMap.get 0 s.mem.poison line ≤ s.mem.nextId + 1) →
          t.pf = s.pf ∧ (∀ line, line / 8192 = f → SMap.get 0 t.mem.poison line = 0)
            ∧ ∀ line i, line / 8192 = f → SMap.get 0 s.mem.poison line ≠ 0 → i < 64 →
              t.mem.byteAt none none (64 * line + i) = image.getD (64 * (line % 8192) + i) 0)
  ∧ ∀ (s : State) (port : Nat) (m : LinkMsg), (s.port port).down = false → m.first = false → m.seq = (s.port port).rxSeq →
    let vf := (s.exported m).1
    let ack (code : Nat) : Byte × LinkMsg := (0x08, { m with
      vc := 1, poison := false, acquire := false, release := false, flag3 := false, code := BitVec.ofNat 8 code
      addr := 0, body := 0 })
    (vf = 0 → ∃ t, exec (.reduce port m) s = .next t ∧ (t.port port).out = (s.port port).out ++ [ack 2]
        ∧ t = { s with ports := t.ports })
    ∧ (vf ≠ 0 → ∃ t, exec (.reduce port m) s = .next t
        ∧ (t.port port).out = ((s.land (packetOf m vf)).port port).out ++ [ack 0]
        ∧ t = { s.land (packetOf m vf) with ports := t.ports })
    ∧ (vf ≠ 0 →
      let p := packetOf m vf
      let n := p.landing.toNat
      (∀ b, s.landEntry vf n = (b, none) → s.land p = b.postRing0 vf 0x8D 3 n)
      ∧ ∀ b e g c half, s.landEntry vf n = (b, some e) → landEpoch e = p.epoch →
          (b.landForget vf n p.epoch).landOpen p e = some g →
          (b.landForget vf n p.epoch).landHalf vf g.entry = (c, some half) →
          p.rank.toNat < landK g.entry → p.line.toNat < landLines g.entry →
          (∀ q ∈ g.parts, ¬(q.1 = p.line.toNat ∧ q.2.1 = p.rank.toNat)) → p.poison = false →
          let g' : Landing := { g with parts := g.parts ++ [(p.line.toNat, p.rank.toNat, p.data)] }
          let g'' : Landing := { g' with complete := p.line.toNat :: g.complete }
          ((g'.ofLine p.line.toNat).length < landK g.entry → s.land p = c.setLanding vf n g')
          ∧ (landK g.entry ≤ (g'.ofLine p.line.toNat).length →
            s.land p = let d := (c.landWrite vf half g' p.line.toNat).setLanding vf n g''
              if g''.complete.length < landLines g.entry then d else d.landFinish vf half g''))

/-! ### The host's registers (R316, R357, R364, R434 to R440) -/

/-- R435 to R438, R316, R434: a doorbell moves the tail of a queue that is on, or sets ERR where its value is out of range; a
queue reset empties a queue, ends its one node, begun or not, with 5 or 6, and is over once every record of the queue is
written; ERHEAD moves the head up to the tail; RESUME ends the parks of KIND 1; the adapter commands answer in ADSTAT; an
access of BAR2 reads or writes the VF's memory, or posts event 0x91; a load of a peer's memory waits for the peer. A write to
a BAR0 register does what its register does, and one that is misaligned, or before firmware runs, or outside the IDE stream
of an interface that is not unlocked (R406, R407), does nothing. A base or configuration is not taken while its ring is on,
or its queue is on and holds records. A write of CMDDB sets BUSY, and the command that then stands is performed once (R439 to
R441). What rests here on the model's own reading is in log entries 75, 85, 87, 125, 131. -/
def Obligations.HostRegisters : Prop :=
  (∀ (s : State) (h : HostReq) (q : Nat) (v : Dword),
    let vf := h.vf
    let k := s.sq vf q
    let slots := 2 ^ (k.cfg.toNat % 32)
    let taken := h.ide = true ∨ (s.vf vf).tdisp = .unlocked
    let live := k.cfg.getLsbD 8 = true ∧ k.resetting = false
    (¬taken → exec (.sqDoorbell h q v) s = .next s ∧ exec (.sqReset h q) s = .next s)
    ∧ (¬live → exec (.sqDoorbell h q v) s = .next s)
    ∧ (taken → live → v.toNat % 2 ^ 16 < slots → ∃ t, exec (.sqDoorbell h q v) s = .next t
        ∧ t.sq vf q = { k with tail := v.extractLsb' 0 16, err := false } ∧ t = { s with vfs := t.vfs, mem := t.mem }
        ∧ ∀ w ∈ t.mem.pend, w.agent ≠ .host vf h.port)
    ∧ (taken → live → slots ≤ v.toNat % 2 ^ 16 → ∃ t, exec (.sqDoorbell h q v) s = .next t
        ∧ t.sq vf q = { k with err := true } ∧ t = { s with vfs := t.vfs })
    ∧ (k.resetting = true → exec (.sqReset h q) s = .next s)
    ∧ (taken → k.resetting = false → s.graphsOf vf q = [] → s.hearth.rewinds = [] → s.hearth.retires = [] →
        (∀ p ∈ s.hearth.nodes, p.2.state ≠ .parked) → ∃ t, exec (.sqReset h q) s = .next t
        ∧ t.sq vf q = if s.queueWritten vf q = true then { k with head := 0, tail := 0, gseq := 0 } else { k with resetting := true })
    ∧ ∀ g r id n, taken → k.resetting = false → s.graphsOf vf q = [g] → s.graph? g = some r → r.complete = false →
        s.nodesOf g = [(BitVec.toNat id, n)] → s.node? id = some n → n.state.isEnded = false → n.isEnding = false →
        s.owes id n.cores = false →
        (∀ p, n.check = some p → p.kv = []) → n.alog = [] → n.members = [] → s.hearth.rewinds = [] → s.hearth.retires = [] →
        ∃ t n', exec (.sqReset h q) s = .next t ∧ t.node? id = some n' ∧ n'.cores = (if n.begun then [] else n.cores)
          ∧ n'.state = .ended (if n.begun then 5 else 6)
          ∧ ∀ c ∈ n.cores, n.begun = true → (t.core c).node = none ∧ (t.core c).c.run = false ∧ (t.core c).x.run = false)
  ∧ (∀ (s : State) (h : HostReq) (r : Nat) (v : Dword), s.refuses h = false →
    let vf := h.vf
    let g := s.ring vf r
    let slots := 2 ^ (g.cfg.toNat % 32)
    let far (x : Nat) : Nat := (x + slots - g.head.toNat % slots) % slots
    let legal := v.toNat % 2 ^ 16 < slots ∧ far (v.toNat % 2 ^ 16) ≤ far g.tail.toNat
    g.faulted = false →
    (legal → ∃ t, exec (.erheadWrite h r v) s = .next t ∧ t.ring vf r = { g with head := v.extractLsb' 0 16 }
        ∧ t = { s with vfs := t.vfs, pf := t.pf })
    ∧ (¬legal → exec (.erheadWrite h r v) s = .next s))
  ∧ (∀ (s : State) (h : HostReq) (id : Dword) (n : Node), s.refuses h = false → s.node? id = some n →
    let left := n.wakes.filter fun w => w.2.toNat / 2 ^ 62 != 1
    (n.state = .parked → id.toNat / 2 ^ 56 = h.vf →
      ∃ t, exec (.resumeWrite h id) s = .next t ∧ t = { s with hearth := t.hearth }
        ∧ (left = [] → t.node? id = some { n with wakes := [], state := .ready, since := s.tb })
        ∧ ((∃ w ∈ left, s.wakes w.1 w.2 = false) → t.node? id =
            some { n with wakes := left.filter fun w => !s.wakes w.1 w.2 }))
    ∧ (n.state ≠ .parked ∨ id.toNat / 2 ^ 56 ≠ h.vf → exec (.resumeWrite h id) s = .next s))
  ∧ (∀ (s : State) (r : HostReq) (h : Word), s.refuses r = false →
    let vf := r.vf
    let i := h.toNat % 2 ^ 16
    let e := s.adapter vf i
    let named := i < s.cfg vf 0x13 ∧ h.extractLsb' 16 16 = e.gen
    let answers (i : Instr) (code : Nat) (f : Vf → Vf) : Prop := ∃ t, exec i s = .next t ∧ t = { s with vfs := t.vfs }
      ∧ t.vf vf = { f (s.vf vf) with adstat := BitVec.ofNat 64 (code * 2 ^ 56 + h.toNat) }
    ((s.vf vf).adstat.getLsbD 63 = true → exec (.adcmdEvict r h) s = .next s ∧ exec (.adcmdRetire r h) s = .next s)
    ∧ ((s.vf vf).adstat.getLsbD 63 = false →
      (¬named → answers (.adcmdEvict r h) 2 id ∧ answers (.adcmdRetire r h) 2 id)
      ∧ (named → e.state = 3 → answers (.adcmdEvict r h) 2 id)
      ∧ (named → e.state = 1 → answers (.adcmdEvict r h) 4 id)
      ∧ (named → e.state ≠ 1 → e.state ≠ 3 → e.ver ≠ 0 → e.back = 0 → answers (.adcmdEvict r h) 8 id)
      ∧ (named → e.state = 0 → (e.ver = 0 ∨ e.back ≠ 0) → answers (.adcmdEvict r h) 0 id)
      ∧ (named → e.state = 2 → (e.ver = 0 ∨ e.back ≠ 0) → e.refs = 0 → ∃ t, exec (.adcmdEvict r h) s = .next t
          ∧ (t.adapter vf i).state = 0 ∧ (t.vf vf).adstat = h.setWidth 64)
      ∧ (named → e.state = 2 → (e.ver = 0 ∨ e.back ≠ 0) → e.refs ≠ 0 → answers (.adcmdEvict r h) 0
          (fun v => { v with adapters := SMap.set .init v.adapters i { e with evpend := true } }))
      ∧ (named → let b := s.retire vf i 1 false
          ∃ t, exec (.adcmdRetire r h) s = .next t ∧ t = { b with vfs := t.vfs }
            ∧ (t.vf vf).adstat = BitVec.ofNat 64 ((if ∃ w ∈ b.hearth.retires, w.vf = vf ∧ w.idx = i then 2 ^ 63 else 0) + h.toNat))))
  ∧ (∀ (s : State) (a : Bar2),
    let va := s.cfg a.vf 0x1B + a.offset
    let top := a.offset + match a.data with | some bytes => bytes.length | none => a.size
    let here := a.vf ≠ 0 ∧ 6 ≤ s.sec.stage ∧ s.sec.stage ≤ 8 ∧ (s.vf a.vf).present = true ∧ top ≤ 2 ^ 36
    let closed := here ∧ a.req.ide = false ∧ (s.vf a.vf).tdisp ≠ .unlocked
    let open_ := here ∧ ¬closed
    let aborts (b : State) : Prop := ∃ t, exec (.bar2Access a) s = .next t ∧ t.pf.completion = none
      ∧ t.pf.ring.held = b.pf.ring.held ++ [record 0 0x91 0 0 0 va] ∧ t.mem = b.mem ∧ t.cores = b.cores
    (a.vf ≠ 0 → ¬here → exec (.bar2Access a) s = .next s)
    ∧ (a.vf = 0 → exec (.bar2Access a) s = .next
        (if 6 ≤ s.sec.stage ∧ top ≤ 2 ^ 16 ∧ a.data = none then
          { s with pf := { s.pf with completion := some (List.replicate a.size 0) } } else s))
    ∧ (closed → aborts s)
    ∧ (open_ → a.data = none → ∀ b bytes, s.readVa (.host a.vf a.req.port) a.vf va a.size .ld true = .ok (b, bytes) →
        exec (.bar2Access a) s = .next { b with pf := { b.pf with completion := some bytes } })
    ∧ (open_ → a.data = none → ∀ l, s.readVa (.host a.vf a.req.port) a.vf va a.size .ld true = .error (.wait .peer l) →
        ∃ t, exec (.bar2Access a) s = .next t ∧ t = { s.applySides l with pf := t.pf }
          ∧ t.pf = { (s.applySides l).pf with reads := (s.applySides l).pf.reads ++ [a] })
    ∧ (open_ → a.data = none → ∀ x, s.readVa (.host a.vf a.req.port) a.vf va a.size .ld true = .error (.trap x) →
        aborts (s.applySides x.sides))
    ∧ (open_ → ∀ bytes, a.data = some bytes →
        (∀ b, s.hostStore a.req va bytes = .ok b → exec (.bar2Access a) s = .next b)
        ∧ ∀ x, s.hostStore a.req va bytes = .error (.trap x) → aborts (s.applySides x.sides)))
  ∧ ∀ (s : State) (w : RegWrite),
    let visible := 6 ≤ s.sec.stage ∧ s.sec.stage ≤ 8
    let full := w.wide = true ∧ w.offset % 8 = 0
    let does (i : Instr) : Prop := exec (.registerWrite w) s = exec i s
    let log2n : Dword := BitVec.ofNat 64 (max 4 (min 16 (w.value.toNat % 32)))
    let holds (p : Pf) : Prop := exec (.registerWrite w) s = .next { s with pf := p }
    ((w.offset % (if w.wide then 8 else 4) ≠ 0 ∨ ¬visible ∨ (w.vf ≠ 0 ∧ (s.vf w.vf).present = false) ∨ s.refuses w.req = true) →
      exec (.registerWrite w) s = .next s)
    ∧ (s.refuses w.req = false → visible → full → w.vf ≠ 0 → (s.vf w.vf).present = true →
      (∀ q, q < 16 →
        (w.offset = 0x20 * q + 0x10 → does (.sqDoorbell w.req q w.value))
        ∧ (w.offset = 0x20 * q + 0x18 → w.value.getLsbD 32 = true → does (.sqReset w.req q))
        ∧ (w.offset = 0x400 + 0x20 * q + 0x10 → does (.erheadWrite w.req q w.value))
        ∧ (w.offset = 0x20 * q → ((s.sq w.vf q).cfg.getLsbD 8 = false ∨ (s.sq w.vf q).head = (s.sq w.vf q).tail) →
            ∃ t, exec (.registerWrite w) s = .next t ∧ t = { s with vfs := t.vfs }
              ∧ t.sq w.vf q = { s.sq w.vf q with base := w.value &&& ~~~(0xFFF : Dword) })
        ∧ (w.offset = 0x20 * q ∨ w.offset = 0x20 * q + 8 →
            (s.sq w.vf q).cfg.getLsbD 8 = true → (s.sq w.vf q).head ≠ (s.sq w.vf q).tail →
            exec (.registerWrite w) s = .next s)
        ∧ (w.offset = 0x20 * q + 8 → ((s.sq w.vf q).cfg.getLsbD 8 = false ∨ (s.sq w.vf q).head = (s.sq w.vf q).tail) →
            ∃ t, exec (.registerWrite w) s = .next t ∧ t = { s with vfs := t.vfs }
              ∧ t.sq w.vf q = { s.sq w.vf q with cfg := (w.value &&& 0x100) ||| log2n })
        ∧ (let g := s.ring w.vf q
           g.faulted = false →
            (w.offset = 0x400 + 0x20 * q ∨ w.offset = 0x408 + 0x20 * q → g.cfg.getLsbD 8 = true →
              exec (.registerWrite w) s = .next s)
            ∧ (w.offset = 0x400 + 0x20 * q → g.cfg.getLsbD 8 = false → ∃ t, exec (.registerWrite w) s = .next t
              ∧ t = { s with vfs := t.vfs } ∧ t.ring w.vf q = { g with base := w.value &&& ~~~(0xFFF : Dword) })
            ∧ (w.offset = 0x408 + 0x20 * q → g.cfg.getLsbD 8 = false → ∃ t, exec (.registerWrite w) s = .next t
              ∧ t = { s with vfs := t.vfs }
              ∧ t.ring w.vf q = { g with cfg := (w.value &&& 0x0000FFFF00FF0100) ||| log2n })))
      ∧ (w.offset = 0x800 → does (.resumeWrite w.req w.value))
      ∧ (w.offset = 0x808 → w.value.toNat / 2 ^ 62 = 1 → does (.adcmdEvict w.req (w.value.extractLsb' 0 32)))
      ∧ (w.offset = 0x808 → w.value.toNat / 2 ^ 62 = 2 → does (.adcmdRetire w.req (w.value.extractLsb' 0 32)))
      ∧ ∀ i, i < 34 → w.offset = 0x8000 + 8 * i → ∃ t, exec (.registerWrite w) s = .next t
          ∧ (t.vectors w.vf).word i = if i % 2 = 1 then w.value &&& 0x1FFFFFFFF else w.value &&& ~~~(3 : Dword))
    ∧ (s.refuses w.req = false → visible → full → w.vf = 0 →
      (w.offset = 0x180 → w.value.toNat / 2 ^ 62 = 1 → does (.resolveRetry (w.value.toNat % 2 ^ 32)))
      ∧ (w.offset = 0x180 → w.value.toNat / 2 ^ 62 = 2 → does (.resolveFail (w.value.toNat % 2 ^ 32)))
      ∧ (w.offset = 0x210 → does .shootdown)
      ∧ (w.offset = 0x108 → holds { s.pf with cmdStat := s.pf.cmdStat ||| 0x8000000000000000 })
      ∧ (w.offset = 0x100 → holds { s.pf with cmdAddr := w.value &&& ~~~(0x3F : Dword) })
      ∧ (w.offset = 0x200 → holds { s.pf with sdReq := w.value }) ∧ (w.offset = 0x208 → holds { s.pf with sdLen := w.value })
      ∧ (w.offset = 0x2000 →
          let cap := w.value.toNat % 2 ^ 16
          holds (if 8000 ≤ cap ∧ cap ≤ 15000 then { s.pf with pwrCap := BitVec.ofNat 64 cap } else s.pf))
      ∧ (let g := s.pf.ring
         g.faulted = false → (w.offset = 0x10 → does (.erheadWrite w.req 0 w.value))
          ∧ (w.offset = 0 → holds
              (if g.cfg.getLsbD 8 then s.pf else { s.pf with ring := { g with base := w.value &&& ~~~(0xFFF : Dword) } }))
          ∧ (w.offset = 8 → holds (if g.cfg.getLsbD 8 then s.pf else
              { s.pf with ring := { g with cfg := (w.value &&& 0x0000FFFF00FF0100) ||| log2n } }))))
    ∧ (s.pf.cmdStat.getLsbD 63 = false → s.perform = s)
    ∧ (s.pf.cmdStat.getLsbD 63 = true →
          let c := parseCmd (Memory.read s.host s.pf.cmdAddr.toNat 64)
          let does (i : Instr) : Prop := exec i s = .next s.perform
          (c.opcode = 1 → does (.create c)) ∧ (c.opcode = 2 → does (.teardown c)) ∧ (c.opcode = 3 → does (.setField c))
          ∧ (c.opcode = 4 → does (.getField c)) ∧ (c.opcode = 5 → does (.suspend c)) ∧ (c.opcode = 6 → does (.resume c))
          ∧ (c.opcode = 7 → does (.migrateStart c)) ∧ (c.opcode = 8 → does (.migrateStop c))
          ∧ (c.opcode = 9 → does (.setGrade c)) ∧ (c.opcode = 10 → does (.clearKeys c))
          ∧ (c.opcode = 0 ∨ 10 < c.opcode.toNat → does (.badOpcode c)))

/-! ### The PF's commands (R223, R379, R394 to R397, R405, R412 to R414, R440, R441) -/

/-- R440, R441, R394, R379, R395: what the PF's commands on VFs, fields, grades and keys do and answer. A reserved byte that
is not zero gives result 3, a VF that does not exist 2, and an unknown opcode 1, with no effect. CREATE makes a VF with a key
of its own; TEARDOWN leaves nothing of it; SET_FIELD answers 4 for a locked field, 3 for a value out of range and 5 for a
clash with another VF, and else writes the field, which GET_FIELD reads; SET_GRADE zeroes the frame. What rests here on the
model's own reading is in log entries 89, 90, 91, 94. -/
def Obligations.PfCommands : Prop :=
  ∀ (s : State) (c : PfCmd),
    let v := c.vf.toNat
    let id := c.field.toNat
    let index := c.index.toNat
    let value := c.value.toNat
    let f := s.vf v
    let gives (i : Instr) (b : State) (code : Nat) (result : Dword) : Prop := ∃ t, exec i s = .next t ∧ Replies b t code result
    gives (.badOpcode c) s (if c.reserved = 0 then 1 else 3) 0
    ∧ (c.reserved ≠ 0 → gives (.create c) s 3 0 ∧ gives (.teardown c) s 3 0 ∧ gives (.setField c) s 3 0
        ∧ gives (.getField c) s 3 0 ∧ gives (.suspend c) s 3 0 ∧ gives (.resume c) s 3 0 ∧ gives (.migrateStart c) s 3 0
        ∧ gives (.migrateStop c) s 3 0 ∧ gives (.setGrade c) s 3 0 ∧ gives (.clearKeys c) s 3 0)
    ∧ (c.reserved = 0 → f.present = false →
        gives (.teardown c) s 2 0 ∧ gives (.suspend c) s 2 0 ∧ gives (.resume c) s 2 0 ∧ gives (.migrateStart c) s 2 0
        ∧ gives (.migrateStop c) s 2 0 ∧ gives (.clearKeys c) s 2 0
        ∧ (v ≠ 0 → gives (.setField c) s 2 0 ∧ gives (.getField c) s 2 0 ∧ gives (.setGrade c) s 2 0))
    ∧ (c.reserved = 0 →
      (v = 0 ∨ f.present = true ∨ s.sec.root = none → gives (.create c) s 2 0)
      ∧ (v ≠ 0 → f.present = false → s.sec.root.isSome = true →
          gives (.create c) { s with
            vfs := SMap.set .init s.vfs v { Vf.init with present := true, km := some s.sec.nextKey }
            sec := { s.sec with nextKey := s.sec.nextKey + 1 } } 0 0)
      ∧ (f.present = true → gives (.clearKeys c) (s.updVf v fun f => { f with keys := [] }) 0 0)
      ∧ (f.present = true → ∃ b, gives (.teardown c) b 0 0 ∧ b.vf v = Vf.init
          ∧ (∀ p ∈ b.hearth.nodes, nodeVf (BitVec.ofNat 64 p.1) ≠ v) ∧ (∀ p ∈ b.mem.frameKey, p.2.1 ≠ v)
          ∧ (∀ p ∈ b.pf.faults, p.2.vf ≠ v) ∧ (∀ core n, ((b.core core).slot n).owner ≠ some v)
          ∧ ∀ core, (∀ e ∈ (b.core core).tlb, e.vf ≠ v) ∧ ∀ l ∈ (b.core core).l1, l.vf ≠ v)
      ∧ (v ≠ 0 → f.present = true →
        (fieldWidth id = 0 ∨ fieldCount id ≤ index → gives (.setField c) s 3 0 ∧ gives (.getField c) s 3 0)
        ∧ (fieldWidth id ≠ 0 → index < fieldCount id →
          gives (.getField c) s 0 (BitVec.ofNat 64 (s.cfg v id index))
          ∧ (fieldLocked id = true → f.tdisp ≠ .unlocked →
              gives (.setField c) (if f.tdisp = .error then s else s.enterError v) 4 0)
          ∧ (fieldLocked id = false ∨ f.tdisp = .unlocked →
            (2 ^ fieldWidth id ≤ value ∨ s.fieldRange v id index value = false → gives (.setField c) s 3 0)
            ∧ (value < 2 ^ fieldWidth id → s.fieldRange v id index value = true →
              (s.fieldClash v id index value = true → gives (.setField c) s 5 0)
              ∧ (s.fieldClash v id index value = false → ∃ b, gives (.setField c) b 0 0
                ∧ (b.vf v).cfg = SMap.set 0 f.cfg (4096 * id + index) c.value ∧ (∀ o, o ≠ v → b.vf o = s.vf o)
                ∧ (id ≠ 2 → b = { s with vfs := b.vfs }) ∧ b.mem = s.mem ∧ b.hearth = s.hearth)))))
      ∧ (v = 0 →
        (id = 0x43 → index < 64 →
          gives (.setField c) { s with pf := { s.pf with route := SMap.set 0 s.pf.route index c.value } } 0 0
          ∧ gives (.getField c) s 0 (SMap.get 0 s.pf.route index))
        ∧ (id = 0x44 → index < 16384 → value < 256 →
          gives (.setField c) { s with pf := { s.pf with exportTo := SMap.set (0, 0) s.pf.exportTo index (value, c.value2) } } 0 0)
        ∧ (id = 0x42 → index < 32 → 1 ≤ value → value ≤ 24 →
          gives (.setField c) (s.updDie index fun k => { k with scrub := value }) 0 0)
        ∧ (id = 0x41 → index < 32 → value ≤ 12 → s.dieBusy index = false → (∀ p ∈ (s.die index).probe, p.2.pins = 0) →
          gives (.setField c) (s.updDie index fun k => { k with probeUnits := value, probe := [] }) 0 0)
        ∧ (id = 0x40 → index < 8 → (∀ i, i < 64 → value.testBit i = true → s.quartetExclusive (64 * index + i) = false) →
          gives (.setField c) { s with pf := { s.pf with crucMap := SMap.set 0 s.pf.crucMap index c.value } } 0 0)
        ∧ (id < 0x40 ∨ 0x44 < id → gives (.setField c) s 3 0 ∧ gives (.getField c) s 3 0))
      ∧ (v = 0 ∨ f.present = true →
        let pa := c.addr.toNat
        let frame := pa / 2 ^ 19
        let ok := value ≤ 2 ∧ pa % 2 ^ 19 = 0 ∧ (∃ d, regionOf pa = .hbm d ∧ s.homed d = true) ∧ s.mapped frame = false
        (¬ok → gives (.setGrade c) s 3 0)
        ∧ (ok → ∃ b, gives (.setGrade c) b 0 0 ∧ b = { s with mem := b.mem }
          ∧ SMap.get 0 b.mem.grade frame = BitVec.ofNat 2 value
          ∧ ∀ a, a / 2 ^ 19 = frame → b.mem.byteAt none none a = 0)))

/-- R300, R412 to R414, R223: SUSPEND makes a pre-emption pending on every running node of its VF, RESUME withdraws what it
alone made pending; MIGRATE_START begins the dirty log, a migration settles once its VF is quiet, is abandoned at its
deadline, and MIGRATE_STOP destroys the keys of a settled VF. A VF settles when all that remains of it has gone out, and its
open landing epochs are abandoned. A shootdown drops every translation and cached line of its range, and is done, with event
0x93, once every write of the VF and of the PF is performed; a copy's chunk that has not left is then read again. What rests
here on the model's own reading is in log entries 61, 81, 92, 94, 128. -/
def Obligations.Suspensions : Prop :=
  (∀ (s : State) (c : PfCmd), c.reserved = 0 → (s.vf c.vf.toNat).present = true →
    let v := c.vf.toNat
    let f := s.vf v
    let gives (i : Instr) (b : State) (code : Nat) : Prop := ∃ t, exec i s = .next t ∧ Replies b t code 0
    let suspends (b : State) (kind : Nat) (m : Option Migration) : Prop := b.vf v = { f with susp := kind, migr := m }
      ∧ b = { s with vfs := b.vfs, hearth := b.hearth }
      ∧ ∀ id n, s.node? id = some n → nodeVf id = v → n.state = .running → n.pendSince = none →
          b.node? id = some { n with pendSince := some s.tb, pendSusp := true }
    (c.value = 0 → ∃ b, gives (.suspend c) b 0 ∧ suspends b 1 f.migr)
    ∧ (c.value = 1 → ∀ g, f.migr = some g →
        ∃ b, gives (.suspend c) b 0 ∧ suspends b 2 (some { g with since := some s.tb, settled := false }))
    ∧ (1 < c.value.toNat ∨ (c.value = 1 ∧ f.migr = none) → gives (.suspend c) s 3)
    ∧ (∃ b, gives (.resume c) b 0 ∧ b = { s with vfs := b.vfs, hearth := b.hearth }
        ∧ b.vf v = { f with susp := 0, migr := f.migr.map fun g => { g with since := none, settled := false } }
        ∧ ∀ id n, s.node? id = some n → nodeVf id = v → b.node? id =
            some (if n.pendSusp then { n with pendSince := none, pendSusp := false } else n))
    ∧ (let ok := c.value.toNat < 64 ∧ c.value2.toNat ≤ 1000 ∧ f.migr = none
       let g : Migration :=
         { module := c.value.toNat, deadlineMs := if c.value2 = 0 then 10 else c.value2.toNat, since := none, settled := false
           dirty := [], round := s.tablePages 3 (s.cfg v 0x01) 0, key := Config.exportKey c.value.toNat v s.tb, seq := 0, off := 0
           blocks := [] }
       (¬ok → gives (.migrateStart c) s 3)
       ∧ (ok → gives (.migrateStart c) ((s.offerKey v c.value.toNat).updVf v fun f => { f with migr := some g }) 0))
    ∧ (c.value = 0 → ∀ g, f.migr = some g → g.settled = true →
        gives (.migrateStop c) ((s.updVf v fun f => { f with km := none, keys := [] }).updVf v fun f =>
          { f with migr := none, susp := 1 }) 0)
    ∧ (c.value = 1 → f.migr.isSome = true → f.susp ≠ 2 →
        gives (.migrateStop c) (s.updVf v fun f => { f with migr := none }) 0)
    ∧ (f.migr = none ∨ 1 < c.value.toNat → gives (.migrateStop c) s 3))
  ∧ (∀ (s : State) (v : Nat),
    let f := s.vf v
    (∀ g, f.migr = some g →
      let quiet := f.susp = 2 ∧ g.since.isSome = true ∧ g.settled = false ∧ s.quiet v = true
      let late := f.susp = 2 ∧ g.settled = false ∧ ∃ t0, g.since = some t0 ∧ t0 + g.deadlineMs * (1000 * 2700) ≤ s.tb
      (quiet → ∀ b, s.exportRest v = some b → exec (.migrationSettle v) s =
          .next (b.updVf v fun f => { f with
              migr := f.migr.map fun g => { g with settled := true }, landings := f.landings.map fun p => (p.1, p.2.settled) }))
      ∧ (quiet → s.exportRest v = none → exec (.migrationSettle v) s = .next s)
      ∧ (¬quiet → exec (.migrationSettle v) s = .next s)
      ∧ (late → ∃ t, exec (.migrationDeadline v) s = .next t ∧ t = { s with vfs := t.vfs, hearth := t.hearth }
          ∧ t.vf v = { f with migr := none, susp := 0 })
      ∧ (¬late → exec (.migrationDeadline v) s = .next s))
    ∧ (f.migr = none → exec (.migrationSettle v) s = .next s ∧ exec (.migrationDeadline v) s = .next s))
  ∧ ∀ s : State,
    let vf := s.pf.sdReq.toNat / 2 ^ 56
    let base := s.pf.sdReq.toNat % 2 ^ 56
    let inside (va n : Nat) : Prop := s.pf.sdLen = 0 ∨ (va < base + s.pf.sdLen.toNat ∧ base < va + n)
    let clean := ∀ core, ∀ x ∈ (s.core core).l1, (s.core core).l1Bad x = false ∧ (s.vf x.vf).migr = none
      ∧ (∃ k, regionOf x.pa = .hbm k ∨ regionOf x.pa = .cxl k) ∧ s.sight (.stream core) x.vf x.pa x.enc = .plain
      ∧ ∀ c ∈ x.dirty, s.serving (.stream core) c.1 = none
    let r := s.pf.sdRange
    let unlined := ∀ core, ∀ l ∈ (s.core core).l1, ¬(l.vf = r.1 ∧ l.va < r.2.2 ∧ r.2.1 < l.va + 64)
    let dropped (c : Core) : Core :=
      { c with tlb := c.tlb.filter fun e => !(e.vf == r.1 && decide (e.va < r.2.2 ∧ r.2.1 < e.va + pageSize e.level)) }
    let again (c : Core) : Core :=
      if c.vfid = r.1 ∨ c.vfid = 0 then
        { c with load := { c.load with todo := none }, store := { c.store with todo := none } } else c
    (s.pf.sdBusy = true → exec .shootdown s = .next s)
    ∧ (s.pf.sdBusy = false → ∃ t, exec .shootdown s = .next t ∧ t.pf.sdBusy = true ∧ t.pf.sdRange = s.pf.range
        ∧ ∀ core, ∀ e ∈ (t.core core).tlb, ¬(e.vf = vf ∧ e.va < 2 ^ 56 ∧ inside e.va (pageSize e.level)))
    ∧ (s.pf.sdBusy = false → clean → ∃ t, exec .shootdown s = .next t ∧ t.pf = { s.pf with sdBusy := true, sdRange := s.pf.range }
        ∧ t = { s with cores := t.cores, mem := t.mem, pf := t.pf }
        ∧ (∀ core, (∀ e ∈ (t.core core).tlb, e ∈ (s.core core).tlb ∧ ¬(e.vf = vf ∧ e.va < 2 ^ 56 ∧ inside e.va (pageSize e.level)))
          ∧ (∀ l ∈ (t.core core).l1, ¬(l.vf = vf ∧ l.va < 2 ^ 56 ∧ inside l.va 64))
          ∧ (t.core core).c = (s.core core).c ∧ (t.core core).x = (s.core core).x)
        ∧ ∀ view agent pa, (∀ core, agent ≠ some (.stream core)) → t.mem.byteAt view agent pa = s.mem.byteAt view agent pa)
    ∧ (s.pf.sdBusy = true → unlined → s.allPerformed r.1 = true → ∃ t, exec .shootdownDone s = .next t
        ∧ t = { s with cores := t.cores, pf := t.pf } ∧ (∀ core, t.core core = again (dropped (s.core core))) ∧ t.pf.sdBusy = false
        ∧ t.pf.ring.held = s.pf.ring.held ++ [record 0 0x93 0 0 0 0])
    ∧ (s.pf.sdBusy = true → unlined → s.allPerformed r.1 = false → ∃ t, exec .shootdownDone s = .next t
        ∧ t = { s with cores := t.cores } ∧ ∀ core, t.core core = dropped (s.core core))
    ∧ (s.pf.sdBusy = false → exec .shootdownDone s = .next s)

/-! ### Security, boot, debugging, power and links -/

/-- R397, R398: a key-load or key-clear message of a finished session is answered with its first four bytes and a status: 1 a
wrong tag, 2 a VF that is not the session's or a session that the tenant did not establish, 3 an interface not in RUN, 4 a
bad slot or operation, 5 a nonce that does not increase. With status 0 the slot holds the unwrapped key, or none after a
clear, and the nonce is the session's latest; with any other the slot is as before. A message outside such a session does
nothing. That an earlier check hides a later one is the model's choice. R410, R411: from step 8 of the boot table on firmware
answers SPDM: versions 1.2 and 1.3, the certificate of the identity key and its hash, a signature over a nonce and the
measurements, MEAS0 to MEAS15 at indices 1 to 16; KEY_EXCHANGE opens a session, FINISH completes it where its code is right,
and END_SESSION ends it. No request changes a measurement, and before step 8 none is answered. What rests here on the model's
own reading is in log entries 10, 96. -/
def Obligations.KeysAndSessions : Prop :=
  (∀ (s : State) (m : KeyMsg) (i : Instr), i = .keyLoad m ∨ i = .keyClear m →
     (∀ x, s.sec.sessions.lookup m.session = some x → x.finished = true → m.proto = 0xA7 →
       let key := Config.hkdf x.secret keyLabel
       let tagged := Config.gcmTag key m.nonce (keyAad m) (keyText m) = m.tag
       let own := x.tenant = true ∧ m.vf.toNat = m.session
       let run := (s.vf m.session).tdisp = .run
       let named := m.slot.toNat < 64 ∧ (m.op = 1 ∨ m.op = 2)
       let fresh := ∀ n, x.lastNonce = some n → n.toNat < m.nonce.toNat
       let answer (st : Byte) : List (List Byte) := [m.proto, m.op, m.vf, m.slot, st] :: s.sec.answers
       let refuses (st : Byte) : Prop := exec i s = .next { s with sec := { s.sec with answers := answer st } }
       (¬tagged → refuses 1) ∧ (tagged → ¬own → refuses 2) ∧ (tagged → own → ¬run → refuses 3)
         ∧ (tagged → own → run → ¬named → refuses 4) ∧ (tagged → own → run → named → ¬fresh → refuses 5)
         ∧ (tagged → own → run → named → fresh → ∃ t, exec i s = .next t ∧ t = { s with vfs := t.vfs, sec := t.sec }
           ∧ t.sec = { s.sec with answers := answer 0, sessions := t.sec.sessions }
           ∧ (∀ v, t.sec.sessions.lookup v =
               if v = m.session then some { x with lastNonce := some m.nonce } else s.sec.sessions.lookup v)
           ∧ (∀ v, v ≠ m.session → t.vf v = s.vf v)
           ∧ t.vf m.session = { s.vf m.session with keys := (t.vf m.session).keys }
           ∧ ∀ slot, (t.vf m.session).keys.lookup slot =
               if slot = m.slot.toNat then
                 (if m.op = 2 then none else some (bytesWord 512 (Config.gcmOpen key m.nonce (keyText m))))
               else (s.vf m.session).keys.lookup slot))
     ∧ (s.sec.sessions.lookup m.session = none → exec i s = .next s)
     ∧ ∀ x, s.sec.sessions.lookup m.session = some x → x.finished = false ∨ m.proto ≠ 0xA7 → exec i s = .next s)
  ∧ (∀ (s : State) (vf index : Nat) (tenant : Bool) (pub : BitVec 768) (mac : BitVec 512) (nonce : BitVec 256),
     let k := s.sec
     let gives (i : Instr) (code : Nat) (content : List Byte) : Prop :=
       exec i s = .next { s with sec := { k with answers := Config.answer code content :: k.answers } }
     let sets (i : Instr) (code : Nat) (x : Option Session) : Prop := ∃ t, exec i s = .next t
       ∧ t = { s with sec := { k with answers := Config.answer code [] :: k.answers, sessions := t.sec.sessions } }
       ∧ ∀ v, t.sec.sessions.lookup v = if v = vf then x else k.sessions.lookup v
     let text := wordBytes nonce ++ ((List.range 16).map fun i => wordBytes (SMap.get 0 k.meas i)).flatten
     (k.stage = 8 →
       gives .getVersion 0x84 [0x12, 0x13] ∧ gives .getCapabilities 0xE1 [] ∧ gives .negotiateAlgorithms 0xE3 []
       ∧ gives .getDigests 0x81 (wordBytes (Config.sha512 k.certificate)) ∧ gives .getCertificate 0x82 k.certificate
       ∧ (∀ id, k.identity = some id → gives (.challenge nonce) 0x83 (Config.ed25519Sign id text))
       ∧ (k.identity = none → gives (.challenge nonce) 0x83 [])
       ∧ (1 ≤ index → index ≤ 16 → gives (.getMeasurements index) 0xE0 (wordBytes (SMap.get (0 : BitVec 512) k.meas (index - 1))))
       ∧ (index = 0 ∨ 16 < index → gives (.getMeasurements index) 0xFF [])
       ∧ sets (.keyExchange vf tenant pub) 0xE4 (some ⟨tenant, Config.sessionSecret pub vf, false, none⟩)
       ∧ (∀ x, k.sessions.lookup vf = some x → Config.finishOk x.secret mac = true →
           sets (.finish vf mac) 0xE5 (some { x with finished := true }))
       ∧ (∀ x, k.sessions.lookup vf = some x → Config.finishOk x.secret mac = false → exec (.finish vf mac) s = .next s)
       ∧ (k.sessions.lookup vf = none → exec (.finish vf mac) s = .next s)
       ∧ sets (.endSession vf) 0xEC none)
     ∧ (k.stage ≠ 8 → exec .getVersion s = .next s ∧ exec .getCapabilities s = .next s ∧ exec .negotiateAlgorithms s = .next s
       ∧ exec .getDigests s = .next s ∧ exec .getCertificate s = .next s ∧ exec (.challenge nonce) s = .next s
       ∧ exec (.getMeasurements index) s = .next s ∧ exec (.keyExchange vf tenant pub) s = .next s
       ∧ exec (.finish vf mac) s = .next s ∧ exec (.endSession vf) s = .next s))

/-- R407, R408, R405: the interface of a VF follows the TDISP machine. A request of one state from another is a violation of
the protocol: the VF enters ERROR, its begun nodes are aborted and its keys destroyed. STOP_INTERFACE destroys the keys,
fills the VF's encrypted frames with zeros under no key and returns to CONFIG_UNLOCKED; a failed IDE check enters ERROR;
IDE_KM sets a key of key set 0 or 1 of an IDE stream, once firmware answers and a secure session stands. A request for a VF
that does not exist does nothing. What rests here on the model's own reading is in log entries 10, 95, 127. -/
def Obligations.Interfaces : Prop :=
  (∀ (s : State) (vf : Nat),
    let f := s.vf vf
    let moves (i : Instr) (target : Tdisp) : Prop := ∃ t, exec i s = .next t ∧ t = { s with vfs := t.vfs }
      ∧ t.vf vf = { f with tdisp := target } ∧ ∀ o, o ≠ vf → t.vf o = s.vf o
    let fails (i : Instr) : Prop := ∃ t, exec i s = .next t ∧ t = s.enterError vf
      ∧ (t.vf vf).km = none ∧ (t.vf vf).keys = []
      ∧ ((∀ p ∈ s.hearth.nodes, nodeVf (BitVec.ofNat 64 p.1) = vf → p.2.begun = false) →
          t = { s with vfs := t.vfs } ∧ t.vf vf = { f with tdisp := .error, km := none, keys := [] }
            ∧ ∀ o, o ≠ vf → t.vf o = s.vf o)
    (f.present = true →
      (f.tdisp = .unlocked → moves (.lockInterfaceRequest vf) .locked)
      ∧ (f.tdisp = .locked → moves (.startInterfaceRequest vf) .run)
      ∧ (f.tdisp = .locked ∨ f.tdisp = .run → fails (.lockInterfaceRequest vf))
      ∧ (f.tdisp = .unlocked ∨ f.tdisp = .run → fails (.startInterfaceRequest vf))
      ∧ (f.tdisp = .error → exec (.lockInterfaceRequest vf) s = .next s ∧ exec (.startInterfaceRequest vf) s = .next s
          ∧ exec (.ideCheckFailure vf) s = .next s)
      ∧ (f.tdisp ≠ .error → fails (.ideCheckFailure vf))
      ∧ (∃ t, exec (.stopInterface vf) s = .next t ∧ t = { s with vfs := t.vfs, mem := t.mem }
          ∧ t.vf vf = { f with tdisp := .unlocked, km := none, keys := [] } ∧ (∀ o, o ≠ vf → t.vf o = s.vf o)
          ∧ (∀ p, p ∈ t.mem.frameKey ↔ p ∈ s.mem.frameKey ∧ p.2.1 ≠ vf)
          ∧ ∀ p ∈ s.mem.frameKey, p.2.1 = vf → ∀ a, a / 2 ^ 19 = p.1 → t.mem.byteAt none none a = 0)
      ∧ exec (.getDeviceInterfaceReport vf) s = .next { s with
          sec := { s.sec with answers := Config.answer 0x84 (s.interfaceReport vf) :: s.sec.answers } })
    ∧ (f.present = false → exec (.lockInterfaceRequest vf) s = .next s ∧ exec (.startInterfaceRequest vf) s = .next s
        ∧ exec (.stopInterface vf) s = .next s ∧ exec (.ideCheckFailure vf) s = .next s
        ∧ exec (.getDeviceInterfaceReport vf) s = .next s))
  ∧ ∀ (s : State) (stream keyset : Nat) (key : BitVec 256),
    let taken := keyset < 2 ∧ (stream = 0 ∨ (s.vf stream).present = true ∨ stream = 256 ∨ stream = 257) ∧ s.sec.stage = 8
      ∧ ∃ p ∈ s.sec.sessions, p.2.finished = true
    (taken → ∃ t, exec (.ideKm stream keyset key) s = .next t ∧ t = { s with sec := { s.sec with ide := t.sec.ide } }
        ∧ ∀ k, t.sec.ide.lookup k = if k = 2 * stream + keyset then some key else s.sec.ide.lookup k)
    ∧ (¬taken → exec (.ideKm stream keyset key) s = .next s)

/-- R410, R409, R411, R365: boot takes the first image slot whose public key, signature and security version agree with the
fuses; it extends MEAS0 to MEAS2, derives the identity key from the unique secret and locks that secret; it gives the dies
their pools, reserves the metadata frames and measures its configuration into MEAS4; it answers SPDM, and, where every weight
frame agrees with its leaf and every stored node with its children, extends MEAS3 with the root; with both slots bad the
module is in recovery. The base model is replaced only while no node runs, entries of another shape are retired, and the
replacement ends with the last of them. (What firmware sets up at boot is a choice of the model's, log entries 93 and 126.)
What rests here on the model's own reading is in log entries 10, 12, 93, 97, 126, 153. -/
def Obligations.BootAndModel : Prop :=
  (∀ s : State,
    let k := s.sec
    let good (f : FlashSlot) : Prop := Config.sha512 (wordBytes f.pubKey) = k.fuseHash
      ∧ Config.ed25519Ok f.pubKey (Config.sha512 f.image) f.signature = true ∧ k.fuseSvn ≤ f.svn
    let ext (i : Nat) (d : BitVec 512) : BitVec 512 := Config.sha512 (wordBytes (SMap.get (0 : BitVec 512) k.meas i) ++ wordBytes d)
    let boots (f : FlashSlot) : Prop :=
      let m0 := ext 0 (Config.sha512 f.image)
      let m1 := ext 1 (Config.sha512 f.header)
      let m2 := ext 2 (Config.sha512 (wordBytes k.fuseHash ++ leBytes 8 k.fuseSvn ++ [if k.debugLock then 1 else 0]))
      let b : State := State.bringUp { s with sec := k.measureBoot f }
      let whole := (∀ p ∈ k.leaves, ∃ frame, k.weightFrames.lookup p.1 = some frame
          ∧ Config.sha512 (b.mem.readAt none none (frame * 2 ^ 19) (2 ^ 19)) = p.2)
        ∧ b.sec.nodesOk 16 0 (k.leaves.map Prod.snd) = true
      ∃ t, exec .boot s = .next t ∧ t = { s with sec := t.sec, dies := t.dies, mem := t.mem, ports := t.ports } ∧ t.sec.stage = 8
        ∧ (∀ n, n < 64 → t.port n = { s.port n with out := (s.port n).out ++ [linkctlMsg n] })
        ∧ SMap.get 0 t.sec.meas 0 = m0 ∧ SMap.get 0 t.sec.meas 1 = m1
        ∧ SMap.get 0 t.sec.meas 2 = m2 ∧ t.sec.uds = none
        ∧ t.sec.identity = k.uds.map (fun u => Config.identityKey u (Config.sha512 (wordBytes m0 ++ wordBytes m1 ++ wordBytes m2)))
        ∧ SMap.get 0 t.sec.meas 4 = ext 4 Config.firmwareDigest
        ∧ (∀ d, d < 32 → t.die d = (s.die d).withPool d)
        ∧ (∀ f ∈ Config.metadataFrames, SMap.get false t.mem.reserved f = true)
        ∧ (whole → SMap.get 0 t.sec.meas 3 = ext 3 (hashRoot 16 (k.leaves.map Prod.snd))
            ∧ t.sec.root = some (hashRoot 16 (k.leaves.map Prod.snd)))
        ∧ (¬whole → SMap.get (0 : BitVec 512) t.sec.meas 3 = SMap.get 0 k.meas 3 ∧ t.sec.root = k.root)
    (k.stage = 0 → (good k.slotA → boots k.slotA) ∧ (¬good k.slotA → good k.slotB → boots k.slotB)
      ∧ (¬good k.slotA → ¬good k.slotB → exec .boot s = .next { s with sec := { k with stage := 9 } }))
    ∧ (k.stage ≠ 0 → exec .boot s = .next s))
  ∧ ∀ (s : State) (hash : Dword),
    let idle := (∀ p ∈ s.hearth.nodes, p.2.state ≠ .running) ∧ s.sec.nextBase = none
    let b := { s with sec := { s.sec with nextBase := some hash } }
    let waits := ∃ r ∈ s.hearth.retires, r.cause = 2
    (¬idle → exec (.baseModelReplace hash) s = .next s)
    ∧ (idle → (∀ v ∈ s.vfs, ∀ p ∈ v.2.adapters, p.2.ver = 0 ∨ p.2.compat = hash) →
        (¬waits → exec (.baseModelReplace hash) s = .next { s with sec := { s.sec with abase := hash } })
        ∧ (waits → exec (.baseModelReplace hash) s = .next b))
    ∧ (idle → ∀ vf f i e, s.vfs = [(vf, f)] → f.adapters = [(i, e)] → e.ver ≠ 0 → e.compat ≠ hash →
        let c := b.retire vf i 2 false
        ∃ t, exec (.baseModelReplace hash) s = .next t ∧ t = { c with sec := t.sec }
          ∧ (t.adapter vf i).state = 3
          ∧ ((∀ r ∈ c.hearth.retires, r.cause ≠ 2) → t.sec.abase = hash ∧ t.sec.nextBase = none)
          ∧ ((∃ r ∈ c.hearth.retires, r.cause = 2) → t.sec = c.sec))

/-- R430 to R432: a debugger attaches to a core where the fuse lock is open and the core's VF is in CONFIG_UNLOCKED; a halt
stops every core of the node, which keeps its cores and its context; a read answers with the bytes of the context area; a
write replaces the architectural value, and a queue's whole contents, and reaches no other core but that on which a fused
array stands; resumption is refused, with the offset of the first one reported, where a context breaks an invariant; a single
step frees one stream of the halted core alone. What rests here on the model's own reading is in log entries 77, 83, 84. -/
def Obligations.Debugging : Prop :=
  ∀ (s : State) (core : Nat),
    let c := s.core core
    let open_ := s.sec.debugLock = false ∧ ∀ id, c.node = some id → (s.vf (nodeVf id)).tdisp = .unlocked
    let group := s.nodeCores core
    let halts := c.dbg.attached = true ∧ open_ ∧ c.dbg.halted = false
      ∧ (c.node.isSome = true ∨ c.c.run = true ∨ c.x.run = true)
    let may := c.dbg.attached = true ∧ c.dbg.halted = true ∧ open_
    (open_ → ∃ t, exec (.debugAttach core) s = .next t ∧ OnlyCore s t core ∧ t.issue = s.issue
        ∧ t.core core = { c with dbg := { c.dbg with attached := true } })
    ∧ (¬open_ → exec (.debugAttach core) s = .next s)
    ∧ (halts → (∀ d ∈ group, ∀ p ∈ (s.core d).probe, p.2.state ≠ 1) → ∃ t, exec (.debugHalt core) s = .next t
        ∧ (∀ d, d ∉ group → t.core d = s.core d)
        ∧ ∀ d ∈ group, (t.core d).dbg = { (s.core d).dbg with halted := true, only := none, waiting := (t.core d).dbg.waiting } ∧ (t.core d).node = (s.core d).node
          ∧ (t.core d).c = { (s.core d).c with wait := none } ∧ (t.core d).x = { (s.core d).x with wait := none }
          ∧ (t.core d).vec = (s.core d).vec ∧ (t.core d).csr = (s.core d).csr ∧ (t.core d).quad = (s.core d).quad
          ∧ (t.core d).saveTb = s.tb ∧ (t.core d).saveCause = 2
          ∧ (t.core d).sp = (s.core d).sp ∧ (t.core d).sems = (s.core d).sems ∧ (t.core d).slots = (s.core d).slots
          ∧ ∀ q, (t.core d).eng q = { (s.core d).eng q with wait := none, todo := none })
    ∧ (¬halts → exec (.debugHalt core) s = .next s)
    ∧ (may → ∀ off len, exec (.debugContextWrite core (.read off len)) s =
        .next { s with sec := { s.sec with answers := s.ctxBytes core off len :: s.sec.answers } })
    ∧ (may → ∀ w : CtxWrite, (∀ off len, w ≠ .read off len) →
        ∃ t, exec (.debugContextWrite core w) s = .next t ∧ t = { s with cores := t.cores }
        ∧ (∀ d, d ≠ core → t.core d = if c.quad.role ≠ 0 ∧ c.quad.pending = false ∧ d = c.quad.lead then
            { s.core d with quad := (t.core d).quad } else s.core d)
        ∧ (t.core core).dbg = { c.dbg with raw := (t.core core).dbg.raw, waiting := (t.core core).dbg.waiting }
        ∧ (t.core core).node = c.node
        ∧ (∀ i v, w = .waiting i v → i < 32 → (t.core core).dbg.waiting.getD i 0 = v)
        ∧ ((∀ i v, w ≠ .waiting i v) → (t.core core).dbg.waiting = c.dbg.waiting)
        ∧ (∀ b i v, w = .acc b i v → c.quad.role = 0 →
            (t.core core).quad = c.quad.updBank b fun k => { k with acc := SMap.set 0 k.acc i v })
        ∧ (∀ x r v, w = .scalar x false r v → r ≠ 0 → ({ (t.core core).stream x with mode := .node } : Stream).reg r = v)
        ∧ (∀ x r v, w = .scalar x true r v → 24 ≤ r.toNat → ({ (t.core core).stream x with mode := .handler } : Stream).reg r = v)
        ∧ (∀ x v, w = .pc x v → (t.core core).stream x = { c.stream x with pc := v, gpc := v })
        ∧ (∀ k v, w = .mask k v → ∀ j, (t.core core).mask j = if j = k ∧ k ≠ 0 then v else c.mask j)
        ∧ (∀ q l, w = .queue q l → ∀ p : Nat, (t.core core).queue p = if p = q.toNat then l else c.queue p)
        ∧ (∀ toX l, w = .controlQueue toX l → (t.core core).vec.toX = (if toX then l else c.vec.toX)
            ∧ (t.core core).vec.toC = if toX then c.vec.toC else l)
        ∧ (∀ n a b, w = .semaphore n a b → ∀ j, (t.core core).sem j = if j = n.toNat then ⟨a, b⟩ else c.sem j)
        ∧ (∀ a v, w = .scratchpad a v → a < c.spBytes → ∀ j, (t.core core).sp.byte j = if j = a then v else c.sp.byte j)
        ∧ (∀ q v, w = .step q v → (t.core core).eng q = { c.eng q with step := v.toNat })
        ∧ (∀ q h l, w = .engine q h l → (∀ k ∈ l, (ctxCmd q k).isSome = true) →
            (t.core core).eng q = { c.eng q with head := h, cmds := l.filterMap (ctxCmd q) })
        ∧ (∀ q, (∀ v, w ≠ .step q v) → (∀ h l, w ≠ .engine q h l) → (∀ i v, w ≠ .faultField q i v) → (∀ f, w ≠ .fault q f) →
            (∀ a b l, w ≠ .latch q a b l) → (∀ v, w ≠ .tailSignal q v) → (t.core core).eng q = c.eng q))
    ∧ (¬may → ∀ w, exec (.debugContextWrite core w) s = .next s)
    ∧ (c.dbg.halted = false → exec (.debugResume core) s = .next s ∧ ∀ x, exec (.debugSingleStep core x) s = .next s)
    ∧ (¬open_ → ∀ x, exec (.debugSingleStep core x) s = .next s)
    ∧ (c.dbg.halted = true → (∀ d ∈ group, s.badOffset d = none) →
        (∃ t, exec (.debugResume core) s = .next t ∧ t = { s with cores := t.cores } ∧ ∀ d, t.core d =
          if d ∈ group then { s.core d with dbg := { (s.core d).dbg with halted := false, only := none } } else s.core d)
        ∧ ∀ x, open_ → ∃ t, exec (.debugSingleStep core x) s = .next t ∧ OnlyCore s t core ∧ t.issue = s.issue
          ∧ t.core core = { c with dbg := { c.dbg with only := some x } })
    ∧ (c.dbg.halted = true → ∀ d ∈ group,
        ((∃ n, n < 32 ∧ ((s.core d).sem n).ceiling.toNat < ((s.core d).sem n).count.toNat) ∨ (∃ q, q < 32 ∧ 4 < ((s.core d).queue q).length)
          ∨ (s.core d).dbg.raw ≠ [] ∨ (s.core d).c.pc.toNat % 4 ≠ 0 ∨ (s.core d).x.pc.toNat % 4 ≠ 0
          ∨ 16 < (s.core d).vec.toX.length ∨ 16 < (s.core d).vec.toC.length ∨ 64 < (s.core d).load.cmds.length
          ∨ 64 < (s.core d).store.cmds.length ∨ 64 < (s.core d).matrix.cmds.length ∨ 16 < (s.core d).backfill.cmds.length
          ∨ vtypeOk (s.core d).vec.vtype = false) →
        (s.badOffset d).isSome = true)
    ∧ (c.dbg.halted = true → ∀ o, group.findSome? s.badOffset = some o →
        ∀ i, (i = .debugResume core ∨ ∃ x, open_ ∧ i = .debugSingleStep core x) →
          exec i s = .next { s with sec := { s.sec with answers := leBytes 4 o :: s.sec.answers } })

/-- R452, R453, R443: a change of a die's throttle, of nine levels, posts event 0x95, with INDEX 0 as R311 has it; a die that
trips takes no dispatch, and a node with a core on it rolls back, with event 0x90, or where it cannot ends with status 8, and
firmware in device mode traps with 0x72; a loss of coolant trips every die; the trip is cleared below 95 °C; and a CXL link
that goes down posts event 0x94 once. What rests here on the model's own reading is in log entry 99. -/
def Obligations.PowerAndCooling : Prop :=
  ∀ (s : State) (die level : Nat),
    let hot (k : Die) : Die := { k with trip := true, temp := max k.temp 115 }
    (8 < level ∨ (s.die die).throttle = level → exec (.throttleChange die level) s = .next s)
    ∧ (level ≤ 8 → (s.die die).throttle ≠ level → ∃ t, exec (.throttleChange die level) s = .next t
        ∧ t = { s with dies := t.dies, pf := t.pf } ∧ t.die die = { s.die die with throttle := level }
        ∧ (∀ d, d ≠ die → t.die d = s.die d) ∧ t.pf.ring.held = s.pf.ring.held ++ [record 0 0x95 0 0 0 0])
    ∧ (s.nodesOn die = [] → ∃ t, exec (.dieTrip die) s = .next t ∧ t = { s with dies := t.dies }
        ∧ t.die die = hot (s.die die) ∧ ∀ d, d ≠ die → t.die d = s.die d)
    ∧ (∀ id n, s.nodesOn die = [id] → s.node? id = some n → n.state = .running → descType n.desc ≠ 2 →
        (∀ p, n.check = some p → p.kv = []) → n.alog = [] →
        n.members = [] → s.hearth.rewinds = [] → s.hearth.retires = [] →
        (∀ p ∈ s.cores, dieOf p.1 = die → p.2.c.mode ≠ .device) → ∀ r, s.graph? (graphKey id) = some r → r.complete = false →
        let ring (t : State) := (SMap.get .init (t.vf (nodeVf id)).rings r.ring).held
        let free (t : State) : Prop :=
          ∀ c ∈ n.cores, (t.core c).node = none ∧ (t.core c).c.run = false ∧ (t.core c).x.run = false
        let again := descRst n.desc = true ∧ n.rollbacks < 3 ∧ n.check.isSome = true
        (¬again → s.owes id n.cores = false → ∃ t n', exec (.dieTrip die) s = .next t ∧ (t.die die).trip = true
          ∧ t.node? id = some n' ∧ n'.state = .ended 8 ∧ n'.cores = [] ∧ free t
          ∧ ∃ more, ring t = ring s ++ record id 8 0x72 0 0 (s.stepWord id) :: more)
        ∧ (again → ∃ t n', exec (.dieTrip die) s = .next t ∧ (t.die die).trip = true
          ∧ t.node? id = some n' ∧ n'.state = .rolledBack ∧ n'.rollbacks = n.rollbacks + 1 ∧ n'.cores = [] ∧ free t
          ∧ ring t = ring s ++ [record id 0x90 0x72 0 (n.rollbacks + 1) (s.stepWord id)]))
    ∧ (∀ id core, (s.cores.filter fun p => dieOf p.1 == die && p.2.node.isSome) = [(core, s.core core)] → (s.core core).node = some id →
        (s.core core).c.mode = .device →
        exec (.dieTrip die) s = .next ((s.updDie die hot).preciseTrap core false ⟨0x72, 0, .zero, []⟩))
    ∧ ((∀ p ∈ s.cores, p.2.node = none) → ∃ t, exec .coolantLoss s = .next t ∧ t = { s with dies := t.dies }
        ∧ ∀ d, d < 32 → t.die d = hot (s.die d))
    ∧ (∃ t, exec (.tripClear die) s = .next t ∧ t = { s with dies := t.dies }
        ∧ t.die die = { s.die die with trip := false, temp := min (s.die die).temp 94 } ∧ ∀ d, d ≠ die → t.die d = s.die d)
    ∧ (SMap.get false s.mem.cxlDown die = true → exec (.cxlLinkDown die) s = .next s)
    ∧ (SMap.get false s.mem.cxlDown die = false → ∃ t, exec (.cxlLinkDown die) s = .next t
        ∧ t = { s with mem := { s.mem with cxlDown := t.mem.cxlDown }, pf := t.pf }
        ∧ (∀ p, SMap.get false t.mem.cxlDown p = if p = die then true else SMap.get false s.mem.cxlDown p)
        ∧ t.pf.ring.held = s.pf.ring.held ++ [record 0 0x94 0 0 (64 + die) 0])

/-- R446, R444: a flit with a bad CRC, a reserved KIND or an unexpected SEQ is discarded, a replay request and an idle flit
among them, and the first one discarded is answered with a replay request that says what the port would say now: the ACK of
the latest good flit, if there has been one, and its PAUSE; a replay whose first counted flit is discarded again has failed,
and the eighth failure in a row takes the port down, with event 0x94. A good flit's ACK frees the retry buffer up to the flit
that it names, and its PAUSE holds but for channels 1 and 7; a replay request sends every counted flit of the buffer again,
in order. R447 to R450: a message that comes in order is taken, and its flit's SEQ becomes the port's. A READ is answered
with the data of the target VF's address EXPBASE + o, a WRITE with an acknowledgement once it is performed at the homes, an
AMO with the old value, with status 1 and poison where the access fails and status 2 where nothing is exported; a response
reaches the request whose tag it carries, one that refuses it with poison; a MIGRATE joins the stream of its VF, and what its
tag covers is taken in where the tag matches (R412, R414); MGMT waits in the receive buffer of its channel, whose PAUSE rises
above 48 KiB and falls below 32 KiB; LINKCTL names the partner; a message of a reserved opcode takes the port down; and one
that opens a flit with an unexpected SEQ is discarded with it. What rests here on the model's own reading is in log entries
73, 98, 128, 144. -/
def Obligations.LinkTraffic : Prop :=
  (∀ (s : State) (port : Nat) (f : Flit),
     let p := s.port port
     let good := crc64 (flitBytes f) = f.crc
     let only (t : State) : Prop := t = { s with ports := t.ports } ∧ ∀ o, o ≠ port → t.port o = s.port o
     let asks (t : State) (fails : Nat) : Prop := ∃ r : Flit, r.kind = 2 ∧ r.seq = p.txSeq
       ∧ r.ack = (if p.heard then p.rxSeq else 0) ∧ r.av = p.heard ∧ r.pause = p.pausing
       ∧ r.slots = 0 ∧ crc64 (flitBytes r) = r.crc
       ∧ t.port port = { p with wire := p.wire ++ [r], told := (r.ack, r.av, r.pause), awaiting := true, fails := fails }
     let counted := f.kind = 1 ∨ f.kind = 3
     let discards (i : Instr) : Prop :=
       (p.down = true → exec i s = .next s)
       ∧ (p.down = false → p.awaiting = false → ∃ t, exec i s = .next t ∧ only t ∧ asks t p.fails)
       ∧ (p.down = false → p.awaiting = true → ¬(counted ∧ f.seq = p.rxSeq + 1) → exec i s = .next s)
       ∧ (p.down = false → p.awaiting = true → counted → f.seq = p.rxSeq + 1 → p.fails + 1 < 8 →
           ∃ t, exec i s = .next t ∧ only t ∧ asks t (p.fails + 1))
       ∧ (p.down = false → p.awaiting = true → counted → f.seq = p.rxSeq + 1 → 8 ≤ p.fails + 1 →
           (∀ q ∈ s.hearth.nodes, q.2.isEnding = false) →
           ∃ t, exec i s = .next t ∧ (t.port port).down = true ∧ (t.port port).out = [] ∧ (t.port port).sent = []
             ∧ t.pf.ring.held = s.pf.ring.held ++ [record 0 0x94 0 0 port 0]
             ∧ ∀ r ∈ t.peers, r.port = port → r.resp.isSome = true)
     let hears (t : State) (wire : List Flit → List Flit) : Prop := only t
       ∧ t.port port = { p with paused := f.pause &&& 0x7D, retry := (t.port port).retry, wire := p.wire ++ wire (t.port port).retry }
       ∧ (f.av = false → (t.port port).retry = p.retry)
       ∧ (f.av = true → (∀ g ∈ p.retry, g.seq ≠ f.ack) → (t.port port).retry = p.retry)
       ∧ (f.av = true → ∀ a g b, p.retry = a ++ g :: b → g.seq = f.ack → (∀ h ∈ a, h.seq ≠ f.ack) → (t.port port).retry = b)
     let expected := if counted then p.rxSeq + 1 else p.rxSeq
     (good ∧ f.kind.toNat < 4 ∧ f.seq = expected → exec (.badFlit port f) s = .next s)
     ∧ (¬(good ∧ f.kind.toNat < 4 ∧ f.seq = expected) → discards (.badFlit port f))
     ∧ (p.down = true → exec (.replayRequest port f) s = .next s ∧ exec (.idleFlit port f) s = .next s)
     ∧ (p.down = false → good → f.kind = 2 → f.seq = p.rxSeq → ∃ t, exec (.replayRequest port f) s = .next t ∧ hears t fun l => l)
     ∧ (p.down = false → good → f.kind = 0 → f.seq = p.rxSeq → ∃ t, exec (.idleFlit port f) s = .next t ∧ hears t fun _ => [])
     ∧ (¬(good ∧ f.kind = 2 ∧ f.seq = p.rxSeq) → discards (.replayRequest port f))
     ∧ (¬(good ∧ f.kind = 0 ∧ f.seq = p.rxSeq) → discards (.idleFlit port f)))
  ∧ (∀ (s : State) (port : Nat) (m : LinkMsg),
     let p := s.port port
     let taken := p.down = false ∧ if m.first then m.seq = p.rxSeq + 1 else m.seq = p.rxSeq
     let b := if m.first then
       s.updPort port fun p => { p.hear m.ack m.pause with rxSeq := m.seq, awaiting := false, fails := 0, heard := true } else s
     let settled := ∀ q ∈ s.hearth.nodes, q.2.isEnding = false
     let e := SMap.get (0, 0) s.pf.exportTo (256 * m.srcMod.toNat + m.vf.toNat)
     let va := e.2.toNat + m.addr.toNat
     let answers (i : Instr) (c : State) (op : Byte) (code : Nat) (body : BitVec 640) : Prop := ∃ t, exec i s = .next t
       ∧ t = { c with ports := t.ports } ∧ (∀ o, o ≠ port → t.port o = c.port o)
       ∧ t.port port = { c.port port with out := (c.port port).out ++ [(op, { m with
           vc := 1, poison := code != 0 && (op == 0x02 || op == 0x06), acquire := false, release := false, flag3 := false, code := BitVec.ofNat 8 code
           addr := 0, body := body })] }
     let replies (i : Instr) (data : Option (List Byte)) : Prop :=
       ((b.port port).sent.lookup m.tag.toNat = none → exec i s = .next b)
       ∧ ∀ z, (b.port port).sent.lookup m.tag.toNat = some z → settled → ∃ t, exec i s = .next t
         ∧ t = { b with peers := t.peers, ports := t.ports }
         ∧ (t.port port).sent.lookup m.tag.toNat = none
         ∧ let named (r : PeerReq) : Bool := r.port == port && r.tag == m.tag && r.resp.isNone
           (m.code ≠ 0 → t.peers = (b.peers.filter fun r => !(named r && r.write && r.agent.tlbCore.isNone)).map fun r =>
             if named r = true then { r with resp := some ([], true) } else r)
           ∧ (m.code = 0 → t.peers = match data with
             | some d => (b.peers.filter fun r => !(named r && r.write)).map fun r => if named r = true then
                 { r with resp := some (d, m.poison) } else r
             | none => b.peers.filter fun r => !named r)
     let data := (List.range (2 ^ m.size.toNat)).map fun j => m.body.extractLsb' (8 * j) 8
     (taken →
       (e.1 = 0 → answers (.read port m) b 0x02 2 0 ∧ answers (.write port m) b 0x04 2 0 ∧ answers (.amo port m) b 0x06 2 0)
       ∧ (e.1 ≠ 0 →
         (∀ c bytes, b.readVa (.peer m.srcMod.toNat) e.1 va (2 ^ m.size.toNat) .read true = .ok (c, bytes) →
           answers (.read port m) c 0x02 0 (BitVec.ofNat 640 (leNat bytes)))
         ∧ (∀ x, b.readVa (.peer m.srcMod.toNat) e.1 va (2 ^ m.size.toNat) .read true = .error (.trap x) →
           answers (.read port m) (b.applySides x.sides) 0x02 1 0)
         ∧ (∀ c, b.peerStore m e.1 va = .ok c → answers (.write port m) c 0x04 0 0)
         ∧ (∀ x, b.peerStore m e.1 va = .error (.trap x) → answers (.write port m) (b.applySides x.sides) 0x04 1 0)
         ∧ (∀ c l, checkSpace va (2 ^ m.size.toNat) .write = .ok () → b.translate (.peer m.srcMod.toNat) e.1 va .write true = .ok (c, l) →
           m.poison = false → l.pa % 64 + 2 ^ m.size.toNat ≤ 64 → (∃ k, regionOf l.pa = .hbm k ∨ regionOf l.pa = .cxl k) →
           c.mem.frameKey.lookup (l.pa / 2 ^ 19) = none → SMap.get 0 c.mem.poison (l.pa / 64) = 0 →
           c.mem.latent.lookup (l.pa / 64) = none →
           ∃ d, b.peerStore m e.1 va = .ok d ∧ ∀ w ∈ writeBytes m, d.mem.byteAt none none (l.pa + w.1) = w.2)
         ∧ (let o := amoOfMsg m va
            (checkSpace va o.size .amo = .ok () → va % o.size ≠ 0 → answers (.amo port m) b 0x06 1 0)
            ∧ (checkSpace va o.size .amo = .ok () → va % o.size = 0 → ∀ c l d old fl,
               b.translate (.peer m.srcMod.toNat) e.1 va .amo true = .ok (c, l) →
               c.amoHome (.peer m.srcMod.toNat) e.1 l o 0 = .ok (d, old, fl) → answers (.amo port m) d 0x06 0 (BitVec.ofNat 640 old))))
       ∧ replies (.readRsp port m) (some data) ∧ replies (.amoRsp port m)
           (some ((List.range 8).map fun j => m.body.extractLsb' (8 * j) 8))
       ∧ replies (.writeAck port m) none ∧ replies (.reduceAck port m) none
       ∧ (let c := (b.importOf m.srcMod.toNat m.vf.toNat m.addr.toNat).1
          let g := (b.importOf m.srcMod.toNat m.vf.toNat m.addr.toNat).2
          let next := (c.vf m.vf.toNat).present = true ∧ m.addr.toNat = g.off
          let piece : BitVec 512 := m.body.extractLsb' 128 512
          let seq : Dword := m.body.extractLsb' 0 64
          let now (g : Import) : State := c.setImport m.vf.toNat g
          (¬next → exec (.migrate port m) s = .next c)
          ∧ (next → m.flag3 = false → exec (.migrate port m) s =
              .next (now { g with off := g.off + 64, text := g.text ++ (List.range 64).map fun j => piece.extractLsb' (8 * j) 8 }))
          ∧ (next → m.flag3 = true → Config.gcmTag64 g.key seq g.text ≠ piece.setWidth 128 →
              exec (.migrate port m) s = .next (now { g with off := g.off + 64, text := [] }))
          ∧ (next → m.flag3 = true → Config.gcmTag64 g.key seq g.text = piece.setWidth 128 →
              exec (.migrate port m) s = .next (c.importItem m.vf.toNat { g with off := g.off + 64, text := [] }
                (.of (m.body.extractLsb' 64 64)) (Config.gcmOpen64 g.key seq g.text))))
       ∧ (∃ t, exec (.mgmt port m) s = .next t ∧ t = { b with ports := t.ports } ∧ (∀ o, o ≠ port → t.port o = b.port o)
           ∧ let q := t.port port
             q = { b.port port with held := (b.port port).held ++ [(0x0A, m)], pausing := q.pausing }
             ∧ ∀ v, v < 8 →
               let level := ((q.held.filter fun x => x.2.vc.toNat == v).map fun x =>
                 16 * msgSlots x.1.toNat x.2.size.toNat x.2.code.toNat).sum
               q.pausing.getLsbD v = if v = 1 ∨ v = 7 then (b.port port).pausing.getLsbD v
                 else if 48 * 1024 < level then true else if level < 32 * 1024 then false else (b.port port).pausing.getLsbD v)
       ∧ (∃ t, exec (.linkctl port m) s = .next t ∧ t = { b with ports := t.ports }
           ∧ t.port port = { b.port port with partner := m.body.extractLsb' 0 128 })
       ∧ (settled → ∃ t, exec (.reservedMessage port m) s = .next t ∧ (t.port port).down = true ∧ (t.port port).out = []
           ∧ t.pf.ring.held = s.pf.ring.held ++ [record 0 0x94 0 0 port 0]
           ∧ ∀ r ∈ t.peers, r.port = port → r.resp.isSome = true))
     ∧ (∀ i, (i = .read port m ∨ i = .write port m ∨ i = .amo port m
         ∨ i = .readRsp port m ∨ i = .writeAck port m ∨ i = .amoRsp port m ∨ i = .reduceAck port m ∨ i = .migrate port m
         ∨ i = .mgmt port m ∨ i = .linkctl port m ∨ i = .reservedMessage port m) →
         (p.down = true ∨ (m.first = false ∧ m.seq ≠ p.rxSeq) → exec i s = .next s)
         ∧ (p.down = false → m.first = true → m.seq ≠ p.rxSeq + 1 →
             (p.awaiting = true → exec i s = .next s)
             ∧ (p.awaiting = false → ∃ t, exec i s = .next t ∧ t = { s with ports := t.ports } ∧ (∀ o, o ≠ port → t.port o = s.port o)
                 ∧ (t.port port).awaiting = true ∧ (t.port port).fails = p.fails
                 ∧ ∃ r : Flit, (t.port port).wire = p.wire ++ [r] ∧ r.kind = 2))))

/-! ### Reset, and what every step keeps -/

/-- R83, R112, R180, R196, R219, R256, R287, R313, R323, R366, R418, R435, R439, R411: right after reset each CSR to which its
chapter gives a reset value of its own reads as that value on every core, the registers of the PF and of every VF read 0 but
for PWRCAP, and every measurement is zero. -/
def Obligations.ResetValues : Prop :=
  (∀ (core : Nat) (x : Bool), core < 2048 →
    let s := { State.reset with cur := core, curX := x }
    (∀ n ∈ [0x006, 0x011, 0x012, 0x013, 0x014, 0x020, 0x021, 0x022, 0x023, 0x024, 0x025, 0x026, 0x030, 0x040, 0x041, 0x042, 0x043,
        0x044, 0x045, 0x046, 0x180, 0x181, 0x242, 0x243, 0x244], s.csr? n = some 0)
    ∧ (∀ n ∈ [0x280, 0x281, 0x282, 0x283, 0x284, 0x285, 0x286, 0x287, 0x288, 0x289, 0x2C1, 0x2C2, 0x302, 0x303, 0x305, 0x345, 0x383,
        0x3C0, 0x3C1, 0x3C2, 0x3C3, 0x3C4, 0x3C5, 0x3C6, 0x3C7, 0x3C8, 0x3C9, 0x3CA, 0x3CC], s.csr? n = some 0)
    ∧ s.csr? 0x000 = some (BitVec.ofNat 64 core) ∧ s.csr? 0x202 = some 0x00FFFFFFFFE00000
    ∧ (x = true → s.csr? 0x101 = some 0 ∧ s.csr? 0x344 = some 0 ∧ ∀ i, i < 32 → s.csr? (0x360 + i) = some 0x7F800000))
  ∧ (let p := State.reset.pf
     p.cmdAddr = 0 ∧ p.cmdStat = 0 ∧ p.sdReq = 0 ∧ p.sdLen = 0 ∧ p.sdBusy = false ∧ p.pwrCap = 15000
      ∧ p.ring.base = 0 ∧ p.ring.cfg = 0 ∧ p.ring.head = 0 ∧ p.ring.tail = 0)
  ∧ (∀ vf q : Nat, vf ≠ 0 → let k := State.reset.sq vf q
      let g := State.reset.ring vf q
      k.base = 0 ∧ k.cfg = 0 ∧ k.head = 0 ∧ k.err = false ∧ k.resetting = false
        ∧ g.base = 0 ∧ g.cfg = 0 ∧ g.head = 0 ∧ g.tail = 0 ∧ (State.reset.vf vf).adstat = 0
        ∧ (State.reset.vf vf).tdisp = .unlocked)
  ∧ ∀ i, SMap.get (0 : BitVec 512) State.reset.sec.meas i = 0

/-- Memory at reset, and host memory, is in its canonical form, and the memory system's log is in order. (The model's own
form of memory.) -/
def Obligations.CanonicalAtReset : Prop := Canonical State.reset ∧ State.reset.mem.ordered

/-- Every step keeps device memory and host memory in their canonical form, and the memory system's log of writes in the
order of their numbers: no byte is listed twice, none that equals what an unlisted byte reads as, and no write is lost behind
another of its number (R261, R262). -/
def Obligations.StepKeepsCanonical : Prop :=
  ∀ s t : State, Canonical s → s.mem.ordered → step s = .next t → Canonical t ∧ t.mem.ordered
end

