-- ==== Sys2Proof/Laws/Map.lean ====
section
/-! SUPPORT. Laws of the sparse tables: reading after writing, and the canonical form kept by every operation. -/

namespace Sys2Proof

variable {α : Type}

/-! ### Reading after writing -/

/-- Looking a key up in a list of pairs, one pair at a time. -/
theorem lookup_cons_ite (j i : Nat) (w : α) (t : List (Nat × α)) :
    List.lookup j ((i, w) :: t) = if j = i then some w else List.lookup j t := by
  rw [List.lookup_cons]
  by_cases h : j = i
  · simp [h]
  · have : (j == i) = false := by simp [h]
    simp only [this, h, if_false]

/-- What a table with a new pair answers. -/
theorem SMap.lookup_insert (k : Nat) (v : α) (m : SMap α) (h : m.lookup k = none) (j : Nat) :
    (SMap.insert k v m).lookup j = if j = k then some v else m.lookup j := by
  induction m with
  | nil => rw [SMap.insert, lookup_cons_ite]
  | cons p t ih =>
    obtain ⟨i, w⟩ := p
    rw [lookup_cons_ite] at h
    have hi : k ≠ i := by rintro rfl; simp at h
    rw [if_neg hi] at h
    unfold SMap.insert
    split
    · rw [lookup_cons_ite]
    · rw [lookup_cons_ite, lookup_cons_ite, ih h]
      by_cases e : j = i
      · have : j ≠ k := by omega
        simp [e, Ne.symm hi]
      · simp only [e, if_false]

/-- A removed key is absent, and the others stay. -/
theorem SMap.lookup_erase (m : SMap α) (k j : Nat) : (m.erase k).lookup j = if j = k then none else m.lookup j := by
  induction m with
  | nil => by_cases h : j = k <;> simp [h, SMap.erase]
  | cons p t ih =>
    obtain ⟨i, w⟩ := p
    unfold SMap.erase at ih ⊢
    by_cases e : i = k
    · rw [List.filter_cons_of_neg (by simp [e]), ih, lookup_cons_ite]
      by_cases f : j = k
      · simp only [f, if_true]
      · have : j ≠ i := by omega
        simp only [f, this, if_false]
    · rw [List.filter_cons_of_pos (by simp [e]), lookup_cons_ite, lookup_cons_ite, ih]
      by_cases f : j = i
      · have : j ≠ k := by omega
        simp only [f, if_true, e, if_false]
      · simp only [f, if_false]

/-- Reading the key that was written. -/
@[simp] theorem SMap.get_set_self [DecidableEq α] (d : α) (m : SMap α) (k : Nat) (v : α) :
    SMap.get d (SMap.set d m k v) k = v := by
  unfold SMap.get SMap.set
  split
  · next h => rw [SMap.lookup_erase, if_pos rfl, h]; rfl
  · rw [SMap.lookup_insert _ _ _ (by rw [SMap.lookup_erase, if_pos rfl]), if_pos rfl]; rfl

/-- Reading another key than the one that was written. -/
theorem SMap.get_set_ne [DecidableEq α] (d : α) (m : SMap α) (k j : Nat) (v : α) (h : j ≠ k) :
    SMap.get d (SMap.set d m k v) j = SMap.get d m j := by
  unfold SMap.get SMap.set
  split
  · rw [SMap.lookup_erase, if_neg h]
  · rw [SMap.lookup_insert _ _ _ (by rw [SMap.lookup_erase, if_pos rfl]), if_neg h, SMap.lookup_erase, if_neg h]

/-- Reading any key after a write. -/
theorem SMap.get_set [DecidableEq α] (d : α) (m : SMap α) (k j : Nat) (v : α) :
    SMap.get d (SMap.set d m k v) j = if j = k then v else SMap.get d m j := by
  split
  · next h => subst h; simp
  · next h => exact SMap.get_set_ne d m k j v h

/-- An empty table reads as its default. -/
@[simp] theorem SMap.get_nil (d : α) (k : Nat) : SMap.get d [] k = d := rfl

/-! ### The canonical form -/

/-- The keys of a table rise strictly and none of its entries is the default. -/
theorem SMap.wf_iff [DecidableEq α] (d : α) (m : SMap α) :
    SMap.wf d m = true ↔ (m.map Prod.fst).Pairwise (· < ·) ∧ ∀ p ∈ m, p.2 ≠ d := by
  induction m with
  | nil => simp [SMap.wf]
  | cons p t ih =>
    obtain ⟨k, v⟩ := p
    cases t with
    | nil => simp [SMap.wf]
    | cons q u =>
      obtain ⟨j, w⟩ := q
      simp only [SMap.wf, Bool.and_eq_true, decide_eq_true_eq, ih, List.map_cons, List.pairwise_cons, List.mem_cons,
        forall_eq_or_imp, List.mem_map, forall_exists_index, and_imp, forall_apply_eq_imp_iff₂]
      constructor
      · rintro ⟨⟨hk, hv⟩, ⟨⟨hj, hu⟩, hw, hd⟩⟩
        exact ⟨⟨⟨hk, fun p hp => lt_trans hk (hj p hp)⟩, hj, hu⟩, hv, hw, hd⟩
      · rintro ⟨⟨⟨hk, -⟩, hj, hu⟩, hv, hw, hd⟩
        exact ⟨⟨hk, hv⟩, ⟨⟨hj, hu⟩, hw, hd⟩⟩

/-- Removing a key keeps the canonical form. -/
theorem SMap.wf_erase [DecidableEq α] (d : α) (m : SMap α) (k : Nat) (h : SMap.wf d m) : SMap.wf d (m.erase k) := by
  rw [SMap.wf_iff] at h ⊢
  refine ⟨h.1.sublist ((List.filter_sublist).map _), fun p hp => h.2 p (List.mem_filter.mp hp).1⟩

/-- The pairs of a table with a new one. -/
theorem SMap.mem_insert (k : Nat) (v : α) (m : SMap α) (p : Nat × α) :
    p ∈ SMap.insert k v m ↔ p = (k, v) ∨ p ∈ m := by
  induction m with
  | nil => simp [SMap.insert]
  | cons q t ih =>
    obtain ⟨j, w⟩ := q
    unfold SMap.insert
    split
    · simp
    · simp only [List.mem_cons, ih]; tauto

/-- Inserting a key that is absent keeps the keys rising. -/
theorem SMap.insert_sorted (k : Nat) (v : α) (m : SMap α) (h : (m.map Prod.fst).Pairwise (· < ·)) (hk : ∀ p ∈ m, p.1 ≠ k) :
    ((SMap.insert k v m).map Prod.fst).Pairwise (· < ·) := by
  induction m with
  | nil => simp [SMap.insert]
  | cons q t ih =>
    obtain ⟨j, w⟩ := q
    simp only [List.map_cons, List.pairwise_cons, List.mem_map, forall_exists_index, and_imp,
      forall_apply_eq_imp_iff₂] at h
    have hj : j ≠ k := hk (j, w) (by simp)
    unfold SMap.insert
    split
    · next lt =>
      simp only [List.map_cons, List.pairwise_cons, List.mem_cons, List.mem_map, forall_eq_or_imp,
        forall_exists_index, and_imp, forall_apply_eq_imp_iff₂]
      exact ⟨⟨lt, fun p hp => lt_trans lt (h.1 p hp)⟩, h.1, h.2⟩
    · next ge =>
      simp only [List.map_cons, List.pairwise_cons, List.mem_map, forall_exists_index, and_imp,
        forall_apply_eq_imp_iff₂]
      refine ⟨fun p hp => ?_, ih h.2 fun p hp => hk p (by simp [hp])⟩
      rcases (SMap.mem_insert k v t p).mp hp with rfl | hp
      · show j < k; omega
      · exact h.1 p hp

/-- Writing keeps the canonical form. -/
theorem SMap.wf_set [DecidableEq α] (d : α) (m : SMap α) (k : Nat) (v : α) (h : SMap.wf d m) :
    SMap.wf d (SMap.set d m k v) := by
  have he := SMap.wf_erase d m k h
  unfold SMap.set
  split
  · exact he
  · next hv =>
    rw [SMap.wf_iff] at he ⊢
    refine ⟨SMap.insert_sorted k v _ he.1 fun p hp => by simpa [SMap.erase] using (List.mem_filter.mp hp).2, fun p hp => ?_⟩
    rcases (SMap.mem_insert k v _ p).mp hp with rfl | hp
    · exact hv
    · exact he.2 p hp

/-- Changing an entry keeps the canonical form. -/
theorem SMap.wf_upd [DecidableEq α] (d : α) (m : SMap α) (k : Nat) (f : α → α) (h : SMap.wf d m) :
    SMap.wf d (SMap.upd d m k f) := SMap.wf_set d m k _ h

/-! ### Byte memories -/

/-- Storing bytes keeps the canonical form. -/
theorem Memory.wf_write (m : Memory) (a : Nat) (bs : List Byte) (h : Memory.wf m) : Memory.wf (Memory.write m a bs) := by
  induction bs generalizing m a with
  | nil => exact h
  | cons b t ih => exact ih _ _ (SMap.wf_set 0 m a b h)

/-- A byte outside those stored reads as before. -/
theorem Memory.byte_write_outside (m : Memory) (a : Nat) (bs : List Byte) (i : Nat) (h : i < a ∨ a + bs.length ≤ i) :
    Memory.byte (Memory.write m a bs) i = Memory.byte m i := by
  induction bs generalizing m a with
  | nil => rfl
  | cons b t ih =>
    simp only [List.length_cons] at h
    rw [Memory.write, ih _ _ (by omega)]
    exact SMap.get_set_ne 0 m a i b (by omega)

/-- A stored byte reads as stored. -/
theorem Memory.byte_write_inside (m : Memory) (a : Nat) (bs : List Byte) (i : Nat) (h : i < bs.length) :
    Memory.byte (Memory.write m a bs) (a + i) = bs[i] := by
  induction bs generalizing m a i with
  | nil => simp at h
  | cons b t ih =>
    rw [Memory.write]
    cases i with
    | zero => rw [Memory.byte_write_outside _ _ _ _ (by omega)]; exact SMap.get_set_self 0 m a b
    | succ i =>
      have : a + (i + 1) = a + 1 + i := by omega
      rw [this, ih _ _ _ (by simpa using h)]; rfl

/-- A write of single cells keeps the canonical form. -/
theorem Memory.wf_cells (cells : List (Nat × Byte)) (m : Memory) (h : Memory.wf m) :
    Memory.wf (cells.foldl (fun (b : Memory) (c : Nat × Byte) => SMap.set (0 : Byte) b c.1 c.2) m) := by
  induction cells generalizing m with
  | nil => exact h
  | cons c t ih => exact ih _ (SMap.wf_set 0 m c.1 c.2 h)

end Sys2Proof
end

