-- ==== Sys2Proof/Laws/Memory.lean ====
section
/-! SUPPORT. Laws of the memory system: each of its operations keeps the canonical form of memory and the order of the log,
and a read after a write. -/

namespace Sys2Proof.Machine
open Sys2Proof

/-- Memory is in its canonical form, and the log in its order. -/
def MemSys.kept (m : MemSys) : Prop := Memory.wf m.base = true ∧ m.ordered

/-- Inserting above every key appends. -/
theorem insert_above {α : Type} (k : Nat) (v : α) (l : SMap α) (h : ∀ p ∈ l, p.1 < k) : SMap.insert k v l = l ++ [(k, v)] := by
  induction l with
  | nil => rfl
  | cons q t ih =>
    have hq : q.1 < k := h q (by simp)
    simp only [SMap.insert, if_neg (by omega : ¬k < q.1), List.cons_append, ih fun p hp => h p (by simp [hp])]

/-- A number above a log in order extends it in order. -/
theorem ordered_append (m : MemSys) (w : WriteRec) (h : m.ordered) :
    ({ m with log := SMap.insert m.nextId w m.log, nextId := m.nextId + 1 } : MemSys).ordered := by
  refine ⟨?_, ?_⟩
  · refine SMap.insert_sorted m.nextId w m.log h.1 fun p hp => ?_
    have := h.2 p hp
    omega
  · intro p hp
    rcases (SMap.mem_insert m.nextId w m.log p).mp hp with rfl | hp
    · exact Nat.lt_succ_self _
    · exact Nat.lt_succ_of_lt (h.2 p hp)

@[simp] theorem MemSys.raise_base (m : MemSys) (pa : Nat) : (m.raise pa).base = m.base := rfl
@[simp] theorem MemSys.raise_log (m : MemSys) (pa : Nat) : (m.raise pa).log = m.log := rfl
@[simp] theorem MemSys.raise_nextId (m : MemSys) (pa : Nat) : (m.raise pa).nextId = m.nextId := rfl
@[simp] theorem MemSys.raise_pend (m : MemSys) (pa : Nat) : (m.raise pa).pend = m.pend := rfl

@[simp] theorem MemSys.cleanse_base (m : MemSys) (c : List (Nat × Byte)) : (m.cleanse c).base = m.base := by
  unfold MemSys.cleanse; dsimp only; split <;> [rfl; split <;> rfl]
@[simp] theorem MemSys.cleanse_log (m : MemSys) (c : List (Nat × Byte)) : (m.cleanse c).log = m.log := by
  unfold MemSys.cleanse; dsimp only; split <;> [rfl; split <;> rfl]
@[simp] theorem MemSys.cleanse_nextId (m : MemSys) (c : List (Nat × Byte)) : (m.cleanse c).nextId = m.nextId := by
  unfold MemSys.cleanse; dsimp only; split <;> [rfl; split <;> rfl]
@[simp] theorem MemSys.cleanse_pend (m : MemSys) (c : List (Nat × Byte)) : (m.cleanse c).pend = m.pend := by
  unfold MemSys.cleanse; dsimp only; split <;> [rfl; split <;> rfl]

/-- What entering a home's order does to the log: the write, at the next number, as far as it takes effect. -/
theorem MemSys.enter_log (m : MemSys) (w : WriteRec) : ∃ v : WriteRec, v.cells = m.effective w.cells ∧ v.agent = w.agent ∧
    (m.enter w).log = SMap.insert m.nextId v m.log ∧ (m.enter w).nextId = m.nextId + 1 ∧ (m.enter w).base = m.base ∧
    (m.enter w).pend = m.pend := by
  refine ⟨{ w with cells := m.effective w.cells, dies := (homeDie w.home).toList, preds := w.preds ++ m.before w.agent },
    rfl, rfl, ?_⟩
  unfold MemSys.enter
  dsimp only
  split
  · simp
  · split <;> simp

/-- Entering keeps the form. -/
theorem MemSys.enter_kept (m : MemSys) (w : WriteRec) (h : m.kept) : (m.enter w).kept := by
  obtain ⟨v, -, -, hl, hn, hb, -⟩ := m.enter_log w
  have ho := ordered_append m v h.2
  refine ⟨by rw [hb]; exact h.1, ?_⟩
  unfold MemSys.ordered at ho ⊢
  rw [hl, hn]
  exact ho

/-- Many writes entering keep the form. -/
theorem MemSys.enters_kept {α : Type} (f : α → WriteRec) (l : List α) (m : MemSys) (h : m.kept) :
    (l.foldl (fun m a => m.enter (f a)) m).kept := by
  induction l generalizing m with
  | nil => exact h
  | cons a t ih => exact ih _ (m.enter_kept (f a) h)

/-- Issuing keeps the form. -/
theorem MemSys.issue_kept (m : MemSys) (a : Agent) (vf : Nat) (c : List (Nat × Byte)) (k : Byte) (ms enc : Bool) (h : m.kept) :
    (m.issue a vf c k ms enc).kept := h

/-- Serialising keeps the form. -/
theorem MemSys.serialise_kept (m : MemSys) (n : Nat) (h : m.kept) : (m.serialise n).kept := by
  unfold MemSys.serialise
  split
  · exact h
  · exact MemSys.enter_kept _ _ h

/-- Poison that a write has covered is no part of the form. -/
theorem MemSys.heal_kept (m : MemSys) (id : Nat) (c : List (Nat × Byte)) (h : m.kept) : (m.heal id c).kept := by
  unfold MemSys.heal; dsimp only; split <;> exact h

/-- A write that becomes memory keeps the form. -/
theorem MemSys.sink_kept (m : MemSys) (id : Nat) (w : WriteRec) (h : m.kept) : (m.sink id w).kept :=
  MemSys.heal_kept _ id w.cells ⟨Memory.wf_cells w.cells m.base h.1, h.2⟩

/-- Many writes that become memory keep the form. -/
theorem MemSys.sinks_kept (l : List (Nat × WriteRec)) (m : MemSys) (h : m.kept) :
    (l.foldl (fun m p => m.sink p.1 p.2) m).kept := by
  induction l generalizing m with
  | nil => exact h
  | cons p t ih => exact ih _ (m.sink_kept p.1 p.2 h)

/-- Folding keeps the form. -/
theorem MemSys.fold_kept (n : Nat) (m : MemSys) (h : m.kept) : (m.fold n).kept := by
  induction n generalizing m with
  | zero => exact h
  | succ n ih =>
    unfold MemSys.fold
    split
    · next id w rest e =>
      split
      · refine ih _ (MemSys.sink_kept _ id w ⟨h.1, ?_, ?_⟩)
        · have := h.2.1; rw [e] at this; exact (List.pairwise_cons.mp this).2
        · intro p hp; exact h.2.2 p (by rw [e]; exact List.mem_cons_of_mem _ hp)
      · exact h
    · exact h

/-- Applying keeps the form. -/
theorem MemSys.apply_kept (m : MemSys) (d id : Nat) (h : m.kept) : (m.apply d id).kept := by
  have hk : ({ m with log := m.log.map fun e => if e.1 = id then (e.1, { e.2 with dies := e.2.dies ++ [d] }) else e } : MemSys).kept := by
    refine ⟨h.1, ?_, ?_⟩
    · have : (m.log.map fun e => if e.1 = id then (e.1, { e.2 with dies := e.2.dies ++ [d] }) else e).map Prod.fst
          = m.log.map Prod.fst := by
        rw [List.map_map]; refine List.map_congr_left fun e _ => ?_
        simp only [Function.comp_apply]; split <;> rfl
      show List.Pairwise _ _
      rw [this]; exact h.2.1
    · intro p hp
      obtain ⟨e, he, rfl⟩ := List.mem_map.mp hp
      have := h.2.2 e he
      split <;> exact this
  exact MemSys.fold_kept m.log.length _ hk

/-- Settling keeps the form. -/
theorem MemSys.settle_kept (m : MemSys) (h : m.kept) : m.settle.kept :=
  ⟨(MemSys.sinks_kept m.log m h).1, by simp [MemSys.settle], by simp [MemSys.settle]⟩

/-- A write that is performed at once keeps the form. -/
theorem MemSys.commit_kept (m : MemSys) (a : Agent) (vf : Nat) (c : List (Nat × Byte)) (ms enc : Bool) (h : m.kept) :
    (m.commit a vf c ms enc).kept :=
  MemSys.settle_kept _ (MemSys.enters_kept _ _ _ (m.settle_kept h))

/-- Causal predecessors keep the form. -/
theorem MemSys.setPreds_kept (m : MemSys) (a : Agent) (d scope : Nat) (h : m.kept) : (m.setPreds a d scope).kept := by
  unfold MemSys.setPreds; split <;> exact h

/-- An agent's own writes, serialised, keep the form. -/
theorem MemSys.flushOwn_kept (m : MemSys) (a : Agent) (pa : Nat) (h : m.kept) : (m.flushOwn a pa).kept := by
  unfold MemSys.flushOwn
  exact MemSys.enters_kept (fun w => w) _ _ h

/-- A mark keeps the form. -/
theorem MemSys.mark_kept (m : MemSys) (a : Agent) (pa n : Nat) (h : m.kept) : (m.mark a pa n).kept := by
  unfold MemSys.mark; split <;> exact h

/-- Draining some agents' writes keeps the form. -/
theorem MemSys.drain_kept (m : MemSys) (of : Agent → Bool) (h : m.kept) : (m.drain of).kept := by
  unfold MemSys.drain
  exact MemSys.settle_kept _ (MemSys.enters_kept (fun w => w) _ _ h)

/-- Leaving out cells keeps the canonical form. -/
theorem Memory.wf_filter (m : Memory) (p : Nat × Byte → Bool) (h : Memory.wf m = true) :
    Memory.wf (m.filter p : Memory) = true := by
  have h := (SMap.wf_iff (0 : Byte) m).mp h
  exact (SMap.wf_iff (0 : Byte) (m.filter p)).mpr
    ⟨h.1.sublist (List.Sublist.map _ List.filter_sublist), fun q hq => h.2 q (List.mem_filter.mp hq).1⟩

/-- Zeroing a frame keeps the form. -/
theorem MemSys.zeroFrame_kept (m : MemSys) (f : Nat) (h : m.kept) : (m.zeroFrame f).kept := by
  refine ⟨Memory.wf_filter _ _ h.1, ?_, fun p hp => ?_⟩
  · show List.Pairwise _ (List.map Prod.fst (List.map _ _))
    rw [List.map_map]
    exact h.2.1
  · obtain ⟨e, he, rfl⟩ := List.mem_map.mp hp
    exact h.2.2 e he

/-- Raising a frame's counters keeps the form. -/
theorem MemSys.raiseFrame_kept (m : MemSys) (f : Nat) (h : m.kept) : (m.raiseFrame f).kept := by
  unfold MemSys.raiseFrame
  generalize List.range 8192 = l
  induction l generalizing m with
  | nil => exact h
  | cons i t ih => exact ih _ h

/-! ### Reading -/

/-- A write that is not yet at its home is read by its own agent, and by no other (R267). -/
theorem MemSys.byteAt_issue (m : MemSys) (a : Agent) (vf : Nat) (cells : List (Nat × Byte)) (k : Byte) (ms enc : Bool)
    (view : Option Nat) (b : Agent) (pa : Nat) (hb : b ≠ a) :
    (m.issue a vf cells k ms enc).byteAt view (some b) pa = m.byteAt view (some b) pa := by
  have : ∀ (l : List WriteRec), (∀ w ∈ l, w.agent = a) → ∀ x : Byte,
      l.foldl (fun b' w => if some b == some w.agent then (w.cells.lookup pa).getD b' else b') x = x := by
    intro l hl
    induction l with
    | nil => intro x; rfl
    | cons w t ih =>
      intro x
      have hw : (some b == some w.agent) = false := by rw [hl w (by simp)]; simpa using hb
      rw [List.foldl_cons, hw]
      exact ih (fun v hv => hl v (by simp [hv])) x
  unfold MemSys.byteAt MemSys.issue
  simp only [List.foldl_append]
  refine this _ ?_ _
  intro w hw
  obtain ⟨c, -, rfl⟩ := List.mem_map.mp hw
  rfl

end Sys2Proof.Machine
end

