-- ==== Sys2Proof/Laws/State.lean ====
section
/-! SUPPORT. What each update of a part of State leaves as it was, one field at a time, and what reading a part after an
update of it gives. -/

namespace Sys2Proof.Machine
open Sys2Proof


/-! ### setCore -/

@[simp] theorem State.setCore_tb (s : State) (c : Nat) (v : Core) : (s.setCore c v).tb = s.tb := rfl
@[simp] theorem State.setCore_part (s : State) (c : Nat) (v : Core) : (s.setCore c v).part = s.part := rfl
@[simp] theorem State.setCore_dies (s : State) (c : Nat) (v : Core) : (s.setCore c v).dies = s.dies := rfl
@[simp] theorem State.setCore_ports (s : State) (c : Nat) (v : Core) : (s.setCore c v).ports = s.ports := rfl
@[simp] theorem State.setCore_vfs (s : State) (c : Nat) (v : Core) : (s.setCore c v).vfs = s.vfs := rfl
@[simp] theorem State.setCore_mem (s : State) (c : Nat) (v : Core) : (s.setCore c v).mem = s.mem := rfl
@[simp] theorem State.setCore_peers (s : State) (c : Nat) (v : Core) : (s.setCore c v).peers = s.peers := rfl
@[simp] theorem State.setCore_hearth (s : State) (c : Nat) (v : Core) : (s.setCore c v).hearth = s.hearth := rfl
@[simp] theorem State.setCore_pf (s : State) (c : Nat) (v : Core) : (s.setCore c v).pf = s.pf := rfl
@[simp] theorem State.setCore_sec (s : State) (c : Nat) (v : Core) : (s.setCore c v).sec = s.sec := rfl
@[simp] theorem State.setCore_host (s : State) (c : Nat) (v : Core) : (s.setCore c v).host = s.host := rfl
@[simp] theorem State.setCore_agenda (s : State) (c : Nat) (v : Core) : (s.setCore c v).agenda = s.agenda := rfl
@[simp] theorem State.setCore_turn (s : State) (c : Nat) (v : Core) : (s.setCore c v).turn = s.turn := rfl
@[simp] theorem State.setCore_cur (s : State) (c : Nat) (v : Core) : (s.setCore c v).cur = s.cur := rfl
@[simp] theorem State.setCore_curX (s : State) (c : Nat) (v : Core) : (s.setCore c v).curX = s.curX := rfl
@[simp] theorem State.setCore_issue (s : State) (c : Nat) (v : Core) : (s.setCore c v).issue = s.issue := rfl
@[simp] theorem State.setCore_free (s : State) (c : Nat) (v : Core) : (s.setCore c v).free = s.free := rfl

/-! ### updCore -/

@[simp] theorem State.updCore_tb (s : State) (c : Nat) (f : Core → Core) : (s.updCore c f).tb = s.tb := rfl
@[simp] theorem State.updCore_part (s : State) (c : Nat) (f : Core → Core) : (s.updCore c f).part = s.part := rfl
@[simp] theorem State.updCore_dies (s : State) (c : Nat) (f : Core → Core) : (s.updCore c f).dies = s.dies := rfl
@[simp] theorem State.updCore_ports (s : State) (c : Nat) (f : Core → Core) : (s.updCore c f).ports = s.ports := rfl
@[simp] theorem State.updCore_vfs (s : State) (c : Nat) (f : Core → Core) : (s.updCore c f).vfs = s.vfs := rfl
@[simp] theorem State.updCore_mem (s : State) (c : Nat) (f : Core → Core) : (s.updCore c f).mem = s.mem := rfl
@[simp] theorem State.updCore_peers (s : State) (c : Nat) (f : Core → Core) : (s.updCore c f).peers = s.peers := rfl
@[simp] theorem State.updCore_hearth (s : State) (c : Nat) (f : Core → Core) : (s.updCore c f).hearth = s.hearth := rfl
@[simp] theorem State.updCore_pf (s : State) (c : Nat) (f : Core → Core) : (s.updCore c f).pf = s.pf := rfl
@[simp] theorem State.updCore_sec (s : State) (c : Nat) (f : Core → Core) : (s.updCore c f).sec = s.sec := rfl
@[simp] theorem State.updCore_host (s : State) (c : Nat) (f : Core → Core) : (s.updCore c f).host = s.host := rfl
@[simp] theorem State.updCore_agenda (s : State) (c : Nat) (f : Core → Core) : (s.updCore c f).agenda = s.agenda := rfl
@[simp] theorem State.updCore_turn (s : State) (c : Nat) (f : Core → Core) : (s.updCore c f).turn = s.turn := rfl
@[simp] theorem State.updCore_cur (s : State) (c : Nat) (f : Core → Core) : (s.updCore c f).cur = s.cur := rfl
@[simp] theorem State.updCore_curX (s : State) (c : Nat) (f : Core → Core) : (s.updCore c f).curX = s.curX := rfl
@[simp] theorem State.updCore_issue (s : State) (c : Nat) (f : Core → Core) : (s.updCore c f).issue = s.issue := rfl
@[simp] theorem State.updCore_free (s : State) (c : Nat) (f : Core → Core) : (s.updCore c f).free = s.free := rfl

/-! ### updHere -/

@[simp] theorem State.updHere_tb (s : State) (f : Core → Core) : (s.updHere f).tb = s.tb := rfl
@[simp] theorem State.updHere_part (s : State) (f : Core → Core) : (s.updHere f).part = s.part := rfl
@[simp] theorem State.updHere_dies (s : State) (f : Core → Core) : (s.updHere f).dies = s.dies := rfl
@[simp] theorem State.updHere_ports (s : State) (f : Core → Core) : (s.updHere f).ports = s.ports := rfl
@[simp] theorem State.updHere_vfs (s : State) (f : Core → Core) : (s.updHere f).vfs = s.vfs := rfl
@[simp] theorem State.updHere_mem (s : State) (f : Core → Core) : (s.updHere f).mem = s.mem := rfl
@[simp] theorem State.updHere_peers (s : State) (f : Core → Core) : (s.updHere f).peers = s.peers := rfl
@[simp] theorem State.updHere_hearth (s : State) (f : Core → Core) : (s.updHere f).hearth = s.hearth := rfl
@[simp] theorem State.updHere_pf (s : State) (f : Core → Core) : (s.updHere f).pf = s.pf := rfl
@[simp] theorem State.updHere_sec (s : State) (f : Core → Core) : (s.updHere f).sec = s.sec := rfl
@[simp] theorem State.updHere_host (s : State) (f : Core → Core) : (s.updHere f).host = s.host := rfl
@[simp] theorem State.updHere_agenda (s : State) (f : Core → Core) : (s.updHere f).agenda = s.agenda := rfl
@[simp] theorem State.updHere_turn (s : State) (f : Core → Core) : (s.updHere f).turn = s.turn := rfl
@[simp] theorem State.updHere_cur (s : State) (f : Core → Core) : (s.updHere f).cur = s.cur := rfl
@[simp] theorem State.updHere_curX (s : State) (f : Core → Core) : (s.updHere f).curX = s.curX := rfl
@[simp] theorem State.updHere_issue (s : State) (f : Core → Core) : (s.updHere f).issue = s.issue := rfl
@[simp] theorem State.updHere_free (s : State) (f : Core → Core) : (s.updHere f).free = s.free := rfl

/-! ### updSelf -/

@[simp] theorem State.updSelf_tb (s : State) (f : Stream → Stream) : (s.updSelf f).tb = s.tb := rfl
@[simp] theorem State.updSelf_part (s : State) (f : Stream → Stream) : (s.updSelf f).part = s.part := rfl
@[simp] theorem State.updSelf_dies (s : State) (f : Stream → Stream) : (s.updSelf f).dies = s.dies := rfl
@[simp] theorem State.updSelf_ports (s : State) (f : Stream → Stream) : (s.updSelf f).ports = s.ports := rfl
@[simp] theorem State.updSelf_vfs (s : State) (f : Stream → Stream) : (s.updSelf f).vfs = s.vfs := rfl
@[simp] theorem State.updSelf_mem (s : State) (f : Stream → Stream) : (s.updSelf f).mem = s.mem := rfl
@[simp] theorem State.updSelf_peers (s : State) (f : Stream → Stream) : (s.updSelf f).peers = s.peers := rfl
@[simp] theorem State.updSelf_hearth (s : State) (f : Stream → Stream) : (s.updSelf f).hearth = s.hearth := rfl
@[simp] theorem State.updSelf_pf (s : State) (f : Stream → Stream) : (s.updSelf f).pf = s.pf := rfl
@[simp] theorem State.updSelf_sec (s : State) (f : Stream → Stream) : (s.updSelf f).sec = s.sec := rfl
@[simp] theorem State.updSelf_host (s : State) (f : Stream → Stream) : (s.updSelf f).host = s.host := rfl
@[simp] theorem State.updSelf_agenda (s : State) (f : Stream → Stream) : (s.updSelf f).agenda = s.agenda := rfl
@[simp] theorem State.updSelf_turn (s : State) (f : Stream → Stream) : (s.updSelf f).turn = s.turn := rfl
@[simp] theorem State.updSelf_cur (s : State) (f : Stream → Stream) : (s.updSelf f).cur = s.cur := rfl
@[simp] theorem State.updSelf_curX (s : State) (f : Stream → Stream) : (s.updSelf f).curX = s.curX := rfl
@[simp] theorem State.updSelf_issue (s : State) (f : Stream → Stream) : (s.updSelf f).issue = s.issue := rfl
@[simp] theorem State.updSelf_free (s : State) (f : Stream → Stream) : (s.updSelf f).free = s.free := rfl

/-! ### setReg -/

@[simp] theorem State.setReg_tb (s : State) (r : Reg) (v : Dword) : (s.setReg r v).tb = s.tb := rfl
@[simp] theorem State.setReg_part (s : State) (r : Reg) (v : Dword) : (s.setReg r v).part = s.part := rfl
@[simp] theorem State.setReg_dies (s : State) (r : Reg) (v : Dword) : (s.setReg r v).dies = s.dies := rfl
@[simp] theorem State.setReg_ports (s : State) (r : Reg) (v : Dword) : (s.setReg r v).ports = s.ports := rfl
@[simp] theorem State.setReg_vfs (s : State) (r : Reg) (v : Dword) : (s.setReg r v).vfs = s.vfs := rfl
@[simp] theorem State.setReg_mem (s : State) (r : Reg) (v : Dword) : (s.setReg r v).mem = s.mem := rfl
@[simp] theorem State.setReg_peers (s : State) (r : Reg) (v : Dword) : (s.setReg r v).peers = s.peers := rfl
@[simp] theorem State.setReg_hearth (s : State) (r : Reg) (v : Dword) : (s.setReg r v).hearth = s.hearth := rfl
@[simp] theorem State.setReg_pf (s : State) (r : Reg) (v : Dword) : (s.setReg r v).pf = s.pf := rfl
@[simp] theorem State.setReg_sec (s : State) (r : Reg) (v : Dword) : (s.setReg r v).sec = s.sec := rfl
@[simp] theorem State.setReg_host (s : State) (r : Reg) (v : Dword) : (s.setReg r v).host = s.host := rfl
@[simp] theorem State.setReg_agenda (s : State) (r : Reg) (v : Dword) : (s.setReg r v).agenda = s.agenda := rfl
@[simp] theorem State.setReg_turn (s : State) (r : Reg) (v : Dword) : (s.setReg r v).turn = s.turn := rfl
@[simp] theorem State.setReg_cur (s : State) (r : Reg) (v : Dword) : (s.setReg r v).cur = s.cur := rfl
@[simp] theorem State.setReg_curX (s : State) (r : Reg) (v : Dword) : (s.setReg r v).curX = s.curX := rfl
@[simp] theorem State.setReg_issue (s : State) (r : Reg) (v : Dword) : (s.setReg r v).issue = s.issue := rfl
@[simp] theorem State.setReg_free (s : State) (r : Reg) (v : Dword) : (s.setReg r v).free = s.free := rfl

/-! ### updDie -/

@[simp] theorem State.updDie_tb (s : State) (d : Nat) (f : Die → Die) : (s.updDie d f).tb = s.tb := rfl
@[simp] theorem State.updDie_part (s : State) (d : Nat) (f : Die → Die) : (s.updDie d f).part = s.part := rfl
@[simp] theorem State.updDie_cores (s : State) (d : Nat) (f : Die → Die) : (s.updDie d f).cores = s.cores := rfl
@[simp] theorem State.updDie_ports (s : State) (d : Nat) (f : Die → Die) : (s.updDie d f).ports = s.ports := rfl
@[simp] theorem State.updDie_vfs (s : State) (d : Nat) (f : Die → Die) : (s.updDie d f).vfs = s.vfs := rfl
@[simp] theorem State.updDie_mem (s : State) (d : Nat) (f : Die → Die) : (s.updDie d f).mem = s.mem := rfl
@[simp] theorem State.updDie_peers (s : State) (d : Nat) (f : Die → Die) : (s.updDie d f).peers = s.peers := rfl
@[simp] theorem State.updDie_hearth (s : State) (d : Nat) (f : Die → Die) : (s.updDie d f).hearth = s.hearth := rfl
@[simp] theorem State.updDie_pf (s : State) (d : Nat) (f : Die → Die) : (s.updDie d f).pf = s.pf := rfl
@[simp] theorem State.updDie_sec (s : State) (d : Nat) (f : Die → Die) : (s.updDie d f).sec = s.sec := rfl
@[simp] theorem State.updDie_host (s : State) (d : Nat) (f : Die → Die) : (s.updDie d f).host = s.host := rfl
@[simp] theorem State.updDie_agenda (s : State) (d : Nat) (f : Die → Die) : (s.updDie d f).agenda = s.agenda := rfl
@[simp] theorem State.updDie_turn (s : State) (d : Nat) (f : Die → Die) : (s.updDie d f).turn = s.turn := rfl
@[simp] theorem State.updDie_cur (s : State) (d : Nat) (f : Die → Die) : (s.updDie d f).cur = s.cur := rfl
@[simp] theorem State.updDie_curX (s : State) (d : Nat) (f : Die → Die) : (s.updDie d f).curX = s.curX := rfl
@[simp] theorem State.updDie_issue (s : State) (d : Nat) (f : Die → Die) : (s.updDie d f).issue = s.issue := rfl
@[simp] theorem State.updDie_free (s : State) (d : Nat) (f : Die → Die) : (s.updDie d f).free = s.free := rfl

/-! ### updVf -/

@[simp] theorem State.updVf_tb (s : State) (v : Nat) (f : Vf → Vf) : (s.updVf v f).tb = s.tb := rfl
@[simp] theorem State.updVf_part (s : State) (v : Nat) (f : Vf → Vf) : (s.updVf v f).part = s.part := rfl
@[simp] theorem State.updVf_cores (s : State) (v : Nat) (f : Vf → Vf) : (s.updVf v f).cores = s.cores := rfl
@[simp] theorem State.updVf_dies (s : State) (v : Nat) (f : Vf → Vf) : (s.updVf v f).dies = s.dies := rfl
@[simp] theorem State.updVf_ports (s : State) (v : Nat) (f : Vf → Vf) : (s.updVf v f).ports = s.ports := rfl
@[simp] theorem State.updVf_mem (s : State) (v : Nat) (f : Vf → Vf) : (s.updVf v f).mem = s.mem := rfl
@[simp] theorem State.updVf_peers (s : State) (v : Nat) (f : Vf → Vf) : (s.updVf v f).peers = s.peers := rfl
@[simp] theorem State.updVf_hearth (s : State) (v : Nat) (f : Vf → Vf) : (s.updVf v f).hearth = s.hearth := rfl
@[simp] theorem State.updVf_pf (s : State) (v : Nat) (f : Vf → Vf) : (s.updVf v f).pf = s.pf := rfl
@[simp] theorem State.updVf_sec (s : State) (v : Nat) (f : Vf → Vf) : (s.updVf v f).sec = s.sec := rfl
@[simp] theorem State.updVf_host (s : State) (v : Nat) (f : Vf → Vf) : (s.updVf v f).host = s.host := rfl
@[simp] theorem State.updVf_agenda (s : State) (v : Nat) (f : Vf → Vf) : (s.updVf v f).agenda = s.agenda := rfl
@[simp] theorem State.updVf_turn (s : State) (v : Nat) (f : Vf → Vf) : (s.updVf v f).turn = s.turn := rfl
@[simp] theorem State.updVf_cur (s : State) (v : Nat) (f : Vf → Vf) : (s.updVf v f).cur = s.cur := rfl
@[simp] theorem State.updVf_curX (s : State) (v : Nat) (f : Vf → Vf) : (s.updVf v f).curX = s.curX := rfl
@[simp] theorem State.updVf_issue (s : State) (v : Nat) (f : Vf → Vf) : (s.updVf v f).issue = s.issue := rfl
@[simp] theorem State.updVf_free (s : State) (v : Nat) (f : Vf → Vf) : (s.updVf v f).free = s.free := rfl

/-! ### updPort -/

@[simp] theorem State.updPort_tb (s : State) (p : Nat) (f : Port → Port) : (s.updPort p f).tb = s.tb := rfl
@[simp] theorem State.updPort_part (s : State) (p : Nat) (f : Port → Port) : (s.updPort p f).part = s.part := rfl
@[simp] theorem State.updPort_cores (s : State) (p : Nat) (f : Port → Port) : (s.updPort p f).cores = s.cores := rfl
@[simp] theorem State.updPort_dies (s : State) (p : Nat) (f : Port → Port) : (s.updPort p f).dies = s.dies := rfl
@[simp] theorem State.updPort_vfs (s : State) (p : Nat) (f : Port → Port) : (s.updPort p f).vfs = s.vfs := rfl
@[simp] theorem State.updPort_mem (s : State) (p : Nat) (f : Port → Port) : (s.updPort p f).mem = s.mem := rfl
@[simp] theorem State.updPort_peers (s : State) (p : Nat) (f : Port → Port) : (s.updPort p f).peers = s.peers := rfl
@[simp] theorem State.updPort_hearth (s : State) (p : Nat) (f : Port → Port) : (s.updPort p f).hearth = s.hearth := rfl
@[simp] theorem State.updPort_pf (s : State) (p : Nat) (f : Port → Port) : (s.updPort p f).pf = s.pf := rfl
@[simp] theorem State.updPort_sec (s : State) (p : Nat) (f : Port → Port) : (s.updPort p f).sec = s.sec := rfl
@[simp] theorem State.updPort_host (s : State) (p : Nat) (f : Port → Port) : (s.updPort p f).host = s.host := rfl
@[simp] theorem State.updPort_agenda (s : State) (p : Nat) (f : Port → Port) : (s.updPort p f).agenda = s.agenda := rfl
@[simp] theorem State.updPort_turn (s : State) (p : Nat) (f : Port → Port) : (s.updPort p f).turn = s.turn := rfl
@[simp] theorem State.updPort_cur (s : State) (p : Nat) (f : Port → Port) : (s.updPort p f).cur = s.cur := rfl
@[simp] theorem State.updPort_curX (s : State) (p : Nat) (f : Port → Port) : (s.updPort p f).curX = s.curX := rfl
@[simp] theorem State.updPort_issue (s : State) (p : Nat) (f : Port → Port) : (s.updPort p f).issue = s.issue := rfl
@[simp] theorem State.updPort_free (s : State) (p : Nat) (f : Port → Port) : (s.updPort p f).free = s.free := rfl

/-! ### setNode -/

@[simp] theorem State.setNode_tb (s : State) (id : Dword) (n : Node) : (s.setNode id n).tb = s.tb := rfl
@[simp] theorem State.setNode_part (s : State) (id : Dword) (n : Node) : (s.setNode id n).part = s.part := rfl
@[simp] theorem State.setNode_cores (s : State) (id : Dword) (n : Node) : (s.setNode id n).cores = s.cores := rfl
@[simp] theorem State.setNode_dies (s : State) (id : Dword) (n : Node) : (s.setNode id n).dies = s.dies := rfl
@[simp] theorem State.setNode_ports (s : State) (id : Dword) (n : Node) : (s.setNode id n).ports = s.ports := rfl
@[simp] theorem State.setNode_vfs (s : State) (id : Dword) (n : Node) : (s.setNode id n).vfs = s.vfs := rfl
@[simp] theorem State.setNode_mem (s : State) (id : Dword) (n : Node) : (s.setNode id n).mem = s.mem := rfl
@[simp] theorem State.setNode_peers (s : State) (id : Dword) (n : Node) : (s.setNode id n).peers = s.peers := rfl
@[simp] theorem State.setNode_pf (s : State) (id : Dword) (n : Node) : (s.setNode id n).pf = s.pf := rfl
@[simp] theorem State.setNode_sec (s : State) (id : Dword) (n : Node) : (s.setNode id n).sec = s.sec := rfl
@[simp] theorem State.setNode_host (s : State) (id : Dword) (n : Node) : (s.setNode id n).host = s.host := rfl
@[simp] theorem State.setNode_agenda (s : State) (id : Dword) (n : Node) : (s.setNode id n).agenda = s.agenda := rfl
@[simp] theorem State.setNode_turn (s : State) (id : Dword) (n : Node) : (s.setNode id n).turn = s.turn := rfl
@[simp] theorem State.setNode_cur (s : State) (id : Dword) (n : Node) : (s.setNode id n).cur = s.cur := rfl
@[simp] theorem State.setNode_curX (s : State) (id : Dword) (n : Node) : (s.setNode id n).curX = s.curX := rfl
@[simp] theorem State.setNode_issue (s : State) (id : Dword) (n : Node) : (s.setNode id n).issue = s.issue := rfl
@[simp] theorem State.setNode_free (s : State) (id : Dword) (n : Node) : (s.setNode id n).free = s.free := rfl

/-! ### setGraph -/

@[simp] theorem State.setGraph_tb (s : State) (k : Nat) (g : Graph) : (s.setGraph k g).tb = s.tb := rfl
@[simp] theorem State.setGraph_part (s : State) (k : Nat) (g : Graph) : (s.setGraph k g).part = s.part := rfl
@[simp] theorem State.setGraph_cores (s : State) (k : Nat) (g : Graph) : (s.setGraph k g).cores = s.cores := rfl
@[simp] theorem State.setGraph_dies (s : State) (k : Nat) (g : Graph) : (s.setGraph k g).dies = s.dies := rfl
@[simp] theorem State.setGraph_ports (s : State) (k : Nat) (g : Graph) : (s.setGraph k g).ports = s.ports := rfl
@[simp] theorem State.setGraph_vfs (s : State) (k : Nat) (g : Graph) : (s.setGraph k g).vfs = s.vfs := rfl
@[simp] theorem State.setGraph_mem (s : State) (k : Nat) (g : Graph) : (s.setGraph k g).mem = s.mem := rfl
@[simp] theorem State.setGraph_peers (s : State) (k : Nat) (g : Graph) : (s.setGraph k g).peers = s.peers := rfl
@[simp] theorem State.setGraph_pf (s : State) (k : Nat) (g : Graph) : (s.setGraph k g).pf = s.pf := rfl
@[simp] theorem State.setGraph_sec (s : State) (k : Nat) (g : Graph) : (s.setGraph k g).sec = s.sec := rfl
@[simp] theorem State.setGraph_host (s : State) (k : Nat) (g : Graph) : (s.setGraph k g).host = s.host := rfl
@[simp] theorem State.setGraph_agenda (s : State) (k : Nat) (g : Graph) : (s.setGraph k g).agenda = s.agenda := rfl
@[simp] theorem State.setGraph_turn (s : State) (k : Nat) (g : Graph) : (s.setGraph k g).turn = s.turn := rfl
@[simp] theorem State.setGraph_cur (s : State) (k : Nat) (g : Graph) : (s.setGraph k g).cur = s.cur := rfl
@[simp] theorem State.setGraph_curX (s : State) (k : Nat) (g : Graph) : (s.setGraph k g).curX = s.curX := rfl
@[simp] theorem State.setGraph_issue (s : State) (k : Nat) (g : Graph) : (s.setGraph k g).issue = s.issue := rfl
@[simp] theorem State.setGraph_free (s : State) (k : Nat) (g : Graph) : (s.setGraph k g).free = s.free := rfl

/-! ### retired -/

@[simp] theorem State.retired_tb (s : State) : (s.retired).tb = s.tb := rfl
@[simp] theorem State.retired_part (s : State) : (s.retired).part = s.part := rfl
@[simp] theorem State.retired_dies (s : State) : (s.retired).dies = s.dies := rfl
@[simp] theorem State.retired_ports (s : State) : (s.retired).ports = s.ports := rfl
@[simp] theorem State.retired_vfs (s : State) : (s.retired).vfs = s.vfs := rfl
@[simp] theorem State.retired_mem (s : State) : (s.retired).mem = s.mem := rfl
@[simp] theorem State.retired_peers (s : State) : (s.retired).peers = s.peers := rfl
@[simp] theorem State.retired_hearth (s : State) : (s.retired).hearth = s.hearth := rfl
@[simp] theorem State.retired_pf (s : State) : (s.retired).pf = s.pf := rfl
@[simp] theorem State.retired_sec (s : State) : (s.retired).sec = s.sec := rfl
@[simp] theorem State.retired_host (s : State) : (s.retired).host = s.host := rfl
@[simp] theorem State.retired_agenda (s : State) : (s.retired).agenda = s.agenda := rfl
@[simp] theorem State.retired_turn (s : State) : (s.retired).turn = s.turn := rfl
@[simp] theorem State.retired_cur (s : State) : (s.retired).cur = s.cur := rfl
@[simp] theorem State.retired_curX (s : State) : (s.retired).curX = s.curX := rfl
@[simp] theorem State.retired_free (s : State) : (s.retired).free = s.free := rfl
@[simp] theorem State.retired_issue (s : State) : (s.retired).issue = .retired := rfl

/-! ### done -/

@[simp] theorem State.done_tb (s : State) (stop : Bool) : (s.done stop).tb = s.tb := rfl
@[simp] theorem State.done_part (s : State) (stop : Bool) : (s.done stop).part = s.part := rfl
@[simp] theorem State.done_dies (s : State) (stop : Bool) : (s.done stop).dies = s.dies := rfl
@[simp] theorem State.done_ports (s : State) (stop : Bool) : (s.done stop).ports = s.ports := rfl
@[simp] theorem State.done_vfs (s : State) (stop : Bool) : (s.done stop).vfs = s.vfs := rfl
@[simp] theorem State.done_mem (s : State) (stop : Bool) : (s.done stop).mem = s.mem := rfl
@[simp] theorem State.done_peers (s : State) (stop : Bool) : (s.done stop).peers = s.peers := rfl
@[simp] theorem State.done_hearth (s : State) (stop : Bool) : (s.done stop).hearth = s.hearth := rfl
@[simp] theorem State.done_pf (s : State) (stop : Bool) : (s.done stop).pf = s.pf := rfl
@[simp] theorem State.done_sec (s : State) (stop : Bool) : (s.done stop).sec = s.sec := rfl
@[simp] theorem State.done_host (s : State) (stop : Bool) : (s.done stop).host = s.host := rfl
@[simp] theorem State.done_agenda (s : State) (stop : Bool) : (s.done stop).agenda = s.agenda := rfl
@[simp] theorem State.done_turn (s : State) (stop : Bool) : (s.done stop).turn = s.turn := rfl
@[simp] theorem State.done_cur (s : State) (stop : Bool) : (s.done stop).cur = s.cur := rfl
@[simp] theorem State.done_curX (s : State) (stop : Bool) : (s.done stop).curX = s.curX := rfl
@[simp] theorem State.done_free (s : State) (stop : Bool) : (s.done stop).free = s.free := rfl
@[simp] theorem State.done_issue (s : State) (stop : Bool) : (s.done stop).issue = .retired := rfl

/-! ### doneTail -/

@[simp] theorem State.doneTail_tb (s : State) (u : Option Tail) (stop : Bool) : (s.doneTail u stop).tb = s.tb := rfl
@[simp] theorem State.doneTail_part (s : State) (u : Option Tail) (stop : Bool) : (s.doneTail u stop).part = s.part := rfl
@[simp] theorem State.doneTail_dies (s : State) (u : Option Tail) (stop : Bool) : (s.doneTail u stop).dies = s.dies := rfl
@[simp] theorem State.doneTail_ports (s : State) (u : Option Tail) (stop : Bool) : (s.doneTail u stop).ports = s.ports := rfl
@[simp] theorem State.doneTail_vfs (s : State) (u : Option Tail) (stop : Bool) : (s.doneTail u stop).vfs = s.vfs := rfl
@[simp] theorem State.doneTail_mem (s : State) (u : Option Tail) (stop : Bool) : (s.doneTail u stop).mem = s.mem := rfl
@[simp] theorem State.doneTail_peers (s : State) (u : Option Tail) (stop : Bool) : (s.doneTail u stop).peers = s.peers := rfl
@[simp] theorem State.doneTail_hearth (s : State) (u : Option Tail) (stop : Bool) : (s.doneTail u stop).hearth = s.hearth := rfl
@[simp] theorem State.doneTail_pf (s : State) (u : Option Tail) (stop : Bool) : (s.doneTail u stop).pf = s.pf := rfl
@[simp] theorem State.doneTail_sec (s : State) (u : Option Tail) (stop : Bool) : (s.doneTail u stop).sec = s.sec := rfl
@[simp] theorem State.doneTail_host (s : State) (u : Option Tail) (stop : Bool) : (s.doneTail u stop).host = s.host := rfl
@[simp] theorem State.doneTail_agenda (s : State) (u : Option Tail) (stop : Bool) : (s.doneTail u stop).agenda = s.agenda := rfl
@[simp] theorem State.doneTail_turn (s : State) (u : Option Tail) (stop : Bool) : (s.doneTail u stop).turn = s.turn := rfl
@[simp] theorem State.doneTail_cur (s : State) (u : Option Tail) (stop : Bool) : (s.doneTail u stop).cur = s.cur := rfl
@[simp] theorem State.doneTail_curX (s : State) (u : Option Tail) (stop : Bool) : (s.doneTail u stop).curX = s.curX := rfl
@[simp] theorem State.doneTail_free (s : State) (u : Option Tail) (stop : Bool) : (s.doneTail u stop).free = s.free := rfl
@[simp] theorem State.doneTail_issue (s : State) (u : Option Tail) (stop : Bool) : (s.doneTail u stop).issue = .retired := rfl

/-! ### jumpTo -/

@[simp] theorem State.jumpTo_tb (s : State) (a : Dword) : (s.jumpTo a).tb = s.tb := rfl
@[simp] theorem State.jumpTo_part (s : State) (a : Dword) : (s.jumpTo a).part = s.part := rfl
@[simp] theorem State.jumpTo_dies (s : State) (a : Dword) : (s.jumpTo a).dies = s.dies := rfl
@[simp] theorem State.jumpTo_ports (s : State) (a : Dword) : (s.jumpTo a).ports = s.ports := rfl
@[simp] theorem State.jumpTo_vfs (s : State) (a : Dword) : (s.jumpTo a).vfs = s.vfs := rfl
@[simp] theorem State.jumpTo_mem (s : State) (a : Dword) : (s.jumpTo a).mem = s.mem := rfl
@[simp] theorem State.jumpTo_peers (s : State) (a : Dword) : (s.jumpTo a).peers = s.peers := rfl
@[simp] theorem State.jumpTo_hearth (s : State) (a : Dword) : (s.jumpTo a).hearth = s.hearth := rfl
@[simp] theorem State.jumpTo_pf (s : State) (a : Dword) : (s.jumpTo a).pf = s.pf := rfl
@[simp] theorem State.jumpTo_sec (s : State) (a : Dword) : (s.jumpTo a).sec = s.sec := rfl
@[simp] theorem State.jumpTo_host (s : State) (a : Dword) : (s.jumpTo a).host = s.host := rfl
@[simp] theorem State.jumpTo_agenda (s : State) (a : Dword) : (s.jumpTo a).agenda = s.agenda := rfl
@[simp] theorem State.jumpTo_turn (s : State) (a : Dword) : (s.jumpTo a).turn = s.turn := rfl
@[simp] theorem State.jumpTo_cur (s : State) (a : Dword) : (s.jumpTo a).cur = s.cur := rfl
@[simp] theorem State.jumpTo_curX (s : State) (a : Dword) : (s.jumpTo a).curX = s.curX := rfl
@[simp] theorem State.jumpTo_free (s : State) (a : Dword) : (s.jumpTo a).free = s.free := rfl
@[simp] theorem State.jumpTo_issue (s : State) (a : Dword) : (s.jumpTo a).issue = .retired := rfl

/-! ### Parts read after an update -/

@[simp] theorem State.core_setCore_self (s : State) (c : Nat) (v : Core) : (s.setCore c v).core c = v :=
  SMap.get_set_self _ _ _ _

theorem State.core_setCore_ne (s : State) (c d : Nat) (v : Core) (h : d ≠ c) : (s.setCore c v).core d = s.core d :=
  SMap.get_set_ne _ _ _ _ _ h

@[simp] theorem State.core_updCore_self (s : State) (c : Nat) (f : Core → Core) : (s.updCore c f).core c = f (s.core c) :=
  SMap.get_set_self _ _ _ _

theorem State.core_updCore_ne (s : State) (c d : Nat) (f : Core → Core) (h : d ≠ c) : (s.updCore c f).core d = s.core d :=
  SMap.get_set_ne _ _ _ _ _ h

@[simp] theorem State.here_updHere (s : State) (f : Core → Core) : (s.updHere f).here = f s.here :=
  SMap.get_set_self _ _ _ _

@[simp] theorem State.here_setCore (s : State) (v : Core) : (s.setCore s.cur v).here = v := SMap.get_set_self _ _ _ _

@[simp] theorem State.die_updDie_self (s : State) (d : Nat) (f : Die → Die) : (s.updDie d f).die d = f (s.die d) :=
  SMap.get_set_self _ _ _ _

theorem State.die_updDie_ne (s : State) (d e : Nat) (f : Die → Die) (h : e ≠ d) : (s.updDie d f).die e = s.die e :=
  SMap.get_set_ne _ _ _ _ _ h

@[simp] theorem State.vf_updVf_self (s : State) (v : Nat) (f : Vf → Vf) : (s.updVf v f).vf v = f (s.vf v) :=
  SMap.get_set_self _ _ _ _

theorem State.vf_updVf_ne (s : State) (v w : Nat) (f : Vf → Vf) (h : w ≠ v) : (s.updVf v f).vf w = s.vf w :=
  SMap.get_set_ne _ _ _ _ _ h

@[simp] theorem State.port_updPort_self (s : State) (p : Nat) (f : Port → Port) : (s.updPort p f).port p = f (s.port p) :=
  SMap.get_set_self _ _ _ _

theorem State.port_updPort_ne (s : State) (p q : Nat) (f : Port → Port) (h : q ≠ p) : (s.updPort p f).port q = s.port q :=
  SMap.get_set_ne _ _ _ _ _ h

/-! ### Streams of a core -/

@[simp] theorem Core.setStream_vec (c : Core) (x : Bool) (t : Stream) : (c.setStream x t).vec = c.vec := by cases x <;> rfl
@[simp] theorem Core.setStream_csr (c : Core) (x : Bool) (t : Stream) : (c.setStream x t).csr = c.csr := by cases x <;> rfl
@[simp] theorem Core.setStream_sems (c : Core) (x : Bool) (t : Stream) : (c.setStream x t).sems = c.sems := by cases x <;> rfl
@[simp] theorem Core.setStream_waiters (c : Core) (x : Bool) (t : Stream) : (c.setStream x t).waiters = c.waiters := by cases x <;> rfl
@[simp] theorem Core.setStream_granted (c : Core) (x : Bool) (t : Stream) : (c.setStream x t).granted = c.granted := by cases x <;> rfl
@[simp] theorem Core.setStream_load (c : Core) (x : Bool) (t : Stream) : (c.setStream x t).load = c.load := by cases x <;> rfl
@[simp] theorem Core.setStream_store (c : Core) (x : Bool) (t : Stream) : (c.setStream x t).store = c.store := by cases x <;> rfl
@[simp] theorem Core.setStream_matrix (c : Core) (x : Bool) (t : Stream) : (c.setStream x t).matrix = c.matrix := by cases x <;> rfl
@[simp] theorem Core.setStream_backfill (c : Core) (x : Bool) (t : Stream) : (c.setStream x t).backfill = c.backfill := by cases x <;> rfl
@[simp] theorem Core.setStream_rows (c : Core) (x : Bool) (t : Stream) : (c.setStream x t).rows = c.rows := by cases x <;> rfl
@[simp] theorem Core.setStream_image (c : Core) (x : Bool) (t : Stream) : (c.setStream x t).image = c.image := by cases x <;> rfl
@[simp] theorem Core.setStream_himage (c : Core) (x : Bool) (t : Stream) : (c.setStream x t).himage = c.himage := by cases x <;> rfl
@[simp] theorem Core.setStream_slots (c : Core) (x : Bool) (t : Stream) : (c.setStream x t).slots = c.slots := by cases x <;> rfl
@[simp] theorem Core.setStream_quad (c : Core) (x : Bool) (t : Stream) : (c.setStream x t).quad = c.quad := by cases x <;> rfl
@[simp] theorem Core.setStream_sp (c : Core) (x : Bool) (t : Stream) : (c.setStream x t).sp = c.sp := by cases x <;> rfl
@[simp] theorem Core.setStream_l1 (c : Core) (x : Bool) (t : Stream) : (c.setStream x t).l1 = c.l1 := by cases x <;> rfl
@[simp] theorem Core.setStream_probe (c : Core) (x : Bool) (t : Stream) : (c.setStream x t).probe = c.probe := by cases x <;> rfl
@[simp] theorem Core.setStream_tlb (c : Core) (x : Bool) (t : Stream) : (c.setStream x t).tlb = c.tlb := by cases x <;> rfl
@[simp] theorem Core.setStream_node (c : Core) (x : Bool) (t : Stream) : (c.setStream x t).node = c.node := by cases x <;> rfl
@[simp] theorem Core.setStream_nci (c : Core) (x : Bool) (t : Stream) : (c.setStream x t).nci = c.nci := by cases x <;> rfl
@[simp] theorem Core.setStream_stand (c : Core) (x : Bool) (t : Stream) : (c.setStream x t).stand = c.stand := by cases x <;> rfl
@[simp] theorem Core.setStream_joining (c : Core) (x : Bool) (t : Stream) : (c.setStream x t).joining = c.joining := by cases x <;> rfl
@[simp] theorem Core.setStream_prevVf (c : Core) (x : Bool) (t : Stream) : (c.setStream x t).prevVf = c.prevVf := by cases x <;> rfl
@[simp] theorem Core.setStream_ecc (c : Core) (x : Bool) (t : Stream) : (c.setStream x t).ecc = c.ecc := by cases x <;> rfl
@[simp] theorem Core.setStream_saveTb (c : Core) (x : Bool) (t : Stream) : (c.setStream x t).saveTb = c.saveTb := by cases x <;> rfl
@[simp] theorem Core.setStream_saveCause (c : Core) (x : Bool) (t : Stream) : (c.setStream x t).saveCause = c.saveCause := by cases x <;> rfl
@[simp] theorem Core.setStream_dbg (c : Core) (x : Bool) (t : Stream) : (c.setStream x t).dbg = c.dbg := by cases x <;> rfl
@[simp] theorem Core.setStream_advanced (c : Core) (x : Bool) (t : Stream) : (c.setStream x t).advanced = c.advanced := by cases x <;> rfl
@[simp] theorem Core.setStream_frozenAt (c : Core) (x : Bool) (t : Stream) : (c.setStream x t).frozenAt = c.frozenAt := by cases x <;> rfl

@[simp] theorem Core.stream_setStream (c : Core) (x : Bool) (t : Stream) : (c.setStream x t).stream x = t := by
  cases x <;> rfl

@[simp] theorem Core.stream_setStream_other (c : Core) (x : Bool) (t : Stream) :
    (c.setStream x t).stream (!x) = c.stream (!x) := by cases x <;> rfl

@[simp] theorem Core.setStream_setStream (c : Core) (x : Bool) (t u : Stream) :
    (c.setStream x t).setStream x u = c.setStream x u := by cases x <;> rfl

@[simp] theorem Core.setStream_stream (c : Core) (x : Bool) : c.setStream x (c.stream x) = c := by cases x <;> rfl

/-- The stream that executes, after a change of it. -/
@[simp] theorem State.self_updSelf (s : State) (f : Stream → Stream) : (s.updSelf f).self = f s.self := by
  simp [State.self, State.updSelf]

/-- The core that executes, after a change of the stream that executes. -/
theorem State.here_updSelf (s : State) (f : Stream → Stream) : (s.updSelf f).here = s.here.setStream s.curX (f s.self) :=
  State.here_updHere s _

/-- Another core, after a change of the stream that executes. -/
theorem State.core_updSelf_ne (s : State) (c : Nat) (f : Stream → Stream) (h : c ≠ s.cur) :
    (s.updSelf f).core c = s.core c := State.core_setCore_ne s s.cur c _ h

/-! ### Registers (R72) -/


@[simp] theorem Stream.setReg_pc (t : Stream) (r : Reg) (v : Dword) : (t.setReg r v).pc = t.pc := by
  unfold Stream.setReg; split <;> [rfl; (split <;> rfl)]
@[simp] theorem Stream.setReg_gpc (t : Stream) (r : Reg) (v : Dword) : (t.setReg r v).gpc = t.gpc := by
  unfold Stream.setReg; split <;> [rfl; (split <;> rfl)]
@[simp] theorem Stream.setReg_mode (t : Stream) (r : Reg) (v : Dword) : (t.setReg r v).mode = t.mode := by
  unfold Stream.setReg; split <;> [rfl; (split <;> rfl)]
@[simp] theorem Stream.setReg_tvec (t : Stream) (r : Reg) (v : Dword) : (t.setReg r v).tvec = t.tvec := by
  unfold Stream.setReg; split <;> [rfl; (split <;> rfl)]
@[simp] theorem Stream.setReg_epc (t : Stream) (r : Reg) (v : Dword) : (t.setReg r v).epc = t.epc := by
  unfold Stream.setReg; split <;> [rfl; (split <;> rfl)]
@[simp] theorem Stream.setReg_ecause (t : Stream) (r : Reg) (v : Dword) : (t.setReg r v).ecause = t.ecause := by
  unfold Stream.setReg; split <;> [rfl; (split <;> rfl)]
@[simp] theorem Stream.setReg_eval (t : Stream) (r : Reg) (v : Dword) : (t.setReg r v).eval = t.eval := by
  unfold Stream.setReg; split <;> [rfl; (split <;> rfl)]
@[simp] theorem Stream.setReg_estatus (t : Stream) (r : Reg) (v : Dword) : (t.setReg r v).estatus = t.estatus := by
  unfold Stream.setReg; split <;> [rfl; (split <;> rfl)]
@[simp] theorem Stream.setReg_loops (t : Stream) (r : Reg) (v : Dword) : (t.setReg r v).loops = t.loops := by
  unfold Stream.setReg; split <;> [rfl; (split <;> rfl)]
@[simp] theorem Stream.setReg_frec (t : Stream) (r : Reg) (v : Dword) : (t.setReg r v).frec = t.frec := by
  unfold Stream.setReg; split <;> [rfl; (split <;> rfl)]
@[simp] theorem Stream.setReg_sib (t : Stream) (r : Reg) (v : Dword) : (t.setReg r v).sib = t.sib := by
  unfold Stream.setReg; split <;> [rfl; (split <;> rfl)]
@[simp] theorem Stream.setReg_wait (t : Stream) (r : Reg) (v : Dword) : (t.setReg r v).wait = t.wait := by
  unfold Stream.setReg; split <;> [rfl; (split <;> rfl)]
@[simp] theorem Stream.setReg_run (t : Stream) (r : Reg) (v : Dword) : (t.setReg r v).run = t.run := by
  unfold Stream.setReg; split <;> [rfl; (split <;> rfl)]

/-- s0 reads zero (R72). -/
@[simp] theorem Stream.reg_zero (t : Stream) : t.reg 0 = 0 := rfl

/-- A written register reads as written; s0 still reads zero (R72). -/
theorem Stream.reg_setReg (t : Stream) (r q : Reg) (v : Dword) :
    (t.setReg r v).reg q = if q = 0 then 0 else if q = r then v else t.reg q := by
  by_cases hq : q = 0
  · rw [if_pos hq, hq]; rfl
  by_cases hr : r = 0
  · have : q ≠ r := by rw [hr]; exact hq
    rw [if_neg hq, if_neg this, Stream.setReg, if_pos hr]
  have hn : q ≠ r → q.toNat ≠ r.toNat := fun h e => h (BitVec.eq_of_toNat_eq e)
  unfold Stream.reg Stream.setReg
  simp only [hq, hr, if_false]
  by_cases hm : t.mode = .handler ∧ 24 ≤ r.toNat
  · simp only [hm, true_and, and_self, if_true]
    by_cases e : q = r
    · simp [e, hm]
    · by_cases h24 : 24 ≤ q.toNat
      · simp [e, h24, SMap.get_set_ne _ _ _ _ _ (hn e)]
      · simp [e, h24]
  · simp only [hm, if_false]
    by_cases e : q = r
    · subst e; simp [hm]
    · simp [e, SMap.get_set_ne _ _ _ _ _ (hn e)]


@[simp] theorem Stream.advance_regs (t : Stream) (n : Nat) (stop : Bool) : (t.advance n stop).regs = t.regs := by
  unfold Stream.advance; split <;> rfl
@[simp] theorem Stream.advance_hregs (t : Stream) (n : Nat) (stop : Bool) : (t.advance n stop).hregs = t.hregs := by
  unfold Stream.advance; split <;> rfl
@[simp] theorem Stream.advance_mode (t : Stream) (n : Nat) (stop : Bool) : (t.advance n stop).mode = t.mode := by
  unfold Stream.advance; split <;> rfl
@[simp] theorem Stream.advance_tvec (t : Stream) (n : Nat) (stop : Bool) : (t.advance n stop).tvec = t.tvec := by
  unfold Stream.advance; split <;> rfl
@[simp] theorem Stream.advance_epc (t : Stream) (n : Nat) (stop : Bool) : (t.advance n stop).epc = t.epc := by
  unfold Stream.advance; split <;> rfl
@[simp] theorem Stream.advance_ecause (t : Stream) (n : Nat) (stop : Bool) : (t.advance n stop).ecause = t.ecause := by
  unfold Stream.advance; split <;> rfl
@[simp] theorem Stream.advance_eval (t : Stream) (n : Nat) (stop : Bool) : (t.advance n stop).eval = t.eval := by
  unfold Stream.advance; split <;> rfl
@[simp] theorem Stream.advance_estatus (t : Stream) (n : Nat) (stop : Bool) : (t.advance n stop).estatus = t.estatus := by
  unfold Stream.advance; split <;> rfl
@[simp] theorem Stream.advance_frec (t : Stream) (n : Nat) (stop : Bool) : (t.advance n stop).frec = t.frec := by
  unfold Stream.advance; split <;> rfl
@[simp] theorem Stream.advance_sib (t : Stream) (n : Nat) (stop : Bool) : (t.advance n stop).sib = t.sib := by
  unfold Stream.advance; split <;> rfl
@[simp] theorem Stream.advance_wait (t : Stream) (n : Nat) (stop : Bool) : (t.advance n stop).wait = t.wait := by
  unfold Stream.advance; split <;> rfl
@[simp] theorem Stream.advance_run (t : Stream) (n : Nat) (stop : Bool) : (t.advance n stop).run = t.run := by
  unfold Stream.advance; split <;> rfl
@[simp] theorem Stream.jump_regs (t : Stream) (a : Dword) : (t.jump a).regs = t.regs := rfl
@[simp] theorem Stream.jump_hregs (t : Stream) (a : Dword) : (t.jump a).hregs = t.hregs := rfl
@[simp] theorem Stream.jump_mode (t : Stream) (a : Dword) : (t.jump a).mode = t.mode := rfl
@[simp] theorem Stream.jump_tvec (t : Stream) (a : Dword) : (t.jump a).tvec = t.tvec := rfl
@[simp] theorem Stream.jump_epc (t : Stream) (a : Dword) : (t.jump a).epc = t.epc := rfl
@[simp] theorem Stream.jump_ecause (t : Stream) (a : Dword) : (t.jump a).ecause = t.ecause := rfl
@[simp] theorem Stream.jump_eval (t : Stream) (a : Dword) : (t.jump a).eval = t.eval := rfl
@[simp] theorem Stream.jump_estatus (t : Stream) (a : Dword) : (t.jump a).estatus = t.estatus := rfl
@[simp] theorem Stream.jump_frec (t : Stream) (a : Dword) : (t.jump a).frec = t.frec := rfl
@[simp] theorem Stream.jump_sib (t : Stream) (a : Dword) : (t.jump a).sib = t.sib := rfl
@[simp] theorem Stream.jump_wait (t : Stream) (a : Dword) : (t.jump a).wait = t.wait := rfl
@[simp] theorem Stream.jump_run (t : Stream) (a : Dword) : (t.jump a).run = t.run := rfl

/-- Registers read alike in streams that differ in neither bank nor mode. -/
theorem Stream.reg_congr {t u : Stream} (h : t.regs = u.regs) (k : t.hregs = u.hregs) (m : t.mode = u.mode) (r : Reg) :
    t.reg r = u.reg r := by simp only [Stream.reg, h, k, m]

/-- Retirement changes no register. -/
@[simp] theorem Stream.reg_advance (t : Stream) (n : Nat) (stop : Bool) (r : Reg) : (t.advance n stop).reg r = t.reg r :=
  Stream.reg_congr (by simp) (by simp) (by simp) r

/-- A jump changes no register. -/
@[simp] theorem Stream.reg_jump (t : Stream) (a : Dword) (r : Reg) : (t.jump a).reg r = t.reg r :=
  Stream.reg_congr (by simp) (by simp) (by simp) r

/-- The core that executes after a retirement of its stream. -/
theorem State.here_retired (s : State) :
    s.retired.here = { s.here.setStream s.curX { s.self with wait := none } with advanced := s.tb } := by
  have : s.retired.here = { (s.updSelf fun t => { t with wait := none }).here with advanced := s.tb } := by
    show ((s.updSelf fun t => { t with wait := none }).updHere fun c => { c with advanced := s.tb }).here = _
    rw [State.here_updHere]
  rw [this, State.here_updSelf]

/-- Another core after a retirement. -/
theorem State.core_retired_ne (s : State) (c : Nat) (h : c ≠ s.cur) : s.retired.core c = s.core c := by
  show ((s.updSelf fun t => { t with wait := none }).updHere fun c => { c with advanced := s.tb }).core c = _
  exact (State.core_updCore_ne _ _ _ _ h).trans (State.core_updSelf_ne _ _ _ h)

/-- The stream that executes, after its retirement. -/
theorem State.self_retired (s : State) : s.retired.self = { s.self with wait := none } := by
  have h : s.retired.self = s.retired.here.stream s.curX := rfl
  rw [h, State.here_retired]
  exact Core.stream_setStream s.here s.curX _

/-- The stream that executes, after an instruction of one word retires (R69, R104). -/
theorem State.self_done (s : State) (stop : Bool) : (s.done stop).self = { s.self.advance 1 stop with wait := none } := by
  rw [State.done, State.self_retired, State.self_updSelf]

/-- The stream that executes, after a taken transfer (R105). -/
theorem State.self_jumpTo (s : State) (a : Dword) : (s.jumpTo a).self = { s.self.jump a with wait := none } := by
  rw [State.jumpTo, State.self_retired, State.self_updSelf]

/-- The core that executes, after an instruction of one word retires. -/
theorem State.here_done (s : State) (stop : Bool) : (s.done stop).here =
    { s.here.setStream s.curX { s.self.advance 1 stop with wait := none } with advanced := s.tb } := by
  rw [State.done, State.here_retired, State.here_updSelf, State.self_updSelf]
  simp

/-- The core that executes, after a taken transfer. -/
theorem State.here_jumpTo (s : State) (a : Dword) : (s.jumpTo a).here =
    { s.here.setStream s.curX { s.self.jump a with wait := none } with advanced := s.tb } := by
  rw [State.jumpTo, State.here_retired, State.here_updSelf, State.self_updSelf]
  simp

/-- Another core, after an instruction of one word retires. -/
theorem State.core_done_ne (s : State) (stop : Bool) (c : Nat) (h : c ≠ s.cur) : (s.done stop).core c = s.core c := by
  have e := State.core_updSelf_ne s c (fun t => t.advance 1 stop) h
  exact (State.core_retired_ne (s.updSelf (fun t => t.advance 1 stop)) c h).trans e

/-- Another core, after a taken transfer. -/
theorem State.core_jumpTo_ne (s : State) (a : Dword) (c : Nat) (h : c ≠ s.cur) : (s.jumpTo a).core c = s.core c := by
  have e := State.core_updSelf_ne s c (fun t => t.jump a) h
  exact (State.core_retired_ne (s.updSelf (fun t => t.jump a)) c h).trans e

end Sys2Proof.Machine
end

