-- ==== Sys2Proof/Laws/Retire.lean ====
section
/-! SUPPORT. What the shared operations of the streams do: an instruction that writes a register and retires, one that
only retires, a taken transfer, a trap and a wait (R69, R72, R74, R77, R102, R104, R105). -/

namespace Sys2Proof.Machine
open Sys2Proof

/-! ### Frames of changes of the stream that executes -/

/-- A stream changed in place of the one that executes, with the note of the advance: the frame of every retirement. -/
theorem onlyStream_of_here {s t : State} (u : Stream) (a : Nat) (h : t = { s with cores := t.cores, issue := t.issue })
    (hc : ∀ d, d ≠ s.cur → t.core d = s.core d)
    (hh : t.here = { s.here.setStream s.curX u with advanced := a }) : OnlyStream s t := by
  have hx : t.curX = s.curX := by rw [h]
  have hu : t.self = u := by
    show t.here.stream t.curX = u
    rw [hx, hh]
    exact Core.stream_setStream s.here s.curX u
  refine ⟨⟨h, hc⟩, ?_⟩
  rw [hu, hh]

/-- A core that differs in its streams and the note of the advance alone has the same scratchpad. -/
theorem memorySame_of_onlyStream {s t : State} (h : OnlyStream s t) : MemorySame s t := by
  obtain ⟨⟨he, hc⟩, hh⟩ := h
  have hm : t.mem = s.mem := by rw [he]
  have ho : t.host = s.host := by rw [he]
  have hcur : t.cur = s.cur := by rw [he]
  refine ⟨fun _ _ _ => by rw [hm], fun core a => ?_, fun a => by rw [ho]⟩
  by_cases e : core = s.cur
  · subst e
    have : t.core s.cur = t.here := by rw [← hcur]; rfl
    rw [this, hh]
    show ((s.here.setStream s.curX t.self).sp).byte a = _
    rw [Core.setStream_sp]; rfl
  · rw [hc core e]

/-! ### Retirement -/

/-- Where a stream goes on behind `n` words with no loop level in the way (R69, R104). -/
theorem Stream.advance_plain (t : Stream) (n : Nat) (stop : Bool)
    (h : t.loops.depth = 0 ∨ t.mode = .handler ∨ stop = false) :
    (t.advance n stop).pc = t.pc + BitVec.ofNat 64 (4 * n)
      ∧ (t.advance n stop).gpc = if stop then (t.advance n stop).pc else t.gpc := by
  unfold Stream.advance
  cases stop with
  | false => exact ⟨rfl, rfl⟩
  | true =>
    rcases h with h | h | h
    · by_cases hm : t.mode = .handler
      · simp [hm]
      · simp [hm, Loops.countDown, h]
    · simp [h]
    · cases h

/-- An instruction that changed only registers of its stream and retires, with every effect of it. -/
theorem setReg_done_writes (s : State) (d : Reg) (v : Dword) (stop : Bool) :
    Writes s ((s.setReg d v).done stop) d v stop := by
  have hself : ((s.setReg d v).done stop).self = { (s.self.setReg d v).advance 1 stop with wait := none } := by
    rw [State.self_done]
    show ({ (s.updSelf fun t => t.setReg d v).self.advance 1 stop with wait := none } : Stream) = _
    rw [State.self_updSelf]
  have hhere : ((s.setReg d v).done stop).here =
      { s.here.setStream s.curX { (s.self.setReg d v).advance 1 stop with wait := none } with advanced := s.tb } := by
    rw [State.here_done]
    show ({ (s.updSelf fun t => t.setReg d v).here.setStream s.curX
      { (s.updSelf fun t => t.setReg d v).self.advance 1 stop with wait := none } with advanced := s.tb } : Core) = _
    rw [State.self_updSelf, State.here_updSelf]
    simp
  have hreg : ∀ (m : Mode) (r : Reg), ({ ((s.setReg d v).done stop).self with mode := m } : Stream).reg r =
      ({ s.self.setReg d v with mode := m } : Stream).reg r := by
    intro m r
    rw [hself]
    apply Stream.reg_congr <;> simp
  have honly : OnlyStream s ((s.setReg d v).done stop) := by
    refine onlyStream_of_here _ _ ?_ (fun c hc => ?_) hhere
    · rfl
    · exact (State.core_done_ne (s.setReg d v) stop c hc).trans (State.core_updSelf_ne s c (fun t => t.setReg d v) hc)
  have hmode : (s.self.setReg d v).mode = s.self.mode := Stream.setReg_mode _ _ _
  refine ⟨fun hd => ?_, rfl, fun m r h => ?_, ?_, honly, memorySame_of_onlyStream honly, ?_⟩
  · have : ((s.setReg d v).done stop).reg d = (s.self.setReg d v).reg d := by
      show ((s.setReg d v).done stop).self.reg d = _
      rw [hself]
      refine Stream.reg_congr ?_ ?_ ?_ d <;> simp
    rw [this, Stream.reg_setReg, if_neg hd, if_pos rfl]
  · rw [hreg]
    unfold Stream.setReg
    by_cases hd : d = 0
    · simp [hd]
    simp only [hd, if_false]
    by_cases hb : s.self.mode = .handler ∧ 24 ≤ d.toNat
    · simp only [hb, and_self, if_true]
      unfold Stream.reg
      by_cases hr : r = 0
      · simp [hr]
      simp only [hr, if_false]
      by_cases hm : m = .handler ∧ 24 ≤ r.toNat
      · simp only [hm, and_self, if_true]
        refine SMap.get_set_ne _ _ _ _ _ fun e => ?_
        have e : r = d := BitVec.eq_of_toNat_eq e
        rcases h with h | h
        · exact h e
        · exact h ⟨fun _ => ⟨hb.1, by rw [e]; exact hb.2⟩, fun _ => hm⟩
      · simp only [hm, if_false]
    · simp only [hb, if_false]
      unfold Stream.reg
      by_cases hr : r = 0
      · simp [hr]
      simp only [hr, if_false]
      by_cases hm : m = .handler ∧ 24 ≤ r.toNat
      · simp only [hm, and_self, if_true]
      · simp only [hm, if_false]
        refine SMap.get_set_ne _ _ _ _ _ fun e => ?_
        have e : r = d := BitVec.eq_of_toNat_eq e
        rcases h with h | h
        · exact h e
        · refine h ⟨fun k => absurd k hm, fun k => absurd ?_ hb⟩
          exact ⟨k.1, by rw [← e]; exact k.2⟩
  · rw [OnlyRegs, hself]
    simp
  · refine ⟨rfl, by rw [hself], fun h => ?_⟩
    rw [hself]
    have := Stream.advance_plain (s.self.setReg d v) 1 stop (by rw [hmode]; simpa using h)
    simpa using this

/-- An instruction of `n` words that changes nothing but its stream's place. -/
theorem advance_advancesBy (s : State) (n : Nat) (stop : Bool) :
    AdvancesBy s (s.updSelf fun t => t.advance n stop).retired n stop := by
  have hself : (s.updSelf fun t => t.advance n stop).retired.self = { s.self.advance n stop with wait := none } := by
    rw [State.self_retired, State.self_updSelf]
  have hhere : (s.updSelf fun t => t.advance n stop).retired.here =
      { s.here.setStream s.curX { s.self.advance n stop with wait := none } with advanced := s.tb } := by
    rw [State.here_retired, State.self_updSelf, State.here_updSelf]
    simp
  have honly : OnlyStream s (s.updSelf fun t => t.advance n stop).retired :=
    onlyStream_of_here _ _ rfl (fun c hc => (State.core_retired_ne (s.updSelf fun t => t.advance n stop) c hc).trans
      (State.core_updSelf_ne s c (fun t => t.advance n stop) hc)) hhere
  refine ⟨?_, ?_, honly, memorySame_of_onlyStream honly, rfl, ?_, fun h => ?_⟩
  · rw [RegsSame, hself]; simp
  · rw [OnlyRegs, hself]; simp
  · rw [hself]
  · rw [hself]; exact Stream.advance_plain s.self n stop h

/-- An instruction that changes nothing but its stream's place. -/
theorem done_onlyAdvances (s : State) (stop : Bool) : OnlyAdvances s (s.done stop) stop := advance_advancesBy s 1 stop

/-- An instruction with a tail word where it has one, that changes nothing but its stream's place. -/
theorem doneTail_advancesBy (s : State) (tail : Option Tail) (stop : Bool) :
    AdvancesBy s (s.doneTail tail stop) (if tail.isSome then 2 else 1) stop := advance_advancesBy s _ stop

/-- A taken transfer. -/
theorem jumpTo_goesTo (s : State) (a : Dword) :
    GoesTo (s.jumpTo a) a ∧ RegsSame s (s.jumpTo a) ∧ OnlyRegs s (s.jumpTo a) ∧ OnlyStream s (s.jumpTo a)
      ∧ MemorySame s (s.jumpTo a) := by
  have honly : OnlyStream s (s.jumpTo a) :=
    onlyStream_of_here _ _ rfl (fun c hc => State.core_jumpTo_ne s a c hc) (State.here_jumpTo s a)
  refine ⟨⟨rfl, ?_, ?_, ?_⟩, ?_, ?_, honly, memorySame_of_onlyStream honly⟩
  · rw [State.self_jumpTo]
  · rw [State.self_jumpTo]; rfl
  · rw [State.self_jumpTo]; rfl
  · rw [RegsSame, State.self_jumpTo]; exact ⟨rfl, rfl⟩
  · show (s.jumpTo a).self = _
    rw [State.self_jumpTo]; rfl

/-! ### Traps (R77, R78) -/

/-- A stream leaves what it waited in. -/
theorem Core.unwait_stream (c : Core) (x : Bool) : (c.unwait x).stream x = { c.stream x with wait := none } := by
  cases x <;> rfl

/-- The other stream goes on waiting. -/
theorem Core.unwait_other (c : Core) (x : Bool) : (c.unwait x).stream (!x) = c.stream (!x) := by
  cases x <;> rfl

/-- What a core must be for the module to have taken a trap on it. -/
theorem tookTrap_of (s : State) (core : Nat) (x : Bool) (code : Byte) (val : Dword) (flags : Nat) (rec : FaultRec)
    (v : Core)
    (h1 : v.stream x =
      { (s.core core).stream x with
          epc := ((s.core core).stream x).gpc, ecause := code.zeroExtend 64, eval := val
          estatus := BitVec.ofNat 64 (flags + ((s.core core).stream x).mode.code)
          mode := if ((s.core core).stream x).mode = .node then .handler else ((s.core core).stream x).mode
          pc := ((s.core core).stream x).tvec, gpc := ((s.core core).stream x).tvec, frec := rec, sib := none
          wait := none })
    (h2 : v.stream (!x) = if ((s.core core).stream (!x)).mode = .node then { (s.core core).stream (!x) with sib := some code }
      else (s.core core).stream (!x))
    (h3 : v = { s.core core with c := v.c, x := v.x, waiters := v.waiters, joining := v.joining, stand := v.stand }) :
    TookTrap s ((s.dropReads (.stream core)).setCore core v) core x code val flags rec := by
  have hcore : ((s.dropReads (.stream core)).setCore core v).core core = v := State.core_setCore_self _ core v
  refine ⟨⟨rfl, fun d hd => State.core_setCore_ne _ core d v hd⟩, ?_, ?_, ?_, fun _ _ _ => rfl, fun c a => ?_, fun _ => rfl⟩
  · rw [hcore, h1]
  · rw [hcore, h2]
  · rw [hcore]; exact h3
  · by_cases e : c = core
    · subst e
      rw [hcore, h3]
    · rw [State.core_setCore_ne _ core c v e]
      rfl

/-- TakeTrap by a stream that can take a trap without ending its node. -/
theorem takeTrap_tookTrap (s : State) (core : Nat) (x : Bool) (code : Byte) (val : Dword) (flags : Nat) (rec : FaultRec)
    (h : s.canTrap core x) : TookTrap s (s.takeTrap core x code val flags rec) core x code val flags rec := by
  obtain ⟨hm, hn⟩ := h
  have hs : ((s.core core).unwait x).stream x = { (s.core core).stream x with wait := none } := Core.unwait_stream _ _
  have hv : ((s.core core).unwait x).vfid = (s.core core).vfid := by cases x <;> rfl
  have hc : ¬((((s.core core).unwait x).stream x).mode = .handler ∨
      ((((s.core core).unwait x).stream x).mode = .node ∧ s.noHandler ((s.core core).unwait x).vfid)) := by
    rw [hs, hv]
    rintro (h | ⟨h, h'⟩)
    · exact hm h
    · rw [hn h] at h'; cases h'
  have ho : ((s.core core).unwait x).stream (!x) = (s.core core).stream (!x) := Core.unwait_other _ _
  have hd : ∀ k, (s.dropReads (.stream core)).core k = s.core k := fun _ => rfl
  unfold State.takeTrap
  simp only [hd]
  rw [if_neg (show ¬(_ ∨ (_ ∧ (s.dropReads (.stream core)).noHandler _)) from hc)]
  simp only [Core.stream_setStream_other, ho, hs]
  refine tookTrap_of s core x code val flags rec _ ?_ ?_ ?_
  · split
    · cases x <;> rfl
    · exact Core.stream_setStream _ _ _
  · split
    · exact Core.stream_setStream _ _ _
    · rw [Core.stream_setStream_other, ho]
  · split <;> cases x <;> rfl

/-- A precise trap that leaves no more than its cause and value. -/
theorem trapHere_trapsHere (s : State) (code : Byte) (val : Dword) (h : s.mayTrap) (hr : recorded code = false)
    (hc : code ≠ 0x71 ∧ code ≠ 0x72) : TrapsHere s (s.trapHere ⟨code, val, .zero, []⟩) code val := by
  have hk : contained code s.self.mode = false := by
    have h1 : (code == 0x71) = false := by simpa using hc.1
    have h2 : (code == 0x72) = false := by simpa using hc.2
    simp only [contained, h1, h2, Bool.or_self, Bool.false_and]
  have e : s.trapHere ⟨code, val, .zero, []⟩ =
      { s.takeTrap s.cur s.curX code val 0 (plainRec s.curX code) with issue := .trapped } := by
    unfold State.trapHere State.preciseTrap
    show ({ (match if contained code s.self.mode then s.here.node else none with
      | some id => s.contain id code.toNat _
      | none => s.takeTrap s.cur s.curX code val 0 _) with issue := .trapped } : State) = _
    rw [hk]
    simp only [Bool.false_eq_true, if_false, Trap.shown, hr]
    rfl
  obtain ⟨⟨h1, h2⟩, h3, h4, h5, h6⟩ := takeTrap_tookTrap s s.cur s.curX code val 0 (plainRec s.curX code) h
  refine ⟨⟨⟨?_, fun d hd => by rw [e]; exact h2 d hd⟩, by rw [e]; exact h3, by rw [e]; exact h4, by rw [e]; exact h5, ?_⟩, by rw [e]⟩
  · rw [e]
    conv_lhs => rw [h1]
  · rw [e]; exact h6

/-! ### Waits (R74, R94) -/

/-- A wait with nothing met on the way: the stream stands at its group and holds what it waits for; a wait for a
semaphore also stands in the core's queue of waiters. -/
theorem waitHere_eq (s : State) (on : WaitOn) : ∃ F w, F s.self = { s.self with pc := s.self.gpc, wait := some (on, w) } ∧
    (s.waitHere on [] = { s.updSelf F with issue := .waiting } ∨ ∃ ws : Core → List (Nat × Waiter), s.waitHere on [] =
      { (s.updSelf F).updHere fun c => { c with waiters := ws c } with issue := .waiting }) := by
  have hw : ∃ w, (match s.self.wait with
      | some (v, since) => if v = on then some (v, since) else some (on, s.tb)
      | none => some (on, s.tb)) = some (on, w) := by
    split
    · split
      · next h => exact ⟨_, by rw [h]⟩
      · exact ⟨_, rfl⟩
    · exact ⟨_, rfl⟩
  obtain ⟨w, hw⟩ := hw
  refine ⟨fun t => { t with pc := t.gpc, wait := match t.wait with
      | some (v, since) => if v = on then some (v, since) else some (on, s.tb)
      | none => some (on, s.tb) }, w, by simp only [hw], ?_⟩
  unfold State.waitHere
  simp only [State.applySides, List.foldl_nil]
  generalize s.updSelf _ = q
  cases on with
  | sem n =>
    refine .inr ⟨fun c => if c.waiters.any fun w => w == (n, Waiter.stream) then c.waiters
      else c.waiters ++ [(n, Waiter.stream)], ?_⟩
    have : (fun c : Core => if c.waiters.any fun w => w == (n, Waiter.stream) then c
        else { c with waiters := c.waiters ++ [(n, Waiter.stream)] }) =
        fun c => { c with waiters := if c.waiters.any fun w => w == (n, Waiter.stream) then c.waiters
          else c.waiters ++ [(n, Waiter.stream)] } := by
      funext c
      split <;> rfl
    exact congrArg (fun g => ({ q.updHere g with issue := .waiting } : State)) this
  | _ => exact .inl rfl

/-- An instruction that waits with nothing met on the way. -/
theorem waitHere_waits (s : State) (on : WaitOn) : Waits s (s.waitHere on []) on := by
  obtain ⟨F, w, hF, h⟩ := waitHere_eq s on
  have key : ∀ t : State, t = { s with cores := t.cores, issue := .waiting } →
      (∀ d, d ≠ s.cur → t.core d = s.core d) →
      (∃ ws, t.here = { s.here.setStream s.curX (F s.self) with waiters := ws }) → Waits s t on := by
    intro t he hc ⟨ws, hh⟩
    have hX : t.curX = s.curX := by rw [he]
    have hcur : t.cur = s.cur := by rw [he]
    have hself : t.self = F s.self := by
      show t.here.stream t.curX = _
      rw [hX, hh]
      exact Core.stream_setStream s.here s.curX _
    have hsp : ∀ core a, (t.core core).sp.byte a = (s.core core).sp.byte a := by
      intro core a
      by_cases e : core = s.cur
      · have : t.core s.cur = t.here := by rw [← hcur]; rfl
        rw [e, this, hh]
        show ((s.here.setStream s.curX _).sp).byte a = _
        rw [Core.setStream_sp]; rfl
      · rw [hc core e]
    have hm : t.mem = s.mem := by rw [he]
    have ho : t.host = s.host := by rw [he]
    refine ⟨by rw [he], by rw [hself, hF], by rw [hself, hF]; rfl, ?_, ?_, ⟨?_, hc⟩,
      ⟨fun _ _ _ => by rw [hm], hsp, fun _ => by rw [ho]⟩, ?_⟩
    · rw [RegsSame, hself, hF]; exact ⟨rfl, rfl⟩
    · rw [OnlyRegs, hself, hF]
    · conv_lhs => rw [he]
      rw [show t.issue = .waiting by rw [he]]
    · rw [hself, hh]
  have hcore : ∀ (q : State) (i : Issue) d, ({ q with issue := i } : State).core d = q.core d := fun _ _ _ => rfl
  have hhere : ∀ (q : State) (i : Issue), ({ q with issue := i } : State).here = q.here := fun _ _ => rfl
  rcases h with h | ⟨ws, h⟩
  · rw [h]
    refine key _ rfl (fun d hd => ?_) ⟨s.here.waiters, ?_⟩
    · rw [hcore, State.core_updSelf_ne s d F hd]
    · rw [hhere, State.here_updSelf]
      cases s.curX <;> rfl
  · rw [h]
    refine key _ rfl (fun d hd => ?_) ⟨ws (s.updSelf F).here, ?_⟩
    · rw [hcore]
      exact (State.core_updCore_ne (s.updSelf F) s.cur d _ hd).trans (State.core_updSelf_ne s d F hd)
    · rw [hhere, State.here_updHere, State.here_updSelf]

end Sys2Proof.Machine
end

