-- ==== Sys2Proof/Laws/Scratchpad.lean ====
section
/-! SUPPORT. What a scratchpad access does as a whole: the units of R195 together are the bytes of the access. -/

namespace Sys2Proof.Machine
open Sys2Proof

theorem unitPart_le (o n : Nat) : unitPart o n ≤ n := Nat.min_le_left _ _

theorem Memory.read_append (m : Memory) (a i j : Nat) : Memory.read m a i ++ Memory.read m (a + i) j = Memory.read m a (i + j) := by
  simp only [Memory.read, List.range_add, List.map_append, List.map_map]
  congr 1
  exact List.map_congr_left fun k _ => by simp [Nat.add_assoc]

theorem Memory.write_append (b c : List Byte) (m : Memory) (a : Nat) :
    Memory.write (Memory.write m a b) (a + b.length) c = Memory.write m a (b ++ c) := by
  induction b generalizing m a with
  | nil => rfl
  | cons x t ih => simp only [Memory.write, List.cons_append, List.length_cons, ← ih, Nat.add_assoc, Nat.add_comm 1]

/-- Enough units take in the whole access. -/
theorem units_rest (k o n : Nat) (h : o % 64 + n ≤ 64 * (k + 1)) :
    (o + unitPart o n) % 64 + (n - unitPart o n) ≤ 64 * k ∨ n - unitPart o n = 0 := by
  unfold unitPart; omega

theorem Core.readUnits_eq (c : Core) (k : Nat) : ∀ o n, (o % 64 + n ≤ 64 * k ∨ n = 0) → c.readUnits k o n = Memory.read c.sp o n := by
  induction k with
  | zero =>
    intro o n h
    have : n = 0 := by omega
    subst this; rfl
  | succ k ih =>
    intro o n h
    have hle := unitPart_le o n
    have hr : (o + unitPart o n) % 64 + (n - unitPart o n) ≤ 64 * k ∨ n - unitPart o n = 0 := by
      rcases h with h | h
      · exact units_rest k o n h
      · omega
    rw [Core.readUnits, ih _ _ hr, Memory.read_append, Nat.add_sub_cancel' hle]

theorem Core.writeUnits_eq (k : Nat) : ∀ (c : Core) (o : Nat) (bs : List Byte), (o % 64 + bs.length ≤ 64 * k ∨ bs = []) →
    c.writeUnits k o bs = { c with sp := Memory.write c.sp o bs } := by
  induction k with
  | zero =>
    intro c o bs h
    have : bs = [] := h.elim (fun h => List.length_eq_zero_iff.mp (by omega)) id
    subst this; rfl
  | succ k ih =>
    intro c o bs h
    have hle := unitPart_le o bs.length
    have hr : (o + unitPart o bs.length) % 64 + (bs.drop (unitPart o bs.length)).length ≤ 64 * k
        ∨ bs.drop (unitPart o bs.length) = [] := by
      rw [List.length_drop, ← List.length_eq_zero_iff, List.length_drop]
      rcases h with h | h
      · exact units_rest k o bs.length h
      · right; simp [h]
    rw [Core.writeUnits]
    simp only [ih _ _ _ hr]
    have ht : (bs.take (unitPart o bs.length)).length = unitPart o bs.length := by rw [List.length_take]; omega
    have hw := Memory.write_append (bs.take (unitPart o bs.length)) (bs.drop (unitPart o bs.length)) c.sp o
    rw [ht, List.take_append_drop] at hw
    rw [hw]

/-- A scratchpad read gives the bytes of its range. -/
theorem Core.spRead_eq (c : Core) (o n : Nat) : c.spRead o n = Memory.read c.sp o n :=
  Core.readUnits_eq c _ o n (by omega)

/-- A scratchpad write replaces the bytes of its range and nothing else. -/
theorem Core.spWrite_eq (c : Core) (o : Nat) (bs : List Byte) : c.spWrite o bs = { c with sp := Memory.write c.sp o bs } :=
  Core.writeUnits_eq _ c o bs (by omega)

end Sys2Proof.Machine
end

