-- ==== Sys2Proof/Tests/Slice0.lean ====
section
/-! SUPPORT. Tests: ill-formed terms are refused, written-out words are read, single steps give what the manual's tables give,
and for every statement a state and operands that meet its hypotheses. -/

set_option maxRecDepth 20000
set_option Elab.async false

namespace Sys2Proof.Machine
open Sys2Proof

/-! ### Well-formedness: an ill-formed term for each check -/

/-- A tail whose SCOPE stands without A or L, and one whose SCOPE is 5 (R46, R48). -/
theorem test_wf_tail : (Tail.mk none none false false 3 0 none).wf = false ∧ (Tail.mk none none true false 5 0 none).wf = false := by
  decide
theorem test_wf_loopi : (Instr.loopi ⟨0, 1, true⟩).wf = false := by decide
theorem test_wf_ld : (Instr.ld ⟨1, 2, true, 3, 0, true⟩).wf = false := by decide
theorem test_wf_st : (Instr.st ⟨1, 2, true, 3, 1, 0, true⟩).wf = false := by decide
theorem test_wf_amo : (Instr.amoAdd ⟨1, 2, 3, true, false, false, 2, true⟩).wf = false
    ∧ (Instr.amoFadd ⟨1, 2, 3, false, false, 2, true⟩).wf = false := by decide
theorem test_wf_fence : (Instr.fence ⟨0xFF, 5, true⟩).wf = false := by decide
theorem test_wf_qrd : (Instr.qrd ⟨12, 1, 2, true⟩).wf = false ∧ (Instr.qrdh ⟨16, 1, 2, true⟩).wf = false
    ∧ (Instr.qwr ⟨11, 1, 2, true⟩).wf = false := by decide
theorem test_wf_command : (Instr.xld ⟨1, 2, 3, 0, some ⟨none, none, false, false, 1, 0, none⟩, true⟩).wf = false
    ∧ (Instr.mlw ⟨1, false, some ⟨none, none, false, false, 1, 0, none⟩, true⟩).wf = false
    ∧ (Instr.mswap ⟨some ⟨none, none, false, false, 1, 0, none⟩, true⟩).wf = false
    ∧ (Instr.mmul ⟨1, 2, false, false, false, some ⟨none, none, false, false, 1, 0, none⟩, true⟩).wf = false
    ∧ (Instr.mamap ⟨1, 2, 3, some ⟨none, none, false, false, 1, 0, none⟩, true⟩).wf = false
    ∧ (Instr.mst ⟨1, 2, false, false, false, some ⟨none, none, false, false, 1, 0, none⟩, true⟩).wf = false
    ∧ (Instr.mzero ⟨1, some ⟨none, none, false, false, 1, 0, none⟩, true⟩).wf = false
    ∧ (Instr.mlora ⟨1, 2, some ⟨none, none, false, false, 1, 0, none⟩, true⟩).wf = false
    ∧ (Instr.mloraClr ⟨2, some ⟨none, none, false, false, 1, 0, none⟩, true⟩).wf = false := by decide
/-- mfuse with shape 0; attn, tload and tinval with a timed tail; tload and bkfill with a colour in
theirs (R46, R48, R155, R188, R346). -/
theorem test_wf_short_tails : (Instr.mfuse ⟨0, none, true⟩).wf = false
    ∧ (Instr.attn ⟨1, some ⟨none, none, false, false, 0, 0, some (1, 2)⟩, true⟩).wf = false
    ∧ (Instr.tload ⟨1, 2, false, some ⟨none, none, false, false, 0, 0, some (1, 2)⟩, true⟩).wf = false
    ∧ (Instr.tload ⟨1, 2, false, some ⟨none, none, false, false, 0, 3, none⟩, true⟩).wf = false
    ∧ (Instr.tinval ⟨1, some ⟨none, none, false, false, 0, 0, some (1, 2)⟩, true⟩).wf = false
    ∧ (Instr.bkfill ⟨1, 2, 3, some ⟨none, none, false, false, 0, 1, none⟩, true⟩).wf = false := by decide
/-- A push of a fed queue, a pop of an out queue, a write of k0 (R59). -/
theorem test_wf_queues : (Instr.vadd ⟨11, 0, 1, 0, false, false, true⟩).wf = false
    ∧ (Instr.vadd ⟨12, 13, 1, 0, false, false, true⟩).wf = false ∧ (Instr.vadd ⟨12, 1, 15, 0, false, false, true⟩).wf = false
    ∧ (Instr.vrsum ⟨12, 14, 0, false, true⟩).wf = false ∧ (Instr.vbcast ⟨3, 1, 0, 0, false, true⟩).wf = false
    ∧ (Instr.vfma ⟨12, 0, 1, 15, 0, false, true⟩).wf = false ∧ (Instr.vcvt ⟨2, 0, 0, 0, false, true⟩).wf = false
    ∧ (Instr.vunpack ⟨12, 12, false, 0, false, false, true⟩).wf = false ∧ (Instr.vfunc ⟨4, 0, 0, false, 0, true⟩).wf = false
    ∧ (Instr.vrand ⟨4, 1, 2, 0, true⟩).wf = false ∧ (Instr.qdrop ⟨12, true⟩).wf = false
    ∧ (Instr.vext ⟨1, 13, 0, false, true⟩).wf = false ∧ (Instr.vmovs ⟨1, 2, 0, true⟩).wf = false := by decide
theorem test_wf_masks : (Instr.vicmpEq ⟨0, 1, 2, 0, false, false, true⟩).wf = false ∧ (Instr.kand ⟨0, 1, 2, true⟩).wf = false
    ∧ (Instr.knot ⟨0, 1, true⟩).wf = false ∧ (Instr.kmovFromScalar ⟨0, 1, true⟩).wf = false := by decide
/-- Numbers of events past the module's cores, dies, VFs, rings, ports and halves. -/
theorem test_wf_events : (Instr.commandStart 2048 .load).wf = false ∧ (Instr.dieTrip 32).wf = false
    ∧ (Instr.nodeDispatch [0, 2048]).wf = false ∧ (Instr.eventRecordWrite 1 16).wf = false
    ∧ (Instr.graphLaunch 0 0).wf = false ∧ (Instr.resumeWrite ⟨256, 0, true⟩ 0).wf = false ∧ (Instr.scrubVisit 32 0).wf = false
    ∧ (Instr.idleFlit 64 ⟨0, 0, 0, false, 0, 0, 0⟩).wf = false ∧ (Instr.cxlLinkDown 2).wf = false
    ∧ (Instr.getMeasurements 17).wf = false := by decide

/-! ### Words written out from the encodings -/

/-- A word without a tail is read as an instruction. -/
def reads (x : Bool) (w : Word) (i : Instr) : Bool :=
  match decodeWord x w 0 with
  | .ok j => decide (j = i)
  | .error _ => false

/-- The words of the worked examples: chapters 04, 09 and 15. -/
theorem test_words_of_the_manual : reads false 0x04C00081 (.addi ⟨6, 0, 0x20, true⟩) = true
    ∧ reads false 0x94000189 (.xdrain ⟨2, true⟩) = true ∧ reads false 0xB4000111 (.semwait ⟨4, true⟩) = true
    ∧ decodeWord false 0x94C9000B 0x02400000
        = .ok (.xld ⟨6, 9, 0, 2, some ⟨none, some 4, false, false, 0, 0, none⟩, true⟩)
    ∧ decodeWord false 0x94C95023 0x02400000
        = .ok (.xldDec ⟨6, 9, 10, 0, some ⟨none, some 4, false, false, 0, 0, none⟩, true⟩)
    ∧ reads true 0xAC060015 (.vsett ⟨0, 6, true⟩) = true
    ∧ reads true 0x8E00280D (.vbscale ⟨16, 0, 5, 0, false, true⟩) = true := ⟨by decide, by decide, by decide, rfl, rfl, by decide, by decide⟩

/-- Encoding faults (R60): a reserved major, a reserved selector, a field that must be zero, a tail that is not taken. -/
theorem test_words_refused : decodeWord false 0x5C000001 0 = .error .illegalOpcode
    ∧ decodeWord false 0x24000011 0 = .error .reservedValue ∧ decodeWord false 0x14A50105 0 = .error .reservedField
    ∧ decodeWord false 0x58010001 0 = .error .reservedField ∧ decodeWord false 0x00C62803 0 = .error .unexpectedTail := by
  exact ⟨rfl, rfl, rfl, rfl, rfl⟩

theorem test_words_shared_0 : [
  (0x01B19001, Instr.add ⟨13, 17, 18, true⟩),
  (0x01B19005, Instr.sub ⟨13, 17, 18, true⟩),
  (0x01B19009, Instr.and ⟨13, 17, 18, true⟩),
  (0x01B1900D, Instr.or ⟨13, 17, 18, true⟩),
  (0x01B19011, Instr.xor ⟨13, 17, 18, true⟩),
  (0x01B19015, Instr.shl ⟨13, 17, 18, true⟩),
  (0x01B19019, Instr.shr ⟨13, 17, 18, true⟩),
  (0x01B1901D, Instr.sra ⟨13, 17, 18, true⟩),
  (0x01B19021, Instr.mul ⟨13, 17, 18, true⟩),
  (0x01B19025, Instr.mulh ⟨13, 17, 18, true⟩),
  (0x01B19029, Instr.mulhu ⟨13, 17, 18, true⟩),
  (0x01B1902D, Instr.div ⟨13, 17, 18, true⟩),
  (0x01B19031, Instr.divu ⟨13, 17, 18, true⟩),
  (0x01B19035, Instr.rem ⟨13, 17, 18, true⟩),
  (0x01B19039, Instr.remu ⟨13, 17, 18, true⟩),
  (0x01B1903D, Instr.min ⟨13, 17, 18, true⟩)].all (fun p => reads false p.1 p.2) = true := by decide

theorem test_words_shared_1 : [
  (0x01B19041, Instr.max ⟨13, 17, 18, true⟩),
  (0x01B19045, Instr.minu ⟨13, 17, 18, true⟩),
  (0x01B19049, Instr.maxu ⟨13, 17, 18, true⟩),
  (0x01B1904D, Instr.slt ⟨13, 17, 18, true⟩),
  (0x01B19051, Instr.sltu ⟨13, 17, 18, true⟩),
  (0x01B10055, Instr.clz ⟨13, 17, true⟩),
  (0x01B10059, Instr.popc ⟨13, 17, true⟩),
  (0x05B19695, Instr.addi ⟨13, 17, 9637, true⟩),
  (0x09B19695, Instr.andi ⟨13, 17, 9637, true⟩),
  (0x0DB19695, Instr.ori ⟨13, 17, 9637, true⟩),
  (0x11B19695, Instr.xori ⟨13, 17, 9637, true⟩),
  (0x15B10095, Instr.shli ⟨13, 17, 37, true⟩),
  (0x15B14095, Instr.shri ⟨13, 17, 37, true⟩),
  (0x15B18095, Instr.srai ⟨13, 17, 37, true⟩),
  (0x19B11695, Instr.slti ⟨13, 17, 1445, true⟩),
  (0x19B19695, Instr.sltiu ⟨13, 17, 1445, true⟩)].all (fun p => reads false p.1 p.2) = true := by decide

theorem test_words_shared_2 : [
  (0x1DB69695, Instr.lui ⟨13, 370085, true⟩),
  (0x21B69695, Instr.auipc ⟨13, 370085, true⟩),
  (0x25B19005, Instr.lea ⟨13, 17, 18, 1, true⟩),
  (0x2A329695, Instr.beq ⟨17, 18, 9637, true⟩),
  (0x2E329695, Instr.bne ⟨17, 18, 9637, true⟩),
  (0x32329695, Instr.blt ⟨17, 18, 9637, true⟩),
  (0x36329695, Instr.bge ⟨17, 18, 9637, true⟩),
  (0x3A329695, Instr.bltu ⟨17, 18, 9637, true⟩),
  (0x3E329695, Instr.bgeu ⟨17, 18, 9637, true⟩),
  (0x42969695, Instr.jal ⟨10855845, true⟩),
  (0x45B19695, Instr.jalr ⟨13, 17, 9637, true⟩),
  (0x4A209695, Instr.loop ⟨17, 9637, true⟩),
  (0x4DA59695, Instr.loopi ⟨421, 9637, true⟩),
  (0x50110001, Instr.cqpush ⟨17, true⟩),
  (0x51A00081, Instr.cqpop ⟨13, true⟩),
  (0x55A05A51, Instr.csrr ⟨13, 1445, true⟩)].all (fun p => reads false p.1 p.2) = true := by decide

theorem test_words_shared_3 : [
  (0x55B15A55, Instr.csrw ⟨13, 17, 1445, true⟩),
  (0x55B15A59, Instr.csrs ⟨13, 17, 1445, true⟩),
  (0x55B15A5D, Instr.csrc ⟨13, 17, 1445, true⟩),
  (0x58000001, Instr.nop ⟨true⟩),
  (0x580000CD, Instr.trap ⟨19, true⟩),
  (0x58000101, Instr.eret ⟨true⟩),
  (0x580001CD, Instr.brk ⟨19, true⟩),
  (0x58110201, Instr.wait ⟨17, true⟩)].all (fun p => reads false p.1 p.2) = true := by decide

theorem test_words_c_stream_0 : [
  (0x81B16095, Instr.ld ⟨13, 17, true, 2, 37, true⟩),
  (0x85B12A95, Instr.st ⟨13, 17, false, 2, 5, 37, true⟩),
  (0x89B19065, Instr.amoAdd ⟨13, 17, 18, true, true, false, 1, true⟩),
  (0x89B190E5, Instr.amoAnd ⟨13, 17, 18, true, true, false, 1, true⟩),
  (0x89B19165, Instr.amoOr ⟨13, 17, 18, true, true, false, 1, true⟩),
  (0x89B191E5, Instr.amoXor ⟨13, 17, 18, true, true, false, 1, true⟩),
  (0x89B19265, Instr.amoSwap ⟨13, 17, 18, true, true, false, 1, true⟩),
  (0x89B192E5, Instr.amoMin ⟨13, 17, 18, true, true, false, 1, true⟩),
  (0x89B19365, Instr.amoMax ⟨13, 17, 18, true, true, false, 1, true⟩),
  (0x89B193E5, Instr.amoMinu ⟨13, 17, 18, true, true, false, 1, true⟩),
  (0x89B19465, Instr.amoMaxu ⟨13, 17, 18, true, true, false, 1, true⟩),
  (0x89B194E5, Instr.amoCas ⟨13, 17, 18, true, true, false, 1, true⟩),
  (0x89B19525, Instr.amoFadd ⟨13, 17, 18, true, false, 1, true⟩),
  (0x89B195A5, Instr.amoFmin ⟨13, 17, 18, true, false, 1, true⟩),
  (0x89B19625, Instr.amoFmax ⟨13, 17, 18, true, false, 1, true⟩),
  (0x8E960001, Instr.fence ⟨165, 4, true⟩)].all (fun p => reads false p.1 p.2) = true := by decide

theorem test_words_c_stream_1 : [
  (0x8C119081, Instr.cinv ⟨17, 18, true⟩),
  (0x8C119101, Instr.cwb ⟨17, 18, true⟩),
  (0x8C119181, Instr.l2hint ⟨17, 18, true⟩),
  (0x8C119191, Instr.l2hintDemote ⟨17, 18, true⟩),
  (0x90F19001, Instr.qrd ⟨7, 17, 18, true⟩),
  (0x90F19081, Instr.qrdh ⟨7, 17, 18, true⟩),
  (0x91D19101, Instr.qwr ⟨14, 17, 18, true⟩),
  (0x96329815, Instr.xld ⟨17, 18, 19, 5, none, true⟩),
  (0x96329835, Instr.xldDec ⟨17, 18, 19, 5, none, true⟩),
  (0x96329855, Instr.xldVfy ⟨17, 18, 19, 5, none, true⟩),
  (0x96329895, Instr.xst ⟨17, 18, 19, 5, none, true⟩),
  (0x96329915, Instr.xcp ⟨17, 18, 19, 5, none, true⟩),
  (0x96329935, Instr.xcpScl ⟨17, 18, 19, 5, none, true⟩),
  (0x96329955, Instr.xcpVfy ⟨17, 18, 19, 5, none, true⟩),
  (0x94000195, Instr.xdrain ⟨5, true⟩),
  (0x95A00205, Instr.xcur ⟨13, true, true⟩)].all (fun p => reads false p.1 p.2) = true := by decide

theorem test_words_c_stream_2 : [
  (0x95B10295, Instr.xcfg ⟨13, 17, 5, true⟩),
  (0x9A200005, Instr.mlw ⟨17, true, none, true⟩),
  (0x98000081, Instr.mswap ⟨none, true⟩),
  (0x9A32011D, Instr.mmul ⟨17, 18, true, true, true, none, true⟩),
  (0x9A329921, Instr.mmulSmax ⟨17, 18, 19, none, true⟩),
  (0x9A32019D, Instr.mst ⟨17, 18, true, true, true, none, true⟩),
  (0x9A200201, Instr.mzero ⟨17, none, true⟩),
  (0x9A320281, Instr.mlora ⟨17, 18, none, true⟩),
  (0x98120285, Instr.mloraClr ⟨18, none, true⟩),
  (0x9A329B01, Instr.mamap ⟨17, 18, 19, none, true⟩),
  (0x98000389, Instr.mfuse ⟨2, none, true⟩),
  (0x98000381, Instr.mfuseOff ⟨none, true⟩),
  (0x9E200001, Instr.attn ⟨17, none, true⟩),
  (0xA1B19001, Instr.hview ⟨13, 17, 18, true⟩),
  (0xA1B19081, Instr.hchk ⟨13, 17, 18, true⟩),
  (0xA1B19101, Instr.hqry ⟨13, 17, 18, true⟩)].all (fun p => reads false p.1 p.2) = true := by decide

theorem test_words_c_stream_3 : [
  (0xA5B19001, Instr.balloc ⟨13, 17, 18, true⟩),
  (0xA5B10081, Instr.bfree ⟨13, 17, true⟩),
  (0xA5B19101, Instr.btrim ⟨13, 17, 18, true⟩),
  (0xA5B19181, Instr.bfork ⟨13, 17, 18, true⟩),
  (0xA5B19201, Instr.bstat ⟨13, 17, 18, true⟩),
  (0xA6329A81, Instr.bkfill ⟨17, 18, 19, none, true⟩),
  (0xA9B10001, Instr.aadmit ⟨13, 17, true⟩),
  (0xA9B19081, Instr.aresolve ⟨13, 17, 18, true⟩),
  (0xA8110101, Instr.arel ⟨17, true⟩),
  (0xA9B19181, Instr.apublish ⟨13, 17, 18, true⟩),
  (0xA9B19201, Instr.aclaim ⟨13, 17, 18, true⟩),
  (0xADB11695, Instr.probe ⟨13, 17, 1445, true⟩),
  (0xADB18001, Instr.pinv ⟨13, 17, true⟩),
  (0xB0119001, Instr.phreg ⟨17, 18, true⟩),
  (0xB0110081, Instr.phdrop ⟨17, true⟩),
  (0xB0110101, Instr.phsig ⟨17, true⟩)].all (fun p => reads false p.1 p.2) = true := by decide

theorem test_words_c_stream_4 : [
  (0xB0110181, Instr.phwait ⟨17, true⟩),
  (0xB0110201, Instr.phadv ⟨17, true⟩),
  (0xB1B10281, Instr.phqry ⟨13, 17, true⟩),
  (0xB1B10285, Instr.phqryM ⟨13, 17, true⟩),
  (0xB4119015, Instr.semset ⟨17, 18, 5, true⟩),
  (0xB4000095, Instr.semsig ⟨5, true⟩),
  (0xB4000115, Instr.semwait ⟨5, true⟩),
  (0xB5A00195, Instr.semrd ⟨13, 5, true⟩),
  (0xB8119001, Instr.nyield ⟨17, 18, true⟩),
  (0xB8000081, Instr.ndone ⟨true⟩),
  (0xB8110085, Instr.ndoneAbort ⟨17, true⟩),
  (0xB8119101, Instr.npark ⟨17, 18, true⟩),
  (0xB9B19181, Instr.nspawn ⟨13, 17, 18, true⟩),
  (0xB9B10201, Instr.ndep ⟨13, 17, true⟩),
  (0xB9B10205, Instr.ndepRel ⟨13, 17, true⟩),
  (0xB8119281, Instr.grpjoin ⟨17, 18, true⟩)].all (fun p => reads false p.1 p.2) = true := by decide

theorem test_words_c_stream_5 : [
  (0xB8000301, Instr.grpleave ⟨true⟩),
  (0xBE320005, Instr.tload ⟨17, 18, true, none, true⟩),
  (0xBC120081, Instr.tinval ⟨18, none, true⟩),
  (0xBC120085, Instr.tinvalSh ⟨18, none, true⟩),
  (0xBDB20101, Instr.tqry ⟨13, 18, true⟩)].all (fun p => reads false p.1 p.2) = true := by decide

theorem test_words_x_stream_0 : [
  (0x81B19681, Instr.vadd ⟨13, 17, 18, 6, true, false, true⟩),
  (0x81B19685, Instr.vsub ⟨13, 17, 18, 6, true, false, true⟩),
  (0x81B19689, Instr.vmul ⟨13, 17, 18, 6, true, false, true⟩),
  (0x81B1968D, Instr.vmulh ⟨13, 17, 18, 6, true, false, true⟩),
  (0x81B19691, Instr.vand ⟨13, 17, 18, 6, true, false, true⟩),
  (0x81B19695, Instr.vor ⟨13, 17, 18, 6, true, false, true⟩),
  (0x81B19699, Instr.vxor ⟨13, 17, 18, 6, true, false, true⟩),
  (0x81B1969D, Instr.vshl ⟨13, 17, 18, 6, true, false, true⟩),
  (0x81B196A1, Instr.vshr ⟨13, 17, 18, 6, true, false, true⟩),
  (0x81B196A5, Instr.vsra ⟨13, 17, 18, 6, true, false, true⟩),
  (0x81B196A9, Instr.vmin ⟨13, 17, 18, 6, true, false, true⟩),
  (0x81B196AD, Instr.vmax ⟨13, 17, 18, 6, true, false, true⟩),
  (0x81B196B1, Instr.vminu ⟨13, 17, 18, 6, true, false, true⟩),
  (0x81B196B5, Instr.vmaxu ⟨13, 17, 18, 6, true, false, true⟩),
  (0x85B19681, Instr.vfadd ⟨13, 17, 18, 6, true, false, true⟩),
  (0x85B19685, Instr.vfsub ⟨13, 17, 18, 6, true, false, true⟩)].all (fun p => reads true p.1 p.2) = true := by decide

theorem test_words_x_stream_1 : [
  (0x85B19689, Instr.vfmul ⟨13, 17, 18, 6, true, false, true⟩),
  (0x85B1968D, Instr.vfmin ⟨13, 17, 18, 6, true, false, true⟩),
  (0x85B19691, Instr.vfmax ⟨13, 17, 18, 6, true, false, true⟩),
  (0x85B10695, Instr.vfabs ⟨13, 17, 6, true, true⟩),
  (0x85B10699, Instr.vfneg ⟨13, 17, 6, true, true⟩),
  (0x89B194F5, Instr.vfma ⟨13, 17, 18, 19, 6, true, true⟩),
  (0x8DB12E81, Instr.vcvt ⟨13, 17, 5, 6, true, true⟩),
  (0x8DB19685, Instr.vpack ⟨13, 17, 18, 6, true, false, true⟩),
  (0x8DB10EC9, Instr.vunpack ⟨13, 17, true, 6, true, true, true⟩),
  (0x8DB1968D, Instr.vbscale ⟨13, 17, 18, 6, true, true⟩),
  (0x91B10681, Instr.vrsum ⟨13, 17, 6, true, true⟩),
  (0x91B10685, Instr.vrmax ⟨13, 17, 6, true, true⟩),
  (0x91B10689, Instr.vrmin ⟨13, 17, 6, true, true⟩),
  (0x91B1068D, Instr.vrargmax ⟨13, 17, 6, true, true⟩),
  (0x91B10691, Instr.vscan ⟨13, 17, 6, true, true⟩),
  (0x95B19681, Instr.vshuf ⟨13, 17, 18, 6, true, false, true⟩)].all (fun p => reads true p.1 p.2) = true := by decide

theorem test_words_x_stream_2 : [
  (0x95B12E85, Instr.vbcast ⟨13, 17, 5, 6, true, true⟩),
  (0x95B12E89, Instr.vslideUp ⟨13, 17, 5, 6, true, true⟩),
  (0x95B12EC9, Instr.vslideDn ⟨13, 17, 5, 6, true, true⟩),
  (0x95B1068D, Instr.vcompress ⟨13, 17, 6, true, true⟩),
  (0x99B10695, Instr.vfunc ⟨13, 17, 6, true, 5, true⟩),
  (0x9C000015, Instr.tsel ⟨5, true⟩),
  (0xA1B19601, Instr.vrand ⟨13, 17, 18, 6, true⟩),
  (0xA1B19681, Instr.vrandU ⟨13, 17, 18, 6, true⟩),
  (0xA4B196C1, Instr.vconf ⟨5, 17, 18, 6, true, true, true⟩),
  (0xA8A21801, Instr.kand ⟨5, 2, 3, true⟩),
  (0xA8A21805, Instr.kor ⟨5, 2, 3, true⟩),
  (0xA8A21809, Instr.kxor ⟨5, 2, 3, true⟩),
  (0xA8A2000D, Instr.knot ⟨5, 2, true⟩),
  (0xA8A20011, Instr.kmov ⟨5, 2, true⟩),
  (0xA8B10091, Instr.kmovFromScalar ⟨5, 17, true⟩),
  (0xA9A20051, Instr.kmovToScalar ⟨13, 2, true⟩)].all (fun p => reads true p.1 p.2) = true := by decide

theorem test_words_x_stream_3 : [
  (0xA9A20015, Instr.kpop ⟨13, 2, true⟩),
  (0xAC110001, Instr.qdrop ⟨17, true⟩),
  (0xADB10005, Instr.qcnt ⟨13, 17, true⟩),
  (0xADB12889, Instr.vext ⟨13, 17, 5, true, true⟩),
  (0xADB1968D, Instr.vins ⟨13, 17, 18, 6, true, true⟩),
  (0xADB10611, Instr.vmovs ⟨13, 17, 6, true⟩),
  (0xADB10015, Instr.vsett ⟨13, 17, true⟩),
  (0xB0B196C1, Instr.vfcmpEq ⟨5, 17, 18, 6, true, true, true⟩),
  (0xB0B196C5, Instr.vfcmpLt ⟨5, 17, 18, 6, true, true, true⟩),
  (0xB0B196C9, Instr.vfcmpLe ⟨5, 17, 18, 6, true, true, true⟩),
  (0xB0B196CD, Instr.vfcmpUn ⟨5, 17, 18, 6, true, true, true⟩),
  (0xB0B196D1, Instr.vicmpEq ⟨5, 17, 18, 6, true, true, true⟩),
  (0xB0B196D5, Instr.vicmpLt ⟨5, 17, 18, 6, true, true, true⟩),
  (0xB0B196D9, Instr.vicmpLe ⟨5, 17, 18, 6, true, true, true⟩),
  (0xB0B196DD, Instr.vicmpLtu ⟨5, 17, 18, 6, true, true, true⟩),
  (0xB0B196E1, Instr.vicmpLeu ⟨5, 17, 18, 6, true, true, true⟩)].all (fun p => reads true p.1 p.2) = true := by decide

theorem test_words_x_stream_4 : [
  (0xB1B196A5, Instr.vsel ⟨13, 17, 18, 6, true, false, true⟩)].all (fun p => reads true p.1 p.2) = true := by decide

/-! ### States that meet the hypotheses of the statements -/

/-- Core 0, changed, executes. -/
def bench (f : Core → Core) (x : Bool := false) : State := { State.reset.updCore 0 f with curX := x }

/-- VFs 0 and 1 with a handler and a page table: a leaf of 2 GiB at virtual and physical address 0. -/
def benchVf : Vf :=
  { Vf.init with present := true, cfg := [(0x1000, 0x10000), (0x11000, 0), (0x12000, 64), (0x1E000, 512), (0x1F000, 512)] }

/-- The same, with those VFs and that table in memory. -/
def paged (s : State) : State :=
  { s with vfs := [(0, benchVf), (1, benchVf)], mem := { s.mem with base := [(0x10000, 1), (0x10002, 2), (0x20000, 7)] } }

/-- Scalar registers of core 0's C-stream, and a binary of 64 bytes. -/
def benchC (regs : SMap Dword) (f : Core → Core := id) : State :=
  paged (bench fun c => f { c with c := { c.c with regs := regs, run := true }, image := { c.image with lenC := 64, lenX := 64 } })

/-- The same of its X-stream. -/
def benchX (regs : SMap Dword) (f : Core → Core := id) : State :=
  paged (bench (fun c => f { c with x := { c.x with regs := regs, run := true }, image := { c.image with lenC := 64, lenX := 64 } }) true)

/-- A stream that may trap. -/
def traps (s : State) : Bool := s.self.mode != .handler && !s.noHandler s.here.vfid

theorem mayTrap_of_traps (s : State) (h : traps s = true) : s.mayTrap := by
  simp only [traps, Bool.and_eq_true, bne_iff_ne, ne_eq, Bool.not_eq_true'] at h
  exact ⟨h.1, fun _ => h.2⟩

theorem meets_trap : (benchC []).mayTrap ∧ (benchX []).mayTrap :=
  ⟨mayTrap_of_traps _ (by decide), mayTrap_of_traps _ (by decide)⟩

/-- StepRunsDecoded: a state that fetches nop, and one with an event to come. -/
theorem meets_StepRunsDecoded : let s := State.reset.withFetchWord 32 0x58000001
    (s.errors = [] ∧ s.agenda = [] ∧ s.turn = .stream false ∧ (s.core s.cur).mayIssue false = true ∧ (s.core s.cur).dbg.halted = false
      ∧ ((s.core s.cur).stream false).sib = none ∧ (s.core s.cur).pendingFaults = [])
    ∧ (s.core s.cur).fetch false ((s.core s.cur).stream false).mode 0 = .word 0x58000001
    ∧ ((s.core s.cur).stream false).gpc = 0 ∧ 4 ≤ (s.core s.cur).binLen false ((s.core s.cur).stream false).mode
    ∧ decodeWord false 0x58000001 0 = .ok (.nop ⟨true⟩) ∧ ((s.core s.cur).stream false).insideEnd 4 = none := by decide
/-- The same of a word with a tail. -/
theorem meets_StepRunsDecoded_tail : let s := State.reset.withFetchWord 64 0x0240000094C95023
    (s.core s.cur).fetch false ((s.core s.cur).stream false).mode 0 = .word 0x94C95023
    ∧ (s.core s.cur).fetch false ((s.core s.cur).stream false).mode 4 = .word 0x02400000
    ∧ 8 ≤ (s.core s.cur).binLen false ((s.core s.cur).stream false).mode := by decide
theorem meets_StepRunsDecoded_event : ({ State.reset with agenda := [.boot] } : State).agenda = .boot :: []
    ∧ ({ State.reset with agenda := [.boot] } : State).errors = [] := ⟨rfl, rfl⟩

/-- ScalarForms: words that its clauses on encodings are about. -/
theorem meets_ScalarForms : (RWord.ofWord 0x14A50105).major = 5 ∧ (RWord.ofWord 0x14A50105).imm14.extractLsb' 6 6 ≠ 0
    ∧ (RWord.ofWord 0x24000011).major = 9 ∧ 4 ≤ (RWord.ofWord 0x24000011).fn.toNat := by decide

/-- Branches and Links: a target inside the binary, at its last word, and one at its end. -/
theorem meets_Branches : let s := benchC [(1, 5), (2, 5), (3, 4)]
    s.reg 1 = s.reg 2 ∧ s.reg 1 ≠ s.reg 3 ∧ (s.mayGoTo 60 ∧ ¬s.mayGoTo 64 ∧ ¬s.mayGoTo 2)
      ∧ s.self.pc + (16 : BitVec 14).signExtend 64 * 4 = 64 ∧ s.self.pc + (15 : BitVec 14).signExtend 64 * 4 = 60 := by
  refine ⟨by decide, by decide, ⟨⟨by decide, by decide⟩, fun h => absurd h.2 (by decide), fun h => absurd h.1 (by decide)⟩,
    by decide, by decide⟩

/-- HardwareLoops: an open level at its last word, with count 1 and 2, one and two levels deep; a zero count; handler mode. -/
theorem meets_HardwareLoops :
    (let s := benchC [(1, 3)] fun c => { c with c := { c.c with loops := ⟨0, 0, 1, 0, 0, 0, 1⟩ } }
     s.self.mode ≠ .handler ∧ s.self.loops.depth = 1 ∧ s.self.loops.end0 = s.self.pc ∧ s.self.loops.cnt0 = 1 ∧ s.reg 1 ≠ 0 ∧ s.reg 2 = 0)
    ∧ (let s := benchC [] fun c => { c with c := { c.c with loops := ⟨0, 0, 2, 0, 0, 1, 2⟩ } }
       s.self.loops.depth = 2 ∧ s.self.loops.end1 = s.self.pc ∧ s.self.loops.cnt1 = 1 ∧ s.self.loops.end0 = s.self.pc
        ∧ s.self.loops.cnt0 ≠ 1)
    ∧ (let s := benchC [] fun c => { c with c := { c.c with loops := ⟨0, 8, 2, 0, 4, 2, 2⟩, mode := .handler } }
       s.self.mode = .handler ∧ s.self.loops.end1 ≠ s.self.pc)
    ∧ (RWord.ofWord 0x4C00000D).major = 19 ∧ (RWord.ofWord 0x4C00000D).d = 0 ∧ (RWord.ofWord 0x4C00000D).a = 0 := by decide

/-- TrapsAndBreaks: a core with a debugger; a handler whose return lies inside the node's binary, and device mode with an
epc outside. -/
theorem meets_TrapsAndBreaks :
    (benchC [] fun c => { c with dbg := ⟨true, false, [], none, []⟩ }).here.dbg.attached = true
    ∧ (benchC []).here.dbg.attached = false ∧ (benchC []).self.mode = .node
    ∧ (let s := benchC [] fun c => { c with c := { c.c with mode := .handler, epc := 60 } }
       s.self.mode ≠ .node ∧ s.self.estatus.toNat % 4 = 0 ∧ s.self.epc.toNat % 4 = 0 ∧ s.self.epc.toNat < s.here.binLen s.curX .node)
    ∧ (let s := benchC [] fun c => { c with c := { c.c with mode := .device, epc := 64, estatus := 2 } }
       s.self.mode = .device ∧ ¬s.self.epc.toNat < s.here.binLen s.curX .device) := by decide

/-- HintsAndWaits: a deadline that has passed, and one to come. -/
theorem meets_HintsAndWaits : ((benchC []).reg 1).toNat ≤ (benchC []).tb ∧ (benchC [(1, 1)]).tb < ((benchC [(1, 1)]).reg 1).toNat := by
  decide

/-- DeferredTraps: a posted sibling trap, a faulted queue with another behind it, a handler beside a faulted head. -/
theorem meets_DeferredTraps :
    (let s := benchC [] fun c => { c with c := { c.c with sib := some 0x13 } }
     ((s.core 0).stream false).sib = some 0x13 ∧ ((s.core 0).stream false).run = true)
    ∧ (let k : Cmd := ⟨.mswap ⟨none, true⟩, 0, 0, 0, 0⟩
       let s := benchC [] fun c => { c with matrix := { c.matrix with cmds := [k], fault := some (0x36, false) }
                                            store := { c.store with cmds := [k], fault := some (0x27, false) } }
       (s.core 0).pendingFaults = [.store, .matrix] ∧ ((s.core 0).eng .store).fault = some (0x27, false))
    ∧ (let k : Cmd := ⟨.mswap ⟨none, true⟩, 0, 0, 0, 0⟩
       let s := benchC [] fun c => { c with matrix := { c.matrix with cmds := [k, k], fault := some (0x36, true) }
                                            c := { c.c with mode := .handler } }
       let x := benchC [] fun c => { c with x := { c.x with mode := .handler } }
       (s.core 0).c.mode = .handler ∧ (x.core 0).c.mode = .node ∧ (x.core 0).x.mode = .handler
        ∧ ((s.core 0).eng .matrix).fault.isSome = true ∧ ((s.core 0).eng .matrix).cmds.tail ≠ []
        ∧ ((s.core 0).eng .load).fault = none) := by decide

/-- CsrAccess and CsrUpdates: numbers that read, numbers that do not, and the CSRs of each mode. -/
theorem meets_Csrs :
    (let s := benchC [(1, 0x1F), (2, 3)]
     s.csr? 0x004 = some 0 ∧ s.csr? 0x3FF = none ∧ s.csr? 0x009 = some 0 ∧ s.self.mode = .node)
    ∧ (let s := benchC [] fun c => { c with c := { c.c with mode := .handler } }
       s.csr? 0x010 = some 0 ∧ s.csr? 0x014 = some 0 ∧ s.self.mode = .handler)
    ∧ (let s := benchC [(1, 2)] fun c => { c with c := { c.c with mode := .device } }
       s.csr? 0x240 = some 0 ∧ s.self.mode = .device ∧ (s.reg 1).toNat % 4 ≠ 3)
    ∧ (let s := benchX [(1, 0x7), (2, 6)]
       s.csr? 0x101 = some 0 ∧ s.curX = true ∧ vtypeOk (s.reg 1 &&& vtypeMask) = false ∧ vtypeOk (s.reg 2 &&& vtypeMask) = true) := by
  decide

/-- ControlQueues: room, none, a value, none. -/
theorem meets_ControlQueues : (benchC []).here.vec.toX.length < 16 ∧ (benchC []).here.vec.toC = []
    ∧ 16 ≤ (benchC [] fun c => { c with vec := { c.vec with toX := List.replicate 16 0 } }).here.vec.toX.length
    ∧ (benchX [] fun c => { c with vec := { c.vec with toX := [7] } }).here.vec.toX = 7 :: [] := by decide

/-- Semaphores: a good pair and a bad one, a semaphore below, at and above its ends, an earlier waiter, and a wait that a
signal has served. -/
theorem meets_Semaphores :
    (let s := benchC [(1, 2), (2, 3)] fun c => c.setSem 4 ⟨3, 3⟩
     (s.reg 2 ≠ 0 ∧ (s.reg 2).toNat ≤ 0xFFFF ∧ (s.reg 1).toNat ≤ (s.reg 2).toNat) ∧ ¬(s.reg 2).toNat ≤ (s.reg 1).toNat
      ∧ (s.here.sem 4).count = (s.here.sem 4).ceiling ∧ (s.here.sem 5).count ≠ (s.here.sem 5).ceiling ∧ (s.here.sem 5).count = 0
      ∧ s.mem.performed (.stream s.cur) (s.cur / 64) 0 0xFF = true
      ∧ (∀ p ∈ s.here.waiters, p.1 ≠ 4) ∧ (4, Waiter.stream) ∉ s.here.granted)
    ∧ (let s := benchC [] fun c => { c.setSem 4 ⟨0, 3⟩ with waiters := [(4, .engine .load)] }
       s.here.waiters.find? (fun p => p.1 == 4) = some (4, .engine .load) ∧ Waiter.engine .load ≠ Waiter.stream
        ∧ s.here.timedWaiter (.engine .load) = false ∧ (4, Waiter.stream) ∉ s.here.granted ∧ (s.here.semNow 4).count = 0
        ∧ (s.here.semNow 4).ceiling ≠ 0)
    ∧ (4, Waiter.stream) ∈ (benchC [] fun c => { c with granted := [(4, .stream)] }).here.granted
    ∧ (let s := benchC []
       ({ s.mem with pend := [⟨.stream 0, 0, [(0, 1)], 1, 0, false, [], [], none⟩] } : MemSys).performed (.stream 0) 0 0 0xFF = false) := by
  decide

/-! #### Memory, commands, handles -/

/-- What an access answers has a property. -/
def got {α : Type} (e : Except Stop α) (p : α → Bool) : Bool :=
  match e with
  | .ok a => p a
  | .error _ => false

/-- An access traps with a cause. -/
def stops {α : Type} (e : Except Stop α) (code : Byte) : Bool :=
  match e with
  | .error (.trap t) => t.code == code
  | _ => false

/-- A scratchpad of 64 KiB and no L1; L1SZ 1 beside it. -/
def pad : Core → Core := fun c => { c with csr := { c.csr with lmcfg := 0x1000000000000 / 0x100000000 * 0x100000000 } }
def padL1 : Core → Core := fun c => { c with csr := { c.csr with lmcfg := 0x1000000000001 } }

/-- LocalAccess, ScratchpadQueues: an aligned address in the window at its last 8 bytes, a misaligned one, one past SPBYTES,
one past 2^56, and one whose range begins below the window and ends in it; a queue with room, a full one and an empty one;
an offset past SPBYTES. -/
theorem meets_LocalAccess :
    (let s := benchC [(1, 0x00FFFFFFFFE0FFF8), (2, 0x00FFFFFFFFE0FFF9), (3, 0x00FFFFFFFFE10000), (4, 0x0100000000000000), (5, 128),
       (6, 0x00FFFFFFFFDFFFFC), (7, 65424)] pad
     s.here.spBytes = 65536 ∧ (s.reg 1).toNat % 8 = 0 ∧ (s.reg 1).toNat - 0x00FFFFFFFFE00000 + 8 ≤ s.here.spBytes
      ∧ (s.reg 2).toNat % 8 ≠ 0 ∧ s.here.spBytes < (s.reg 3).toNat - 0x00FFFFFFFFE00000 + 8 ∧ 2 ^ 56 ≤ (s.reg 4).toNat
      ∧ (s.reg 5 + s.reg 0).toNat % 16 = 0 ∧ (s.reg 5 + s.reg 0).toNat + 128 ≤ s.here.spBytes
      ∧ (s.reg 6).toNat < 0x00FFFFFFFFE00000 ∧ 0x00FFFFFFFFE00000 ≤ (s.reg 6).toNat + 8 - 1
      ∧ (s.reg 7 + s.reg 0).toNat % 16 = 0 ∧ s.here.spBytes < (s.reg 7 + s.reg 0).toNat + 128 ∧ (s.reg 2 + s.reg 0).toNat % 16 ≠ 0
      ∧ (s.here.queue 3).length < 4 ∧ s.here.queue 12 = [] ∧ s.curX = false)
    ∧ (let s := benchC [] fun c => ((pad c).setQueue 12 [7]).setQueue 3 [0, 0, 0, 0]
       (s.here.queue 12).length = 1 ∧ 4 ≤ (s.here.queue 3).length) := by decide

/-- An access, of 8 bytes where nothing else is said, meets plain memory. -/
def plainAt (s : State) (l : Leaf) (n : Nat := 8) : Bool :=
  (List.range n).all (fun i => decide (regionOf (l.pa + i) = .hbm 0)) && (linesOf l.pa n).all (fun x => decide (regionOf (64 * x) = .hbm 0))
    && s.mem.poison.isEmpty && s.mem.latent.isEmpty && (linesOf l.pa n).all (fun x => !s.mem.untrue x)
    && s.sight (.stream 0) 0 l.pa l.enc == .plain && s.serving (.stream 0) l.pa == none

theorem plainLines_of (s : State) (l : Leaf) (n : Nat) (h : plainAt s l n = true) : s.plainLines (.stream 0) 0 l n := by
  simp only [plainAt, Bool.and_eq_true, List.all_eq_true, List.mem_range, decide_eq_true_eq, List.isEmpty_iff, Bool.not_eq_true',
    beq_iff_eq] at h
  obtain ⟨⟨⟨⟨⟨⟨a, b⟩, c⟩, d⟩, e⟩, f⟩, g⟩ := h
  refine ⟨fun i hi => ⟨0, .inl (a i hi)⟩, fun x hx => ⟨by rw [c]; rfl, by rw [d]; rfl, e x hx, fun k hk => ?_⟩, f, g⟩
  rw [b x hx] at hk
  exact absurd hk (by simp)

/-- LoadsFromMemory and Stores: a page that translates, with no L1, with a line that the L1 holds whole, and with an L1 that
has room. -/
theorem meets_Loads :
    (let s := benchC [(1, 0x80000)] pad
     got (s.translate (.stream s.cur) s.here.vfid 0x80000 .ld) (fun r => r.1.curX == s.curX && r.1.cur == s.cur
       && r.1.here.vfid == s.here.vfid && r.2.va == 0x80000 && !r.1.here.cached r.2
       && plainAt r.1 r.2) = true)
    ∧ (let s := benchC [(1, 0x80000)] fun c => { padL1 c with l1 := [⟨0, 0x80000, 0x80000, List.replicate 64 1, 0, 0, true, false⟩] }
       got (s.translate (.stream s.cur) s.here.vfid 0x80000 .ld) (fun r => r.1.here.cached r.2
         && ((l1Find r.1.here.l1 r.1.here.vfid 0x80000).map fun x => x.whole) == some true) = true) := by decide
theorem meets_Stores :
    (let s := benchC [(1, 0x80000)] pad
     got (s.translate (.stream s.cur) s.here.vfid 0x80000 .st) (fun r => r.2.va == 0x80000 && !r.1.here.cached r.2
       && (r.1.vf r.1.here.vfid).migr == none && plainAt r.1 r.2) = true)
    ∧ (let s := benchC [(1, 0x80000)] padL1
       got (s.translate (.stream s.cur) s.here.vfid 0x80000 .st) (fun r => r.1.here.cached r.2
         && (r.1.vf r.1.here.vfid).migr == none && !(r.1.pfAccess (.stream s.cur) r.1.here.vfid && r.1.sealedFrame r.2.pa) && l1Find r.1.here.l1 r.1.here.vfid 0x80000 == none
         && decide (r.1.here.l1.length < r.1.here.l1Lines)) = true) := by decide

/-- A line of the L1, of plain memory, with two bytes to write back. -/
def stored : L1Line := ⟨0, 0x80000, 0x80000, List.replicate 64 1, 3, 1, true, false⟩

/-- RangesAndFences, and L1_EVICTION and SHOOTDOWN: lines of plain memory without errors; a fence with nothing to wait for, and
one that waits. -/
theorem meets_RangesAndFences :
    (let s := benchC [] fun c => { padL1 c with l1 := [stored] }
     s.here.l1 = [stored] ∧ s.here.l1Bad stored = false ∧ (s.vf stored.vf).migr = none ∧ regionOf stored.pa = .hbm 0
      ∧ s.sight (.stream 0) stored.vf stored.pa stored.enc = .plain ∧ stored.dirty.map Prod.fst = [0x80000, 0x80001]
      ∧ ∀ c ∈ stored.dirty, s.serving (.stream 0) c.1 = none)
    ∧ (let s := benchC []
     s.mem.performed (.stream s.cur) (s.cur / 64) 4 0xFF = true ∧ s.peersDone (.stream s.cur) = true)
    ∧ (let s := { benchC [] with mem := { (benchC []).mem with pend := [⟨.stream 0, 0, [(0, 1)], 1, 0, false, [], [], none⟩] } }
       s.mem.performed (.stream s.cur) (s.cur / 64) 2 0xFF = false ∧ s.mem.performed (.stream s.cur) (s.cur / 64) 2 0xFE = true) := by
  decide

/-- Atomics: an aligned word of plain memory that the L1 does not hold. -/
theorem meets_Atomics : let s := benchC [(1, 0x80000)] pad
    got (s.translate (.stream s.cur) s.here.vfid 0x80000 .amo) (fun r => r.2.va == 0x80000 && r.2.pa % 8 == 0 && r.1.curX == s.curX
      && r.1.cur == s.cur && decide (r.1.self = s.self) && r.1.here.vfid == s.here.vfid && r.1.here.l1 == []
      && (r.1.vf r.1.here.vfid).migr == none && plainAt r.1 r.2 && r.1.mem.log == [] && r.1.mem.performed (.stream 0) 0 3 0xFF && r.1.peersDone (.stream 0)) = true := by decide

/-- CommandControl: room, no room, the role of a member; a drained channel and one with a copy; limits at and past 8192. -/
theorem meets_CommandControl :
    (let s := { benchC [(1, 8192), (2, 8193)] with peers := [] }
     s.here.load.cmds.length < 64 ∧ s.here.quad.role ≠ 2 ∧ s.here.quad.role ≠ 3 ∧ (s.reg 1).toNat ≤ 8192 ∧ 8192 < (s.reg 2).toNat
      ∧ (∀ k ∈ s.here.load.cmds ++ s.here.store.cmds, channelOf k.op ≠ some 5) ∧ s.mem.pend = [] ∧ s.mem.log = [] ∧ s.peers = [])
    ∧ (let k : Cmd := ⟨.xld ⟨1, 2, 3, 5, none, true⟩, 0, 0, 0, 0⟩
       let s := benchC [] fun c => { c with load := { c.load with cmds := List.replicate 64 k }
                                            backfill := { c.backfill with cmds := List.replicate 16 k }
                                            quad := { c.quad with role := 2, lead := 0 } }
       64 ≤ s.here.load.cmds.length ∧ 16 ≤ s.here.backfill.cmds.length ∧ s.here.quad.role = 2
        ∧ channelOf k.op = some (5 : BitVec 3).toNat) := by decide

/-- CommandEnds: a head whose tail names a semaphore with a count, without one, one whose wait was served, a timed head in and
past its window, and a finished head with a release and a signal, at its ceiling and below, with a waiter. -/
theorem meets_CommandEnds :
    (let k : Cmd := ⟨.xld ⟨1, 2, 3, 5, some ⟨some 4, some 6, false, true, 2, 0, some (2, 7)⟩, true⟩, 0, 0, 0, 0⟩
     let s := benchC [] fun c => { c with load := { c.load with cmds := [k] }, sems := [(4, ⟨1, 3⟩), (6, ⟨3, 3⟩)] }
     (s.core 0).load.begun = false ∧ (s.core 0).load.fault = none ∧ (s.core 0).load.sigPending = false ∧ (s.core 0).load.held = none
      ∧ s.frozen 0 = false ∧ (4, Waiter.engine .load) ∈ (benchC [] fun c => { c with granted := [(4, .engine .load)] }).here.granted
      ∧ (tailOf k.op).bind Tail.timed = some (2, 7) ∧ (tailOf k.op).bind Tail.waitSem = some 4
      ∧ (tailOf k.op).bind Tail.sigSem = some 6 ∧ ((s.core 0).sem 4).count ≠ 0 ∧ ((s.core 0).sem 6).count = ((s.core 0).sem 6).ceiling
      ∧ k.stamp.toNat ≤ (s.gsc 0).toNat ∧ (s.gsc 0).toNat ≤ k.stamp.toNat + 4 * 2 ∧ s.isTransform 0 = false)
    ∧ (let s := { benchC [] with tb := 9 }
       (0 : Nat) + 4 * 2 < (s.gsc 0).toNat)
    ∧ (let k : Cmd := ⟨.mswap ⟨some ⟨none, some 6, false, true, 2, 0, none⟩, true⟩, 0, 0, 0, 0⟩
       let s := benchC [] fun c => { c with matrix := { c.matrix with cmds := [k], begun := true, step := 1, latch := { c.matrix.latch with recs := [[]] } }
                                            waiters := [(6, .stream)], sems := [(6, ⟨2, 3⟩)] }
       (s.core 0).matrix.finished = true ∧ (s.core 0).waiters = [(6, .stream)] ∧ (s.core 0).timedWaiter .stream = false
        ∧ ((s.core 0).sem 6).count.toNat < ((s.core 0).sem 6).ceiling.toNat ∧ ((s.core 0).sem 6).count ≠ ((s.core 0).sem 6).ceiling
        ∧ s.mem.performed (.engine 0 .matrix) 0 2 0xFF = true) := by decide

/-- Two handles of VF 0: an FP32 tensor of 32 by 32 elements, and a KV sequence of two blocks. -/
def tables (s : State) : State :=
  { s with
    mem := { s.mem with base := s.mem.base ++ [
      (0x40001, 0x80), (0x40008, 32), (0x4000C, 1), (0x40010, 1), (0x40014, 32), (0x40018, 5), (0x4001B, 5), (0x40022, 5), (0x40028, 1),
      (0x40041, 0x80), (0x40042, 1), (0x40043, 0xC0), (0x40048, 1), (0x4004C, 64), (0x40050, 2), (0x40054, 64), (0x40059, 5),
      (0x4005A, 1), (0x4005B, 6), (0x40062, 6), (0x40068, 2), (0x40070, 10), (0x40074, 1), (0x40077, 0x10),
      (0x40081, 0x80), (0x40082, 1), (0x40083, 0xC0), (0x40088, 1), (0x4008C, 64), (0x40090, 2), (0x40094, 64), (0x40099, 5),
      (0x4009A, 1), (0x4009B, 6), (0x400A2, 7), (0x400A8, 2), (0x400B7, 0x10),
      (0x50002, 8), (0x50007, 0x80), (0x60007, 0x80)] }
    dies := [(0, { Die.init with poolBase := 0x200000000, poolBlocks := 16 })]
    vfs := [(0, { benchVf with cfg := [(0x1000, 0x10000), (0x9000, 0x40000), (0xA000, 4), (0xB000, 0x10000000), (0xC000, 0), (0xD000, 16),
      (0x11000, 0), (0x12000, 64), (0x1E000, 512), (0x1F000, 512)] }), (1, benchVf)] }

/-- Core 0 with those tables. -/
def benchH (regs : SMap Dword) (f : Core → Core := id) : State :=
  tables (benchC regs fun c => f (pad { c with csr := { c.csr with htbase := 0x40000, htcount := 4 } }))

/-- Handles: one that dereferences, one of another VF, one at the count of its table. -/
theorem meets_Handles :
    (let s := benchH [(1, 0), (2, 7), (3, 33), (4, 0x0100000000000000), (5, 0x4000000)]
     got (s.deref (.stream s.cur) (decide (s.self.mode = .device)) (s.reg 1) false) (fun r => decide (r.1.self = s.self)
       && r.2.e0 == 32 && !r.2.flat) = true
      ∧ ((s.reg 2).toNat ≠ 0 ∧ (s.reg 2).toNat ≤ 7 ∧ 32 < (s.reg 3).toNat ∧ 7 < (s.reg 3).toNat)
      ∧ (s.self.mode ≠ .device ∧ (s.reg 4).toNat / 2 ^ 56 ≠ s.here.vfid)
      ∧ (s.reg 5).toNat / 2 ^ 56 = s.here.vfid ∧ s.here.csr.htcount.toNat ≤ (s.reg 5).toNat / 2 ^ 24 % 2 ^ 20) := by decide

/-- LocalAccess: qrdh through the first handle. -/
theorem meets_qrdh :
    (let s := benchH [(1, 0), (2, 0)]
     got (s.derefRead (.stream s.cur) (decide (s.self.mode = .device)) (s.reg 1)) (fun q =>
       got (q.1.readRun (.stream s.cur) q.2 (q.1.here.coordsAt (s.reg 2).toNat) (1024 / q.2.width)) (fun r => r.2.length == 32 && q.1.cur == s.cur))
      = true
      ∧ (s.reg 2).toNat % 16 = 0 ∧ (s.reg 2).toNat + 16 ≤ s.here.spBytes) := by decide

/-- KvInstructions: a sequence of length 10 in a block of 32 positions, one write settled before it, a second empty sequence
beside it. -/
theorem meets_KvInstructions :
    (let s := benchH [(1, 0x1000000), (2, 1), (3, 0x2000000)]
     got (s.release (.stream s.cur) (s.cur / 64) 3) (fun r =>
       got (({ r with mem := r.mem.settle } : State).derefKv (.stream s.cur) false (s.reg 1)) fun q =>
         q.1.cur == s.cur && decide (q.1.self = s.self) && q.2.kvP == 32 && q.2.kvLen == 10 && q.2.nblk == 1 && q.2.extent 1 == 64
         && q.2.ntiles == 2 && !q.1.bfRunning q.2.vf (s.reg 1) 1
         && got (q.1.writeAux (.stream s.cur) q.2 q.2.nblk (q.2.kvLen + 1)) (fun _ => true)
         && got ((q.1.bfDrop q.2.vf (s.reg 1) 1).kvTrim (.stream s.cur) q.2 1) (fun z => z.2 == 0)
         && got ((q.1.bfDrop q.2.vf (s.reg 1) 0).dropBlocks (.stream s.cur) q.2 0 false) (fun z =>
              got (z.writeAux (.stream s.cur) q.2 0 0) (fun _ => true))
         && got (q.1.derefKv (.stream s.cur) false (s.reg 3)) (fun y => forkOk q.2 y.2 && y.1.kvOk q.2
              && got (y.1.anyPending (.stream s.cur) q.2) (fun p => !p.2))
         && got (q.1.readBlock (.stream s.cur) q.2 0) (fun z => z.2 == some 0 && got (z.1.readHeader (.stream s.cur) q.2.vf 0) (fun _ => true))
         && got (q.1.readBlock (.stream s.cur) q.2 1) (fun z => z.2 == none)) = true) := by decide


/-! #### Adapters, probes, phasers, nodes -/

/-- More bytes of memory, above those listed. -/
def more (l : Memory) (s : State) : State := { s with mem := { s.mem with base := s.mem.base ++ l } }

/-- A node of VF 0 on core 0. -/
def nodeHere (f : Node → Node := id) : Node :=
  f { Node.fresh (List.replicate 256 0) [] 0 [] 0 with state := .running, cores := [0] }

/-- Core 0 runs node 0 of graph 1, beside node 1. -/
def inNode (f : Node → Node := id) (s : State) (other : Node := .fresh (List.replicate 256 0) [] 1 [] 0) : State :=
  { s.updCore 0 fun c => { c with node := some 0x10000 } with
    hearth := { s.hearth with nodes := [(0x10000, nodeHere f), (0x10001, other)]
                              graphs := [(1, ⟨0, 0, 2, 2, false, false, 0⟩)] } }

/-- An adapter of format 1 in entry 3 of VF 0, in a state. -/
def benchEntry (state : Nat) : AdEntry :=
  { AdEntry.init with ver := 5, gen := 2, state := state, fmt := 1, vrec := 0x70000, refs := 1, rank := 1, nlayer := 1,
                      hands := [some 0x4000000, some 0x4000000] }

/-- A version record at 0x70000 whose factors are handle 4, a tensor of one tile of 512 KiB, and a record's header at 0x71000. -/
def records : Memory :=
  [(0x70043, 4), (0x7004B, 4), (0x71014, 1), (0x71016, 1), (0x71017, 1), (0x71018, 1)]

/-- Core 0 in its node, with that entry. -/
def benchA (state : Nat) (regs : SMap Dword) (f : Node → Node := id) (g : AdEntry → AdEntry := id) : State :=
  let s := benchC regs fun c => pad { c with csr := { c.csr with adcfg := 8, htbase := 0x40000, htcount := 8 } }
  let s : State := { s with mem := { s.mem with base := s.mem.base ++
    [(0x40101, 0xC0), (0x40102, 1), (0x40108, 1), (0x4010C, 1), (0x40110, 1), (0x40114, 1), (0x40118, 18), (0x40128, 1)] ++ records } }
  (inNode f s).updVf 0 fun v => { v with adapters := [(3, g (benchEntry state))] }

/-- AdapterInstructions: a resident, an absent and a loading version, an empty entry, a stale handle, another version; room in
the log and none; a layer that resolves; a record that is published. -/
theorem meets_AdapterInstructions :
    (let s := benchA 2 [(1, 0x500020003), (2, 0x8000000000), (3, 0x71000), (4, 0x500010003), (5, 0x600020003), (6, 4), (7, 0x50002FFFF)]
     let e := s.adapter s.here.vfid 3
     (s.release (.stream s.cur) (s.cur / 64) 3).isOk = true ∧ e.ver ≠ 0 ∧ (s.reg 1).extractLsb' 32 28 = e.ver
      ∧ ((s.reg 1).extractLsb' 0 32).extractLsb' 16 16 = e.gen ∧ e.state = 2 ∧ e.refs ≠ 0
      ∧ ((s.reg 4).extractLsb' 0 32).extractLsb' 16 16 ≠ e.gen ∧ (s.reg 5).extractLsb' 32 28 ≠ e.ver ∧ (s.reg 5).extractLsb' 32 28 ≠ e.sver
      ∧ (s.adapter s.here.vfid 4).ver = 0 ∧ 65535 ≥ s.here.csr.adcfg.toNat
      ∧ (s.reg 2).toNat / 2 ^ 32 % 32 = 0 ∧ (s.reg 2).toNat / 2 ^ 32 + 96 ≤ s.here.spBytes ∧ e.ver ≠ 0xFFFFFFF ∧ e.srefs = 0
      ∧ got (s.release (.stream s.cur) (s.cur / 64) 3) (fun r =>
          let t : State := { r with mem := r.mem.settle }
          got (t.resolve 128 0 e.vrec.toNat e.nlayer e.fmt e.alpha e.rank e.ver) (fun _ => true)
            && got (t.publish (s.reg 1) (s.reg 3)) (fun q => q.2 == 0 && q.1.here.vfid == 0)) = true)
    ∧ (let s := benchA 0 [] fun n => { n with alog := List.replicate 63 ⟨true, 1, 1⟩ }
       ∃ n, s.here.node = some 0x10000 ∧ s.node? 0x10000 = some n ∧ n.alog.length < 64 ∧ (s.adapter s.here.vfid 3).state = 0
        ∧ (n.alog.filter fun x => x.release && x.handle.toNat % 65536 == 3 && x.ver == 5).length < (s.adapter s.here.vfid 3).refs.toNat)
    ∧ (let s := benchA 1 [] fun n => { n with alog := List.replicate 64 ⟨true, 1, 1⟩ }
       ∃ n, s.node? 0x10000 = some n ∧ 64 ≤ n.alog.length ∧ (s.adapter s.here.vfid 3).state = 1)
    ∧ (let s := (benchA 2 []).updVf 0 fun v => { v with cfg := (0x14000, 0x100008) :: v.cfg }
       s.cfg s.here.vfid 0x14 % 2 ^ 16 ≤ 8 ∧ 8 + 16 ≤ s.cfg s.here.vfid 0x14 % 2 ^ 16 + s.cfg s.here.vfid 0x14 / 2 ^ 16 % 2 ^ 16
        ∧ ∀ p ∈ (s.vf s.here.vfid).adapters, p.1 ≠ 3 → (16 : Nat) ≠ 0 →
          p.2.xcnt = 0 ∨ 8 + 16 ≤ p.2.xfirst ∨ p.2.xfirst + p.2.xcnt ≤ 8) := by
  refine ⟨by decide +kernel, ⟨_, by decide, rfl, by decide, by decide, by decide⟩, ⟨_, rfl, by decide, by decide⟩, by decide⟩

/-- Core 0 with a probe record of handle 4 in the die's region at offset 0 of its scratchpad, and entries of the die's table. -/
def benchP (l : SMap PEntry) (quota : Dword) (stale : Bool := false) : State :=
  let s := benchA 2 []
  (s.updCore 0 fun c => { c with sp := [(3, 4), (5, if stale then 0x10 else 0), (16, 1)] }).updVf 0 (fun v =>
    { v with cfg := (0x10000, quota) :: v.cfg }) |>.updDie 0 fun k => { k with probe := l }

/-- ProbesAndTables: entries that are VALID, FILLING and pinned, none with room and none without, a stale handle; the table
slots and the values of vtype. -/
theorem meets_ProbesAndTables :
    (let k : ProbeKey := ⟨0x4000000, 0, true⟩
     let e : PEntry := { PEntry.init with state := 2, index := 4, handle := 0x4000000 }
     let key (q : State) (k : ProbeKey) : PKey := { PKey.of k.handle k.tile with vf := q.here.vfid }
     let ok (s : State) (p : State → Bool) : Bool :=
       (match s.here.probeRecord 0 with | .ok k' => k' == k | .error _ => false)
         && got (s.probeHandle k 0) (fun r => r.2 && decide (r.1.self = s.self) && p r.1)
     (benchP [] 1).mayGoTo 4 ∧ ¬(benchP [] 1).mayGoTo 64
      ∧ ok (benchP [(1, e)] 1) (fun q => q.pfind (.die 0) (key q k) == some 1 && q.here.vfid == 0 && (q.pentry (.die 0) 1).state == 2
          && (q.pentry (.die 0) 1).pins == 0) = true
      ∧ ok (benchP [(1, { e with pins := 1 })] 1) (fun q => (q.pentry (.die 0) 1).state == 2 && (q.pentry (.die 0) 1).pins == 1) = true
      ∧ ok (benchP [(1, { e with state := 1 })] 1) (fun q => q.pfind (.die 0) (key q k) == some 1
          && (q.pentry (.die 0) 1).state == 1) = true
      ∧ ok (benchP [] 0) (fun q => q.pfind (.die 0) (key q k) == none && q.pchoose (.die 0) 0 == none) = true
      ∧ got ((benchP [] 1 true).probeHandle ⟨0x100000000000 + 0x4000000, 0, true⟩ 0) (fun r => !r.2 && decide (r.1.self = (benchP [] 1 true).self)) = true)
    ∧ (let s := benchX [] fun c => { c with slots := [(1, { TSlot.init with owner := some 0, bank1 := ⟨2, [], 0⟩ }),
         (2, { TSlot.init with owner := some 0, bank1 := ⟨1, [], 0⟩ }), (3, { TSlot.init with owner := some 0 }), (4, { TSlot.init with owner := some 1 })] }
       (s.here.slot 1).owner = some s.here.vfid ∧ (s.here.slot 1).bank1.state = 2 ∧ (s.here.slot 2).owner = some s.here.vfid
        ∧ (s.here.slot 2).bank1.state = 1 ∧ (s.here.slot 3).owner = some s.here.vfid ∧ (s.here.slot 3).bank1.state = 0
        ∧ (s.here.slot 4).owner = some 1 ∧ (1 : Nat) ≠ s.here.vfid ∧ (s.here.slot 5).owner = none
        ∧ vtypeOk (6 &&& vtypeMask) = true ∧ vtypeOk (7 &&& vtypeMask) = false) := by
  refine ⟨⟨⟨by decide, by decide⟩, fun h => absurd h.2 (by decide), ?_⟩, by decide⟩
  decide

/-- A phaser id of VF 0: index 4095 on die 0, the last of a range 4094 and 4095. -/
def benchPh (p : Phaser) (l : List Member) (f : State → State := id) : State :=
  let s := benchC [(1, 4095), (2, 0x33), (3, 4093)]
  let s := (inNode (fun n => { n with members := l }) s).updVf 0 fun v => { v with cfg := (0x11000, 4094) :: (0x12000, 2) :: v.cfg.drop 3 }
  f (s.setPhaser 4095 p)

/-- PhaserInstructions: a registration with room and two without, members of each mode, before and behind their phase; an
advance with signallers and one without. -/
theorem meets_PhaserInstructions :
    (let s := benchPh .idle []
     let id := s.reg 1
     (id.toNat / 2 ^ 21 % 2 ^ 35 = 0 ∧ id.toNat / 2 ^ 12 % 16 = 0 ∧ id.toNat / 2 ^ 56 = s.here.vfid
       ∧ s.cfg (id.toNat / 2 ^ 56) 0x11 ≤ id.toNat % 2 ^ 12
       ∧ id.toNat % 2 ^ 12 < s.cfg (id.toNat / 2 ^ 56) 0x11 + s.cfg (id.toNat / 2 ^ 56) 0x12)
      ∧ ¬s.cfg 0 0x11 ≤ (s.reg 3).toNat % 2 ^ 12 ∧ (s.phaser id).nmem = 0 ∧ (s.memberOf? id).isNone = true
      ∧ s.phaserId id = .ok () ∧ (s.reg 2).toNat % 4 = 3 ∧ (s.reg 2).toNat / 16 % 8 = 3 ∧ (s.reg 2).toNat / 4 % 4 = 0)
    ∧ (let s := benchPh { Phaser.idle with nmem := 65535 } (List.replicate 32 ⟨1, 1, 1, 1, 3⟩)
       (s.phaser (s.reg 1)).nmem = 65535 ∧ (s.node? 0x10000).any (fun n => decide (32 ≤ n.members.length)) = true)
    ∧ ((List.range 4).all fun m =>
        let s := benchPh ⟨3, 5, 1, 0, 0, 2⟩ [⟨4095, m, 5, 5, 3⟩]
        let t := benchPh ⟨3, 5, 2, 1, 0, 2⟩ [⟨4095, m, 6, 4, 3⟩]
        let late := benchPh ⟨4, 5, 2, 0, 0, 2⟩ [⟨4095, m, 5, 5, 4⟩]
        (s.memberOf? 4095).any (fun r => r.sp == (s.phaser 4095).phase && r.wp == r.sp)
          && (t.memberOf? 4095).any (fun r => r.sp != (t.phaser 4095).phase && decide (1 ≤ ((t.phaser 4095).phase - r.wp).toNat))
          && s.mem.performed (.stream 0) 0 3 0xFF && late.peersDone (.stream 0)
          && (({ s.phaser 4095 with arr := 1 } : Phaser).advance).phase == 6
          && (({ late.phaser 4095 with arr := 1 } : Phaser).advance).phase == 5) = true
    ∧ (({ Phaser.idle with nmem := 1, ns := 1, arr := 1 } : Phaser).advance.phase = 1
      ∧ ({ Phaser.idle with nmem := 1, dns := 1 } : Phaser).advance.phase = 1) := by
  refine ⟨⟨⟨by decide, by decide, by decide, by decide, by decide⟩, by decide, by decide, by decide, ?_, by decide, by decide, by decide⟩,
    by decide, by decide, by decide⟩
  rfl

/-- Core 0 in its node, drained: its X-stream waits for the control queue. -/
def benchN (regs : SMap Dword) (f : Node → Node := id) (g : Core → Core := id) : State :=
  inNode f (benchC regs fun c => g { c with x := { c.x with wait := some (.cqPop, 0) } })

/-- A descriptor at 0x72000 without successors, one at 0x72100 whose successor is node 0, and its list at 0x72200. -/
def descs : Memory :=
  [(0x72000, 1), (0x72010, 4), (0x72014, 4), (0x72100, 1), (0x72110, 4), (0x72114, 4), (0x7211F, 1), (0x72131, 0x22), (0x72132, 7)]

/-- A peer's memory owes core 0 the acknowledgement of a write. -/
def owing (s : State) : State := { s with peers := [⟨.stream 0, 0, 1, 0, 8, true, false, (0, 0, 0), none, none, none⟩] }

/-- NodeInstructions: a drained core and one that is not, good and bad offsets, one core of two; descriptors with and without
successors, a full graph; a node that waits, one that does not, and a counter at its top. -/
theorem meets_NodeInstructions :
    (let s := benchN [(1, 0x3C0000003C), (2, 0x4000000000000001), (3, 0x4000000000)]
     let ok (v : Dword) : Bool := decide (v.toNat % 2 ^ 32 % 4 = 0 ∧ v.toNat % 2 ^ 32 < s.here.image.lenC
       ∧ v.toNat / 2 ^ 32 % 4 = 0 ∧ v.toNat / 2 ^ 32 < s.here.image.lenX)
     s.here.node = some 0x10000 ∧ s.node? 0x10000 = some nodeHere ∧ s.curX = false ∧ ok (s.reg 1) = true ∧ ok (s.reg 3) = false
      ∧ s.here.stand = none ∧ s.here.drained = true ∧ (nodeHere).pendSince = none ∧ (nodeHere).cores = [s.cur]
      ∧ (s.reg 2).toNat / 2 ^ 62 = 1 ∧ (s.reg 2).toNat / 2 ^ 32 % 2 ^ 30 = 0 ∧ s.coreAcked s.cur = true
      ∧ (owing s).coreAcked (owing s).cur = false)
    ∧ (let n := nodeHere fun n => { n with check := some ⟨[⟨0, 0, [], 0⟩], [], [], []⟩ }
       let s := benchN [] fun n => { n with check := some ⟨[⟨0, 0, [], 0⟩], [], [], []⟩ }
       s.node? 0x10000 = some n ∧ n.check.isSome = true ∧ s.here.nci < 1 ∧ s.here.drained = true)
    ∧ (inNode id (benchC [])).here.drained = false
    ∧ (let s := benchN [] fun n => { n with cores := [0, 1] }
       s.self.mode ≠ .handler ∧ s.here.enginesEmpty = true ∧ s.here.csr.grpid.getLsbD 16 = false
        ∧ ((nodeHere fun n => { n with cores := [0, 1] }).cores.any fun c => c != s.cur
            && !(nodeHere fun n => { n with cores := [0, 1] }).done.contains c) = true)
    ∧ (let s := { benchN [] with hearth := { Hearth.init with nodes := [(0x10000, nodeHere)] } }
       descType (nodeHere).desc ≠ 2 ∧ s.graph? (graphKey 0x10000) = none ∧ (nodeHere).check = none ∧ (nodeHere).alog = []
        ∧ (nodeHere).members = [] ∧ s.hearth.rewinds = [] ∧ s.hearth.retires = []
        ∧ (∀ p ∈ s.hearth.nodes, p.2.state ≠ .parked) ∧ s.cur ∈ (nodeHere).cores ∧ s.owes 0x10000 (nodeHere).cores = false)
    ∧ (let s := more descs ((benchN []).updVf 0 fun v => { v with cfg := (0x2000, 1) :: v.cfg })
       (s.graph? 1).any (fun g => g.nodes == 2) = true
        ∧ got (s.spawnDesc 0 0x72000) (fun r => r.2.2.2 == [] && (r.1.graph? 1).any (fun g => g.nodes == 2)) = true
        ∧ got (s.spawnDesc 0 0x72100) (fun r => r.2.2.2 == [0] && r.1.nodeState 1 0 != some .waiting) = true)
    ∧ (let g : Graph := ⟨0, 0, 2, 65535, false, false, 0⟩
       65535 ≤ g.nodes ∧ (Node.fresh [] [] (2 ^ 32 - 1) [] 0).counter = 2 ^ 32 - 1 ∧ (Node.fresh [] [] 1 [] 0).counter = 1
        ∧ (Node.fresh [] [] 2 [] 0).state = .waiting ∧ (nodeHere).state ≠ .waiting
        ∧ ((benchN []).release (.stream 0) 0 3).isOk = true) := by
  refine ⟨by decide, by decide, by decide, by decide, ?_, by decide⟩
  decide

/-- CoreGroups: a group of two cores whose other member waits, does not wait, or has work; a bad mask; a core in a group and
in none. -/
theorem meets_CoreGroups :
    (let s := (benchN [(1, 7), (2, 3), (3, 4)] fun n => { n with cores := [0, 1] }).updCore 1 fun c => { c with joining := some (7, 3) }
     s.joinOk (s.reg 1) (s.reg 2) = true ∧ s.joinOk (s.reg 1) (s.reg 3) = false ∧ s.here.enginesEmpty = true ∧ s.curX = false
      ∧ (∀ c ∈ membersOf s.myCores 3, c ≠ s.cur → (s.core c).joining = some (7, 3)) ∧ s.myCores.Nodup)
    ∧ (let s := benchN [(1, 7), (2, 3)] fun n => { n with cores := [0, 1] }
       s.joinOk (s.reg 1) (s.reg 2) = true ∧ ∃ c ∈ membersOf s.myCores 3, c ≠ s.cur ∧ (s.core c).joining ≠ some (7, 3))
    ∧ (let k : Cmd := ⟨.mswap ⟨none, true⟩, 0, 0, 0, 0⟩
       let s := benchN [] id fun c => { c with csr := { c.csr with grpid := 0x10007 }, matrix := { c.matrix with cmds := [k] } }
       s.here.csr.grpid.getLsbD 16 = true ∧ s.here.quad.role = 0 ∧ s.here.quad.pending = false ∧ s.here.enginesEmpty = false)
    ∧ (benchN []).here.csr.grpid.getLsbD 16 = false := by decide

/-- QueueReadiness: entries in and out, and the ends of each queue. -/
theorem meets_QueueReadiness :
    (let s := benchX [] fun c => ((c.setQueue 1 [1]).setQueue 17 [2]).setQueue 3 [0, 0, 0] |>.setQueue 4 [0, 0, 0, 0] |>.setQueue 18 [0, 0, 0, 0]
     1 ≤ (s.here.queue 1).length ∧ 1 ≤ (s.here.queue 17).length ∧ (s.here.queue 3).length = 3 ∧ 4 ≤ (s.here.queue 4).length
      ∧ 4 ≤ (s.here.queue 18).length ∧ (s.here.queue 16).length = 0 ∧ (s.here.queue 15).length = 0 ∧ s.curX = true)
    ∧ (benchC []).curX = false := by decide

/-! #### Vectors -/

/-- A core whose X-stream has vtype `v`, 128 equal bytes at the head of q1, q2, q3 and q17 (empty at q20), and a mask k1. -/
def benchV (v : Dword) (f : Core → Core := id) : State :=
  benchX [(1, 5), (2, 6)] fun c =>
    let e : Vec := BitVec.ofNat 1024 ((2 ^ 1024 - 1) / (2 ^ 32 - 1) * 0x3F800000)
    f { (((c.setQueue 1 [e]).setQueue 2 [e]).setQueue 3 [e]).setQueue 17 [e] with
        vec := { (((c.setQueue 1 [e]).setQueue 2 [e]).setQueue 3 [e]).setQueue 17 [e] |>.vec with vtype := v, masks := [(1, 0xFF)] } }

/-- The queues are ready for an instruction. -/
def ready (s : State) (i : Instr) : Bool := got (s.queues i) fun _ => true

theorem ready_ok (s : State) (i : Instr) (h : ready s i = true) : s.queues i = .ok () := by
  unfold ready got at h
  split at h
  · rename_i e; exact e
  · exact absurd h (by decide)

/-- VectorInteger, VectorFloat, VectorReductions, LanesAndMoves: an entry of each element type, a mask with active lanes, and
another with none. -/
theorem meets_VectorLanes :
    ((List.range 7).all fun v =>
      let s := benchV (BitVec.ofNat 64 v)
      s.here.et == v && [.vadd ⟨20, 1, 2, 1, false, true, true⟩, .vand ⟨20, 1, 17, 0, false, false, true⟩,
        .vshuf ⟨1, 1, 2, 2, false, false, true⟩, .vbcast ⟨20, 1, 31, 0, false, true⟩, .vslideUp ⟨20, 1, 1, 0, false, true⟩,
        .vcompress ⟨20, 1, 1, false, true⟩, .vrand ⟨20, 1, 2, 1, true⟩, .vfadd ⟨20, 17, 2, 1, true, false, true⟩,
        .vfabs ⟨20, 1, 1, false, true⟩, .vfma ⟨20, 1, 2, 3, 1, true, true⟩, .vrsum ⟨20, 1, 1, false, true⟩,
        .vscan ⟨20, 1, 2, true, true⟩, .vrargmax ⟨20, 1, 1, false, true⟩].all (ready s)) = true
    ∧ (benchV 0).here.mask 1 = 0xFF ∧ (benchV 0).here.mask 2 = 0 ∧ (benchV 0).here.mask 0 = 0xFFFFFFFF := by decide

/-- VectorConversions: every pair of types with a part that it has, a pack and an unpack of every type that has one, and a
scaled block of every format. -/
theorem meets_VectorConversions :
    ((List.range 7).all fun et => (List.range 7).all fun ct =>
      let s := benchV (BitVec.ofNat 64 (et + 16 * ct))
      s.here.et == et && s.here.ct == ct && decide ((0 : BitVec 3).toNat < cvtParts et ct) && ready s (.vcvt ⟨20, 1, 0, 1, false, true⟩)
        && ready s (.vpack ⟨20, 1, 2, 1, false, false, true⟩) && ready s (.vunpack ⟨20, 1, true, 1, false, true, true⟩)
        && ready s (.vbscale ⟨20, 1, 5, 1, false, true⟩)) = true
    ∧ (let s := benchV 0x110850
       s.here.rm = .sr ∧ ready s (.vcvt ⟨20, 1, 0, 1, false, true⟩) = true)
    ∧ Fp.Fmt.ofCode 2 = some .e4m3 := by decide

/-- A table of one segment, of numbers from 1 to 2: its result is a constant. -/
def oneSegment : List Byte :=
  [1, 0, 1, 0, 0, 127, 127, 0, 0, 0, 0x80, 0x3F, 0xFF, 0xFF, 0xFF, 0x3F] ++ List.replicate 16 0 ++ [1] ++ List.replicate 51 0

/-- VectorTables: an owned slot that is READY, one that is not, one that is another's; FP32 entries. -/
theorem meets_VectorTables :
    (let s := benchV 0 fun c => { c with slots := [(1, { TSlot.init with owner := some 0, bank0 := ⟨2, oneSegment, 0⟩ }),
       (2, { TSlot.init with owner := some 0, bank0 := ⟨1, [], 0⟩ }), (3, { TSlot.init with owner := some 1 })] }
     s.here.et = 0 ∧ ready s (.vfunc ⟨20, 1, 1, false, 1, true⟩) = true ∧ ready s (.vconf ⟨1, 1, 2, 1, false, false, true⟩) = true
      ∧ (s.here.slot 1).owner = some s.here.vfid ∧ (s.here.slot 2).owner = some s.here.vfid ∧ (s.here.slot 2).bank0.state ≠ 2
      ∧ (s.here.slot 3).owner ≠ some s.here.vfid
      ∧ got (funcElem (s.here.slot 1).bank0.data 0 1 s.here.laneMode 0x3F800000 0) (fun _ => true) = true) := by decide

/-- VectorMasks: entries of every type, and none needed by the masks themselves. -/
theorem meets_VectorMasks :
    ([0, 6, 5].all fun v =>
      let s := benchV (BitVec.ofNat 64 v)
      s.here.et == v && [.vicmpEq ⟨1, 1, 2, 1, false, false, true⟩, .vfcmpLt ⟨0, 1, 2, 0, false, true, true⟩, .qdrop ⟨1, true⟩,
        .vext ⟨4, 1, 31, false, true⟩, .vins ⟨20, 1, 2, 1, false, true⟩, .vmovs ⟨20, 1, 1, true⟩].all (ready s)) = true := by decide

/-! #### Steps of the engines -/

/-- Core 0 whose matrix queue has a command at work. -/
def atMatrix (op : Instr) (c0 c1 c2 : Dword) (f : Core → Core := id) (step : Nat := 0) (recs : List (List Byte) := []) : State :=
  let k : Cmd := ⟨op, c0, c1, c2, 0⟩
  benchH [] fun c => f { c with matrix := { c.matrix with cmds := [k], begun := true, step := step, latch := ⟨recs, [], [], []⟩ } }

/-- The same of its transfer load queue. -/
def atLoad (op : Instr) (c0 c1 c2 : Dword) (f : Core → Core := id) (step : Nat := 0) (recs : List (List Byte) := []) : State :=
  let k : Cmd := ⟨op, c0, c1, c2, 0⟩
  benchH [] fun c => f { c with load := { c.load with cmds := [k], begun := true, step := step, latch := ⟨recs, [], [], []⟩ } }

/-- The matrix queue's head command is at work. -/
def works (s : State) : Bool := (s.core 0).matrix.working.isSome

/-- A fusion of a whole quartet, of cores in one group; `other`: core 1's matrix queue. -/
def benchF (pending : Bool) (other : List Cmd) : State :=
  let s := atMatrix (.mfuse ⟨3, none, true⟩) 0 0 0 fun c =>
    { c with csr := { c.csr with grpid := 0x10001 }, quad := { c.quad with pending := pending, role := if pending then 1 else 0 } }
  let s := [1, 2, 3].foldl (fun (s : State) d => s.updCore d fun c => { c with csr := { c.csr with grpid := 0x10001 } }) s
  let s := s.updCore 1 fun c => { c with matrix := { c.matrix with cmds := other } }
  inNode (fun n => { n with cores := [0, 1, 2, 3], desc := List.replicate 24 0 ++ [8] ++ List.replicate 231 0 }) s

/-- ShortCommands: each command at work, with its operands in and out of range. -/
theorem meets_ShortCommands :
    (works (atMatrix (.mswap ⟨none, true⟩) 0 0 0) && works (atMatrix (.mzero ⟨1, none, true⟩) 1 0 0)
      && works (atMatrix (.mamap ⟨1, 2, 3, none, true⟩) 1 0x8F 0x80) && works (atMatrix (.mloraClr ⟨1, none, true⟩) 0 15 0)
      && works (atMatrix (.mloraClr ⟨1, none, true⟩) 0 16 0) && works (atMatrix (.mfuseOff ⟨none, true⟩) 0 0 0)) = true
    ∧ ((atMatrix (.mswap ⟨none, true⟩) 0 0 0).core 0).quad.shd.ready = false
    ∧ (({ Plane.empty with ready := true } : Plane).ready = true ∧ ((1 : Dword).toNat ≤ 1 ∧ 1 < (2 : Dword).toNat))
    ∧ ((∀ g, g < 8 → ((0x8F : Dword).extractLsb' (8 * g) 8).extractLsb' 4 3 = 0)
      ∧ ¬∀ g, g < 8 → ((0x90 : Dword).extractLsb' (8 * g) 8).extractLsb' 4 3 = 0)
    ∧ (fuseMembers 3 0 = some [0, 1, 2, 3] ∧ fuseMembers 3 1 = none ∧ (atMatrix (.mswap ⟨none, true⟩) 0 0 0).isTransform 0 = false)
    ∧ (let k : Cmd := ⟨.mswap ⟨none, true⟩, 0, 0, 0, 0⟩
       (benchF false []).fuseOk 0 [0, 1, 2, 3] = true ∧ ((benchF false []).core 0).quad.pending = false ∧ works (benchF false []) = true
        ∧ (∀ m ∈ [0, 1, 2, 3], m ≠ 0 → ((benchF true []).core m).matrix.cmds = []) ∧ ((benchF true []).core 0).quad.pending = true
        ∧ ((benchF true []).core 0).quad.role = 1
        ∧ (∃ m ∈ [0, 1, 2, 3], m ≠ 0 ∧ ((benchF true [k]).core m).matrix.cmds ≠ [])
        ∧ (benchF false [k]).fuseOk 0 [0, 1, 2, 3] = true ∧ (atMatrix (.mfuse ⟨3, none, true⟩) 0 0 0).fuseOk 0 [0, 1, 2, 3] = false) := by
  decide

/-- ShortCommands: tinval of a slot out of range, of another's, of its own with no reader and with one. -/
theorem meets_tinval :
    (let t : Instr := .tinval ⟨1, none, true⟩
     let s := atLoad t 0 15 0 fun c => { c with slots := [(13, { TSlot.init with owner := some 0, bank1 := ⟨2, [], 1⟩ }),
       (14, { TSlot.init with owner := some 1 }), (15, { TSlot.init with owner := some 0, bank0 := ⟨2, [], 1⟩ })] }
     (s.core 0).load.working.isSome = true ∧ 15 < (16 : Dword).toNat ∧ (s.core 0).c.mode ≠ .device ∧ ((s.core 0).slot 14).owner ≠ some (s.core 0).vfid
      ∧ ((s.core 0).slot 15).owner = some (s.core 0).vfid ∧ ((s.core 0).slot 15).bank1.readers = 0 ∧ ((s.core 0).slot 15).bank0.readers ≠ 0
      ∧ ((s.core 0).slot 13).owner = some (s.core 0).vfid ∧ ((s.core 0).slot 13).bank1.readers ≠ 0 ∧ ((s.core 0).slot 13).bank0.readers = 0) := by
  decide

/-- A record of INT8 rows of two elements at 0x100, two of them; the same record of FP32. -/
def rec8 : Memory := [(1, 1), (4, 0x10), (8, 2), (10, 2), (12, 5)]
def rec32 : Memory := [(1, 1), (4, 0x10), (8, 2), (10, 2)]
/-- A factor descriptor of rank 1 at 0: BF16 records of one row of two elements. -/
def factor : Memory :=
  [(1, 1), (4, 0x10), (8, 1), (10, 2), (12, 1), (0x21, 1), (0x24, 0x10), (0x28, 2), (0x2A, 1), (0x2C, 1), (0x44, 1)]
/-- A plane of INT8 weights, two by two. -/
def plane8 : Plane := ⟨true, 5, 2, 2, [(0, 1), (1, 2), (128, 3), (129, 4)], []⟩

/-- MatrixSteps: each command at work at its step 0, with a record that its check passes, and at a later step. -/
theorem meets_MatrixSteps :
    (let s := atMatrix (.mlw ⟨1, false, none, true⟩) 0 0 0 fun c => { c with sp := rec8 }
     works s = true ∧ got (s.mlwBegin 0 ⟨1, false, none, true⟩ ⟨.mlw ⟨1, false, none, true⟩, 0, 0, 0, 0⟩) (fun b =>
       let r := (b.core 0).matrix.latched 0
       decide (recRows r ≤ 128 ∧ recCols r ≤ 128 ∧ 0 < recRows r)) = true)
    ∧ (let s := atMatrix (.mlora ⟨1, 2, none, true⟩) 0 15 0 fun c => { c with sp := factor }
       works s = true ∧ got ((s.core 0).descriptor 0) (fun _ => true) = true)
    ∧ (let o : CMmul := ⟨1, 2, false, true, true, none, true⟩
       let s := atMatrix (.mmul o) 0 1 0 fun c => { c with sp := rec8, quad := { c.quad with act := plane8 } }
       works s = true ∧ got (bankKorg 1) (fun p => p == (true, 0)) = true
        ∧ got (s.mmulBegin 0 o ⟨.mmul o, 0, 1, 0, 0⟩) (fun b =>
            decide (0 < recRows ((b.core 0).matrix.latched 0) ∧ (b.core 0).quad.act.np ≤ 128)
            && recFmt ((b.core 0).matrix.latched 0) == 5) = true)
    ∧ (let r : List Byte := [0, 1, 0, 0, 16, 0, 0, 0, 2, 0, 2, 0, 5, 0, 0, 0] ++ List.replicate 16 0
       let s := atMatrix (.mmul ⟨1, 2, false, true, true, none, true⟩) 0 1 0 (fun c =>
         { c with quad := { c.quad with act := plane8, bank1 := { c.quad.bank1 with tenant := [(0, 0x80)] } } }) 2 [r]
       works s = true ∧ (s.core 0).matrix.latch.recs ≠ [] ∧ (s.core 0).matrix.step = recRows ((s.core 0).matrix.latched 0))
    ∧ (let o : CMst := ⟨1, 2, false, false, false, none, true⟩
       let s := atMatrix (.mst o) 0 1 0 fun c => { c with sp := rec32 }
       works s = true ∧ got (bankOf 1) (fun b => b) = true
        ∧ got (s.mstBegin 0 o ⟨.mst o, 0, 1, 0, 0⟩) (fun b => recFmt ((b.core 0).matrix.latched 0) == 0) = true) := by
  refine ⟨by decide, by decide, by decide, by decide, by decide⟩

/-- A table of the exponential's shape for the tests: every number takes 1.0. -/
def ones : List Byte :=
  [1, 0, 1, 0, 0, 127, 127, 0xA0] ++ List.replicate 8 0 ++ [0, 0, 0x80, 0x3F] ++ List.replicate 12 0 ++ [1] ++ List.replicate 51 0

/-- MatrixSteps: mmul.smax, before and after its record is latched. -/
theorem meets_smax :
    (let o : C3 := ⟨1, 2, 3, none, true⟩
     let plane : Plane := ⟨true, 1, 2, 1, [(0, 0x3F80), (128, 0x3F80)], []⟩
     let f (c : Core) : Core := { c with sp := rec32, quad := { c.quad with act := plane }
                                         slots := [(1, { TSlot.init with owner := some 0, bank0 := ⟨2, ones, 0⟩ })] }
     let s := atMatrix (.mmulSmax o) 0 0 1 f
     works s = true ∧ (s.core 0).matrix.latch.recs = []
      ∧ got (s.smaxBegin 0 ⟨.mmulSmax o, 0, 0, 1, 0⟩) (fun b =>
          let c := b.core 0
          let w := c.quad
          let r := c.matrix.latched 0
          (b.core 0).matrix.latch.recs != [] && got (smaxRow (c.matrix.latchedBank 0).2 (c.matrix.latchedBank 0).1
            (c.recRow r 0 0 (recCols r)) ((List.range w.act.np).map ((w.bank false).word 0)) ((w.bank false).max 0)
            ((w.bank false).sum 0) ((Fp.Fmt.ofCode w.act.fmt.toNat).getD .bf16) (fun e j => codeVal w.act.fmt.toNat (w.act.elem e j))
            w.act.scale) (fun _ => true)) = true) := by decide

/-- A copy descriptor at 0: one row of two elements, to 0x100 in the scratchpad; a tag record of slot 0 at 0x40. -/
def copyDesc : Memory := [(0x10, 1), (0x14, 1), (0x18, 1), (0x1C, 2), (0x21, 1), (0x24, 0x10)]

/-- Core 0's transfer store queue with a command at work. -/
def atStore (op : Instr) (c0 c1 c2 : Dword) (f : Core → Core := id) : State :=
  benchH [] fun c => f { c with store := { c.store with cmds := [⟨op, c0, c1, c2, 0⟩], begun := true } }

/-- CopySteps: a copy to the scratchpad before its descriptor is latched and after. -/
theorem meets_CopySteps_load :
    (let o : CCopy := ⟨1, 2, 3, 0, none, true⟩
     let k : Cmd := ⟨.xld o, 0, 0, 0, 0⟩
     let s := atLoad (.xld o) 0 0 0 fun c => { c with sp := copyDesc }
     copyOf k.op = some ⟨.ld, false, false⟩ ∧ (s.core 0).load.working = some k ∧ (s.core 0).load.latch.recs = []
      ∧ got (s.copyBegin 0 .load ⟨.ld, false, false⟩ k) (fun r =>
          let e := (r.1.core 0).load
          let cp := e.copy ⟨.ld, false, false⟩
          e.working == some k && e.latch.recs != [] && e.todo == none
            && got (r.1.chunkValues 0 .load cp (cp.spots e.step)) (fun v => v.2.length == 2)) = true) := by decide

/-- CopySteps: a copy to memory, before its chunk is read, with its writes to leave and with all of them gone; the pool with
room and without; and its writes performed and not. -/
theorem meets_CopySteps_store :
    (let o : CCopy := ⟨1, 2, 3, 0, none, true⟩
     let k : Cmd := ⟨.xst o, 0, 0, 0, 0⟩
     let q : EngQ := .store
     let s := atStore (.xst o) 0 0 0 fun c => { c with sp := copyDesc }
     got (s.copyBegin 0 q ⟨.st, false, false⟩ k) (fun r =>
       let e := (r.1.core 0).eng q
       let cp := e.copy ⟨.st, false, false⟩
       e.working == some k && e.latch.recs != [] && e.todo == none && (cp.dest.map fun d => d.landing) == some false
         && got (r.1.chunkValues 0 q cp (cp.spots e.step)) (fun v =>
           got (v.1.chunkWrites 0 q cp cp.first v.2) fun x =>
             let y := x.1.emitSome (.engine 0 q) 1 (some 0) (x.1.requestRoom 0 0) x.2
             x.2 != [] && x.1.requestRoom 0 0 != 0 && y.2.1 == [] && y.2.2 == none && ((y.1.core 0).eng q).step == e.step
               && ((y.1.core 0).eng q).head == e.head && x.1.mem.performed (.engine 0 q) 0 1 0xFF
               && x.1.peersDone (.engine 0 q) && !y.1.mem.performed (.engine 0 q) 0 1 0xFF)) = true)
    ∧ (let s := benchC [] fun c => { c with csr := { c.csr with xch := [(0, 1)] } }
       ({ s with mem := { s.mem with pend := [⟨.engine 0 .store, 0, [(0, 1)], 1, 0, false, [], [], some 0⟩] } } : State).requestRoom 0 0 = 0) := by
  decide

/-- CopySteps: an xdrain of a transform node's list with nothing to wait for, and one that waits. -/
theorem meets_CopySteps_drain :
    (let k : Cmd := ⟨.xdrain ⟨0, true⟩, 0, 0, 0, 0⟩
     let s := atLoad (.xdrain ⟨0, true⟩) 0 0 0
     (s.core 0).load.working = some k ∧ (s.core 0).load.latch.recs = [] ∧ s.mem.pend = [] ∧ s.mem.log = [] ∧ s.peers = []
      ∧ ofCores [0] (.engine 0 .load) = true) := by decide

/-- DecryptAndTableLoads: a tload at its first step, at its second and last, and one whose bank has a reader. -/
theorem meets_tload :
    (let o : CTload := ⟨1, 2, true, none, true⟩
     let f (n : Nat) (c : Core) : Core :=
       { c with sp := ((List.range 128).map fun i => 0x40 + i).zip ones
                slots := [(1, { TSlot.init with owner := some 0, bank1 := ⟨1, List.replicate 64 0, n⟩ })] }
     let s := atLoad (.tload o) 0x40 1 0 (f 0) 1 [ones.take 64]
     let z := atLoad (.tload o) 0x40 1 0 (f 0)
     ((s.core 0).load.working.isSome = true ∧ (s.core 0).owns 1 = true ∧ (0x40 : Dword).toNat % 64 = 0 ∧ 0 < (s.core 0).load.step
      ∧ tblBytes ((s.core 0).load.latched 0) ≤ 64 * 2
      ∧ got (s.tloadRead 0 true 0x40 1 (tblBytes ((s.core 0).load.latched 0))) (fun _ => true) = true)
     ∧ (z.core 0).load.step = 0 ∧ ((z.core 0).slot 1).bank1.readers = 0 ∧ (z.core 0).load.working.isSome = true
     ∧ got (z.tloadRead 0 true 0x40 0 64) (fun r => tblOk r.2) = true
     ∧ ((atLoad (.tload o) 0x40 1 0 (f 1)).core 0).slot 1 = { TSlot.init with owner := some 0, bank1 := ⟨1, List.replicate 64 0, 1⟩ }) := by
  decide

/-- A request block at 0: one query row over position 0 of the KV sequence of handle 1, with table slot 1 for both functions. -/
def request : Memory :=
  [(1, 1), (4, 0x80), (8, 1), (10, 64), (12, 1), (0x21, 2), (0x25, 1), (0x28, 1), (0x2A, 64), (0x33, 1), (0x3C, 1), (0x4A, 0x80),
   (0x4B, 0x3F), (0x58, 3), (0x5A, 0x11), (0x5B, 0x7F), (0x5C, 0x7F)]

/-- AttentionSteps: a request before it is latched, at its chunk, and at its output step; a backfill queue with room and one
that the VF has filled. -/
theorem meets_AttentionSteps :
    (let o : C1 := ⟨1, none, true⟩
     let k : Cmd := ⟨.attn o, 0, 0, 0, 0⟩
     let s := atMatrix (.attn o) 0 0 0 fun c => { c with sp := request, slots := [(1, { TSlot.init with owner := some 0, bank0 := ⟨2, ones, 0⟩ })] }
     (s.core 0).matrix.working = some k ∧ (s.core 0).matrix.latch.recs = []
      ∧ got (s.attnBegin 0 k) (fun b =>
          let e := (b.core 0).matrix
          let q := e.attn.1
          e.working == some k && e.latch.recs != [] && e.step == 0 && atChunks (e.latched 1) == 1 && atNq q == 1 && atDim q == 64
          && got (b.readChunk 0 q e.attn.2 0) (fun p => p.2.length == 1 && got (p.1.attnRow 0 q e.attn.2 p.2 0 0) (fun _ => true))
          && got ((b.core 0).attnOut q 0) (fun _ => true)) = true)
    ∧ (let k : Cmd := ⟨.bkfill ⟨1, 2, 3, none, true⟩, 0, 0, 0, 0⟩
       let s := benchH [] fun c => { c with backfill := { c.backfill with cmds := [k], begun := true } }
       (s.core 0).backfill.working = some k ∧ (s.die 0).bfq.length < 1024
        ∧ ((s.die 0).bfq.filter fun e => e.vf == (s.core 0).vfid).length < 64 ∧ (s.release (.stream 0) 0 3).isOk = true
        ∧ ((List.replicate 64 (⟨0, 0, 0, 0, 0, 0, 0, 0, 0, none, 0, 0, 0, [], 1⟩ : BfEntry)).filter fun e => e.vf == 0).length = 64) := by
  decide

theorem leNat_leBytes (n v : Nat) : leNat (leBytes n v) = v % 256 ^ n := by
  induction n generalizing v with
  | zero => simp [leBytes, leNat, Nat.mod_one]
  | succ n ih =>
    have h : 256 ^ (n + 1) = 256 * 256 ^ n := by rw [Nat.pow_succ, Nat.mul_comm]
    rw [leBytes, leNat, ih, h, Nat.mod_mul, BitVec.toNat_ofNat]

/-- A decrypting load whose tag record, at 0x40, holds a tag. -/
def decrypts (tag : BitVec 128) : State :=
  (atLoad (.xldDec ⟨1, 2, 3, 0, none, true⟩) 0 0 0x40 fun c =>
    { c with sp := copyDesc ++ ((List.range 16).map fun i => 0x50 + i).zip (leBytes 16 tag.toNat) }).updVf 0 fun v => { v with keys := [(0, 7)] }

/-- What the load has once it has latched its descriptor, before the tag is looked at. -/
def decryptPre (s : State) : Bool :=
  let k : Cmd := ⟨.xldDec ⟨1, 2, 3, 0, none, true⟩, 0, 0, 0x40, 0⟩
  got (s.copyBegin 0 .load ⟨.dec, false, false⟩ k) fun b =>
    let e := (b.1.core 0).load
    let cp := e.copy ⟨.dec, false, false⟩
    let r := (b.1.core 0).spRead 0x40 32
    let spots := (List.range cp.rows).flatMap fun i => (List.range cp.cols).map fun x => (i, x)
    e.working == some k && e.latch.recs != [] && field r 0xC 1 == 0 && zeroAt r 0xD 3 && field r 0 12 == 0
      && (b.1.vf (b.1.core 0).vfid).keys.lookup 0 == some 7 && (b.1.core 0).node.isNone
      && got (b.1.chunkValues 0 .load cp spots) (fun v => v.2 == [((0, 0), 0), ((0, 1), 0)])

/-- The tag of eight zero bytes under key 7. -/
def zeroTag : BitVec 128 := Config.gcmTag ((7 : BitVec 512).extractLsb' 0 256) (BitVec.ofNat 96 0) [] (packBytes 32 [0, 0])

theorem record_tag (tag : BitVec 128) :
    BitVec.ofNat 128 (field (((decrypts tag).core 0).spRead 0x40 32) 0x10 16) = tag := by
  have h : field (((decrypts tag).core 0).spRead 0x40 32) 0x10 16 = leNat (leBytes 16 tag.toNat) := by rfl
  rw [h, leNat_leBytes, Nat.mod_eq_of_lt (show tag.toNat < 256 ^ 16 from tag.isLt), BitVec.ofNat_toNat, BitVec.setWidth_eq]

/-- DecryptAndTableLoads: a decrypting load whose tag holds, and one whose tag does not; its text is eight zero bytes. -/
theorem meets_decrypt : decryptPre (decrypts zeroTag) = true ∧ decryptPre (decrypts (zeroTag + 1)) = true
    ∧ zeroTag = BitVec.ofNat 128 (field (((decrypts zeroTag).core 0).spRead 0x40 32) 0x10 16)
    ∧ zeroTag ≠ BitVec.ofNat 128 (field (((decrypts (zeroTag + 1)).core 0).spRead 0x40 32) 0x10 16) := by
  refine ⟨by decide, by decide, (record_tag _).symm, ?_⟩
  rw [record_tag]
  generalize zeroTag = x
  bv_omega

/-! #### Events of memory, faults, the Hearth and the units -/

/-- A write of a core of die 0 to its own half. -/
def oneWrite : WriteRec := ⟨.stream 0, 0, [(0x80000, 7)], 1, 0, false, [], [], none⟩

/-- Core 0 with an instruction row that is being filled from an address. -/
def benchRow (va : Nat) (pte : Byte) : State :=
  let s := benchC [] fun c => { c with rows := [(3, { IRow.free with state := 1, va := va, kernel := 9 })], image := { c.image with kernel := 9 } }
  { s with mem := { s.mem with base := [(0x10000, 1), (0x10002, 2), (0x20000, pte)] } }

/-- MemoryAndFaultEvents: writes that may and may not go on, page faults due and not, rows that fill well and badly. -/
theorem meets_MemoryAndFaultEvents :
    (let m : MemSys := { MemSys.init with pend := [oneWrite], log := [(0, { oneWrite with dies := [0] })], nextId := 1 }
     (m.log.map Prod.fst).Pairwise (· < ·) ∧ (∀ p ∈ m.log, p.1 < m.nextId) ∧ m.maySerialise 0 = true ∧ m.maySerialise 1 = false ∧ m.mayApply 1 0 = true ∧ m.mayApply 0 0 = false)
    ∧ (let s := { benchC [] with tb := 13500000, pf := { Pf.init with faults := [(1, ⟨.stream 0, 0, 0, 0, 0, false⟩), (2, ⟨.stream 0, 0, 0, 0, 1, false⟩),
         (3, ⟨.stream 0, 0, 0, 0, 0, true⟩)] } }
       0 + s.tpf 0 * 2700 ≤ s.tb ∧ ¬1 + s.tpf 0 * 2700 ≤ s.tb ∧ s.pf.faults.lookup 4 = none ∧ (s.pf.faults.lookup 3).any PageFault.failed = true)
    ∧ (let s := (benchRow 0x80000 7).updCore 0 fun c => c.leaseRows 0
       (SMap.get .free (s.core 0).rows 3).state = 1 ∧ (SMap.get .free (s.core 0).rows 4).state ≠ 1
        ∧ got (s.readVa (.stream 0) 0 0x80000 512 .fetch) (fun _ => true) = true
        ∧ stops (((benchRow 0x80000 0).updCore 0 fun c => c.leaseRows 0).readVa (.stream 0) 0 0x100000000000000 512 .fetch) 0x20 = true) := by
  decide

/-- VF 0's queue 2 of 16 records, with one record, at 0x73000: a graph of one node whose descriptor stands at 0x72000. -/
def benchL (bad : Bool) : State :=
  let s := more (descs ++ [(0x73001, 0x20), (0x73002, 7), (0x73008, 1), (0x7300A, if bad then 16 else 3)]) ((benchC []).updVf 0 fun v =>
    { v with cfg := (0x2000, 1) :: v.cfg, sq := [(2, { SubQ.init with base := 0x73000, cfg := 0x104, tail := 1 })] })
  s

/-- A node of VF 0 that is ready, beside the node that runs on core 0. -/
def readyNode (state : NodeState) : Node := { nodeHere with state := state, cores := [], desc := descWith 0 }
where
  /-- A descriptor of a kernel and a priority. -/
  descWith (p : Byte) : List Byte := [1] ++ List.replicate 15 0 ++ [4, 0, 0, 0, 4, 0, 0, 0, 0, p] ++ List.replicate 230 0

/-- The Hearth with two nodes of VF 0, of which the first may run on core 0. -/
def benchD (a b : Node) (parts : Dword) (core : Core → Core := id) : State :=
  let s := (benchH []).updCore 0 fun c => core { c with c := { c.c with run := false } }
  { s.updVf 0 fun v => { v with cfg := (0x2000, parts) :: (0x1A000, 4) :: v.cfg } with
    hearth := { s.hearth with nodes := [(0x10000, a), (0x10001, b)], graphs := [(1, ⟨0, 0, 2, 2, false, false, 0⟩)] } }

/-- LaunchAndDispatch: a queue with a good graph, with a bad record, and empty; a node that fits a free core, ready and
pre-empted, and one that another node's core blocks. -/
theorem meets_LaunchAndDispatch :
    (let s := benchL false
     let k := s.sq 0 2
     (k.cfg.getLsbD 8 = true ∧ k.head ≠ k.tail ∧ k.resetting = false ∧ (s.vf 0).tdisp ≠ .locked ∧ k.gseq < 2 ^ 36)
      ∧ got (s.readGraph 0 0x73000) (fun r => r.2.2.length == 1) = true ∧ (s.sq 0 3).cfg.getLsbD 8 = false)
    ∧ (match (benchL true).readGraph 0 0x73000 with
        | .error (.trap _) => true
        | _ => false) = true
    ∧ ([.ready, .preempted].all fun st =>
        let s := benchD { readyNode st with saved := if st = .preempted then [(0, Core.init)] else [] } (readyNode .waiting) 3
        s.coreFree 0 && (match s.pick with | some p => p.2 == 0x10000 | none => false)
          && ((s.node? 0x10000).any fun n => s.fits 0x10000 n [0])) = true
    ∧ (benchD (readyNode .waiting) (readyNode .waiting) 1).pick.isNone = true := by
  refine ⟨by decide, by decide, by decide, by decide⟩

theorem meets_NodeDispatch_blocked :
    let s := benchD { nodeHere with desc := readyNode.descWith 4 } (readyNode .ready) 1 fun c => { c with node := some 0x10000 }
    s.coreFree 0 = false ∧ s.starved.any (s.blocked [0]) = true := by decide

/-- NodeEvents: a running node that every timer has passed, with a rival; a parked one whose time has come; a window that has
ended and one that has not; a node that hangs. -/
theorem meets_NodeEvents :
    (let n : Node := nodeHere fun n => { n with pendSince := some 0 }
     let s := benchD n (readyNode .ready) 1 fun c => { c with node := some 0x10000, c := { c.c with wait := some (.sem 1, 0) } }
     let s := { s.updCore 0 fun c => { c with frozenAt := some 1 } with tb := 300000 }
     s.node? 0x10000 = some n ∧ n.state = .running ∧ n.cores.Nodup ∧ (∀ c ∈ n.cores, ∀ p ∈ (s.core c).probe, p.2.state ≠ 1)
      ∧ 0 + s.bop (nodeVf 0x10000) * 2700 ≤ s.tb ∧ n.pendSusp = false ∧ (∃ c ∈ n.cores, (s.core c).c.waitedLong s.tb = true)
      ∧ s.rival 0x10000 n = true ∧ (∃ c ∈ n.cores, (s.core c).frozenAt = some 1 ∧ 1 + 64 * 2700 < s.tb) ∧ (∀ c ∈ n.cores, (s.core c).dbg.halted = false)
      ∧ n.overrun = false ∧ s.opStart n + 2 * (s.bop (nodeVf 0x10000) * 2700) < s.tb)
    ∧ (let n : Node := { readyNode .parked with wakes := [(0, 0x8000000000000005)] }
       let s := { benchD n (readyNode .waiting) 1 with tb := 5 }
       s.node? 0x10000 = some n ∧ n.state = .parked ∧ (∀ w ∈ n.wakes, s.wakes w.1 w.2 = true) ∧ s.tb < s.hearth.window + 10000 * 2700)
    ∧ (let s := { (benchD nodeHere (readyNode .waiting) 1 fun c => { c with node := some 0x10000 }) with tb := 27000000 }
       s.hearth.window + 10000 * 2700 ≤ s.tb
        ∧ (∀ c ∈ (nodeHere).cores, (s.core c).advanced + (s.core 0).csr.dhang.toNat * 2700 ≤ s.tb) ∧ (nodeHere).cores ≠ []
        ∧ (∀ c ∈ (nodeHere).cores, (s.core c).csr.dhbase = 0) ∧ descType (nodeHere).desc ≠ 2 ∧ (nodeHere).check = none ∧ (nodeHere).alog = [] ∧ (nodeHere).members = [] ∧ s.hearth.rewinds = [] ∧ s.hearth.retires = []
        ∧ s.owes 0x10000 (nodeHere).cores = false ∧ ∀ p ∈ s.hearth.nodes, p.2.state ≠ .parked) := by
  refine ⟨by decide, by decide, by decide⟩

/-- VF 1's event ring 3 with one record, at an address. -/
def benchRing (base : Dword) (faulted : Bool) (cfg : Dword := 0x100010104) (unsignalled : Nat := 0) (tail : Half := 0) : State :=
  { (benchC []).updVf 1 (fun v => { v with rings := [(3, ⟨base, cfg, 0, tail, [List.replicate 32 0], unsignalled, 0, faulted⟩)] }) with
    tb := 2700 }

/-- EventRings: a ring with room whose record can be written, and cannot; a full one, one that is off, one whose records are
due. -/
theorem meets_EventRings :
    ([true, false].all fun f =>
      let s := benchRing 0x80000 f
      let g := s.ring 1 3
      g.held == [List.replicate 32 0] && g.cfg.getLsbD 8 && (g.tail.toNat + 1) % 16 != 0 && g.faulted == f
        && got (s.storeRecord 1 (g.base.toNat + 32 * g.tail.toNat) (putBytes (List.replicate 32 0) 0 (leBytes 8 s.tb))) (fun _ => true)) = true
    ∧ (let s := benchRing 0x100000000000000 false
       stops (s.storeRecord 1 0x100000000000000 (putBytes (List.replicate 32 0) 0 (leBytes 8 s.tb))) 0x20 = true)
    ∧ (let g := (benchRing 0 false 0x100010104 1 15).ring 1 3
       (g.tail.toNat + 1) % 16 = g.head.toNat % 16 ∧ g.unsignalled ≠ 0 ∧ g.cfg.toNat / 2 ^ 32 % 2 ^ 16 ≠ 0
        ∧ g.oldest + g.cfg.toNat / 2 ^ 32 % 2 ^ 16 * 2700 ≤ (benchRing 0 false).tb ∧ max 1 (g.cfg.toNat / 2 ^ 16 % 2 ^ 8) ≤ g.unsignalled + 1)
    ∧ ((benchRing 0 false 4).ring 1 3).cfg.getLsbD 8 = false
    ∧ (let g := (benchRing 0 false 0x100050104).ring 1 3
       g.unsignalled + 1 < max 1 (g.cfg.toNat / 2 ^ 16 % 2 ^ 8)) := by
  refine ⟨by decide, by decide, by decide, by decide, by decide⟩

/-- A fill of tile 0 of handle `h` into slot 2 of core 0, or of die 0, under ticket 9. -/
def benchFill (h : Dword) (core : Option Nat) : State :=
  let e : PEntry := { PEntry.init with state := 1, handle := h, ticket := 9 }
  let s := { benchH [] fun c => { c with probe := [(2, e)] } with hearth := Hearth.init }
  s.updDie 0 fun d => { d with tickets := [(9, .probe core 2)], probe := [(2, e)] }

/-- UnitEvents: fills that end well and badly. -/
theorem meets_fills :
    ([some 0, none].all fun core =>
      let s := benchFill 0 core
      let t : PTable := match core with | some c => .region c | none => .die 0
      (s.die 0).tickets.lookup 9 == some (.probe core 2) && (s.pentry t 2).state == 1 && (s.pentry t 2).ticket == 9 && t.home == 0
        && (core.isSome || !s.fillCounted (s.pentry t 2)) && s.hearth.nodes.all (fun p => p.2.state != .parked)) = true
    ∧ (let s := benchFill 0x2000000000000000 (some 0)
       (match s.fillBytes 0 0 0x2000000000000000 0 false with
        | .error (.trap x) => !((s.applySides x.sides).dropReads (fillAgent 0 0)).pinvWaits (.region 0) 2
        | _ => false) = true) := by
  refine ⟨by decide, by decide⟩

theorem meets_fillBytes :
    let s := benchFill 0 (some 0)
    got (s.fillBytes 0 0 0 0 true) (fun _ => true) = true ∧ got (s.fillBytes 0 0 0 0 false) (fun _ => true) = true
    ∧ (let t := (benchFill 0x4000000 none).updVf 0 fun v => { v with fillUsed := 100000 }
       t.fillRoom 0 = false)
    ∧ (benchA 2 []).fillCounted { PEntry.init with index := 4, handle := 0x4000000 } = true := by
  decide +kernel

/-- UnitEvents: a load whose pages are copied, one whose quota is used up, one whose image cannot be read, none. -/
theorem meets_adapterLoads :
    (let ends (copied used : Nat) (back : Dword) (p : State × LoadEnd → Bool) : Bool :=
       let s := (benchA 1 [] id fun e => { e with copied := copied, back := back }).updVf 0 fun v => { v with fillUsed := used, cfg := (0x9000, 0x40000) :: (0xA000, 8) :: v.cfg }
       got (s.loadPlan 0 3) (fun c => p (c.1.loadPages 0 3 (s.adapter 0 3).back.toNat copied (c.2.drop copied)))
     (ends 2 0 0 (fun r => r.2 == .whole) && ends 0 100000 0 (fun r => r.2 == .quota)
       && ends 0 0 0 (fun r => match r.2 with | .stopped (.trap _) => true | _ => false)) = true)
    ∧ ((benchA 2 []).adapter 0 3).state ≠ 1
    ∧ (0 / (1000 * 2700) < 2700000 / (1000 * 2700) ∧ 2699999 / (1000 * 2700) ≤ 0 / (1000 * 2700)) := by decide +kernel

/-- UnitEvents: lines with each kind of error; a frame of weights without an image; messages to a VF, to none, and to a landing
that does not exist. -/
theorem meets_UnitEvents :
    (let m : MemSys :=
       { MemSys.init with latent := [(5, ⟨4, 0⟩), (6, ⟨0x30, 0⟩), (8, ⟨0, 1⟩), (9, ⟨0, 0⟩), (8192, ⟨4, 0⟩)]
                          corrected := [(0, 0xFFFFFFFFFFFFFFFF)], grade := [(1, 2)] }
     m.fate 5 = .corrected ∧ bitsSet (4 : BitVec 512) = [2] ∧ m.fate 8192 = .lost ∧ m.fate 7 = .clean ∧ m.fate 9 = .clean
      ∧ (SMap.get LineErr.none m.latent 5).copy = 0 ∧ (SMap.get LineErr.none m.latent 8).copy ≠ 0
      ∧ SMap.get (0 : Dword) m.corrected 0 = 0xFFFFFFFFFFFFFFFF ∧ SMap.get (0 : Dword) m.corrected 1 = 0)
    ∧ (let s := { benchC [] with sec := { Sec.init with weightFrames := [(3, 9)] }
                                 pf := { Pf.init with exportTo := [(256, (1, 0))] } }
       let m := { requestMsg 4 6 0 false false false 0 0 1 with first := false, srcMod := 0 }
       s.sec.weightFrames.lookup 3 = some 9 ∧ s.sec.weightFrames.lookup 4 = none ∧ 9 < 2 ^ 21
        ∧ s.mem.poison = [] ∧ (s.port 2).down = false ∧ m.first = false
        ∧ m.seq = (s.port 2).rxSeq ∧ (s.exported m).1 = 0 ∧ (s.exported { m with srcMod := 1 }).1 ≠ 0
        ∧ (s.landEntry 1 (m.body.extractLsb' 0 16).toNat).2 = none) := by decide

/-! #### The host, the PF, security -/

/-- VF 1 with queue 2 of 16 slots, ring 3, and a graph of one node on core 0. -/
def benchHost (k : SubQ) (f : Vf → Vf := id) : State :=
  let g : Nat := 18 * 2 ^ 36
  let s := (benchC [] fun c => { c with c := { c.c with run := false } }).updVf 1 fun v => f { v with sq := [(2, k)] }
  { s with hearth := { s.hearth with nodes := [(g * 65536, nodeHere)], graphs := [(g, ⟨0, 0, 1, 1, false, false, 0⟩)] } }

/-- HostRegisters: a queue that is on, off and in reset; its one graph, begun and not; heads in range and not. -/
theorem meets_HostQueues :
    (let k : SubQ := { SubQ.init with cfg := 0x104 }
     let s := benchHost k
     (k.cfg.getLsbD 8 = true ∧ k.resetting = false ∧ (15 : Dword).toNat % 2 ^ 16 < 2 ^ (k.cfg.toNat % 32)
       ∧ 2 ^ (k.cfg.toNat % 32) ≤ (16 : Dword).toNat % 2 ^ 16) ∧ s.sq 1 2 = k ∧ SubQ.init.cfg.getLsbD 8 = false
      ∧ s.graphsOf 1 3 = [] ∧ s.graphsOf 1 2 = [18 * 2 ^ 36] ∧ s.hearth.rewinds = [] ∧ s.hearth.retires = []
      ∧ (∀ p ∈ s.hearth.nodes, p.2.state ≠ .parked) ∧ s.queueWritten 1 3 = true
      ∧ (benchHost k fun v => { v with rings := [(3, { Ring.init with held := [record 0x120000000000000 1 0 0 0 0] })] }).queueWritten 1 2 = false
      ∧ (nodeHere).isEnding = false ∧ s.owes (BitVec.ofNat 64 (18 * 2 ^ 36 * 65536)) (nodeHere).cores = false
      ∧ s.refuses ⟨1, 0, true⟩ = false ∧ s.refuses ⟨1, 0, false⟩ = false
      ∧ (∀ p ∈ (s.vf 1).sq, p.2.resetting = false) ∧ s.nodesOf (18 * 2 ^ 36) = [(18 * 2 ^ 36 * 65536, nodeHere)]
      ∧ (nodeHere).begun = true ∧ (readyNode .ready).begun = false ∧ (nodeHere).state.isEnded = false)
    ∧ (let g : Ring := { Ring.init with cfg := 0x104, head := 2, tail := 5 }
       let far (x : Nat) : Nat := (x + 2 ^ (g.cfg.toNat % 32) - g.head.toNat % 16) % 16
       far 5 ≤ far g.tail.toNat ∧ ¬far 6 ≤ far g.tail.toNat ∧ g.faulted = false) := by decide

/-- A load of the host from a page of a peer's memory, which waits for the peer. -/
def waitsPeer : Bool :=
  let s := benchC []
  match ({ s with
      mem := { s.mem with base := [(0x10000, 1), (0x10002, 2), (0x20000, 0x17), (0x20005, 0x10), (0x20006, 8)] }
      pf := { s.pf with route := [(1, 4)] }
      peers := [⟨.host 1 0, 2, 7, 2 ^ 51 + 2 ^ 44 + 0x80000, 8, false, false, (0, 0, 0), none, none, none⟩] } : State).readVa
    (.host 1 0) 1 0x80000 8 .ld true with
  | .error (.wait .peer _) => true
  | _ => false

/-- HostRegisters: wakes of KIND 1 and others; adapters that the commands name, in each state; accesses of BAR2. -/
theorem meets_HostCommands :
    (let l : List (Nat × Dword) := [(0, 0x4000000000000001), (0, 0x8000000000000005)]
     (l.filter fun w => w.2.toNat / 2 ^ 62 != 1) = [(0, 0x8000000000000005)] ∧ State.reset.wakes 0 0x8000000000000005 = false)
    ∧ ([0, 1, 2, 3].all fun st =>
        let s := (benchA st []).updVf 0 fun v => { v with cfg := (0x13000, 4) :: v.cfg }
        let e := s.adapter 0 3
        e.state == st && decide (3 < s.cfg 0 0x13) && (0x20003 : Word).extractLsb' 16 16 == e.gen && e.back == 0 && e.ver != 0
          && s.hearth.retires == [] && (s.retire 0 3 1 false).hearth.retires == []) = true
    ∧ (((benchA 2 [] id fun e => { e with back := 0x40 }).adapter 0 3).back ≠ 0
      ∧ ((benchA 2 []).vf 0).adstat.getLsbD 63 = false ∧ (0x8000000000000000 : Dword).getLsbD 63 = true)
    ∧ (let s := benchC []
       got (s.readVa (.host 1 0) 1 0x80000 8 .ld true) (fun _ => true) = true
        ∧ stops (s.readVa (.host 1 0) 1 0x100000000000000 8 .ld true) 0x20 = true
        ∧ got (s.hostStore ⟨1, 0, false⟩ 0x80000 [1, 2]) (fun _ => true) = true
        ∧ stops (s.hostStore ⟨1, 0, false⟩ 0x100000000000000 [1, 2]) 0x20 = true ∧ s.refuses ⟨1, 0, false⟩ = false
        ∧ (s.updVf 1 fun v => { v with tdisp := .run }).refuses ⟨1, 0, false⟩ = true ∧ waitsPeer = true
        ∧ (s.vf 1).present = true ∧ 6 ≤ 8 ∧ (parseCmd (Memory.read [(0, 4)] 0 64)).opcode = 4) := by
  refine ⟨by decide, by decide +kernel, by decide, by decide⟩

/-- PfCommands: the stage and VFs that CREATE, TEARDOWN and the fields look at; values in and out of range, a clash and none. -/
theorem meets_PfCommands :
    (     let s := { benchC [] with sec := { Sec.init with stage := 8, root := some 1 } }
     s.sec.root.isSome = true ∧ State.reset.sec.root = none ∧ (s.vf 1).present = true ∧ (s.vf 2).present = false ∧ fieldWidth 0x22 = 0 ∧ fieldWidth 5 = 8
      ∧ 0 < fieldCount 5 ∧ fieldCount 5 ≤ 1 ∧ fieldLocked 9 = true ∧ fieldLocked 5 = false ∧ 2 ^ fieldWidth 5 ≤ 256 ∧ 255 < 2 ^ fieldWidth 5
      ∧ s.fieldRange 1 9 0 64 = true ∧ s.fieldRange 1 9 0 65 = false ∧ s.fieldClash 1 5 0 255 = false)
    ∧ (let s := (benchC []).updVf 2 fun v => { v with present := true, cfg := [(0x3000, 1)] }
       s.fieldClash 1 2 0 1 = true ∧ s.fieldClash 1 2 0 2 = false)
    ∧ (let s := { benchC [] with vfs := [] }
       (∃ d, regionOf 0x80000 = .hbm d ∧ s.homed d = true) ∧ s.mapped (0x80000 / 2 ^ 19) = false ∧ 0x80000 % 2 ^ 19 = 0 ∧ 0x80001 % 2 ^ 19 ≠ 0
        ∧ s.dieBusy 31 = false ∧ (∀ p ∈ (s.die 31).probe, p.2.pins = 0)
        ∧ ∀ i, i < 64 → (1 : Nat).testBit i = true → s.quartetExclusive (64 * 7 + i) = false) := by
  refine ⟨by decide, by decide, ⟨⟨0, by decide, by decide⟩, by decide, by decide, by decide, by decide, by decide, by decide⟩⟩

/-- Suspensions: a VF with a migration, and one without; a quiet VF and a late one; a shootdown that runs and one that is done. -/
theorem meets_Suspensions :
    (let g : Migration := ⟨3, 10, some 0, false, [], [], some 5, 0, 0, []⟩
     let s := { (benchHost SubQ.init fun v => { v with migr := some g, susp := 2 }) with tb := 27000000 }
     (s.vf 1).migr = some g ∧ (s.updVf 1 fun v => { v with migr := some { g with key := none } }).exportRest 1 = none ∧ (s.vf 1).susp = 2 ∧ g.since.isSome = true ∧ g.settled = false ∧ s.quiet 1 = false
      ∧ ({ s with hearth := Hearth.init } : State).quiet 1 = true ∧ 0 + g.deadlineMs * (1000 * 2700) ≤ s.tb ∧ (s.vf 0).migr = none
      ∧ (s.vf 1).present = true ∧ (63 : Dword).toNat < 64 ∧ (1000 : Dword).toNat ≤ 1000)
    ∧ (let s := { benchC [] with pf := { Pf.init with sdBusy := true, sdReq := 0x0100000000080000, sdLen := 64, sdRange := (1, 0x80000, 0x80040) } }
       s.pf.sdBusy = true ∧ s.allPerformed s.pf.sdRange.1 = true ∧ (∀ p ∈ s.cores, p.2.l1 = [])
        ∧ ({ s with mem := { s.mem with pend := [{ oneWrite with vf := 1 }] } } : State).allPerformed s.pf.sdRange.1 = false
        ∧ (0x80000 < s.pf.sdReq.toNat % 2 ^ 56 + s.pf.sdLen.toNat ∧ s.pf.sdReq.toNat % 2 ^ 56 < 0x80000 + 64)) := by
  decide

/-- A port is the only one to a module. -/
theorem peerPort_one (s : State) (a m p : Nat) (h : s.routes m = [p]) : s.peerPort a m = some p := by
  simp [State.peerPort, h, Nat.mod_one]

/-- A VF without pages and blocks, on its way to module 3, to which port 2 leads. -/
def leaving : State :=
  let s := (benchC []).updVf 1 fun v => { v with migr := some ⟨3, 10, some 0, false, [], [], some 5, 0, 0, []⟩, susp := 2 }
  { s with pf := { s.pf with route := [(3, 4)] } }

/-- Suspensions: what remains of a VF goes out. -/
theorem meets_exportRest : (leaving.exportRest 1).isSome = true := by
  have h : leaving.exportRest 1 = ((leaving.readDirty 1).updVf 1 fun f => { f with migr := f.migr.map fun g => { g with round := [] } }).sendItem 1
      .image (imageBytes (State.imageOfVf ((leaving.readDirty 1).updVf 1 fun f =>
        { f with migr := f.migr.map fun g => { g with round := [] } }) 1)) := rfl
  rw [h]
  generalize hs : (leaving.readDirty 1).updVf 1 (fun f => { f with migr := f.migr.map fun g => { g with round := [] } }) = s
  have hm : (s.vf 1).migr = some ⟨3, 10, some 0, false, [], [], some 5, 0, 0, []⟩ := by rw [← hs]; rfl
  have hr : s.routes 3 = [2] := by rw [← hs]; rfl
  simp [State.sendItem, hm, peerPort_one s _ 3 2 hr]

/-- A key-load message of VF 1's session with the tag that its sender computes. -/
def keyMsg (x : Session) : KeyMsg :=
  let m : KeyMsg := ⟨1, 0xA7, 1, 1, 63, 9, 5, 0⟩
  { m with tag := Config.gcmTag (Config.hkdf x.secret keyLabel) m.nonce (keyAad m) (keyText m) }

/-- KeysAndSessions: a message with a good tag, in its session, for a running VF and a fresh nonce; and one of each wrong. -/
theorem meets_KeysAndSessions :
    let x : Session := ⟨true, 3, true, some 8⟩
    let s := { (benchC []).updVf 1 (fun v => { v with tdisp := .run }) with sec := { Sec.init with stage := 8, sessions := [(1, x)] } }
    let m := keyMsg x
    s.sec.sessions.lookup 1 = some x ∧ x.finished = true ∧ m.proto = 0xA7
      ∧ Config.gcmTag (Config.hkdf x.secret keyLabel) m.nonce (keyAad m) (keyText m) = m.tag
      ∧ (x.tenant = true ∧ m.vf.toNat = m.session) ∧ (s.vf m.session).tdisp = .run ∧ (m.slot.toNat < 64 ∧ m.op = 1)
      ∧ (∀ n, x.lastNonce = some n → n.toNat < m.nonce.toNat) ∧ ¬(64 : Nat) < 64 ∧ (s.vf 0).tdisp ≠ .run
      ∧ (¬∀ n, (some 9 : Option (BitVec 96)) = some n → n.toNat < m.nonce.toNat) ∧ s.sec.sessions.lookup 2 = none ∧ s.sec.stage = 8 := by
  refine ⟨rfl, rfl, rfl, rfl, ⟨rfl, rfl⟩, rfl, ⟨by decide, rfl⟩, ?_, by decide, by decide, ?_, rfl, rfl⟩
  · intro n h; cases h; decide
  · intro h; exact absurd (h 9 rfl) (by decide)

/-- The tag of a message is a value that its receiver may miss: no tag is right for a key and a text but one. -/
theorem meets_KeyMsg_bad (x : Session) : let m := { keyMsg x with tag := (keyMsg x).tag + 1 }
    Config.gcmTag (Config.hkdf x.secret keyLabel) m.nonce (keyAad m) (keyText m) ≠ m.tag := by
  intro m
  show (keyMsg x).tag ≠ (keyMsg x).tag + 1
  generalize (keyMsg x).tag = t
  bv_omega

/-- Interfaces: a VF in each state, with no node begun and with one; a frame of its own. -/
theorem meets_Interfaces :
    ([.unlocked, .locked, .run, .error].all fun st =>
      let s := { (benchHost SubQ.init fun v => { v with tdisp := st }) with hearth := Hearth.init }
      (s.vf 1).tdisp == st && (s.vf 1).present && s.hearth.nodes.all (fun p => !p.2.begun)) = true
    ∧ (nodeHere).begun = true ∧ State.reset.vfs.lookup 3 = none ∧ (1 : Nat) < 2 ∧ ¬(2 : Nat) < 2
    ∧ (let s := { benchC [] with sec := { Sec.init with stage := 8, sessions := [(1, ⟨true, 3, true, none⟩)] } }
       s.sec.stage = 8 ∧ (s.vf 1).present = true ∧ (∃ p ∈ s.sec.sessions, p.2.finished = true) ∧ State.reset.sec.stage ≠ 8) := by decide

/-- BootAndModel: fuses that no image of an older version satisfies, and a slot that agrees with the key in the fuses; frames
that agree with their leaves, and one that does not; entries of the base model's shape and of another. Whether a signature is
right is a free value of Config, so that no slot is shown to be good. -/
theorem meets_BootAndModel :
    (let f : FlashSlot := { FlashSlot.empty with svn := 3 }
     let k := { Sec.init with fuseSvn := 4 }
     k.stage = 0 ∧ ¬k.fuseSvn ≤ f.svn ∧ Config.sha512 (wordBytes f.pubKey) = ({ k with fuseHash := Config.sha512 (wordBytes f.pubKey) } : Sec).fuseHash)
    ∧ (let h := Config.sha512 (State.reset.mem.readAt none none 0 (2 ^ 19))
       ({ Sec.init with leaves := [(0, h)], hashNodes := [(nodeAt 1 0, hashOf [h])] } : Sec).nodesOk 16 0 [h] = true)
    ∧ (let k := { Sec.init with leaves := [(0, Config.sha512 (State.reset.mem.readAt none none 0 (2 ^ 19)))], weightFrames := [(0, 0)] }
       ∀ p ∈ k.leaves, ∃ frame, k.weightFrames.lookup p.1 = some frame
          ∧ Config.sha512 (State.reset.mem.readAt none none (frame * 2 ^ 19) (2 ^ 19)) = p.2)
    ∧ (let s := { benchA 2 [] with hearth := Hearth.init }
       let s := { s with vfs := s.vfs.take 1 }
       (∀ p ∈ s.hearth.nodes, p.2.state ≠ .running) ∧ (∃ f, s.vfs = [(0, f)] ∧ f.adapters = [(3, benchEntry 2)])
        ∧ (benchEntry 2).ver ≠ 0 ∧ (benchEntry 2).compat ≠ 7 ∧ (∀ r ∈ (s.retire 0 3 2 false).hearth.retires, r.cause ≠ 2)
        ∧ s.sec.nextBase = none ∧ (∀ r ∈ s.hearth.retires, r.cause ≠ 2)
        ∧ (∃ r ∈ ((s.updAdapter 0 3 fun e => { e with vrec := 0x80000000, hands := [none, none] }).retire 0 3 2 false).hearth.retires,
            r.cause = 2)
        ∧ ∃ r ∈ ({ s with hearth := { s.hearth with retires := [⟨0, 3, 2, 0, [], [], [], false⟩] } } : State).hearth.retires, r.cause = 2)
    ∧ ¬∀ p ∈ (benchA 2 []).hearth.nodes, p.2.state ≠ .running := by
  refine ⟨⟨rfl, by decide, rfl⟩, by simp [Sec.nodesOk, Sec.stored, hashLevel], ?_, ⟨by decide, ⟨_, rfl, rfl⟩, by decide, by decide, by decide +kernel,
    rfl, by decide, by decide +kernel, by decide⟩, by decide⟩
  intro k p hp
  cases List.mem_singleton.mp hp
  exact ⟨0, rfl, rfl⟩

/-! #### Debug, power, links, the memory's form -/

/-- Debugging: an open core with a node, a locked one, a halted one whose contexts hold, and one whose context breaks a rule. -/
theorem meets_Debugging :
    (let s := (benchN [] id fun c => { c with dbg := ⟨true, false, [], none, []⟩ })
     s.sec.debugLock = false ∧ (∀ id, (s.core 0).node = some id → (s.vf (nodeVf id)).tdisp = .unlocked) ∧ (s.core 0).dbg.attached = true
      ∧ (s.core 0).dbg.halted = false ∧ (s.core 0).c.run = true ∧ s.nodeCores 0 = [0]
      ∧ (∀ d ∈ s.nodeCores 0, ∀ p ∈ (s.core d).probe, p.2.state ≠ 1))
    ∧ (let s := benchN [] id fun c => { c with dbg := ⟨true, true, [], none, []⟩, csr := { c.csr with lmcfg := 0x18000000000000 } }
       (s.core 0).dbg.halted = true ∧ ∀ d ∈ s.nodeCores 0, s.badOffset d = none)
    ∧ (let s := benchN [] id fun c => { c with dbg := ⟨true, true, [], none, []⟩, sems := [(4, ⟨3, 2⟩)] }
       (s.core 0).dbg.halted = true ∧ (0 : Nat) ∈ s.nodeCores 0 ∧ ∃ n, n < 32 ∧ ((s.core 0).sem n).ceiling.toNat < ((s.core 0).sem n).count.toNat)
    ∧ ¬({ Sec.init with debugLock := true } : Sec).debugLock = false := by
  refine ⟨⟨by decide, ?_, by decide, by decide, by decide, by decide, by decide⟩, by decide, by decide, by decide⟩
  intro id h
  cases Option.some.inj (h : some (0x10000 : Dword) = some id)
  decide

/-- PowerAndCooling: a level that changes, one that does not and one that is reserved; a die with a node that runs, and without
one; ports up and down. -/
theorem meets_PowerAndCooling :
    (let s := { benchD nodeHere (readyNode .waiting) 1 (fun c => { c with node := some 0x10000 }) with
       hearth := { Hearth.init with nodes := [(0x10000, nodeHere)] } }
     (s.die 0).throttle = 0 ∧ (s.die 0).throttle ≠ 8 ∧ 8 < 9 ∧ s.nodesOn 1 = [] ∧ s.nodesOn 0 = [0x10000]
      ∧ s.node? 0x10000 = some nodeHere ∧ (nodeHere).state = .running ∧ descType (nodeHere).desc ≠ 2 ∧ (nodeHere).check = none ∧ (nodeHere).alog = [] ∧ (nodeHere).members = [] ∧ s.hearth.rewinds = [] ∧ s.hearth.retires = []
      ∧ s.owes 0x10000 (nodeHere).cores = false ∧ (∀ p ∈ s.cores, dieOf p.1 = 0 → p.2.c.mode ≠ .device)
      ∧ ∀ p ∈ s.hearth.nodes, p.2.state ≠ .parked)
    ∧ (let s := benchN [] id fun c => { c with c := { c.c with mode := .device } }
       (s.cores.filter fun p => dieOf p.1 == 0 && p.2.node.isSome) = [(0, s.core 0)] ∧ (s.core 0).node = some 0x10000
        ∧ (s.core 0).c.mode = .device)
    ∧ (∀ p ∈ (benchC []).cores, p.2.node = none) ∧ SMap.get false State.reset.mem.cxlDown 3 = false
    ∧ SMap.get false ([(3, true)] : SMap Bool) 3 = true := by decide

/-- A flit of a kind with its CRC. -/
def flit (kind : BitVec 4) (seq ack : BitVec 12) (av : Bool) : Flit := sealFlit ⟨seq, kind, ack, av, 0x42, 0, 0⟩

theorem sealed_good (f : Flit) : crc64 (flitBytes (sealFlit f)) = (sealFlit f).crc := rfl

/-- Flits: good flits of each kind and bad ones; ports that are down, that wait for a replay, and that have failed seven times;
an ACK of a flit that the buffer holds. -/
theorem meets_Flits :
    (crc64 (flitBytes (flit 1 5 2 true)) = (flit 1 5 2 true).crc ∧ crc64 (flitBytes (flit 2 4 2 true)) = (flit 2 4 2 true).crc
      ∧ crc64 (flitBytes (flit 0 4 2 false)) = (flit 0 4 2 false).crc ∧ (flit 1 5 2 true).kind.toNat < 4 ∧ ¬(flit 4 5 2 true).kind.toNat < 4)
    ∧ (let p : Port := { Port.init with rxSeq := 4, retry := [flit 1 1 0 true, flit 1 2 0 true, flit 1 3 0 true] }
       (flit 1 5 2 true).seq = p.rxSeq + 1 ∧ (flit 0 4 2 false).seq = p.rxSeq ∧ p.down = false ∧ p.awaiting = false
        ∧ p.retry = [flit 1 1 0 true] ++ flit 1 2 0 true :: [flit 1 3 0 true] ∧ (flit 1 2 0 true).seq = (flit 2 4 2 true).ack
        ∧ (∀ h ∈ [flit 1 1 0 true], h.seq ≠ (flit 2 4 2 true).ack) ∧ ∀ g ∈ p.retry, g.seq ≠ (flit 1 5 9 true).ack)
    ∧ (let p : Port := { Port.init with rxSeq := 4, awaiting := true, fails := 7 }
       p.awaiting = true ∧ 8 ≤ p.fails + 1 ∧ ({ p with fails := 6 } : Port).fails + 1 < 8 ∧ (flit 1 5 2 true).seq = p.rxSeq + 1
        ∧ (flit 1 6 2 true).seq ≠ p.rxSeq + 1) := by
  refine ⟨⟨sealed_good _, sealed_good _, sealed_good _, by decide, by decide⟩, ⟨rfl, rfl, rfl, rfl, rfl, rfl, ?_, ?_⟩, by decide, by decide, by decide, rfl, by decide⟩
  · intro h m; cases List.mem_singleton.mp m; decide
  · intro g m
    simp only [List.mem_cons, List.not_mem_nil, or_false] at m
    rcases m with rfl | rfl | rfl <;> decide

/-- A message of module 1 for VF 1, of 8 bytes, at an offset. -/
def message (o : Dword) (first : Bool) : LinkMsg :=
  { requestMsg 0 3 1 false false true 0 0 5 with addr := o, first := first, seq := if first then 1 else 0, srcMod := 1, tag := 7 }

/-- LinkMessages: messages in order and not; a VF that exports its memory and one that does not; accesses that reach it and that
do not; a request that waits for its answer. -/
theorem meets_LinkMessages :
    (let s := { benchC [] with pf := { Pf.init with exportTo := [(257, (1, 0x80000))] }
                               ports := [(2, { Port.init with sent := [(7, (.stream 0, 0))] })]
                               hearth := Hearth.init }
     let m := message 8 true
     (s.port 2).down = false ∧ m.seq = (s.port 2).rxSeq + 1 ∧ (message 8 false).seq = (s.port 2).rxSeq
      ∧ (SMap.get (0, 0) s.pf.exportTo (256 * m.srcMod.toNat + m.vf.toNat)).1 = 1 ∧ (SMap.get (0, 0) s.pf.exportTo 258).1 = 0
      ∧ (s.port 2).sent.lookup m.tag.toNat = some (.stream 0, 0) ∧ (s.port 2).sent.lookup 8 = none
      ∧ got (s.readVa (.peer 1) 1 0x80008 8 .read true) (fun _ => true) = true
      ∧ stops (s.readVa (.peer 1) 1 0x100000000000000 8 .read true) 0x20 = true
      ∧ got (s.peerStore m 1 0x80008) (fun _ => true) = true ∧ stops (s.peerStore m 1 0x100000000000000) 0x20 = true
      ∧ got (checkSpace 0x80008 8 .write) (fun _ => true) = true ∧ m.poison = false
      ∧ got (s.translate (.peer 1) 1 0x80008 .write true) (fun r => decide (r.2.pa % 64 + 8 ≤ 64)
          && SMap.get 0 r.1.mem.poison (r.2.pa / 64) == 0 && r.1.mem.frameKey == [] && r.1.mem.latent == []
          && decide (regionOf r.2.pa = .hbm 0)) = true
      ∧ (∀ q ∈ s.hearth.nodes, q.2.isEnding = false)
      ∧ got (checkSpace 0x80008 (amoOfMsg m 0x80008).size .amo) (fun _ => true) = true ∧ 0x80008 % (amoOfMsg m 0x80008).size = 0
      ∧ 0x80009 % (amoOfMsg m 0x80009).size ≠ 0
      ∧ got (s.translate (.peer 1) 1 0x80008 .amo true) (fun r => got (r.1.amoHome (.peer 1) 1 r.2 (amoOfMsg m 0x80008) 0) (fun _ => true)) = true)
    ∧ (message 8 false).seq ≠ ({ Port.init with rxSeq := 3 } : Port).rxSeq ∧ ({ Port.init with down := true } : Port).down = true := by
  decide

/-- LinkMessages: a MIGRATE in order, a piece and a tag that matches; and one that does not follow. -/
theorem meets_Migrate :
    (let s := benchC []
     (s.vf (message 0 true).vf.toNat).present = true ∧ (message 0 true).addr.toNat = (s.importOf 1 (message 0 true).vf.toNat 0).2.off
      ∧ (message 8 true).addr.toNat ≠ (s.importOf 1 (message 8 true).vf.toNat 8).2.off ∧ (message 0 true).flag3 = true)
    ∧ ∀ g : Import, let m := { message 0 true with flag3 := true, body := (Config.gcmTag64 g.key 0 g.text).setWidth 512 ++ (0 : BitVec 128) }
      m.body.extractLsb' 0 64 = (0 : Dword) ∧ Config.gcmTag64 g.key 0 g.text = (m.body.extractLsb' 128 512).setWidth 128 := by
  refine ⟨by decide, fun g => ?_⟩
  dsimp only
  generalize Config.gcmTag64 g.key 0 g.text = t
  constructor
  · apply BitVec.eq_of_getLsbD_eq
    intro i hi
    simp only [BitVec.getLsbD_extractLsb', BitVec.getLsbD_append]
    simp [show i < 128 by omega]
  · apply BitVec.eq_of_getLsbD_eq
    intro i hi
    simp only [BitVec.getLsbD_extractLsb', BitVec.getLsbD_append, BitVec.getLsbD_setWidth]
    simp [hi, show i < 512 by omega]

/-! #### Further witnesses: faults of groups, loops, caches, blocks, adapters, nodes, lines, registers, contexts and flits -/

/-- A core that fetches a group of two words. -/
def group2 (p q : Instr) : State :=
  let word (i : Instr) : Word := ((encode i).map fun e => e.word.toWord).getD 0
  { State.reset.updCore 0 fun c => c.holding false [word p, word q] with agenda := [], turn := .stream false, cur := 0 }

/-- A group of `p` and `q` stands at 0, and the condition of its order is `back`; `p` and `q` answer alone as `m` and `n` say, and
the second of their order after the first as `k` says. -/
def meetsGroup (p q : Instr) (back m n k : Bool) : Bool :=
  let s := group2 p q
  let c := s.core s.cur
  let here := s.onStream s.cur false
  let ends (i : Instr) (a : Dword) (b : State) (y : Bool) : Bool :=
    match exec i (b.atInstr 0 a) with
    | .next t => (t.issue == .retired) == y
    | _ => false
  let after (i j : Instr) (a b : Dword) : Bool :=
    match exec i (here.atInstr 0 a) with
    | .next t => ends j b t k
    | _ => false
  s.errors.isEmpty && s.agenda.isEmpty && s.turn == .stream false && c.mayIssue false && !c.dbg.halted && c.c.sib.isNone
    && c.pendingFaults.isEmpty && c.c.gpc == 0
    && (match c.group false with
      | .words ws stop => decide (decodeGroup false 0 ws = .ok [(p, 0), (q, 4)]) && (c.c.insideEnd stop).isNone
      | _ => false)
    && (groupFault false c.vec.vtype c.vec.vcidx [(p, 0), (q, 4)]).isNone && got (here.here.groupQueues false [(p, 0), (q, 4)]) (fun _ => true)
    && ((isCsr q && !isCsr p || (clsOf p == .e && clsOf q != .e)) == back)
    && ends p 0 here m && ends q 4 here n && (if back then after q p 4 0 else after p q 0 4)

/-- StepRunsDecoded: groups that retire, in either order; whose first, whose second, whose CSR instruction does not. -/
theorem meets_groups :
    meetsGroup (.add ⟨4, 1, 2, false⟩) (.sub ⟨5, 1, 2, true⟩) false true true true = true
    ∧ meetsGroup (.add ⟨4, 1, 2, false⟩) (.csrr ⟨5, 0x004, true⟩) true true true true = true
    ∧ meetsGroup (.ld ⟨7, 1, false, 3, 0, false⟩) (.add ⟨4, 1, 2, true⟩) false false true true = true
    ∧ meetsGroup (.add ⟨4, 1, 2, false⟩) (.ld ⟨7, 1, false, 3, 0, true⟩) false true false false = true
    ∧ meetsGroup (.add ⟨4, 1, 2, false⟩) (.csrr ⟨5, 0x3FF, true⟩) true true false true = true := by
  refine ⟨by decide, by decide, by decide, by decide, by decide⟩

/-- StepRunsDecoded: groups beyond a limit, with a shared register and without, and with a transfer before its end. -/
theorem meets_groupFaults :
    (let s := group2 (.jal ⟨1, false⟩) (.add ⟨4, 1, 2, true⟩)
     groupFault false (s.core s.cur).vec.vtype (s.core s.cur).vec.vcidx [(.jal ⟨1, false⟩, 0), (.add ⟨4, 1, 2, true⟩, 4)]
        = some (.illegalGroup, 0)
      ∧ (match exec (.illegalOpcode .illegalGroup 0) (s.onStream s.cur false) with | .next _ => true | _ => false) = true)
    ∧ aloneOf (.nyield ⟨1, 2, true⟩) = true ∧ clsOf (.ld ⟨1, 2, true, 3, 0, true⟩) = .m ∧ clsOf (.mzero ⟨1, none, true⟩) = .e
    ∧ clsOf (.kand ⟨1, 2, 3, true⟩) = .s
    ∧ clsOf (.vrand ⟨12, 0, 1, 0, true⟩) = .p := by decide

/-- HardwareLoops: a skip that lands on the enclosing body's last word, with count 2 and 1. -/
theorem meets_loop_skip :
    (let s := benchC [] fun c => { c with c := { c.c with loops := ⟨0, 12, 2, 0, 0, 0, 1⟩ } }
     s.self.loops.depth = 1 ∧ s.self.loops.end0 = s.self.pc + (3 : BitVec 14).signExtend 64 * 4 ∧ s.reg 1 = 0 ∧ s.self.loops.cnt0 ≠ 1)
    ∧ (let s := benchC [] fun c => { c with c := { c.c with loops := ⟨0, 12, 1, 0, 0, 0, 1⟩ } }
       s.self.loops.cnt0 = 1 ∧ s.self.loops.end0 = s.self.pc + 12)
    ∧ (0 : BitVec 14).toInt ≤ 0 := by decide

/-- TrapsAndBreaks: brk on a core whose node a debugger may halt. -/
theorem meets_BreakHalts :
    let s := { benchC [] fun c => { c with dbg := ⟨true, false, [], none, []⟩, node := some 0x10000 } with
      hearth := { Hearth.init with nodes := [(0x10000, { Node.fresh [] [] 0 [] 0 with state := .running, cores := [0] })] }}
    s.here.dbg.attached = true ∧ s.debugOpen s.cur = true ∧ s.here.node = some 0x10000
      ∧ ((s.node? 0x10000).map Node.cores) = some [0] ∧ s.cur = 0 := by decide

/-- CsrUpdates: every CSR that its lists name is there in the mode that may write it, and so is ldepth. -/
theorem meets_CsrWrites :
    (let s := benchC [] fun c => { c with c := { c.c with mode := .device } }
     ([0x009, 0x181, 0x2C2, 0x3CA, 0x010, 0x011, 0x012, 0x013, 0x240, 0x241, 0x242, 0x340, 0x380, 0x3CB, 0x008, 0x289,
        0x020, 0x021, 0x022, 0x023, 0x024, 0x025, 0x040, 0x041, 0x042, 0x043, 0x044, 0x045].all fun n => (s.csr? n).isSome) = true
      ∧ ((List.range 10).all fun i => (s.csr? (0x3C0 + i)).isSome) = true ∧ ((List.range 8).all fun i => (s.csr? (0x280 + i)).isSome) = true)
    ∧ (let s := benchX []
       s.curX = true ∧ (([0x100, 0x101, 0x344] ++ (List.range 32).map (0x360 + ·)).all fun n => (s.csr? n).isSome) = true)
    ∧ (let s := benchC [(1, 3), (2, 2)] fun c => { c with c := { c.c with mode := .handler } }
       s.self.mode = .handler ∧ (s.csr? 0x026).isSome = true ∧ (s.reg 1).toNat % 4 = 3 ∧ (s.reg 2).toNat % 4 ≠ 3) := by decide

/-- LoadsFromMemory: an L1 without the line, and with the line in part; a load that a trap refuses, and one that waits. -/
theorem meets_L1_fills :
    (let s := benchC [(1, 0x80000)] padL1
     got (s.translate (.stream s.cur) s.here.vfid 0x80000 .ld) (fun r => r.1.here.cached r.2 && r.2.va == 0x80000
       && l1Find r.1.here.l1 r.1.here.vfid 0x80000 == none && decide (r.1.here.l1.length < r.1.here.l1Lines)
       && plainAt r.1 { r.2 with va := 0x80000 / 64 * 64, pa := r.2.pa / 64 * 64 } 64) = true)
    ∧ (let x : L1Line := ⟨0, 0x80000, 0x80000, List.replicate 64 1, 3, 1, false, false⟩
       let s := benchC [(1, 0x80000)] fun c => { padL1 c with l1 := [x] }
       got (s.translate (.stream s.cur) s.here.vfid 0x80000 .ld) (fun r => r.1.here.cached r.2
         && l1Find r.1.here.l1 r.1.here.vfid 0x80000 == some x && !x.whole && !x.mask.getLsbD (0x80000 % 64 + 7)
         && x.mask.getLsbD (0x80000 % 64 + 1) && x.bytes.length == 64
         && decide (r.1.here.l1.length ≤ r.1.here.l1Lines)
         && plainAt r.1 { r.2 with va := 0x80000 / 64 * 64, pa := r.2.pa / 64 * 64 } 64) = true)
    ∧ (let s := benchC [(1, 0x80000)] fun c => { padL1 c with l1 := [stored] }
       got (s.translate (.stream s.cur) s.here.vfid 0x80000 .st) (fun r => r.1.here.cached r.2
         && l1Find r.1.here.l1 r.1.here.vfid 0x80000 == some stored && stored.bytes.length == 64
         && decide (r.1.here.l1.length ≤ r.1.here.l1Lines)) = true)
    ∧ (let s := benchC [(1, 0x100000000)]
       (match s.translate (.stream s.cur) s.here.vfid 0x100000000 .ld with
        | .error (.wait _ l) => (s.applySides l).cur == s.cur && (s.applySides l).curX == s.curX
        | _ => false) = true)
    ∧ (let s := { benchC [(1, 0x80000)] with mem := { (benchC []).mem with base := [(0x10000, 1), (0x10002, 2), (0x20000, 5)] } }
       (match s.translate (.stream s.cur) s.here.vfid 0x80000 .ld with
        | .error (.trap x) => x.code != 0x71 && x.code != 0x72 && (s.applySides x.sides).cur == s.cur
            && (s.applySides x.sides).curX == s.curX && traps (s.applySides x.sides)
        | _ => false) = true) := by
  refine ⟨by decide, by decide, by decide, by decide, by decide⟩

/-- Core 0 with the KV sequence of handle 1 at a length in some blocks, a quota of blocks, and blocks of the pool in use; its tiles
of 4 KiB, as are those of the empty sequence of handle 2. -/
def benchKv (len nblk : Byte) (quota : Dword) (blocks : SMap BlockInfo) : State :=
  let s := benchH [(1, 0x1000000), (2, 1), (3, 0x2000000), (4, 32), (5, 9)]
  let s := { s with mem := { s.mem with base := s.mem.base.map fun (p : Nat × Byte) =>
    if p.1 = 0x40070 then (p.1, len) else if p.1 = 0x40074 then (p.1, nblk)
    else if p.1 = 0x40054 ∨ p.1 = 0x40094 then (p.1, 32) else if p.1 = 0x4005B ∨ p.1 = 0x4009B then (p.1, 5) else p } }
  (s.updVf 0 fun v => { v with cfg := (0xE000, quota) :: v.cfg }).updDie 0 fun d => { d with blocks := blocks }

/-- After the release, the dereferenced sequence has a property. -/
def kvq (s : State) (p : State → HEntry → Bool) : Bool :=
  got (s.release (.stream s.cur) (s.cur / 64) 3) fun r =>
    got (({ r with mem := r.mem.settle } : State).derefKv (.stream s.cur) false (s.reg 1)) fun q =>
      q.1.cur == s.cur && decide (q.1.self = s.self) && p q.1 q.2

/-- Every block of the pool, in use. -/
def allBlocks (refs : Nat) : SMap BlockInfo := (List.range 16).map fun i => (i, ⟨refs, 0⟩)

/-- The state and the entry of the sequence after the release. -/
def kvAt (s : State) : State × HEntry :=
  match s.release (.stream s.cur) (s.cur / 64) 3 with
  | .ok r =>
    match ({ r with mem := r.mem.settle } : State).derefKv (.stream s.cur) false (s.reg 1) with
    | .ok q => q
    | .error _ => (s, HEntry.ofBytes 0 0 [])
  | .error _ => (s, HEntry.ofBytes 0 0 [])

/-- With one free block there is one block to take. -/
theorem takeBlock_one (s : State) (vf d : Nat) (h : s.freeBlocks vf d = 1) :
    s.takeBlock vf d =
      ({ (s.updDie d fun k => { k with blocks := SMap.set .free k.blocks (s.nthFree vf d 0) ⟨1, vf⟩ }) with free := s.free + 1 },
        d * 2 ^ 27 + s.nthFree vf d 0) := by
  unfold State.takeBlock
  rw [h, Nat.mod_one]

/-- A state whose pool has one free block. -/
def lastBlock (refs : Nat) : State := benchKv 10 1 32 ((List.range 15).map fun i => (i, ⟨refs, 0⟩))

/-- KvInstructions: balloc takes the last free block. -/
theorem meets_balloc_new :
    let q := (kvAt (lastBlock 1)).1
    let e := (kvAt (lastBlock 1)).2
    q.freeBlocks e.vf e.adie = 1 ∧ got ((List.range e.layers).foldlM (fun (x : State) l => do
              let r ← x.newBlock (.stream x.cur) e l e.nblk 0 0
              r.1.writeBlock (.stream r.1.cur) e (e.kvTile l e.nblk) (some r.2)) q)
          (fun q1 => q1.cur == 0 && got (q1.writeAux (.stream 0) e (e.nblk + 1) (e.kvLen + 32)) (fun _ => true)) = true := by
  intro q e
  have h : q.freeBlocks e.vf e.adie = 1 := by decide +kernel
  refine ⟨h, ?_⟩
  have hl : List.range e.layers = [0] := by decide +kernel
  rw [hl]
  simp only [List.foldlM_cons, List.foldlM_nil, State.newBlock, takeBlock_one q _ _ h]
  decide +kernel

theorem got_elim {α : Type} {x : Except Stop α} {p : α → Bool} (h : got x p = true) : ∃ a, x = .ok a ∧ p a = true := by
  cases x with
  | ok a => exact ⟨a, rfl, h⟩
  | error _ => exact absurd h (by simp [got])

/-- A new block where there is one free block to take. -/
def newOne (s : State) (a : Agent) (e : HEntry) (layer lb : Nat) (pend lost : Dword) : Except Stop (State × Nat) := do
  let i := s.nthFree e.vf e.adie 0
  let b := e.adie * 2 ^ 27 + i
  let s := { (s.updDie e.adie fun k => { k with blocks := SMap.set .free k.blocks i ⟨1, e.vf⟩ }) with free := s.free + 1 }
  let (s, h) ← s.readHeader a e.vf b false
  .ok (s.writeHeader a e.vf b ⟨(h.seq ||| 1) + 1, pend, lost, e.handle, h.wgen + 1, layer, lb⟩, b)

theorem newBlock_one (s : State) (a : Agent) (e : HEntry) (layer lb : Nat) (pend lost : Dword) (h : s.freeBlocks e.vf e.adie = 1) :
    s.newBlock a e layer lb pend lost false = newOne s a e layer lb pend lost := by
  unfold State.newBlock newOne
  rw [takeBlock_one s _ _ h]

/-- KvInstructions: btrim inside a block that the sequence shares takes the last free block. -/
theorem meets_btrim_shared :
    let q := (kvAt (lastBlock 2)).1
    let e := (kvAt (lastBlock 2)).2
    got ((q.bfDrop e.vf 0x1000000 9).tailShared (.stream 0) e 0 false) (fun r => r.2
      && !decide (r.1.cfg e.vf 0x0E e.adie < r.1.blocksUsed e.vf e.adie + e.layers)
      && !decide (r.1.freeBlocks e.vf e.adie < e.layers) && got (r.1.unshareTail (.stream 0) e 0 false) (fun _ => true)) = true := by
  intro q e
  have hl : List.range e.layers = [0] := by decide +kernel
  have h : got ((q.bfDrop e.vf 0x1000000 9).tailShared (.stream 0) e 0 false) (fun r => r.2
      && !decide (r.1.cfg e.vf 0x0E e.adie < r.1.blocksUsed e.vf e.adie + e.layers)
      && !decide (r.1.freeBlocks e.vf e.adie < e.layers)
      && got (r.1.readBlock (.stream 0) e (e.kvTile 0 0) false) (fun r1 => r1.2 == some 0
        && got (r1.1.readHeader (.stream 0) e.vf 0 false) (fun r2 => r2.1.freeBlocks e.vf e.adie == 1
          && got (newOne r2.1 (.stream 0) e 0 0 r2.2.pend r2.2.lost) (fun r3 =>
            got (r3.1.copyTile (.stream 0) e 0 r3.2) (fun r4 =>
              got (r4.writeBlock (.stream 0) e (e.kvTile 0 0) (some r3.2) false) (fun _ => true)))))) = true := by decide +kernel
  obtain ⟨r, hr, h⟩ := got_elim h
  simp only [Bool.and_eq_true, Bool.not_eq_true', decide_eq_false_iff_not] at h
  obtain ⟨⟨⟨a, b⟩, c⟩, h⟩ := h
  obtain ⟨r1, h1, h⟩ := got_elim h
  rw [Bool.and_eq_true] at h
  obtain ⟨d, h⟩ := h
  obtain ⟨r2, h2, h⟩ := got_elim h
  rw [Bool.and_eq_true] at h
  obtain ⟨f, h⟩ := h
  obtain ⟨r3, h3, h⟩ := got_elim h
  obtain ⟨r4, h4, h⟩ := got_elim h
  obtain ⟨r5, h5, _⟩ := got_elim h
  rw [hr]
  have hd : r1.2 = some 0 := by simpa using d
  have hf : r2.1.freeBlocks e.vf e.adie = 1 := by simpa using f
  have key : r.1.unshareTail (.stream 0) e 0 false = .ok (r5.refBlock 0 false) := by
    obtain ⟨q1, o⟩ := r1
    obtain ⟨q2, hd'⟩ := r2
    obtain ⟨q3, n⟩ := r3
    dsimp only at hd hf h2 h3 h4 h5
    subst hd
    simp [State.unshareTail, forNat, hl, List.foldlM_cons, List.foldlM_nil, h1, h2, newBlock_one _ _ _ _ _ _ _ hf, h3, h4, h5,
      State.onward, withSides, bind, Except.bind, pure, Except.pure]
  simp [got, a, b, c, key]

/-- KvInstructions: bfork copies a tail to the last free block. -/
theorem meets_bfork_tail :
    let q := (kvAt (lastBlock 1)).1
    let e := (kvAt (lastBlock 1)).2
    got (q.derefKv (.stream 0) false 0x2000000) (fun r => r.1.cur == 0 && r.1.kvOk e && forkOk e r.2
      && got (r.1.anyPending (.stream 0) e) (fun z => !z.2 && z.1.cur == 0
        && !decide (z.1.cfg e.vf 0x0E e.adie < z.1.blocksUsed e.vf e.adie + e.layers) && !decide (z.1.freeBlocks e.vf e.adie < e.layers)
        && got ((List.range e.layers).foldlM (fun (x : State) l => do
          let x ← x.forkShare (.stream x.cur) e r.2 l (e.kvLen / e.kvP)
          x.forkTail (.stream x.cur) e r.2 l (e.kvLen / e.kvP) (e.kvLen % e.kvP)) z.1) (fun y => y.cur == 0))) = true := by
  intro q e
  have hl : List.range e.layers = [0] := by decide +kernel
  have hp : e.kvLen / e.kvP = 0 ∧ e.kvLen % e.kvP = 10 := by decide +kernel
  have h : got (q.derefKv (.stream 0) false 0x2000000) (fun r => r.1.cur == 0 && r.1.kvOk e && forkOk e r.2
      && r.2.vf == e.vf && r.2.adie == e.adie
      && got (r.1.anyPending (.stream 0) e) (fun z => (!z.2 && z.1.cur == 0)
        && !decide (z.1.cfg e.vf 0x0E e.adie < z.1.blocksUsed e.vf e.adie + e.layers) && !decide (z.1.freeBlocks e.vf e.adie < e.layers)
        && got (z.1.forkShare (.stream 0) e r.2 0 0) (fun r0 => r0.cur == 0
          && got (r0.readBlock (.stream 0) e (e.kvTile 0 0)) (fun r1 => r1.2 == some 0
            && got (r1.1.readHeader (.stream 0) e.vf 0) (fun r2 => !r2.2.seq.getLsbD 0 && r2.1.freeBlocks e.vf e.adie == 1
              && got (newOne r2.1 (.stream 0) r.2 0 0 0 (r2.2.lost &&& bitsBelow 10)) (fun r3 =>
                got (r3.1.readBlockAt (.stream 0) e.vf 0 64 e.tileBytes) (fun r4 =>
                  got ((r4.1.commitBlockAt (.stream 0) r.2.vf r3.2 64 r4.2).writeBlock (.stream 0) r.2 (r.2.kvTile 0 0) (some r3.2))
                    (fun y => y.cur == 0)))))))) = true := by
    decide +kernel
  obtain ⟨r, hr, h⟩ := got_elim h
  rw [Bool.and_eq_true, Bool.and_eq_true, Bool.and_eq_true, Bool.and_eq_true, Bool.and_eq_true] at h
  obtain ⟨⟨⟨⟨⟨a1, a2⟩, a3⟩, a4⟩, a5⟩, h⟩ := h
  obtain ⟨z, hz, h⟩ := got_elim h
  rw [Bool.and_eq_true, Bool.and_eq_true, Bool.and_eq_true, Bool.and_eq_true] at h
  obtain ⟨⟨⟨⟨b1, b2⟩, b3⟩, b4⟩, h⟩ := h
  obtain ⟨r0, h0, h⟩ := got_elim h
  rw [Bool.and_eq_true] at h
  obtain ⟨c0, h⟩ := h
  obtain ⟨r1, h1, h⟩ := got_elim h
  rw [Bool.and_eq_true] at h
  obtain ⟨d, h⟩ := h
  obtain ⟨r2, h2, h⟩ := got_elim h
  rw [Bool.and_eq_true, Bool.and_eq_true] at h
  obtain ⟨⟨even, f⟩, h⟩ := h
  obtain ⟨r3, h3, h⟩ := got_elim h
  obtain ⟨r4, h4, h⟩ := got_elim h
  obtain ⟨y, h5, h⟩ := got_elim h
  rw [hr]
  have e4 : r.2.vf = e.vf := by simpa using a4
  have e5 : r.2.adie = e.adie := by simpa using a5
  have ez : z.1.cur = 0 := by simpa using b2
  have e0 : r0.cur = 0 := by simpa using c0
  have hd : r1.2 = some 0 := by simpa using d
  have hf : r2.1.freeBlocks r.2.vf r.2.adie = 1 := by rw [e4, e5]; simpa using f
  have he : r2.2.seq[0] = false := by simpa using even
  have key : (List.range e.layers).foldlM (fun (x : State) l => do
          let x ← x.forkShare (.stream x.cur) e r.2 l (e.kvLen / e.kvP)
          x.forkTail (.stream x.cur) e r.2 l (e.kvLen / e.kvP) (e.kvLen % e.kvP)) z.1 = .ok y := by
    obtain ⟨q1, o⟩ := r1
    obtain ⟨q2, hd'⟩ := r2
    obtain ⟨q3, n⟩ := r3
    obtain ⟨q4, bs⟩ := r4
    dsimp only at hd hf he h2 h3 h4 h5
    subst hd
    have h3 : newOne q2 (.stream 0) r.2 0 0 (0#64) (hd'.lost &&& bitsBelow 10) = .ok (q3, n) := h3
    simp [State.forkTail, hl, hp.1, hp.2, List.foldlM_cons, List.foldlM_nil, ez, h0, e0, h1, h2, need, he,
      newBlock_one _ _ _ _ _ _ _ hf, h3, h4, h5, State.onward, withSides, bind, Except.bind, pure, Except.pure]
  simp only [got, a1, a2, a3, hz, b1, b2, b3, b4, key, Bool.and_true] at h ⊢
  exact h

/-- KvInstructions: balloc at its extent, over the quota and from an empty pool. -/
theorem meets_balloc :
    kvq (benchKv 40 2 0 []) (fun _ e => decide (e.nblk * e.kvP < e.kvLen + 32 ∧ e.extent 1 < e.kvLen + 32 ∧ 32 ≤ e.kvP)) = true
    ∧ kvq (benchKv 10 1 0 []) (fun q e => decide (e.nblk * e.kvP < e.kvLen + 32 ∧ e.kvLen + 32 ≤ e.extent 1)
        && decide (q.cfg e.vf 0x0E e.adie < q.blocksUsed e.vf e.adie + e.layers)) = true
    ∧ kvq (benchKv 10 1 32 (allBlocks 1)) (fun q e => !decide (q.cfg e.vf 0x0E e.adie < q.blocksUsed e.vf e.adie + e.layers)
        && decide (q.freeBlocks e.vf e.adie < e.layers)) = true := by
  refine ⟨by decide +kernel, by decide +kernel, by decide +kernel⟩

/-- KvInstructions: btrim inside a block of the sequence alone, and of one that it shares, over the quota and with an empty
pool; and where a backfill runs. -/
theorem meets_btrim :
    (let cuts (b : State) (e : HEntry) : Bool := got (b.dropBlocks (.stream 0) e 1 false) (fun q1 =>
       got ((List.range e.layers).foldlM (fun (x : State) l => do
        let r ← x.readBlock (.stream 0) e (e.kvTile l 0)
        match r.2 with
        | none => .ok r.1
        | some n =>
          let z ← r.1.readHeader (.stream 0) e.vf n
          .ok (z.1.writeHeader (.stream 0) e.vf n
            { z.2 with pend := z.2.pend &&& 0x1FF, lost := z.2.lost &&& 0x1FF, wgen := z.2.wgen + 1 })) q1)
         (fun q2 => got (q2.writeAux (.stream 0) e 1 9) (fun _ => true)))
     let full (x : State) (e : HEntry) : Bool := decide (x.cfg e.vf 0x0E e.adie < x.blocksUsed e.vf e.adie + e.layers)
     kvq (benchKv 10 1 16 [(0, ⟨1, 0⟩)]) (fun q e => decide (9 ≤ e.kvLen ∧ 9 % e.kvP ≠ 0) && !q.bfRunning e.vf 0x1000000 9
         && got ((q.bfDrop e.vf 0x1000000 9).tailShared (.stream 0) e 0 false) (fun r => !r.2 && cuts r.1 e)) = true
      ∧ kvq (benchKv 10 1 0 [(0, ⟨2, 0⟩)]) (fun q e =>
         got ((q.bfDrop e.vf 0x1000000 9).tailShared (.stream 0) e 0 false) (fun r => r.2 && full r.1 e)) = true
      ∧ kvq (benchKv 10 1 32 (allBlocks 2)) (fun q e =>
         got ((q.bfDrop e.vf 0x1000000 9).tailShared (.stream 0) e 0 false) (fun r => r.2 && !full r.1 e
           && decide (r.1.freeBlocks e.vf e.adie < e.layers))) = true)
    ∧ kvq ((benchKv 10 1 0 []).updDie 0 fun d => { d with bfq := [⟨0, 0x1000000, 9, 0, 1, 0, 0, 0, 0, some 1, 0, 0, 0, [], 32⟩] })
        (fun q e => decide (5 ≤ e.kvLen) && q.bfRunning e.vf 0x1000000 5) = true := by
  refine ⟨⟨by decide +kernel, by decide +kernel, by decide +kernel⟩, by decide +kernel⟩

/-- KvInstructions: bfork of whole blocks; of a tail, over the quota and with an empty pool; with a pending position, and to a
handle that is too short. -/
theorem meets_bfork :
    (let forks (s : State) (p : State → HEntry → HEntry → Bool → Bool) : Bool := kvq s fun q e =>
       got (q.derefKv (.stream 0) false (s.reg 3)) fun r => r.1.cur == 0 && r.1.kvOk e && forkOk e r.2
         && got (r.1.anyPending (.stream 0) e) fun z => z.1.cur == 0 && p z.1 e r.2 z.2
     let share (e y : HEntry) (x : State) (l : Nat) : Except Stop State := x.forkShare (.stream x.cur) e y l (e.kvLen / e.kvP)
     let full (x : State) (e : HEntry) : Bool := decide (x.cfg e.vf 0x0E e.adie < x.blocksUsed e.vf e.adie + e.layers)
     forks (benchKv 32 1 16 []) (fun z e y pending => !pending && decide (e.kvLen ≤ y.extent 1 ∧ e.kvLen % e.kvP = 0)
         && got ((List.range e.layers).foldlM (share e y) z) (fun q3 => q3.cur == 0
           && got (q3.writeAux (.stream 0) y e.nblk e.kvLen) (fun _ => true))) = true
      ∧ forks (benchKv 10 1 0 []) (fun z e y pending => !pending && decide (e.kvLen ≤ y.extent 1 ∧ e.kvLen % e.kvP ≠ 0 ∧ y.vf = e.vf
          ∧ y.layers = e.layers) && full z e) = true
      ∧ forks (benchKv 10 1 32 (allBlocks 1)) (fun z e _ pending => !pending && !full z e && decide (z.freeBlocks e.vf e.adie < e.layers)) = true
      ∧ forks (more [(0x200000008, 1)] (benchKv 10 1 16 [])) (fun _ _ _ pending => pending) = true
      ∧ forks (let s := benchKv 40 2 16 []
           { s with mem := { s.mem with base := s.mem.base.map fun (p : Nat × Byte) => if p.1 = 0x4008C then (p.1, 32) else p } })
          (fun _ e y pending => !pending && decide (y.extent 1 < e.kvLen)) = true) := by
  refine ⟨by decide +kernel, by decide +kernel, by decide +kernel, by decide +kernel, by decide +kernel⟩

/-- AdapterInstructions: a retirement that waits; a superseded version that is referenced; loads with a ticket and without; a
release of no reference; publications that are refused; a claim of a range that another entry has. -/
theorem meets_Adapters :
    (let s := { benchA 2 [] with hearth := { (benchA 2 []).hearth with retires := [⟨0, 3, 1, 0, [], [], [], false⟩] } }
     ∃ x ∈ s.hearth.retires, x.vf = s.here.vfid)
    ∧ (∀ x ∈ (benchA 2 []).hearth.retires, x.vf ≠ (benchA 2 []).here.vfid)
    ∧ (let s := benchA 2 [(1, 0x400020003)] id fun e => { e with sver := 4, srefs := 1, svrec := 0x70000, onlayer := 1, ofmt := 1, orank := 1,
                                                                  ohands := [some 0x4000000, some 0x4000000] }
       let e := s.adapter 0 3
       (s.reg 1).extractLsb' 32 28 = e.sver ∧ (s.reg 1).extractLsb' 32 28 ≠ e.ver ∧ e.srefs ≠ 0 ∧ e.state = 2
        ∧ got (s.release (.stream 0) 0 3) (fun r => got (State.resolve { r with mem := r.mem.settle } 128 0 e.svrec.toNat e.onlayer e.ofmt e.oalpha
            e.orank e.sver) (fun _ => true)) = true)
    ∧ (let s := benchA 0 [(1, 0x500020003)]
       let e := s.adapter 0 3
       (s.reg 1).extractLsb' 32 28 = e.ver ∧ e.refs ≠ 0 ∧ e.state ≤ 1 ∧ ∀ x ∈ (s.die 0).tickets, x.2 ≠ .adapter 0 3)
    ∧ (let s := (benchA 1 [(1, 0x500020003)]).updDie 0 fun d => { d with tickets := [(9, .adapter 0 3)] }
       (s.adapter 0 3).state ≤ 1 ∧ (s.die 0).tickets.find? (fun x => x.2 == .adapter 0 3) = some (9, .adapter 0 3))
    ∧ (let s := benchA 2 [(1, 0x500020003)] id fun e => { e with refs := 0 }
       (s.adapter 0 3).refs = 0 ∧ (s.adapter 0 3).srefs = 0)
    ∧ (let n := nodeHere fun n => { n with alog := [⟨true, 0x20003, 5⟩] }
       (1 : Nat) ≤ (n.alog.filter fun x => x.release && x.handle.toNat % 65536 == 3 && x.ver == 5).length)
    ∧ (let s := benchA 2 [(1, 0x500020003), (3, 0x71000)]
       let t := { s with sec := { s.sec with abase := 7 } }
       (t.reg 3).toNat % 64 = 0 ∧ got (t.release (.stream 0) 0 3) (fun r =>
         got (State.readVa { r with mem := r.mem.settle } (.stream 0) 0 0x71000 64) (fun q => q.1.here.vfid == 0
           && decide (q.1.adapter 0 3 = t.adapter 0 3) && !headerBad q.2 && decide (BitVec.ofNat 64 (field q.2 0 8) ≠ q.1.sec.abase))) = true)
    ∧ (let e := (benchA 3 [] id fun e => { e with ver := 0xFFFFFFF }).adapter 0 3
       e.ver = 0xFFFFFFF ∧ e.state = 3 ∧ e.refs ≠ 0)
    ∧ (let s := ((benchA 2 []).updVf 0 fun v => { { v with cfg := (0x14000, 0x100008) :: v.cfg } with
         adapters := (4, { AdEntry.init with xfirst := 10, xcnt := 2 }) :: v.adapters })
       (s.vf 0).adapters.find? (fun p => p.1 != 3 && decide ((16 : Nat) ≠ 0 ∧ 0 < p.2.xcnt ∧ p.2.xfirst < 8 + 16 ∧ 8 < p.2.xfirst + p.2.xcnt))
        = some (4, { AdEntry.init with xfirst := 10, xcnt := 2 })) := by
  refine ⟨by decide, by decide, by decide +kernel, by decide, by decide, by decide, by decide, by decide +kernel, by decide, by decide⟩

/-- ProbesAndTables: a FAILED entry, a fill that is queued, and pinv's checks, with what the adapter unit knows. -/
theorem meets_Probes_more :
    (let k : ProbeKey := ⟨0x4000000, 0, true⟩
     let e : PEntry := { PEntry.init with state := 3, index := 4, handle := 0x4000000 }
     let ok (s : State) (p : State → Bool) : Bool :=
       (match s.here.probeRecord 0 with | .ok k' => k' == k | .error _ => false)
         && got (s.probeHandle k 0) (fun r => r.2 &&
              let p' := r.1
              let q := p'.learnFor k
              decide (p'.self = s.self) && p'.here.vfid == 0 && decide (q.self = s.self) && q.here.vfid == 0 && p q)
         && got (s.probeHandle k 0 true) (fun r => r.2 &&
              let p' := r.1
              let q := p'.learnFor k
              decide (p'.self = s.self) && p'.here.vfid == 0 && decide (q.self = s.self) && q.here.vfid == 0 && p q)
     let key : PKey := { PKey.of k.handle k.tile with vf := 0 }
     ok (benchP [(1, e)] 1) (fun q => q.pfind (.die 0) key == some 1 && (q.pentry (.die 0) 1).state == 3) = true
      ∧ ok (benchP [] 4) (fun q => q.pfind (.die 0) key == none && (q.pchoose (.die 0) 0).isSome) = true)
    ∧ (∃ b i n, (benchC [] fun c => { c with c := { c.c with wait := some (.fill false 1, 0) } }).self.wait = some (.fill b i, n))
    ∧ (¬∃ b i n, (benchC []).self.wait = some (.fill b i, n)) := by
  refine ⟨⟨by decide +kernel, by decide +kernel⟩, ⟨false, 1, 0, rfl⟩, ?_⟩
  rintro ⟨b, i, n, h⟩
  exact absurd (show (none : Option (WaitOn × Nat)) = _ from h) (by simp)

/-- Core 0's load queue before its head, a timed copy, has begun. -/
def atTimed (f : Core → Core) : State :=
  let k : Cmd := ⟨.xld ⟨1, 2, 3, 0, some ⟨none, none, false, false, 0, 0, some (2, 7)⟩, true⟩, 0, 0, 0, 0⟩
  benchH [] fun c => f { c with load := { c.load with cmds := [k] }, sp := copyDesc }

/-- CommandEnds: a timed copy in its window whose first step meets no delay, and one that waits for a page; a timed command of
the matrix queue; heads that may not begin, behind a dropped one and in a frozen group. -/
theorem meets_timed :
    (let s := atTimed id
     let b := s.updEng 0 .load fun e => { e with begun := true, wait := none }
     (s.core 0).load.begun = false ∧ (s.core 0).load.fault = none ∧ (s.core 0).load.sigPending = false ∧ (s.core 0).load.held = none
      ∧ (s.core 0).load.untimed = false ∧ s.frozen 0 = false ∧ 0 ≤ (s.gsc 0).toNat ∧ (s.gsc 0).toNat ≤ 0 + 4 * 2
      ∧ (s.core 0).load.cmds.map (fun k => (tailOf k.op).bind Tail.waitSem) = [none]
      ∧ (s.core 0).load.cmds.map (fun k => (tailOf k.op).bind Tail.timed) = [some (2, 7)]
      ∧ (match (s.core 0).load.cmds with
        | [k] => match b.engineWork 0 .load k.op with
          | .next u => !(((u.core 0).eng .load).wait.any WaitOn.ofMemory)
          | _ => false
        | _ => false) = true)
    ∧ (let s := atTimed fun c => { c with csr := { c.csr with htbase := 0x100000000 } }
       let b := s.updEng 0 .load fun e => { e with begun := true, wait := none }
       (match (s.core 0).load.cmds with
        | [k] => match b.engineWork 0 .load k.op with
          | .next u => ((u.core 0).eng .load).wait.any WaitOn.ofMemory
          | _ => false
        | _ => false) = true)
    ∧ (let k : Cmd := ⟨.mswap ⟨some ⟨none, none, false, false, 0, 0, some (2, 7)⟩, true⟩, 0, 0, 0, 0⟩
       (tailOf k.op).bind Tail.timed = some (2, 7) ∧ ∃ o, k.op = .mswap o)
    ∧ ((benchC [] fun c => { c with load := { c.load with held := some false } }).core 0).load.held.isSome = true
    ∧ (benchC [] fun c => { c with dbg := ⟨true, true, [], none, []⟩ }).frozen 0 = true := by
  refine ⟨by decide +kernel, by decide +kernel, ⟨rfl, _, rfl⟩, by decide, by decide⟩

/-- NodeInstructions: the last core of a node whose graph runs, with a successor that waits for it and for another beside it. -/
theorem meets_NodeEnds_graph :
    ([1, 2].all fun k =>
      let n := nodeHere fun n => { n with succs := [1] }
      let s := inNode (fun n => { n with succs := [1] }) (benchN []) (.fresh (List.replicate 256 0) [] k [] 0)
      s.here.node == some 0x10000 && s.node? 0x10000 == some n && !s.curX && s.self.mode != .handler && s.here.enginesEmpty
        && s.coreAcked s.cur && n.cores.all (fun c => c == s.cur) && descType n.desc != 2 && n.alog.isEmpty && n.members.isEmpty
        && n.check.isNone && s.hearth.rewinds.isEmpty && s.hearth.retires.isEmpty && n.state == .running
        && (s.graph? (graphKey 0x10000)).any (fun r => !r.complete && !r.held) && nodeKey (graphKey 0x10000) 1 == 0x10001
        && (s.node? 0x10001).any (fun m => m.state == .waiting && m.counter == k)
        && !s.owes 0x10000 n.cores && (owing s).owes 0x10000 n.cores) = true
    ∧ (benchN [] id fun c => { c with c := { c.c with mode := .handler } }).self.mode = .handler
    ∧ (benchN [] id fun c => { c with load := { c.load with cmds := [⟨.mswap ⟨none, true⟩, 0, 0, 0, 0⟩] } }).here.enginesEmpty = false
    ∧ (benchN [] id fun c => { c with csr := { c.csr with grpid := 0x10001 } }).here.csr.grpid.getLsbD 16 = true := by
  refine ⟨by decide, by decide, by decide, by decide⟩

/-- CoreGroups: every operand that grpjoin refuses, beside one that it takes. -/
theorem meets_joins :
    (let s := benchN [] fun n => { n with cores := [0, 1] }
     let used := s.updCore 1 fun c => { c with csr := { c.csr with grpid := 0x10007 } }
     let mine := s.updCore 0 fun c => { c with csr := { c.csr with grpid := 0x10008 } }
     let other := s.updCore 1 fun c => { c with joining := some (7, 1) }
     s.myCores = [0, 1] ∧ s.cur = 0 ∧ s.joinOk 7 3 = true ∧ s.joinOk 0x10007 3 = false ∧ s.joinOk 7 16 = false ∧ s.joinOk 7 2 = false
      ∧ s.joinOk 7 5 = false ∧ used.joinOk 7 3 = false ∧ mine.joinOk 7 3 = false ∧ other.joinOk 7 3 = false) := by decide

/-- Dispatches: cores that are kept for no node before the one that is chosen. -/
theorem meets_Dispatches_kept :
    ([.ready, .preempted].all fun st =>
      let s := benchD { readyNode st with saved := if st = .preempted then [(0, Core.init)] else [] } (readyNode .waiting) 3
      !s.keptFrom 0x10000 0) = true := by decide

/-- NodeEvents: a parked node one of whose wake words does not hold; a node that hangs, of a graph that runs. -/
theorem meets_NodeEvents_graph :
    (let n : Node := { readyNode .parked with wakes := [(0, 0x8000000000000005), (0, 0x8000000000000006)] }
     let s := { benchD n (readyNode .waiting) 1 with tb := 5 }
     s.node? 0x10000 = some n ∧ n.state = .parked ∧ (∃ w ∈ n.wakes, s.wakes w.1 w.2 = false)
      ∧ (n.wakes.filter fun w => !s.wakes w.1 w.2) = [(0, 0x8000000000000006)])
    ∧ (let s := { (benchD nodeHere (readyNode .waiting) 1 fun c => { c with node := some 0x10000 }) with tb := 27000000 }
       (s.graph? (graphKey 0x10000)).any (fun r => !r.complete) = true
        ∧ (∀ c ∈ (nodeHere).cores, (s.core c).advanced + (s.core 0).csr.dhang.toNat * 2700 ≤ s.tb)
        ∧ (∀ c ∈ (nodeHere).cores, (s.core c).csr.dhbase = 0) ∧ s.hearth.rewinds = [] ∧ s.hearth.retires = []
        ∧ s.owes 0x10000 (nodeHere).cores = false) := by
  refine ⟨by decide, by decide⟩

/-- UnitEvents: a line in whose halves the code sees one error and may miss another. -/
theorem meets_scrub_unseen (e : BitVec 512)
    (h : Config.beyondCode 1 (BitVec.ofNat 512 (7 + 2 ^ 256) &&& (BitVec.ofNat 512 (2 ^ 256 - 1) ||| 0)) = some e) :
    let m : MemSys := { MemSys.init with latent := [(5, ⟨BitVec.ofNat 512 (7 + 2 ^ 256), 0⟩)], grade := [(0, 1)] }
    (SMap.get LineErr.none m.latent 5).copy = 0
      ∧ ∃ w f, m.fate 5 = .unseen w f ∧ f ≠ 0 := by
  refine ⟨by decide, ?_⟩
  have hb : bitsSet (BitVec.ofNat 512 (7 + 2 ^ 256)) = [0, 1, 2, 256] := by decide
  have hn : (BitVec.ofNat 512 (7 + 2 ^ 256)) ≠ 0 := by decide
  refine ⟨e &&& (BitVec.ofNat 512 (2 ^ 256 - 1) ||| 0), BitVec.ofNat 512 (7 + 2 ^ 256) &&& ~~~(BitVec.ofNat 512 (2 ^ 256 - 1) ||| 0), ?_, by decide⟩
  have hc : codeFate 1 (BitVec.ofNat 512 (7 + 2 ^ 256)) = .unseen (e &&& (BitVec.ofNat 512 (2 ^ 256 - 1) ||| 0))
      (BitVec.ofNat 512 (7 + 2 ^ 256) &&& ~~~(BitVec.ofNat 512 (2 ^ 256 - 1) ||| 0)) := by
    unfold codeFate
    simp only [hb]
    rw [if_neg (by decide), if_neg (by decide)]
    show (match Config.beyondCode 1 (BitVec.ofNat 512 (7 + 2 ^ 256) &&& (BitVec.ofNat 512 (2 ^ 256 - 1) ||| 0)) with
      | none => LineFate.lost
      | some e => LineFate.unseen (e &&& (BitVec.ofNat 512 (2 ^ 256 - 1) ||| 0))
          (BitVec.ofNat 512 (7 + 2 ^ 256) &&& ~~~(BitVec.ofNat 512 (2 ^ 256 - 1) ||| 0))) = _
    rw [h]
  show (if BitVec.ofNat 512 (7 + 2 ^ 256) = 0 then LineFate.clean else codeFate 1 (BitVec.ofNat 512 (7 + 2 ^ 256))) = _
  rw [if_neg hn]
  exact hc

/-- A landing of one line and two ranks of VF 1 in entry 5, whose destination is a memory-side page of HBM. -/
def benchLand (g : List (Nat × Landing)) : State :=
  let s := benchC []
  let s : State := { s with
    mem := { s.mem with base := [(0x10000, 1), (0x10002, 2), (0x20000, 0x17), (0x73142, 6), (0x73148, 1), (0x7314C, 0), (0x7314D, 1), (0x7314E, 2),
      (0x73151, 0x50), (0x73152, 7), (0x73158, 9)] }
    pf := { s.pf with exportTo := [(256, (1, 0))] } }
  s.updVf 1 fun v => { v with cfg := (0x17000, 0x73000) :: (0x18000, 8) :: v.cfg, landings := g }

/-- A packet of rank 1 to line 0 of that landing in epoch 9. -/
def landMsg : LinkMsg :=
  { requestMsg 4 6 0 false false false 0 0 (5 + 0x10000 + 9 * 2 ^ 32 + 7 * 2 ^ 128) with first := false, srcMod := 1 }

/-- UnitEvents: a contribution that is its landing's first, and one that is its last. -/
theorem meets_reduce :
    ([[], [(5, ⟨9, Memory.read [(2, 6), (8, 1), (0xD, 1), (0xE, 2), (0x11, 0x50), (0x12, 7), (0x18, 9)] 0 64, [(0, 0, 3)], [], [], false⟩)]].all
      fun l =>
        let s := benchLand l
        let p := packetOf landMsg (s.exported landMsg).1
        p.vf == 1 && p.landing == 5 && p.rank == 1 && p.epoch == 9 && p.line == 0 && !p.poison
          && match s.landEntry 1 5 with
            | (b, some e) => landEpoch e == p.epoch && landK e == 2 && landLines e == 1 && match (b.landForget 1 5 p.epoch).landOpen p e with
              | some g => ((b.landForget 1 5 p.epoch).landHalf 1 g.entry).2.isSome
                  && g.parts.all (fun q => !(q.1 == 0 && q.2.1 == 1))
                  && (({ g with parts := g.parts ++ [(0, 1, p.data)] } : Landing).ofLine 0).length == 1 + l.length
              | none => false
            | (_, none) => false) = true := by
  decide +kernel

/-- UnitEvents: a load whose factor is another VF's, and one whose record a peer has not answered. -/
theorem meets_loadPlan :
    (let s := benchA 1 [] id fun e => { e with hands := [some 0x100000004000000] }
     (s.adapter 0 3).state = 1 ∧ stops (s.loadPlan 0 3) 0x24 = true)
    ∧ (let s := benchA 1 [] id fun e => { e with hands := [] }
       let s := { s with mem := { s.mem with base := [(0x10000, 1), (0x10002, 2), (0x20000, 0x17), (0x20005, 0x10), (0x20006, 8)] }
                         pf := { s.pf with route := [(1, 4)] }
                         peers := [⟨.management, 2, 7, 2 ^ 51 + 2 ^ 44 + 0x70040, 8, false, false, (0, 0, 0), none, none, none⟩] }
       (match s.loadPlan 0 3 with
        | .error (.wait _ _) => true
        | _ => false) = true) := by decide +kernel

/-- HostRegisters: registers that firmware lets the host write, of queues and rings that are on, off and busy; a command that stands. -/
theorem meets_registerWrites :
    let s := { (benchHost { SubQ.init with cfg := 0x104, tail := 3 } fun v => { v with rings := [(3, { Ring.init with cfg := 0x104 })] }) with
      sec := { Sec.init with stage := 8 } }
    6 ≤ s.sec.stage ∧ s.sec.stage ≤ 8 ∧ (s.vf 1).present = true ∧ s.refuses ⟨1, 0, false⟩ = false
      ∧ ((s.sq 1 2).cfg.getLsbD 8 = true ∧ (s.sq 1 2).head ≠ (s.sq 1 2).tail) ∧ (s.sq 1 3).cfg.getLsbD 8 = false
      ∧ (s.ring 1 3).cfg.getLsbD 8 = true ∧ (s.ring 1 4).cfg.getLsbD 8 = false ∧ (s.ring 1 3).faulted = false
      ∧ s.pf.ring.faulted = false ∧ s.pf.ring.cfg.getLsbD 8 = false ∧ s.pf.cmdStat.getLsbD 63 = false
      ∧ ({ Pf.init with cmdStat := 0x8000000000000000 } : Pf).cmdStat.getLsbD 63 = true ∧ (State.reset.vf 3).present = false := by
  decide

/-- A pre-emptible descriptor whose RST is set. -/
def resting : List Byte := [1] ++ List.replicate 15 0 ++ [4, 0, 0, 0, 4, 0, 0, 0, 0x10, 0] ++ List.replicate 230 0

/-- PowerAndCooling: a node of a graph that runs, which can roll back and which cannot. -/
theorem meets_PowerAndCooling_graph :
    ([true, false].all fun rst =>
      let n : Node := nodeHere fun n => { n with check := some ⟨[⟨0, 0, [], 0⟩], [], [], []⟩, desc := if rst then resting else n.desc }
      let s := benchD n (readyNode .waiting) 1 fun c => { c with node := some 0x10000 }
      s.nodesOn 0 == [0x10000] && s.node? 0x10000 == some n && n.state == .running && descType n.desc != 2
        && n.check.all (fun p => p.kv == []) && n.alog.isEmpty && n.members.isEmpty && s.hearth.rewinds.isEmpty && s.hearth.retires.isEmpty
        && s.cores.all (fun p => dieOf p.1 != 0 || p.2.c.mode != .device) && (s.graph? (graphKey 0x10000)).any (fun r => !r.complete)
        && !s.owes 0x10000 n.cores && (descRst n.desc && n.rollbacks < 3 && n.check.isSome) == rst) = true := by decide

/-- Debugging: a debugger that may write a halted core's context, and one whose core is locked; commands that a queue takes, and
one that it does not; further contexts that break a rule. -/
theorem meets_Debugging_writes :
    (let s := benchN [] id fun c => { c with dbg := ⟨true, true, [], none, []⟩ }
     (s.core 0).dbg.attached = true ∧ (s.core 0).dbg.halted = true ∧ s.sec.debugLock = false ∧ (s.core 0).node = some 0x10000
      ∧ (s.vf (nodeVf 0x10000)).tdisp = .unlocked ∧ (s.core 0).quad.role = 0)
    ∧ ((s : State) → s = (benchN []).updVf 0 (fun v => { v with tdisp := .run }) → (s.core 0).node = some 0x10000 ∧ (s.vf (nodeVf 0x10000)).tdisp ≠ .unlocked)
    ∧ (ctxCmd .load ⟨0x94C9000B, 0x02400000, 1, 2, 3, 0⟩).isSome = true ∧ (ctxCmd .matrix ⟨0x94C9000B, 0x02400000, 1, 2, 3, 0⟩).isSome = false
    ∧ (let b (f : Core → Core) : Bool := ((benchN [] id fun c => f { c with dbg := ⟨true, true, [], none, []⟩ }).badOffset 0).isSome
       (b (fun c => { c with c := { c.c with pc := 2 } }) && b (fun c => { c with vec := { c.vec with toX := List.replicate 17 0 } })
        && b (fun c => { c with vec := { c.vec with vtype := 0xFF00 } })
        && b fun c => { c with vec := { c.vec with queues := [(12, List.replicate 5 0)] } }) = true) := by
  refine ⟨by decide, ?_, rfl, rfl, by decide⟩
  intro s h
  subst h
  decide

/-- BootAndModel: whatever signature is right for a key and an image, a slot that holds them is good to the fuses of that key. -/
theorem meets_BootAndModel_good (pub : BitVec 256) (image : List Byte) (sig : BitVec 512)
    (h : Config.ed25519Ok pub (Config.sha512 image) sig = true) :
    let f : FlashSlot := { FlashSlot.empty with pubKey := pub, image := image, signature := sig, svn := 5 }
    let k : Sec := { Sec.init with fuseHash := Config.sha512 (wordBytes pub), fuseSvn := 4, slotA := f }
    k.stage = 0 ∧ Config.sha512 (wordBytes f.pubKey) = k.fuseHash
      ∧ Config.ed25519Ok f.pubKey (Config.sha512 f.image) f.signature = true ∧ k.fuseSvn ≤ f.svn := ⟨rfl, rfl, h, Nat.le_succ 4⟩

/-- A flit whose CRC is one more than it should be is bad. -/
theorem sealed_bad (g : Flit) : let f := { sealFlit g with crc := (sealFlit g).crc + 1 }
    crc64 (flitBytes f) ≠ f.crc := by
  intro f
  rw [show crc64 (flitBytes f) = crc64 (flitBytes g) from rfl, show f.crc = crc64 (flitBytes g) + 1 from rfl]
  generalize crc64 (flitBytes g) = t
  bv_omega

/-- Flits: a port that has heard a good flit, and one that has not; a replay request and an idle flit with another SEQ than the
port's. -/
theorem meets_Flits_more :
    Port.init.heard = false ∧ ({ Port.init with heard := true } : Port).heard = true ∧ (flit 2 5 2 true).seq ≠ (4 : BitVec 12)
      ∧ (flit 0 3 2 false).seq ≠ (4 : BitVec 12) ∧ (∀ q ∈ (benchC []).hearth.nodes, q.2.isEnding = false) := by
  refine ⟨rfl, rfl, by decide, by decide, by decide⟩

/-- LinkMessages: a message that opens a flit with another SEQ than the next; an answer that refuses its request; management
messages whose channel's buffer rises above its mark, and whose falls below. -/
theorem meets_LinkMessages_more :
    (message 0 true).seq ≠ ({ Port.init with rxSeq := 5 } : Port).rxSeq + 1 ∧ ({ message 0 true with code := 2 } : LinkMsg).code ≠ 0
      ∧ (({ Port.init with awaiting := true } : Port).awaiting = true)
      ∧ (let m : LinkMsg := { message 0 true with vc := 6, code := 64 }
         let level (n : Nat) := ((List.replicate n ((0x0A : Byte), m)).map fun x => 16 * msgSlots x.1.toNat x.2.size.toNat x.2.code.toNat).sum
         48 * 1024 < level 700 ∧ level 400 < 32 * 1024) := by
  refine ⟨by decide, by decide, by decide, ?_⟩
  intro m level
  simp only [level, List.map_replicate, List.sum_replicate, smul_eq_mul]
  decide

/-- CanonicalAtReset and StepKeepsCanonical: reset, and a state that lists bytes and writes. -/
theorem meets_Canonical :
    Canonical State.reset ∧ State.reset.mem.ordered
    ∧ (let s := { benchC [] with mem := { (benchC []).mem with log := [(0, oneWrite), (3, oneWrite)], nextId := 4 }, host := [(5, 1), (9, 2)] }
       Canonical s ∧ s.mem.ordered) := by
  simp only [Canonical, MemSys.ordered]
  decide

/-! ### Results of single instructions, computed by hand from the rules -/

/-- What holds of the state after an instruction. -/
def then_ (i : Instr) (s : State) (p : State → Bool) : Bool :=
  match exec i s with
  | .next t => p t
  | _ => false

/-- Scalar register 4 after an instruction with operands in s1 and s2. -/
def gives4 (i : Instr) (x y v : Dword) : Bool := then_ i (benchC [(1, x), (2, y)]) fun t => t.reg 4 == v

/-- R97: sums wrap; the high half of a product is signed; the division corners; a shift takes its amount modulo 64. -/
theorem test_scalar :
    (gives4 (.add ⟨4, 1, 2, true⟩) 0xFFFFFFFFFFFFFFFF 2 1 && gives4 (.mulh ⟨4, 1, 2, true⟩) 0xFFFFFFFFFFFFFFFF 2 0xFFFFFFFFFFFFFFFF
      && gives4 (.div ⟨4, 1, 2, true⟩) 7 0 0xFFFFFFFFFFFFFFFF && gives4 (.div ⟨4, 1, 2, true⟩) 0x8000000000000000 0xFFFFFFFFFFFFFFFF 0x8000000000000000
      && gives4 (.rem ⟨4, 1, 2, true⟩) 0xFFFFFFFFFFFFFFF9 2 0xFFFFFFFFFFFFFFFF && gives4 (.shl ⟨4, 1, 2, true⟩) 3 65 6
      && gives4 (.sra ⟨4, 1, 2, true⟩) 0x8000000000000000 63 0xFFFFFFFFFFFFFFFF && gives4 (.clz ⟨4, 1, true⟩) 1 0 63) = true := by decide

/-- R72, R98, R99: s0 stays zero; an immediate is sign-extended; lui fills bits 31 to 13 and extends the sign. -/
theorem test_immediates :
    (then_ (.addi ⟨0, 1, 5, true⟩) (benchC [(1, 1)]) (fun t => t.reg 0 == 0) && gives4 (.addi ⟨4, 1, 0x3FFF, true⟩) 1 0 0
      && gives4 (.lui ⟨4, 0x40000, true⟩) 0 0 0xFFFFFFFF80000000 && gives4 (.lea ⟨4, 1, 2, 3, true⟩) 100 5 140) = true := by decide

/-- R100: a taken branch goes to its own offset plus four times its field; R76: one that leaves the binary traps with 0x15. -/
theorem test_branch :
    then_ (.beq ⟨1, 2, 3, true⟩) (benchC [(1, 9), (2, 9)]) (fun t => t.self.pc == 12 && t.self.mode == .node) = true
    ∧ then_ (.beq ⟨1, 2, 16, true⟩) (benchC [(1, 9), (2, 9)]) (fun t => t.self.mode == .handler && t.self.ecause == 0x15 && t.self.eval == 64)
      = true := by decide

/-- R76, R77, R108: trap n enters the handler with cause 0x16, the code in eval and its group's offset in epc; eret returns. -/
theorem test_trap :
    then_ (.trap ⟨9, true⟩) (benchC [] fun c => { c with c := { c.c with pc := 8, gpc := 4, tvec := 32 } }) (fun t =>
      t.self.mode == .handler && t.self.pc == 32 && t.self.epc == 4 && t.self.eval == 9 && t.issue == .trapped) = true
    ∧ then_ (.eret ⟨true⟩) (benchC [] fun c => { c with c := { c.c with mode := .handler, epc := 20 } }) (fun t =>
      t.self.mode == .node && t.self.pc == 20) = true := by decide

/-- R93, R96: semsig counts up to the ceiling; an empty semaphore makes semwait wait. -/
theorem test_semaphore :
    then_ (.semsig ⟨5, true⟩) (benchC [] fun c => c.setSem 5 ⟨2, 9⟩) (fun t => t.here.sem 5 == ⟨3, 9⟩) = true
    ∧ then_ (.semwait ⟨5, true⟩) (benchC [] fun c => c.setSem 5 ⟨0, 9⟩) (fun t => t.issue == .waiting && t.here.sem 5 == ⟨0, 9⟩) = true := by
  decide

/-- Chapter 02: 1 + 2^-24 rounds to 1 in FP32 without a flag; infinity less infinity is the quiet NaN and raises NV. -/
theorem test_fp :
    Fp.fadd .fp32 .rne 0x3F800000 0x33800000 = ⟨0x3F800000, ⟨false, false⟩⟩ ∧ Fp.fsub .fp32 .rne 0x7F800000 0x7F800000 = ⟨0x7FC00000, ⟨true, false⟩⟩
    ∧ (Fp.fmul .fp32 .rne 0x40000000 0x40400000).bits = 0x40C00000 := by decide

/-- R119: a lane sum wraps, and an inactive lane takes 0. -/
theorem test_vadd :
    then_ (.vadd ⟨20, 1, 2, 1, false, false, true⟩)
      (benchX [] fun c => { (c.setQueue 1 [BitVec.ofNat 1024 (2 ^ 64 - 1)]).setQueue 2 [BitVec.ofNat 1024 (2 ^ 32 + 2)] with
        vec := { ((c.setQueue 1 [BitVec.ofNat 1024 (2 ^ 64 - 1)]).setQueue 2 [BitVec.ofNat 1024 (2 ^ 32 + 2)]).vec with vtype := 6, masks := [(1, 1)] } })
      (fun t => t.here.queue 20 == [1] && t.here.queue 1 == [] && t.here.queue 2 == []) = true := by decide

/-- R69: nop goes on to the next word. -/
theorem test_step :
    (match step (State.reset.withFetchWord 32 0x58000001) with
      | .next t => (t.core t.cur).c.pc == 4 && t.tb == 1
      | _ => false) = true := by decide

/-- R281, R277: the last signaller advances the phaser. -/
theorem test_phaser :
    then_ (.phsig ⟨1, true⟩) (benchPh ⟨3, 5, 1, 0, 0, 1⟩ [⟨4095, 1, 5, 5, 3⟩]) (fun t =>
      (t.phaser 4095).phase == 6 && (t.memberOf? 4095).map Member.sp == some 6) = true := by decide
end Sys2Proof.Machine
end

section
/-! PROOFS. Decode of encode (R46, R48, R59): the laws of the single constructors, gathered. -/

namespace Sys2Proof

/-- Settles O1: an instruction of a word by the law of its constructor; an event has no word. -/
theorem decodeEncode : Obligations.DecodeEncode := by
  intro i
  cases i
  case add o => exact Laws.Roundtrip.add o
  case sub o => exact Laws.Roundtrip.sub o
  case and o => exact Laws.Roundtrip.and o
  case or o => exact Laws.Roundtrip.or o
  case xor o => exact Laws.Roundtrip.xor o
  case shl o => exact Laws.Roundtrip.shl o
  case shr o => exact Laws.Roundtrip.shr o
  case sra o => exact Laws.Roundtrip.sra o
  case mul o => exact Laws.Roundtrip.mul o
  case mulh o => exact Laws.Roundtrip.mulh o
  case mulhu o => exact Laws.Roundtrip.mulhu o
  case div o => exact Laws.Roundtrip.div o
  case divu o => exact Laws.Roundtrip.divu o
  case rem o => exact Laws.Roundtrip.rem o
  case remu o => exact Laws.Roundtrip.remu o
  case min o => exact Laws.Roundtrip.min o
  case max o => exact Laws.Roundtrip.max o
  case minu o => exact Laws.Roundtrip.minu o
  case maxu o => exact Laws.Roundtrip.maxu o
  case slt o => exact Laws.Roundtrip.slt o
  case sltu o => exact Laws.Roundtrip.sltu o
  case clz o => exact Laws.Roundtrip.clz o
  case popc o => exact Laws.Roundtrip.popc o
  case addi o => exact Laws.Roundtrip.addi o
  case andi o => exact Laws.Roundtrip.andi o
  case ori o => exact Laws.Roundtrip.ori o
  case xori o => exact Laws.Roundtrip.xori o
  case shli o => exact Laws.Roundtrip.shli o
  case shri o => exact Laws.Roundtrip.shri o
  case srai o => exact Laws.Roundtrip.srai o
  case slti o => exact Laws.Roundtrip.slti o
  case sltiu o => exact Laws.Roundtrip.sltiu o
  case lui o => exact Laws.Roundtrip.lui o
  case auipc o => exact Laws.Roundtrip.auipc o
  case lea o => exact Laws.Roundtrip.lea o
  case beq o => exact Laws.Roundtrip.beq o
  case bne o => exact Laws.Roundtrip.bne o
  case blt o => exact Laws.Roundtrip.blt o
  case bge o => exact Laws.Roundtrip.bge o
  case bltu o => exact Laws.Roundtrip.bltu o
  case bgeu o => exact Laws.Roundtrip.bgeu o
  case jal o => exact Laws.Roundtrip.jal o
  case jalr o => exact Laws.Roundtrip.jalr o
  case loop o => exact Laws.Roundtrip.loop o
  case loopi o => exact Laws.Roundtrip.loopi o
  case cqpush o => exact Laws.Roundtrip.cqpush o
  case cqpop o => exact Laws.Roundtrip.cqpop o
  case csrr o => exact Laws.Roundtrip.csrr o
  case csrw o => exact Laws.Roundtrip.csrw o
  case csrs o => exact Laws.Roundtrip.csrs o
  case csrc o => exact Laws.Roundtrip.csrc o
  case nop o => exact Laws.Roundtrip.nop o
  case trap o => exact Laws.Roundtrip.trap o
  case eret o => exact Laws.Roundtrip.eret o
  case brk o => exact Laws.Roundtrip.brk o
  case wait o => exact Laws.Roundtrip.wait o
  case ld o => exact Laws.Roundtrip.ld o
  case st o => exact Laws.Roundtrip.st o
  case amoAdd o => exact Laws.Roundtrip.amoAdd o
  case amoAnd o => exact Laws.Roundtrip.amoAnd o
  case amoOr o => exact Laws.Roundtrip.amoOr o
  case amoXor o => exact Laws.Roundtrip.amoXor o
  case amoSwap o => exact Laws.Roundtrip.amoSwap o
  case amoMin o => exact Laws.Roundtrip.amoMin o
  case amoMax o => exact Laws.Roundtrip.amoMax o
  case amoMinu o => exact Laws.Roundtrip.amoMinu o
  case amoMaxu o => exact Laws.Roundtrip.amoMaxu o
  case amoCas o => exact Laws.Roundtrip.amoCas o
  case amoFadd o => exact Laws.Roundtrip.amoFadd o
  case amoFmin o => exact Laws.Roundtrip.amoFmin o
  case amoFmax o => exact Laws.Roundtrip.amoFmax o
  case fence o => exact Laws.Roundtrip.fence o
  case cinv o => exact Laws.Roundtrip.cinv o
  case cwb o => exact Laws.Roundtrip.cwb o
  case l2hint o => exact Laws.Roundtrip.l2hint o
  case l2hintDemote o => exact Laws.Roundtrip.l2hintDemote o
  case qrd o => exact Laws.Roundtrip.qrd o
  case qrdh o => exact Laws.Roundtrip.qrdh o
  case qwr o => exact Laws.Roundtrip.qwr o
  case xld o => exact Laws.Roundtrip.xld o
  case xldDec o => exact Laws.Roundtrip.xldDec o
  case xldVfy o => exact Laws.Roundtrip.xldVfy o
  case xst o => exact Laws.Roundtrip.xst o
  case xcp o => exact Laws.Roundtrip.xcp o
  case xcpScl o => exact Laws.Roundtrip.xcpScl o
  case xcpVfy o => exact Laws.Roundtrip.xcpVfy o
  case xdrain o => exact Laws.Roundtrip.xdrain o
  case xcur o => exact Laws.Roundtrip.xcur o
  case xcfg o => exact Laws.Roundtrip.xcfg o
  case mlw o => exact Laws.Roundtrip.mlw o
  case mswap o => exact Laws.Roundtrip.mswap o
  case mmul o => exact Laws.Roundtrip.mmul o
  case mmulSmax o => exact Laws.Roundtrip.mmulSmax o
  case mst o => exact Laws.Roundtrip.mst o
  case mzero o => exact Laws.Roundtrip.mzero o
  case mlora o => exact Laws.Roundtrip.mlora o
  case mloraClr o => exact Laws.Roundtrip.mloraClr o
  case mamap o => exact Laws.Roundtrip.mamap o
  case mfuse o => exact Laws.Roundtrip.mfuse o
  case mfuseOff o => exact Laws.Roundtrip.mfuseOff o
  case attn o => exact Laws.Roundtrip.attn o
  case hview o => exact Laws.Roundtrip.hview o
  case hchk o => exact Laws.Roundtrip.hchk o
  case hqry o => exact Laws.Roundtrip.hqry o
  case balloc o => exact Laws.Roundtrip.balloc o
  case bfree o => exact Laws.Roundtrip.bfree o
  case btrim o => exact Laws.Roundtrip.btrim o
  case bfork o => exact Laws.Roundtrip.bfork o
  case bstat o => exact Laws.Roundtrip.bstat o
  case bkfill o => exact Laws.Roundtrip.bkfill o
  case aadmit o => exact Laws.Roundtrip.aadmit o
  case aresolve o => exact Laws.Roundtrip.aresolve o
  case arel o => exact Laws.Roundtrip.arel o
  case apublish o => exact Laws.Roundtrip.apublish o
  case aclaim o => exact Laws.Roundtrip.aclaim o
  case probe o => exact Laws.Roundtrip.probe o
  case pinv o => exact Laws.Roundtrip.pinv o
  case phreg o => exact Laws.Roundtrip.phreg o
  case phdrop o => exact Laws.Roundtrip.phdrop o
  case phsig o => exact Laws.Roundtrip.phsig o
  case phwait o => exact Laws.Roundtrip.phwait o
  case phadv o => exact Laws.Roundtrip.phadv o
  case phqry o => exact Laws.Roundtrip.phqry o
  case phqryM o => exact Laws.Roundtrip.phqryM o
  case semset o => exact Laws.Roundtrip.semset o
  case semsig o => exact Laws.Roundtrip.semsig o
  case semwait o => exact Laws.Roundtrip.semwait o
  case semrd o => exact Laws.Roundtrip.semrd o
  case nyield o => exact Laws.Roundtrip.nyield o
  case ndone o => exact Laws.Roundtrip.ndone o
  case ndoneAbort o => exact Laws.Roundtrip.ndoneAbort o
  case npark o => exact Laws.Roundtrip.npark o
  case nspawn o => exact Laws.Roundtrip.nspawn o
  case ndep o => exact Laws.Roundtrip.ndep o
  case ndepRel o => exact Laws.Roundtrip.ndepRel o
  case grpjoin o => exact Laws.Roundtrip.grpjoin o
  case grpleave o => exact Laws.Roundtrip.grpleave o
  case tload o => exact Laws.Roundtrip.tload o
  case tinval o => exact Laws.Roundtrip.tinval o
  case tinvalSh o => exact Laws.Roundtrip.tinvalSh o
  case tqry o => exact Laws.Roundtrip.tqry o
  case vadd o => exact Laws.Roundtrip.vadd o
  case vsub o => exact Laws.Roundtrip.vsub o
  case vmul o => exact Laws.Roundtrip.vmul o
  case vmulh o => exact Laws.Roundtrip.vmulh o
  case vand o => exact Laws.Roundtrip.vand o
  case vor o => exact Laws.Roundtrip.vor o
  case vxor o => exact Laws.Roundtrip.vxor o
  case vshl o => exact Laws.Roundtrip.vshl o
  case vshr o => exact Laws.Roundtrip.vshr o
  case vsra o => exact Laws.Roundtrip.vsra o
  case vmin o => exact Laws.Roundtrip.vmin o
  case vmax o => exact Laws.Roundtrip.vmax o
  case vminu o => exact Laws.Roundtrip.vminu o
  case vmaxu o => exact Laws.Roundtrip.vmaxu o
  case vfadd o => exact Laws.Roundtrip.vfadd o
  case vfsub o => exact Laws.Roundtrip.vfsub o
  case vfmul o => exact Laws.Roundtrip.vfmul o
  case vfmin o => exact Laws.Roundtrip.vfmin o
  case vfmax o => exact Laws.Roundtrip.vfmax o
  case vfabs o => exact Laws.Roundtrip.vfabs o
  case vfneg o => exact Laws.Roundtrip.vfneg o
  case vfma o => exact Laws.Roundtrip.vfma o
  case vcvt o => exact Laws.Roundtrip.vcvt o
  case vpack o => exact Laws.Roundtrip.vpack o
  case vunpack o => exact Laws.Roundtrip.vunpack o
  case vbscale o => exact Laws.Roundtrip.vbscale o
  case vrsum o => exact Laws.Roundtrip.vrsum o
  case vrmax o => exact Laws.Roundtrip.vrmax o
  case vrmin o => exact Laws.Roundtrip.vrmin o
  case vrargmax o => exact Laws.Roundtrip.vrargmax o
  case vscan o => exact Laws.Roundtrip.vscan o
  case vshuf o => exact Laws.Roundtrip.vshuf o
  case vbcast o => exact Laws.Roundtrip.vbcast o
  case vslideUp o => exact Laws.Roundtrip.vslideUp o
  case vslideDn o => exact Laws.Roundtrip.vslideDn o
  case vcompress o => exact Laws.Roundtrip.vcompress o
  case vfunc o => exact Laws.Roundtrip.vfunc o
  case tsel o => exact Laws.Roundtrip.tsel o
  case vrand o => exact Laws.Roundtrip.vrand o
  case vrandU o => exact Laws.Roundtrip.vrandU o
  case vconf o => exact Laws.Roundtrip.vconf o
  case kand o => exact Laws.Roundtrip.kand o
  case kor o => exact Laws.Roundtrip.kor o
  case kxor o => exact Laws.Roundtrip.kxor o
  case knot o => exact Laws.Roundtrip.knot o
  case kmov o => exact Laws.Roundtrip.kmov o
  case kmovFromScalar o => exact Laws.Roundtrip.kmovFromScalar o
  case kmovToScalar o => exact Laws.Roundtrip.kmovToScalar o
  case kpop o => exact Laws.Roundtrip.kpop o
  case qdrop o => exact Laws.Roundtrip.qdrop o
  case qcnt o => exact Laws.Roundtrip.qcnt o
  case vext o => exact Laws.Roundtrip.vext o
  case vins o => exact Laws.Roundtrip.vins o
  case vmovs o => exact Laws.Roundtrip.vmovs o
  case vsett o => exact Laws.Roundtrip.vsett o
  case vfcmpEq o => exact Laws.Roundtrip.vfcmpEq o
  case vfcmpLt o => exact Laws.Roundtrip.vfcmpLt o
  case vfcmpLe o => exact Laws.Roundtrip.vfcmpLe o
  case vfcmpUn o => exact Laws.Roundtrip.vfcmpUn o
  case vicmpEq o => exact Laws.Roundtrip.vicmpEq o
  case vicmpLt o => exact Laws.Roundtrip.vicmpLt o
  case vicmpLe o => exact Laws.Roundtrip.vicmpLe o
  case vicmpLtu o => exact Laws.Roundtrip.vicmpLtu o
  case vicmpLeu o => exact Laws.Roundtrip.vicmpLeu o
  case vsel o => exact Laws.Roundtrip.vsel o
  all_goals exact Laws.roundtrip_event rfl

end Sys2Proof
end

section
/-! PROOFS. Encode of decode (R42, R46, R48, R60): what a word's row owes, once for each format of the opcode map, and so for every
word that decodes. -/

namespace Sys2Proof

/-! ### Words and their fields -/

/-- A flag is the field of its one bit. -/
theorem ofBool_getLsbD {w : Nat} (v : BitVec w) (i : Nat) : BitVec.ofBool (v.getLsbD i) = v.extractLsb' i 1 := by
  apply BitVec.eq_of_getLsbD_eq
  intro j hj
  obtain rfl : j = 0 := by omega
  simp only [BitVec.getLsbD_ofBool, BitVec.getLsbD_extractLsb']
  simp

/-- The word of the fields of a word. -/
theorem RWord.toWord_ofWord (w : Word) : (RWord.ofWord w).toWord = w := by
  simp only [RWord.ofWord, RWord.toWord, ofBool_getLsbD, BitVec.extractLsb'_append_extractLsb'_eq_extractLsb']
  exact BitVec.extractLsb'_eq_self

/-- A number that its flag leaves out, and that is zero then, reads as it stands. -/
theorem getD_of_flag {n : Nat} {c : Bool} {v : BitVec n} (h : (!c && v != 0) = false) :
    (if c then some v else none).getD 0 = v := by
  cases c
  · exact (bne_eq_false_iff_eq.mp h).symm
  · rfl

/-- A number is there as its flag says. -/
theorem isSome_of_flag {α : Type} (c : Bool) (v : α) : (if c then some v else none).isSome = c := by cases c <;> rfl

/-- The fields of a tail word, end to end. -/
theorem tailFields_append (w : Word) :
    BitVec.ofBool (w.getLsbD 31) ++ w.extractLsb' 26 5 ++ BitVec.ofBool (w.getLsbD 25) ++ w.extractLsb' 20 5
      ++ BitVec.ofBool (w.getLsbD 19) ++ BitVec.ofBool (w.getLsbD 18) ++ w.extractLsb' 15 3 ++ w.extractLsb' 12 3
      ++ BitVec.ofBool (w.getLsbD 11) ++ w.extractLsb' 7 4 ++ w.extractLsb' 2 5 ++ w.extractLsb' 0 2 = w := by
  simp only [ofBool_getLsbD, BitVec.extractLsb'_append_extractLsb'_eq_extractLsb']
  exact BitVec.extractLsb'_eq_self

/-- A tail word that R48 does not refuse is the word of its fields. -/
theorem Tail.toWord_ofWord (w : Word) (h : tailBadField w = false) : (Tail.ofWord w).toWord = w := by
  simp only [tailBadField, Bool.or_eq_false_iff, Bool.and_or_distrib_left] at h
  obtain ⟨⟨⟨⟨hz, hw⟩, hg⟩, -⟩, hk, ht⟩ := h
  conv_rhs => rw [← tailFields_append w]
  simp only [Tail.toWord, Tail.ofWord, isSome_of_flag, getD_of_flag hw, getD_of_flag hg, apply_ite (Option.map _), Option.map_some,
    Option.map_none, getD_of_flag hk, getD_of_flag ht, bne_eq_false_iff_eq.mp hz]

/-- The fields of a tail word that R48 does not refuse are a tail that it takes. -/
theorem Tail.ofWord_wf (w : Word) (hs : tailBadScope w = false) (hf : tailBadField w = false) : (Tail.ofWord w).wf = true := by
  simp only [tailBadScope, decide_eq_false_iff_not] at hs
  simp only [tailBadField, Bool.or_eq_false_iff] at hf
  obtain ⟨⟨-, hscope⟩, -⟩ := hf
  simp only [Tail.wf, Tail.ofWord, Bool.and_eq_true]
  refine ⟨decide_eq_true (by omega), ?_⟩
  cases ha : w.getLsbD 19 <;> cases hl : w.getLsbD 18 <;> simp_all

/-! ### What a row owes -/

/-- Where a row refuses no field of a word nor of its tail, the instruction it builds is well formed, and its encoding is the
word's fields with that tail, in a map that the stream `x` reads. -/
def Row.EncodesBack (x : Bool) (r : RWord) (row : Row) : Prop :=
  row.badVal = false → row.badField = false → ∀ t : Option Tail, r.e = t.isSome → (t.isSome = true → row.tailed = true) →
    (∀ u ∈ t, u.wf = true ∧ row.badTail u = false) →
    (row.build r.s t).wf = true ∧ ∃ m : Option Bool, (∀ y ∈ m, y = x) ∧ encode (row.build r.s t) = some ⟨m, r, t⟩

/-- The same of the opcode map's answer, where it is a row. -/
def RowOr.EncodesBack (x : Bool) (r : RWord) (o : RowOr) : Prop := ∀ row, o = .ok row → row.EncodesBack x r

/-- A row that gives an instruction refuses nothing of the word nor of its tail (R48, R60). -/
theorem Row.decode_ok {row : Row} {r : RWord} {next : Word} {i : Instr} (h : row.decode r next = .ok i) :
    row.badVal = false ∧ row.badField = false ∧ ∃ t : Option Tail, r.e = t.isSome ∧ (t.isSome = true → row.tailed = true)
      ∧ (∀ u ∈ t, u.wf = true ∧ row.badTail u = false) ∧ (∀ u ∈ t, u.toWord = next) ∧ i = row.build r.s t := by
  unfold Row.decode at h
  split at h
  · cases h
  next hval =>
  split at h
  · cases h
  next htail =>
  split at h
  · cases h
  next hfield =>
  cases h
  cases he : r.e with
  | false =>
    simp only [he, Bool.false_and, Bool.or_false, Bool.not_eq_true] at hval hfield
    exact ⟨hval, hfield, none, rfl, nofun, nofun, nofun, rfl⟩
  | true =>
    simp only [he, Bool.true_and, Bool.not_eq_true, Bool.or_eq_false_iff, Bool.not_eq_false'] at hval htail hfield
    obtain ⟨hval, hscope⟩ := hval
    obtain ⟨hfield, htailField, hbad⟩ := hfield
    refine ⟨hval, hfield, some (Tail.ofWord next), rfl, fun _ => htail, ?_, ?_, rfl⟩
    · rintro _ ⟨⟩
      exact ⟨Tail.ofWord_wf next hscope htailField, hbad⟩
    · rintro _ ⟨⟩
      exact Tail.toWord_ofWord next htailField

section
variable {x : Bool} {r : RWord}

/-- A reserved major has no row. -/
theorem noMajor_encodesBack : noMajor.EncodesBack x r := fun _ h => nomatch h

/-- A reserved selector has no row. -/
theorem noSel_encodesBack : noSel.EncodesBack x r := fun _ h => nomatch h

/-- A row that takes no tail. -/
theorem encodesBack_plain {row : Row} (m : Option Bool) (hm : ∀ y ∈ m, y = x) (ht : row.tailed = false)
    (h : row.badVal = false → row.badField = false → r.e = false →
      (row.build r.s none).wf = true ∧ encode (row.build r.s none) = some ⟨m, r, none⟩) :
    RowOr.EncodesBack x r (.ok row) := by
  rintro _ ⟨⟩ hv hf t he htail -
  cases t with
  | none =>
    obtain ⟨hwf, henc⟩ := h hv hf he
    exact ⟨hwf, m, hm, henc⟩
  | some u => rw [ht] at htail; exact absurd (htail rfl) (by decide)

/-- A row of a queued command. -/
theorem encodesBack_tailed {row : Row}
    (h : row.badVal = false → row.badField = false → ∀ t : Option Tail, r.e = t.isSome →
      (∀ u ∈ t, u.wf = true ∧ row.badTail u = false) →
      (row.build r.s t).wf = true ∧ encode (row.build r.s t) = some ⟨some false, r, t⟩) :
    RowOr.EncodesBack false r (.ok row) := by
  rintro _ ⟨⟩ hv hf t he - ht
  obtain ⟨hwf, henc⟩ := h hv hf t he ht
  exact ⟨hwf, some false, by simp, henc⟩

/-! ### Fields put together again -/

/-- The bits of a number that is known. -/
theorem ofNat_of_toNat {w n : Nat} {v : BitVec w} (h : v.toNat = n) : BitVec.ofNat w n = v := by
  rw [← h, BitVec.ofNat_toNat, BitVec.setWidth_eq]

/-- fn of a selector and its modifier bits (R54). -/
theorem fnS_eq {n : Nat} {p : BitVec 5} (hs : r.sel = n) (hp : p = r.mods) : fnS (BitVec.ofNat 4 n) p = r.fn := by
  rw [hp, ofNat_of_toNat hs]
  simp only [fnS, RWord.mods, BitVec.extractLsb'_append_extractLsb'_eq_extractLsb']
  exact BitVec.extractLsb'_eq_self

/-- fn of a selector whose modifier bits are zero. -/
theorem fnS_zero {n : Nat} (hs : r.sel = n) (h : (r.mods != 0) = false) : fnS (BitVec.ofNat 4 n) 0 = r.fn :=
  fnS_eq hs (bne_eq_false_iff_eq.mp h).symm

/-- fn of format V (R58). -/
theorem fnV_eq {k : MaskReg} {a b : Bool} {op : BitVec 4} (hk : k = r.k) (ha : a = r.pa) (hb : b = r.pb)
    (hop : op = r.fn.extractLsb' 0 4) : fnV k a b op = r.fn := by
  rw [hk, ha, hb, hop]
  simp only [fnV, RWord.k, RWord.pa, RWord.pb, ofBool_getLsbD, BitVec.extractLsb'_append_extractLsb'_eq_extractLsb']
  exact BitVec.extractLsb'_eq_self

/-- The fields of an immediate over b and fn (R44). -/
theorem append14_fields (b : Reg) (fn : BitVec 9) : (b ++ fn).extractLsb' 9 5 = b ∧ (b ++ fn).extractLsb' 0 9 = fn := by
  simp (disch := decide) only [BitVec.extractLsb'_append_eq_of_le, BitVec.extractLsb'_append_eq_of_add_le]
  exact ⟨BitVec.extractLsb'_eq_self, BitVec.extractLsb'_eq_self⟩

/-- A word that takes no tail has the fields it was read from. -/
theorem encP_eq {m : Nat} {m0 : Option Bool} {d a b : Reg} {fn : BitVec 9} (hm : r.major.toNat = m) (hd : d = r.d) (ha : a = r.a)
    (hb : b = r.b) (hfn : fn = r.fn) (he : r.e = false) : encP m0 (BitVec.ofNat 6 m) d a b fn r.s = some ⟨m0, r, none⟩ := by
  rw [hd, ha, hb, hfn, ofNat_of_toNat hm, encP, ← he]

/-- A word with one field over [15:2] has the fields it was read from. -/
theorem encI_eq {m : Nat} {m0 : Option Bool} {d a : Reg} {imm : BitVec 14} (hm : r.major.toNat = m) (hd : d = r.d) (ha : a = r.a)
    (hi : imm = r.imm14) (he : r.e = false) : encI m0 (BitVec.ofNat 6 m) d a imm r.s = some ⟨m0, r, none⟩ := by
  obtain ⟨hb, hfn⟩ := append14_fields r.b r.fn
  subst hi
  exact encP_eq hm hd ha hb hfn he

/-- A queued command has the fields it was read from. -/
theorem encT_eq {m : Nat} {d a b : Reg} {fn : BitVec 9} {t : Option Tail} (hm : r.major.toNat = m) (hd : d = r.d) (ha : a = r.a)
    (hb : b = r.b) (hfn : fn = r.fn) (he : r.e = t.isSome) :
    encT (BitVec.ofNat 6 m) d a b fn t r.s = some ⟨some false, r, t⟩ := by
  rw [hd, ha, hb, hfn, ofNat_of_toNat hm, encT, ← he]

/-- The shared control subset is read in every stream (R55). -/
theorem shared_reads (x : Bool) : ∀ y ∈ (none : Option Bool), y = x := nofun

/-- A word of one stream is read in that stream. -/
theorem own_reads (x : Bool) : ∀ y ∈ some x, y = x := fun _ h => (Option.mem_some.mp h).symm

/-! ### R format (R44, R54) -/

section
variable {m : Nat} {m0 : Option Bool} {fn : BitVec 9} {mods val : Bool}

/-- R format with d, a and b. -/
theorem row3_encodesBack {c : R3 → Instr} (hm0 : ∀ y ∈ m0, y = x) (hm : r.major.toNat = m)
    (hfn : mods = false → val = false → fn = r.fn)
    (hc : ∀ o, encode (c o) = encP m0 (BitVec.ofNat 6 m) o.d o.a o.b fn o.stop)
    (hw : val = false → (c ⟨r.d, r.a, r.b, r.s⟩).wf = true) : (row3 c r mods val).EncodesBack x r :=
  encodesBack_plain m0 hm0 rfl fun hv hf he => ⟨hw hv, (hc _).trans (encP_eq hm rfl rfl rfl (hfn hf hv) he)⟩

/-- R format with d and a. -/
theorem row2_encodesBack {c : R2 → Instr} (hm0 : ∀ y ∈ m0, y = x) (hm : r.major.toNat = m)
    (hfn : mods = false → fn = r.fn) (hc : ∀ o, encode (c o) = encP m0 (BitVec.ofNat 6 m) o.d o.a 0 fn o.stop)
    (hw : ∀ o, (c o).wf = true) : (row2 c r mods).EncodesBack x r := by
  refine encodesBack_plain m0 hm0 rfl fun _ hf he => ⟨hw _, ?_⟩
  obtain ⟨hmods, hb⟩ := Bool.or_eq_false_iff.mp hf
  exact (hc _).trans (encP_eq hm rfl rfl (bne_eq_false_iff_eq.mp hb).symm (hfn hmods) he)

/-- R format with a and b. -/
theorem rowAB_encodesBack {c : RAB → Instr} (hm0 : ∀ y ∈ m0, y = x) (hm : r.major.toNat = m)
    (hfn : mods = false → val = false → fn = r.fn)
    (hc : ∀ o, encode (c o) = encP m0 (BitVec.ofNat 6 m) 0 o.a o.b fn o.stop)
    (hw : ∀ o, (c o).wf = true) : (rowAB c r mods val).EncodesBack x r := by
  refine encodesBack_plain m0 hm0 rfl fun hv hf he => ⟨hw _, ?_⟩
  obtain ⟨hmods, hd⟩ := Bool.or_eq_false_iff.mp hf
  exact (hc _).trans (encP_eq hm (bne_eq_false_iff_eq.mp hd).symm rfl rfl (hfn hmods hv) he)

/-- R format with d. -/
theorem rowD_encodesBack {c : RD → Instr} (hm0 : ∀ y ∈ m0, y = x) (hm : r.major.toNat = m)
    (hfn : mods = false → fn = r.fn) (hc : ∀ o, encode (c o) = encP m0 (BitVec.ofNat 6 m) o.d 0 0 fn o.stop)
    (hw : ∀ o, (c o).wf = true) : (rowD c r mods).EncodesBack x r := by
  refine encodesBack_plain m0 hm0 rfl fun _ hf he => ⟨hw _, ?_⟩
  simp only [Bool.or_eq_false_iff, bne_eq_false_iff_eq] at hf
  obtain ⟨⟨hmods, ha⟩, hb⟩ := hf
  exact (hc _).trans (encP_eq hm rfl ha.symm hb.symm (hfn hmods) he)

/-- R format with a. -/
theorem rowA_encodesBack {c : RA → Instr} (hm0 : ∀ y ∈ m0, y = x) (hm : r.major.toNat = m)
    (hfn : mods = false → fn = r.fn) (hc : ∀ o, encode (c o) = encP m0 (BitVec.ofNat 6 m) 0 o.a 0 fn o.stop)
    (hw : ∀ o, (c o).wf = true) : (rowA c r mods).EncodesBack x r := by
  refine encodesBack_plain m0 hm0 rfl fun _ hf he => ⟨hw _, ?_⟩
  simp only [Bool.or_eq_false_iff, bne_eq_false_iff_eq] at hf
  obtain ⟨⟨hmods, hd⟩, hb⟩ := hf
  exact (hc _).trans (encP_eq hm hd.symm rfl hb.symm (hfn hmods) he)

/-- R format with no operand. -/
theorem row0_encodesBack {c : R0 → Instr} (hm0 : ∀ y ∈ m0, y = x) (hm : r.major.toNat = m)
    (hfn : mods = false → fn = r.fn) (hc : ∀ o, encode (c o) = encP m0 (BitVec.ofNat 6 m) 0 0 0 fn o.stop)
    (hw : ∀ o, (c o).wf = true) : (row0 c r mods).EncodesBack x r := by
  refine encodesBack_plain m0 hm0 rfl fun _ hf he => ⟨hw _, ?_⟩
  simp only [Bool.or_eq_false_iff, bne_eq_false_iff_eq] at hf
  obtain ⟨⟨⟨hmods, hd⟩, ha⟩, hb⟩ := hf
  exact (hc _).trans (encP_eq hm hd.symm ha.symm hb.symm (hfn hmods) he)

/-- R format with a code in the modifier bits. -/
theorem rowCode_encodesBack {c : RCode → Instr} {n : Nat} (hm0 : ∀ y ∈ m0, y = x) (hm : r.major.toNat = m) (hs : r.sel = n)
    (hc : ∀ o, encode (c o) = encP m0 (BitVec.ofNat 6 m) 0 0 0 (fnS (BitVec.ofNat 4 n) o.code) o.stop)
    (hw : ∀ o, (c o).wf = true) : (rowCode c r).EncodesBack x r := by
  refine encodesBack_plain m0 hm0 rfl fun _ hf he => ⟨hw _, ?_⟩
  simp only [Bool.or_eq_false_iff, bne_eq_false_iff_eq] at hf
  obtain ⟨⟨hd, ha⟩, hb⟩ := hf
  exact (hc _).trans (encP_eq hm hd.symm ha.symm hb.symm (fnS_eq hs rfl) he)

/-- I format. -/
theorem rowI_encodesBack {c : RI → Instr} (hm0 : ∀ y ∈ m0, y = x) (hm : r.major.toNat = m)
    (hc : ∀ o, encode (c o) = encI m0 (BitVec.ofNat 6 m) o.d o.a o.imm o.stop) (hw : ∀ o, (c o).wf = true) :
    (rowI c r).EncodesBack x r :=
  encodesBack_plain m0 hm0 rfl fun _ _ he => ⟨hw _, (hc _).trans (encI_eq hm rfl rfl rfl he)⟩

/-- B format. -/
theorem rowB_encodesBack {c : RBr → Instr} (hm0 : ∀ y ∈ m0, y = x) (hm : r.major.toNat = m)
    (hc : ∀ o, encode (c o) = encI m0 (BitVec.ofNat 6 m) o.a o.b o.off o.stop) (hw : ∀ o, (c o).wf = true) :
    (rowB c r).EncodesBack x r :=
  encodesBack_plain m0 hm0 rfl fun _ _ he => ⟨hw _, (hc _).trans (encI_eq hm rfl rfl rfl he)⟩

end

/-! ### The shared control subset (R55, R56) -/

/-- Major 0. -/
theorem rowMajor0_encodesBack (hm : r.major.toNat = 0) : (rowMajor0 r).EncodesBack x r := by
  unfold rowMajor0
  split
  case h_24 => exact noSel_encodesBack
  case h_22 hn | h_23 hn =>
    exact row2_encodesBack (shared_reads x) hm (fun _ => ofNat_of_toNat hn) (fun _ => rfl) (fun _ => rfl)
  all_goals
    exact row3_encodesBack (shared_reads x) hm (fun _ _ => ofNat_of_toNat ‹_›) (fun _ => rfl) (fun _ => rfl)

/-- The fields of an immediate over d, a, b and fn (R44). -/
theorem append24_fields (d a b : Reg) (fn : BitVec 9) :
    (d ++ a ++ b ++ fn).extractLsb' 19 5 = d ∧ (d ++ a ++ b ++ fn).extractLsb' 14 5 = a
      ∧ (d ++ a ++ b ++ fn).extractLsb' 9 5 = b ∧ (d ++ a ++ b ++ fn).extractLsb' 0 9 = fn := by
  simp (disch := decide) only [BitVec.extractLsb'_append_eq_of_le, BitVec.extractLsb'_append_eq_of_add_le]
  exact ⟨BitVec.extractLsb'_eq_self, BitVec.extractLsb'_eq_self, BitVec.extractLsb'_eq_self, BitVec.extractLsb'_eq_self⟩

/-- The fields of an immediate over a, b and fn (R44). -/
theorem append19_fields (a b : Reg) (fn : BitVec 9) :
    (a ++ b ++ fn).extractLsb' 14 5 = a ∧ (a ++ b ++ fn).extractLsb' 9 5 = b ∧ (a ++ b ++ fn).extractLsb' 0 9 = fn := by
  simp (disch := decide) only [BitVec.extractLsb'_append_eq_of_le, BitVec.extractLsb'_append_eq_of_add_le]
  exact ⟨BitVec.extractLsb'_eq_self, BitVec.extractLsb'_eq_self, BitVec.extractLsb'_eq_self⟩

/-- The fields of an immediate over d and a. -/
theorem append10_fields (d a : Reg) : (d ++ a).extractLsb' 5 5 = d ∧ (d ++ a).extractLsb' 0 5 = a := by
  simp (disch := decide) only [BitVec.extractLsb'_append_eq_of_le, BitVec.extractLsb'_append_eq_of_add_le]
  exact ⟨BitVec.extractLsb'_eq_self, BitVec.extractLsb'_eq_self⟩

/-- A shift by an immediate: its op, six zeros and the amount. -/
theorem shiftImm_append (v : BitVec 14) : v.extractLsb' 12 2 ++ v.extractLsb' 6 6 ++ v.extractLsb' 0 6 = v := by
  simp only [BitVec.extractLsb'_append_extractLsb'_eq_extractLsb']
  exact BitVec.extractLsb'_eq_self

/-- A 13-bit immediate under an op bit. -/
theorem imm13_append (v : BitVec 14) : BitVec.ofBool (v.getLsbD 13) ++ v.extractLsb' 0 13 = v := by
  simp only [ofBool_getLsbD, BitVec.extractLsb'_append_extractLsb'_eq_extractLsb']
  exact BitVec.extractLsb'_eq_self

/-- A CSR number over an op that is known. -/
theorem csrImm_append {v : BitVec 14} {n : Nat} (hn : (v.extractLsb' 0 2).toNat = n) :
    v.extractLsb' 2 12 ++ BitVec.ofNat 2 n = v := by
  rw [ofNat_of_toNat hn]
  simp only [BitVec.extractLsb'_append_extractLsb'_eq_extractLsb']
  exact BitVec.extractLsb'_eq_self

/-- The scale shift of lea under seven zeros. -/
theorem leaShift_append {fn : BitVec 9} (h : fn.extractLsb' 2 7 = 0) : (0 : BitVec 7) ++ fn.extractLsb' 0 2 = fn := by
  rw [← h]
  simp only [BitVec.extractLsb'_append_extractLsb'_eq_extractLsb']
  exact BitVec.extractLsb'_eq_self

/-- U format. -/
theorem rowU_encodesBack {m : Nat} {c : RU → Instr} (hm : r.major.toNat = m)
    (hc : ∀ o, encode (c o) = encP none (BitVec.ofNat 6 m) o.d (o.imm.extractLsb' 14 5) (o.imm.extractLsb' 9 5)
      (o.imm.extractLsb' 0 9) o.stop) (hw : ∀ o, (c o).wf = true) : (rowU c r).EncodesBack x r := by
  obtain ⟨ha, hb, hfn⟩ := append19_fields r.a r.b r.fn
  exact encodesBack_plain none (shared_reads x) rfl fun _ _ he => ⟨hw _, (hc _).trans (encP_eq hm rfl ha hb hfn he)⟩

/-- A shift by an immediate. -/
theorem shiftRow_encodesBack {n : Nat} {c : RSh → Instr} (hm : r.major.toNat = 5) (hn : (r.imm14.extractLsb' 12 2).toNat = n)
    (hc : ∀ o, encode (c o) = encI none 5 o.d o.a (BitVec.ofNat 2 n ++ (0 : BitVec 6) ++ o.n) o.stop)
    (hw : ∀ o, (c o).wf = true) :
    RowOr.EncodesBack x r (.ok
      { build := fun s _ => c ⟨r.d, r.a, r.imm14.extractLsb' 0 6, s⟩, badField := r.imm14.extractLsb' 6 6 != 0 }) := by
  refine encodesBack_plain none (shared_reads x) rfl fun _ hf he => ⟨hw _, (hc _).trans (encI_eq hm rfl rfl ?_ he)⟩
  rw [ofNat_of_toNat hn, ← bne_eq_false_iff_eq.mp hf]
  exact shiftImm_append _

/-- Major 5. -/
theorem rowMajor5_encodesBack (hm : r.major.toNat = 5) : (rowMajor5 r).EncodesBack x r := by
  unfold rowMajor5
  dsimp only
  split
  case h_4 => exact noSel_encodesBack
  all_goals exact shiftRow_encodesBack hm ‹_› (fun _ => rfl) (fun _ => rfl)

/-- Major 6. -/
theorem rowMajor6_encodesBack (hm : r.major.toNat = 6) : (rowMajor6 r).EncodesBack x r := by
  have himm := imm13_append r.imm14
  unfold rowMajor6
  dsimp only
  split
  next h =>
    rw [h] at himm
    exact encodesBack_plain none (shared_reads x) rfl fun _ _ he => ⟨rfl, encI_eq hm rfl rfl himm he⟩
  next h =>
    rw [Bool.not_eq_true] at h
    rw [h] at himm
    exact encodesBack_plain none (shared_reads x) rfl fun _ _ he => ⟨rfl, encI_eq hm rfl rfl himm he⟩

/-- A CSR instruction with a source. -/
theorem csrRow_encodesBack {n : Nat} {c : RCsr → Instr} (hm : r.major.toNat = 21) (hn : (r.imm14.extractLsb' 0 2).toNat = n)
    (hc : ∀ o, encode (c o) = encI none 21 o.d o.a (o.csr ++ BitVec.ofNat 2 n) o.stop) (hw : ∀ o, (c o).wf = true) :
    RowOr.EncodesBack x r (.ok { build := fun s _ => c ⟨r.d, r.a, r.imm14.extractLsb' 2 12, s⟩ }) :=
  encodesBack_plain none (shared_reads x) rfl fun _ _ he => ⟨hw _, (hc _).trans (encI_eq hm rfl rfl (csrImm_append hn) he)⟩

/-- The last of four values. -/
theorem toNat_eq_three {v : BitVec 2} (h0 : v.toNat ≠ 0) (h1 : v.toNat ≠ 1) (h2 : v.toNat ≠ 2) : v.toNat = 3 := by omega

/-- Major 21. -/
theorem rowMajor21_encodesBack (hm : r.major.toNat = 21) : (rowMajor21 r).EncodesBack x r := by
  unfold rowMajor21
  dsimp only
  split
  case h_1 hn =>
    exact encodesBack_plain none (shared_reads x) rfl fun _ hf he =>
      ⟨rfl, encI_eq hm rfl (bne_eq_false_iff_eq.mp hf).symm (csrImm_append hn) he⟩
  case h_2 hn | h_3 hn => exact csrRow_encodesBack hm hn (fun _ => rfl) (fun _ => rfl)
  case h_4 _ h0 h1 h2 => exact csrRow_encodesBack hm (toNat_eq_three h0 h1 h2) (fun _ => rfl) (fun _ => rfl)

/-- The shared control subset. -/
theorem rowShared_encodesBack : (rowShared r).EncodesBack x r := by
  unfold rowShared
  split
  case h_1 hm => exact rowMajor0_encodesBack hm
  case h_2 hm | h_3 hm | h_4 hm | h_5 hm | h_18 hm => exact rowI_encodesBack (shared_reads x) hm (fun _ => rfl) (fun _ => rfl)
  case h_6 hm => exact rowMajor5_encodesBack hm
  case h_7 hm => exact rowMajor6_encodesBack hm
  case h_8 hm | h_9 hm => exact rowU_encodesBack hm (fun _ => rfl) (fun _ => rfl)
  case h_10 hm =>
    exact encodesBack_plain none (shared_reads x) rfl fun hv _ he =>
      ⟨rfl, encP_eq hm rfl rfl rfl (leaShift_append (bne_eq_false_iff_eq.mp hv)) he⟩
  case h_11 hm | h_12 hm | h_13 hm | h_14 hm | h_15 hm | h_16 hm =>
    exact rowB_encodesBack (shared_reads x) hm (fun _ => rfl) (fun _ => rfl)
  case h_17 hm =>
    obtain ⟨hd, ha, hb, hfn⟩ := append24_fields r.d r.a r.b r.fn
    exact encodesBack_plain none (shared_reads x) rfl fun _ _ he => ⟨rfl, encP_eq hm hd ha hb hfn he⟩
  case h_19 hm =>
    exact encodesBack_plain none (shared_reads x) rfl fun _ hf he =>
      ⟨rfl, encI_eq hm rfl (bne_eq_false_iff_eq.mp hf).symm rfl he⟩
  case h_20 hm =>
    obtain ⟨hd, ha⟩ := append10_fields r.d r.a
    exact encodesBack_plain none (shared_reads x) rfl fun hv _ he =>
      ⟨by simpa [Instr.wf, bne] using hv, encI_eq hm hd ha rfl he⟩
  case h_21 hm =>
    split
    case h_1 hs => exact rowA_encodesBack (shared_reads x) hm (fnS_zero hs) (fun _ => rfl) (fun _ => rfl)
    case h_2 hs => exact rowD_encodesBack (shared_reads x) hm (fnS_zero hs) (fun _ => rfl) (fun _ => rfl)
    case h_3 => exact noSel_encodesBack
  case h_22 hm => exact rowMajor21_encodesBack hm
  case h_23 hm =>
    split
    case h_1 hs | h_3 hs => exact row0_encodesBack (shared_reads x) hm (fnS_zero hs) (fun _ => rfl) (fun _ => rfl)
    case h_2 hs | h_4 hs => exact rowCode_encodesBack (shared_reads x) hm hs (fun _ => rfl) (fun _ => rfl)
    case h_5 hs => exact rowA_encodesBack (shared_reads x) hm (fnS_zero hs) (fun _ => rfl) (fun _ => rfl)
    case h_6 => exact noSel_encodesBack
  case h_24 => exact noMajor_encodesBack

/-! ### The C-stream (R57) -/

/-- One modifier bit. -/
theorem bit_append {v : BitVec 5} (h : v.extractLsb' 1 4 = 0) : (0 : BitVec 4) ++ BitVec.ofBool (v.getLsbD 0) = v := by
  revert v; decide

/-- A modifier bit that is set, alone. -/
theorem bit_set {v : BitVec 5} (h : v.extractLsb' 1 4 = 0) (h0 : v.getLsbD 0 = true) : 1 = v := by
  revert v; decide

/-- A modifier bit that is clear, alone. -/
theorem bit_clear {v : BitVec 5} (h : v.extractLsb' 1 4 = 0) (h0 : ¬v.getLsbD 0 = true) : 0 = v := by
  revert v; decide

/-- Three modifier bits. -/
theorem bits3_append {v : BitVec 5} (h : v.extractLsb' 3 2 = 0) :
    (0 : BitVec 2) ++ BitVec.ofBool (v.getLsbD 2) ++ BitVec.ofBool (v.getLsbD 1) ++ BitVec.ofBool (v.getLsbD 0) = v := by
  revert v; decide

/-- Two clear modifier bits above the rest. -/
theorem high_clear {v : BitVec 5} (h4 : v.getLsbD 4 = false) (h3 : ¬v.getLsbD 3 = true) : v.extractLsb' 3 2 = 0 := by
  revert v; decide

/-- mmul.smax: modifier bit 3 alone (R184). -/
theorem smax_bits {v : BitVec 5} (h4 : v.getLsbD 4 = false) (h3 : v.getLsbD 3 = true) (h : v.extractLsb' 0 3 = 0) : 8 = v := by
  revert v; decide

/-- The size and order bits of amo (R284). -/
theorem amo_append (v : BitVec 5) :
    BitVec.ofBool (v.getLsbD 4) ++ BitVec.ofBool (v.getLsbD 3) ++ BitVec.ofBool (v.getLsbD 2) ++ v.extractLsb' 0 2 = v := by
  revert v; decide

/-- A mode over a channel (R57). -/
theorem mode_append {v : BitVec 5} {n : Nat} (hn : (v.extractLsb' 3 2).toNat = n) :
    BitVec.ofNat 2 n ++ v.extractLsb' 0 3 = v := by
  rw [ofNat_of_toNat hn]
  clear hn
  revert v; decide

/-- The shape of a fusion (R188). -/
theorem shape_append {v : BitVec 5} (h : v.extractLsb' 2 3 = 0) : (0 : BitVec 3) ++ v.extractLsb' 0 2 = v := by
  revert v; decide

/-- The demotion bit of l2hint alone (R206). -/
theorem demote_bits {v : BitVec 5} (h : v.extractLsb' 0 2 = 0) (h4 : v.getLsbD 4 = false) (h3 : v.getLsbD 3 = false)
    (h2 : v.getLsbD 2 = true) : 4 = v := by
  revert v; decide

/-- No modifier bit of l2hint. -/
theorem hint_bits {v : BitVec 5} (h : v.extractLsb' 0 2 = 0) (h4 : v.getLsbD 4 = false) (h3 : v.getLsbD 3 = false)
    (h2 : ¬v.getLsbD 2 = true) : 0 = v := by
  revert v; decide

/-- The fields of ld and st over [15:2] (R206). -/
theorem memImm_append (v : BitVec 14) :
    BitVec.ofBool (v.getLsbD 13) ++ BitVec.ofBool (v.getLsbD 12) ++ v.extractLsb' 10 2 ++ v.extractLsb' 7 3 ++ v.extractLsb' 0 7
      = v := by
  simp only [ofBool_getLsbD, BitVec.extractLsb'_append_extractLsb'_eq_extractLsb']
  exact BitVec.extractLsb'_eq_self

/-- The mask and the scope of fence over four zeros (R57). -/
theorem fence_append {v : BitVec 15} (h : v.extractLsb' 0 4 = 0) :
    v.extractLsb' 7 8 ++ v.extractLsb' 4 3 ++ (0 : BitVec 4) = v := by
  rw [← h]
  simp only [BitVec.extractLsb'_append_extractLsb'_eq_extractLsb']
  exact BitVec.extractLsb'_eq_self

/-- The fields of an immediate over d, a and b (R57). -/
theorem append15_fields (d a b : Reg) :
    (d ++ a ++ b).extractLsb' 10 5 = d ∧ (d ++ a ++ b).extractLsb' 5 5 = a ∧ (d ++ a ++ b).extractLsb' 0 5 = b := by
  simp (disch := decide) only [BitVec.extractLsb'_append_eq_of_le, BitVec.extractLsb'_append_eq_of_add_le]
  exact ⟨BitVec.extractLsb'_eq_self, BitVec.extractLsb'_eq_self, BitVec.extractLsb'_eq_self⟩

/-- A tail that R48 takes. -/
theorem tailWf_of_taken {t : Option Tail} {bad : Tail → Bool} (h : ∀ u ∈ t, u.wf = true ∧ bad u = false) : tailWf t = true := by
  cases t with
  | none => rfl
  | some u => exact (h u rfl).1

/-- A tail that R48 takes without a stamp. -/
theorem tailUntimed_of_taken {t : Option Tail} (h : ∀ u ∈ t, u.wf = true ∧ u.timed.isSome = false) : tailUntimed t = true := by
  cases t with
  | none => rfl
  | some u => simpa [tailUntimed] using h u rfl

/-- A tail that R48 takes without a stamp and without a colour. -/
theorem tailUncoloured_of_taken {t : Option Tail}
    (h : ∀ u ∈ t, u.wf = true ∧ (u.timed.isSome || u.colour != 0) = false) : tailUncoloured t = true := by
  cases t with
  | none => rfl
  | some u => simpa [tailUncoloured, and_assoc] using h u rfl

/-- A tail with semaphores only. -/
theorem tailSems_of_taken {t : Option Tail}
    (h : ∀ u ∈ t, u.wf = true ∧ (u.acquire || u.release || u.scope != 0 || u.colour != 0 || u.timed.isSome) = false) :
    tailSems t = true := by
  cases t with
  | none => rfl
  | some u => simpa [tailSems, and_assoc] using (h u rfl).2

/-- A row that also refuses a value. -/
theorem refusing_encodesBack {o : RowOr} {bad : Bool} (h : bad = false → o.EncodesBack x r) : (o.refusing bad).EncodesBack x r := by
  cases o with
  | error f => exact fun _ h => nomatch h
  | ok row =>
    rintro _ ⟨⟩ hv hf
    obtain ⟨hv, hbad⟩ := Bool.or_eq_false_iff.mp hv
    exact h hbad row rfl hv hf

/-- The scope of an amo goes with acquire or release (R284). -/
theorem amo_scope_ok {a l : Bool} {s : BitVec 2} (h : (!a && !l && s != 0) = false) : (a || l || s == 0) = true := by
  revert h; cases a <;> cases l <;> simp

/-- An integer amo. -/
theorem amoRow_encodesBack {n : Nat} {c : RAmo → Instr} (hm : r.major.toNat = 34) (hs : r.sel = n)
    (hc : ∀ o, encode (c o) = encAmo o (BitVec.ofNat 4 n)) (hw : ∀ o, (c o).wf = o.wf) :
    RowOr.EncodesBack false r (.ok
      { build := fun s _ => c ⟨r.d, r.a, r.b, r.mods.getLsbD 4, r.mods.getLsbD 3, r.mods.getLsbD 2, r.mods.extractLsb' 0 2, s⟩
        badField := !r.mods.getLsbD 3 && !r.mods.getLsbD 2 && r.mods.extractLsb' 0 2 != 0 }) :=
  encodesBack_plain (some false) (own_reads false) rfl fun _ hf he =>
    ⟨(hw _).trans (amo_scope_ok hf), (hc _).trans (encP_eq hm rfl rfl rfl (fnS_eq hs (amo_append _)) he)⟩

/-- An FP32 amo. -/
theorem amoFRow_encodesBack {n : Nat} {c : RAmoF → Instr} (hm : r.major.toNat = 34) (hs : r.sel = n)
    (hc : ∀ o, encode (c o) = encAmoF o (BitVec.ofNat 4 n)) (hw : ∀ o, (c o).wf = o.wf) :
    RowOr.EncodesBack false r (.ok
      { build := fun s _ => c ⟨r.d, r.a, r.b, r.mods.getLsbD 3, r.mods.getLsbD 2, r.mods.extractLsb' 0 2, s⟩
        badVal := r.mods.getLsbD 4
        badField := !r.mods.getLsbD 3 && !r.mods.getLsbD 2 && r.mods.extractLsb' 0 2 != 0 }) := by
  refine encodesBack_plain (some false) (own_reads false) rfl fun hv hf he => ⟨(hw _).trans (amo_scope_ok hf), ?_⟩
  have hmods := amo_append r.mods
  rw [show r.mods.getLsbD 4 = false from hv] at hmods
  exact (hc _).trans (encP_eq hm rfl rfl rfl (fnS_eq hs hmods) he)

/-- Major 34. -/
theorem rowMajor34_encodesBack (hm : r.major.toNat = 34) : (rowMajor34 r).EncodesBack false r := by
  unfold rowMajor34
  dsimp only
  split
  case h_14 => exact noSel_encodesBack
  case h_11 hs | h_12 hs | h_13 hs => exact amoFRow_encodesBack hm hs (fun _ => rfl) (fun _ => rfl)
  all_goals exact amoRow_encodesBack hm ‹_› (fun _ => rfl) (fun _ => rfl)

/-- Major 35. -/
theorem rowMajor35_encodesBack (hm : r.major.toNat = 35) : (rowMajor35 r).EncodesBack false r := by
  unfold rowMajor35
  dsimp only
  split
  case h_1 hs =>
    refine encodesBack_plain (some false) (own_reads false) rfl fun hv hf he => ?_
    simp only [Bool.or_eq_false_iff, bne_eq_false_iff_eq] at hf
    obtain ⟨hzero, hmods⟩ := hf
    obtain ⟨hd, ha, hb⟩ := append15_fields r.d r.a r.b
    rw [← fence_append hzero] at hd ha hb
    exact ⟨decide_eq_true (Nat.le_of_not_lt (of_decide_eq_false hv)), encP_eq hm hd ha hb (fnS_eq hs hmods.symm) he⟩
  case h_2 hs | h_3 hs =>
    exact rowAB_encodesBack (own_reads false) hm (fun h _ => fnS_zero hs h) (fun _ => rfl) (fun _ => rfl)
  case h_4 hs =>
    split
    next h2 =>
      refine rowAB_encodesBack (own_reads false) hm (fun hother h3 => fnS_eq hs ?_) (fun _ => rfl) (fun _ => rfl)
      obtain ⟨hlow, h4⟩ := Bool.or_eq_false_iff.mp hother
      exact demote_bits (bne_eq_false_iff_eq.mp hlow) h4 h3 h2
    next h2 =>
      refine rowAB_encodesBack (own_reads false) hm (fun hother h3 => fnS_eq hs ?_) (fun _ => rfl) (fun _ => rfl)
      obtain ⟨hlow, h4⟩ := Bool.or_eq_false_iff.mp hother
      exact hint_bits (bne_eq_false_iff_eq.mp hlow) h4 h3 h2
  case h_5 => exact noSel_encodesBack

/-- A copy command. -/
theorem copyRow_encodesBack {n k : Nat} {c : CCopy → Instr} {bad : Bool} (hm : r.major.toNat = 37) (hs : r.sel = n)
    (hmode : bad = false → (r.mods.extractLsb' 3 2).toNat = k)
    (hc : ∀ o, encode (c o) = encCopy o (BitVec.ofNat 4 n) (BitVec.ofNat 2 k)) (hw : ∀ o, (c o).wf = tailWf o.tail) :
    RowOr.EncodesBack false r (.ok
      { build := fun s t => c ⟨r.d, r.a, r.b, r.mods.extractLsb' 0 3, t, s⟩, tailed := true, badField := bad }) :=
  encodesBack_tailed fun _ hf _ he ht =>
    ⟨(hw _).trans (tailWf_of_taken ht),
      (hc _).trans (encT_eq hm rfl rfl rfl (fnS_eq hs (mode_append (hmode hf))) he)⟩

/-- Major 37. -/
theorem rowMajor37_encodesBack (hm : r.major.toNat = 37) : (rowMajor37 r).EncodesBack false r := by
  unfold rowMajor37
  dsimp only
  split
  case h_1 hs | h_3 hs =>
    split
    case h_4 => exact noSel_encodesBack
    all_goals exact copyRow_encodesBack hm hs (fun _ => ‹_›) (fun _ => rfl) (fun _ => rfl)
  case h_2 hs => exact copyRow_encodesBack hm hs (fun h => bne_eq_false_iff_eq.mp h) (fun _ => rfl) (fun _ => rfl)
  case h_4 hs =>
    refine encodesBack_plain (some false) (own_reads false) rfl fun _ hf he => ⟨rfl, ?_⟩
    simp only [Bool.or_eq_false_iff, bne_eq_false_iff_eq] at hf
    obtain ⟨⟨⟨hd, ha⟩, hb⟩, hmode⟩ := hf
    exact encP_eq hm hd.symm ha.symm hb.symm (fnS_eq hs (mode_append hmode)) he
  case h_5 hs =>
    refine encodesBack_plain (some false) (own_reads false) rfl fun _ hf he => ⟨rfl, ?_⟩
    simp only [Bool.or_eq_false_iff, bne_eq_false_iff_eq] at hf
    obtain ⟨⟨ha, hb⟩, hrest⟩ := hf
    exact encP_eq hm rfl ha.symm hb.symm (fnS_eq hs (bit_append hrest)) he
  case h_6 hs =>
    refine encodesBack_plain (some false) (own_reads false) rfl fun _ hf he => ⟨rfl, ?_⟩
    simp only [Bool.or_eq_false_iff, bne_eq_false_iff_eq] at hf
    obtain ⟨hb, hmode⟩ := hf
    exact encP_eq hm rfl rfl hb.symm (fnS_eq hs (mode_append hmode)) he
  case h_7 => exact noSel_encodesBack

/-- Major 38. -/
theorem rowMajor38_encodesBack (hm : r.major.toNat = 38) : (rowMajor38 r).EncodesBack false r := by
  unfold rowMajor38
  dsimp only
  split
  case h_1 hs =>
    refine encodesBack_tailed fun _ hf _ he ht => ⟨tailWf_of_taken ht, ?_⟩
    simp only [Bool.or_eq_false_iff, bne_eq_false_iff_eq] at hf
    obtain ⟨⟨ha, hb⟩, hrest⟩ := hf
    exact encT_eq hm rfl ha.symm hb.symm (fnS_eq hs (bit_append hrest)) he
  case h_2 hs =>
    refine encodesBack_tailed fun _ hf _ he ht => ⟨tailWf_of_taken ht, ?_⟩
    simp only [Bool.or_eq_false_iff, bne_eq_false_iff_eq] at hf
    obtain ⟨⟨⟨hd, ha⟩, hb⟩, hmods⟩ := hf
    exact encT_eq hm hd.symm ha.symm hb.symm (fnS_eq hs hmods.symm) he
  case h_3 hs =>
    split
    next h3 =>
      refine encodesBack_tailed fun hv hf _ he ht => ⟨tailWf_of_taken ht, ?_⟩
      exact encT_eq hm rfl rfl rfl (fnS_eq hs (smax_bits hf h3 (bne_eq_false_iff_eq.mp hv))) he
    next h3 =>
      refine encodesBack_tailed fun _ hf _ he ht => ⟨tailWf_of_taken ht, ?_⟩
      obtain ⟨hb, h4⟩ := Bool.or_eq_false_iff.mp hf
      exact encT_eq hm rfl rfl (bne_eq_false_iff_eq.mp hb).symm (fnS_eq hs (bits3_append (high_clear h4 h3))) he
  case h_4 hs =>
    refine encodesBack_tailed fun _ hf _ he ht => ⟨tailWf_of_taken ht, ?_⟩
    simp only [Bool.or_eq_false_iff, bne_eq_false_iff_eq] at hf
    obtain ⟨hb, hrest⟩ := hf
    exact encT_eq hm rfl rfl hb.symm (fnS_eq hs (bits3_append hrest)) he
  case h_5 hs =>
    refine encodesBack_tailed fun _ hf _ he ht => ⟨tailWf_of_taken ht, ?_⟩
    simp only [Bool.or_eq_false_iff, bne_eq_false_iff_eq] at hf
    obtain ⟨⟨ha, hb⟩, hmods⟩ := hf
    exact encT_eq hm rfl ha.symm hb.symm (fnS_eq hs hmods.symm) he
  case h_6 hs =>
    split
    next h0 =>
      refine encodesBack_tailed fun _ hf _ he ht => ⟨tailWf_of_taken ht, ?_⟩
      simp only [Bool.or_eq_false_iff, bne_eq_false_iff_eq] at hf
      obtain ⟨⟨hd, hb⟩, hrest⟩ := hf
      exact encT_eq hm hd.symm rfl hb.symm (fnS_eq hs (bit_set hrest h0)) he
    next h0 =>
      refine encodesBack_tailed fun _ hf _ he ht => ⟨tailWf_of_taken ht, ?_⟩
      simp only [Bool.or_eq_false_iff, bne_eq_false_iff_eq] at hf
      obtain ⟨hb, hrest⟩ := hf
      exact encT_eq hm rfl rfl hb.symm (fnS_eq hs (bit_clear hrest h0)) he
  case h_7 hs =>
    exact encodesBack_tailed fun _ hf _ he ht => ⟨tailWf_of_taken ht, encT_eq hm rfl rfl rfl (fnS_zero hs hf) he⟩
  case h_8 hs =>
    split
    next hshape =>
      refine encodesBack_tailed fun _ hf _ he ht => ⟨tailWf_of_taken ht, ?_⟩
      simp only [Bool.or_eq_false_iff, bne_eq_false_iff_eq] at hf
      obtain ⟨⟨⟨hd, ha⟩, hb⟩, hrest⟩ := hf
      have hmods := shape_append hrest
      rw [eq_of_beq hshape] at hmods
      exact encT_eq hm hd.symm ha.symm hb.symm (fnS_eq hs hmods) he
    next hshape =>
      refine encodesBack_tailed fun _ hf _ he ht => ⟨?_, ?_⟩
      · exact Bool.and_eq_true_iff.mpr ⟨tailWf_of_taken ht, by simpa [bne] using hshape⟩
      · simp only [Bool.or_eq_false_iff, bne_eq_false_iff_eq] at hf
        obtain ⟨⟨⟨hd, ha⟩, hb⟩, hrest⟩ := hf
        exact encT_eq hm hd.symm ha.symm hb.symm (fnS_eq hs (shape_append hrest)) he
  case h_9 => exact noSel_encodesBack

/-- The fields of ld and st where bit [15] is clear. -/
theorem memImm_eq {v : BitVec 14} (h13 : v.getLsbD 13 = false) :
    (0 : BitVec 1) ++ BitVec.ofBool (v.getLsbD 12) ++ v.extractLsb' 10 2 ++ v.extractLsb' 7 3 ++ v.extractLsb' 0 7 = v := by
  have h := memImm_append v
  rwa [h13] at h

/-- Major 32: ld (R57). -/
theorem rowC_ld (hm : r.major.toNat = 32) : (rowC r).EncodesBack false r := by
  have hown := own_reads false
  simp only [rowC, hm]
  refine encodesBack_plain (some false) hown rfl fun hv hf he => ⟨congrArg not hv, ?_⟩
  obtain ⟨h13, hzero⟩ := Bool.or_eq_false_iff.mp hf
  have himm := memImm_eq h13
  rw [bne_eq_false_iff_eq.mp hzero] at himm
  exact encI_eq hm rfl rfl himm he

/-- Major 33: st (R57). -/
theorem rowC_st (hm : r.major.toNat = 33) : (rowC r).EncodesBack false r := by
  have hown := own_reads false
  simp only [rowC, hm]
  refine encodesBack_plain (some false) hown rfl fun _ hf he => ?_
  obtain ⟨h13, hcolour⟩ := Bool.or_eq_false_iff.mp hf
  exact ⟨by simpa [Instr.wf, bne, Decidable.imp_iff_not_or] using hcolour, encI_eq hm rfl rfl (memImm_eq h13) he⟩

/-- Major 36: The moves between the scratchpad and the queues (R57). -/
theorem rowC_queueMoves (hm : r.major.toNat = 36) : (rowC r).EncodesBack false r := by
  have hown := own_reads false
  simp only [rowC, hm]
  split
  case h_4 => exact noSel_encodesBack
  all_goals
    exact row3_encodesBack hown hm (fun h _ => fnS_zero ‹_› h) (fun _ => rfl) (fun h => Bool.not_eq_eq_eq_not.mp h)

/-- Major 39: attn (R57). -/
theorem rowC_attn (hm : r.major.toNat = 39) : (rowC r).EncodesBack false r := by
  simp only [rowC, hm]
  split
  case h_2 => exact noSel_encodesBack
  next hs =>
  refine encodesBack_tailed fun _ hf _ he ht => ⟨tailUntimed_of_taken ht, ?_⟩
  simp only [Bool.or_eq_false_iff] at hf
  obtain ⟨⟨ha, hb⟩, hmods⟩ := hf
  exact encT_eq hm rfl (bne_eq_false_iff_eq.mp ha).symm (bne_eq_false_iff_eq.mp hb).symm (fnS_zero hs hmods) he

/-- Major 40: The handle instructions (R57). -/
theorem rowC_handles (hm : r.major.toNat = 40) : (rowC r).EncodesBack false r := by
  have hown := own_reads false
  simp only [rowC, hm]
  split
  case h_4 => exact noSel_encodesBack
  all_goals exact row3_encodesBack hown hm (fun _ h => fnS_zero ‹_› h) (fun _ => rfl) (fun _ => rfl)

/-- Major 41: The block allocator's instructions and bkfill (R57). -/
theorem rowC_blocks (hm : r.major.toNat = 41) : (rowC r).EncodesBack false r := by
  have hown := own_reads false
  simp only [rowC, hm]
  split
  case h_2 hs => exact row2_encodesBack hown hm (fnS_zero hs) (fun _ => rfl) (fun _ => rfl)
  case h_6 hs =>
    exact encodesBack_tailed fun _ hf _ he ht => ⟨tailSems_of_taken ht, encT_eq hm rfl rfl rfl (fnS_zero hs hf) he⟩
  case h_7 => exact noSel_encodesBack
  all_goals exact row3_encodesBack hown hm (fun h _ => fnS_zero ‹_› h) (fun _ => rfl) (fun _ => rfl)

/-- Major 42: The adapter instructions (R57). -/
theorem rowC_adapters (hm : r.major.toNat = 42) : (rowC r).EncodesBack false r := by
  have hown := own_reads false
  simp only [rowC, hm]
  split
  case h_1 hs =>
    exact refusing_encodesBack fun h => row2_encodesBack hown hm (fun _ => fnS_zero hs h) (fun _ => rfl) (fun _ => rfl)
  case h_3 hs =>
    exact refusing_encodesBack fun h => rowA_encodesBack hown hm (fun _ => fnS_zero hs h) (fun _ => rfl) (fun _ => rfl)
  case h_6 => exact noSel_encodesBack
  all_goals exact row3_encodesBack hown hm (fun _ h => fnS_zero ‹_› h) (fun _ => rfl) (fun _ => rfl)

/-- Major 43: probe and pinv (R57). -/
theorem rowC_probes (hm : r.major.toNat = 43) : (rowC r).EncodesBack false r := by
  have hown := own_reads false
  simp only [rowC, hm]
  have himm := imm13_append r.imm14
  split
  next h13 =>
    refine encodesBack_plain (some false) hown rfl fun _ hf he => ⟨rfl, ?_⟩
    rw [h13, bne_eq_false_iff_eq.mp hf] at himm
    exact encI_eq hm rfl rfl himm he
  next h13 =>
    rw [Bool.not_eq_true] at h13
    rw [h13] at himm
    exact encodesBack_plain (some false) hown rfl fun _ _ he => ⟨rfl, encI_eq hm rfl rfl himm he⟩

/-- Major 44: The phaser instructions (R57). -/
theorem rowC_phasers (hm : r.major.toNat = 44) : (rowC r).EncodesBack false r := by
  have hown := own_reads false
  simp only [rowC, hm]
  split
  case h_1 hs => exact rowAB_encodesBack hown hm (fun h _ => fnS_zero hs h) (fun _ => rfl) (fun _ => rfl)
  case h_6 hs =>
    split
    next h0 =>
      exact row2_encodesBack hown hm (fun h => fnS_eq hs (bit_set (bne_eq_false_iff_eq.mp h) h0)) (fun _ => rfl) (fun _ => rfl)
    next h0 => exact row2_encodesBack hown hm (fnS_zero hs) (fun _ => rfl) (fun _ => rfl)
  case h_7 => exact noSel_encodesBack
  all_goals exact rowA_encodesBack hown hm (fnS_zero ‹_›) (fun _ => rfl) (fun _ => rfl)

/-- Major 45: The semaphore instructions (R57). -/
theorem rowC_semaphores (hm : r.major.toNat = 45) : (rowC r).EncodesBack false r := by
  have hown := own_reads false
  simp only [rowC, hm]
  split
  case h_1 hs =>
    refine encodesBack_plain (some false) hown rfl fun _ hf he => ⟨rfl, ?_⟩
    exact encP_eq hm (bne_eq_false_iff_eq.mp hf).symm rfl rfl (fnS_eq hs rfl) he
  case h_2 hs | h_3 hs =>
    refine encodesBack_plain (some false) hown rfl fun _ hf he => ⟨rfl, ?_⟩
    simp only [Bool.or_eq_false_iff, bne_eq_false_iff_eq] at hf
    obtain ⟨⟨hd, ha⟩, hb⟩ := hf
    exact encP_eq hm hd.symm ha.symm hb.symm (fnS_eq hs rfl) he
  case h_4 hs =>
    refine encodesBack_plain (some false) hown rfl fun _ hf he => ⟨rfl, ?_⟩
    simp only [Bool.or_eq_false_iff, bne_eq_false_iff_eq] at hf
    obtain ⟨ha, hb⟩ := hf
    exact encP_eq hm rfl ha.symm hb.symm (fnS_eq hs rfl) he
  case h_5 => exact noSel_encodesBack

/-- Major 46: The node instructions (R57). -/
theorem rowC_nodes (hm : r.major.toNat = 46) : (rowC r).EncodesBack false r := by
  have hown := own_reads false
  simp only [rowC, hm]
  split
  case h_1 hs | h_3 hs | h_6 hs =>
    exact rowAB_encodesBack hown hm (fun h _ => fnS_zero hs h) (fun _ => rfl) (fun _ => rfl)
  case h_2 hs =>
    split
    next h0 =>
      exact rowA_encodesBack hown hm (fun h => fnS_eq hs (bit_set (bne_eq_false_iff_eq.mp h) h0)) (fun _ => rfl) (fun _ => rfl)
    next h0 => exact row0_encodesBack hown hm (fnS_zero hs) (fun _ => rfl) (fun _ => rfl)
  case h_4 hs => exact row3_encodesBack hown hm (fun h _ => fnS_zero hs h) (fun _ => rfl) (fun _ => rfl)
  case h_5 hs =>
    split
    next h0 =>
      exact row2_encodesBack hown hm (fun h => fnS_eq hs (bit_set (bne_eq_false_iff_eq.mp h) h0)) (fun _ => rfl) (fun _ => rfl)
    next h0 => exact row2_encodesBack hown hm (fnS_zero hs) (fun _ => rfl) (fun _ => rfl)
  case h_7 hs => exact row0_encodesBack hown hm (fnS_zero hs) (fun _ => rfl) (fun _ => rfl)
  case h_8 => exact noSel_encodesBack

/-- Major 47: The table instructions (R57). -/
theorem rowC_tables (hm : r.major.toNat = 47) : (rowC r).EncodesBack false r := by
  have hown := own_reads false
  simp only [rowC, hm]
  split
  case h_1 hs =>
    refine encodesBack_tailed fun _ hf _ he ht => ⟨tailUncoloured_of_taken ht, ?_⟩
    simp only [Bool.or_eq_false_iff, bne_eq_false_iff_eq] at hf
    obtain ⟨hb, hrest⟩ := hf
    exact encT_eq hm rfl rfl hb.symm (fnS_eq hs (bit_append hrest)) he
  case h_2 hs =>
    split
    next h0 =>
      refine encodesBack_tailed fun _ hf _ he ht => ⟨tailUntimed_of_taken ht, ?_⟩
      simp only [Bool.or_eq_false_iff, bne_eq_false_iff_eq] at hf
      obtain ⟨⟨hd, hb⟩, hrest⟩ := hf
      exact encT_eq hm hd.symm rfl hb.symm (fnS_eq hs (bit_set hrest h0)) he
    next h0 =>
      refine encodesBack_tailed fun _ hf _ he ht => ⟨tailUntimed_of_taken ht, ?_⟩
      simp only [Bool.or_eq_false_iff, bne_eq_false_iff_eq] at hf
      obtain ⟨⟨hd, hb⟩, hrest⟩ := hf
      exact encT_eq hm hd.symm rfl hb.symm (fnS_eq hs (bit_clear hrest h0)) he
  case h_3 hs => exact row2_encodesBack hown hm (fnS_zero hs) (fun _ => rfl) (fun _ => rfl)
  case h_4 => exact noSel_encodesBack

/-- The majors of the C-stream's map. -/
theorem rowC_reserved (r : RWord) : rowC r = noMajor ∨ (32 ≤ r.major.toNat ∧ r.major.toNat < 48) := by
  unfold rowC
  dsimp only
  split
  case h_17 => exact .inl rfl
  all_goals exact .inr (by omega)

/-- The C-stream's map. -/
theorem rowC_encodesBack : (rowC r).EncodesBack false r := by
  rcases rowC_reserved r with h | ⟨hlow, hhigh⟩
  · rw [h]
    exact noMajor_encodesBack
  · interval_cases hm : r.major.toNat
    · exact rowC_ld hm
    · exact rowC_st hm
    · simpa only [rowC, hm] using rowMajor34_encodesBack hm
    · simpa only [rowC, hm] using rowMajor35_encodesBack hm
    · exact rowC_queueMoves hm
    · simpa only [rowC, hm] using rowMajor37_encodesBack hm
    · simpa only [rowC, hm] using rowMajor38_encodesBack hm
    · exact rowC_attn hm
    · exact rowC_handles hm
    · exact rowC_blocks hm
    · exact rowC_adapters hm
    · exact rowC_probes hm
    · exact rowC_phasers hm
    · exact rowC_semaphores hm
    · exact rowC_nodes hm
    · exact rowC_tables hm

/-! ### Format V (R58, R114) -/

section
variable {m n : Nat}

/-- Two source queues. -/
theorem rowV3_encodesBack {c : V3 → Instr} (hm : r.major.toNat = m) (ho : r.op = n)
    (hc : ∀ o, encode (c o) = encV3 (BitVec.ofNat 6 m) o (BitVec.ofNat 4 n)) (hw : ∀ o, (c o).wf = o.wf) :
    (rowV3 c r).EncodesBack true r :=
  encodesBack_plain (some true) (own_reads true) rfl fun hv _ he =>
    ⟨(hw _).trans (Bool.not_eq_eq_eq_not.mp hv),
      (hc _).trans (encP_eq hm rfl rfl rfl (fnV_eq rfl rfl rfl (ofNat_of_toNat ho)) he)⟩

/-- One source queue. -/
theorem rowV2_encodesBack {c : V2 → Instr} (hm : r.major.toNat = m) (ho : r.op = n)
    (hc : ∀ o, encode (c o) = encV2 (BitVec.ofNat 6 m) o (BitVec.ofNat 4 n)) (hw : ∀ o, (c o).wf = o.wf) :
    (rowV2 c r).EncodesBack true r := by
  refine encodesBack_plain (some true) (own_reads true) rfl fun hv hf he =>
    ⟨(hw _).trans (Bool.not_eq_eq_eq_not.mp hv), ?_⟩
  obtain ⟨hb, hpb⟩ := Bool.or_eq_false_iff.mp hf
  exact (hc _).trans
    (encP_eq hm rfl rfl (bne_eq_false_iff_eq.mp hb).symm (fnV_eq rfl rfl hpb.symm (ofNat_of_toNat ho)) he)

/-- One source queue and a number or scalar in vb. -/
theorem rowV2n_encodesBack {c : V2n → Instr} {bad pb : Bool} (hm : r.major.toNat = m) (ho : r.op = n)
    (hpb : bad = false → pb = r.pb)
    (hc : ∀ o, encode (c o) = encV2n (BitVec.ofNat 6 m) o pb (BitVec.ofNat 4 n)) (hw : ∀ o, (c o).wf = o.wf) :
    (rowV2n c r bad).EncodesBack true r :=
  encodesBack_plain (some true) (own_reads true) rfl fun hv hf he =>
    ⟨(hw _).trans (Bool.not_eq_eq_eq_not.mp hv),
      (hc _).trans (encP_eq hm rfl rfl rfl (fnV_eq rfl rfl (hpb hf) (ofNat_of_toNat ho)) he)⟩

/-- A mask or part number in a field whose upper bits are zero. -/
theorem maskField_eq {v : Reg} (h : v.extractLsb' 3 2 = 0) : maskField (v.extractLsb' 0 3) = v := by
  revert v; decide

/-- Two source queues and a destination mask. -/
theorem rowVCmp_encodesBack {c : VCmp → Instr} (hm : r.major.toNat = m) (ho : r.op = n)
    (hc : ∀ o, encode (c o) = encVCmp (BitVec.ofNat 6 m) o (BitVec.ofNat 4 n)) (hw : ∀ o, (c o).wf = o.wf) :
    (rowVCmp c r).EncodesBack true r :=
  encodesBack_plain (some true) (own_reads true) rfl fun hv hf he =>
    ⟨(hw _).trans (Bool.not_eq_eq_eq_not.mp hv),
      (hc _).trans (encP_eq hm (maskField_eq (bne_eq_false_iff_eq.mp hf)) rfl rfl
        (fnV_eq rfl rfl rfl (ofNat_of_toNat ho)) he)⟩

/-- Three masks. -/
theorem rowK3_encodesBack {c : K3 → Instr} (hm : r.major.toNat = 42) (ho : r.op = n)
    (hc : ∀ o, encode (c o) = encK3 o (BitVec.ofNat 4 n)) (hw : ∀ o, (c o).wf = maskW o.d) :
    (rowK3 c r).EncodesBack true r := by
  refine encodesBack_plain (some true) (own_reads true) rfl fun hv hf he =>
    ⟨(hw _).trans (Bool.not_eq_eq_eq_not.mp hv), ?_⟩
  simp only [Bool.or_eq_false_iff, bne_eq_false_iff_eq] at hf
  obtain ⟨⟨⟨⟨⟨hd, ha⟩, hb⟩, hk⟩, hpa⟩, hpb⟩ := hf
  exact (hc _).trans (encP_eq hm (maskField_eq hd) (maskField_eq ha) (maskField_eq hb)
    (fnV_eq hk.symm hpa.symm hpb.symm (ofNat_of_toNat ho)) he)

/-- Two masks. -/
theorem rowK2_encodesBack {c : K2 → Instr} (hm : r.major.toNat = 42) (ho : r.op = n)
    (hc : ∀ o, encode (c o) =
      encP (some true) 42 (maskField o.d) (maskField o.a) 0 (fnV 0 false false (BitVec.ofNat 4 n)) o.stop)
    (hw : ∀ o, (c o).wf = maskW o.d) : (rowK2 c r).EncodesBack true r := by
  refine encodesBack_plain (some true) (own_reads true) rfl fun hv hf he =>
    ⟨(hw _).trans (Bool.not_eq_eq_eq_not.mp hv), ?_⟩
  simp only [Bool.or_eq_false_iff, bne_eq_false_iff_eq] at hf
  obtain ⟨⟨⟨⟨⟨hd, ha⟩, hb⟩, hk⟩, hpa⟩, hpb⟩ := hf
  exact (hc _).trans (encP_eq hm (maskField_eq hd) (maskField_eq ha) hb.symm
    (fnV_eq hk.symm hpa.symm hpb.symm (ofNat_of_toNat ho)) he)

/-- A scalar from a mask. -/
theorem rowKTo_encodesBack {c : KTo → Instr} {bad pb : Bool} (hm : r.major.toNat = 42) (ho : r.op = n)
    (hpeek : bad = false → false = r.pa ∧ pb = r.pb)
    (hc : ∀ o, encode (c o) = encP (some true) 42 o.d (maskField o.a) 0 (fnV 0 false pb (BitVec.ofNat 4 n)) o.stop)
    (hw : ∀ o, (c o).wf = true) : (rowKTo c r bad).EncodesBack true r := by
  refine encodesBack_plain (some true) (own_reads true) rfl fun _ hf he => ⟨hw _, ?_⟩
  simp only [Bool.or_eq_false_iff, bne_eq_false_iff_eq] at hf
  obtain ⟨⟨⟨ha, hb⟩, hk⟩, hbad⟩ := hf
  obtain ⟨hpa, hpb⟩ := hpeek hbad
  exact (hc _).trans (encP_eq hm rfl (maskField_eq ha) hb.symm (fnV_eq hk.symm hpa hpb (ofNat_of_toNat ho)) he)

end

/-- Major 42: masks (R135). -/
theorem rowMasks_encodesBack (hm : r.major.toNat = 42) : (rowMasks r).EncodesBack true r := by
  unfold rowMasks
  split
  case h_4 ho => exact rowK2_encodesBack hm ho (fun _ => rfl) (fun _ => rfl)
  case h_5 ho =>
    split
    case h_1 => exact rowK2_encodesBack hm ho (fun _ => rfl) (fun _ => rfl)
    case h_2 hpa hpb =>
      refine encodesBack_plain (some true) (own_reads true) rfl fun hv hf he =>
        ⟨Bool.not_eq_eq_eq_not.mp hv, ?_⟩
      simp only [Bool.or_eq_false_iff, bne_eq_false_iff_eq] at hf
      obtain ⟨⟨hd, hb⟩, hk⟩ := hf
      exact encP_eq hm (maskField_eq hd) rfl hb.symm (fnV_eq hk.symm hpa.symm hpb.symm (ofNat_of_toNat ho)) he
    case h_3 hpa hpb => exact rowKTo_encodesBack hm ho (fun _ => ⟨hpa.symm, hpb.symm⟩) (fun _ => rfl) (fun _ => rfl)
    case h_4 => exact noSel_encodesBack
  case h_6 ho =>
    refine rowKTo_encodesBack hm ho (fun h => ?_) (fun _ => rfl) (fun _ => rfl)
    obtain ⟨hpa, hpb⟩ := Bool.or_eq_false_iff.mp h
    exact ⟨hpa.symm, hpb.symm⟩
  case h_7 => exact noSel_encodesBack
  all_goals exact rowK3_encodesBack hm ‹_› (fun _ => rfl) (fun _ => rfl)

/-- Major 43: queue and lane moves (R136). -/
theorem rowMoves_encodesBack (hm : r.major.toNat = 43) : (rowMoves r).EncodesBack true r := by
  have hown := own_reads true
  unfold rowMoves
  dsimp only
  split
  case h_1 ho =>
    refine encodesBack_plain (some true) hown rfl fun hv hf he => ⟨Bool.not_eq_eq_eq_not.mp hv, ?_⟩
    simp only [Bool.or_eq_false_iff, bne_eq_false_iff_eq] at hf
    obtain ⟨hd, ⟨⟨hb, hk⟩, hpa⟩, hpb⟩ := hf
    exact encP_eq hm hd.symm rfl hb.symm (fnV_eq hk.symm hpa.symm hpb.symm (ofNat_of_toNat ho)) he
  case h_2 ho | h_6 ho =>
    refine encodesBack_plain (some true) hown rfl fun _ hf he => ⟨rfl, ?_⟩
    simp only [Bool.or_eq_false_iff, bne_eq_false_iff_eq] at hf
    obtain ⟨⟨⟨hb, hk⟩, hpa⟩, hpb⟩ := hf
    exact encP_eq hm rfl rfl hb.symm (fnV_eq hk.symm hpa.symm hpb.symm (ofNat_of_toNat ho)) he
  case h_3 ho =>
    refine encodesBack_plain (some true) hown rfl fun hv hf he => ⟨Bool.not_eq_eq_eq_not.mp hv, ?_⟩
    obtain ⟨hk, hpb⟩ := Bool.or_eq_false_iff.mp hf
    exact encP_eq hm rfl rfl rfl (fnV_eq (bne_eq_false_iff_eq.mp hk).symm rfl hpb.symm (ofNat_of_toNat ho)) he
  case h_4 ho => exact rowV2n_encodesBack hm ho Eq.symm (fun _ => rfl) (fun _ => rfl)
  case h_5 ho =>
    refine encodesBack_plain (some true) hown rfl fun hv hf he => ⟨Bool.not_eq_eq_eq_not.mp hv, ?_⟩
    simp only [Bool.or_eq_false_iff, bne_eq_false_iff_eq] at hf
    obtain ⟨⟨hb, hpa⟩, hpb⟩ := hf
    exact encP_eq hm rfl rfl hb.symm (fnV_eq rfl hpa.symm hpb.symm (ofNat_of_toNat ho)) he
  case h_7 => exact noSel_encodesBack

/-- The fields of vfma (R58). -/
theorem vfma_append (fn : BitVec 9) : fn.extractLsb' 4 5 ++ fn.extractLsb' 1 3 ++ BitVec.ofBool (fn.getLsbD 0) = fn := by
  simp only [ofBool_getLsbD, BitVec.extractLsb'_append_extractLsb'_eq_extractLsb']
  exact BitVec.extractLsb'_eq_self

/-- Major 35: conversions, packing and block scales (R58). -/
theorem rowX_conversions (hm : r.major.toNat = 35) : (rowX r).EncodesBack true r := by
  have hown := own_reads true
  simp only [rowX, hm]
  split
  case h_1 ho =>
    refine encodesBack_plain (some true) hown rfl fun hv hf he => ⟨Bool.not_eq_eq_eq_not.mp hv, ?_⟩
    obtain ⟨hpart, hpb⟩ := Bool.or_eq_false_iff.mp hf
    exact encP_eq hm rfl rfl (maskField_eq (bne_eq_false_iff_eq.mp hpart)) (fnV_eq rfl rfl hpb.symm (ofNat_of_toNat ho)) he
  case h_2 ho => exact rowV3_encodesBack hm ho (fun _ => rfl) (fun _ => rfl)
  case h_3 ho =>
    exact encodesBack_plain (some true) hown rfl fun hv hf he => ⟨Bool.not_eq_eq_eq_not.mp hv,
      encP_eq hm rfl rfl (bit_append (bne_eq_false_iff_eq.mp hf)) (fnV_eq rfl rfl rfl (ofNat_of_toNat ho)) he⟩
  case h_4 ho => exact rowV2n_encodesBack hm ho Eq.symm (fun _ => rfl) (fun _ => rfl)
  case h_5 => exact noSel_encodesBack

/-- Major 32: integer lanes (R58). -/
theorem rowX_integers (hm : r.major.toNat = 32) : (rowX r).EncodesBack true r := by
  simp only [rowX, hm]
  split
  case h_15 => exact noSel_encodesBack
  all_goals exact rowV3_encodesBack hm ‹_› (fun _ => rfl) (fun _ => rfl)

/-- Major 33: FP lanes (R58). -/
theorem rowX_floats (hm : r.major.toNat = 33) : (rowX r).EncodesBack true r := by
  simp only [rowX, hm]
  split
  case h_6 ho | h_7 ho => exact rowV2_encodesBack hm ho (fun _ => rfl) (fun _ => rfl)
  case h_8 => exact noSel_encodesBack
  all_goals exact rowV3_encodesBack hm ‹_› (fun _ => rfl) (fun _ => rfl)

/-- Major 34: vfma (R58). -/
theorem rowX_vfma (hm : r.major.toNat = 34) : (rowX r).EncodesBack true r := by
  simp only [rowX, hm]
  exact encodesBack_plain (some true) (own_reads true) rfl fun hv _ he =>
    ⟨Bool.not_eq_eq_eq_not.mp hv, encP_eq hm rfl rfl rfl (vfma_append _) he⟩

/-- Major 36: reductions and scans (R58). -/
theorem rowX_reductions (hm : r.major.toNat = 36) : (rowX r).EncodesBack true r := by
  simp only [rowX, hm]
  split
  case h_6 => exact noSel_encodesBack
  all_goals exact rowV2_encodesBack hm ‹_› (fun _ => rfl) (fun _ => rfl)

/-- Major 37: permutations (R58). -/
theorem rowX_permutations (hm : r.major.toNat = 37) : (rowX r).EncodesBack true r := by
  simp only [rowX, hm]
  split
  case h_1 ho => exact rowV3_encodesBack hm ho (fun _ => rfl) (fun _ => rfl)
  case h_2 ho => exact rowV2n_encodesBack hm ho Eq.symm (fun _ => rfl) (fun _ => rfl)
  case h_3 ho =>
    split
    next hpb => exact rowV2n_encodesBack hm ho (fun _ => hpb.symm) (fun _ => rfl) (fun _ => rfl)
    next hpb =>
      exact rowV2n_encodesBack hm ho (fun _ => (Bool.eq_false_of_not_eq_true hpb).symm) (fun _ => rfl) (fun _ => rfl)
  case h_4 ho => exact rowV2_encodesBack hm ho (fun _ => rfl) (fun _ => rfl)
  case h_5 => exact noSel_encodesBack

/-- Major 38: vfunc (R58). -/
theorem rowX_vfunc (hm : r.major.toNat = 38) : (rowX r).EncodesBack true r := by
  simp only [rowX, hm]
  refine encodesBack_plain (some true) (own_reads true) rfl fun hv hf he => ⟨Bool.not_eq_eq_eq_not.mp hv, ?_⟩
  obtain ⟨hb, hpb⟩ := Bool.or_eq_false_iff.mp hf
  exact encP_eq hm rfl rfl (bne_eq_false_iff_eq.mp hb).symm (fnV_eq rfl rfl hpb.symm rfl) he

/-- Major 39: tsel (R58). -/
theorem rowX_tsel (hm : r.major.toNat = 39) : (rowX r).EncodesBack true r := by
  simp only [rowX, hm]
  refine encodesBack_plain (some true) (own_reads true) rfl fun _ hf he => ⟨rfl, ?_⟩
  simp only [Bool.or_eq_false_iff, bne_eq_false_iff_eq] at hf
  obtain ⟨⟨⟨⟨⟨hd, ha⟩, hb⟩, hk⟩, hpa⟩, hpb⟩ := hf
  exact encP_eq hm hd.symm ha.symm hb.symm (fnV_eq hk.symm hpa.symm hpb.symm rfl) he

/-- A random number instruction. -/
theorem randRow_encodesBack {c : VRnd → Instr} {u : Bool} (hm : r.major.toNat = 40) (ho : r.op = 0) (hu : r.pa = u)
    (hc : ∀ o, encode (c o) = encP (some true) 40 o.d o.a o.b (fnV o.k u false 0) o.stop) (hw : ∀ o, (c o).wf = pushQ o.d) :
    RowOr.EncodesBack true r (.ok
      { build := fun s _ => c ⟨r.d, r.a, r.b, r.k, s⟩, badVal := !pushQ r.d, badField := r.pb }) :=
  encodesBack_plain (some true) (own_reads true) rfl fun hv hf he =>
    ⟨(hw _).trans (Bool.not_eq_eq_eq_not.mp hv),
      (hc _).trans (encP_eq hm rfl rfl rfl (fnV_eq rfl hu.symm hf.symm (ofNat_of_toNat ho)) he)⟩

/-- Major 40: random numbers (R58). -/
theorem rowX_random (hm : r.major.toNat = 40) : (rowX r).EncodesBack true r := by
  simp only [rowX, hm]
  split
  case h_1 ho =>
    split
    next hpa => exact randRow_encodesBack hm ho hpa (fun _ => rfl) (fun _ => rfl)
    next hpa => exact randRow_encodesBack hm ho (Bool.eq_false_of_not_eq_true hpa) (fun _ => rfl) (fun _ => rfl)
  case h_2 => exact noSel_encodesBack

/-- Major 41: vconf (R58). -/
theorem rowX_vconf (hm : r.major.toNat = 41) : (rowX r).EncodesBack true r := by
  simp only [rowX, hm]
  split
  case h_1 ho => exact rowVCmp_encodesBack hm ho (fun _ => rfl) (fun _ => rfl)
  case h_2 => exact noSel_encodesBack

/-- Major 44: compares and select (R58). -/
theorem rowX_compares (hm : r.major.toNat = 44) : (rowX r).EncodesBack true r := by
  simp only [rowX, hm]
  split
  case h_10 ho => exact rowV3_encodesBack hm ho (fun _ => rfl) (fun _ => rfl)
  case h_11 => exact noSel_encodesBack
  all_goals exact rowVCmp_encodesBack hm ‹_› (fun _ => rfl) (fun _ => rfl)

/-- The majors of the X-stream's map. -/
theorem rowX_reserved (r : RWord) : rowX r = noMajor ∨ (32 ≤ r.major.toNat ∧ r.major.toNat < 45) := by
  unfold rowX
  split
  case h_14 => exact .inl rfl
  all_goals exact .inr (by omega)

/-- The X-stream's map. -/
theorem rowX_encodesBack : (rowX r).EncodesBack true r := by
  rcases rowX_reserved r with h | ⟨hlow, hhigh⟩
  · rw [h]
    exact noMajor_encodesBack
  · interval_cases hm : r.major.toNat
    · exact rowX_integers hm
    · exact rowX_floats hm
    · exact rowX_vfma hm
    · exact rowX_conversions hm
    · exact rowX_reductions hm
    · exact rowX_permutations hm
    · exact rowX_vfunc hm
    · exact rowX_tsel hm
    · exact rowX_random hm
    · exact rowX_vconf hm
    · simpa only [rowX, hm] using rowMasks_encodesBack hm
    · simpa only [rowX, hm] using rowMoves_encodesBack hm
    · exact rowX_compares hm

/-- Every word of the opcode map of a stream. -/
theorem rowOf_encodesBack (x : Bool) (r : RWord) : (rowOf x r).EncodesBack x r := by
  unfold rowOf
  split
  · exact rowShared_encodesBack
  · cases x with
    | false => exact rowC_encodesBack
    | true => exact rowX_encodesBack

end

/-- Settles O2: the row of a word that decodes refuses nothing of it, and so encodes its instruction as that word and its
tail. -/
theorem encodeDecode : Obligations.EncodeDecode := by
  intro x w next i h
  unfold decodeWord decodeR at h
  split at h
  · cases h
  next row hrow =>
    obtain ⟨hv, hf, t, he, htailed, htaken, hword, rfl⟩ := Row.decode_ok h
    obtain ⟨hwf, m, hm, henc⟩ := rowOf_encodesBack x _ row hrow hv hf t he htailed htaken
    exact ⟨hwf, _, henc, hm, RWord.toWord_ofWord w, he.symm, hword⟩

end Sys2Proof
end

section
/-! PROOFS. A depth of hardware loops that no instruction sets (R83, R104): the fetch of a group still looks at the end of
level 0, where the statement of a step looks only at depths up to 2. -/

namespace Sys2Proof.Machine

/-- A command of two words: its tail holds no semaphore, no scope and no stamp. -/
def tailedSwap : Instr := .mswap ⟨some ⟨none, none, false, false, 0, 0, none⟩, true⟩

/-- Core 0's C-stream, whose turn it is, stands at `tailedSwap` with a loop depth of 3, and level 0 ends at the command's first
word. -/
def deepLoop : State :=
  { State.reset.updCore 0 fun c =>
      let c := c.holding false (encodeWords tailedSwap)
      { c with c := { c.c with loops := { c.c.loops with end0 := 0, depth := 3 } } } with
    agenda := [], turn := .stream false, cur := 0 }

/-- Core 0's C-stream runs after a step. -/
def runsAfter (o : Host.Outcome State Fault Refusal) : Bool :=
  match o with
  | .next t => (t.core 0).c.run
  | _ => false

/-- The step takes the trap of a level that ends inside a group (R104). VF 0 has no handler at reset, so that the trap ends the
node and the stream stops (R77). -/
theorem runsAfter_step_deepLoop : runsAfter (step deepLoop) = false := by decide

/-- The command itself is pushed and retires, and the stream runs on. -/
theorem runsAfter_exec_tailedSwap :
    runsAfter (match exec tailedSwap ((deepLoop.onStream 0 false).atInstr 0 0) with
      | .next t => .next ((t.passOn (.stream false) 0).firmware.tick)
      | .fault f => .fault f
      | .refused r => .refused r) = true := by decide

/-- Refutes O4, by its first clause: that clause asks that no level ends inside the group only where the depth is at most 2. In
`deepLoop` the depth is 3, `Stream.insideEnd` still finds the end of level 0 inside the group, and the step traps with 0x14
instead of executing the command that its words decode to. -/
theorem not_stepRunsDecoded : ¬ Obligations.StepRunsDecoded := by
  unfold Obligations.StepRunsDecoded
  rintro ⟨hstep, -⟩
  have hdeep : ¬((deepLoop.core deepLoop.cur).stream false).loops.depth ≤ 2 := by decide
  have hgpc : ((deepLoop.core deepLoop.cur).stream false).gpc = 0 := by decide
  have h := hstep deepLoop false 0x98000083 0 tailedSwap (by decide) rfl rfl (by decide) (by decide) (by decide)
    (.inr (.inr (by decide))) (by decide) (by decide) (fun _ => by decide) (by decide) (by decide)
    fun _ hle => absurd hle hdeep
  rw [hgpc] at h
  have hruns := congrArg runsAfter h
  rw [runsAfter_step_deepLoop] at hruns
  exact absurd (hruns.trans runsAfter_exec_tailedSwap) (by decide)

end Sys2Proof.Machine
end

section
/-! PROOFS. Words of the manual (R108, R119), and scalar arithmetic (R97 to R99): what each form computes, and the words that its
encodings leave out. -/

namespace Sys2Proof.Machine
open Sys2Proof

/-- Settles O3: each word is read by the decoder itself. -/
theorem wordsRead : Obligations.WordsRead := by
  unfold Obligations.WordsRead
  decide

/-! ### Values (R97) -/

theorem divS_eq_sdiv (x y : Dword) : divS x y = if y = 0 then 0xFFFFFFFFFFFFFFFF else x.sdiv y := by
  unfold divS
  split
  · rfl
  · refine BitVec.eq_of_toInt_eq ?_
    rw [BitVec.toInt_ofInt, BitVec.toInt_sdiv]

theorem divU_eq_udiv (x y : Dword) : divU x y = if y = 0 then 0xFFFFFFFFFFFFFFFF else x / y := by
  unfold divU
  rw [← BitVec.toNat_udiv, d64, BitVec.ofNat_toNat, BitVec.setWidth_eq]

theorem remS_eq_srem (x y : Dword) : remS x y = if y = 0 then x else x.srem y := by
  unfold remS
  rw [← BitVec.toInt_srem, BitVec.ofInt_toInt]

theorem remU_eq_umod (x y : Dword) : remU x y = if y = 0 then x else x % y := by
  unfold remU
  rw [← BitVec.toNat_umod, d64, BitVec.ofNat_toNat, BitVec.setWidth_eq]

/-- The high half of a signed product (mulh). -/
theorem ofInt_mul_shift (x y : Dword) :
    BitVec.ofInt 64 (x.toInt * y.toInt / 2 ^ 64) = (x.signExtend 128 * y.signExtend 128).extractLsb' 64 64 := by
  refine BitVec.eq_of_toNat_eq ?_
  have hx : (x.signExtend 128).toInt = x.toInt := BitVec.toInt_signExtend_of_le (by decide)
  have hy : (y.signExtend 128).toInt = y.toInt := BitVec.toInt_signExtend_of_le (by decide)
  have hp : x.signExtend 128 * y.signExtend 128 = BitVec.ofInt 128 (x.toInt * y.toInt) := by
    rw [BitVec.ofInt_mul, ← hx, ← hy, BitVec.ofInt_toInt, BitVec.ofInt_toInt]
  rw [hp, BitVec.toNat_ofInt, BitVec.extractLsb'_toNat, BitVec.toNat_ofInt, Nat.shiftRight_eq_div_pow]
  generalize x.toInt * y.toInt = p
  omega

/-- The high half of an unsigned product (mulhu). -/
theorem ofNat_mul_shift (x y : Dword) :
    d64 (x.toNat * y.toNat / 2 ^ 64) = (x.zeroExtend 128 * y.zeroExtend 128).extractLsb' 64 64 := by
  refine BitVec.eq_of_toNat_eq ?_
  have hlt : x.toNat * y.toNat < 2 ^ 128 :=
    calc x.toNat * y.toNat < 2 ^ 64 * 2 ^ 64 := Nat.mul_lt_mul'' x.isLt y.isLt
      _ = 2 ^ 128 := by decide
  rw [BitVec.extractLsb'_toNat, BitVec.toNat_mul, BitVec.toNat_setWidth, BitVec.toNat_setWidth, Nat.mod_eq_of_lt (a := x.toNat) (by omega),
    Nat.mod_eq_of_lt (a := y.toNat) (by omega), Nat.mod_eq_of_lt hlt, Nat.shiftRight_eq_div_pow, BitVec.toNat_ofNat]

theorem ite_slt_eq_min (x y : Dword) : (if x.slt y then x else y) = BitVec.ofInt 64 (min x.toInt y.toInt) := by
  simp only [BitVec.slt_iff_toInt_lt]
  split
  · next h => rw [min_eq_left h.le, BitVec.ofInt_toInt]
  · next h => rw [min_eq_right (not_lt.mp h), BitVec.ofInt_toInt]

theorem ite_slt_eq_max (x y : Dword) : (if x.slt y then y else x) = BitVec.ofInt 64 (max x.toInt y.toInt) := by
  simp only [BitVec.slt_iff_toInt_lt]
  split
  · next h => rw [max_eq_right h.le, BitVec.ofInt_toInt]
  · next h => rw [max_eq_left (not_lt.mp h), BitVec.ofInt_toInt]

theorem ite_ult_eq_min (x y : Dword) : (if x.ult y then x else y) = BitVec.ofNat 64 (min x.toNat y.toNat) := by
  simp only [BitVec.ult_iff_toNat_lt]
  split
  · next h => rw [min_eq_left h.le, BitVec.ofNat_toNat, BitVec.setWidth_eq]
  · next h => rw [min_eq_right (not_lt.mp h), BitVec.ofNat_toNat, BitVec.setWidth_eq]

theorem ite_ult_eq_max (x y : Dword) : (if x.ult y then y else x) = BitVec.ofNat 64 (max x.toNat y.toNat) := by
  simp only [BitVec.ult_iff_toNat_lt]
  split
  · next h => rw [max_eq_right h.le, BitVec.ofNat_toNat, BitVec.setWidth_eq]
  · next h => rw [max_eq_left (not_lt.mp h), BitVec.ofNat_toNat, BitVec.setWidth_eq]

theorem flagOf_slt (x y : Dword) : flagOf (x.slt y) = if x.toInt < y.toInt then 1 else 0 := by
  simp only [flagOf, BitVec.slt_iff_toInt_lt]

theorem flagOf_ult (x y : Dword) : flagOf (x.ult y) = if x.toNat < y.toNat then 1 else 0 := by
  simp only [flagOf, BitVec.ult_iff_toNat_lt]

theorem popc64_eq_countP (x : Dword) : popc64 x = BitVec.ofNat 64 ((List.range 64).countP fun i => x.getLsbD i) := by
  rw [popc64, List.countP_eq_length_filter]

/-- clz gives the number of zero bits above the highest one bit. -/
theorem clz64_spec (x : Dword) : ∃ n, clz64 x = BitVec.ofNat 64 n ∧ n ≤ 64 ∧ (∀ i, 64 - n ≤ i → x.getLsbD i = false)
    ∧ (n < 64 → x.getLsbD (63 - n) = true) := by
  by_cases h : x = 0
  · subst h
    exact ⟨64, rfl, le_rfl, fun i _ => by simp, fun h => absurd h (by decide)⟩
  have hx : x.toNat ≠ 0 := fun e => h (BitVec.eq_of_toNat_eq e)
  have hlo : 2 ^ x.toNat.log2 ≤ x.toNat := Nat.log2_self_le hx
  have hhi : x.toNat < 2 ^ (x.toNat.log2 + 1) := Nat.lt_log2_self
  have hl : x.toNat.log2 < 64 := (Nat.log2_lt hx).mpr x.isLt
  refine ⟨63 - x.toNat.log2, by rw [clz64, if_neg h], by omega, fun i hi => ?_, fun _ => ?_⟩
  · refine Nat.testBit_lt_two_pow (lt_of_lt_of_le hhi (Nat.pow_le_pow_right (by decide) ?_))
    omega
  · have hi : 63 - (63 - x.toNat.log2) = x.toNat.log2 := by omega
    have hq : x.toNat / 2 ^ x.toNat.log2 = 1 :=
      Nat.div_eq_of_lt_le (by omega) (by rw [Nat.pow_succ] at hhi; omega)
    rw [hi]
    show x.toNat.testBit _ = true
    rw [Nat.testBit_eq_decide_div_mod_eq, hq]
    rfl

theorem upper_eq (imm : BitVec 19) : upper imm = (BitVec.ofNat 32 (imm.toNat * 2 ^ 13)).signExtend 64 := by
  have h : (imm ++ (0 : BitVec 13)) = BitVec.ofNat 32 (imm.toNat * 2 ^ 13) := by
    refine BitVec.eq_of_toNat_eq ?_
    rw [BitVec.toNat_append, Nat.shiftLeft_eq, BitVec.toNat_ofNat]
    have := imm.isLt
    simp
    omega
  rw [upper, h]

theorem shiftLeft_eq_mul (y : Dword) (n : Nat) : y <<< n = y * BitVec.ofNat 64 (2 ^ n) := by
  have h : BitVec.twoPow 64 n = BitVec.ofNat 64 (2 ^ n) :=
    BitVec.eq_of_toNat_eq (by rw [BitVec.toNat_twoPow, BitVec.toNat_ofNat])
  rw [BitVec.shiftLeft_eq_mul_twoPow, h]

/-! ### Words that no form takes (R97 to R99) -/

/-- A row of the opcode map that refuses its word's value. -/
theorem Row.decode_badVal {row : Row} (r : RWord) (next : Word) (h : row.badVal = true) :
    row.decode r next = .error .reservedValue := by
  simp [Row.decode, h]

/-- A row of the opcode map that refuses a field of its word gives no instruction. -/
theorem Row.decode_badField {row : Row} (r : RWord) (next : Word) (h : row.badField = true) :
    ∃ f, row.decode r next = .error f := by
  cases hd : row.decode r next with
  | error f => exact ⟨f, rfl⟩
  | ok i =>
    obtain ⟨-, hf, -⟩ := Row.decode_ok hd
    rw [h] at hf
    cases hf

/-- A word of the shared control subset is read under one map in both streams. -/
theorem decodeR_shared (x : Bool) {r : RWord} (next : Word) {row : Row} (hm : r.major.toNat < 32) (h : rowShared r = .ok row) :
    decodeR x r next = row.decode r next := by
  simp only [decodeR, rowOf, if_pos hm, h]

/-- clz and popc have no operand b. -/
theorem decodeR_oneSource (x : Bool) (r : RWord) (next : Word) (hm : r.major = 0) (hf : r.fn = 0x015 ∨ r.fn = 0x016)
    (hb : r.b ≠ 0) : ∃ f, decodeR x r next = .error f := by
  have hbad : (false || r.b != 0) = true := by simpa using hb
  rcases hf with hf | hf
  · rw [decodeR_shared x next (by rw [hm]; decide) (by simp only [rowShared, hm, rowMajor0, hf]; rfl)]
    exact Row.decode_badField r next hbad
  · rw [decodeR_shared x next (by rw [hm]; decide) (by simp only [rowShared, hm, rowMajor0, hf]; rfl)]
    exact Row.decode_badField r next hbad

/-- The bits of a shift's immediate above its count are zero. -/
theorem decodeR_shiftHigh (x : Bool) (r : RWord) (next : Word) (hm : r.major = 5) (hi : r.imm14.extractLsb' 6 6 ≠ 0) :
    ∃ f, decodeR x r next = .error f := by
  have hrow : rowShared r = rowMajor5 r := by simp only [rowShared, hm]; rfl
  cases h : rowMajor5 r with
  | error f => exact ⟨f, by simp only [decodeR, rowOf, hm, hrow, h]; rfl⟩
  | ok row =>
    rw [decodeR_shared x next (by rw [hm]; decide) (hrow.trans h)]
    refine Row.decode_badField r next ?_
    have hbad : (r.imm14.extractLsb' 6 6 != 0) = true := by simpa using hi
    unfold rowMajor5 at h
    split at h <;> cases h <;> exact hbad

/-- lea's shift stands in the two low bits of fn. -/
theorem decodeR_leaHigh (x : Bool) (r : RWord) (next : Word) (hm : r.major = 9) (hf : 4 ≤ r.fn.toNat) :
    decodeR x r next = .error .reservedValue := by
  rw [decodeR_shared x next (by rw [hm]; decide) (by simp only [rowShared, hm]; rfl)]
  refine Row.decode_badVal r next ?_
  have : r.fn.extractLsb' 2 7 ≠ 0 := by
    intro h
    have h := congrArg BitVec.toNat h
    rw [BitVec.extractLsb'_toNat, Nat.shiftRight_eq_div_pow] at h
    have := r.fn.isLt
    simp at h
    omega
  simpa using this

/-- Settles O5: each form is a write of its value and a retirement; the values are those of the table. -/
theorem scalarForms : Obligations.ScalarForms := by
  unfold Obligations.ScalarForms
  have puts (s : State) (d : Reg) (stop : Bool) (i : Instr) {u v : Dword} (e : u = v)
      (hi : exec i s = .next ((s.setReg d u).done stop)) : ∃ t, exec i s = .next t ∧ Writes s t d v stop :=
    ⟨_, hi, e ▸ setReg_done_writes s d u stop⟩
  refine ⟨⟨fun o s => ?_, fun o s => ⟨?_, ?_⟩, decodeR_oneSource⟩, ⟨fun o s => ?_, fun o s => ?_, fun o s => ?_, decodeR_shiftHigh⟩,
    fun o s => ⟨?_, ?_⟩, fun o s => ?_, decodeR_leaHigh⟩
  · refine ⟨puts s _ _ _ rfl rfl, puts s _ _ _ rfl rfl, puts s _ _ _ rfl rfl, puts s _ _ _ rfl rfl, puts s _ _ _ rfl rfl,
      puts s _ _ _ rfl rfl, puts s _ _ _ rfl rfl, puts s _ _ _ rfl rfl, puts s _ _ _ rfl rfl, puts s _ _ _ (ofInt_mul_shift _ _) rfl,
      puts s _ _ _ (ofNat_mul_shift _ _) rfl, puts s _ _ _ (divS_eq_sdiv _ _) rfl, puts s _ _ _ (divU_eq_udiv _ _) rfl,
      puts s _ _ _ (remS_eq_srem _ _) rfl, puts s _ _ _ (remU_eq_umod _ _) rfl, puts s _ _ _ (ite_slt_eq_min _ _) rfl,
      puts s _ _ _ (ite_slt_eq_max _ _) rfl, puts s _ _ _ (ite_ult_eq_min _ _) rfl, puts s _ _ _ (ite_ult_eq_max _ _) rfl,
      puts s _ _ _ (flagOf_slt _ _) rfl, puts s _ _ _ (flagOf_ult _ _) rfl⟩
  · obtain ⟨n, hv, hn⟩ := clz64_spec (s.reg o.a)
    obtain ⟨t, ht, hw⟩ := puts s o.d o.stop (.clz o) hv rfl
    exact ⟨t, n, ht, hw, hn⟩
  · exact puts s _ _ _ (popc64_eq_countP _) rfl
  · exact ⟨puts s _ _ _ rfl rfl, puts s _ _ _ rfl rfl, puts s _ _ _ rfl rfl, puts s _ _ _ rfl rfl⟩
  · exact ⟨puts s _ _ _ rfl rfl, puts s _ _ _ rfl rfl, puts s _ _ _ rfl rfl⟩
  · exact ⟨puts s _ _ _ (flagOf_slt _ _) rfl, puts s _ _ _ (flagOf_ult _ _) rfl⟩
  · exact puts s _ _ _ (upper_eq _) rfl
  · exact puts s _ _ _ (by rw [upper_eq]) rfl
  · exact puts s _ _ _ (by rw [shiftLeft_eq_mul]) rfl

end Sys2Proof.Machine
end


section
/-! PROOFS. How an instruction of a stream ends (R69, R77, R95), and the control transfers, loops, hints and waits (R100 to R105,
R108, R211). -/

namespace Sys2Proof.Machine
open Sys2Proof

/-! ### How an instruction of a stream ends -/

/-- A body that completes. -/
theorem runStream_ok {s t : State} {body : State → Except Stop State} (h : body s = .ok t) : runStream s body = .next t := by
  rw [runStream, h]; rfl

/-- A body that traps and shows only its cause and value. -/
theorem runStream_trap {s : State} {body : State → Except Stop State} {code : Byte} {val : Dword}
    (h : body s = trapOf code val) : runStream s body = .next (s.trapHere ⟨code, val, .zero, []⟩) := by
  rw [runStream, h]; rfl

/-- A body that waits. -/
theorem runStream_wait {s : State} {body : State → Except Stop State} {on : WaitOn} (h : body s = waitOn on) :
    runStream s body = .next (s.waitHere on []) := by
  rw [runStream, h]; rfl

/-- An instruction whose body traps takes the trap. -/
theorem runStream_trapsHere {s : State} {body : State → Except Stop State} {code : Byte} {val : Dword} (hm : s.mayTrap)
    (h : body s = trapOf code val) (hr : recorded code = false) (hc : code ≠ 0x71 ∧ code ≠ 0x72) :
    ∃ t, runStream s body = .next t ∧ TrapsHere s t code val :=
  ⟨_, runStream_trap h, trapHere_trapsHere s code val hm hr hc⟩

/-- An instruction whose body waits waits. -/
theorem runStream_waits {s : State} {body : State → Except Stop State} {on : WaitOn} (h : body s = waitOn on) :
    ∃ t, runStream s body = .next t ∧ Waits s t on :=
  ⟨_, runStream_wait h, waitHere_waits s on⟩

/-! ### Frames of changes of one core -/

theorem OnlyCore.refl (s : State) (c : Nat) : OnlyCore s s c := ⟨rfl, fun _ _ => rfl⟩

theorem OnlyCore.trans {s u t : State} {c : Nat} (h : OnlyCore s u c) (k : OnlyCore u t c) : OnlyCore s t c := by
  obtain ⟨hu, hc⟩ := h
  obtain ⟨ht, kc⟩ := k
  refine ⟨?_, fun d hd => (kc d hd).trans (hc d hd)⟩
  calc t = { u with cores := t.cores, issue := t.issue } := ht
    _ = { s with cores := t.cores, issue := t.issue } :=
      congrArg (fun v : State => { v with cores := t.cores, issue := t.issue }) hu

theorem OnlyCore.cur_eq {s t : State} {c : Nat} (h : OnlyCore s t c) : t.cur = s.cur := by rw [h.1]

theorem OnlyCore.curX_eq {s t : State} {c : Nat} (h : OnlyCore s t c) : t.curX = s.curX := by rw [h.1]

theorem OnlyCore.tb_eq {s t : State} {c : Nat} (h : OnlyCore s t c) : t.tb = s.tb := by rw [h.1]

theorem onlyCore_updCore (s : State) (c : Nat) (f : Core → Core) : OnlyCore s (s.updCore c f) c :=
  ⟨rfl, fun d hd => State.core_updCore_ne s c d f hd⟩

theorem onlyCore_setCore (s : State) (c : Nat) (v : Core) : OnlyCore s (s.setCore c v) c :=
  ⟨rfl, fun d hd => State.core_setCore_ne s c d v hd⟩

theorem onlyCore_updHere (s : State) (f : Core → Core) : OnlyCore s (s.updHere f) s.cur := onlyCore_updCore s s.cur f

theorem onlyCore_updSelf (s : State) (f : Stream → Stream) : OnlyCore s (s.updSelf f) s.cur := onlyCore_updHere s _

theorem onlyCore_setReg (s : State) (d : Reg) (v : Dword) : OnlyCore s (s.setReg d v) s.cur := onlyCore_updSelf s _

theorem onlyCore_issue (s : State) (i : Issue) (c : Nat) : OnlyCore s { s with issue := i } c := ⟨rfl, fun _ _ => rfl⟩

theorem onlyCore_retired (s : State) : OnlyCore s s.retired s.cur :=
  ((onlyCore_updSelf s _).trans (onlyCore_updHere _ _)).trans (onlyCore_issue _ .retired s.cur)

theorem onlyCore_done (s : State) (stop : Bool) : OnlyCore s (s.done stop) s.cur :=
  (onlyCore_updSelf s fun t => t.advance 1 stop).trans (onlyCore_retired (s.updSelf fun t => t.advance 1 stop))

theorem onlyCore_jumpTo (s : State) (a : Dword) : OnlyCore s (s.jumpTo a) s.cur :=
  (onlyCore_updSelf s fun t => t.jump a).trans (onlyCore_retired (s.updSelf fun t => t.jump a))

/-- The frame of a change of the stream that executes. -/
theorem onlyStream_of_core {s t : State} (u : Stream) (a : Nat) (h : OnlyCore s t s.cur)
    (hh : t.here = { s.here.setStream s.curX u with advanced := a }) : OnlyStream s t :=
  onlyStream_of_here u a h.1 h.2 hh

/-! ### Control transfers (R100 to R102, R105) -/

/-- The check of a target is R102's. -/
theorem targetOk_iff (s : State) (m : Mode) (t : Dword) :
    s.here.targetOk s.curX m t = true ↔ t.toNat % 4 = 0 ∧ t.toNat < s.here.binLen s.curX m := by
  simp [Core.targetOk]

/-- A target that the stream may take passes its check. -/
theorem target_ok {s : State} {t : Dword} (h : s.mayGoTo t) : s.target t = .ok () := by
  rw [State.target, (targetOk_iff s s.self.mode t).mpr h]; rfl

/-- A target that the stream may not take traps. -/
theorem target_trap {s : State} {t : Dword} (h : ¬s.mayGoTo t) : s.target t = trapOf 0x15 t := by
  rw [State.target, Bool.eq_false_iff.mpr (fun hk => h ((targetOk_iff s s.self.mode t).mp hk))]; rfl

/-- A taken transfer ends the loop levels that R105 says. -/
theorem jump_loops (t : Stream) (a : Dword) : (t.jump a).loops = if t.mode = .handler then t.loops else t.loops.leave a.toNat := rfl

/-- No level is active. -/
theorem leave_zero (l : Loops) (a : Nat) (h : l.depth = 0) : l.leave a = l := by
  simp [Loops.leave, h]

/-- One level is active. -/
theorem leave_one (l : Loops) (a : Nat) (h : l.depth = 1) :
    l.leave a = if l.start0.toNat ≤ a ∧ a ≤ l.end0.toNat then l else { l with depth := 0 } := by
  by_cases hb : l.start0.toNat ≤ a ∧ a ≤ l.end0.toNat <;> simp only [Loops.leave, h, hb] <;> simp

/-- Two levels are active. -/
theorem leave_two (l : Loops) (a : Nat) (h : l.depth = 2) :
    l.leave a = if l.start1.toNat ≤ a ∧ a ≤ l.end1.toNat then l
      else if l.start0.toNat ≤ a ∧ a ≤ l.end0.toNat then { l with depth := 1 } else { l with depth := 0 } := by
  by_cases hb : l.start0.toNat ≤ a ∧ a ≤ l.end0.toNat <;> simp only [Loops.leave, h, hb] <;> simp

/-- The loop levels after a taken transfer, from a state whose stream has the levels and mode of `s`. -/
theorem leavesLoops_jumpTo {s q : State} (a : Dword) (hl : q.self.loops = s.self.loops) (hm : q.self.mode = s.self.mode) :
    LeavesLoops s (q.jumpTo a) a := by
  have ht : (q.jumpTo a).self.loops = if s.self.mode = .handler then s.self.loops else s.self.loops.leave a.toNat := by
    rw [State.self_jumpTo]
    show (q.self.jump a).loops = _
    rw [jump_loops, hl, hm]
  refine ⟨?_, fun h1 h2 => ?_, fun h1 h2 => ?_⟩
  · rintro (h | h)
    · rw [ht, if_pos h]
    · rw [ht, leave_zero _ _ h, ite_self]
  · rw [ht, if_neg h1, leave_one _ _ h2]
  · rw [ht, if_neg h1, leave_two _ _ h2]

/-- A branch, by whether its condition holds and where its target lies (R100, R102). -/
theorem branch_cases (s : State) (o : RBr) (taken : Bool) :
    (taken = true → s.mayGoTo (s.self.pc + o.off.signExtend 64 * 4) →
      s.branch o taken = .ok (s.jumpTo (s.self.pc + o.off.signExtend 64 * 4)))
    ∧ (taken = false → s.branch o taken = .ok (s.done o.stop))
    ∧ (taken = true → ¬s.mayGoTo (s.self.pc + o.off.signExtend 64 * 4) →
      s.branch o taken = trapOf 0x15 (s.self.pc + o.off.signExtend 64 * 4)) := by
  refine ⟨fun h hg => ?_, fun h => by rw [h]; rfl, fun h hg => ?_⟩
  · rw [h]
    show (s.target _ >>= fun _ => _) = _
    rw [State.wordTarget, target_ok hg]; rfl
  · rw [h]
    show (s.target _ >>= fun _ => _) = _
    rw [State.wordTarget, target_trap hg]; rfl

/-- A branch whose condition the model tests by `taken`, and the statement by `holds`. -/
theorem branch_spec (s : State) (o : RBr) (taken : State → Bool) (holds : Prop) (hiff : taken s = true ↔ holds) :
    let target := s.self.pc + o.off.signExtend 64 * 4
    let out := runStream s fun s => s.branch o (taken s)
    (holds → s.mayGoTo target → ∃ t, out = .next t ∧ GoesTo t target ∧ LeavesLoops s t target
        ∧ RegsSame s t ∧ OnlyRegs s t ∧ OnlyStream s t ∧ MemorySame s t)
    ∧ (¬holds → ∃ t, out = .next t ∧ OnlyAdvances s t o.stop)
    ∧ (holds → ¬s.mayGoTo target → s.mayTrap → ∃ t, out = .next t ∧ TrapsHere s t 0x15 target) := by
  obtain ⟨hgo, hfall, htrap⟩ := branch_cases s o (taken s)
  refine ⟨fun h hg => ?_, fun h => ?_, fun h hg hm => ?_⟩
  · obtain ⟨hto, hregs⟩ := jumpTo_goesTo s (s.self.pc + o.off.signExtend 64 * 4)
    exact ⟨_, runStream_ok (hgo (hiff.mpr h) hg), hto, leavesLoops_jumpTo _ rfl rfl, hregs⟩
  · exact ⟨_, runStream_ok (hfall (Bool.eq_false_iff.mpr (mt hiff.mp h))), done_onlyAdvances s o.stop⟩
  · exact runStream_trapsHere hm (htrap (hiff.mpr h) hg) rfl (by decide)

/-- Settles O6: the six branches differ in their condition alone. -/
theorem branches : Obligations.Branches := by
  unfold Obligations.Branches
  intro o s
  refine ⟨branch_spec s o (fun s => s.reg o.a == s.reg o.b) _ beq_iff_eq,
    branch_spec s o (fun s => s.reg o.a != s.reg o.b) _ bne_iff_ne,
    branch_spec s o (fun s => (s.reg o.a).slt (s.reg o.b)) _ BitVec.slt_iff_toInt_lt,
    branch_spec s o (fun s => !(s.reg o.a).slt (s.reg o.b)) _ ?_,
    branch_spec s o (fun s => (s.reg o.a).ult (s.reg o.b)) _ BitVec.ult_iff_toNat_lt,
    branch_spec s o (fun s => !(s.reg o.a).ult (s.reg o.b)) _ ?_⟩
  · rw [Bool.not_eq_true', Bool.eq_false_iff, Ne, BitVec.slt_iff_toInt_lt, not_lt]
  · rw [Bool.not_eq_true', Bool.eq_false_iff, Ne, BitVec.ult_iff_toNat_lt, not_lt]

/-! ### Links (R101) -/

/-- The stream that executes, after a write of a register. -/
theorem self_setReg (s : State) (d : Reg) (v : Dword) : (s.setReg d v).self = s.self.setReg d v :=
  State.self_updSelf s fun t => t.setReg d v

/-- Registers read as before in a state whose stream has the banks of one where they do. -/
theorem regsBut_of_banks {s t u : State} {d : Reg} (h : RegsBut s t d) (hr : u.self.regs = t.self.regs)
    (hh : u.self.hregs = t.self.hregs) : RegsBut s u d := fun m r hd =>
  (Stream.reg_congr (t := { u.self with mode := m }) (u := { t.self with mode := m }) hr hh rfl r).trans (h m r hd)

/-- A write of a register changes no other. -/
theorem regsBut_setReg (s : State) (d : Reg) (v : Dword) : RegsBut s (s.setReg d v) d := by
  obtain ⟨-, -, hbut, -⟩ := setReg_done_writes s d v true
  exact regsBut_of_banks hbut (by rw [State.self_done]; simp) (by rw [State.self_done]; simp)

/-- A taken transfer that links: the target is checked before the link is written. -/
theorem link_cases (s : State) (d : Reg) (a : Dword) :
    (s.mayGoTo a → s.link d a = .ok ((s.setReg d (s.self.pc + 4)).jumpTo a))
    ∧ (¬s.mayGoTo a → s.link d a = trapOf 0x15 a) := by
  refine ⟨fun h => ?_, fun h => ?_⟩
  · show (s.target a >>= fun _ => _) = _
    rw [target_ok h]; rfl
  · show (s.target a >>= fun _ => _) = _
    rw [target_trap h]; rfl

/-- What a transfer that links has done. -/
theorem setReg_jumpTo_spec (s : State) (d : Reg) (v a : Dword) :
    let t := (s.setReg d v).jumpTo a
    GoesTo t a ∧ LeavesLoops s t a ∧ (d ≠ 0 → t.reg d = v) ∧ RegsBut s t d ∧ OnlyRegs s t ∧ OnlyStream s t ∧ MemorySame s t := by
  generalize ht : (s.setReg d v).jumpTo a = t
  have hself : t.self = { (s.self.setReg d v).jump a with wait := none } := by
    rw [← ht, State.self_jumpTo, self_setReg]
  have hhere : t.here = { s.here.setStream s.curX { (s.self.setReg d v).jump a with wait := none } with advanced := s.tb } := by
    rw [← ht, State.here_jumpTo, self_setReg]
    show ({ (s.updSelf _).here.setStream s.curX _ with advanced := s.tb } : Core) = _
    rw [State.here_updSelf, Core.setStream_setStream]
  have honly : OnlyStream s t :=
    onlyStream_of_core _ _ (ht ▸ (onlyCore_setReg s d v).trans (onlyCore_jumpTo (s.setReg d v) a)) hhere
  obtain ⟨hto, -⟩ := jumpTo_goesTo (s.setReg d v) a
  rw [ht] at hto
  refine ⟨hto, ht ▸ leavesLoops_jumpTo a ?_ ?_, fun hd => ?_, regsBut_of_banks (regsBut_setReg s d v) ?_ ?_, ?_, honly,
    memorySame_of_onlyStream honly⟩
  · rw [self_setReg, Stream.setReg_loops]
  · rw [self_setReg, Stream.setReg_mode]
  · show t.self.reg d = v
    rw [hself]
    show ((s.self.setReg d v).jump a).reg d = v
    rw [Stream.reg_jump, Stream.reg_setReg, if_neg hd, if_pos rfl]
  · rw [hself, self_setReg]; rfl
  · rw [hself, self_setReg]; rfl
  · rw [OnlyRegs, hself]; simp

/-- A transfer that links, by where its target lies (R101, R102). -/
theorem link_spec (s : State) (d : Reg) (target : State → Dword) :
    let out := runStream s fun s => s.link d (target s)
    (s.mayGoTo (target s) → ∃ t, out = .next t ∧ GoesTo t (target s) ∧ LeavesLoops s t (target s)
      ∧ (d ≠ 0 → t.reg d = s.self.pc + 4) ∧ RegsBut s t d ∧ OnlyRegs s t ∧ OnlyStream s t ∧ MemorySame s t)
    ∧ (¬s.mayGoTo (target s) → s.mayTrap → ∃ t, out = .next t ∧ TrapsHere s t 0x15 (target s)) := by
  obtain ⟨hgo, htrap⟩ := link_cases s d (target s)
  exact ⟨fun hg => ⟨_, runStream_ok (hgo hg), setReg_jumpTo_spec s d _ _⟩,
    fun hg hm => runStream_trapsHere hm (htrap hg) rfl (by decide)⟩

/-- Settles O7: jal and jalr are transfers that link. -/
theorem links : Obligations.Links := by
  unfold Obligations.Links
  exact ⟨fun o s => link_spec s 31 fun s => s.wordTarget (o.off.signExtend 64),
    fun o s => link_spec s o.d fun s => s.reg o.a + o.imm.signExtend 64⟩

end Sys2Proof.Machine
end


section
/-! PROOFS. Hardware loops, hints and waits (R103 to R105, R108, R211). -/

namespace Sys2Proof.Machine
open Sys2Proof

/-! ### How levels count down (R104) -/

/-- A count of 1 is the last. -/
theorem count_sub_one (c : Dword) : c - 1#64 = 0#64 ↔ c = 1#64 := sub_eq_zero

/-- No level is active. -/
theorem countDown_zero (l : Loops) (last next : Dword) (h : l.depth = 0) : l.countDown last next = (l, next) := by
  simp [Loops.countDown, h]

/-- One level is active. -/
theorem countDown_one (l : Loops) (last next : Dword) (h : l.depth = 1) :
    l.countDown last next = if l.end0 = last then
      if l.cnt0 = 1 then ({ l with cnt0 := 0, depth := 0 }, next) else ({ l with cnt0 := l.cnt0 - 1 }, l.start0)
    else (l, next) := by
  simp [Loops.countDown, h, count_sub_one]

/-- Two levels are active: the inner one hands the test on where it ends. -/
theorem countDown_two (l : Loops) (last next : Dword) (h : l.depth = 2) :
    l.countDown last next = if l.end1 = last then
      if l.cnt1 = 1 then ({ l with cnt1 := 0, depth := 1 } : Loops).countDown last next
      else ({ l with cnt1 := l.cnt1 - 1 }, l.start1)
    else (l, next) := by
  simp [Loops.countDown, h, count_sub_one]

/-! ### loop and loopi (R103) -/

/-- What a stream that goes on at an offset has done. -/
theorem goOn_spec (s : State) (a : Dword) (l : Loops) :
    (s.goOn a l).self.loops = l ∧ GoesTo (s.goOn a l) a ∧ RegsSame s (s.goOn a l) ∧ OnlyRegs s (s.goOn a l)
      ∧ OnlyStream s (s.goOn a l) ∧ MemorySame s (s.goOn a l) := by
  have hself : (s.goOn a l).self = { s.self with pc := a, gpc := a, loops := l, wait := none } := by
    rw [State.goOn, State.self_retired, State.self_updSelf]
  have hhere : (s.goOn a l).here =
      { s.here.setStream s.curX { s.self with pc := a, gpc := a, loops := l, wait := none } with advanced := s.tb } := by
    rw [State.goOn, State.here_retired, State.self_updSelf, State.here_updSelf]
    simp
  have honly : OnlyStream s (s.goOn a l) :=
    onlyStream_of_core _ _ ((onlyCore_updSelf s _).trans (onlyCore_retired _)) hhere
  refine ⟨by rw [hself], ⟨rfl, by rw [hself], by rw [hself], by rw [hself]⟩, ?_, ?_, honly, memorySame_of_onlyStream honly⟩
  · rw [RegsSame, hself]; exact ⟨rfl, rfl⟩
  · rw [OnlyRegs, hself]

/-- A loop opens a level, or skips its body, or traps (R103, R105). -/
theorem loopBody_cases (s : State) (off : BitVec 14) (n : Dword) :
    let p := s.self.pc
    let last := p + off.signExtend 64 * 4
    (s.self.mode = .handler ∨ off.toInt ≤ 0 ∨ 2 ≤ s.self.loops.depth → s.loopBody off n = trapOf 0x14 p)
    ∧ (s.self.mode ≠ .handler → 0 < off.toInt → s.self.loops.depth < 2 →
      s.loopBody off n = .ok (if n = 0 then
          s.goOn (s.self.loops.countDown last (last + 4)).2 (s.self.loops.countDown last (last + 4)).1
        else s.goOn (p + 4) (s.self.loops.enter (p + 4) last n))) := by
  refine ⟨fun h => if_pos h, fun hm hoff hd => ?_⟩
  refine (if_neg (not_or.mpr ⟨hm, not_or.mpr ⟨not_le.mpr hoff, not_le.mpr hd⟩⟩)).trans ?_
  by_cases hn : n = 0 <;> simp only [hn, if_true, if_false]

/-- loop and loopi, by their count and the level they stand in. -/
theorem loop_spec (s : State) (off : BitVec 14) (count : State → Dword) :
    let out := runStream s fun s => s.loopBody off (count s)
    let n := count s
    let p := s.self.pc
    let last := p + off.signExtend 64 * 4
    let l := s.self.loops
    (s.self.mode ≠ .handler → 0 < off.toInt → l.depth < 2 → n ≠ 0 →
      ∃ t, out = .next t ∧ GoesTo t (p + 4) ∧ t.self.loops.depth = l.depth + 1
        ∧ (if l.depth = 0 then
            t.self.loops = { l with start0 := p + 4, end0 := last, cnt0 := n, depth := 1 }
          else t.self.loops = { l with start1 := p + 4, end1 := last, cnt1 := n, depth := l.depth + 1 })
        ∧ RegsSame s t ∧ OnlyRegs s t ∧ OnlyStream s t ∧ MemorySame s t)
    ∧ (s.self.mode ≠ .handler → 0 < off.toInt → l.depth < 2 → n = 0 →
      (l.depth = 0 ∨ l.end0 ≠ last) → ∃ t, out = .next t ∧ GoesTo t (last + 4) ∧ t.self.loops = l
        ∧ RegsSame s t ∧ OnlyRegs s t ∧ OnlyStream s t ∧ MemorySame s t)
    ∧ (s.self.mode ≠ .handler → 0 < off.toInt → l.depth = 1 → n = 0 → l.end0 = last →
      ∃ t, out = .next t ∧ RegsSame s t ∧ OnlyRegs s t ∧ OnlyStream s t ∧ MemorySame s t
        ∧ (l.cnt0 ≠ 1 → GoesTo t l.start0 ∧ t.self.loops = { l with cnt0 := l.cnt0 - 1 })
        ∧ (l.cnt0 = 1 → GoesTo t (last + 4) ∧ t.self.loops = { l with cnt0 := 0, depth := 0 }))
    ∧ (s.self.mode ≠ .handler → (off.toInt ≤ 0 ∨ l.depth = 2) → s.mayTrap →
      ∃ t, out = .next t ∧ TrapsHere s t 0x14 p)
    ∧ (s.self.mode = .handler → out = .next (s.trapHere ⟨0x14, p, .zero, []⟩)) := by
  intro out n p last l
  obtain ⟨htrap, hgo⟩ := loopBody_cases s off n
  refine ⟨fun hm hoff hd hn => ?_, fun hm hoff hd hn h => ?_, fun hm hoff hd hn h => ?_, fun hm h ht => ?_, fun hm => ?_⟩
  · have hok := hgo hm hoff hd
    rw [if_neg hn] at hok
    obtain ⟨hl, hto, hrest⟩ := goOn_spec s (p + 4) (l.enter (p + 4) last n)
    refine ⟨_, runStream_ok hok, hto, ?_, ?_, hrest⟩
    · rw [hl, Loops.enter]
      split <;> simp only <;> omega
    · rw [hl, Loops.enter]
      split
      · rfl
      · rw [show l.depth + 1 = 2 by omega]
  · have hok := hgo hm hoff hd
    have hcount : l.countDown last (last + 4) = (l, last + 4) := by
      rcases Nat.lt_or_ge 0 l.depth with h1 | h0
      · rw [countDown_one _ _ _ (by omega), if_neg (h.resolve_left (by omega))]
      · exact countDown_zero _ _ _ (by omega)
    rw [if_pos hn, hcount] at hok
    obtain ⟨hl, hto, hrest⟩ := goOn_spec s (last + 4) l
    exact ⟨_, runStream_ok hok, hto, hl, hrest⟩
  · have hok := hgo hm hoff (show l.depth < 2 by omega)
    have hcount := countDown_one l last (last + 4) hd
    rw [if_pos hn] at hok
    rw [if_pos h] at hcount
    obtain ⟨hl, hto, hrest, hregs, honly, hmem⟩ :=
      goOn_spec s (l.countDown last (last + 4)).2 (l.countDown last (last + 4)).1
    refine ⟨_, runStream_ok hok, hrest, hregs, honly, hmem, fun h1 => ?_, fun h1 => ?_⟩
    · rw [hcount, if_neg h1] at hl hto
      rw [hcount, if_neg h1]
      exact ⟨hto, hl⟩
    · rw [hcount, if_pos h1] at hl hto
      rw [hcount, if_pos h1]
      exact ⟨hto, hl⟩
  · exact runStream_trapsHere ht (htrap (.inr (h.imp_right fun h => h.ge))) rfl (by decide)
  · exact runStream_trap (htrap (.inl hm))

/-- loopi with a count of zero is no instruction. -/
theorem decodeR_loopiZero (x : Bool) (r : RWord) (next : Word) (hm : r.major = 19) (hd : r.d = 0) (ha : r.a = 0) :
    decodeR x r next = .error .reservedValue := by
  rw [decodeR_shared x next (by rw [hm]; decide) (by simp only [rowShared, hm]; rfl)]
  exact Row.decode_badVal r next (by simp [hd, ha])

/-! ### Retirement of a group (R104, R105) -/

/-- The group's last word lies where the stream stood. -/
theorem self_done_stop (s : State) :
    let r := if s.self.mode = .handler then (s.self.loops, s.self.pc + 4) else s.self.loops.countDown s.self.pc (s.self.pc + 4)
    (s.done true).self = { s.self with pc := r.2, gpc := r.2, loops := r.1, wait := none } := by
  have h : s.self.pc + BitVec.ofNat 64 (4 * 1) - 4 = s.self.pc := add_sub_cancel_right _ _
  rw [State.self_done, Stream.advance, if_pos rfl, h]
  rfl

/-- Settles O8: loop and loopi by `loop_spec`, and a retirement by how the active levels count down. -/
theorem hardwareLoops : Obligations.HardwareLoops := by
  unfold Obligations.HardwareLoops
  refine ⟨⟨fun o s => loop_spec s o.off fun s => s.reg o.a, fun o s _ => loop_spec s o.off fun _ => o.n.zeroExtend 64,
    decodeR_loopiZero⟩, fun s => ?_⟩
  obtain ⟨hregs, honlyr, honly, hmem, -⟩ := done_onlyAdvances s true
  have hself := self_done_stop s
  refine ⟨_, rfl, hregs, honlyr, honly, hmem, ?_, fun hm => ?_, fun hm hd he hc => ?_, fun hm hd he hc => ?_, fun hm hd he => ?_,
    fun hm hd he hc => ?_, fun hm hd he hc he0 => ?_, fun hm hd he hc he0 hc0 => ?_, fun hm hd he => ?_⟩
  · rw [hself]
  · rw [hself, if_pos hm]; exact ⟨rfl, rfl⟩
  · rw [hself, if_neg hm, countDown_one _ _ _ hd, if_pos he, if_neg hc]; exact ⟨rfl, rfl⟩
  · rw [hself, if_neg hm, countDown_one _ _ _ hd, if_pos he, if_pos hc]; exact ⟨rfl, rfl⟩
  · rw [hself, if_neg hm, countDown_one _ _ _ hd, if_neg he]; exact ⟨rfl, rfl⟩
  · rw [hself, if_neg hm, countDown_two _ _ _ hd, if_pos he, if_neg hc]; exact ⟨rfl, rfl⟩
  · rw [hself, if_neg hm, countDown_two _ _ _ hd, if_pos he, if_pos hc, countDown_one _ _ _ rfl, if_neg he0]; exact ⟨rfl, rfl⟩
  · rw [hself, if_neg hm, countDown_two _ _ _ hd, if_pos he, if_pos hc, countDown_one _ _ _ rfl, if_pos he0, if_neg hc0]
    exact ⟨rfl, rfl⟩
  · rw [hself, if_neg hm, countDown_two _ _ _ hd, if_neg he]; exact ⟨rfl, rfl⟩

/-- wait, by whether its time has come. -/
theorem wait_spec (s : State) (o : RA) :
    ((s.reg o.a).toNat ≤ s.tb → ∃ t, execWait o s = .next t ∧ OnlyAdvances s t o.stop)
    ∧ (s.tb < (s.reg o.a).toNat → ∃ t, execWait o s = .next t ∧ Waits s t .time) := by
  unfold execWait
  exact ⟨fun h => ⟨_, runStream_ok (if_pos h), done_onlyAdvances s o.stop⟩, fun h => runStream_waits (if_neg (not_le.mpr h))⟩

/-- Settles O10: nop and the hints are retirements, and wait is one once the time has come. -/
theorem hintsAndWaits : Obligations.HintsAndWaits := by
  unfold Obligations.HintsAndWaits
  exact fun s => ⟨fun o => ⟨_, rfl, done_onlyAdvances s o.stop⟩,
    fun o => ⟨⟨_, rfl, done_onlyAdvances s o.stop⟩, ⟨_, rfl, done_onlyAdvances s o.stop⟩⟩, fun o => wait_spec s o⟩

end Sys2Proof.Machine
end


section
/-! PROOFS. Deferred traps on a halted core (R78, R80, R430): the statement does not ask that the core runs. -/

namespace Sys2Proof.Machine
open Sys2Proof

/-- Core 0 is halted by its debugger, and a sibling trap is posted to its C-stream, which runs in device mode. -/
def haltedSibling : State :=
  State.reset.updCore 0 fun k =>
    { k with c := { k.c with run := true, mode := .device, sib := some 1 }, dbg := { k.dbg with attached := true, halted := true } }

/-- A halted core takes no sibling trap. -/
theorem siblingTrap_halted (s : State) (core : Nat) (x : Bool) (h : (s.core core).dbg.halted = true) :
    exec (.siblingTrap core x) s = .next s := by
  show execSiblingTrap core x s = .next s
  simp only [execSiblingTrap]
  split
  · rfl
  · simp [h]

/-- Refutes O11, by its first clause: the C-stream of `haltedSibling` has a sibling trap posted, runs and can take a trap, but its core
is halted, so the trap stays posted. -/
theorem not_deferredTraps : ¬ Obligations.DeferredTraps := by
  unfold Obligations.DeferredTraps
  rintro ⟨hsib, -⟩
  have hcan : haltedSibling.canTrap 0 false := ⟨by decide, fun h => absurd h (by decide)⟩
  obtain ⟨t, ht, hcore, hstream, -⟩ := hsib 0 false haltedSibling 1 (by decide) (by decide) hcan
  rw [siblingTrap_halted _ _ _ (by decide), Host.Outcome.next.injEq] at ht
  subst ht
  exact absurd (congrArg Stream.sib hstream) (by decide)

end Sys2Proof.Machine
end


section
/-! PROOFS. The retirement of a head command on a halted core (R88, R430): the statement does not ask that the core runs. -/

namespace Sys2Proof.Machine
open Sys2Proof

/-- A mswap without a tail, as a queued command. -/
def plainSwap : Cmd := ⟨.mswap ⟨none, true⟩, 0, 0, 0, 0⟩

/-- Core 0 is halted by its debugger, and the one step of the mswap at the head of its matrix queue is complete. -/
def haltedRetire : State :=
  State.reset.updCore 0 fun k =>
    { k with matrix := { k.matrix with cmds := [plainSwap], begun := true, step := 1, latch := { k.matrix.latch with recs := [[]] } }
             dbg := { k.dbg with attached := true, halted := true } }

/-- No head command of a halted core retires. -/
theorem commandRetire_halted (s : State) (core : Nat) (q : EngQ) (h : (s.core core).dbg.halted = true) :
    exec (.commandRetire core q) s = .next s := by
  show execCommandRetire core q s = .next s
  simp only [execCommandRetire, h]
  split
  · simp
  · rfl

/-- Refutes O23, by its second part: the head of the matrix queue of `haltedRetire` has completed its steps, has no tail and meets no
fault, but its core is halted, so the command stays at the head. -/
theorem not_commandEnds : ¬ Obligations.CommandEnds := by
  unfold Obligations.CommandEnds
  rintro ⟨-, hretire⟩
  obtain ⟨hplain, -⟩ := hretire 0 .matrix haltedRetire plainSwap [] (by decide) (by decide) (by decide) (by decide) (by decide)
    (by decide) (fun ⟨_, ht, _⟩ => nomatch ht)
  obtain ⟨t, m, ht, -, -, -, hleft, -⟩ := hplain rfl
  rw [commandRetire_halted _ _ _ (by decide), Host.Outcome.next.injEq] at ht
  subst ht
  exact absurd (congrArg EngQueue.cmds hleft) (by decide)

end Sys2Proof.Machine
end


section
/-! PROOFS. CSRs (R82, R83, R107): what a CSR instruction reads, when it traps, and when a write is ignored. -/

namespace Sys2Proof.Machine
open Sys2Proof

/-- A node with a descriptor whose type and priority byte are given, and nothing else of note. -/
def bareNode (type prio : Byte) : Node :=
  { desc := List.replicate 24 0 ++ [type, prio], list := [], counter := 0, state := .running, cores := [], done := [], succs := []
    since := 0, started := 0, prioAt := 0, prioSince := 0, ran := [], waited := [], check := none, saved := [], wakes := [], alog := []
    members := [], rollbacks := 0, awaits := none, pendSince := none, pendSusp := false, overrun := false, left := 0, frz := [], novr := 0 }

/-- Core 0 runs the backfill node 1, on whose request node 2 waits at priority 0. The table of the cores is not in its canonical form:
it lists number 0 twice, and the second entry, which no access reads, is the core on which node 2 waits. -/
def listedTwice : State :=
  { State.reset with
    cores := [(0, { Core.init with node := some 1 }),
      (0, { Core.init with node := some 2, c := { Stream.init with wait := some (.backfill 0 0, 0) } })]
    dies := [(0, { Die.init with bfq := [⟨0, 0, 0, 0, 0, 0, 0, 0, 0, some 1, 0, 0, 0, [], 0⟩] })]
    hearth := { Hearth.init with nodes := [(1, bareNode 2 0), (2, bareNode 0 0)] } }

/-- nshape as the stream that executes reads it after a step. -/
def nshapeAfter : Host.Outcome State Fault Refusal → Option Dword
  | .next t => t.csr? 0x304
  | _ => none

/-- nshape shows the priority that the waiter lends. -/
theorem nshape_listedTwice : listedTwice.csr? 0x304 = some 0 := by decide

/-- A write of coldef leaves one entry of core 0 in the table, and the lender with the other one is gone. -/
theorem nshapeAfter_listedTwice : nshapeAfter (exec (.csrw ⟨0, 0, 0x009, false⟩) listedTwice) = some 0x8000 := by decide

/-- Refutes O13, by its clause on the CSRs that every mode writes: the statement ranges over every State, also one like `listedTwice`
whose table of cores lists a number twice. A write of coldef there drops the second entry, which held what node 2 waits on, so the
priority that node 2 lends to the running node is gone and nshape, another CSR, reads otherwise than before. -/
theorem not_csrUpdates : ¬ Obligations.CsrUpdates := by
  unfold Obligations.CsrUpdates
  rintro ⟨hputs, -⟩
  obtain ⟨hbits, -⟩ := hputs ⟨0, 0, 0x009, false⟩ listedTwice 0 (by decide)
  obtain ⟨⟨t, ht, -, -, -, -, -, -, -, hothers⟩, -⟩ := hbits 7 (.inl (by decide))
  have hafter := nshapeAfter_listedTwice
  rw [ht] at hafter
  have hsame := (hothers 0x304 (by decide) (by decide)).symm.trans hafter
  rw [nshape_listedTwice] at hsame
  exact absurd hsame (by decide)

/-! ### Reading a CSR, and its traps (R82, R107) -/

/-- A number that a chapter assigns gives the CSR's value. -/
theorem csrOld_some {s : State} {n : Nat} {v : Dword} (hn : n < 0x400) (h : s.csr? n = some v) : s.csrOld n = .ok v := by
  rw [State.csrOld, if_neg (not_le.mpr hn), h]

/-- A number below 0x400 that no chapter assigns traps. -/
theorem csrOld_none {s : State} {n : Nat} (hn : n < 0x400) (h : s.csr? n = none) : s.csrOld n = trapOf 0x13 (d64 n) := by
  rw [State.csrOld, if_neg (not_le.mpr hn), h]

/-- A number from 0x400 on traps by the mode. -/
theorem csrOld_high {s : State} {n : Nat} (hn : 0x400 ≤ n) :
    s.csrOld n = trapOf (if s.self.mode = .device then 0x13 else 0x12) (d64 n) :=
  if_pos hn

/-- A read gives the register the CSR's value. -/
theorem csrRead_ok {s : State} {csr : BitVec 12} {v : Dword} (d : Reg) (stop : Bool) (h : s.csrOld csr.toNat = .ok v) :
    s.csrRead d csr stop = .ok ((s.setReg d v).done stop) := by
  rw [State.csrRead, h]; rfl

/-- A read of a number that traps. -/
theorem csrRead_trap {s : State} {csr : BitVec 12} {code : Byte} {val : Dword} (d : Reg) (stop : Bool)
    (h : s.csrOld csr.toNat = trapOf code val) : s.csrRead d csr stop = trapOf code val := by
  rw [State.csrRead, h]; rfl

/-- A write of a number that traps. -/
theorem csrSwap_trap {s : State} {o : RCsr} {code : Byte} {val : Dword} (f : Dword → Dword)
    (h : s.csrOld o.csr.toNat = trapOf code val) : s.csrSwap o f = trapOf code val := by
  rw [State.csrSwap, h]; rfl

/-- A write whose value R111 admits. -/
theorem csrSwap_ok {s : State} {o : RCsr} {old : Dword} (f : Dword → Dword) (h : s.csrOld o.csr.toNat = .ok old)
    (hv : s.vtypeCheck o.csr.toNat (f old) = .ok ()) :
    s.csrSwap o f = .ok (((s.updHere fun c => c.putCsr s.curX o.csr.toNat (f old)).setReg o.d old).done o.stop) := by
  rw [State.csrSwap, h]
  show (s.vtypeCheck o.csr.toNat (f old) >>= fun _ => _) = _
  rw [hv]; rfl

/-! ### Writes that node mode ignores (R82) -/

/-- Node mode writes no core CSR but those that every mode writes. -/
theorem putAny_readOnly (r : CoreCsr) (n : Nat) (v : Dword) (hn : n ∉ [0x008, 0x009, 0x181, 0x289, 0x2C2, 0x3CA]) :
    r.putAny n v = r := by
  simp only [List.mem_cons, List.not_mem_nil, or_false, not_or] at hn
  obtain ⟨h1, h2, h3, h4, h5, h6⟩ := hn
  simp only [CoreCsr.putAny]

/-- The X-stream's own CSRs are the only ones that it writes in every mode. -/
theorem putX_readOnly (r : CoreVec) (n : Nat) (v : Dword) (hn : n ∉ [0x100, 0x101, 0x344]) (hr : ¬(0x360 ≤ n ∧ n ≤ 0x37F)) :
    r.putX n v = r := by
  simp only [List.mem_cons, List.not_mem_nil, or_false, not_or] at hn
  obtain ⟨h1, h2, h3⟩ := hn
  simp only [CoreVec.putX, h1, h2, h3, hr, if_false]

/-- A write that node mode ignores leaves the core as it is. -/
theorem putCsr_readOnly (c : Core) (x : Bool) (n : Nat) (v : Dword) (hm : (c.stream x).mode = .node)
    (hn : n ∉ [0x008, 0x009, 0x181, 0x289, 0x2C2, 0x3CA])
    (hx : x = true → n ∉ [0x100, 0x101, 0x344] ∧ ¬(0x360 ≤ n ∧ n ≤ 0x37F)) : c.putCsr x n v = c := by
  have hvec : (if x then c.vec.putX n v else c.vec) = c.vec := by
    cases x with
    | false => rfl
    | true => exact putX_readOnly c.vec n v (hx rfl).1 (hx rfl).2
  simp only [Core.putCsr, hm, if_true, putAny_readOnly c.csr n v hn, hvec]

/-- A write of a read-only CSR meets no check of R111. -/
theorem vtypeCheck_readOnly (s : State) (n : Nat) (v : Dword) (hn : n ∉ [0x008, 0x009, 0x181, 0x289, 0x2C2, 0x3CA])
    (hx : s.curX = true → n ∉ [0x100, 0x101, 0x344] ∧ ¬(0x360 ≤ n ∧ n ≤ 0x37F)) : s.vtypeCheck n v = .ok () := by
  have h8 : n ≠ 0x008 := fun h => hn (by simp [h])
  have h100 : (s.curX && n = 0x100) = false := by
    cases h : s.curX with
    | false => rfl
    | true => simp only [Bool.true_and, decide_eq_false_iff_not]; exact fun e => (hx h).1 (by simp [e])
  simp [State.vtypeCheck, h8, h100, need]

/-! ### States that differ in no core -/

theorem MemorySame.trans {s u t : State} (h : MemorySame s u) (k : MemorySame u t) : MemorySame s t :=
  ⟨fun v a p => (k.1 v a p).trans (h.1 v a p), fun c a => (k.2.1 c a).trans (h.2.1 c a), fun a => (k.2.2 a).trans (h.2.2 a)⟩

/-- Where one core changed, and not its scratchpad, every byte reads as before. -/
theorem memorySame_of_onlyCore {s t : State} {c : Nat} (h : OnlyCore s t c) (hsp : (t.core c).sp = (s.core c).sp) :
    MemorySame s t := by
  obtain ⟨he, hc⟩ := h
  refine ⟨fun _ _ _ => by rw [he], fun d a => ?_, fun a => by rw [he]⟩
  by_cases hd : d = c
  · rw [hd, hsp]
  · rw [hc d hd]

/-- The core that executes stays the one that executes. -/
theorem OnlyCore.here_eq {s t : State} {c : Nat} (h : OnlyCore s t c) : t.here = t.core s.cur := by
  rw [State.here, h.cur_eq]

/-- Where the core that executes is as it was, so is its stream. -/
theorem self_of_here {s u : State} (h : OnlyCore s u s.cur) (hh : u.here = s.here) : u.self = s.self := by
  rw [State.self, State.self, hh, h.curX_eq]

/-- An update that leaves the core as it was writes nothing. -/
theorem writes_of_sameHere {s u t : State} {d : Reg} {v : Dword} {stop : Bool} (h : OnlyCore s u s.cur) (hh : u.here = s.here)
    (hw : Writes u t d v stop) : Writes s t d v stop := by
  obtain ⟨hd, h0, hbut, hregs, ⟨honly, hhere⟩, hmem, hgo⟩ := hw
  have hself := self_of_here h hh
  have hsp : (u.core s.cur).sp = (s.core s.cur).sp := by rw [← h.here_eq, hh]; rfl
  rw [h.cur_eq] at honly
  rw [hh, h.curX_eq] at hhere
  refine ⟨hd, h0, ?_, ?_, ⟨h.trans honly, hhere⟩, (memorySame_of_onlyCore h hsp).trans hmem, ?_⟩
  · simpa only [RegsBut, hself] using hbut
  · simpa only [OnlyRegs, hself] using hregs
  · simpa only [GoesOn, hself] using hgo

/-- A CSR instruction whose write the mode ignores only reads. -/
theorem csrSwap_readOnly {s : State} {o : RCsr} {old : Dword} (f : Dword → Dword) (h : s.csrOld o.csr.toNat = .ok old)
    (hm : s.self.mode = .node) (hn : o.csr.toNat ∉ [0x008, 0x009, 0x181, 0x289, 0x2C2, 0x3CA])
    (hx : s.curX = true → o.csr.toNat ∉ [0x100, 0x101, 0x344] ∧ ¬(0x360 ≤ o.csr.toNat ∧ o.csr.toNat ≤ 0x37F)) :
    ∃ t, s.csrSwap o f = .ok t ∧ Writes s t o.d old o.stop := by
  refine ⟨_, csrSwap_ok f h (vtypeCheck_readOnly s _ _ hn hx), ?_⟩
  refine writes_of_sameHere (onlyCore_updHere s _) ?_ (setReg_done_writes _ o.d old o.stop)
  rw [State.here_updHere]
  exact putCsr_readOnly s.here s.curX o.csr.toNat (f old) hm hn hx

/-! ### The CSR instructions -/

theorem exec_csrr (o : RCsrR) (s : State) : exec (.csrr o) s = runStream s fun s => s.csrRead o.d o.csr o.stop := rfl

theorem exec_csrw (o : RCsr) (s : State) : exec (.csrw o) s = runStream s fun s => s.csrSwap o fun _ => s.reg o.a := rfl

theorem exec_csrs (o : RCsr) (s : State) : exec (.csrs o) s = runStream s fun s =>
    if o.a = 0 then s.csrRead o.d o.csr o.stop else s.csrSwap o fun old => old ||| s.reg o.a := rfl

theorem exec_csrc (o : RCsr) (s : State) : exec (.csrc o) s = runStream s fun s =>
    if o.a = 0 then s.csrRead o.d o.csr o.stop else s.csrSwap o fun old => old &&& ~~~(s.reg o.a) := rfl

/-- Where reads and writes of a CSR both only write the destination, so do the instructions. -/
theorem runStream_writes {s : State} {body : State → Except Stop State} {d : Reg} {v : Dword} {stop : Bool}
    (h : ∃ t, body s = .ok t ∧ Writes s t d v stop) : ∃ t, runStream s body = .next t ∧ Writes s t d v stop := by
  obtain ⟨t, ht, hw⟩ := h
  exact ⟨t, runStream_ok ht, hw⟩

/-- A read of an assigned CSR. -/
theorem csrRead_writes {s : State} {csr : BitVec 12} {v : Dword} (d : Reg) (stop : Bool) (h : s.csrOld csr.toNat = .ok v) :
    ∃ t, s.csrRead d csr stop = .ok t ∧ Writes s t d v stop :=
  ⟨_, csrRead_ok d stop h, setReg_done_writes s d v stop⟩

/-- A number that traps does so in each of the instructions that may write. -/
theorem csr_traps {s : State} {o : RCsr} {code : Byte} {val : Dword} (hm : s.mayTrap) (h : s.csrOld o.csr.toNat = trapOf code val)
    (hr : recorded code = false) (hc : code ≠ 0x71 ∧ code ≠ 0x72) (i : Instr) (hi : i = .csrw o ∨ i = .csrs o ∨ i = .csrc o) :
    ∃ t, exec i s = .next t ∧ TrapsHere s t code val := by
  rcases hi with rfl | rfl | rfl
  · rw [exec_csrw]
    exact runStream_trapsHere hm (csrSwap_trap _ h) hr hc
  · rw [exec_csrs]
    refine runStream_trapsHere hm ?_ hr hc
    split
    · exact csrRead_trap _ _ h
    · exact csrSwap_trap _ h
  · rw [exec_csrc]
    refine runStream_trapsHere hm ?_ hr hc
    split
    · exact csrRead_trap _ _ h
    · exact csrSwap_trap _ h

/-- The trap of a number from 0x400 on shows its cause alone. -/
theorem highCause_plain (m : Mode) : let code : Byte := if m = .device then 0x13 else 0x12
    recorded code = false ∧ code ≠ 0x71 ∧ code ≠ 0x72 := by
  cases m <;> decide

/-- Settles O12: a read is a write of the destination alone, and so is a write that the mode ignores; the traps come before
either. -/
theorem csrAccess : Obligations.CsrAccess := by
  unfold Obligations.CsrAccess
  refine ⟨fun s v => ⟨fun o hn h => ?_, fun o hn h => ⟨fun ha => ?_, fun hm hro hx => ?_⟩⟩, fun s hm => ⟨fun o => ?_, fun o => ?_⟩⟩
  · rw [exec_csrr]
    exact runStream_writes (csrRead_writes o.d o.stop (csrOld_some hn h))
  · have hread := csrRead_writes o.d o.stop (csrOld_some hn h)
    rw [exec_csrs, exec_csrc]
    simp only [ha, if_true]
    exact ⟨runStream_writes hread, runStream_writes hread⟩
  · have hold := csrOld_some hn h
    have hread := csrRead_writes o.d o.stop hold
    have hswap (f : Dword → Dword) := csrSwap_readOnly f hold hm hro hx
    rw [exec_csrw, exec_csrs, exec_csrc]
    by_cases ha : o.a = 0
    · simp only [ha, if_true]
      exact ⟨runStream_writes (hswap _), runStream_writes hread, runStream_writes hread⟩
    · simp only [ha, if_false]
      exact ⟨runStream_writes (hswap _), runStream_writes (hswap _), runStream_writes (hswap _)⟩
  · obtain ⟨hr, hc⟩ := highCause_plain s.self.mode
    rw [exec_csrr]
    exact ⟨fun hn h => runStream_trapsHere hm (csrRead_trap _ _ (csrOld_none hn h)) rfl (by decide),
      fun hn => runStream_trapsHere hm (csrRead_trap _ _ (csrOld_high hn)) hr hc⟩
  · obtain ⟨hr, hc⟩ := highCause_plain s.self.mode
    have traps (i : Instr) (hi : i = .csrw o ∨ i = .csrs o ∨ i = .csrc o) :=
      And.intro (fun hn h => csr_traps hm (csrOld_none hn h) rfl (by decide) i hi)
        (fun hn => csr_traps hm (csrOld_high (n := o.csr.toNat) hn) hr hc i hi)
    exact ⟨traps _ (.inl rfl), traps _ (.inr (.inl rfl)), traps _ (.inr (.inr rfl))⟩

end Sys2Proof.Machine
end


section
/-! PROOFS. Reset (R83, R112, R180, R196, R219, R256, R287, R313, R323, R366, R411, R418, R435, R439). -/

namespace Sys2Proof.Machine
open Sys2Proof

/-- The module after reset, as a stream of a core finds it. -/
def resetAt (core : Nat) (x : Bool) : State := { State.reset with cur := core, curX := x }

/-- The CSRs that reset to zero, in the statement's two lists. -/
def zeroCsrs : List Nat :=
  [0x006, 0x011, 0x012, 0x013, 0x014, 0x020, 0x021, 0x022, 0x023, 0x024, 0x025, 0x026, 0x030, 0x040, 0x041, 0x042, 0x043,
    0x044, 0x045, 0x046, 0x180, 0x181, 0x242, 0x243, 0x244]
  ++ [0x280, 0x281, 0x282, 0x283, 0x284, 0x285, 0x286, 0x287, 0x288, 0x289, 0x2C1, 0x2C2, 0x302, 0x303, 0x305, 0x345, 0x383,
    0x3C0, 0x3C1, 0x3C2, 0x3C3, 0x3C4, 0x3C5, 0x3C6, 0x3C7, 0x3C8, 0x3C9, 0x3CA, 0x3CC]

/-- No core is in the table after reset, so these CSRs read alike on every core. -/
theorem csr?_resetAt (core : Nat) (x : Bool) (n : Nat) (hn : n ∈ zeroCsrs) : (resetAt core x).csr? n = (resetAt 0 x).csr? n := by
  cases x <;> fin_cases hn <;> rfl

/-- On core 0 each of them reads zero. -/
theorem csr?_resetAt_zero : ∀ x : Bool, ∀ n ∈ zeroCsrs, (resetAt 0 x).csr? n = some 0 := by decide

/-- The ring of a VF after reset. -/
theorem ring_reset (vf q : Nat) (h : vf ≠ 0) : State.reset.ring vf q = SMap.get .init [] q := if_neg h

/-- The confidence thresholds of vconf (R323). -/
theorem csr?_resetAt_vcthr (core i : Nat) (hi : i < 32) : (resetAt core true).csr? (0x360 + i) = some 0x7F800000 := by
  have hstream : (resetAt core true).streamCsr (0x360 + i) = none := by
    unfold State.streamCsr
    rw [if_neg (by omega), if_neg (by omega), if_neg (by omega), if_neg (by omega), if_neg (by omega)]
  have hx : (resetAt core true).here.xCsr (0x360 + i) = some 0x7F800000 := by
    unfold Core.xCsr
    rw [if_neg (by omega), if_neg (by omega), if_neg (by omega), if_pos (by omega)]
    rfl
  rw [State.csr?, hstream]
  show (match (resetAt core true).here.xCsr (0x360 + i) with | some v => some v | none => _) = _
  rw [hx]

/-- Settles O58: no core, VF or measurement is in its table after reset, so each reads as its initial value. -/
theorem resetValues : Obligations.ResetValues := by
  unfold Obligations.ResetValues
  have hzero (core : Nat) (x : Bool) (n : Nat) (hn : n ∈ zeroCsrs) : (resetAt core x).csr? n = some 0 :=
    (csr?_resetAt core x n hn).trans (csr?_resetAt_zero x n hn)
  refine ⟨fun core x _ => ⟨fun n hn => hzero core x n (List.mem_append_left _ hn), fun n hn => hzero core x n (List.mem_append_right _ hn),
    by cases x <;> rfl, by cases x <;> rfl, ?_⟩, by decide, fun vf q h => ?_, fun i => rfl⟩
  · rintro rfl
    exact ⟨rfl, rfl, csr?_resetAt_vcthr core⟩
  · rw [ring_reset vf q h]
    exact ⟨rfl, rfl, rfl, rfl, rfl, rfl, rfl, rfl, rfl, rfl, rfl⟩

end Sys2Proof.Machine
end


section
/-! PROOFS. Control queues and vector queues (R74, R75, R106): what an instruction needs of them, waits for and traps on. -/

namespace Sys2Proof.Machine
open Sys2Proof

/-! ### What an instruction needs of its queues -/

/-- The outgoing control queue of a stream. -/
def Core.outgoing (c : Core) (x : Bool) : List Dword := if x then c.vec.toC else c.vec.toX

/-- The incoming control queue of a stream. -/
def Core.incoming (c : Core) (x : Bool) : List Dword := if x then c.vec.toX else c.vec.toC

theorem uses_cqpush (c : Core) (o : RA) : c.uses (.cqpush o) = { sr := [o.a], cqw := true } := rfl
theorem uses_cqpop (c : Core) (o : RD) : c.uses (.cqpop o) = { sw := [o.d], cqr := true } := rfl
theorem uses_vand (c : Core) (o : V3) : c.uses (.vand o) = Uses.v3 o := rfl
theorem uses_qrd (c : Core) (o : R3) : c.uses (.qrd o) = { sr := [o.a, o.b], push := [o.d] } := rfl
theorem uses_qwr (c : Core) (o : R3) : c.uses (.qwr o) = { sr := [o.a, o.b], pop := [(o.d, false)] } := rfl

/-- cqpush needs room in the outgoing control queue. -/
theorem queues_cqpush (s : State) (o : RA) :
    s.queues (.cqpush o) = if 16 ≤ (s.here.outgoing s.curX).length then waitOn .cqPush else .ok () := by
  show (s.here.localTrap _ >>= fun _ => s.here.queueWait s.curX _) = _
  simp only [uses_cqpush, Core.localTrap, Core.queueWait, List.map_nil, List.find?_nil, Bool.false_and, Bool.true_and,
    Bool.false_eq_true, if_false, decide_eq_true_eq, Core.outgoing]
  rfl

/-- cqpop needs a value in the incoming control queue. -/
theorem queues_cqpop (s : State) (o : RD) :
    s.queues (.cqpop o) = if (s.here.incoming s.curX).isEmpty then waitOn .cqPop else .ok () := by
  show (s.here.localTrap _ >>= fun _ => s.here.queueWait s.curX _) = _
  simp only [uses_cqpop, Core.localTrap, Core.queueWait, List.map_nil, List.find?_nil, Bool.false_and, Bool.true_and,
    Bool.false_eq_true, if_false, Core.incoming]
  rfl

/-- An instruction that has its queues goes on. -/
theorem queues_then {s : State} {i : Instr} {f : Unit → Except Stop State} (h : s.queues i = .ok ()) :
    (s.queues i >>= f) = f () := by rw [h]; rfl

/-- One that waits for them does nothing else. -/
theorem queues_wait {s : State} {i : Instr} {on : WaitOn} {f : Unit → Except Stop State} (h : s.queues i = waitOn on) :
    (s.queues i >>= f) = waitOn on := by rw [h]; rfl

/-- One that traps on them does nothing else. -/
theorem queues_trap {s : State} {i : Instr} {code : Byte} {val : Dword} {f : Unit → Except Stop State}
    (h : s.queues i = trapOf code val) : (s.queues i >>= f) = trapOf code val := by rw [h]; rfl

/-! ### Control queues (R106) -/

/-- The core after a push of the outgoing control queue of its stream. -/
def Core.cqPushed (c : Core) (x : Bool) (v : Dword) : Core :=
  { c with vec := if x then { c.vec with toC := c.vec.toC ++ [v] } else { c.vec with toX := c.vec.toX ++ [v] } }

/-- The core after a pop of the incoming control queue of its stream. -/
def Core.cqPopped (c : Core) (x : Bool) (rest : List Dword) : Core :=
  { c with vec := if x then { c.vec with toX := rest } else { c.vec with toC := rest } }

theorem exec_cqpush (o : RA) (s : State) : exec (.cqpush o) s = runStream s fun s => s.queues (.cqpush o) >>= fun _ =>
    .ok ((s.updHere fun c => c.cqPushed s.curX (s.reg o.a)).done o.stop) := rfl

theorem exec_cqpop (o : RD) (s : State) : exec (.cqpop o) s = runStream s fun s => s.queues (.cqpop o) >>= fun _ =>
    .ok (((s.updHere fun c => c.cqPopped s.curX (s.here.incoming s.curX).tail).setReg o.d
      ((s.here.incoming s.curX).headD 0)).done o.stop) := rfl

/-- An update of the core that executes, but not of its scratchpad, changes no byte. -/
theorem memorySame_updHere (s : State) (f : Core → Core) (h : (f s.here).sp = s.here.sp) : MemorySame s (s.updHere f) :=
  memorySame_of_onlyCore (onlyCore_updHere s f) ((congrArg Core.sp (State.here_updHere s f)).trans h)

theorem AdvancesBy.memorySame {s t : State} {n : Nat} {stop : Bool} (h : AdvancesBy s t n stop) : MemorySame s t := by
  obtain ⟨-, -, -, hmem, -⟩ := h
  exact hmem

theorem Writes.memorySame {s t : State} {d : Reg} {v : Dword} {stop : Bool} (h : Writes s t d v stop) : MemorySame s t := by
  obtain ⟨-, -, -, -, -, hmem, -⟩ := h
  exact hmem

/-- An update of the core followed by a retirement. -/
theorem updHere_done_spec (s : State) (f : Core → Core) (stop : Bool) (h : (f s.here).sp = s.here.sp) :
    MemorySame s ((s.updHere f).done stop) ∧ OnlyAdvances (s.updHere f) ((s.updHere f).done stop) stop := by
  have hadv := done_onlyAdvances (s.updHere f) stop
  exact ⟨(memorySame_updHere s f h).trans hadv.memorySame, hadv⟩

/-- An update of the core followed by a write of a register and a retirement. -/
theorem updHere_writes_spec (s : State) (f : Core → Core) (d : Reg) (v : Dword) (stop : Bool) (h : (f s.here).sp = s.here.sp) :
    MemorySame s (((s.updHere f).setReg d v).done stop) ∧ Writes (s.updHere f) (((s.updHere f).setReg d v).done stop) d v stop := by
  have hw := setReg_done_writes (s.updHere f) d v stop
  exact ⟨(memorySame_updHere s f h).trans hw.memorySame, hw⟩

/-- Settles O14: both instructions wait for their control queue, and else change it and retire. -/
theorem controlQueues : Obligations.ControlQueues := by
  unfold Obligations.ControlQueues
  refine fun s => ⟨fun o => ⟨fun h => ?_, fun h => ?_⟩, fun o => ⟨fun v rest h => ?_, fun h => ?_⟩⟩
  · have hout : (s.here.outgoing s.curX).length < 16 := h
    rw [exec_cqpush]
    refine ⟨_, runStream_ok (queues_then ?_), updHere_done_spec s _ o.stop rfl⟩
    rw [queues_cqpush, if_neg (not_le.mpr hout)]
  · have hout : 16 ≤ (s.here.outgoing s.curX).length := h
    rw [exec_cqpush]
    exact runStream_waits (queues_wait (by rw [queues_cqpush, if_pos hout]))
  · have hin : s.here.incoming s.curX = v :: rest := h
    rw [exec_cqpop]
    refine ⟨_, runStream_ok (queues_then ?_), ?_⟩
    · rw [queues_cqpop, hin]; rfl
    · rw [hin]
      exact updHere_writes_spec s _ o.d v o.stop rfl
  · have hin : s.here.incoming s.curX = [] := h
    rw [exec_cqpop]
    exact runStream_waits (queues_wait (by rw [queues_cqpop, hin]; rfl))

/-! ### Vector queues (R74, R75) -/

/-- Two reads of different queues need one entry of each. -/
theorem neededOf_two {a b : Reg} (h : a ≠ b) (pa pb : Bool) :
    neededOf a [(a, pa), (b, pb)] = 1 ∧ neededOf b [(a, pa), (b, pb)] = 1 := by
  cases pa <;> cases pb <;> simp [neededOf, h, h.symm]

/-- A queue that no read names is not popped. -/
theorem popsOf_two {a b d : Reg} (ha : d ≠ a) (hb : d ≠ b) (pa pb : Bool) : popsOf d [(a, pa), (b, pb)] = 0 := by
  simp [popsOf, ha.symm, hb.symm]

/-- The entries of a queue of the core that executes. -/
def State.qlen (s : State) (q : Reg) : Nat := (s.here.queue q.toNat).length

/-- A read of one entry that a local queue lacks. -/
theorem localShort_eq (s : State) (q : Reg) :
    (localQ q && decide ((s.here.queue q.toNat).length < 1)) = decide (16 ≤ q.toNat ∧ s.qlen q = 0) := by
  show (decide (16 ≤ q.toNat) && decide (s.qlen q < 1)) = _
  simp only [Nat.lt_one_iff, Bool.decide_and]

/-- A read of one entry that a shared queue lacks. -/
theorem sharedShort_eq (s : State) (q : Reg) :
    (!localQ q && decide ((s.here.queue q.toNat).length < 1)) = decide (q.toNat < 16 ∧ s.qlen q = 0) := by
  show (!decide (16 ≤ q.toNat) && decide (s.qlen q < 1)) = _
  simp only [Nat.lt_one_iff, Bool.decide_and, ← decide_not, not_le]

/-- A push for which a local queue, that no read pops, has no room. -/
theorem localFull_eq (s : State) (q : Reg) :
    (localQ q && decide (4 + 0 < (s.here.queue q.toNat).length + 1)) = decide (16 ≤ q.toNat ∧ 4 ≤ s.qlen q) := by
  show (decide (16 ≤ q.toNat) && decide (4 < s.qlen q + 1)) = _
  simp only [Nat.lt_succ_iff, Bool.decide_and]

/-- A push for which a shared queue has no room. -/
theorem sharedFull_eq (s : State) (q : Reg) :
    (!localQ q && decide (4 ≤ (s.here.queue q.toNat).length)) = decide (q.toNat < 16 ∧ 4 ≤ s.qlen q) := by
  show (!decide (16 ≤ q.toNat) && decide (4 ≤ s.qlen q)) = _
  simp only [Bool.decide_and, ← decide_not, not_le]

section
variable {o : V3} {s : State} (hab : o.a ≠ o.b)
include hab

/-- The local queues of vand: its operands in their order, then its destination. -/
theorem localTrap_vand (hda : o.d ≠ o.a) (hdb : o.d ≠ o.b) : s.here.localTrap (s.here.uses (.vand o)) =
    if 16 ≤ o.a.toNat ∧ s.qlen o.a = 0 then trapOf 0x10 (o.a.zeroExtend 64)
    else if 16 ≤ o.b.toNat ∧ s.qlen o.b = 0 then trapOf 0x10 (o.b.zeroExtend 64)
    else if 16 ≤ o.d.toNat ∧ 4 ≤ s.qlen o.d then trapOf 0x11 (o.d.zeroExtend 64) else .ok () := by
  obtain ⟨hna, hnb⟩ := neededOf_two hab o.pa o.pb
  have hnd := popsOf_two hda hdb o.pa o.pb
  simp only [Core.localTrap, uses_vand, Uses.v3, List.map_cons, List.map_nil, List.find?_cons, List.find?_nil, hna, hnb, hnd,
    localShort_eq, localFull_eq]
  by_cases ha : 16 ≤ o.a.toNat ∧ s.qlen o.a = 0
  · simp only [ha, and_self, decide_true, if_true]
  by_cases hb : 16 ≤ o.b.toNat ∧ s.qlen o.b = 0
  · simp only [ha, hb, and_self, decide_true, decide_false, if_true, if_false]
  by_cases hd : 16 ≤ o.d.toNat ∧ 4 ≤ s.qlen o.d
  · simp only [ha, hb, hd, and_self, decide_true, decide_false, if_true, if_false]
  · simp only [ha, hb, hd, decide_false, if_false]

/-- The shared queues of vand. -/
theorem queueWait_vand : s.here.queueWait true (s.here.uses (.vand o)) =
    if o.a.toNat < 16 ∧ s.qlen o.a = 0 then waitOn (.popQ o.a.toNat)
    else if o.b.toNat < 16 ∧ s.qlen o.b = 0 then waitOn (.popQ o.b.toNat)
    else if o.d.toNat < 16 ∧ 4 ≤ s.qlen o.d then waitOn (.pushQ o.d.toNat) else .ok () := by
  obtain ⟨hna, hnb⟩ := neededOf_two hab o.pa o.pb
  simp only [Core.queueWait, uses_vand, Uses.v3, List.map_cons, List.map_nil, List.find?_cons, List.find?_nil, hna, hnb,
    sharedShort_eq, sharedFull_eq, if_true, Bool.false_and, Bool.false_eq_true, if_false]
  by_cases ha : o.a.toNat < 16 ∧ s.qlen o.a = 0
  · simp only [ha, and_self, decide_true, if_true]
  by_cases hb : o.b.toNat < 16 ∧ s.qlen o.b = 0
  · simp only [ha, hb, and_self, decide_true, decide_false, if_true, if_false]
  by_cases hd : o.d.toNat < 16 ∧ 4 ≤ s.qlen o.d
  · simp only [ha, hb, hd, and_self, decide_true, decide_false, if_true, if_false]
  · simp only [ha, hb, hd, decide_false, if_false]

end

/-- vand looks at the local queues first. -/
theorem queues_vand_trap {o : V3} {s : State} {code : Byte} {val : Dword}
    (h : s.here.localTrap (s.here.uses (.vand o)) = trapOf code val) : s.queues (.vand o) = trapOf code val := by
  rw [State.queues, h]; rfl

/-- Then it looks at the shared ones. -/
theorem queues_vand_shared {o : V3} {s : State} (hx : s.curX = true) (h : s.here.localTrap (s.here.uses (.vand o)) = .ok ()) :
    s.queues (.vand o) = s.here.queueWait true (s.here.uses (.vand o)) := by
  rw [State.queues, h, hx]; rfl

theorem exec_vand (o : V3) (s : State) : exec (.vand o) s = runStream s fun s => s.bitLanes (.vand o) o fun x y => x &&& y := rfl

/-- qrd pushes one entry into a shared queue. -/
theorem queues_qrd {o : R3} {s : State} (hx : s.curX = false) (hd : o.d.toNat < 16) :
    s.queues (.qrd o) = if 4 ≤ s.qlen o.d then waitOn (.qrdFull o.d.toNat) else .ok () := by
  have hloc : localQ o.d = false := by simpa [localQ] using hd
  have htrap : s.here.localTrap (s.here.uses (.qrd o)) = .ok () := by
    simp [Core.localTrap, uses_qrd, hloc]
  rw [State.queues, htrap, hx]
  show s.here.queueWait false (s.here.uses (.qrd o)) = _
  by_cases h : 4 ≤ s.qlen o.d
  · simp [Core.queueWait, uses_qrd, sharedFull_eq, h, hd]
  · simp [Core.queueWait, uses_qrd, sharedFull_eq, h]

/-- qwr pops one entry of a shared queue. -/
theorem queues_qwr {o : R3} {s : State} (hx : s.curX = false) (hd : o.d.toNat < 16) :
    s.queues (.qwr o) = if s.qlen o.d = 0 then waitOn (.qwrEmpty o.d.toNat) else .ok () := by
  have hloc : localQ o.d = false := by simpa [localQ] using hd
  have htrap : s.here.localTrap (s.here.uses (.qwr o)) = .ok () := by
    simp [Core.localTrap, uses_qwr, hloc]
  have hneed : neededOf o.d [(o.d, false)] = 1 := by simp [neededOf]
  rw [State.queues, htrap, hx]
  show s.here.queueWait false (s.here.uses (.qwr o)) = _
  simp only [Core.queueWait, uses_qwr, List.map_cons, List.map_nil, List.find?_cons, List.find?_nil, hneed, sharedShort_eq, hd,
    true_and]
  by_cases h : s.qlen o.d = 0 <;> simp [h]

/-- An instruction whose queues are looked at first ends as they say. -/
theorem exec_vand_trap {o : V3} {s : State} {code : Byte} {val : Dword} (hm : s.mayTrap) (h : s.queues (.vand o) = trapOf code val)
    (hr : recorded code = false) (hc : code ≠ 0x71 ∧ code ≠ 0x72) : ∃ t, exec (.vand o) s = .next t ∧ TrapsHere s t code val := by
  rw [exec_vand]
  exact runStream_trapsHere hm (queues_trap h) hr hc

theorem exec_vand_wait {o : V3} {s : State} {on : WaitOn} (h : s.queues (.vand o) = waitOn on) :
    ∃ t, exec (.vand o) s = .next t ∧ Waits s t on := by
  rw [exec_vand]
  exact runStream_waits (queues_wait h)

/-- Settles O31: vand's local queues decide before its shared ones, and operands before the destination. -/
theorem queueReadiness : Obligations.QueueReadiness := by
  unfold Obligations.QueueReadiness
  refine ⟨fun o s hx hab hda hdb => ?_, fun o s hx hd => ?_⟩
  · have htrap := localTrap_vand (s := s) hab hda hdb
    have hwait := queueWait_vand (s := s) hab
    refine ⟨fun ha hb hd => ?_, fun ha h0 hm => ?_, fun ha hb hd h4 hm => ?_, fun ha h0 hb hd => ?_, fun ha hb hd h4 => ?_⟩
    · have hna : s.qlen o.a ≠ 0 := Nat.ne_of_gt ha
      have hnb : s.qlen o.b ≠ 0 := Nat.ne_of_gt hb
      have hnd : ¬4 ≤ s.qlen o.d := not_le.mpr hd
      simp only [hna, hnb, hnd, and_false, if_false] at htrap hwait
      exact (queues_vand_shared hx htrap).trans hwait
    · have h0 : s.qlen o.a = 0 := h0
      exact exec_vand_trap hm (queues_vand_trap (htrap.trans (if_pos ⟨ha, h0⟩))) rfl (by decide)
    · have hna : s.qlen o.a ≠ 0 := Nat.ne_of_gt ha
      have hnb : s.qlen o.b ≠ 0 := Nat.ne_of_gt hb
      have h4 : 4 ≤ s.qlen o.d := h4
      simp only [hna, hnb, hd, h4, and_false, and_self, if_false, if_true] at htrap
      exact exec_vand_trap hm (queues_vand_trap htrap) rfl (by decide)
    · have h0 : s.qlen o.a = 0 := h0
      have hnb : s.qlen o.b ≠ 0 := Nat.ne_of_gt hb
      have hnd : ¬4 ≤ s.qlen o.d := not_le.mpr hd
      simp only [not_le.mpr ha, hnb, hnd, false_and, and_false, if_false] at htrap
      exact exec_vand_wait ((queues_vand_shared hx htrap).trans (hwait.trans (if_pos ⟨ha, h0⟩)))
    · have hna : s.qlen o.a ≠ 0 := Nat.ne_of_gt ha
      have hnb : s.qlen o.b ≠ 0 := Nat.ne_of_gt hb
      have h4 : 4 ≤ s.qlen o.d := h4
      simp only [hna, hnb, not_le.mpr hd, hd, h4, false_and, and_false, and_self, if_false, if_true] at htrap hwait
      exact exec_vand_wait ((queues_vand_shared hx htrap).trans hwait)
  · have hqrd := queues_qrd (o := o) hx hd
    have hqwr := queues_qwr (o := o) hx hd
    refine ⟨fun h => hqrd.trans (if_neg (not_le.mpr h)), fun h => hqwr.trans (if_neg (Nat.ne_of_gt h)), fun h => ?_, fun h => ?_⟩
    · exact runStream_waits (body := fun s => s.queues (.qrd o) >>= fun _ => _) (queues_wait (hqrd.trans (if_pos h)))
    · exact runStream_waits (body := fun s => s.queues (.qwr o) >>= fun _ => _) (queues_wait (hqwr.trans (if_pos h)))

end Sys2Proof.Machine
end


section
/-! PROOFS. Semaphores (R93 to R96): how waiters are served, and the four instructions. -/

namespace Sys2Proof.Machine
open Sys2Proof

/-! ### Semaphores of a core -/

@[simp] theorem Core.sem_setSem (c : Core) (n : Nat) (v : Sem) : (c.setSem n v).sem n = v := SMap.get_set_self _ _ _ _

theorem Core.sem_setSem_ne (c : Core) (n j : Nat) (v : Sem) (h : j ≠ n) : (c.setSem n v).sem j = c.sem j :=
  SMap.get_set_ne _ _ _ _ _ h

/-- The core with its semaphores, waiters and served waits as given. -/
def Core.withSems (c : Core) (sems : SMap Sem) (ws gs : List (Nat × Waiter)) : Core :=
  { c with sems := sems, waiters := ws, granted := gs }

/-- Serving changes the semaphores, their waiters and the served waits alone. -/
theorem serveFrom_only (c : Core) (n : Nat) (l : List (Nat × Waiter)) :
    ∃ sems ws gs, c.serveFrom n l = c.withSems sems ws gs := by
  induction l generalizing c with
  | nil => exact ⟨c.sems, c.waiters, c.granted, rfl⟩
  | cons w l ih =>
    unfold Core.serveFrom
    split
    · exact ih c
    · split
      · exact ⟨c.sems, c.waiters, c.granted, rfl⟩
      · obtain ⟨sems, ws, gs, h⟩ := ih { c.setSem n { c.sem n with count := (c.sem n).count - 1 } with
          waiters := c.waiters.filter (· != w), granted := c.granted ++ [w] }
        exact ⟨sems, ws, gs, h⟩

/-- Nobody waits on the semaphore. -/
theorem serveFrom_idle (c : Core) (n : Nat) (l : List (Nat × Waiter)) (h : ∀ p ∈ l, p.1 ≠ n) : c.serveFrom n l = c := by
  induction l with
  | nil => rfl
  | cons w l ih =>
    unfold Core.serveFrom
    rw [if_pos (h w List.mem_cons_self), ih fun p hp => h p (List.mem_cons_of_mem w hp)]

/-- A count of zero serves nobody. -/
theorem serveFrom_zero (c : Core) (n : Nat) (l : List (Nat × Waiter)) (h : (c.sem n).count = 0) : c.serveFrom n l = c := by
  induction l with
  | nil => rfl
  | cons w l ih =>
    unfold Core.serveFrom
    split
    · exact ih
    · simp [h]

/-- A count of 1 goes to the first waiter, where it is no timed command. -/
theorem serveFrom_first (c : Core) (n : Nat) (l : List (Nat × Waiter)) (w : Nat × Waiter) (h : l.find? (fun p => p.1 == n) = some w)
    (ht : c.timedWaiter w.2 = false) (hc : (c.sem n).count = 1) :
    c.serveFrom n l = { c.setSem n { c.sem n with count := 0 } with
      waiters := c.waiters.filter (· != w), granted := c.granted ++ [w] } := by
  induction l with
  | nil => cases h
  | cons p l ih =>
    unfold Core.serveFrom
    rw [List.find?_cons] at h
    by_cases hp : p.1 = n
    · simp only [hp, beq_self_eq_true, Option.some.injEq] at h
      subst h
      have hpos : ((c.sem n).count = 0 || c.timedWaiter p.2) = false := by rw [ht, hc]; rfl
      rw [if_neg (not_not.mpr hp), if_neg (by rw [hpos]; decide), hc]
      exact serveFrom_zero _ n l (by show (((c.setSem n _).sem n).count) = 0; rw [Core.sem_setSem]; rfl)
    · have hp' : (p.1 == n) = false := by simpa using hp
      rw [if_pos hp]
      rw [hp'] at h
      exact ih h

/-- A served wait of the C-stream is given back (R95). -/
theorem ungrant_sem (c : Core) (n : Nat) : (c.ungrant n).sem n = c.semNow n := Core.sem_setSem c n (c.semNow n)

/-- Without a served wait the count stands as it is. -/
theorem semNow_of_not_granted (c : Core) (n : Nat) (h : (n, Waiter.stream) ∉ c.granted) : c.semNow n = c.sem n := by
  simp [Core.semNow, h]

/-- Without a served wait there is none to give back. -/
theorem ungrant_granted (c : Core) (n : Nat) (h : (n, Waiter.stream) ∉ c.granted) : (c.ungrant n).granted = c.granted := by
  refine List.filter_eq_self.mpr fun p hp => ?_
  rw [bne_iff_ne]
  rintro rfl
  exact h hp

/-- The core after a semaphore takes a value and its waiters are served: what semset and semsig do. -/
def Core.semServed (c : Core) (n : Nat) (v : Sem) : Core := ((c.ungrant n).setSem n v).semServe n

theorem semServed_eq (c : Core) (n : Nat) (v : Sem) : c.semServed n v = ((c.ungrant n).setSem n v).serveFrom n c.waiters := rfl

/-- Only the semaphores, their waiters and the served waits change. -/
theorem semServed_only (c : Core) (n : Nat) (v : Sem) : ∃ sems ws gs, c.semServed n v = c.withSems sems ws gs := by
  obtain ⟨sems, ws, gs, h⟩ := serveFrom_only ((c.ungrant n).setSem n v) n c.waiters
  exact ⟨sems, ws, gs, by rw [semServed_eq, h]; rfl⟩

/-- Serving touches no scratchpad byte. -/
theorem semServed_sp (c : Core) (n : Nat) (v : Sem) : (c.semServed n v).sp = c.sp := by
  obtain ⟨sems, ws, gs, h⟩ := semServed_only c n v
  rw [h]; rfl

/-- Where nobody waits, the value stands as written. -/
theorem semServed_idle (c : Core) (n : Nat) (v : Sem) (hw : ∀ p ∈ c.waiters, p.1 ≠ n) (hg : (n, Waiter.stream) ∉ c.granted) :
    (c.semServed n v).sem n = v ∧ (c.semServed n v).waiters = c.waiters ∧ (c.semServed n v).granted = c.granted := by
  rw [semServed_eq, serveFrom_idle _ n _ hw]
  exact ⟨Core.sem_setSem _ n v, rfl, ungrant_granted c n hg⟩

/-- Where the count was zero, a signal's count goes to the first waiter. -/
theorem semServed_first (c : Core) (n : Nat) (w : Nat × Waiter) (h : c.waiters.find? (fun p => p.1 == n) = some w)
    (ht : c.timedWaiter w.2 = false) (hg : (n, Waiter.stream) ∉ c.granted) (h0 : (c.semNow n).count = 0) :
    let t := c.semServed n { c.semNow n with count := (c.semNow n).count + 1 }
    t.sem n = c.semNow n ∧ t.waiters = c.waiters.filter (· != w) ∧ t.granted = c.granted ++ [w] := by
  generalize hv : ({ c.semNow n with count := (c.semNow n).count + 1 } : Sem) = v
  have hone : v.count = 1 := by rw [← hv, h0]; rfl
  have hback : ({ v with count := 0 } : Sem) = c.semNow n := by rw [← hv, ← h0]
  have hfirst := serveFrom_first ((c.ungrant n).setSem n v) n c.waiters w h (by rw [← ht]; cases w.2 <;> rfl)
    (by rw [Core.sem_setSem, hone])
  rw [Core.sem_setSem, hback] at hfirst
  rw [semServed_eq, hfirst]
  refine ⟨Core.sem_setSem _ n _, rfl, ?_⟩
  show (c.ungrant n).granted ++ [w] = c.granted ++ [w]
  rw [ungrant_granted c n hg]

/-- The core that executes after a retirement, but for its stream, is as it was. -/
theorem here_done_sems (s : State) (stop : Bool) (n : Nat) :
    (s.done stop).here.sem n = s.here.sem n ∧ (s.done stop).here.waiters = s.here.waiters
      ∧ (s.done stop).here.granted = s.here.granted := by
  rw [State.here_done]
  refine ⟨?_, Core.setStream_waiters _ _ _, Core.setStream_granted _ _ _⟩
  show SMap.get _ (s.here.setStream _ _).sems n = _
  rw [Core.setStream_sems]; rfl

/-! ### semset and semsig (R96) -/

theorem exec_semset (o : SSet) (s : State) : exec (.semset o) s = runStream s fun s =>
    need (s.reg o.b != 0 && decide ((s.reg o.b).toNat ≤ 0xFFFF ∧ (s.reg o.a).toNat ≤ (s.reg o.b).toNat))
      (trapOf 0x51 (o.n.zeroExtend 64)) >>= fun _ =>
    .ok ((s.updHere fun k => k.semServed o.n.toNat ⟨(s.reg o.a).setWidth 16, (s.reg o.b).setWidth 16⟩).done o.stop) := rfl

/-- A check that holds lets the rest go on. -/
theorem need_then {α : Type} {b : Bool} {e : Except Stop Unit} {f : Unit → Except Stop α} (h : b = true) :
    (need b e >>= f) = f () := by rw [h]; rfl

/-- A check that fails traps. -/
theorem need_trap {α : Type} {b : Bool} {code : Byte} {val : Dword} {f : Unit → Except Stop α} (h : b = false) :
    (need b (trapOf code val) >>= f) = trapOf code val := by rw [h]; rfl

/-- A check that fails waits. -/
theorem need_wait {α : Type} {b : Bool} {on : WaitOn} {f : Unit → Except Stop α} (h : b = false) :
    (need b (waitOn on) >>= f) = waitOn on := by rw [h]; rfl

/-- semset's check of its pair. -/
theorem semset_ok_iff (c m : Dword) :
    (m != 0 && decide (m.toNat ≤ 0xFFFF ∧ c.toNat ≤ m.toNat)) = true ↔ m ≠ 0 ∧ m.toNat ≤ 0xFFFF ∧ c.toNat ≤ m.toNat := by
  simp only [Bool.and_eq_true, bne_iff_ne, decide_eq_true_eq]

/-- A release at core scope is performed once the agent's writes are in the die's order, and changes nothing (R264, R270). -/
theorem release_core (s : State) : s.release s.me (dieOf s.cur) 0 =
    if s.mem.performed (.stream s.cur) (s.cur / 64) 0 0xFF then .ok s else waitOn .order := by
  have h : (decide (0 < 4) || s.peersDone s.me) = true := rfl
  unfold State.release
  rw [h, Bool.and_true]
  rfl

/-- semsig, once it is known whether the count is at its ceiling. -/
def State.semsigBody (s : State) (o : SN) : Except Stop State :=
  match (s.here.ungrant o.n.toNat).semSignal o.n.toNat with
  | none => trapOf 0x50 (o.n.zeroExtend 64)
  | some c => s.release s.me (dieOf s.cur) 0 >>= fun s =>
    .ok ((s.updHere fun k => k.withSems c.sems c.waiters c.granted).done o.stop)

theorem exec_semsig (o : SN) (s : State) : exec (.semsig o) s = runStream s fun s => s.semsigBody o := rfl

/-- A signal raises the count that the C-stream finds, and serves (R94). -/
theorem semSignal_ungrant (c : Core) (n : Nat) : (c.ungrant n).semSignal n =
    if (c.semNow n).count = (c.semNow n).ceiling then none
    else some (c.semServed n { c.semNow n with count := (c.semNow n).count + 1 }) := by
  rw [Core.semSignal, ungrant_sem]
  rfl

/-- What a core's semaphores became is all that serving changed. -/
theorem withSems_semServed (c : Core) (n : Nat) (v : Sem) :
    c.withSems (c.semServed n v).sems (c.semServed n v).waiters (c.semServed n v).granted = c.semServed n v := by
  obtain ⟨sems, ws, gs, h⟩ := semServed_only c n v
  rw [h]; rfl

/-- Two updates that agree on the core that executes agree. -/
theorem updHere_congr {s : State} {f g : Core → Core} (h : f s.here = g s.here) : s.updHere f = s.updHere g :=
  congrArg (s.setCore s.cur) h

/-- semsig below the ceiling. -/
theorem semsigBody_signals {s : State} {o : SN}
    (hc : (s.here.semNow o.n.toNat).count ≠ (s.here.semNow o.n.toNat).ceiling) :
    s.semsigBody o = if s.mem.performed (.stream s.cur) (s.cur / 64) 0 0xFF then
      .ok ((s.updHere fun k => k.semServed o.n.toNat
        { s.here.semNow o.n.toNat with count := (s.here.semNow o.n.toNat).count + 1 }).done o.stop)
      else waitOn .order := by
  rw [State.semsigBody, semSignal_ungrant, if_neg hc]
  show (s.release s.me (dieOf s.cur) 0 >>= fun s' => _) = _
  rw [release_core]
  split
  · exact congrArg (fun t : State => Except.ok (ε := Stop) (t.done o.stop)) (updHere_congr (withSems_semServed s.here _ _))
  · rfl

/-- semsig at the ceiling. -/
theorem semsigBody_traps {s : State} {o : SN} (hc : (s.here.semNow o.n.toNat).count = (s.here.semNow o.n.toNat).ceiling) :
    s.semsigBody o = trapOf 0x50 (o.n.zeroExtend 64) := by
  rw [State.semsigBody, semSignal_ungrant, if_pos hc]

/-- The semaphores of the core that executes, after it has served a semaphore and retired. -/
theorem semServed_done (s : State) (n j : Nat) (v : Sem) (stop : Bool) :
    let t := (s.updHere fun k => k.semServed n v).done stop
    t.here.sem j = (s.here.semServed n v).sem j ∧ t.here.waiters = (s.here.semServed n v).waiters
      ∧ t.here.granted = (s.here.semServed n v).granted := by
  have h := here_done_sems (s.updHere fun k => k.semServed n v) stop j
  rwa [State.here_updHere] at h

/-! ### semwait and semrd (R96) -/

/-- semwait, by what the C-stream takes. -/
def State.semwaitBody (s : State) (o : SN) : Except Stop State :=
  match s.here.semTake o.n.toNat .stream with
  | none => waitOn (.sem o.n.toNat)
  | some c => .ok ((s.setCore s.cur c).done o.stop)

theorem exec_semwait (o : SN) (s : State) : exec (.semwait o) s = runStream s fun s => s.semwaitBody o := rfl

/-- The first of a semaphore's waiters is a given one, or there is none. -/
theorem first_iff (c : Core) (n : Nat) (w : Waiter) :
    ((c.waiters.find? fun p => p.1 == n).all fun p => p.2 == w) = true
      ↔ ∀ p, c.waiters.find? (fun p => p.1 == n) = some p → p.2 = w := by
  cases c.waiters.find? fun p => p.1 == n <;> simp

/-- A wait that a signal has served completes. -/
theorem semTake_granted {c : Core} {n : Nat} {w : Waiter} (h : (n, w) ∈ c.granted) :
    c.semTake n w = some { c with granted := c.granted.filter (· != (n, w)) } := by
  rw [Core.semTake, if_pos (by simpa using h)]

/-- The first waiter takes a count. -/
theorem semTake_first {c : Core} {n : Nat} {w : Waiter} (h : (n, w) ∉ c.granted)
    (hf : ∀ p, c.waiters.find? (fun p => p.1 == n) = some p → p.2 = w) (hc : (c.sem n).count ≠ 0) :
    c.semTake n w = some { c.setSem n { c.sem n with count := (c.sem n).count - 1 } with
      waiters := c.waiters.filter fun p => p != (n, w) } := by
  have hpos : ((c.sem n).count != 0) = true := bne_iff_ne.mpr hc
  rw [Core.semTake, if_neg (by simpa using h), (first_iff c n w).mpr hf, hpos]
  rfl

/-- Where an earlier waiter stands or the count is zero, nothing is taken. -/
theorem semTake_none {c : Core} {n : Nat} {w : Waiter} (h : (n, w) ∉ c.granted)
    (hf : ¬(∀ p, c.waiters.find? (fun p => p.1 == n) = some p → p.2 = w) ∨ (c.sem n).count = 0) : c.semTake n w = none := by
  have hno : (((c.waiters.find? fun p => p.1 == n).all fun p => p.2 == w) && (c.sem n).count != 0) = false := by
    rcases hf with hf | hc
    · rw [Bool.eq_false_iff.mpr (mt (first_iff c n w).mp hf), Bool.false_and]
    · rw [hc]; exact Bool.and_false _
  rw [Core.semTake, if_neg (by simpa using h), hno]
  rfl

/-- The bits of the queues that wait on a semaphore. -/
theorem engineWaits_eq (c : Core) (n : Nat) :
    let waits (q : EngQ) (k : Nat) : Nat := if (n, Waiter.engine q) ∈ c.waiters then 2 ^ k else 0
    c.engineWaits n = waits .load 0 + waits .store 1 + waits .matrix 2 + waits .backfill 3 := by
  simp [Core.engineWaits, qCode]

theorem exec_semrd (o : SRd) (s : State) : exec (.semrd o) s = .next ((s.setReg o.d (d64 (s.here.engineWaits o.n.toNat * 2 ^ 32
    + (s.here.semNow o.n.toNat).ceiling.toNat * 2 ^ 16 + (s.here.semNow o.n.toNat).count.toNat))).done o.stop) := rfl

section
variable (s : State)

/-- semset, by its pair. -/
theorem semset_spec (o : SSet) :
    let n := o.n.toNat
    let c := s.reg o.a
    let m := s.reg o.b
    let v : Sem := ⟨BitVec.ofNat 16 c.toNat, BitVec.ofNat 16 m.toNat⟩
    let ok := m ≠ 0 ∧ m.toNat ≤ 0xFFFF ∧ c.toNat ≤ m.toNat
    (ok → ∃ t, exec (.semset o) s = .next t ∧ MemorySame s t ∧ OnlyAdvances (s.updHere fun k => k.semServed n v) t o.stop
      ∧ ((∀ p ∈ s.here.waiters, p.1 ≠ n) ∧ (n, Waiter.stream) ∉ s.here.granted →
        t.here.sem n = v ∧ t.here.waiters = s.here.waiters ∧ t.here.granted = s.here.granted))
    ∧ (¬ok → s.mayTrap → ∃ t, exec (.semset o) s = .next t ∧ TrapsHere s t 0x51 (o.n.zeroExtend 64)) := by
  intro n c m v ok
  rw [exec_semset]
  refine ⟨fun h => ?_, fun h hm => ?_⟩
  · obtain ⟨hmem, hadv⟩ := updHere_done_spec s (fun k => k.semServed n v) o.stop (semServed_sp s.here n v)
    refine ⟨_, runStream_ok (need_then ((semset_ok_iff c m).mpr h)), hmem, hadv, fun ⟨hw, hg⟩ => ?_⟩
    obtain ⟨h1, h2, h3⟩ := semServed_done s n n v o.stop
    obtain ⟨k1, k2, k3⟩ := semServed_idle s.here n v hw hg
    exact ⟨h1.trans k1, h2.trans k2, h3.trans k3⟩
  · exact runStream_trapsHere hm (need_trap (Bool.eq_false_iff.mpr (mt (semset_ok_iff c m).mp h))) rfl (by decide)

/-- semsig, by the count and by whether the core's writes are performed. -/
theorem semsig_spec (o : SN) :
    let n := o.n.toNat
    let m := s.here.semNow n
    let v : Sem := { m with count := m.count + 1 }
    let done := s.mem.performed (.stream s.cur) (s.cur / 64) 0 0xFF = true
    (m.count ≠ m.ceiling → done → ∃ t, exec (.semsig o) s = .next t ∧ MemorySame s t
      ∧ OnlyAdvances (s.updHere fun k => k.semServed n v) t o.stop
      ∧ ((∀ p ∈ s.here.waiters, p.1 ≠ n) ∧ (n, Waiter.stream) ∉ s.here.granted →
        t.here.sem n = v ∧ t.here.waiters = s.here.waiters ∧ t.here.granted = s.here.granted)
      ∧ (∀ w, s.here.waiters.find? (fun p => p.1 == n) = some w → s.here.timedWaiter w.2 = false →
          (n, Waiter.stream) ∉ s.here.granted → m.count = 0 →
          t.here.sem n = m ∧ t.here.waiters = s.here.waiters.filter (· != w) ∧ t.here.granted = s.here.granted ++ [w]))
    ∧ (m.count ≠ m.ceiling → ¬done → ∃ t, exec (.semsig o) s = .next t ∧ Waits s t .order)
    ∧ (m.count = m.ceiling → s.mayTrap → ∃ t, exec (.semsig o) s = .next t ∧ TrapsHere s t 0x50 (o.n.zeroExtend 64)) := by
  intro n m v done
  rw [exec_semsig]
  refine ⟨fun hc hd => ?_, fun hc hd => runStream_waits ((semsigBody_signals hc).trans (if_neg hd)),
    fun hc hm => runStream_trapsHere hm (semsigBody_traps hc) rfl (by decide)⟩
  obtain ⟨hmem, hadv⟩ := updHere_done_spec s (fun k => k.semServed n v) o.stop (semServed_sp s.here n v)
  obtain ⟨h1, h2, h3⟩ := semServed_done s n n v o.stop
  refine ⟨_, runStream_ok ((semsigBody_signals hc).trans (if_pos hd)), hmem, hadv, fun ⟨hw, hg⟩ => ?_, fun w hw ht hg h0 => ?_⟩
  · obtain ⟨k1, k2, k3⟩ := semServed_idle s.here n v hw hg
    exact ⟨h1.trans k1, h2.trans k2, h3.trans k3⟩
  · obtain ⟨k1, k2, k3⟩ := semServed_first s.here n w hw ht hg h0
    exact ⟨h1.trans k1, h2.trans k2, h3.trans k3⟩

/-- semwait, by whether its wait has been served and whether it may take a count. -/
theorem semwait_spec (o : SN) :
    let n := o.n.toNat
    let m := s.here.sem n
    let granted := (n, Waiter.stream) ∈ s.here.granted
    let first := ∀ p, s.here.waiters.find? (fun p => p.1 == n) = some p → p.2 = Waiter.stream
    (granted → ∃ t, exec (.semwait o) s = .next t ∧ MemorySame s t
      ∧ OnlyAdvances (s.updHere fun k =>
          { k with granted := s.here.granted.filter fun p => p != (n, Waiter.stream) }) t o.stop)
    ∧ (¬granted → first → m.count ≠ 0 → ∃ t, exec (.semwait o) s = .next t ∧ MemorySame s t
      ∧ OnlyAdvances (s.updHere fun k =>
          { k.setSem n { m with count := m.count - 1 } with
            waiters := s.here.waiters.filter fun p => p != (n, Waiter.stream) }) t o.stop)
    ∧ (¬granted → ¬first ∨ m.count = 0 → ∃ t, exec (.semwait o) s = .next t ∧ Waits s t (.sem n)) := by
  intro n m granted first
  have takes {c : Core} (h : s.here.semTake n .stream = some c) : s.semwaitBody o = .ok ((s.setCore s.cur c).done o.stop) := by
    rw [State.semwaitBody, h]
  rw [exec_semwait]
  refine ⟨fun hg => ?_, fun hg hf hc => ?_, fun hg hf => ?_⟩
  · exact ⟨_, runStream_ok (takes (semTake_granted hg)), updHere_done_spec s
      (fun k => { k with granted := s.here.granted.filter fun p => p != (n, Waiter.stream) }) o.stop rfl⟩
  · exact ⟨_, runStream_ok (takes (semTake_first hg hf hc)), updHere_done_spec s
      (fun k => { k.setSem n { m with count := m.count - 1 } with
        waiters := s.here.waiters.filter fun p => p != (n, Waiter.stream) }) o.stop rfl⟩
  · exact runStream_waits (by rw [State.semwaitBody, semTake_none hg hf])

end

/-- Settles O15: each of the four instructions by its own lemma. -/
theorem semaphores : Obligations.Semaphores := by
  unfold Obligations.Semaphores
  refine fun s => ⟨semset_spec s, semsig_spec s, semwait_spec s, fun o => ?_⟩
  rw [exec_semrd, engineWaits_eq]
  exact ⟨_, rfl, setReg_done_writes s o.d _ o.stop⟩

end Sys2Proof.Machine
end


section
/-! PROOFS. Commands join their queues (R86, R87, R152, R176), and the flow control of the transfer queues (R253 to R255). -/

namespace Sys2Proof.Machine
open Sys2Proof

/-! ### Frames that see a state through the core that executes -/

theorem OnlyCore.symm {s t : State} {c : Nat} (h : OnlyCore s t c) : OnlyCore t s c := by
  refine ⟨?_, fun d hd => (h.2 d hd).symm⟩
  rw [h.1]

theorem self_of_core {a t u : State} (ht : OnlyCore a t a.cur) (hu : OnlyCore a u a.cur) (hh : t.here = u.here) :
    t.self = u.self := by
  show t.here.stream t.curX = u.here.stream u.curX
  rw [hh, ht.curX_eq, hu.curX_eq]

/-- The frame of a stream that executes sees the state through its core. -/
theorem OnlyStream.of_here {a t u : State} (h : OnlyStream a u) (ht : OnlyCore a t a.cur) (hh : t.here = u.here) : OnlyStream a t := by
  refine ⟨ht, ?_⟩
  rw [self_of_core ht h.1 hh, hh]
  exact h.2

/-- So does a retirement. -/
theorem AdvancesBy.of_here {a t u : State} {n : Nat} {stop : Bool} (h : AdvancesBy a u n stop) (ht : OnlyCore a t a.cur)
    (hh : t.here = u.here) (hi : t.issue = u.issue) : AdvancesBy a t n stop := by
  obtain ⟨hregs, honlyRegs, honly, -, hon⟩ := h
  have hself := self_of_core ht honly.1 hh
  have honly' := honly.of_here ht hh
  refine ⟨?_, ?_, honly', memorySame_of_onlyStream honly', ?_⟩
  · rw [RegsSame, hself]; exact hregs
  · rw [OnlyRegs, hself]; exact honlyRegs
  · rw [GoesOn, hself, hi]; exact hon

theorem Writes.of_here {a t u : State} {d : Reg} {v : Dword} {stop : Bool} (h : Writes a u d v stop) (ht : OnlyCore a t a.cur)
    (hh : t.here = u.here) (hi : t.issue = u.issue) : Writes a t d v stop := by
  obtain ⟨hd, h0, hbut, honlyRegs, honly, -, hon⟩ := h
  have hself := self_of_core ht honly.1 hh
  have honly' := honly.of_here ht hh
  refine ⟨?_, ?_, ?_, ?_, honly', memorySame_of_onlyStream honly', ?_⟩
  · rw [State.reg, hself]; exact hd
  · rw [State.reg, hself]; exact h0
  · rw [RegsBut, hself]; exact hbut
  · rw [OnlyRegs, hself]; exact honlyRegs
  · rw [GoesOn, hself, hi]; exact hon

/-! ### Joining a queue (R87) -/

/-- The room of a command queue (R86). -/
def roomOf (q : EngQ) : Nat := if q = .backfill then 16 else 64

/-- A command's instruction needs room in its queue and nothing else. -/
theorem queues_cmd {s : State} {i : Instr} {cs : List Reg} {tail : Option Tail} {q : EngQ} (h : s.here.uses i = Uses.cmd cs tail q) :
    s.queues i = if roomOf q ≤ (s.here.eng q).cmds.length then waitOn (.queueFull q) else .ok () := by
  rw [State.queues, h]
  rfl

/-- A push on the matrix queue of a fusion's member. -/
def State.memberPush (s : State) (q : EngQ) : Prop := q = .matrix ∧ (s.here.quad.role = 2 ∨ s.here.quad.role = 3)

theorem memberPush_iff (s : State) (q : EngQ) : (q == .matrix && s.here.quad.isMember) = true ↔ s.memberPush q := by
  simp only [Quadrant.isMember, State.memberPush, Bool.and_eq_true, Bool.or_eq_true, beq_iff_eq]

theorem fusedOut_ok {s : State} {q : EngQ} (h : ¬s.memberPush q) : s.fusedOut q = .ok () := by
  rw [State.fusedOut, Bool.eq_false_iff.mpr (mt (memberPush_iff s q).mp h)]
  rfl

theorem fusedOut_trap {s : State} {q : EngQ} (h : s.memberPush q) :
    s.fusedOut q = trapOf 0x33 (BitVec.ofNat 64 s.here.quad.lead) := by
  rw [State.fusedOut, (memberPush_iff s q).mpr h]
  rfl

/-- A command with the registers and the stamp that it captures. -/
def State.captured (s : State) (i : Instr) (c0 c1 c2 : Reg) (tail : Option Tail) : Cmd :=
  ⟨i, s.reg c0, s.reg c1, s.reg c2, s.stampOf tail⟩

section
variable {s : State} {i : Instr} {cs : List Reg} {tail : Option Tail} {q : EngQ} (h : s.here.uses i = Uses.cmd cs tail q)
  (c0 c1 c2 : Reg) (stop : Bool)
include h

theorem push_ok (hroom : (s.here.eng q).cmds.length < roomOf q) (hm : ¬s.memberPush q) : s.push q i c0 c1 c2 tail stop =
    .ok ((s.updHere fun c => c.enqueue q (s.captured i c0 c1 c2 tail)).doneTail tail stop) := by
  rw [State.push, queues_then (by rw [queues_cmd h, if_neg (not_le.mpr hroom)]), fusedOut_ok hm]
  rfl

theorem push_full (hfull : roomOf q ≤ (s.here.eng q).cmds.length) : s.push q i c0 c1 c2 tail stop = waitOn (.queueFull q) :=
  queues_wait (by rw [queues_cmd h, if_pos hfull])

theorem push_member (hroom : (s.here.eng q).cmds.length < roomOf q) (hm : s.memberPush q) :
    s.push q i c0 c1 c2 tail stop = trapOf 0x33 (BitVec.ofNat 64 s.here.quad.lead) := by
  rw [State.push, queues_then (by rw [queues_cmd h, if_neg (not_le.mpr hroom)]), fusedOut_trap hm]
  rfl

end

/-- A new command of a queue changes no scratchpad byte. -/
theorem enqueue_sp (c : Core) (q : EngQ) (k : Cmd) : (c.enqueue q k).sp = c.sp := by cases q <;> rfl

/-- How an instruction of a queued unit ends (R86, R87, R176): its command joins its queue, and `after` is all else that the
instruction does. -/
def Enters (s after : State) (i : Instr) (q : EngQ) (c0 c1 c2 : Reg) (tail : Option Tail) (stop : Bool) : Prop :=
  ((s.here.eng q).cmds.length < roomOf q → (q = .matrix → s.here.quad.role ≠ 2 ∧ s.here.quad.role ≠ 3) →
    ∃ t, exec i s = .next t ∧ MemorySame s t ∧ AdvancesBy (after.updHere fun c => c.enqueue q (s.captured i c0 c1 c2 tail)) t
      (if tail.isSome then 2 else 1) stop)
  ∧ (roomOf q ≤ (s.here.eng q).cmds.length → ∃ t, exec i s = .next t ∧ Waits s t (.queueFull q))
  ∧ ((s.here.eng q).cmds.length < roomOf q → q = .matrix → s.here.quad.role = 2 ∨ s.here.quad.role = 3 → s.mayTrap →
    ∃ t, exec i s = .next t ∧ TrapsHere s t 0x33 (BitVec.ofNat 64 s.here.quad.lead))

/-- A push ends an instruction as `Enters` says, where what follows it in the instruction's body keeps its waits and traps. -/
theorem enters_of_push {s after : State} {i : Instr} {cs : List Reg} {q : EngQ} {c0 c1 c2 : Reg} {tail : Option Tail} {stop : Bool}
    (f : State → State → State) (hi : exec i s = runStream s fun s => s.push q i c0 c1 c2 tail stop >>= fun t => .ok (f s t))
    (hu : s.here.uses i = Uses.cmd cs tail q)
    (hf : let t := f s ((s.updHere fun c => c.enqueue q (s.captured i c0 c1 c2 tail)).doneTail tail stop)
      MemorySame s t ∧ AdvancesBy (after.updHere fun c => c.enqueue q (s.captured i c0 c1 c2 tail)) t
        (if tail.isSome then 2 else 1) stop) :
    Enters s after i q c0 c1 c2 tail stop := by
  rw [Enters, hi]
  refine ⟨fun hroom hm => ⟨_, runStream_ok ?_, hf⟩, fun hfull => runStream_waits ?_, fun hroom hq hm hmay =>
    runStream_trapsHere hmay ?_ rfl (by decide)⟩
  · rw [push_ok hu c0 c1 c2 stop hroom (fun h => h.2.elim (hm h.1).1 (hm h.1).2)]
    rfl
  · rw [push_full hu c0 c1 c2 stop hfull]
    rfl
  · rw [push_member hu c0 c1 c2 stop hroom ⟨hq, hm⟩]
    rfl

/-- An instruction that is a push alone. -/
theorem enters_push {s : State} {i : Instr} {cs : List Reg} {q : EngQ} {c0 c1 c2 : Reg} {tail : Option Tail} {stop : Bool}
    (hi : exec i s = runStream s fun s => s.push q i c0 c1 c2 tail stop) (hu : s.here.uses i = Uses.cmd cs tail q) :
    Enters s s i q c0 c1 c2 tail stop := by
  have hadv := doneTail_advancesBy (s.updHere fun c => c.enqueue q (s.captured i c0 c1 c2 tail)) tail stop
  refine enters_of_push (fun _ t => t) (hi.trans ?_) hu ⟨?_, hadv⟩
  · exact congrArg (runStream s) (funext fun s => (bind_pure _).symm)
  · exact (memorySame_updHere s _ (enqueue_sp _ q _)).trans hadv.memorySame

/-! ### tload (R152) -/

/-- The core that executes, after an instruction with a tail word retires. -/
theorem here_doneTail (s : State) (tail : Option Tail) (stop : Bool) : (s.doneTail tail stop).here =
    { s.here.setStream s.curX { s.self.advance (if tail.isSome then 2 else 1) stop with wait := none } with advanced := s.tb } := by
  rw [State.doneTail, State.here_retired, State.here_updSelf, State.self_updSelf]
  simp

/-- The shadow bank of a slot that the core's node owns is LOADING. -/
def Core.slotLoading (c : Core) (n : Nat) : Core :=
  if n ≤ 15 && c.owns n then c.updSlot n fun t => t.setShadow { t.shadow with state := 1 } else c

/-- The state in which tload's slot is marked. -/
def State.slotLoading (s : State) (n : Nat) : State :=
  if n ≤ 15 ∧ (s.here.slot n).owner = some s.here.vfid then
    s.updHere fun c => c.setSlot n ((c.slot n).setShadow { (c.slot n).shadow with state := 1 })
  else s

/-- Marking a slot commutes with the new command of the load queue and with the retirement. -/
theorem slotLoading_comm (c : Core) (n : Nat) (k : Cmd) (x : Bool) (u : Stream) (a : Nat) :
    ({ (c.enqueue .load k).setStream x u with advanced := a } : Core).slotLoading n =
      { ((c.slotLoading n).enqueue .load k).setStream x u with advanced := a } := by
  have howns : ({ (c.enqueue .load k).setStream x u with advanced := a } : Core).owns n = c.owns n := by cases x <;> rfl
  rw [Core.slotLoading, Core.slotLoading, howns]
  split
  · cases x <;> rfl
  · rfl

theorem here_slotLoading (s : State) (n : Nat) : (s.slotLoading n).here = s.here.slotLoading n := by
  have hiff : (decide (n ≤ 15) && s.here.owns n) = true ↔ n ≤ 15 ∧ (s.here.slot n).owner = some s.here.vfid := by
    simp [Core.owns]
  rw [State.slotLoading, Core.slotLoading]
  by_cases h : n ≤ 15 ∧ (s.here.slot n).owner = some s.here.vfid
  · rw [if_pos h, if_pos (hiff.mpr h), State.here_updHere]
    rfl
  · rw [if_neg h, if_neg (mt hiff.mp h)]

theorem onlyCore_slotLoading (s : State) (n : Nat) : OnlyCore s (s.slotLoading n) s.cur := by
  rw [State.slotLoading]
  split
  · exact onlyCore_updHere s _
  · exact OnlyCore.refl s s.cur

theorem slotLoading_sp (c : Core) (n : Nat) : (c.slotLoading n).sp = c.sp := by
  rw [Core.slotLoading]
  split <;> rfl

theorem exec_tload (o : CTload) (s : State) : exec (.tload o) s = runStream s fun s =>
    s.push .load (.tload o) o.c0 o.c1 0 o.tail o.stop >>= fun t => .ok (t.updHere fun c => c.slotLoading (s.reg o.c1).toNat) := rfl

theorem uses_tload (c : Core) (o : CTload) : c.uses (.tload o) = Uses.cmd [o.c0, o.c1] o.tail .load := rfl

theorem stream_enqueue (c : Core) (q : EngQ) (k : Cmd) (x : Bool) : (c.enqueue q k).stream x = c.stream x := by
  cases q <;> rfl

theorem stream_slotLoading (c : Core) (n : Nat) (x : Bool) : (c.slotLoading n).stream x = c.stream x := by
  rw [Core.slotLoading]
  split <;> rfl

/-- The state in which a command has joined its queue. -/
def State.enqueued (s : State) (q : EngQ) (k : Cmd) : State := s.updHere fun c => c.enqueue q k

theorem onlyCore_enqueued (s : State) (q : EngQ) (k : Cmd) : OnlyCore s (s.enqueued q k) s.cur := onlyCore_updHere s _

theorem here_enqueued (s : State) (q : EngQ) (k : Cmd) : (s.enqueued q k).here = s.here.enqueue q k := State.here_updHere s _

theorem self_enqueued (s : State) (q : EngQ) (k : Cmd) : (s.enqueued q k).self = s.self := by
  rw [State.self, here_enqueued, stream_enqueue]
  rfl

theorem self_slotLoading (s : State) (n : Nat) : (s.slotLoading n).self = s.self := by
  rw [State.self, here_slotLoading, stream_slotLoading, (onlyCore_slotLoading s n).curX_eq]
  rfl

/-- A tload's retirement, seen from the state in which its slot is marked and its command queued. -/
theorem tload_advances (s : State) (n : Nat) (k : Cmd) (tail : Option Tail) (stop : Bool) :
    let t := ((s.enqueued .load k).doneTail tail stop).updHere fun c => c.slotLoading n
    MemorySame s t ∧ AdvancesBy ((s.slotLoading n).enqueued .load k) t (if tail.isSome then 2 else 1) stop := by
  intro t
  have hpush := doneTail_advancesBy (s.enqueued .load k) tail stop
  have hfrom := doneTail_advancesBy ((s.slotLoading n).enqueued .load k) tail stop
  have hmark := onlyCore_slotLoading s n
  have hmarked : OnlyCore s ((s.slotLoading n).enqueued .load k) s.cur :=
    hmark.trans (hmark.cur_eq ▸ onlyCore_enqueued (s.slotLoading n) .load k)
  have hretired : OnlyCore s ((s.enqueued .load k).doneTail tail stop) s.cur := (onlyCore_enqueued s .load k).trans hpush.2.2.1.1
  have hlast : OnlyCore ((s.enqueued .load k).doneTail tail stop) t s.cur := hretired.cur_eq ▸ onlyCore_updHere _ _
  have hmem := (memorySame_updHere s (fun c => c.enqueue .load k) (enqueue_sp _ _ _)).trans hpush.memorySame
  refine ⟨hmem.trans (memorySame_updHere _ _ (slotLoading_sp _ _)), hfrom.of_here ?_ ?_ rfl⟩
  · rw [hmarked.cur_eq]
    exact hmarked.symm.trans (hretired.trans hlast)
  · rw [State.here_updHere, here_doneTail, here_doneTail, here_enqueued, here_enqueued, here_slotLoading, self_enqueued,
      self_enqueued, self_slotLoading, slotLoading_comm, hmarked.curX_eq, hmarked.tb_eq]
    rfl

/-- A tload joins the load queue and marks its slot. -/
theorem enters_tload (s : State) (o : CTload) :
    Enters s (s.slotLoading (s.reg o.c1).toNat) (.tload o) .load o.c0 o.c1 0 o.tail o.stop :=
  enters_of_push (fun s t => t.updHere fun c => c.slotLoading (s.reg o.c1).toNat) (exec_tload o s) (uses_tload s.here o)
    (tload_advances s _ _ o.tail o.stop)

/-! ### Flow control of the transfer queues (R253 to R255) -/

/-- A write of the core's copies on a channel. -/
def ofChannel (core ch : Nat) (a : Agent) (c : Option Nat) : Prop := ofCores [core] a = true ∧ c = some ch

/-- R253: no copy of the channel is queued, and the writes of the core's copies on it are performed everywhere. -/
def State.ChannelDrained (s : State) (core ch : Nat) : Prop :=
  (∀ k ∈ (s.core core).load.cmds ++ (s.core core).store.cmds, channelOf k.op ≠ some ch)
    ∧ (∀ w ∈ s.mem.pend, ¬ofChannel core ch w.agent w.chan)
    ∧ (∀ p ∈ s.mem.log, ofChannel core ch p.2.agent p.2.chan → ∀ d ∈ allDies, d ∈ p.2.dies)
    ∧ ∀ r ∈ s.peers, ofChannel core ch r.agent r.chan → r.unacked r.agent = false

theorem ofChannel_iff (core ch : Nat) (a : Agent) (c : Option Nat) :
    (ofCores [core] a && c == some ch) = true ↔ ofChannel core ch a c := by simp [ofChannel]

theorem channelPerformed_iff (s : State) (core ch : Nat) : s.channelPerformed core ch = true ↔
    (∀ w ∈ s.mem.pend, ¬ofChannel core ch w.agent w.chan)
    ∧ (∀ p ∈ s.mem.log, ofChannel core ch p.2.agent p.2.chan → ∀ d ∈ allDies, d ∈ p.2.dies)
    ∧ ∀ r ∈ s.peers, ofChannel core ch r.agent r.chan → r.unacked r.agent = false := by
  rw [State.channelPerformed, Bool.and_eq_true, Bool.and_eq_true, List.all_eq_true, List.all_eq_true, List.all_eq_true, and_assoc]
  refine and_congr (forall₂_congr fun w _ => ?_) (and_congr (forall₂_congr fun p _ => ?_) (forall₂_congr fun r _ => ?_))
  · rw [← ofChannel_iff, Bool.not_eq_true', Bool.not_eq_true]
  · rw [← ofChannel_iff, Bool.or_eq_true, Bool.not_eq_true', ← Bool.not_eq_true, ← imp_iff_not_or]
    simp only [List.all_eq_true, List.contains_iff_mem]
  · rw [← ofChannel_iff, Bool.not_eq_true', Bool.and_eq_false_imp]

theorem drainedChannel_iff (s : State) (core ch : Nat) : s.drainedChannel core ch = true ↔ s.ChannelDrained core ch := by
  rw [State.drainedChannel, State.ChannelDrained, ← channelPerformed_iff, Bool.and_eq_true, List.all_eq_true]
  simp only [bne_iff_ne]

theorem exec_xdrain (o : CCh) (s : State) : exec (.xdrain o) s = runStream s fun s =>
    need (s.drainedChannel s.cur o.ch.toNat) (waitOn (.drainCh o.ch.toNat)) >>= fun _ => .ok (s.done o.stop) := rfl

theorem xdrain_spec (s : State) (o : CCh) :
    (s.ChannelDrained s.cur o.ch.toNat → ∃ t, exec (.xdrain o) s = .next t ∧ OnlyAdvances s t o.stop)
    ∧ (¬s.ChannelDrained s.cur o.ch.toNat → ∃ t, exec (.xdrain o) s = .next t ∧ Waits s t (.drainCh o.ch.toNat)) := by
  rw [← drainedChannel_iff, exec_xdrain]
  exact ⟨fun h => ⟨_, runStream_ok (need_then h), done_onlyAdvances s o.stop⟩,
    fun h => runStream_waits (need_wait (Bool.eq_false_iff.mpr h))⟩

/-- The queue whose cursor xcur reads. -/
def Core.cursorQueue (c : Core) (store : Bool) : EngQueue := if store then c.store else c.load

theorem exec_xcur (o : CCur) (s : State) :
    exec (.xcur o) s = .next ((s.setReg o.d (BitVec.ofNat 64 (s.here.cursorQueue o.store).cursor)).done o.stop) := rfl

/-- The core with the limit of a channel. -/
def Core.withLimit (c : Core) (ch : Nat) (v : Dword) : Core :=
  { c with csr := { c.csr with xch := SMap.set 0 c.csr.xch ch v } }

/-- A limit and a register of the stream are written in either order. -/
theorem withLimit_setStream (c : Core) (ch : Nat) (v : Dword) (x : Bool) (u : Stream) :
    (c.setStream x u).withLimit ch v = (c.withLimit ch v).setStream x u := by
  cases x <;> rfl

/-- The stream of a core keeps its place under a new limit. -/
theorem stream_withLimit (c : Core) (ch : Nat) (v : Dword) (x : Bool) : (c.withLimit ch v).stream x = c.stream x := by
  cases x <;> rfl

/-- The state with the limit of a channel. -/
def State.limited (s : State) (ch : Nat) (v : Dword) : State := s.updHere fun c => c.withLimit ch v

theorem onlyCore_limited (s : State) (ch : Nat) (v : Dword) : OnlyCore s (s.limited ch v) s.cur := onlyCore_updHere s _

theorem here_limited (s : State) (ch : Nat) (v : Dword) : (s.limited ch v).here = s.here.withLimit ch v := State.here_updHere s _

theorem self_limited (s : State) (ch : Nat) (v : Dword) : (s.limited ch v).self = s.self := by
  rw [State.self, here_limited, stream_withLimit, (onlyCore_limited s ch v).curX_eq]
  rfl

theorem memorySame_limited (s : State) (ch : Nat) (v : Dword) : MemorySame s (s.limited ch v) := memorySame_updHere s _ rfl

theorem here_setReg (s : State) (d : Reg) (v : Dword) :
    (s.setReg d v).here = s.here.setStream s.curX (s.self.setReg d v) := State.here_updSelf s _

/-- The core that executes, after xcfg's two writes in either order and its retirement. -/
theorem here_setReg_limited (s : State) (ch : Nat) (v : Dword) (d : Reg) (old : Dword) (stop : Bool) :
    (((s.setReg d old).limited ch v).done stop).here = (((s.limited ch v).setReg d old).done stop).here := by
  rw [State.here_done, State.here_done, self_limited, self_setReg, self_setReg, self_limited, here_limited, here_setReg,
    here_setReg, here_limited, self_limited, (onlyCore_limited _ ch v).curX_eq, (onlyCore_limited _ ch v).tb_eq,
    (onlyCore_setReg _ d old).curX_eq, (onlyCore_setReg _ d old).tb_eq, (onlyCore_setReg _ d old).curX_eq,
    (onlyCore_setReg _ d old).tb_eq, (onlyCore_limited _ ch v).curX_eq, (onlyCore_limited _ ch v).tb_eq, withLimit_setStream]

theorem done_issue (s : State) (stop : Bool) : (s.done stop).issue = .retired := rfl

/-- xcfg's two writes, seen from the state with the new limit. -/
theorem limited_writes (s : State) (ch : Nat) (v : Dword) (d : Reg) (old : Dword) (stop : Bool) :
    let t := ((s.setReg d old).limited ch v).done stop
    MemorySame s t ∧ Writes (s.limited ch v) t d old stop := by
  intro t
  have hlimit := onlyCore_limited s ch v
  have hreg := onlyCore_setReg s d old
  have hboth : OnlyCore s ((s.setReg d old).limited ch v) s.cur := hreg.trans (hreg.cur_eq ▸ onlyCore_limited (s.setReg d old) ch v)
  have hall : OnlyCore s t s.cur := hboth.trans (hboth.cur_eq ▸ onlyCore_done _ stop)
  have hwrites : Writes (s.limited ch v) t d old stop := by
    refine (setReg_done_writes (s.limited ch v) d old stop).of_here ?_ (here_setReg_limited s ch v d old stop) (done_issue _ stop)
    rw [hlimit.cur_eq]
    exact hlimit.symm.trans hall
  exact ⟨(memorySame_limited s ch v).trans hwrites.memorySame, hwrites⟩

theorem exec_xcfg (o : CCfg) (s : State) : exec (.xcfg o) s = runStream s fun s =>
    need (decide ((s.reg o.a).toNat ≤ 8192)) (trapOf 0x37 (s.reg o.a)) >>= fun _ =>
      .ok (((s.setReg o.d (SMap.get 0 s.here.csr.xch o.ch.toNat)).limited o.ch.toNat (s.reg o.a)).done o.stop) := rfl

theorem xcfg_spec (s : State) (o : CCfg) :
    ((s.reg o.a).toNat ≤ 8192 → ∃ t, exec (.xcfg o) s = .next t ∧ MemorySame s t
      ∧ Writes (s.limited o.ch.toNat (s.reg o.a)) t o.d (SMap.get 0 s.here.csr.xch o.ch.toNat) o.stop)
    ∧ (8192 < (s.reg o.a).toNat → s.mayTrap → ∃ t, exec (.xcfg o) s = .next t ∧ TrapsHere s t 0x37 (s.reg o.a)) := by
  rw [exec_xcfg]
  exact ⟨fun h => ⟨_, runStream_ok (need_then (decide_eq_true h)), limited_writes s _ _ o.d _ o.stop⟩,
    fun h hm => runStream_trapsHere hm (need_trap (decide_eq_false (not_le.mpr h))) rfl (by decide)⟩

/-- Settles O22: each push captures what it names and retires, and xdrain, xcur and xcfg read and write as they say. -/
theorem commandControl : Obligations.CommandControl := by
  unfold Obligations.CommandControl
  refine ⟨fun s => ⟨fun o => ⟨?_, ?_, ?_, ?_, ?_, ?_, ?_⟩, fun o => ?_, fun o => ⟨?_, ?_⟩, fun o => ?_, fun o => ⟨?_, ?_, ?_⟩,
    fun o => ?_, fun o => ⟨?_, ?_⟩, fun o => ?_, fun o => ⟨?_, ?_, ?_⟩, fun o => ?_, fun o => enters_tload s o⟩,
    fun s => ⟨xdrain_spec s, fun o => ⟨_, exec_xcur o s, setReg_done_writes s o.d _ o.stop⟩, xcfg_spec s⟩⟩
  all_goals exact enters_push rfl rfl

end Sys2Proof.Machine
end


section
/-! PROOFS. What a memory access, a fill's end and an L1's write-back leave of the cores: their streams but for the note of a
wait, dbgstat, and whether a debugger is attached. -/

namespace Sys2Proof.Machine
open Sys2Proof

/-! ### The relation -/

/-- What lasts of a core while its memory traffic goes on: the streams without the note of a wait, dbgstat, and whether a
debugger is attached. -/
def Core.lasting (c : Core) : Stream × Stream × Dword × Bool :=
  ({ c.c with wait := none }, { c.x with wait := none }, c.csr.dbgstat, c.dbg.attached)

/-- Every core lasts, and so does which stream executes and how its issue ended. -/
def Lasts (s t : State) : Prop :=
  t.cur = s.cur ∧ t.curX = s.curX ∧ t.issue = s.issue ∧ ∀ k, (t.core k).lasting = (s.core k).lasting

theorem Lasts.refl (s : State) : Lasts s s := ⟨rfl, rfl, rfl, fun _ => rfl⟩

theorem Lasts.trans {s u t : State} (h : Lasts s u) (k : Lasts u t) : Lasts s t := by
  obtain ⟨hcur, hx, hi, hc⟩ := h
  obtain ⟨hcur', hx', hi', hc'⟩ := k
  exact ⟨hcur'.trans hcur, hx'.trans hx, hi'.trans hi, fun n => (hc' n).trans (hc n)⟩

/-- A change outside the cores. -/
theorem lasts_of_cores {s t : State} (hc : t.cores = s.cores) (hcur : t.cur = s.cur) (hx : t.curX = s.curX)
    (hi : t.issue = s.issue) : Lasts s t :=
  ⟨hcur, hx, hi, fun k => by rw [State.core, State.core, hc]⟩

/-- A change of a core that leaves what lasts. -/
theorem lasts_updCore (s : State) (c : Nat) (f : Core → Core) (h : (f (s.core c)).lasting = (s.core c).lasting) :
    Lasts s (s.updCore c f) := by
  refine ⟨rfl, rfl, rfl, fun k => ?_⟩
  by_cases hk : k = c
  · rw [hk, State.core_updCore_self, h]
  · rw [State.core_updCore_ne s c k f hk]

/-- A fold of changes each of which lasts. -/
theorem lasts_foldl {α : Type} {f : State → α → State} (h : ∀ s a, Lasts s (f s a)) (l : List α) (s : State) :
    Lasts s (l.foldl f s) := by
  induction l generalizing s with
  | nil => exact Lasts.refl s
  | cons a l ih => exact (h s a).trans (ih (f s a))

/-- Where an access answers, the state in its answer, by `g`, is one that lasts. -/
def Answers {β : Type} (s : State) (g : β → State) (r : Except Stop β) : Prop := ∀ b, r = .ok b → Lasts s (g b)

section
variable {α β γ : Type} {s : State} {g : β → State} {h : γ → State}

theorem answers_ok {b : β} (hb : Lasts s (g b)) : Answers s g (.ok b) := by
  rintro _ ⟨⟩
  exact hb

theorem answers_error (e : Stop) : Answers s g (.error e) := by
  rintro _ ⟨⟩

/-- An access that answers its own state. -/
theorem answers_same {a : α} : Answers s Prod.fst (.ok (s, a)) := answers_ok (Lasts.refl s)

/-- One access after another. -/
theorem Answers.bind {x : Except Stop β} {f : β → Except Stop γ} (hx : Answers s g x) (hf : ∀ b, Answers (g b) h (f b)) :
    Answers s h (x >>= f) := by
  cases x with
  | error e => exact answers_error e
  | ok b => exact fun c hc => (hx b rfl).trans (hf b c hc)

/-- A check before an access. -/
theorem answers_check {x : Except Stop α} {f : α → Except Stop γ} (hf : ∀ a, Answers s h (f a)) : Answers s h (x >>= f) := by
  cases x with
  | error e => exact answers_error e
  | ok a => exact hf a

/-- What survives a stop is no part of an answer. -/
theorem answers_withSides {l : List Side} {r : Except Stop β} (hr : Answers s g r) : Answers s g (withSides l r) := by
  cases r with
  | error e => exact answers_error (e.add l)
  | ok b => exact hr

theorem answers_onward {t : State} {r : Except Stop β} (hr : Answers s g r) : Answers s g (t.onward r) := answers_withSides hr

/-- What holds from a later state holds from an earlier one. -/
theorem Answers.after {u : State} {r : Except Stop β} (hu : Lasts s u) (hr : Answers u g r) : Answers s g r :=
  fun b hb => hu.trans (hr b hb)

end

/-- An access repeated along a list. -/
theorem answers_foldlM {α β : Type} {g : β → State} {f : β → α → Except Stop β} (hf : ∀ b a, Answers (g b) g (f b a)) (l : List α)
    (b : β) : Answers (g b) g (l.foldlM f b) := by
  induction l generalizing b with
  | nil => exact answers_ok (Lasts.refl (g b))
  | cons a l ih => exact (hf b a).bind ih

/-! ### Errors and tags of lines (R386 to R388, R405) -/

theorem lasts_weightLine (s : State) (line : Nat) : Lasts s (s.weightLine line) := by
  unfold State.weightLine
  split <;> exact lasts_of_cores rfl rfl rfl rfl

theorem lasts_postPf (s : State) (node : Dword) (status cause index last8 : Nat) : Lasts s (s.postPf node status cause index last8) :=
  lasts_of_cores rfl rfl rfl rfl

theorem lasts_postVf (s : State) (vf ring : Nat) (r : List Byte) : Lasts s (s.postVf vf ring r) := lasts_of_cores rfl rfl rfl rfl

theorem lasts_mem (s : State) (m : MemSys) : Lasts s { s with mem := m } := lasts_of_cores rfl rfl rfl rfl

theorem lasts_updVf (s : State) (v : Nat) (f : Vf → Vf) : Lasts s (s.updVf v f) := lasts_of_cores rfl rfl rfl rfl

theorem lasts_updDie (s : State) (d : Nat) (f : Die → Die) : Lasts s (s.updDie d f) := lasts_of_cores rfl rfl rfl rfl

theorem lasts_peers (s : State) (l : List PeerReq) : Lasts s { s with peers := l } := lasts_of_cores rfl rfl rfl rfl

theorem lasts_loseLine (s : State) (line : Nat) : Lasts s (s.loseLine line) :=
  ((lasts_mem s _).trans (lasts_weightLine _ line)).trans (lasts_postPf _ _ _ _ _ _)

theorem lasts_meetLine (s : State) (line : Nat) : Lasts s (s.meetLine line) := by
  unfold State.meetLine
  split
  · exact lasts_mem s _
  · exact lasts_mem s _
  · exact lasts_loseLine s line
  · split
    · exact Lasts.refl s
    · exact lasts_mem s _
  · exact Lasts.refl s

theorem lasts_meetTree (s : State) (line : Nat) (t : TreeErr) : Lasts s (s.meetTree line t) := by
  unfold State.meetTree
  split
  · exact Lasts.refl s
  · exact (lasts_mem s _).trans (lasts_postVf _ _ _ _)

theorem lasts_meetTags (s : State) (line : Nat) : Lasts s (s.meetTags line) := by
  have htrees := lasts_foldl (fun s t => lasts_meetTree s line t) s.mem.broken s
  unfold State.meetTags
  split
  · exact Lasts.refl s
  · dsimp only
    split
    · exact htrees
    · exact (htrees.trans (lasts_mem _ _)).trans (lasts_loseLine _ line)

theorem lasts_meetLines (s : State) (lines : List Nat) : Lasts s (s.meetLines lines) :=
  lasts_foldl (fun s l => (lasts_meetLine s l).trans (lasts_meetTags (s.meetLine l) l)) lines s

theorem lasts_dropEntry (s : State) (d slot : Nat) : Lasts s (s.dropEntry d slot) := lasts_of_cores rfl rfl rfl rfl

/-! ### Peers (R448 to R450) -/

theorem lasts_sendPeer (s : State) (op : Byte) (m : LinkMsg) (r : PeerReq) : Lasts s (s.sendPeer op m r) :=
  lasts_of_cores rfl rfl rfl rfl

theorem lasts_loseRequest (s : State) (r : PeerReq) : Lasts s (s.loseRequest r) := by
  unfold State.loseRequest
  split
  · exact lasts_peers s _
  · exact Lasts.refl s

theorem answers_peerPiece (s : State) (a : Agent) (vf va : Nat) (q : Nat × Nat) : Answers s Prod.fst (s.peerPiece a vf va q) := by
  unfold State.peerPiece
  split
  · split
    · exact answers_error _
    · split
      · exact answers_error _
      · refine answers_ok ?_
        split
        · exact Lasts.refl s
        · exact lasts_peers s _
  · split
    · exact answers_error _
    · exact answers_check fun _ => answers_error _

theorem answers_peerRead (s : State) (a : Agent) (vf pa n va : Nat) : Answers s Prod.fst (s.peerRead a vf pa n va) := by
  have hpieces := answers_foldlM (g := fun r : State × List Byte => r.1)
    (f := fun r q => r.1.peerPiece a vf va q >>= fun p => .ok (p.1, r.2 ++ p.2))
    (fun r q => (answers_peerPiece r.1 a vf va q).bind fun _ => answers_same) (peerPieces a pa n) (s, [])
  exact hpieces.bind fun _ => answers_same

theorem answers_peerWrite (s : State) (a : Agent) (vf : Nat) (cells : List (Nat × Byte)) (chan : Option Nat) :
    Answers s id (s.peerWrite a vf cells chan) := by
  unfold State.peerWrite
  dsimp only
  split
  · exact answers_ok (lasts_loseRequest s _)
  · exact answers_check fun _ => answers_ok (lasts_sendPeer s _ _ _)

/-! ### Reads through a leaf (R204, R386, R387, R406) -/

theorem answers_readHome (s : State) (a : Agent) (vf : Nat) (l : Leaf) (n : Nat) : Answers s Prod.fst (s.readHome a vf l n) := by
  unfold State.readHome
  dsimp only
  split
  · exact answers_error _
  · split
    · exact answers_error _
    · exact answers_ok (lasts_meetLines s _)

theorem answers_readStored (s : State) (a : Agent) (l : Leaf) (n : Nat) : Answers s Prod.fst (s.readStored a l n) := by
  unfold State.readStored
  dsimp only
  split
  · exact answers_error _
  · exact answers_ok (lasts_foldl lasts_meetLine _ s)

theorem answers_readLeaf (s : State) (a : Agent) (vf : Nat) (l : Leaf) (n : Nat) : Answers s Prod.fst (s.readLeaf a vf l n) := by
  have hhome (u : State) : Answers u Prod.fst
      (match regionOf l.pa with
      | .peer _ => u.peerRead a vf l.pa n l.va
      | _ => u.readHome a vf l n) := by
    split
    · exact answers_peerRead u a vf _ _ _
    · exact answers_readHome u a vf l n
  unfold State.readLeaf
  refine answers_onward ?_
  split
  · exact answers_readStored s a l n
  · dsimp only
    split
    · exact hhome s
    · split
      · exact answers_withSides ((hhome _).after (lasts_dropEntry s _ _))
      · split
        · exact answers_same
        · split
          · exact answers_same
          · exact hhome s

/-! ### Translation (R215 to R225) -/

theorem lasts_grantFrame (s : State) (vf pa : Nat) : Lasts s (s.grantFrame vf pa) := by
  unfold State.grantFrame
  split
  · exact lasts_mem s _
  · exact Lasts.refl s

theorem answers_useEntry (s : State) (a : Agent) (vf va : Nat) (k : Kind) (e : TlbEntry) :
    Answers s Prod.fst (s.useEntry a vf va k e) := by
  unfold State.useEntry
  dsimp only
  split
  · exact answers_error _
  · split
    · exact answers_error _
    · refine answers_ok ?_
      dsimp only
      split
      · exact lasts_grantFrame s vf _
      · exact Lasts.refl s

/-- What ends a walk short of a leaf answers nothing. -/
theorem answers_walkFault {α : Type} (s : State) (g : α → State) (a : Agent) (vf va : Nat) (k : Kind) (instant : Bool) (w : Walk) :
    Answers s g (s.walkFault a vf va k instant w) := by
  unfold State.walkFault State.notPresent
  split
  · exact answers_error _
  · exact answers_error _
  · split
    · exact answers_error _
    · split <;> exact answers_error _

theorem answers_walkEntry (s : State) (a : Agent) (vf va : Nat) (k : Kind) (instant : Bool) :
    Answers s Prod.fst (s.walkEntry a vf va k instant) := by
  unfold State.walkEntry
  refine answers_withSides ?_
  split
  · exact answers_ok (lasts_meetLines s _)
  · exact answers_walkFault s _ a vf va k instant _

theorem answers_tlbMiss (s : State) (core : Nat) (a : Agent) (vf va : Nat) (k : Kind) (instant : Bool) :
    Answers s Prod.fst (s.tlbMiss core a vf va k instant) := by
  have hrest (u : State) (e : TlbEntry) : Answers u Prod.fst
      ((u.updCore core fun c => { c with tlb := tlbInsert c.tlb e }).onward
        ((u.updCore core fun c => { c with tlb := tlbInsert c.tlb e }).useEntry a vf va k e)) :=
    answers_onward ((answers_useEntry _ a vf va k e).after (lasts_updCore u core _ rfl))
  unfold State.tlbMiss
  dsimp only
  split
  · exact Answers.bind (g := Prod.fst) answers_same fun b => hrest b.1 b.2
  · exact (answers_walkEntry s a vf va k instant).bind fun b => hrest b.1 b.2

/-- A hit changes the TLB and xlsplit alone. -/
theorem lasting_tlbHit {c d : Core} {vf va : Nat} {e : TlbEntry} (h : c.tlbHit vf va = some (e, d)) : d.lasting = c.lasting := by
  unfold Core.tlbHit at h
  split at h
  · cases h
  · dsimp only at h
    split at h <;> cases h <;> rfl

theorem answers_translate (s : State) (a : Agent) (vf va : Nat) (k : Kind) (instant : Bool) :
    Answers s Prod.fst (s.translate a vf va k instant) := by
  unfold State.translate
  split
  · split <;> exact answers_error _
  · split
    · refine answers_onward ?_
      split
      · next core _ _ e c hhit =>
        exact answers_onward ((answers_useEntry _ a vf va k e).after (lasts_updCore s core (fun _ => c) (lasting_tlbHit hhit)))
      · exact answers_tlbMiss s _ a vf va k instant
    · exact answers_onward ((answers_walkEntry s a vf va k instant).bind fun b => answers_onward (answers_useEntry b.1 a vf va k b.2))

theorem answers_readVa (s : State) (a : Agent) (vf va n : Nat) (k : Kind) (instant : Bool) :
    Answers s Prod.fst (s.readVa a vf va n k instant) := by
  unfold State.readVa
  refine answers_check fun _ => (answers_translate s a vf va k instant).bind fun b =>
    (answers_readLeaf b.1 a vf b.2 _).bind fun r => ?_
  dsimp only
  split
  · exact answers_same
  · exact (answers_translate r.1 a vf _ k instant).bind fun b => (answers_readLeaf b.1 a vf b.2 _).bind fun _ => answers_same

/-! ### Handles (R229 to R235) -/

theorem answers_readEntry (s : State) (a : Agent) (device : Bool) (h : Dword) (instant : Bool) :
    Answers s Prod.fst (s.readEntry a device h instant) := by
  unfold State.readEntry
  exact answers_check fun _ => answers_check fun _ => (answers_readVa s a _ _ _ _ instant).bind fun _ => answers_same

theorem answers_derefRead (s : State) (a : Agent) (device : Bool) (h : Dword) (instant : Bool) (top : Nat) :
    Answers s Prod.fst (s.derefRead a device h instant top) := by
  unfold State.derefRead
  exact (answers_readEntry s a device h instant).bind fun _ => answers_onward
    (answers_check fun _ => answers_check fun _ => answers_check fun _ => answers_same)

theorem answers_tileFrame (s : State) (a : Agent) (e : HEntry) (c : Coords) (tile : Nat) (instant : Bool) :
    Answers s Prod.fst (s.tileFrame a e c tile instant) := by
  unfold State.tileFrame
  refine (answers_readVa s a _ _ _ _ instant).bind fun _ => answers_onward (answers_check fun _ => ?_)
  split
  · exact answers_check fun _ => answers_same
  · exact answers_check fun _ => answers_same

theorem answers_frameLeaf (s : State) (a : Agent) (e : HEntry) (f : Frame) (byte : Nat) (k : Kind) (instant : Bool) :
    Answers s Prod.fst (s.frameLeaf a e f byte k instant) := by
  unfold State.frameLeaf
  split
  · exact answers_onward (answers_check fun _ => answers_translate s a _ _ k instant)
  · exact answers_same

/-! ### Write-backs (R199, R262, R268) -/

theorem lasts_noteWrite (s : State) (a : Agent) (vf : Nat) (l : Leaf) (cells : List (Nat × Byte)) :
    Lasts s (s.noteWrite a vf l cells) := by
  have hdirty : Lasts s (s.dirtyPage vf l.va) := by
    unfold State.dirtyPage
    split
    · exact Lasts.refl s
    · dsimp only
      split
      · exact Lasts.refl s
      · exact lasts_updVf s _ _
  have hentry (u : State) : Lasts u (u.updateEntry a cells) := by
    unfold State.updateEntry
    split
    · exact Lasts.refl u
    · split
      · exact Lasts.refl u
      · exact lasts_updDie u _ _
  unfold State.noteWrite
  dsimp only
  split
  · exact (hdirty.trans (hentry _)).trans (lasts_of_cores rfl rfl rfl rfl)
  · exact hdirty.trans (hentry _)

theorem answers_writeCells (s : State) (a : Agent) (vf : Nat) (l : Leaf) (cells : List (Nat × Byte)) (colours : Byte)
    (chan : Option Nat) : Answers s id (s.writeCells a vf l cells colours chan) := by
  have hnote := lasts_noteWrite s a vf l cells
  unfold State.writeCells
  refine answers_check fun _ => ?_
  dsimp only
  split
  · exact answers_onward ((answers_foldlM (g := id) (fun u c => answers_peerWrite u a vf c chan) _ _).after hnote)
  · exact answers_ok (hnote.trans (lasts_mem _ _))

theorem lasts_writeBack (s : State) (core : Nat) (l : L1Line) : Lasts s (s.writeBack core l) := by
  unfold State.writeBack
  split
  · exact Lasts.refl s
  · split
    · exact lasts_loseLine s _
    · split
      · next t ht => exact answers_writeCells s _ _ _ _ _ _ t ht
      · exact Lasts.refl s

theorem lasts_flushIf (s : State) (core : Nat) (p : L1Line → Bool) : Lasts s (s.flushIf core p) :=
  (lasts_foldl (fun s l => lasts_writeBack s core l) _ s).trans (lasts_updCore _ core _ rfl)

theorem lasts_flushAll (s : State) (cs : List Nat) : Lasts s (s.flushAll cs) :=
  lasts_foldl (fun s c => lasts_flushIf s c _) cs s

/-! ### What survives a stop -/

/-- A core with what accesses met there. -/
def Core.keepSeen (k c : Core) : Core := { k with tlb := c.tlb, csr := { k.csr with xlsplit := c.csr.xlsplit } }

theorem lasting_keepSeen (k c : Core) : (k.keepSeen c).lasting = k.lasting := rfl

/-- The state with the memory errors, events and restorations that some accesses left. -/
def State.seenErrors (s t : State) : State :=
  { s with
    mem := { s.mem with
      poison := t.mem.poison, latent := t.mem.latent, tagDiff := t.mem.tagDiff, broken := t.mem.broken, corrected := t.mem.corrected }
    pf := t.pf, sec := { s.sec with restoring := t.sec.restoring } }

/-- The state with the events of the VFs that some accesses left. -/
def State.seenRings (s t : State) : State := t.vfs.foldl (fun s v => s.updVf v.1 fun x => { x with rings := v.2.rings }) s

/-- The state with the entries of the die tables that some accesses left. -/
def State.seenEntries (s t : State) : State :=
  s.dies.foldl (fun s d => s.updDie d.1 fun k =>
    { k with probe := k.probe.filter fun p => ((t.die d.1).probe.lookup p.1).isSome }) s

/-- The state with the TLBs that some accesses left. -/
def State.seenCores (s t : State) : State := t.cores.foldl (fun s c => s.updCore c.1 fun k => k.keepSeen c.2) s

theorem keepSeen_eq (s t : State) : s.keepSeen t = (((s.seenErrors t).seenRings t).seenEntries t).seenCores t := rfl

theorem lasts_seenErrors (s t : State) : Lasts s (s.seenErrors t) := lasts_of_cores rfl rfl rfl rfl

theorem lasts_seenRings (s t : State) : Lasts s (s.seenRings t) :=
  lasts_foldl (fun s (v : Nat × Vf) => lasts_updVf s v.1 _) t.vfs s

theorem lasts_seenEntries (s t : State) : Lasts s (s.seenEntries t) :=
  lasts_foldl (fun s (d : Nat × Die) => lasts_updDie s d.1 _) s.dies s

theorem lasts_seenCores (s t : State) : Lasts s (s.seenCores t) :=
  lasts_foldl (fun s (c : Nat × Core) => lasts_updCore s c.1 (fun k => k.keepSeen c.2) (lasting_keepSeen _ _)) t.cores s

theorem lasts_keepSeen (s t : State) : Lasts s (s.keepSeen t) := by
  rw [keepSeen_eq]
  exact (((lasts_seenErrors s t).trans (lasts_seenRings _ t)).trans (lasts_seenEntries _ t)).trans (lasts_seenCores _ t)

/-- The page fault of an access is noted in xlpfa alone. -/
theorem lasts_xlpfa (s : State) (a : Agent) (va : Nat) :
    Lasts s (match s.nodeOfAgent a with
      | some _ => s.updCore a.core fun c => { c with csr := { c.csr with xlpfa := d64 va } }
      | none => s) := by
  split
  · exact lasts_updCore s _ _ rfl
  · exact Lasts.refl s

theorem lasts_side (s : State) (d : Side) : Lasts s (s.side d) := by
  cases d with
  | meet ls => exact lasts_meetLines s ls
  | pageFault a vf va kind =>
    exact (Lasts.trans (lasts_of_cores rfl rfl rfl rfl) (lasts_xlpfa { s with pf := { s.pf with
      nextTag := s.pf.nextTag + 1
      faults := SMap.insert s.pf.nextTag ⟨a, vf, va, kind, s.tb, false⟩ (SMap.erase s.pf.faults s.pf.nextTag) } } a va)).trans
      (lasts_postPf _ _ _ _ _ _)
  | answered tag => exact lasts_of_cores rfl rfl rfl rfl
  | malformed a vf kind level addr => exact lasts_postPf s _ _ _ _ _
  | allocFail cause index =>
    show Lasts s (match s.here.node with | some id => s.postNode id 0x88 cause 0 index | none => s)
    split
    · exact lasts_postVf s _ _ _
    · exact Lasts.refl s
  | peer r op m => exact lasts_sendPeer s op m r
  | evict core vf va => exact lasts_flushIf s core _
  | lose ls => exact lasts_foldl lasts_loseLine ls s
  | forget r => exact lasts_peers s _
  | seen t => exact lasts_keepSeen s t
  | dropEntry d i => exact lasts_dropEntry s d i

theorem lasts_applySides (s : State) (l : List Side) : Lasts s (s.applySides l) := lasts_foldl lasts_side l s

/-! ### Ends of fills (R193, R204) -/

theorem lasting_writeUnits (c : Core) (k o : Nat) (bs : List Byte) : (c.writeUnits k o bs).lasting = c.lasting := by
  induction k generalizing c o bs with
  | zero => rfl
  | succ k ih => exact ih _ _ _

theorem lasts_wakeNode (s : State) (id : Dword) : Lasts s (s.wakeNode id) := by
  unfold State.wakeNode
  split
  · exact Lasts.refl s
  · split
    · exact Lasts.refl s
    · exact lasts_of_cores rfl rfl rfl rfl

theorem lasts_endTicket (s : State) (d t : Nat) : Lasts s (s.endTicket d t) :=
  (lasts_updDie s d _).trans (lasts_foldl (fun s (p : Nat × Node) => lasts_wakeNode s (d64 p.1)) _ _)

theorem lasts_setPentry (s : State) (t : PTable) (i : Nat) (e : PEntry) : Lasts s (s.setPentry t i e) := by
  cases t with
  | region c => exact lasts_updCore s c _ rfl
  | die d => exact lasts_updDie s d _

theorem lasts_filled (s : State) (t : PTable) (i ticket : Nat) (e : PEntry) : Lasts s (s.filled t i ticket e) :=
  (lasts_setPentry s t i _).trans (lasts_endTicket _ _ _)

theorem answers_fillBytes (s : State) (d vf : Nat) (h : Dword) (tile : Nat) (raw : Bool) :
    Answers s Prod.fst (s.fillBytes d vf h tile raw) := by
  unfold State.fillBytes
  refine answers_check fun _ => (answers_derefRead s _ true h true 6).bind fun b => answers_onward
    (answers_check fun _ => answers_check fun _ => (answers_tileFrame b.1 _ b.2 _ _ true).bind fun f =>
      (answers_frameLeaf f.1 _ b.2 f.2 _ .read true).bind fun l => (answers_readLeaf l.1 _ _ l.2 _).bind fun r => ?_)
  dsimp only
  split <;> exact answers_same

theorem lasts_endFill (s : State) (t : PTable) (i : Nat) : Lasts s (s.endFill t i) := by
  unfold State.endFill
  dsimp only
  split
  · next hfill =>
    exact ((answers_fillBytes s _ _ _ _ _ _ hfill).trans (lasts_updCore _ _ _ (lasting_writeUnits _ _ _ _))).trans
      (lasts_filled _ _ _ _ _)
  · next hfill => exact (answers_fillBytes s _ _ _ _ _ _ hfill).trans (lasts_filled _ _ _ _ _)
  · exact ((lasts_applySides s _).trans (lasts_peers _ _)).trans (lasts_filled _ _ _ _ _)
  · exact lasts_applySides s _
  · exact (lasts_applySides s _).trans (lasts_filled _ _ _ _ _)

theorem lasts_endRegionFills (s : State) (core : Nat) : Lasts s (s.endRegionFills core) :=
  lasts_foldl (fun s i => lasts_endFill s (.region core) i) _ s

end Sys2Proof.Machine
end


section
/-! PROOFS. Traps, breaks and returns (R60, R77, R80, R102, R108, R430). -/

namespace Sys2Proof.Machine
open Sys2Proof

/-! ### The precise traps -/

theorem exec_trap (o : RCode) (s : State) : exec (.trap o) s = runStream s fun _ => trapOf 0x16 (o.code.zeroExtend 64) := rfl

theorem exec_illegalOpcode (f : EncFault) (place : Dword) (s : State) :
    exec (.illegalOpcode f place) s = runStream s fun _ => trapOf (EncFault.code f) place := rfl

theorem exec_fetchPastEnd (s : State) :
    exec .fetchPastEnd s = runStream s fun s => trapOf 0x15 (BitVec.ofNat 64 (s.here.binLen s.curX s.self.mode)) := rfl

theorem exec_eret (o : R0) (s : State) :
    exec (.eret o) s = runStream s fun s => if s.self.mode = .node then trapOf 0x18 0 else s.trapReturn := rfl

/-- The core after brk has left its code in dbgstat. -/
def Core.brkNoted (c : Core) (code : BitVec 5) : Core :=
  { c with csr := { c.csr with dbgstat := (c.csr.dbgstat &&& 0xFF) ||| (code.zeroExtend 64 : Dword) <<< 8 } }

/-- The state in which brk retires, before its node halts. -/
def State.brkRetired (s : State) (o : RCode) : State := (s.updHere fun c => c.brkNoted o.code).done o.stop

theorem exec_brk (o : RCode) (s : State) : exec (.brk o) s = runStream s fun s =>
    if s.here.dbg.attached && s.debugOpen s.cur then .ok ((s.brkRetired o).haltNode s.cur saveBrk)
    else trapOf 0x17 (o.code.zeroExtend 64) := rfl

theorem brk_traps {o : RCode} {s : State} (hm : s.mayTrap) (h : s.here.dbg.attached = false ∨ s.debugOpen s.cur = false) :
    ∃ t, exec (.brk o) s = .next t ∧ TrapsHere s t 0x17 (o.code.zeroExtend 64) := by
  have hclosed : (s.here.dbg.attached && s.debugOpen s.cur) = false := by
    rcases h with h | h <;> simp [h]
  rw [exec_brk]
  exact runStream_trapsHere hm (by rw [hclosed]; rfl) rfl (by decide)

theorem eret_node {o : R0} {s : State} (hm : s.mayTrap) (h : s.self.mode = .node) :
    ∃ t, exec (.eret o) s = .next t ∧ TrapsHere s t 0x18 0 := by
  rw [exec_eret]
  exact runStream_trapsHere hm (if_pos h) rfl (by decide)

/-- No encoding fault is one whose record shows more, nor a fault of the machine. -/
theorem encFault_plain (f : EncFault) : recorded (EncFault.code f) = false ∧ EncFault.code f ≠ 0x71 ∧ EncFault.code f ≠ 0x72 := by
  cases f <;> decide

/-! ### A halt of a node (R430) -/

/-- The cores that a halt of a core's node stops. -/
def State.haltCores (s : State) (core : Nat) : List Nat :=
  match (s.core core).node.bind s.node? with
  | some n => n.cores
  | none => [core]

theorem haltCores_node {s : State} {id : Dword} {n : Node} (hid : s.here.node = some id) (hn : s.node? id = some n) :
    s.haltCores s.cur = n.cores := by
  have hfound : (s.core s.cur).node.bind s.node? = some n := Option.bind_eq_some_iff.mpr ⟨id, hid, hn⟩
  rw [State.haltCores, hfound]

/-- A halt stops the core that executes, which runs its node. -/
theorem cur_mem_haltCores {s : State} (h : ∀ id n, s.here.node = some id → s.node? id = some n → s.cur ∈ n.cores) :
    s.cur ∈ s.haltCores s.cur := by
  rw [State.haltCores]
  split
  · next n hfound =>
    obtain ⟨id, hid, hn⟩ := Option.bind_eq_some_iff.mp hfound
    exact h id n hid hn
  · exact List.mem_singleton_self s.cur

/-- A core as its halt leaves it. -/
def Core.stopped (k : Core) (tb cause : Nat) (waiting : List Dword) : Core :=
  { ((k.unwait false).unwait true).abandon with
    waiters := [], saveTb := tb, saveCause := cause
    dbg := { k.dbg with halted := true, only := none, waiting := waiting } }

theorem lasting_stopped (k : Core) (tb cause : Nat) (waiting : List Dword) : (k.stopped tb cause waiting).lasting = k.lasting := rfl

/-- Each core of a list is stopped. -/
def State.stopCores (s : State) (cs : List Nat) (cause : Nat) : State :=
  cs.foldl (fun s c => s.updCore c fun k => k.stopped s.tb cause (s.waitingOf c)) s

theorem lasts_stopCores (s : State) (cs : List Nat) (cause : Nat) : Lasts s (s.stopCores cs cause) :=
  lasts_foldl (fun s c => lasts_updCore s c (fun k => k.stopped s.tb cause (s.waitingOf c)) (lasting_stopped _ _ _ _)) cs s

theorem halted_stopCores (cs : List Nat) (cause c : Nat) (s : State) (h : c ∈ cs ∨ (s.core c).dbg.halted = true) :
    ((s.stopCores cs cause).core c).dbg.halted = true := by
  induction cs generalizing s with
  | nil => exact h.resolve_left (List.not_mem_nil)
  | cons d cs ih =>
    refine ih _ ?_
    by_cases hd : c = d
    · refine .inr ?_
      rw [hd, State.core_updCore_self]
      rfl
    · rw [State.core_updCore_ne s d c _ hd]
      exact h.imp_left fun hm => (List.mem_cons.mp hm).resolve_left hd

/-- The state before the cores of a halt stop: their writes and fills are complete. -/
def State.haltReady (s : State) (cs : List Nat) : State :=
  let u := cs.foldl State.endRegionFills (s.flushAll cs)
  { u with mem := u.mem.drain (ofCores cs) }

theorem lasts_haltReady (s : State) (cs : List Nat) : Lasts s (s.haltReady cs) :=
  ((lasts_flushAll s cs).trans (lasts_foldl lasts_endRegionFills cs _)).trans (lasts_mem _ _)

theorem haltNode_eq (s : State) (core cause : Nat) : s.haltNode core cause =
    let cs := s.haltCores core
    let u := (s.haltReady cs).stopCores cs cause
    { u with peers := u.peers.filter fun r => !(r.parked.isNone && ofCores cs r.agent && !r.write && !r.amo) } := rfl

theorem lasts_haltNode (s : State) (core cause : Nat) : Lasts s (s.haltNode core cause) := by
  rw [haltNode_eq]
  exact ((lasts_haltReady s _).trans (lasts_stopCores _ _ cause)).trans (lasts_peers _ _)

theorem halted_haltNode (s : State) (core cause c : Nat) (h : c ∈ s.haltCores core) :
    ((s.haltNode core cause).core c).dbg.halted = true :=
  halted_stopCores (s.haltCores core) cause c (s.haltReady (s.haltCores core)) (.inl h)

/-! ### brk with a debugger attached (R108, R430) -/
/-- brk's code as dbgstat holds it. -/
theorem brkCode (code : BitVec 5) : ((code.zeroExtend 64 : Dword) <<< 8) = BitVec.ofNat 64 (code.toNat * 2 ^ 8) := by
  have := code.isLt
  apply BitVec.eq_of_toNat_eq
  simp only [BitVec.toNat_shiftLeft, BitVec.truncate_eq_setWidth, BitVec.toNat_setWidth, BitVec.toNat_ofNat, Nat.shiftLeft_eq]
  omega

theorem self_brkNoted (s : State) (code : BitVec 5) : (s.updHere fun c => c.brkNoted code).self = s.self := by
  rw [State.self, State.here_updHere]
  cases hx : s.curX <;> rfl

/-- The core that executes brk, when brk has retired. -/
theorem here_brkRetired (s : State) (o : RCode) : (s.brkRetired o).here =
    { (s.here.brkNoted o.code).setStream s.curX { s.self.advance 1 o.stop with wait := none } with advanced := s.tb } := by
  rw [State.brkRetired, State.here_done, self_brkNoted, State.here_updHere]
  rfl

theorem onlyCore_brkRetired (s : State) (o : RCode) : OnlyCore s (s.brkRetired o) s.cur :=
  (onlyCore_updHere s fun c => c.brkNoted o.code).trans (onlyCore_done (s.updHere fun c => c.brkNoted o.code) o.stop)

/-- A retirement does not move a node. -/
theorem haltCores_brkRetired (s : State) (o : RCode) : (s.brkRetired o).haltCores s.cur = s.haltCores s.cur := by
  have honly := onlyCore_brkRetired s o
  have hnode : ((s.brkRetired o).core s.cur).node = (s.core s.cur).node := by
    rw [← honly.here_eq, here_brkRetired]
    cases hx : s.curX <;> rfl
  have hnodes : (s.brkRetired o).node? = s.node? := by
    rw [honly.1]
    rfl
  rw [State.haltCores, State.haltCores, hnode, hnodes]

theorem lasting_iff {c d : Core} : c.lasting = d.lasting ↔ ({ c.c with wait := none } : Stream) = { d.c with wait := none }
    ∧ ({ c.x with wait := none } : Stream) = { d.x with wait := none } ∧ c.csr.dbgstat = d.csr.dbgstat
    ∧ c.dbg.attached = d.dbg.attached := by
  simp only [Core.lasting, Prod.mk.injEq]

/-- What a core keeps while it lasts, seen from the stream that executes. -/
theorem Lasts.self_eq {s t : State} (h : Lasts s t) : ({ t.self with wait := none } : Stream) = { s.self with wait := none } := by
  obtain ⟨hcur, hx, -, hc⟩ := h
  obtain ⟨hC, hX, -, -⟩ := lasting_iff.mp (hc s.cur)
  rw [State.self, State.self, State.here, State.here, hcur, hx]
  cases s.curX
  · exact hC
  · exact hX

/-- The debugger's part of the core that executes, while it lasts. -/
theorem Lasts.debug_eq {s t : State} (h : Lasts s t) :
    t.here.csr.dbgstat = s.here.csr.dbgstat ∧ t.here.dbg.attached = s.here.dbg.attached := by
  obtain ⟨hcur, -, -, hc⟩ := h
  obtain ⟨-, -, hstat, hatt⟩ := lasting_iff.mp (hc s.cur)
  rw [State.here, State.here, hcur]
  exact ⟨hstat, hatt⟩

/-- brk with a debugger attached retires and halts the cores of its node. -/
theorem brk_halts {o : RCode} {s : State} (ha : s.here.dbg.attached = true) (hopen : s.debugOpen s.cur = true)
    (hmine : ∀ id n, s.here.node = some id → s.node? id = some n → s.cur ∈ n.cores) :
    ∃ t, exec (.brk o) s = .next t ∧ t.here.dbg.halted = true ∧ t.here.dbg.attached = true
      ∧ (∀ id n, s.here.node = some id → s.node? id = some n → ∀ c ∈ n.cores, (t.core c).dbg.halted = true)
      ∧ t.here.csr.dbgstat = (s.here.csr.dbgstat &&& 0xFF) ||| BitVec.ofNat 64 (o.code.toNat * 2 ^ 8)
      ∧ RegsSame s t ∧ t.self.mode = s.self.mode ∧ t.issue = .retired
      ∧ (s.self.loops.depth = 0 ∨ s.self.mode = .handler ∨ o.stop = false → t.self.pc = s.self.pc + 4) := by
  have hlast := lasts_haltNode (s.brkRetired o) s.cur saveBrk
  have hhalt := halted_haltNode (s.brkRetired o) s.cur saveBrk
  have hadv := done_onlyAdvances (s.updHere fun c => c.brkNoted o.code) o.stop
  have hexec : exec (.brk o) s = .next ((s.brkRetired o).haltNode s.cur saveBrk) := by
    rw [exec_brk]
    exact runStream_ok (if_pos (by rw [ha, hopen]; rfl))
  rw [haltCores_brkRetired] at hhalt
  change OnlyAdvances _ (s.brkRetired o) o.stop at hadv
  generalize (s.brkRetired o).haltNode s.cur saveBrk = t at hlast hhalt hexec
  have hcur : t.cur = s.cur := hlast.1.trans (onlyCore_brkRetired s o).cur_eq
  have hself := hlast.self_eq
  obtain ⟨hstat, hatt⟩ := hlast.debug_eq
  obtain ⟨⟨hregs, hhregs⟩, honlyRegs, -, -, hissue, -, hpc⟩ := hadv
  have hmode : (s.brkRetired o).self.mode = s.self.mode := by rw [honlyRegs, self_brkNoted]
  rw [self_brkNoted] at hregs hhregs hpc
  rw [here_brkRetired] at hstat hatt
  refine ⟨t, hexec, ?_, ?_, fun id n hid hn c hc => hhalt c (haltCores_node hid hn ▸ hc), ?_, ⟨?_, ?_⟩, ?_, hlast.2.2.1.trans hissue, fun h => ?_⟩
  · rw [State.here, hcur]
    exact hhalt s.cur (cur_mem_haltCores hmine)
  · rw [hatt, ← ha]
    cases hx : s.curX <;> rfl
  · rw [hstat, ← brkCode]
    cases hx : s.curX <;> rfl
  · exact (congrArg Stream.regs hself).trans hregs
  · exact (congrArg Stream.hregs hself).trans hhregs
  · exact (congrArg Stream.mode hself).trans hmode
  · exact (congrArg Stream.pc hself).trans (hpc h).1

/-! ### eret (R80, R81, R108) -/

/-- The mode that estatus.PM names. -/
theorem modeOfCode_eq (n : Nat) : Mode.ofCode (bitsOf n 1 0) = match n % 4 with
    | 0 => .node
    | 1 => .handler
    | _ => .device := by
  rw [bitsOf, Nat.pow_zero, Nat.div_one]
  rfl

/-- The stream that executes, sent by an eret to a mode and an offset. -/
def Stream.sentTo (t : Stream) (m : Mode) (a : Dword) : Stream := { t with mode := m, pc := a, gpc := a }

/-- The state after an eret to a mode. -/
def State.returned (s : State) (m : Mode) : State :=
  ((s.updSelf fun t => t.sentTo m t.epc).updHere fun c => c.resumeEngines s.curX).retired

theorem trapReturn_eq (s : State) : s.trapReturn =
    need (s.here.targetOk s.curX (Mode.ofCode (bitsOf s.self.estatus.toNat 1 0)) s.self.epc) (trapOf 0x15 s.self.epc) >>= fun _ =>
      .ok (s.returned (Mode.ofCode (bitsOf s.self.estatus.toNat 1 0))) := rfl

/-- What an eret of a stream does to a queue. -/
def EngQueue.resume (e : EngQueue) (x : Bool) : EngQueue :=
  let e := if e.held = some x then { e with held := none } else e
  if x = false ∧ e.fault.any Prod.snd = true then { e with fault := none, frec := .zero } else e

theorem resumeEngines_eq (c : Core) (x : Bool) : c.resumeEngines x =
    { c with load := c.load.resume x, store := c.store.resume x, matrix := c.matrix.resume x, backfill := c.backfill.resume x } := by
  unfold Core.resumeEngines
  extract_lets go
  have hgo (e : EngQueue) : go e = e.resume x := by
    simp only [go, EngQueue.resume]
    generalize (if e.held = some x then { e with held := none } else e : EngQueue) = q
    rcases hf : q.fault with _ | ⟨code, taken⟩
    · simp
    · cases taken <;> cases x <;> simp
  rw [hgo, hgo, hgo, hgo]

theorem eng_resumeEngines (c : Core) (x : Bool) (q : EngQ) : (c.resumeEngines x).eng q = (c.eng q).resume x := by
  rw [resumeEngines_eq]
  cases q <;> rfl

theorem onlyCore_returned (s : State) (m : Mode) : OnlyCore s (s.returned m) s.cur := by
  have hsent := onlyCore_updSelf s fun t => t.sentTo m t.epc
  have hresumed := hsent.trans (hsent.cur_eq ▸ onlyCore_updHere (s.updSelf fun t => t.sentTo m t.epc)
    fun c => c.resumeEngines s.curX)
  exact hresumed.trans (hresumed.cur_eq ▸ onlyCore_retired _)

/-- The streams stand apart from the engines. -/
theorem resumeEngines_setStream (c : Core) (x y : Bool) (t : Stream) :
    (c.setStream x t).resumeEngines y = (c.resumeEngines y).setStream x t := by
  rw [resumeEngines_eq, resumeEngines_eq]
  cases x <;> rfl

/-- The core that executes, after an eret. -/
theorem here_returned (s : State) (m : Mode) : (s.returned m).here =
    { (s.here.resumeEngines s.curX).setStream s.curX { s.self.sentTo m s.self.epc with wait := none } with advanced := s.tb } := by
  have hhere : ((s.updSelf fun t => t.sentTo m t.epc).updHere fun c => c.resumeEngines s.curX).here =
      (s.here.resumeEngines s.curX).setStream s.curX (s.self.sentTo m s.self.epc) := by
    rw [State.here_updHere, State.here_updSelf, resumeEngines_setStream]
  have hself : ((s.updSelf fun t => t.sentTo m t.epc).updHere fun c => c.resumeEngines s.curX).self =
      s.self.sentTo m s.self.epc := by
    rw [State.self, hhere]
    exact Core.stream_setStream _ s.curX _
  rw [State.returned, State.here_retired, hself, hhere]
  exact congrArg (fun c : Core => { c with advanced := s.tb }) (Core.setStream_setStream _ s.curX _ _)

theorem self_returned (s : State) (m : Mode) : (s.returned m).self = { s.self.sentTo m s.self.epc with wait := none } := by
  rw [State.self, here_returned, (onlyCore_returned s m).curX_eq]
  exact Core.stream_setStream (s.here.resumeEngines s.curX) s.curX _

theorem memorySame_returned (s : State) (m : Mode) : MemorySame s (s.returned m) := by
  refine memorySame_of_onlyCore (onlyCore_returned s m) ?_
  rw [← (onlyCore_returned s m).here_eq, here_returned]
  exact Core.setStream_sp _ _ _

theorem returned_issue (s : State) (m : Mode) : (s.returned m).issue = .retired := rfl

/-- Of the core that executes, an eret changes its stream and the engines alone. -/
theorem here_returned_frame (s : State) (m : Mode) (t : State) (ht : t = s.returned m) :
    t.here = { s.here.setStream s.curX t.self with
      load := t.here.load, store := t.here.store, matrix := t.here.matrix, backfill := t.here.backfill
      advanced := t.here.advanced } := by
  rw [ht, self_returned, here_returned, resumeEngines_eq]
  cases s.curX <;> rfl

theorem eng_returned (s : State) (m : Mode) (q : EngQ) : (s.returned m).here.eng q = (s.here.eng q).resume s.curX := by
  rw [← eng_resumeEngines, here_returned]
  cases s.curX <;> cases q <;> rfl

section
variable {o : R0} {s : State} {m : Mode} (hmode : s.self.mode ≠ .node) (hcode : Mode.ofCode (bitsOf s.self.estatus.toNat 1 0) = m)
include hmode hcode

/-- Outside node mode an eret whose target lies in the binary of its mode returns. -/
theorem eret_returns (h : s.here.targetOk s.curX m s.self.epc = true) : exec (.eret o) s = .next (s.returned m) := by
  have hbody : s.trapReturn = .ok (s.returned m) := by rw [trapReturn_eq, hcode, need_then h]
  rw [exec_eret]
  exact runStream_ok ((if_neg hmode).trans hbody)

/-- In device mode an eret to a target outside traps. -/
theorem eret_traps (h : ¬s.here.targetOk s.curX m s.self.epc = true) (hdev : s.self.mode = .device) :
    ∃ t, exec (.eret o) s = .next t ∧ TrapsHere s t 0x15 s.self.epc := by
  have hbody : s.trapReturn = trapOf 0x15 s.self.epc := by rw [trapReturn_eq, hcode, need_trap (Bool.eq_false_iff.mpr h)]
  have hmay : s.mayTrap := by
    have hstream : ((s.core s.cur).stream s.curX).mode = .device := hdev
    exact ⟨by rw [hstream]; decide, by rw [hstream]; rintro ⟨⟩⟩
  rw [exec_eret]
  exact runStream_trapsHere hmay ((if_neg hmode).trans hbody) rfl (by decide)

end

/-- Settles O9: the traps are those of their bodies, brk's halt leaves every stream where it stood, and eret's return is the
state that `State.returned` writes out. -/
theorem trapsAndBreaks : Obligations.TrapsAndBreaks := by
  unfold Obligations.TrapsAndBreaks
  refine ⟨fun s hm => ⟨fun o => ?_, fun o h => brk_traps hm h, fun o h => eret_node hm h, fun f place => ?_, ?_⟩,
    fun o s ha hopen hmine => brk_halts ha hopen hmine, fun o s hmode => ?_⟩
  · rw [exec_trap]
    exact runStream_trapsHere hm rfl rfl (by decide)
  · obtain ⟨hplain, hcode⟩ := encFault_plain f
    obtain ⟨t, ht, htraps⟩ := runStream_trapsHere (body := fun _ => trapOf (EncFault.code f) place) hm rfl hplain hcode
    refine ⟨t, (exec_illegalOpcode f place s).trans ht, ?_⟩
    cases f <;> exact htraps
  · rw [exec_fetchPastEnd]
    exact runStream_trapsHere hm rfl rfl (by decide)
  · intro m ok
    have hcode : Mode.ofCode (bitsOf s.self.estatus.toNat 1 0) = m := modeOfCode_eq _
    have hok : s.here.targetOk s.curX m s.self.epc = true ↔ ok := targetOk_iff s m s.self.epc
    refine ⟨fun h => ⟨s.returned m, eret_returns hmode hcode (hok.mpr h), ?_⟩, fun h => eret_traps hmode hcode (mt hok.mp h)⟩
    have hself := self_returned s m
    exact ⟨⟨returned_issue s m, by rw [hself], by rw [hself]; rfl, by rw [hself]; rfl⟩, by rw [hself]; rfl, hself,
      onlyCore_returned s m, memorySame_returned s m, here_returned_frame s m _ rfl, eng_returned s m⟩

end Sys2Proof.Machine
end


section
/-! PROOFS. Entries, masks and flags of the X-stream (R109, R112, R114, R116), and how a vector instruction ends (R118). -/

namespace Sys2Proof.Machine
open Sys2Proof

/-! ### Elements and masks (R109, R116) -/

/-- An entry that is built from elements is a number with those digits. -/
theorem toNat_ofElems {w : Nat} {l : List Nat} (hw : 0 < w) (hl : w * l.length ≤ 1024) :
    (ofElems w l).toNat = Nat.ofDigits (2 ^ w) (l.map (· % 2 ^ w)) := by
  have hfold : l.foldr (fun x acc => x % 2 ^ w + 2 ^ w * acc) 0 = Nat.ofDigits (2 ^ w) (l.map (· % 2 ^ w)) := by
    rw [Nat.ofDigits_eq_foldr, List.foldr_map]
    rfl
  have hlt : Nat.ofDigits (2 ^ w) (l.map (· % 2 ^ w)) < 2 ^ 1024 := by
    refine lt_of_lt_of_le (Nat.ofDigits_lt_base_pow_length (Nat.one_lt_two_pow hw.ne') ?_) ?_
    · simp only [List.mem_map]
      rintro _ ⟨x, -, rfl⟩
      exact Nat.mod_lt _ (Nat.two_pow_pos w)
    · rw [List.length_map, ← Nat.pow_mul]
      exact Nat.pow_le_pow_right two_pos hl
  rw [ofElems, hfold, BitVec.toNat_ofNat, Nat.mod_eq_of_lt hlt]

/-- An element of an entry that is built from elements. -/
theorem elemOf_ofElems {w : Nat} {l : List Nat} (hw : 0 < w) (hl : w * l.length ≤ 1024) {j : Nat} (hj : j < l.length) :
    elemOf (ofElems w l) w j = l[j] % 2 ^ w := by
  have hdigits : ∀ x ∈ l.map (· % 2 ^ w), x < 2 ^ w := by
    simp only [List.mem_map]
    rintro _ ⟨x, -, rfl⟩
    exact Nat.mod_lt _ (Nat.two_pow_pos w)
  rw [elemOf, toNat_ofElems hw hl, Nat.pow_mul, Nat.ofDigits_div_pow_eq_ofDigits_drop j (Nat.two_pow_pos w) _ hdigits,
    Nat.ofDigits_mod_eq_head!, ← List.map_drop, List.drop_eq_getElem_cons hj]
  exact Nat.mod_mod _ _

/-- The bits of a mask above a number that stands behind them. -/
theorem testBit_maskFold (f : Nat → Bool) (n a j : Nat) :
    ((List.range n).foldr (fun l acc => (if f l then 2 ^ l else 0) + acc) (2 ^ n * a)).testBit j =
      if j < n then f j else a.testBit (j - n) := by
  induction n generalizing a with
  | zero => simp
  | succ n ih =>
    have hbit : (if f n then 2 ^ n else 0) + 2 ^ (n + 1) * a = 2 ^ n * ((f n).toNat + 2 * a) := by
      cases f n
      · simp [Nat.pow_succ, Nat.mul_assoc]
      · simp only [if_true, Bool.toNat_true]
        ring
    rw [List.range_succ, List.foldr_append, List.foldr_cons, List.foldr_nil, hbit, ih]
    rcases Nat.lt_trichotomy j n with h | rfl | h
    · simp [h, Nat.lt_succ_of_lt h]
    · cases f j <;> simp [Nat.testBit_zero]
    · obtain ⟨i, rfl⟩ := Nat.exists_eq_add_of_lt h
      have hdiv : ((f n).toNat + 2 * a) / 2 = a := by have := Bool.toNat_lt (f n); omega
      have hsub : n + i + 1 - n = i + 1 := by omega
      have hsub' : n + i + 1 - (n + 1) = i := by omega
      have hge : ¬n + i + 1 < n := by omega
      have hge' : ¬n + i + 1 < n + 1 := by omega
      rw [if_neg hge, if_neg hge', hsub, hsub', Nat.testBit_succ, hdiv]

/-- A bit of a mask that is built from its bits. -/
theorem getLsbD_buildMask (f : Nat → Bool) {j : Nat} (hj : j < 32) : (buildMask f).getLsbD j = f j := by
  have h := testBit_maskFold f 32 0 j
  rw [Nat.mul_zero, if_pos hj] at h
  rw [buildMask, BitVec.getLsbD_ofNat, h, decide_eq_true hj, Bool.true_and]

/-! ### Results and flags (R112, R116) -/

theorem or_nv (a b : Fp.Flags) : (a.or b).nv = (a.nv || b.nv) := rfl

theorem or_ovf (a b : Fp.Flags) : (a.or b).ovf = (a.ovf || b.ovf) := rfl

/-- A flag that joins a list of flags. -/
theorem foldl_or (l : List Fp.Flags) (a : Fp.Flags) :
    l.foldl Fp.Flags.or a = ⟨a.nv || l.any fun x => x.nv, a.ovf || l.any fun x => x.ovf⟩ := by
  induction l generalizing a with
  | nil => simp
  | cons x t ih => rw [List.foldl_cons, ih, or_nv, or_ovf, List.any_cons, List.any_cons, Bool.or_assoc, Bool.or_assoc]

theorem flagsOf_eq (l : List Fp.Res) : flagsOf l = ⟨l.any fun r => r.fl.nv, l.any fun r => r.fl.ovf⟩ := by
  have h : flagsOf l = (l.map fun r => r.fl).foldl Fp.Flags.or .zero := by rw [flagsOf, List.foldl_map]
  rw [h, foldl_or, List.any_map, List.any_map]
  rfl

/-- The flags as vflags holds them. -/
theorem raisesFlags_flagBits {g : Fp.Flags} {n : Nat} {on : Nat → Bool} {f : Nat → Fp.Flags}
    (hnv : g.nv = true ↔ ∃ j, j < n ∧ on j = true ∧ (f j).nv = true)
    (hovf : g.ovf = true ↔ ∃ j, j < n ∧ on j = true ∧ (f j).ovf = true) : RaisesFlags (flagBits g) n on f := by
  have hbits : (flagBits g).toNat < 4 ∧ (flagBits g).getLsbD 0 = g.nv ∧ (flagBits g).getLsbD 1 = g.ovf := by
    obtain ⟨nv, ovf⟩ := g
    cases nv <;> cases ovf <;> decide
  obtain ⟨hlt, h0, h1⟩ := hbits
  exact ⟨hlt, h0 ▸ hnv, h1 ▸ hovf⟩

/-- The result of an element: an inactive one gives 0 and raises nothing. -/
def activeRes (on : Nat → Bool) (r : Nat → Fp.Res) (j : Nat) : Fp.Res := if on j then r j else ⟨0, .zero⟩

/-- What some active element raises. -/
theorem any_activeRes_iff (n : Nat) (on : Nat → Bool) (r : Nat → Fp.Res) {p : Fp.Flags → Bool} (hp : p .zero = false) :
    (((List.range n).map (activeRes on r)).any fun x => p x.fl) = true ↔ ∃ j, j < n ∧ on j = true ∧ p (r j).fl = true := by
  simp only [List.any_map, List.any_eq_true, List.mem_range, Function.comp_apply, activeRes]
  refine exists_congr fun j => and_congr_right fun _ => ?_
  cases on j <;> simp [hp]

/-- The flags of an entry's results. -/
theorem raisesFlags_activeRes (n : Nat) (on : Nat → Bool) (r : Nat → Fp.Res) :
    RaisesFlags (flagBits (flagsOf ((List.range n).map (activeRes on r)))) n on fun j => (r j).fl := by
  rw [flagsOf_eq]
  exact raisesFlags_flagBits (any_activeRes_iff n on r (p := Fp.Flags.nv) rfl) (any_activeRes_iff n on r (p := Fp.Flags.ovf) rfl)

/-- An element of the entry of those results. -/
theorem elemOf_activeRes {w n : Nat} (hw : 0 < w) (hn : w * n ≤ 1024) (on : Nat → Bool) (r : Nat → Fp.Res) {j : Nat} (hj : j < n) :
    elemOf (ofElems w (((List.range n).map (activeRes on r)).map fun x => x.bits)) w j =
      if on j then (r j).bits % 2 ^ w else 0 := by
  rw [elemOf_ofElems hw (by simpa using hn) (by simpa using hj)]
  simp only [List.getElem_map, List.getElem_range, activeRes]
  split
  · rfl
  · exact Nat.zero_mod _

/-! ### How a vector instruction ends (R114, R118) -/

/-- The reads of an instruction change the vector queues alone. -/
theorem afterReads_eq (l : List (Reg × Bool)) (c : Core) :
    c.afterReads l = { c with vec := { c.vec with queues := (c.afterReads l).vec.queues } } := by
  induction l generalizing c with
  | nil => rfl
  | cons p l ih =>
    obtain ⟨q, peek⟩ := p
    rw [Core.afterReads, ih]
    cases peek <;> rfl

/-- The entry that stands at a place among the reads of an instruction. -/
def State.readAt (s : State) (l : List (Reg × Bool)) (i : Nat) : Vec := (s.here.readsOf l).getD i 0

/-- A core with other vector queues, masks and vflags. -/
def Core.vecWith (c : Core) (queues : SMap (List Vec)) (masks : SMap Word) (fl : Dword) : Core :=
  { c with vec := { c.vec with queues := queues, masks := masks, vflags := fl } }

/-- Such a change leaves the stream that executes. -/
theorem self_setCore_vecWith (s : State) (qs : SMap (List Vec)) (ms : SMap Word) (fl : Dword) :
    (s.setCore s.cur (s.here.vecWith qs ms fl)).self = s.self := by
  rw [State.self, State.here_setCore]
  rfl

/-- The core that executes, after such a change and a retirement. -/
theorem here_vecWith_done (s : State) (qs : SMap (List Vec)) (ms : SMap Word) (fl : Dword) (stop : Bool) :
    ((s.setCore s.cur (s.here.vecWith qs ms fl)).done stop).here =
      { (s.here.setStream s.curX { s.self.advance 1 stop with wait := none }).vecWith qs ms fl with advanced := s.tb } := by
  rw [State.here_done, self_setCore_vecWith, State.here_setCore, State.setCore_curX, State.setCore_tb]
  cases s.curX <;> rfl

/-- A change of the vector queues, masks and vflags and a retirement leave all else as it was. -/
theorem vecWith_done_frame (s : State) (qs : SMap (List Vec)) (ms : SMap Word) (fl : Dword) (stop : Bool) :
    let t := (s.setCore s.cur (s.here.vecWith qs ms fl)).done stop
    RegsSame s t ∧ OnlyRegs s t ∧ OnlyVector s t ∧ MemorySame s t ∧ GoesOn s t 1 stop := by
  intro t
  have hhere : t.here =
      { (s.here.setStream s.curX { s.self.advance 1 stop with wait := none }).vecWith qs ms fl with advanced := s.tb } :=
    here_vecWith_done s qs ms fl stop
  have hself := self_setCore_vecWith s qs ms fl
  have honly : OnlyCore s t s.cur := (onlyCore_setCore s s.cur _).trans (onlyCore_done _ stop)
  have hsp : (t.core s.cur).sp = (s.core s.cur).sp := by
    rw [← honly.here_eq, hhere]
    exact Core.setStream_sp _ _ _
  have htself : t.self = { s.self.advance 1 stop with wait := none } := by
    rw [State.self_done, hself]
  obtain ⟨hregs, honlyRegs, -, -, hgo⟩ := done_onlyAdvances (s.setCore s.cur (s.here.vecWith qs ms fl)) stop
  rw [RegsSame, hself] at hregs
  rw [OnlyRegs, hself] at honlyRegs
  rw [GoesOn, hself] at hgo
  refine ⟨hregs, honlyRegs, ⟨honly, ?_⟩, memorySame_of_onlyCore honly hsp, hgo⟩
  rw [htself, hhere]
  cases s.curX <;> rfl

/-- The core that has read the entries of `l`, pushed an entry and raised flags. -/
theorem raiseV_pushEntry_afterReads (c : Core) (l : List (Reg × Bool)) (d : Reg) (v : Vec) (g : Fp.Flags) :
    ((c.afterReads l).pushEntry d v).raiseV g =
      c.vecWith ((c.afterReads l).pushEntry d v).vec.queues c.vec.masks (c.vec.vflags ||| flagBits g) := by
  rw [afterReads_eq]
  rfl

/-- An instruction that reads the entries of `l`, pushes an entry, raises flags and retires. -/
theorem pushEntry_done_pushes (s : State) (l : List (Reg × Bool)) (d : Reg) (v : Vec) (g : Fp.Flags) (stop : Bool) :
    Pushes s ((s.setCore s.cur (((s.here.afterReads l).pushEntry d v).raiseV g)).done stop) l d v (flagBits g) stop := by
  rw [raiseV_pushEntry_afterReads]
  have hhere := here_vecWith_done s ((s.here.afterReads l).pushEntry d v).vec.queues s.here.vec.masks
    (s.here.vec.vflags ||| flagBits g) stop
  obtain ⟨hregs, hrest⟩ := vecWith_done_frame s ((s.here.afterReads l).pushEntry d v).vec.queues s.here.vec.masks
    (s.here.vec.vflags ||| flagBits g) stop
  refine ⟨⟨fun q => ?_, fun k => ?_, ?_, hrest⟩, hregs⟩
  · rw [hhere]
    show SMap.get [] (SMap.set [] _ _ _) q = _
    rw [SMap.get_set]
    by_cases h : q = d.toNat
    · rw [if_pos h, if_pos h, h]
    · rw [if_neg h, if_neg h]
      rfl
  · rw [hhere]
    cases s.curX <;> rfl
  · rw [hhere]
    rfl

/-- A mask reads as it was written. -/
theorem mask_setMask (c : Core) {d : MaskReg} (hd : d ≠ 0) (v : Word) (k : MaskReg) :
    (c.setMask d v).mask k = if k = d then v else c.mask k := by
  rw [Core.setMask, if_neg hd, Core.mask]
  by_cases hk : k = 0
  · rw [if_pos hk, if_neg (hk ▸ hd.symm), Core.mask, if_pos hk]
  rw [if_neg hk]
  by_cases hkd : k = d
  · rw [if_pos hkd, hkd]
    exact SMap.get_set_self _ _ _ _
  · rw [if_neg hkd, Core.mask, if_neg hk]
    exact SMap.get_set_ne _ _ _ _ _ fun h => hkd (BitVec.eq_of_toNat_eq h)

/-- The core that has read the entries of `l`, written a mask and raised flags. -/
theorem raiseV_setMask_afterReads (c : Core) (l : List (Reg × Bool)) {d : MaskReg} (hd : d ≠ 0) (v : Word) (g : Fp.Flags) :
    ((c.afterReads l).setMask d v).raiseV g =
      c.vecWith (c.afterReads l).vec.queues (c.setMask d v).vec.masks (c.vec.vflags ||| flagBits g) := by
  rw [afterReads_eq, Core.setMask, if_neg hd, Core.setMask, if_neg hd]
  rfl

/-- An instruction that reads the entries of `l`, writes a mask, raises flags and retires. -/
theorem setMask_done_setsMask (s : State) (l : List (Reg × Bool)) {d : MaskReg} (hd : d ≠ 0) (v : Word) (g : Fp.Flags)
    (stop : Bool) :
    SetsMask s ((s.setCore s.cur (((s.here.afterReads l).setMask d v).raiseV g)).done stop) l d v (flagBits g) stop := by
  rw [raiseV_setMask_afterReads _ _ hd]
  have hhere := here_vecWith_done s (s.here.afterReads l).vec.queues (s.here.setMask d v).vec.masks
    (s.here.vec.vflags ||| flagBits g) stop
  refine ⟨fun q => ?_, fun k => ?_, ?_, vecWith_done_frame s (s.here.afterReads l).vec.queues (s.here.setMask d v).vec.masks
    (s.here.vec.vflags ||| flagBits g) stop⟩
  · rw [hhere]
    rfl
  · rw [hhere]
    exact mask_setMask s.here hd v k
  · rw [hhere]
    rfl

end Sys2Proof.Machine
end


section
/-! PROOFS. Function tables on the vector lanes, and the exit test (R159, R345). -/

namespace Sys2Proof.Machine
open Sys2Proof

/-! ### vfunc (R159) -/

/-- A list of steps that all complete. -/
theorem mapM_ok {α β : Type} {f : α → Except Stop β} {g : α → β} {l : List α} (h : ∀ x ∈ l, f x = .ok (g x)) :
    l.mapM f = .ok (l.map g) := by
  induction l with
  | nil => rfl
  | cons x t ih =>
    rw [List.mapM_cons, h x (.head _), ih fun y hy => h y (.tail _ hy)]
    rfl

/-- The elements of vfunc, of a bank's image. -/
def State.funcElems (s : State) (o : VFn) (et : Nat) (d : List Byte) (a : Vec) : Except Stop (List Fp.Res) :=
  (List.range (1024 / Fp.codeBits et)).mapM fun e =>
    if elemOn (s.here.mask o.k) (Fp.codeBits et) e then
      funcElem d et o.slot.toNat s.here.laneMode (elemOf a (Fp.codeBits et) e) e
    else .ok ⟨0, .zero⟩

theorem exec_vfunc (o : VFn) (s : State) : exec (.vfunc o) s = runStream s fun s =>
    s.queues (.vfunc o) >>= fun _ => need (laneType s.here.et) (trapOf 0x1B s.here.vec.vtype) >>= fun _ =>
    need (s.here.owns o.slot.toNat) (trapOf 0x42 (BitVec.ofNat 64 o.slot.toNat)) >>= fun _ =>
    need (decide ((s.here.slot o.slot.toNat).active.state = 2)) (trapOf 0x43 (BitVec.ofNat 64 o.slot.toNat)) >>= fun _ =>
    s.funcElems o s.here.et (s.here.slot o.slot.toNat).active.data (s.readAt [(o.a, o.pa)] 0) >>= fun rs =>
    .ok ((s.setCore s.cur (((s.here.afterReads [(o.a, o.pa)]).pushEntry o.d
      (ofElems (Fp.codeBits s.here.et) (rs.map fun r => r.bits))).raiseV (flagsOf rs))).done o.stop) := rfl

theorem owns_iff (c : Core) (n : Nat) : c.owns n = true ↔ (c.slot n).owner = some c.vfid := beq_iff_eq

/-- The element types that vfunc accepts. -/
theorem laneType_bits {et : Nat} {f : Fp.Fmt} (h : (et = 0 ∧ f = .fp32) ∨ (et = 1 ∧ f = .bf16)) :
    laneType et = true ∧ Fp.codeBits et = f.bits ∧ 0 < f.bits ∧ f.bits * (1024 / f.bits) = 1024 := by
  obtain ⟨rfl, rfl⟩ | ⟨rfl, rfl⟩ := h <;> decide

section
variable {o : VFn} {s : State} {f : Fp.Fmt} (het : (s.here.et = 0 ∧ f = .fp32) ∨ (s.here.et = 1 ∧ f = .bf16))
  (hq : s.queues (.vfunc o) = .ok ())
include het hq

/-- vfunc of a slot that the running VF does not own. -/
theorem vfunc_notOwned (how : (s.here.slot o.slot.toNat).owner ≠ some s.here.vfid) (hm : s.mayTrap) :
    ∃ t, exec (.vfunc o) s = .next t ∧ TrapsHere s t 0x42 (BitVec.ofNat 64 o.slot.toNat) := by
  obtain ⟨htype, -⟩ := laneType_bits het
  rw [exec_vfunc]
  refine runStream_trapsHere hm ?_ rfl (by decide)
  rw [queues_then hq, need_then htype]
  exact need_trap (Bool.eq_false_iff.mpr (mt (owns_iff _ _).mp how))

/-- vfunc of a slot whose active bank holds no image. -/
theorem vfunc_notReady (how : (s.here.slot o.slot.toNat).owner = some s.here.vfid)
    (hst : (s.here.slot o.slot.toNat).active.state ≠ 2) (hm : s.mayTrap) :
    ∃ t, exec (.vfunc o) s = .next t ∧ TrapsHere s t 0x43 (BitVec.ofNat 64 o.slot.toNat) := by
  obtain ⟨htype, -⟩ := laneType_bits het
  rw [exec_vfunc]
  refine runStream_trapsHere hm ?_ rfl (by decide)
  rw [queues_then hq, need_then htype, need_then ((owns_iff _ _).mpr how)]
  exact need_trap (decide_eq_false hst)

/-- vfunc of a READY slot, where every active element has a result. -/
theorem vfunc_ready (how : (s.here.slot o.slot.toNat).owner = some s.here.vfid)
    (hst : (s.here.slot o.slot.toNat).active.state = 2) (r : Nat → Fp.Res)
    (hr : ∀ j, j < 1024 / f.bits → elemOn (s.here.mask o.k) f.bits j = true →
      funcElem (s.here.slot o.slot.toNat).active.data s.here.et o.slot.toNat s.here.laneMode
        (elemOf (s.readAt [(o.a, o.pa)] 0) f.bits j) j = .ok (r j)) :
    let rs := (List.range (1024 / f.bits)).map (activeRes (elemOn (s.here.mask o.k) f.bits) r)
    exec (.vfunc o) s = .next ((s.setCore s.cur (((s.here.afterReads [(o.a, o.pa)]).pushEntry o.d
      (ofElems f.bits (rs.map fun x => x.bits))).raiseV (flagsOf rs))).done o.stop) := by
  intro rs
  obtain ⟨htype, hbits, -⟩ := laneType_bits het
  have hlist : s.funcElems o s.here.et (s.here.slot o.slot.toNat).active.data (s.readAt [(o.a, o.pa)] 0) = .ok rs := by
    rw [State.funcElems, hbits]
    refine mapM_ok fun j hj => ?_
    rw [activeRes]
    split
    · exact hr j (List.mem_range.mp hj) ‹_›
    · rfl
  rw [exec_vfunc]
  apply runStream_ok
  rw [queues_then hq, need_then htype, need_then ((owns_iff _ _).mpr how), need_then (decide_eq_true hst), hlist, hbits]
  rfl

end

/-! ### vconf (R345) -/

/-- The threshold that vcidx names. -/
def Core.threshold (c : Core) : Nat := (SMap.get 0x7F800000 c.vec.vcthr (c.vec.vcidx.toNat % 32)).toNat % 2 ^ 32

/-- The difference of a lane's sources. -/
def State.confDiff (s : State) (o : VCmp) (j : Nat) : Fp.Res :=
  Fp.fsub .fp32 .rne (elemOf (s.readAt [(o.a, o.pa), (o.b, o.pb)] 0) 32 j) (elemOf (s.readAt [(o.a, o.pa), (o.b, o.pb)] 1) 32 j)

/-- What vconf makes of a lane: an inactive one does not leave and raises nothing. -/
def State.confAt (s : State) (o : VCmp) (j : Nat) : Bool × Fp.Flags :=
  if laneOn (s.here.mask o.k) j then
    confLane s.here.threshold (elemOf (s.readAt [(o.a, o.pa), (o.b, o.pb)] 0) 32 j)
      (elemOf (s.readAt [(o.a, o.pa), (o.b, o.pb)] 1) 32 j)
  else (false, .zero)

/-- The flags that vconf raises. -/
def State.confFlags (s : State) (o : VCmp) : Fp.Flags :=
  ((List.range 32).map fun j => (s.confAt o j).2).foldl Fp.Flags.or
    ⟨s.here.mask o.k != 0 && (Fp.decode .fp32 s.here.threshold).isSnan, false⟩

theorem exec_vconf (o : VCmp) (s : State) : exec (.vconf o) s = runStream s fun s =>
    s.queues (.vconf o) >>= fun _ => need (s.here.et == 0) (trapOf 0x1B s.here.vec.vtype) >>= fun _ =>
    .ok ((s.setCore s.cur (((s.here.afterReads [(o.a, o.pa), (o.b, o.pb)]).setMask o.d
      (buildMask fun j => (s.confAt o j).1)).raiseV (s.confFlags o))).done o.stop) := rfl

/-- A mask with an active lane. -/
theorem ne_zero_iff_lane (k : Word) : k ≠ 0 ↔ ∃ j, j < 32 ∧ k.getLsbD j = true := by
  refine ⟨fun h => ?_, ?_⟩
  · by_contra hnone
    refine h (BitVec.eq_of_getLsbD_eq fun j hj => ?_)
    exact (Bool.eq_false_iff.mpr fun hbit => hnone ⟨j, hj, hbit⟩).trans BitVec.getLsbD_zero.symm
  · rintro ⟨j, -, hbit⟩ rfl
    exact absurd hbit (by simp)

/-- Whether the token of a lane leaves. -/
theorem confAt_fst (s : State) (o : VCmp) (j : Nat) : (s.confAt o j).1 =
    ((s.here.mask o.k).getLsbD j && let v := Fp.decode .fp32 (s.confDiff o j).bits; let t := Fp.decode .fp32 s.here.threshold
      !v.isNan && !t.isNan && !fpLt v t) := by
  rw [State.confAt, laneOn]
  cases (s.here.mask o.k).getLsbD j <;> rfl

/-- An active lane raises what its difference raises. -/
theorem confAt_snd (s : State) (o : VCmp) (j : Nat) :
    (s.confAt o j).2 = if (s.here.mask o.k).getLsbD j then (s.confDiff o j).fl else .zero := by
  rw [State.confAt, laneOn]
  split <;> rfl

/-- A flag of an active lane's difference. -/
theorem any_confAt_iff (s : State) (o : VCmp) {p : Fp.Flags → Bool} (hp : p .zero = false) :
    (((List.range 32).map fun j => (s.confAt o j).2).any p) = true ↔
      ∃ j, j < 32 ∧ (s.here.mask o.k).getLsbD j = true ∧ p (s.confDiff o j).fl = true := by
  simp only [List.any_map, List.any_eq_true, List.mem_range, Function.comp_apply, confAt_snd]
  refine exists_congr fun j => and_congr_right fun _ => ?_
  cases (s.here.mask o.k).getLsbD j <;> simp [hp]

/-- vconf raises NV for an active lane's difference, and for a signalling threshold where a lane is active. -/
theorem raisesFlags_confFlags (s : State) (o : VCmp) :
    RaisesFlags (flagBits (s.confFlags o)) 32 (s.here.mask o.k).getLsbD fun j =>
      ⟨(s.confDiff o j).fl.nv || (Fp.decode .fp32 s.here.threshold).isSnan, (s.confDiff o j).fl.ovf⟩ := by
  rw [State.confFlags, foldl_or]
  refine raisesFlags_flagBits ?_ ?_
  · rw [Bool.or_eq_true, any_confAt_iff s o (p := Fp.Flags.nv) rfl, Bool.and_eq_true, bne_iff_ne, ne_zero_iff_lane]
    simp only [Bool.or_eq_true, and_or_left, exists_or]
    rw [or_comm, ← exists_and_right]
    simp only [and_assoc]
  · rw [Bool.false_or]
    exact any_confAt_iff s o (p := Fp.Flags.ovf) rfl

/-- vconf of FP32 lanes. -/
theorem vconf_next {o : VCmp} {s : State} (het : s.here.et = 0) (hq : s.queues (.vconf o) = .ok ()) : exec (.vconf o) s =
    .next ((s.setCore s.cur (((s.here.afterReads [(o.a, o.pa), (o.b, o.pb)]).setMask o.d
      (buildMask fun j => (s.confAt o j).1)).raiseV (s.confFlags o))).done o.stop) := by
  rw [exec_vconf]
  apply runStream_ok
  rw [queues_then hq, need_then (beq_iff_eq.mpr het)]

/-- Settles O37: vfunc pushes the entry of its elements' results, after the checks of the slot; vconf sets the mask of the lanes
that leave. -/
theorem vectorTables : Obligations.VectorTables := by
  unfold Obligations.VectorTables
  refine ⟨fun o s f het hq => ⟨fun how hst r hr => ?_, fun how hm => vfunc_notOwned het hq how hm,
    fun how hst hm => vfunc_notReady het hq how hst hm⟩, fun o s het hq hd => ?_⟩
  · obtain ⟨-, -, hpos, hall⟩ := laneType_bits het
    exact ⟨_, _, _, vfunc_ready het hq how hst r hr, pushEntry_done_pushes s [(o.a, o.pa)] o.d _ _ o.stop,
      raisesFlags_activeRes _ _ r,
      fun j hj => elemOf_activeRes hpos hall.le _ r (Nat.lt_of_mul_lt_mul_left (hj.trans_eq hall.symm))⟩
  · exact ⟨_, _, _, vconf_next het hq, setMask_done_setsMask s [(o.a, o.pa), (o.b, o.pb)] hd _ _ o.stop,
      raisesFlags_confFlags s o, fun j hj => (getLsbD_buildMask _ hj).trans (confAt_fst s o j)⟩

end Sys2Proof.Machine
end


section
/-! PROOFS. The step of a head command on a halted core (R156, R182, R430): the statement does not ask that the core runs. -/

namespace Sys2Proof.Machine
open Sys2Proof

/-- Core 0 is halted by its debugger; a mswap is at work at the head of its matrix queue, and the shadow plane is READY. -/
def haltedSwap : State :=
  State.reset.updCore 0 fun k =>
    { k with matrix := { k.matrix with cmds := [plainSwap], begun := true }
             quad := { k.quad with shd := { k.quad.shd with ready := true } }
             dbg := { k.dbg with attached := true, halted := true } }

/-- No head command of a halted core takes a step. -/
theorem headStep_halted {s : State} {core : Nat} (h : (s.core core).dbg.halted = true) (q : EngQ)
    (f : Cmd → EngQueue → Option (State → Except Stop State)) : s.headStep core q f = s := by
  simp only [State.headStep, h, if_true]

/-- Refutes O39, by its first clause: the mswap of `haltedSwap` has begun, has met no fault and finds the shadow plane READY, but its
core is halted, so its step does not complete. -/
theorem not_shortCommands : ¬ Obligations.ShortCommands := by
  unfold Obligations.ShortCommands
  intro h
  obtain ⟨hmatrix, -⟩ := h 0 haltedSwap plainSwap
  obtain ⟨hswap, -⟩ := hmatrix (by decide)
  obtain ⟨hready, -⟩ := hswap ⟨none, true⟩ rfl
  obtain ⟨t, ht, -, -, hcore⟩ := hready (by decide)
  have hsame : t = haltedSwap := by
    have hexec : exec (.mswapExchange 0) haltedSwap = .next haltedSwap :=
      congrArg Host.Outcome.next (headStep_halted (by decide) .matrix _)
    exact Host.Outcome.next.inj (ht.symm.trans hexec)
  have hstep := congrArg (fun c : Core => c.matrix.step) hcore
  rw [hsame, State.core_updCore_self] at hstep
  exact absurd hstep (by decide)

end Sys2Proof.Machine
end


section
/-! PROOFS. The steps of the matrix commands on a halted core (R169, R185, R430): the statement does not ask that the core runs. -/

namespace Sys2Proof.Machine
open Sys2Proof

/-- An operand record at 0: two rows of one FP32 element, 16 bytes apart (R165). -/
def storeRecord : List Byte := [0, 0, 0, 0, 16, 0, 0, 0, 2, 0, 1, 0, 0, 0, 0, 0] ++ List.replicate 16 0

/-- mst of bank 0, its record at 0. -/
def plainStore : Cmd := ⟨.mst ⟨1, 2, false, false, false, none, true⟩, 0, 0, 0, 0⟩

/-- Core 0 is halted by its debugger between the two rows of the mst at the head of its matrix queue. -/
def haltedStore : State :=
  State.reset.updCore 0 fun k =>
    { k with matrix := { k.matrix with cmds := [plainStore], begun := true, step := 1
                                       latch := { k.matrix.latch with recs := [storeRecord] } }
             dbg := { k.dbg with attached := true, halted := true } }

/-- A halted core stores no row of a mst. -/
theorem mstRow_halted {s : State} {core : Nat} (h : (s.core core).dbg.halted = true) : exec (.mstRow core) s = .next s :=
  congrArg Host.Outcome.next (headStep_halted h .matrix _)

/-- A step of the matrix queue that completes counts one up. -/
theorem StepsHead.matrix_step {s t : State} {core : Nat} {recs : List (List Byte)} (h : StepsHead s t core .matrix recs) :
    (t.core core).matrix.step = (s.core core).matrix.step + 1 := by
  obtain ⟨-, -, hcore⟩ := h
  rw [hcore]
  rfl

/-- Refutes O40, by its clause on mst: in `haltedStore` row 0 of two is stored and the record is latched, so that the statement asks
for a step that stores row 1, but the core is halted, and MST_ROW leaves the state as it is. The clauses on the other commands
do not ask that the core runs either. -/
theorem not_matrixSteps : ¬ Obligations.MatrixSteps := by
  unfold Obligations.MatrixSteps
  intro h
  obtain ⟨-, -, -, -, -, hmst⟩ := h 0 haltedStore haltedStore plainStore (by decide)
  obtain ⟨sp, ⟨t, ht, hsteps⟩, -⟩ :=
    hmst ⟨1, 2, false, false, false, none, true⟩ rfl false rfl ⟨fun h0 => absurd h0 (by decide), fun _ => rfl⟩
  have hsame : haltedStore = t := Host.Outcome.next.inj ((mstRow_halted (by decide)).symm.trans ht)
  subst hsame
  have hcount := hsteps.matrix_step
  rw [State.core_updCore_self] at hcount
  exact Nat.succ_ne_self _ hcount.symm

end Sys2Proof.Machine
end


section
/-! PROOFS. What a write of firmware does beside its bytes (R252): the statements on st and on the range instructions do not name it. -/

namespace Sys2Proof.Machine
open Sys2Proof

/-- An instruction that advances leaves the security engine as it was. -/
theorem AdvancesBy.sec_eq {s t : State} {n : Nat} {stop : Bool} (h : AdvancesBy s t n stop) : t.sec = s.sec := by
  obtain ⟨-, -, ⟨⟨ht, -⟩, -⟩, -⟩ := h
  rw [ht]

/-- A page joins the dirty log beside the security engine. -/
theorem LogsPage.sec_eq {s t : State} {vf va : Nat} (h : LogsPage s t vf va) : t.sec = s.sec := by rw [h.1]

/-- A line at address 0 of the PF's space and of memory, whose first byte is stored and not written back. -/
def storedLine : L1Line := ⟨0, 0, 0, List.replicate 64 0, 1, 1, true, false⟩

/-- Core 0 runs for the PF, with some lines in its L1; a verifying copy has checked frame 0, to which its TLB maps address 0. -/
def checkedFrame (l1 : List L1Line) : State :=
  { State.reset.updCore 0 fun c =>
      { c with l1 := l1, tlb := [⟨0, 0, 0, 7⟩], c := { c.c with regs := [(2, 64)] } } with
    sec := { Sec.init with checked := [(0, true)] } }

/-- Whether the check of frame 0 stands after a step. -/
def checkedAfter : Host.Outcome State Fault Refusal → Option Bool
  | .next t => some (SMap.get false t.sec.checked 0)
  | _ => none

theorem checked_checkedFrame (l1 : List L1Line) : SMap.get false (checkedFrame l1).sec.checked 0 = true := rfl

theorem translate_checkedFrame : (checkedFrame []).translate (.stream 0) 0 0 .st = .ok (checkedFrame [], ⟨0, 0, 7⟩) := rfl

/-- A store of the PF to the frame undoes its check. -/
theorem checkedAfter_st : checkedAfter (exec (.st ⟨0, 0, false, 0, 0, 0, true⟩) (checkedFrame [])) = some false := by decide

/-- So does a write-back of a line of the frame. -/
theorem checkedAfter_cinv : checkedAfter (exec (.cinv ⟨0, 2, true⟩) (checkedFrame [storedLine])) = some false := by decide

/-- Refutes O18, by its first clause: it allows no change but of the bytes, the dirty log and the stream, but a store of the PF also has
a verifying copy check the frame again (R252), which in `checkedFrame` had been checked. -/
theorem not_stores : ¬ Obligations.Stores := by
  unfold Obligations.Stores
  rintro ⟨hplain, -⟩
  obtain ⟨t, m, p, ht, hadv, hlog, -⟩ := hplain ⟨0, 0, false, 0, 0, 0, true⟩ (checkedFrame []) (checkedFrame []) ⟨0, 0, 7⟩
    (by decide) (by decide) translate_checkedFrame rfl rfl rfl (by decide) (by decide) ⟨0, .inl (by decide)⟩ (by decide) (by decide)
  have hsec : t.sec = (checkedFrame []).sec := hadv.sec_eq.trans hlog.sec_eq
  have hafter := checkedAfter_st
  rw [ht, checkedAfter, hsec, checked_checkedFrame] at hafter
  exact absurd hafter (by decide)

/-- Refutes O19, by its clause on cinv: it allows no change but of the L1, the writes issued and the stream, but a write-back for the PF
also undoes the check of the frame (R252). -/
theorem not_rangesAndFences : ¬ Obligations.RangesAndFences := by
  unfold Obligations.RangesAndFences
  rintro ⟨hranges, -⟩
  have hline : ∀ x ∈ (checkedFrame [storedLine]).here.l1, x = storedLine := by decide
  obtain ⟨hcinv, -⟩ := hranges ⟨0, 2, true⟩ (checkedFrame [storedLine])
  obtain ⟨t, m, ht, hadv, -⟩ := hcinv fun x hx _ => by
    rw [hline x hx]
    exact ⟨by decide, by decide, ⟨0, .inl (by decide)⟩, by decide, by decide⟩
  have hsec : t.sec = (checkedFrame [storedLine]).sec := hadv.sec_eq
  have hafter := checkedAfter_cinv
  rw [ht, checkedAfter, hsec, checked_checkedFrame] at hafter
  exact absurd hafter (by decide)

end Sys2Proof.Machine
end


section
/-! PROOFS. Scratchpad bytes (R8, R194, R207, R208): little-endian numbers, ld and st of the local window with the checks of R215, and
the moves between the scratchpad and the queues (R208, R209). -/

namespace Sys2Proof.Machine
open Sys2Proof

/-! ### Little-endian bytes (R8) -/

theorem length_leBytes (n v : Nat) : (leBytes n v).length = n := by
  induction n generalizing v with
  | zero => rfl
  | succ n ih => rw [leBytes, List.length_cons, ih]

theorem getElem_leBytes (n v i : Nat) (h : i < (leBytes n v).length) : (leBytes n v)[i] = BitVec.ofNat 8 (v / 256 ^ i) := by
  induction n generalizing v i with
  | zero => exact absurd h (Nat.not_lt_zero i)
  | succ n ih =>
    cases i with
    | zero => simp [leBytes]
    | succ i =>
      rw [length_leBytes] at h
      simp only [leBytes, List.getElem_cons_succ]
      rw [ih, Nat.div_div_eq_div_mul, ← Nat.pow_succ']

/-- The bytes of a word are its slices. -/
theorem ofNat_byte {w : Nat} (x : BitVec w) (i : Nat) : BitVec.ofNat 8 (x.toNat / 256 ^ i) = x.extractLsb' (8 * i) 8 := by
  apply BitVec.eq_of_toNat_eq
  rw [BitVec.toNat_ofNat, BitVec.extractLsb'_toNat, Nat.shiftRight_eq_div_pow, Nat.pow_mul]

/-- A digit of a number that is built from its digits. -/
theorem digit_foldr {b : Nat} (hb : 0 < b) (l : List Nat) (i : Nat) :
    l.foldr (fun v acc => v % b + b * acc) 0 / b ^ i % b = l.getD i 0 % b := by
  induction l generalizing i with
  | nil => simp
  | cons x l ih =>
    cases i with
    | zero => simp
    | succ i =>
      have hstep : (x % b + b * l.foldr (fun v acc => v % b + b * acc) 0) / b = l.foldr (fun v acc => v % b + b * acc) 0 := by
        rw [Nat.add_mul_div_left _ _ hb, Nat.div_eq_of_lt (Nat.mod_lt x hb), Nat.zero_add]
      rw [List.foldr_cons, Nat.pow_succ', ← Nat.div_div_eq_div_mul, hstep, ih, List.getD_cons_succ]

theorem foldr_digits_lt {b : Nat} (hb : 0 < b) (l : List Nat) : l.foldr (fun v acc => v % b + b * acc) 0 < b ^ l.length := by
  induction l with
  | nil => simp
  | cons x l ih =>
    rw [List.foldr_cons, List.length_cons, Nat.pow_succ']
    calc x % b + b * _ < b + b * _ := Nat.add_lt_add_right (Nat.mod_lt x hb) _
      _ = b * (l.foldr (fun v acc => v % b + b * acc) 0 + 1) := by rw [Nat.mul_succ, Nat.add_comm]
      _ ≤ b * b ^ l.length := Nat.mul_le_mul_left b ih

theorem leNat_eq_foldr (bs : List Byte) : leNat bs = (bs.map BitVec.toNat).foldr (fun v acc => v % 256 + 256 * acc) 0 := by
  induction bs with
  | nil => rfl
  | cons b t ih => rw [leNat, ih, List.map_cons, List.foldr_cons, Nat.mod_eq_of_lt b.isLt]

theorem leNat_leBytes_mod (n v : Nat) : leNat (leBytes n v) = v % 256 ^ n := by
  induction n generalizing v with
  | zero => simp [leBytes, leNat, Nat.mod_one]
  | succ n ih => rw [leBytes, leNat, ih, Nat.pow_succ', Nat.mod_mul, BitVec.toNat_ofNat]

/-- A digit below the top of a number that is cut off there. -/
theorem mod_pow_digit (v w i top : Nat) (h : w * (i + 1) ≤ top) : v % 2 ^ top / 2 ^ (w * i) % 2 ^ w = v / 2 ^ (w * i) % 2 ^ w := by
  obtain ⟨k, rfl⟩ := Nat.exists_eq_add_of_le h
  have hsplit : w * (i + 1) + k = w * i + (w + k) := by rw [Nat.mul_succ]; omega
  rw [hsplit, Nat.pow_add 2 (w * i), Nat.mod_mul_right_div_self, Nat.pow_add 2 w, Nat.mod_mul_right_mod]

/-- Byte i of an entry is bits [8i + 7:8i] (R208). -/
theorem extract_entryOf (bs : List Byte) {i : Nat} (hi : i < 128) : (entryOf bs).extractLsb' (8 * i) 8 = bs.getD i 0 := by
  apply BitVec.eq_of_toNat_eq
  rw [BitVec.extractLsb'_toNat, entryOf, BitVec.toNat_ofNat, Nat.shiftRight_eq_div_pow, mod_pow_digit _ 8 i 1024 (by omega),
    leNat_eq_foldr, Nat.pow_mul]
  have hget : (bs.map BitVec.toNat).getD i 0 = (bs.getD i 0).toNat := by
    simp only [List.getD_eq_getElem?_getD, List.getElem?_map]
    cases bs[i]? <;> rfl
  refine (digit_foldr (b := 256) (by decide) _ i).trans ?_
  rw [hget]
  exact Nat.mod_eq_of_lt (bs.getD i 0).isLt

/-- An element of an entry that is built from packed elements (R17). -/
theorem digit_entryOf_packBytes {w i : Nat} (vs : List Nat) (hi : i < 1024 / w) :
    (entryOf (packBytes w vs)).toNat / 2 ^ (w * i) % 2 ^ w = vs.getD i 0 % 2 ^ w := by
  have hw : w * (i + 1) ≤ 1024 := (Nat.mul_le_mul_left w hi).trans (Nat.mul_div_le 1024 w)
  have hlt : vs.foldr (fun v acc => v % 2 ^ w + 2 ^ w * acc) 0 < 256 ^ ceilDiv (vs.length * w) 8 := by
    refine (foldr_digits_lt (Nat.two_pow_pos w) vs).trans_le ?_
    rw [← Nat.pow_mul, show (256 : Nat) = 2 ^ 8 from rfl, ← Nat.pow_mul]
    refine Nat.pow_le_pow_right two_pos ?_
    rw [Nat.mul_comm w]
    unfold ceilDiv
    omega
  rw [entryOf, packBytes, leNat_leBytes_mod, Nat.mod_eq_of_lt hlt, BitVec.toNat_ofNat, mod_pow_digit _ w i 1024 hw, Nat.pow_mul,
    digit_foldr (Nat.two_pow_pos w)]

/-! ### Traps that show an address (R417) -/

/-- How the last issue ended is no part of a trap. -/
theorem TookTrap.with_issue {s t : State} {core : Nat} {x : Bool} {code : Byte} {val : Dword} {flags : Nat} {rec : FaultRec}
    (h : TookTrap s t core x code val flags rec) (i : Issue) : TookTrap s { t with issue := i } core x code val flags rec := by
  obtain ⟨⟨heq, hothers⟩, hself, hother, hcore, hmem⟩ := h
  refine ⟨⟨?_, hothers⟩, hself, hother, hcore, hmem⟩
  conv_lhs => rw [heq]

/-- A precise trap that is not contained is taken once its sides are applied. -/
theorem trapHere_tookTrap {s b : State} {x : Trap} (hb : s.applySides x.sides = b) (hcur : b.cur = s.cur) (hx : b.curX = s.curX)
    (hm : b.mayTrap) (h71 : x.code ≠ 0x71) (h72 : x.code ≠ 0x72) :
    (s.trapHere x).issue = .trapped ∧ TookTrap b (s.trapHere x) s.cur s.curX x.code x.val 0 (x.shown s.curX) := by
  subst hb
  have hnot : ∀ m, contained x.code m = false := fun m => by
    simp only [contained, beq_false_of_ne h71, beq_false_of_ne h72, Bool.or_self, Bool.false_and]
  have heq : s.trapHere x = { (s.applySides x.sides).takeTrap s.cur s.curX x.code x.val 0 (x.shown s.curX) with issue := .trapped } := by
    simp only [State.trapHere, State.preciseTrap, hnot, Bool.false_eq_true, if_false]
  rw [State.mayTrap, hcur, hx] at hm
  rw [heq]
  exact ⟨rfl, (takeTrap_tookTrap _ s.cur s.curX x.code x.val 0 (x.shown s.curX) hm).with_issue .trapped⟩

/-- An instruction whose body stops with a trap takes it. -/
theorem runStream_stops {s : State} {body : State → Except Stop State} {x : Trap} (h : body s = .error (.trap x)) :
    runStream s body = .next (s.trapHere x) := by
  rw [runStream, h]
  rfl

/-- The fault record of a trap that shows an address, which is one of those that write a whole record. -/
theorem shown_addr {code : Byte} (h : recorded code = true) (val a : Dword) (sides : List Side) (x : Bool) :
    (Trap.mk code val { FaultRec.zero with addr := a } sides).shown x = { plainRec x code with addr := a } := by
  simp only [Trap.shown, h, if_true]
  rfl

/-- The stream that executes takes a precise trap on an address, which eval and the fault record show. -/
def TrapsAt (s t : State) (code : Byte) (a : Nat) : Prop :=
  t.issue = .trapped ∧ TookTrap s t s.cur s.curX code (BitVec.ofNat 64 a) 0 { plainRec s.curX code with addr := BitVec.ofNat 64 a }

/-- A body that stops with a trap on an address. -/
theorem runStream_trapsAt {s : State} {body : State → Except Stop State} {code : Byte} {a : Nat} (hm : s.mayTrap)
    (hb : body s = trapAddr code a) (hr : recorded code = true) (h71 : code ≠ 0x71) (h72 : code ≠ 0x72) :
    ∃ t, runStream s body = .next t ∧ TrapsAt s t code a := by
  have htook := trapHere_tookTrap (s := s)
    (x := ⟨code, BitVec.ofNat 64 a, { FaultRec.zero with addr := BitVec.ofNat 64 a }, []⟩) rfl rfl rfl hm h71 h72
  rw [shown_addr hr] at htook
  exact ⟨_, runStream_stops hb, htook⟩

/-! ### ld and st: the checks (R207, R215) -/

/-- A range begins below the local window and ends in it. -/
def straddles (a n : Nat) : Prop := a < lwbase ∧ lwbase ≤ a + n - 1

theorem checkLocal_high {a n : Nat} (h : 2 ^ 56 ≤ a) : checkLocal a n = trapAddr 0x20 a := by
  have h1 : decide (a < 2 ^ 56) = false := decide_eq_false (not_lt.mpr h)
  rw [checkLocal, h1]
  rfl

theorem checkLocal_low {a n : Nat} (h : a < 2 ^ 56) : checkLocal a n =
    (need (decide (lwbase ≤ a ∨ a + n - 1 < lwbase)) (trapAddr 0x21 a) >>= fun _ => need (a % n == 0) (trapAddr 0x28 a)) := by
  have h1 : decide (a < 2 ^ 56) = true := decide_eq_true h
  rw [checkLocal, h1]
  rfl

theorem straddles_iff (a n : Nat) : straddles a n ↔ ¬(lwbase ≤ a ∨ a + n - 1 < lwbase) := by unfold straddles; omega

theorem checkLocal_straddles {a n : Nat} (h : a < 2 ^ 56) (hs : straddles a n) : checkLocal a n = trapAddr 0x21 a := by
  rw [checkLocal_low h, decide_eq_false ((straddles_iff a n).mp hs)]
  rfl

theorem checkLocal_misaligned {a n : Nat} (h : a < 2 ^ 56) (hs : ¬straddles a n) (hal : a % n ≠ 0) : checkLocal a n = trapAddr 0x28 a := by
  rw [checkLocal_low h, decide_eq_true (not_not.mp fun hn => hs ((straddles_iff a n).mpr hn)), beq_false_of_ne hal]
  rfl

theorem checkLocal_ok {a n : Nat} (h : a < 2 ^ 56) (hs : ¬straddles a n) (hal : a % n = 0) : checkLocal a n = .ok () := by
  rw [checkLocal_low h, decide_eq_true (not_not.mp fun hn => hs ((straddles_iff a n).mpr hn)), hal]
  rfl

/-- The bytes that a ld or st names lie past SPBYTES, or it goes on with them. -/
def State.localRange {α : Type} (s : State) (a n : Nat) (r : Except Stop α) : Except Stop α :=
  need (decide (a - lwbase + n ≤ s.here.spBytes)) (trapAddr 0x29 a) >>= fun _ => r

theorem localRange_ok {α : Type} {s : State} {a n : Nat} (r : Except Stop α) (h : a - lwbase + n ≤ s.here.spBytes) :
    s.localRange a n r = r := by
  rw [State.localRange, decide_eq_true h]
  rfl

theorem localRange_past {α : Type} {s : State} {a n : Nat} (r : Except Stop α) (h : s.here.spBytes < a - lwbase + n) :
    s.localRange a n r = trapAddr 0x29 a := by
  rw [State.localRange, decide_eq_false (not_le.mpr h)]
  rfl

/-- A ld or st as its address sorts it: the checks, and what it does in the local window and outside it. -/
def State.sorted (s : State) (a n : Nat) (inside outside : Except Stop State) : Except Stop State :=
  checkLocal a n >>= fun _ => if lwbase ≤ a then s.localRange a n inside else outside

theorem sorted_inside {s : State} {a n : Nat} (inside outside : Except Stop State) (h : a < 2 ^ 56) (hw : lwbase ≤ a) (hal : a % n = 0) :
    s.sorted a n inside outside = s.localRange a n inside := by
  have hs : ¬straddles a n := fun hs => absurd hs.1 (not_lt.mpr hw)
  rw [State.sorted, checkLocal_ok h hs hal]
  exact if_pos hw

theorem sorted_outside {s : State} {a n : Nat} (inside outside : Except Stop State) (hal : a % n = 0) (hw : a + n - 1 < lwbase) (hn : 0 < n) :
    s.sorted a n inside outside = outside := by
  have hlt : a < lwbase := by omega
  have hs : ¬straddles a n := fun hs => absurd hs.2 (not_le.mpr hw)
  rw [State.sorted, checkLocal_ok (lt_trans hlt (by decide)) hs hal]
  exact if_neg (not_le.mpr hlt)

/-- The refusals of R207 and R215, in their order. -/
theorem sorted_traps {s : State} {body : State → Except Stop State} {a n : Nat} {inside outside : Except Stop State} (hm : s.mayTrap)
    (hbody : body s = s.sorted a n inside outside) :
    let takes (code : Byte) : Prop := ∃ t, runStream s body = .next t ∧ TrapsAt s t code a
    (2 ^ 56 ≤ a → takes 0x20) ∧ (straddles a n → takes 0x21) ∧ (a < 2 ^ 56 → ¬straddles a n → a % n ≠ 0 → takes 0x28)
      ∧ (a < 2 ^ 56 → a % n = 0 → lwbase ≤ a → s.here.spBytes < a - lwbase + n → takes 0x29) := by
  have hstop : ∀ code : Byte, checkLocal a n = trapAddr code a → body s = trapAddr code a := fun code h => by
    rw [hbody, State.sorted, h]
    rfl
  refine ⟨fun h => ?_, fun h => ?_, fun h hs hal => ?_, fun h hal hw hpast => ?_⟩
  · exact runStream_trapsAt hm (hstop 0x20 (checkLocal_high h)) rfl (by decide) (by decide)
  · exact runStream_trapsAt hm (hstop 0x21 (checkLocal_straddles (lt_trans h.1 (by decide)) h)) rfl (by decide) (by decide)
  · exact runStream_trapsAt hm (hstop 0x28 (checkLocal_misaligned h hs hal)) rfl (by decide) (by decide)
  · exact runStream_trapsAt hm (hbody.trans ((sorted_inside _ _ h hw hal).trans (localRange_past _ hpast))) rfl (by decide) (by decide)

/-! ### ld and st in the local window -/

/-- Where a ld puts what its access read, and retires. -/
def State.loaded (s : State) (o : MLd) (bs : List Byte) : State := (s.setReg o.d (extendLoad o.se (2 ^ o.size.toNat) bs)).done o.stop

/-- A ld of memory: translation, the access through its leaf, and the write of s[d]. -/
def State.ldMemory (s : State) (o : MLd) (a : Nat) : Except Stop State := do
  checkSpace a (2 ^ o.size.toNat) .ld
  let (s, l) ← s.translate s.me s.here.vfid a .ld
  let (s, bs) ← s.loadLeaf s.cur s.here.vfid l (2 ^ o.size.toNat)
  .ok (s.loaded o bs)

/-- A st of memory. -/
def State.stMemory (s : State) (o : MSt) (a : Nat) (bs : List Byte) : Except Stop State := do
  checkSpace a (2 ^ o.size.toNat) .st
  let (s, l) ← s.translate s.me s.here.vfid a .st
  let s ← s.storeLeaf s.cur s.here.vfid l bs (s.storeColour o)
  .ok (s.done o.stop)

/-- The body of a ld. -/
def State.ldBody (s : State) (o : MLd) : Except Stop State :=
  let a := s.memAddr o.base o.imm o.size
  s.sorted a (2 ^ o.size.toNat) (.ok (s.loaded o (s.here.spRead (a - lwbase) (2 ^ o.size.toNat)))) (s.ldMemory o a)

/-- A ld whose body completes. -/
theorem exec_ld_ok {o : MLd} {s t : State} (h : s.ldBody o = .ok t) : exec (.ld o) s = .next t :=
  runStream_ok (body := fun s => s.ldBody o) h

/-- The bytes that a st stores. -/
def State.stBytes (s : State) (o : MSt) : List Byte := leBytes (2 ^ o.size.toNat) (s.reg o.d).toNat

/-- The body of a st. -/
def State.stBody (s : State) (o : MSt) : Except Stop State :=
  let a := s.memAddr o.base o.imm o.size
  s.sorted a (2 ^ o.size.toNat) (.ok ((s.updHere fun c => c.spWrite (a - lwbase) (s.stBytes o)).done o.stop))
    (s.stMemory o a (s.stBytes o))

/-- A st whose body completes. -/
theorem exec_st_ok {o : MSt} {s t : State} (h : s.stBody o = .ok t) : exec (.st o) s = .next t :=
  runStream_ok (body := fun s => s.stBody o) h

/-- The executing core with other scratchpad bytes. -/
def Core.withSp (c : Core) (sp : Memory) : Core := { c with sp := sp }

/-- The scratchpad after such a change and a retirement. -/
theorem sp_withSp_done (s : State) (sp : Memory) (stop : Bool) : ((s.updHere fun c => c.withSp sp).done stop).here.sp = sp := by
  rw [State.here_done, State.here_updHere]
  exact Core.setStream_sp _ _ _

/-- In the local window a ld reads scratchpad bytes. -/
theorem ldBody_inside {s : State} {o : MLd} {a n : Nat} (ha : s.memAddr o.base o.imm o.size = a) (hn : 2 ^ o.size.toNat = n)
    (h : a < 2 ^ 56) (hw : lwbase ≤ a) (hal : a % n = 0) (hfit : a - lwbase + n ≤ s.here.spBytes) :
    s.ldBody o = .ok (s.loaded o (Memory.read s.here.sp (a - lwbase) n)) := by
  subst ha hn
  rw [State.ldBody, sorted_inside _ _ h hw hal, localRange_ok _ hfit, Core.spRead_eq]

/-- In the local window a st writes scratchpad bytes. -/
theorem stBody_inside {s : State} {o : MSt} {a n : Nat} (ha : s.memAddr o.base o.imm o.size = a) (hn : 2 ^ o.size.toNat = n)
    (h : a < 2 ^ 56) (hw : lwbase ≤ a) (hal : a % n = 0) (hfit : a - lwbase + n ≤ s.here.spBytes) :
    s.stBody o = .ok ((s.updHere fun c => c.withSp (Memory.write s.here.sp (a - lwbase) (s.stBytes o))).done o.stop) := by
  subst ha hn
  rw [State.stBody, sorted_inside _ _ h hw hal, localRange_ok _ hfit]
  exact congrArg (fun q : State => Except.ok (q.done o.stop)) (updHere_congr (Core.spWrite_eq _ _ _))

/-- Settles O16: the checks sort an access in their order, and in the local window a ld reads the bytes of its range and a st writes
them. -/
theorem localAccess : Obligations.LocalAccess := by
  unfold Obligations.LocalAccess
  refine ⟨⟨fun o s => ?_, fun o s => ?_⟩, fun s hm => ⟨fun o => ?_, fun o => ?_⟩⟩
  · intro n a off w h56 hw hal hfit
    exact ⟨_, exec_ld_ok (ldBody_inside rfl rfl h56 hw hal hfit), setReg_done_writes s o.d _ o.stop⟩
  · intro n a off h56 hw hal hfit
    have hlen : (s.stBytes o).length = n := length_leBytes _ _
    refine ⟨_, _, exec_st_ok (stBody_inside rfl rfl h56 hw hal hfit), done_onlyAdvances _ o.stop, fun i hi => ?_, fun b hb => ?_,
      fun _ _ _ => rfl, fun _ => rfl⟩
    · rw [sp_withSp_done]
      exact (Memory.byte_write_inside _ off _ i (hi.trans_eq hlen.symm)).trans ((getElem_leBytes _ _ _ _).trans (ofNat_byte _ i))
    · rw [sp_withSp_done]
      have hout : b < off ∨ off + (s.stBytes o).length ≤ b := by rw [hlen]; omega
      exact Memory.byte_write_outside _ off _ b hout
  · exact sorted_traps (body := fun s => s.ldBody o) hm rfl
  · exact sorted_traps (body := fun s => s.stBody o) hm rfl

end Sys2Proof.Machine
end


section
/-! PROOFS. qrd, qrdh and qwr (R208, R209): the queue first, then the range, then the entry. -/

namespace Sys2Proof.Machine
open Sys2Proof

/-! ### The range of an entry -/

theorem spRange_ok {s : State} {o n : Nat} (h16 : o % 16 = 0) (hfit : o + n ≤ s.here.spBytes) : s.spRange o n = .ok () := by
  rw [State.spRange, h16, decide_eq_true hfit]
  rfl

theorem spRange_misaligned {s : State} {o : Nat} (n : Nat) (h16 : o % 16 ≠ 0) : s.spRange o n = trapAddr 0x28 o := by
  rw [State.spRange, beq_false_of_ne h16]
  rfl

theorem spRange_past {s : State} {o n : Nat} (h16 : o % 16 = 0) (hpast : s.here.spBytes < o + n) : s.spRange o n = trapAddr 0x29 o := by
  rw [State.spRange, h16, decide_eq_false (not_le.mpr hpast)]
  rfl

/-- The scratchpad offset that qrd and qwr name. -/
def State.padOffset (s : State) (o : R3) : Nat := (s.reg o.a + s.reg o.b).toNat

/-- A body that has its queue and then refuses the range of its entry. -/
theorem runStream_refusesRange {s : State} {i : Instr} {body : State → Except Stop State} {rest : Unit → Except Stop State} {off : Nat}
    {code : Byte} (hm : s.mayTrap) (hbody : body s = s.queues i >>= fun _ => s.spRange off 128 >>= rest) (hq : s.queues i = .ok ())
    (hcode : (code = 0x28 ∧ off % 16 ≠ 0) ∨ (code = 0x29 ∧ off % 16 = 0 ∧ s.here.spBytes < off + 128)) :
    ∃ t, runStream s body = .next t ∧ TrapsAt s t code off := by
  rw [queues_then hq] at hbody
  rcases hcode with ⟨rfl, h16⟩ | ⟨rfl, h16, hpast⟩
  · refine runStream_trapsAt hm ?_ rfl (by decide) (by decide)
    rw [hbody, spRange_misaligned 128 h16]
    rfl
  · refine runStream_trapsAt hm ?_ rfl (by decide) (by decide)
    rw [hbody, spRange_past h16 hpast]
    rfl

/-! ### The three instructions -/

/-- What qrd does once it has its queue and its range. -/
def State.qrdMoved (s : State) (o : R3) : State :=
  (s.updHere fun c => c.pushEntry o.d (entryOf (c.spRead (s.padOffset o) 128))).done o.stop

theorem exec_qrd (o : R3) (s : State) : exec (.qrd o) s = runStream s fun s =>
    s.queues (.qrd o) >>= fun _ => s.spRange (s.padOffset o) 128 >>= fun _ => .ok (s.qrdMoved o) := rfl

/-- The executing core without the head of a queue. -/
def Core.popped (c : Core) (q : Nat) : Core := c.setQueue q (c.queue q).tail

/-- What qwr does once it has its queue and its range. -/
def State.qwrMoved (s : State) (o : R3) : State :=
  (s.updHere fun c => (c.popped o.d.toNat).spWrite (s.padOffset o) (leBytes 128 ((c.queue o.d.toNat).headD 0).toNat)).done o.stop

theorem exec_qwr (o : R3) (s : State) : exec (.qwr o) s = runStream s fun s =>
    s.queues (.qwr o) >>= fun _ => s.spRange (s.padOffset o) 128 >>= fun _ => .ok (s.qwrMoved o) := rfl

/-- What qrdh does once it has its queue and the range of its coordinates. -/
def State.qrdhMoved (s : State) (o : R3) : Except Stop State := do
  let off := (s.reg o.b).toNat
  let (s, e) ← atCoords (s.here.coordsAt off) (s.derefRead s.me s.device (s.reg o.a))
  let (s, vs) ← s.onward <| s.readRun s.me e (s.here.coordsAt off) (1024 / e.width)
  .ok ((s.updHere fun c => c.pushEntry o.d (entryOf (packBytes e.width vs))).done o.stop)

theorem exec_qrdh (o : R3) (s : State) : exec (.qrdh o) s = runStream s fun s =>
    s.queues (.qrdh o) >>= fun _ => s.spRange (s.reg o.b).toNat 16 >>= fun _ => s.qrdhMoved o := rfl

/-- qrdh pushes one entry into a shared queue. -/
theorem queues_qrdh {o : R3} {s : State} (hx : s.curX = false) (hd : o.d.toNat < 16) :
    s.queues (.qrdh o) = if 4 ≤ s.qlen o.d then waitOn (.qrdFull o.d.toNat) else .ok () :=
  (show s.queues (.qrdh o) = s.queues (.qrd o) from rfl).trans (queues_qrd hx hd)

/-- qrdh pushes the elements that its handle gives at the coordinates in the scratchpad. -/
theorem qrdhMoved_ok {o : R3} {s q1 q2 : State} {e : HEntry} {vs : List Nat}
    (hderef : s.derefRead s.me s.device (s.reg o.a) = .ok (q1, e))
    (hrun : q1.readRun q1.me e (q1.here.coordsAt (s.reg o.b).toNat) (1024 / e.width) = .ok (q2, vs)) :
    s.qrdhMoved o = .ok ((q2.updHere fun c => c.pushEntry o.d (entryOf (packBytes e.width vs))).done o.stop) := by
  rw [State.qrdhMoved, hderef]
  show (q1.onward (q1.readRun q1.me e (q1.here.coordsAt (s.reg o.b).toNat) (1024 / e.width)) >>= _) = _
  rw [hrun]
  rfl

/-- An entry of the queue leaves, and its bytes are stored. -/
theorem qwrMoved_eq {s : State} {o : R3} {v : Vec} {rest : List Vec} (h : s.here.queue o.d.toNat = v :: rest) : s.qwrMoved o =
    (s.updHere fun c => (c.setQueue o.d.toNat rest).withSp (Memory.write s.here.sp (s.padOffset o) (leBytes 128 v.toNat))).done o.stop := by
  refine congrArg (fun q : State => q.done o.stop) (updHere_congr ?_)
  show (s.here.popped o.d.toNat).spWrite (s.padOffset o) (leBytes 128 ((s.here.queue o.d.toNat).headD 0).toNat) = _
  rw [Core.spWrite_eq, Core.popped, h]
  rfl

/-- A queue and scratchpad bytes change, with a retirement: the bytes afterwards. -/
theorem sp_setQueue_withSp_done (s : State) (q : Nat) (l : List Vec) (sp : Memory) (stop : Bool) :
    ((s.updHere fun c => (c.setQueue q l).withSp sp).done stop).here.sp = sp := by
  rw [State.here_done, State.here_updHere]
  exact Core.setStream_sp _ _ _

/-- Where the queue has room and the range fits, qrd pushes the bytes of its range. -/
theorem exec_qrd_moves {s : State} {o : R3} (hq : s.queues (.qrd o) = .ok ()) (h16 : s.padOffset o % 16 = 0)
    (hfit : s.padOffset o + 128 ≤ s.here.spBytes) : exec (.qrd o) s = .next (s.qrdMoved o) := by
  rw [exec_qrd]
  refine runStream_ok ?_
  show (s.queues (.qrd o) >>= fun _ => s.spRange (s.padOffset o) 128 >>= fun _ => _) = _
  rw [queues_then hq, spRange_ok h16 hfit]
  rfl

/-- Where the queue has an entry and the range fits, qwr stores the entry. -/
theorem exec_qwr_moves {s : State} {o : R3} (hq : s.queues (.qwr o) = .ok ()) (h16 : s.padOffset o % 16 = 0)
    (hfit : s.padOffset o + 128 ≤ s.here.spBytes) : exec (.qwr o) s = .next (s.qwrMoved o) := by
  rw [exec_qwr]
  refine runStream_ok ?_
  show (s.queues (.qwr o) >>= fun _ => s.spRange (s.padOffset o) 128 >>= fun _ => _) = _
  rw [queues_then hq, spRange_ok h16 hfit]
  rfl

/-- Where the queue has room and the coordinates fit, qrdh does what its handle says. -/
theorem exec_qrdh_moves {s t : State} {o : R3} (hq : s.queues (.qrdh o) = .ok ()) (h16 : (s.reg o.b).toNat % 16 = 0)
    (hfit : (s.reg o.b).toNat + 16 ≤ s.here.spBytes) (h : s.qrdhMoved o = .ok t) : exec (.qrdh o) s = .next t := by
  rw [exec_qrdh]
  refine runStream_ok ?_
  show (s.queues (.qrdh o) >>= fun _ => s.spRange (s.reg o.b).toNat 16 >>= fun _ => _) = _
  rw [queues_then hq, spRange_ok h16 hfit]
  exact h

theorem exec_qrd_refuses {s : State} {o : R3} {code : Byte} (hm : s.mayTrap) (hq : s.queues (.qrd o) = .ok ())
    (hcode : (code = 0x28 ∧ s.padOffset o % 16 ≠ 0) ∨ (code = 0x29 ∧ s.padOffset o % 16 = 0 ∧ s.here.spBytes < s.padOffset o + 128)) :
    ∃ t, exec (.qrd o) s = .next t ∧ TrapsAt s t code (s.padOffset o) := by
  rw [exec_qrd]
  exact runStream_refusesRange (rest := fun _ => .ok (s.qrdMoved o)) hm rfl hq hcode

theorem exec_qwr_refuses {s : State} {o : R3} {code : Byte} (hm : s.mayTrap) (hq : s.queues (.qwr o) = .ok ())
    (hcode : (code = 0x28 ∧ s.padOffset o % 16 ≠ 0) ∨ (code = 0x29 ∧ s.padOffset o % 16 = 0 ∧ s.here.spBytes < s.padOffset o + 128)) :
    ∃ t, exec (.qwr o) s = .next t ∧ TrapsAt s t code (s.padOffset o) := by
  rw [exec_qwr]
  exact runStream_refusesRange (rest := fun _ => .ok (s.qwrMoved o)) hm rfl hq hcode

/-- The scratchpad that qwr leaves: its entry at its offset. -/
def State.qwrPad (s : State) (o : R3) (v : Vec) : Memory := Memory.write s.here.sp (s.padOffset o) (leBytes 128 v.toNat)

theorem qwrPad_inside (s : State) (o : R3) (v : Vec) (i : Nat) (hi : i < 128) :
    Memory.byte (s.qwrPad o v) (s.padOffset o + i) = v.extractLsb' (8 * i) 8 := by
  have hlen : i < (leBytes 128 v.toNat).length := hi.trans_eq (length_leBytes _ _).symm
  exact (Memory.byte_write_inside _ _ _ i hlen).trans ((getElem_leBytes _ _ _ _).trans (ofNat_byte v i))

theorem qwrPad_outside (s : State) (o : R3) (v : Vec) (b : Nat) (hb : ¬(s.padOffset o ≤ b ∧ b < s.padOffset o + 128)) :
    Memory.byte (s.qwrPad o v) b = Memory.byte s.here.sp b :=
  Memory.byte_write_outside _ _ _ b (by rw [length_leBytes]; omega)

/-- Settles O21: each instruction looks at its queue, then at its range, and then moves the entry. -/
theorem scratchpadQueues : Obligations.ScratchpadQueues := by
  unfold Obligations.ScratchpadQueues
  intro o s hx hd off room fits refuses
  have hqrd : room → s.queues (.qrd o) = .ok () := fun h => (queues_qrd hx hd).trans (if_neg (not_le.mpr h))
  have hqrdh : room → s.queues (.qrdh o) = .ok () := fun h => (queues_qrdh hx hd).trans (if_neg (not_le.mpr h))
  have hqwr : s.here.queue o.d.toNat ≠ [] → s.queues (.qwr o) = .ok () := fun h =>
    (queues_qwr hx hd).trans (if_neg fun h0 => h (List.length_eq_zero_iff.mp h0))
  refine ⟨fun ⟨h16, hfit⟩ h => ?_, fun h => ?_, fun h code hcode hm => ?_, fun v rest ⟨h16, hfit⟩ h => ?_, fun h => ?_,
    fun h code hcode hm => ?_, fun h => ?_, fun q1 q2 e vs h h16 hfit hderef hrun hcur => ?_⟩
  · obtain ⟨hmem, hadv⟩ := updHere_done_spec s
      (fun c => c.setQueue o.d.toNat (c.queue o.d.toNat ++ [entryOf (s.here.spRead off 128)])) o.stop rfl
    refine ⟨_, entryOf (s.here.spRead off 128), exec_qrd_moves (hqrd h) h16 hfit, hmem, hadv, fun i hi => ?_⟩
    rw [extract_entryOf _ hi, Core.spRead_eq, Memory.read]
    simp [hi]
  · rw [exec_qrd]
    exact runStream_waits (queues_wait ((queues_qrd hx hd).trans (if_pos (not_lt.mp h))))
  · exact exec_qrd_refuses hm (hqrd h) hcode
  · have hne : s.here.queue o.d.toNat ≠ [] := by rw [h]; exact List.cons_ne_nil v rest
    have hexec : exec (.qwr o) s = .next ((s.updHere fun c => (c.setQueue o.d.toNat rest).withSp (s.qwrPad o v)).done o.stop) :=
      (exec_qwr_moves (hqwr hne) h16 hfit).trans (congrArg Host.Outcome.next (qwrMoved_eq h))
    have hsp := sp_setQueue_withSp_done s o.d.toNat rest (s.qwrPad o v) o.stop
    refine ⟨_, s.qwrPad o v, hexec, done_onlyAdvances _ o.stop, fun i hi => ?_, fun b hb => ?_⟩
    · rw [hsp]; exact qwrPad_inside s o v i hi
    · rw [hsp]; exact qwrPad_outside s o v b hb
  · have h0 : s.qlen o.d = 0 := congrArg List.length h
    rw [exec_qwr]
    exact runStream_waits (queues_wait ((queues_qwr hx hd).trans (if_pos h0)))
  · exact exec_qwr_refuses hm (hqwr h) hcode
  · rw [exec_qrdh]
    exact runStream_waits (queues_wait ((queues_qrdh hx hd).trans (if_pos (not_lt.mp h))))
  · have hme : q1.me = .stream s.cur := congrArg Agent.stream hcur
    rw [← hme] at hrun
    exact ⟨_, _, exec_qrdh_moves (hqrdh h) h16 hfit (qrdhMoved_ok hderef hrun), done_onlyAdvances _ o.stop,
      fun i hi => digit_entryOf_packBytes vs hi⟩

end Sys2Proof.Machine
end


section
/-! PROOFS. ld of device memory (R198, R207, R215, R261, R263): plain memory as a read meets it, and the L1 as a load finds and fills
it. -/

namespace Sys2Proof.Machine
open Sys2Proof

/-! ### Plain lines -/

/-- A line without poison, without an error that a read could meet and with tags that match (R387, R405). -/
structure MemSys.Sound (m : MemSys) (line : Nat) : Prop where
  unmarked : SMap.get 0 m.poison line = 0
  errorless : m.latent.lookup line = none
  matched : m.untrue line = false
  linked : ∀ k, regionOf (64 * line) = .cxl k → SMap.get false m.cxlDown k = false

theorem fate_of_no_error {m : MemSys} {line : Nat} (h : m.latent.lookup line = none) : m.fate line = .clean := by
  rw [MemSys.fate, h]

theorem poisonSeen_zero (m : MemSys) (view : Option Nat) (agent : Option Agent) (line : Nat) : m.poisonSeen view agent line 0 = false := rfl

theorem MemSys.Sound.not_poisoned {m : MemSys} {line : Nat} (h : m.Sound line) (view : Option Nat) (agent : Option Agent) :
    m.poisoned view agent (64 * line) = false := by
  have hl : 64 * line / 64 = line := Nat.mul_div_cancel_left line (by decide)
  have hlost : (LineFate.clean == LineFate.lost) = false := rfl
  simp only [MemSys.poisoned, hl, h.unmarked, poisonSeen_zero, fate_of_no_error h.errorless, hlost, h.matched, Bool.or_false]
  split
  · rfl
  · next k hk => exact h.linked k hk
  · rfl

/-- A read meets nothing of the error of a line that has none. -/
theorem meetLine_clean {s : State} {line : Nat} (h : s.mem.fate line = .clean) : s.meetLine line = s := by
  rw [State.meetLine, h]

theorem meetTree_uncovered {s : State} {line : Nat} {t : TreeErr} (h : t.covers line = false) : s.meetTree line t = s := by
  rw [State.meetTree, h]
  simp

/-- A read meets nothing of tags that match. -/
theorem meetTags_matched {s : State} {line : Nat} (h : s.mem.untrue line = false) : s.meetTags line = s := by
  rw [State.meetTags]
  cases hk : s.mem.frameKey.lookup (line / 8192) with
  | none => rfl
  | some k =>
    simp only [MemSys.untrue, hk, Option.isSome_some, Bool.true_and, Bool.or_eq_false_iff, bne_eq_false_iff_eq, List.any_eq_false,
      Bool.not_eq_true] at h
    obtain ⟨hdiff, hbroken⟩ := h
    have hfold : s.mem.broken.foldl (fun s t => s.meetTree line t) s = s :=
      List.foldlRecOn s.mem.broken _ (motive := fun r => r = s) rfl fun r hr t ht => hr ▸ meetTree_uncovered (hbroken t ht)
    simp only [Option.isNone_some, Bool.false_eq_true, if_false, hfold, hdiff, if_true]

theorem meetLines_sound {s : State} {lines : List Nat} (h : ∀ x ∈ lines, s.mem.Sound x) : s.meetLines lines = s :=
  List.foldlRecOn lines _ (motive := fun r => r = s) rfl fun r hr x hx => by
    rw [hr, meetLine_clean (fate_of_no_error (h x hx).errorless), meetTags_matched (h x hx).matched]

theorem plainLines_sound {s : State} {a : Agent} {vf n : Nat} {l : Leaf} (h : s.plainLines a vf l n) : ∀ x ∈ linesOf l.pa n, s.mem.Sound x := by
  intro x hx
  obtain ⟨hp, hl, hu, hc⟩ := h.2.1 x hx
  exact ⟨hp, hl, hu, hc⟩

/-- Bytes outside the apertures read as they are. -/
theorem readAt_plain {m : MemSys} {view : Option Nat} {agent : Option Agent} {pa n : Nat}
    (h : ∀ i, i < n → ∃ k, regionOf (pa + i) = .hbm k ∨ regionOf (pa + i) = .cxl k) :
    m.readAt view agent pa n = (List.range n).map fun i => m.byteAt view agent (pa + i) := by
  refine List.map_congr_left fun i hi => ?_
  obtain ⟨k, hk | hk⟩ := h i (List.mem_range.mp hi) <;> simp only [hk]

/-- A read of plain memory at its home: its bytes, and nothing met. -/
theorem readHome_plain {s : State} {a : Agent} {vf n : Nat} {l : Leaf} (h : s.plainLines a vf l n) :
    s.readHome a vf l n = .ok (s, (List.range n).map fun i => s.mem.byteAt a.view (some a) (l.pa + i)) := by
  have hsound := plainLines_sound h
  obtain ⟨hregion, -, hsight, -⟩ := h
  have hfind : (linesOf l.pa n).find? (fun x => s.mem.poisoned a.view (some a) (64 * x)) = none := by
    rw [List.find?_eq_none]
    intro x hx
    rw [(hsound x hx).not_poisoned]
    exact Bool.false_ne_true
  simp only [State.readHome, hfind, hsight, reduceCtorEq, if_false, meetLines_sound hsound, readAt_plain hregion]

/-- A read of plain memory through its leaf. -/
theorem readLeaf_plain {s : State} {a : Agent} {vf n : Nat} {l : Leaf} (hn : 0 < n) (h : s.plainLines a vf l n) :
    s.readLeaf a vf l n = .ok (s, (List.range n).map fun i => s.mem.byteAt a.view (some a) (l.pa + i)) := by
  have hhome := readHome_plain h
  obtain ⟨hregion, -, hsight, hserving⟩ := h
  obtain ⟨k, hk⟩ := hregion 0 hn
  simp only [State.readLeaf, hsight, hserving, reduceCtorEq, if_false]
  rcases hk with hk | hk <;> rw [Nat.add_zero] at hk <;> simp only [hk, hhome] <;> rfl

/-! ### The L1 as a load finds it (R198) -/

/-- The L1 line of an address holds what a load of `n` bytes reads. -/
def L1Line.holds (x : L1Line) (o n : Nat) : Bool := x.whole || (List.range n).all fun i => x.mask.getLsbD (o + i)

theorem L1Line.holds_of {x : L1Line} {o n : Nat} (h : x.whole = true ∨ ∀ i, i < n → x.mask.getLsbD (o + i) = true) : x.holds o n = true := by
  rw [L1Line.holds, Bool.or_eq_true, List.all_eq_true]
  exact h.imp id fun h i hi => h i (List.mem_range.mp hi)

theorem L1Line.not_holds_of {x : L1Line} {o n : Nat} (hw : x.whole = false) (h : ∃ i, i < n ∧ x.mask.getLsbD (o + i) = false) :
    x.holds o n = false := by
  obtain ⟨i, hi, hx⟩ := h
  rw [L1Line.holds, hw, Bool.false_or, List.all_eq_false]
  exact ⟨i, List.mem_range.mpr hi, by rw [hx]; exact Bool.false_ne_true⟩

/-- A load of a fill: the bytes of the line that entered. -/
def filledBytes (r : Except Stop (State × L1Line)) (o n : Nat) : Except Stop (State × List Byte) :=
  r >>= fun p => .ok (p.1, (p.2.bytes.drop o).take n)

theorem loadLeaf_uncached {s : State} {core vf n : Nat} {l : Leaf} (h : (s.core core).cached l = false) :
    s.loadLeaf core vf l n = s.readLeaf (.stream core) vf l n := by
  rw [State.loadLeaf, h]
  rfl

theorem loadLeaf_hit {s : State} {core vf n : Nat} {l : Leaf} {x : L1Line} (h : (s.core core).cached l = true)
    (hx : l1Find (s.core core).l1 vf l.va = some x) (hh : x.holds (l.va % 64) n = true) :
    s.loadLeaf core vf l n = .ok (s, (x.bytes.drop (l.va % 64)).take n) := by
  rw [L1Line.holds] at hh
  simp only [State.loadLeaf, h, hx, hh, Bool.not_true, Bool.false_eq_true, if_false, if_true]

theorem loadLeaf_partial {s : State} {core vf n : Nat} {l : Leaf} {x : L1Line} (h : (s.core core).cached l = true)
    (hx : l1Find (s.core core).l1 vf l.va = some x) (hh : x.holds (l.va % 64) n = false) :
    s.loadLeaf core vf l n = filledBytes (s.l1Fill core vf l (some x)) (l.va % 64) n := by
  rw [L1Line.holds] at hh
  simp only [State.loadLeaf, h, hx, hh, Bool.not_true, Bool.false_eq_true, if_false]
  rfl

theorem loadLeaf_miss {s : State} {core vf n : Nat} {l : Leaf} (h : (s.core core).cached l = true)
    (hx : l1Find (s.core core).l1 vf l.va = none) : s.loadLeaf core vf l n = filledBytes (s.l1Fill core vf l none) (l.va % 64) n := by
  simp only [State.loadLeaf, h, hx, Bool.not_true, Bool.false_eq_true, if_false]
  rfl

/-- The leaf of a whole line. -/
def Leaf.line (l : Leaf) : Leaf := { l with va := l.va / 64 * 64, pa := l.pa / 64 * 64 }

/-- The line that a fill makes of the bytes it reads: the stored bytes of the old one stay. -/
def fillLine (vf : Nat) (l : Leaf) (old : Option L1Line) (bs : List Byte) : L1Line :=
  match old with
  | some o =>
    { o with whole := true, bytes := (List.range 64).map fun i => if o.mask.getLsbD i then o.bytes.getD i 0 else bs.getD i 0 }
  | none => ⟨vf, l.line.va, l.line.pa, bs, 0, 0, true, l.enc⟩

theorem l1Fill_ok {s t : State} {core vf : Nat} {l : Leaf} {bs : List Byte} (old : Option L1Line)
    (h : s.readLeaf (.stream core) vf l.line 64 = .ok (t, bs)) :
    s.l1Fill core vf l old = .ok (t.l1Insert core (fillLine vf l old bs), fillLine vf l old bs) := by
  show (s.readLeaf (.stream core) vf l.line 64 >>= _) = _
  rw [h]
  cases old <;> rfl

/-- The other lines of an L1. -/
def otherLines (ls : List L1Line) (y : L1Line) : List L1Line := ls.filter fun x => !(x.vf == y.vf && x.va == y.va)

/-- A line enters an L1 that has room beside its other lines. -/
theorem l1Insert_room {s : State} {y : L1Line} (h : (otherLines s.here.l1 y).length < s.here.l1Lines) :
    s.l1Insert s.cur y = s.updHere fun c => { c with l1 := y :: otherLines s.here.l1 y } := by
  rw [otherLines, State.here] at h
  simp only [State.l1Insert, h, if_true]
  rfl

/-- A line that the L1 holds makes room for itself. -/
theorem otherLines_length_lt {ls : List L1Line} {vf va : Nat} {x : L1Line} (h : l1Find ls vf va = some x) (y : L1Line)
    (hvf : y.vf = x.vf) (hva : y.va = x.va) : (otherLines ls y).length < ls.length := by
  refine List.length_filter_lt_length_iff_exists.mpr ⟨x, List.mem_of_find?_eq_some h, ?_⟩
  simp [hvf, hva]

/-! ### The ld -/

theorem checkSpace_ld {a n : Nat} (h : a + n - 1 < lwbase) (hn : 0 < n) : checkSpace a n .ld = .ok () := by
  have hlw : lwbase < 2 ^ 56 := by decide
  have h56 : decide (a < 2 ^ 56) = true := decide_eq_true (by omega)
  rw [checkSpace, h56, decide_eq_true h]
  rfl

/-- A ld outside the local window: translation, and the load through the leaf that it answers. -/
theorem ldBody_outside {s : State} {o : MLd} {a n : Nat} (ha : s.memAddr o.base o.imm o.size = a) (hn : 2 ^ o.size.toNat = n)
    (hal : a % n = 0) (hw : a + n - 1 < lwbase) : s.ldBody o = s.translate (.stream s.cur) s.here.vfid a .ld >>= fun q =>
      q.1.loadLeaf q.1.cur q.1.here.vfid q.2 n >>= fun p => .ok (p.1.loaded o p.2) := by
  have hpos : 0 < n := hn ▸ Nat.two_pow_pos _
  subst ha hn
  rw [State.ldBody, sorted_outside _ _ hal hw hpos, State.ldMemory, checkSpace_ld hw hpos]
  rfl

/-- A wait that its sides come before. -/
theorem waitHere_waits_sides (s : State) (w : WaitOn) (l : List Side) : Waits (s.applySides l) (s.waitHere w l) w :=
  waitHere_waits (s.applySides l) w

/-- Settles O17: an ld loads through the leaf of its page, from plain memory, from the L1 or by a fill of it; where translation stops, so
does the load. -/
theorem loadsFromMemory : Obligations.LoadsFromMemory := by
  unfold Obligations.LoadsFromMemory
  refine ⟨fun o s q l => ?_, fun o s => ?_⟩
  · intro n a hal hw ht hx hcur hvf hva loads
    have hn : 0 < n := Nat.two_pow_pos _
    have hbody : s.ldBody o = q.loadLeaf q.cur q.here.vfid l n >>= fun p => .ok (p.1.loaded o p.2) := by
      rw [ldBody_outside (a := a) (n := n) rfl rfl hal hw, ht]
      rfl
    have loaded : ∀ p bs, q.loadLeaf q.cur q.here.vfid l n = .ok (p, bs) →
        ∃ t, exec (.ld o) s = .next t ∧ Writes p t o.d (extendLoad o.se n bs) o.stop := fun p bs h =>
      ⟨_, exec_ld_ok (by rw [hbody, h]; rfl), setReg_done_writes p o.d _ o.stop⟩
    rw [← hva, ← hcur]
    refine ⟨fun hc hp => ?_, fun x hc hfind hh => ?_, fun hc hp => ?_⟩
    · exact loaded _ _ ((loadLeaf_uncached hc).trans (readLeaf_plain hn hp))
    · exact loaded _ _ (loadLeaf_hit hc hfind (L1Line.holds_of hh))
    · intro line fills
      have hread : q.readLeaf (.stream q.cur) q.here.vfid l.line 64 = .ok (q, line) := readLeaf_plain (by decide) hp
      have fill : ∀ old, (otherLines q.here.l1 (fillLine q.here.vfid l old line)).length < q.here.l1Lines →
          q.loadLeaf q.cur q.here.vfid l n = filledBytes (q.l1Fill q.cur q.here.vfid l old) (l.va % 64) n →
          fills (fillLine q.here.vfid l old line) := fun old hroom h => by
        refine loaded _ _ (h.trans ?_)
        rw [l1Fill_ok old hread, l1Insert_room hroom]
        rfl
      refine ⟨fun hfind hroom => ?_, fun x hfind hwhole hmiss hroom => ?_⟩
      · exact fill none (lt_of_le_of_lt (List.length_filter_le _ _) hroom) (loadLeaf_miss hc hfind)
      · exact fill (some x) (lt_of_lt_of_le (otherLines_length_lt hfind _ rfl rfl) hroom)
          (loadLeaf_partial hc hfind (L1Line.not_holds_of hwhole hmiss))
  · intro n a hal hw
    have stops : ∀ e, s.translate (.stream s.cur) s.here.vfid a .ld = .error e → s.ldBody o = .error e := fun e ht => by
      rw [ldBody_outside (a := a) (n := n) rfl rfl hal hw, ht]
      rfl
    refine ⟨fun x ht h71 h72 => ?_, fun w sides ht => ?_⟩
    · intro b hcur hx hm
      exact ⟨_, runStream_stops (body := fun s => s.ldBody o) (stops _ ht),
        trapHere_tookTrap rfl hcur hx hm h71 h72⟩
    · intro b hcur hx
      have hwait : exec (.ld o) s = .next (s.settled (.error (.wait w sides))) :=
        congrArg (fun r => Host.Outcome.next (s.settled r)) (stops _ ht)
      exact ⟨_, hwait, waitHere_waits_sides s w sides⟩

end Sys2Proof.Machine
end


section
/-! PROOFS. probe and pinv (R203, R212, R213), tqry and tsel (R157, R158), vsett (R111). -/

namespace Sys2Proof.Machine
open Sys2Proof

/-! ### Entries of the probe tables -/

theorem pentry_setPentry_self (s : State) (t : PTable) (i : Nat) (e : PEntry) : (s.setPentry t i e).pentry t i = e := by
  cases t with
  | region c =>
    show SMap.get .init ((s.updCore c _).core c).probe i = e
    rw [State.core_updCore_self]
    exact SMap.get_set_self _ _ _ _
  | die d =>
    show SMap.get .init ((s.updDie d _).die d).probe i = e
    rw [State.die_updDie_self]
    exact SMap.get_set_self _ _ _ _

/-- A change of an entry leaves every die's tickets. -/
theorem tickets_setPentry (s : State) (t : PTable) (i : Nat) (e : PEntry) (d : Nat) : ((s.setPentry t i e).die d).tickets = (s.die d).tickets := by
  cases t with
  | region c => rfl
  | die c =>
    show ((s.updDie c _).die d).tickets = _
    by_cases h : d = c
    · rw [h, State.die_updDie_self]
    · rw [State.die_updDie_ne _ _ _ _ h]

/-- A new ticket is in flight. -/
theorem mem_tickets_newTicket (s : State) (d : Nat) (w : TicketOf) : ((s.die d).nextTicket, w) ∈ ((s.newTicket d w).1.die d).tickets := by
  show _ ∈ ((s.updDie d _).die d).tickets
  rw [State.die_updDie_self]
  exact (SMap.mem_insert _ _ _ _).mpr (.inl rfl)

/-- Whose fill a ticket of a slot is. -/
def PTable.ticketOf (t : PTable) (i : Nat) : TicketOf :=
  match t with
  | .region c => .probe (some c) i
  | .die _ => .probe none i

theorem ticket_queueFill (s : State) (t : PTable) (i vf : Nat) (h : Dword) (tile : Nat) :
    (s.queueFill t i vf h tile).2 = (s.die t.home).nextTicket := rfl

/-- What a queued fill leaves in its slot, and its ticket. -/
theorem queueFill_spec (s : State) (t : PTable) (i vf : Nat) (h : Dword) (tile : Nat) :
    let f := (s.queueFill t i vf h tile).1
    let n := (s.die t.home).nextTicket
    (f.pentry t i).state = 1 ∧ (f.pentry t i).ticket = n ∧ (f.pentry t i).handle = h
      ∧ (f.pentry t i).matches { PKey.of h tile with vf := vf } = true ∧ (n, t.ticketOf i) ∈ (f.die t.home).tickets := by
  intro f n
  obtain ⟨e, he, hstate, hticket, hhandle, hmatches⟩ : ∃ e : PEntry, f = ((s.newTicket t.home (t.ticketOf i)).1.setPentry t i e)
      ∧ e.state = 1 ∧ e.ticket = n ∧ e.handle = h ∧ e.matches { PKey.of h tile with vf := vf } = true := by
    refine ⟨_, rfl, rfl, rfl, rfl, ?_⟩
    simp [PEntry.matches, PKey.of]
  rw [he, pentry_setPentry_self, tickets_setPentry]
  exact ⟨hstate, hticket, hhandle, hmatches, mem_tickets_newTicket s t.home (t.ticketOf i)⟩

theorem ticketOf_probeTable (s : State) (k : ProbeKey) (i : Nat) :
    (s.probeTable k).ticketOf i = .probe (if k.die then none else some s.cur) i := by
  rw [State.probeTable]
  cases k.die <;> rfl

/-! ### probe (R212) -/

section
variable {p q : State} {k : ProbeKey} {i : Nat} (hq : p.learnFor k = q)
include hq

theorem probeEntry_valid (hf : q.pfind (q.probeTable k) (q.probeKeyOf k) = some i) (he : (q.pentry (q.probeTable k) i).state = 2) :
    p.probeEntry k =
      (q.setPentry (q.probeTable k) i { q.pentry (q.probeTable k) i with recency := q.tb }, 0, 0, q.slotValue k i) := by
  simp only [State.probeEntry, hq, hf, he]

theorem probeEntry_filling (hf : q.pfind (q.probeTable k) (q.probeKeyOf k) = some i) (he : (q.pentry (q.probeTable k) i).state = 1) :
    p.probeEntry k = (q, 2, 0, (q.pentry (q.probeTable k) i).ticket) := by
  simp only [State.probeEntry, hq, hf, he]

theorem probeEntry_failed (hf : q.pfind (q.probeTable k) (q.probeKeyOf k) = some i) (he : (q.pentry (q.probeTable k) i).state = 3) :
    p.probeEntry k = (q.setPentry (q.probeTable k) i .init, 4, (q.pentry (q.probeTable k) i).cause.toNat, 0) := by
  simp only [State.probeEntry, hq, hf, he]

theorem probeEntry_noSlot (hf : q.pfind (q.probeTable k) (q.probeKeyOf k) = none) (hc : q.pchoose (q.probeTable k) q.here.vfid = none) :
    p.probeEntry k = (q, 3, 0, 0) := by
  simp only [State.probeEntry, hq, hf, hc]

theorem probeEntry_queues (hf : q.pfind (q.probeTable k) (q.probeKeyOf k) = none)
    (hc : q.pchoose (q.probeTable k) q.here.vfid = some i) : p.probeEntry k =
      ((q.queueFill (q.probeTable k) i q.here.vfid k.handle k.tile).1, 1, 0, (q.die (q.probeTable k).home).nextTicket) := by
  simp only [State.probeEntry, hq, hf, hc]
  rfl

end

/-- The end of a probe whose handle is of its entry's generation. -/
def State.probeAnswer (p : State) (o : RProbe) (k : ProbeKey) (miss : Dword) : State :=
  let r := p.probeEntry k
  let u := r.1.setReg o.d (probeWord r.2.1 k.die r.2.2.1 r.2.2.2)
  if r.2.1 = 0 then u.done o.stop else u.jumpTo miss

/-- The end of a probe after the check of its handle: a stale handle misses. -/
def State.probeEnd (p : State) (o : RProbe) (k : ProbeKey) (miss : Dword) (current : Bool) : State :=
  if current then p.probeAnswer o k miss else (p.setReg o.d (probeWord 5 k.die 0 0)).jumpTo miss

/-- Where a probe goes on a miss. -/
def State.missOf (s : State) (o : RProbe) : Dword := s.wordTarget (o.off.signExtend 64)

theorem exec_probe (o : RProbe) (s : State) : exec (.probe o) s = runStream s fun s =>
    s.target (s.missOf o) >>= fun _ => s.here.probeRecord (s.reg o.a).toNat >>= fun k =>
    s.probeHandle k (s.reg o.a).toNat >>= fun r => .ok (r.1.probeEnd o k (s.missOf o) r.2) := by
  show execProbe o s = _
  unfold execProbe
  refine congrArg (runStream s) (funext fun s => bind_congr fun _ => bind_congr fun k => bind_congr fun r => ?_)
  obtain ⟨p, current⟩ := r
  cases current with
  | false => rfl
  | true =>
    simp only [State.probeEnd, State.probeAnswer, if_true]
    generalize p.probeEntry k = r
    rfl

/-- A probe whose miss offset is outside the binary traps before anything else. -/
theorem exec_probe_outside {s : State} {o : RProbe} (hm : s.mayTrap) (h : ¬s.mayGoTo (s.missOf o)) :
    ∃ t, exec (.probe o) s = .next t ∧ TrapsHere s t 0x15 (s.missOf o) := by
  rw [exec_probe]
  refine runStream_trapsHere hm ?_ rfl (by decide)
  rw [target_trap h]
  rfl

theorem exec_probe_checked {s p : State} {o : RProbe} {k : ProbeKey} {current : Bool} (h : s.mayGoTo (s.missOf o))
    (hk : s.here.probeRecord (s.reg o.a).toNat = .ok k) (hp : s.probeHandle k (s.reg o.a).toNat = .ok (p, current)) :
    exec (.probe o) s = .next (p.probeEnd o k (s.missOf o) current) := by
  rw [exec_probe]
  refine runStream_ok ?_
  rw [target_ok h, hk]
  show (s.probeHandle k (s.reg o.a).toNat >>= _) = _
  rw [hp]
  rfl

/-- A result register written and a jump. -/
theorem setReg_jumpTo_misses (q : State) (d : Reg) (w miss : Dword) :
    let t := (q.setReg d w).jumpTo miss
    GoesTo t miss ∧ (d ≠ 0 → t.reg d = w) ∧ RegsBut q t d ∧ OnlyRegs q t ∧ OnlyStream q t ∧ MemorySame q t := by
  obtain ⟨hgo, -, hreg⟩ := setReg_jumpTo_spec q d w miss
  exact ⟨hgo, hreg⟩

/-- A probe that answers status 0 goes on. -/
theorem probeAnswer_hit {p u : State} {o : RProbe} {k : ProbeKey} {value : Nat} (miss : Dword) (h : p.probeEntry k = (u, 0, 0, value)) :
    p.probeAnswer o k miss = (u.setReg o.d (probeWord 0 k.die 0 value)).done o.stop := by
  simp only [State.probeAnswer, h, if_true]

/-- A probe that answers another status goes to its miss offset. -/
theorem probeAnswer_miss {p u : State} {o : RProbe} {k : ProbeKey} {status cause value : Nat} (miss : Dword) (hs : status ≠ 0)
    (h : p.probeEntry k = (u, status, cause, value)) :
    p.probeAnswer o k miss = (u.setReg o.d (probeWord status k.die cause value)).jumpTo miss := by
  simp only [State.probeAnswer, h, if_neg hs]

theorem probeWord_eq (status : Nat) (die : Bool) (cause value : Nat) :
    probeWord status die cause value = BitVec.ofNat 64 (status * 2 ^ 60 + (if die then 2 ^ 59 else 0) + cause * 2 ^ 48 + value) := rfl

/-! ### pinv (R213) -/

/-- The stream waits on a fill. -/
theorem awaitedFill_iff (s : State) : s.awaitedFill = true ↔ ∃ b i n, s.self.wait = some (.fill b i, n) := by
  unfold State.awaitedFill
  split
  · next b i n h => exact ⟨fun _ => ⟨b, i, n, h⟩, fun _ => rfl⟩
  · next h => exact ⟨fun hf => absurd hf Bool.false_ne_true, fun ⟨b, i, n, hw⟩ => absurd hw (h b i n)⟩

/-- A pinv behind the check of its handle. -/
def State.pinvEnd (q : State) (o : R2) (k : ProbeKey) : Except Stop State :=
  match q.pfind (q.probeTable k) (q.probeKeyOf k) with
  | none => .ok ((q.setReg o.d (if q.awaitedFill then 1 else 0)).done o.stop)
  | some i =>
    if (q.pentry (q.probeTable k) i).state = 1 then q.onward (waitOn (.fill (!k.die) i))
    else if (q.pentry (q.probeTable k) i).pins ≠ 0 then .ok ((q.setReg o.d 2).done o.stop)
    else .ok (((q.setPentry (q.probeTable k) i .init).setReg o.d 1).done o.stop)

theorem exec_pinv_checked {s p : State} {o : R2} {k : ProbeKey} (hk : s.here.probeRecord (s.reg o.a).toNat = .ok k)
    (hp : s.probeHandle k (s.reg o.a).toNat true = .ok (p, true)) :
    exec (.pinv o) s = .next (s.settled ((p.learnFor k).pinvEnd o k)) := by
  refine congrArg (fun r => Host.Outcome.next (s.settled r)) ?_
  show (s.here.probeRecord (s.reg o.a).toNat >>= fun k => s.probeHandle k (s.reg o.a).toNat true >>= fun r =>
    (r.1.learnFor k).pinvEnd o k) = _
  rw [hk]
  show (s.probeHandle k (s.reg o.a).toNat true >>= _) = _
  rw [hp]
  rfl

section
variable {q : State} {k : ProbeKey} {i : Nat} (o : R2)

theorem pinvEnd_none (hf : q.pfind (q.probeTable k) (q.probeKeyOf k) = none) :
    q.pinvEnd o k = .ok ((q.setReg o.d (if q.awaitedFill then 1 else 0)).done o.stop) := by
  simp only [State.pinvEnd, hf]

variable (hf : q.pfind (q.probeTable k) (q.probeKeyOf k) = some i)
include hf

theorem pinvEnd_filling (he : (q.pentry (q.probeTable k) i).state = 1) : q.pinvEnd o k = q.onward (waitOn (.fill (!k.die) i)) := by
  simp only [State.pinvEnd, hf, he, if_true]

theorem pinvEnd_pinned (he : (q.pentry (q.probeTable k) i).state ≠ 1) (hpin : (q.pentry (q.probeTable k) i).pins ≠ 0) :
    q.pinvEnd o k = .ok ((q.setReg o.d 2).done o.stop) := by
  simp only [State.pinvEnd, hf, if_neg he, if_pos hpin]

theorem pinvEnd_empties (he : (q.pentry (q.probeTable k) i).state ≠ 1) (hpin : (q.pentry (q.probeTable k) i).pins = 0) :
    q.pinvEnd o k = .ok (((q.setPentry (q.probeTable k) i .init).setReg o.d 1).done o.stop) := by
  simp only [State.pinvEnd, hf, if_neg he, if_neg (not_not.mpr hpin)]

end

/-! ### tqry, tsel (R157, R158) and vsett (R111) -/

theorem TSlot.active_eq (x : TSlot) : x.active = if x.flip then x.bank1 else x.bank0 := rfl

theorem TSlot.shadow_eq (x : TSlot) : x.shadow = if x.flip then x.bank0 else x.bank1 := by
  cases h : x.flip <;> simp [TSlot.shadow, TSlot.bank, h]

/-- A tsel: the owner's check, the wait for a load, and the change of the banks. -/
theorem exec_tsel (o : VSel) (s : State) : exec (.tsel o) s = runStream s fun s =>
    need (s.here.owns o.slot.toNat) (trapOf 0x42 (BitVec.ofNat 64 o.slot.toNat)) >>= fun _ =>
    need ((s.here.slot o.slot.toNat).shadow.state != 1) (waitOn (.tselLoading o.slot.toNat)) >>= fun _ =>
    need ((s.here.slot o.slot.toNat).shadow.state != 0) (trapOf 0x43 (BitVec.ofNat 64 o.slot.toNat)) >>= fun _ =>
    .ok ((s.updHere fun c => c.setSlot o.slot.toNat { s.here.slot o.slot.toNat with flip := !(s.here.slot o.slot.toNat).flip }).done
      o.stop) := rfl

section
variable {o : VSel} {s : State}

theorem tsel_notOwned (how : (s.here.slot o.slot.toNat).owner ≠ some s.here.vfid) (hm : s.mayTrap) :
    ∃ t, exec (.tsel o) s = .next t ∧ TrapsHere s t 0x42 (BitVec.ofNat 64 o.slot.toNat) := by
  rw [exec_tsel]
  exact runStream_trapsHere hm (need_trap (Bool.eq_false_iff.mpr (mt (owns_iff _ _).mp how))) rfl (by decide)

variable (how : (s.here.slot o.slot.toNat).owner = some s.here.vfid)
include how

theorem tsel_loading (h : (s.here.slot o.slot.toNat).shadow.state = 1) :
    ∃ t, exec (.tsel o) s = .next t ∧ Waits s t (.tselLoading o.slot.toNat) := by
  rw [exec_tsel]
  refine runStream_waits ?_
  rw [need_then ((owns_iff _ _).mpr how), h]
  rfl

theorem tsel_empty (h : (s.here.slot o.slot.toNat).shadow.state = 0) (hm : s.mayTrap) :
    ∃ t, exec (.tsel o) s = .next t ∧ TrapsHere s t 0x43 (BitVec.ofNat 64 o.slot.toNat) := by
  rw [exec_tsel]
  refine runStream_trapsHere hm ?_ rfl (by decide)
  rw [need_then ((owns_iff _ _).mpr how), h]
  rfl

theorem tsel_ready (h : (s.here.slot o.slot.toNat).shadow.state = 2) :
    ∃ t, exec (.tsel o) s = .next t ∧ MemorySame s t ∧ OnlyAdvances (s.updHere fun c =>
      c.setSlot o.slot.toNat { s.here.slot o.slot.toNat with flip := !(s.here.slot o.slot.toNat).flip }) t o.stop := by
  rw [exec_tsel]
  refine ⟨_, runStream_ok ?_, updHere_done_spec s _ o.stop rfl⟩
  rw [need_then ((owns_iff _ _).mpr how), h]
  rfl

end

/-- The word of tqry for a slot of another's. -/
theorem exec_tqry_other {o : R2} {s : State} {v : Nat} (h : (s.here.slot ((s.reg o.a).toNat % 16)).owner = some v) (hv : v ≠ s.here.vfid) :
    exec (.tqry o) s = .next ((s.setReg o.d (BitVec.ofNat 64 (2 * 2 ^ 32))).done o.stop) := by
  show execTqry o s = _
  simp only [execTqry, h, if_neg hv, if_true, Nat.add_zero, d64]

/-- What tqry reports of a slot's banks. -/
def TSlot.report (x : TSlot) : Nat :=
  (if x.active.state = 2 then 1 else 0) * 2 ^ 28 + x.shadow.state * 2 ^ 26 + (if x.active.state = 2 then tblNseg x.active.data else 0) * 2 ^ 17
    + (if x.shadow.state = 2 then tblNseg x.shadow.data else 0) * 2 ^ 8 + min 255 (x.active.readers + x.shadow.readers)

/-- The word of tqry for a slot of no one's and of one's own. -/
theorem exec_tqry_own {o : R2} {s : State} {x : TSlot} {own : Nat} (hx : s.here.slot ((s.reg o.a).toNat % 16) = x)
    (h : (x.owner = none ∧ own = 0) ∨ (x.owner = some s.here.vfid ∧ own = 2 ^ 32)) :
    exec (.tqry o) s = .next ((s.setReg o.d (BitVec.ofNat 64 (own + x.report))).done o.stop) := by
  show execTqry o s = _
  obtain ⟨hown, rfl⟩ | ⟨hown, rfl⟩ := h
  · simp only [execTqry, hx, hown, Nat.zero_mul, OfNat.zero_ne_ofNat, if_false, d64, TSlot.report]
  · simp only [execTqry, hx, hown, Nat.one_mul, OfNat.one_ne_ofNat, if_true, if_false, d64, TSlot.report]

theorem exec_vsett (o : R2) (s : State) : exec (.vsett o) s = runStream s fun s =>
    need (vtypeOk (s.reg o.a &&& vtypeMask)) (trapOf 0x1A (s.reg o.a &&& vtypeMask)) >>= fun _ =>
    .ok (((s.updHere fun c => { c with vec := { c.vec with vtype := s.reg o.a &&& vtypeMask } }).setReg o.d s.here.vec.vtype).done
      o.stop) := rfl

/-! ### The obligation -/

/-- A probe of a handle of its entry's generation. -/
theorem probe_answers {s p : State} {o : RProbe} {k : ProbeKey} (hk : s.here.probeRecord (s.reg o.a).toNat = .ok k)
    (hgo : s.mayGoTo (s.missOf o)) (hp : s.probeHandle k (s.reg o.a).toNat = .ok (p, true)) :
    exec (.probe o) s = .next (p.probeAnswer o k (s.missOf o)) := by
  rw [exec_probe_checked hgo hk hp, State.probeEnd, if_pos rfl]

/-- A probe of a stale handle. -/
theorem probe_stale {s p : State} {o : RProbe} {k : ProbeKey} (hk : s.here.probeRecord (s.reg o.a).toNat = .ok k)
    (hgo : s.mayGoTo (s.missOf o)) (hp : s.probeHandle k (s.reg o.a).toNat = .ok (p, false)) :
    exec (.probe o) s = .next ((p.setReg o.d (probeWord 5 k.die 0 0)).jumpTo (s.missOf o)) := by
  rw [exec_probe_checked hgo hk hp, State.probeEnd, if_neg Bool.false_ne_true]

/-- Settles O27: a probe ends with the word of what it found, at its miss offset unless the entry is VALID; a pinv by its entry; the table
instructions by the owner and the banks of their slot. -/
theorem probesAndTables : Obligations.ProbesAndTables := by
  unfold Obligations.ProbesAndTables
  refine ⟨fun s p d a stop k => ?_, fun s => ⟨fun o => ?_, fun o => ?_, fun o => ?_⟩⟩
  intro off region key hk
  refine ⟨fun offs => ?_, fun hp hself hvf => ?_⟩
  intro miss o misses
  refine ⟨fun hgo hm => ?_, fun hgo hp hself => ?_, fun hgo hp hself hvf => ?_⟩
  · exact exec_probe_outside hm hgo
  · have hw : BitVec.ofNat 64 (5 * 2 ^ 60 + region) = probeWord 5 k.die 0 0 := by
      rw [probeWord_eq, Nat.zero_mul, Nat.add_zero]
    rw [hw]
    exact ⟨_, probe_stale hk hgo hp, setReg_jumpTo_misses p d _ miss⟩
  · intro q hqself hqvf i t e
    have hexec := probe_answers (o := o) hk hgo hp
    have hkey : q.probeKeyOf k = key := by rw [State.probeKeyOf, hqvf]
    have missed : ∀ u status cause value w, status ≠ 0 → p.probeEntry k = (u, status, cause, value) →
        w = status * 2 ^ 60 + region + cause * 2 ^ 48 + value → misses u (BitVec.ofNat 64 w) := fun u status cause value w hs h hw => by
      rw [probeAnswer_miss _ hs h] at hexec
      rw [hw, ← probeWord_eq]
      exact ⟨_, hexec, setReg_jumpTo_misses u d _ miss⟩
    rw [← hkey, ← hqvf]
    refine ⟨fun hf he => ?_, fun hf he => ?_, fun hf he => ?_, fun hf hc => ?_, fun hf hc => ?_⟩
    · rw [probeAnswer_hit _ (probeEntry_valid rfl hf he), probeWord_eq, Nat.zero_mul, Nat.zero_add, Nat.zero_mul, Nat.add_zero] at hexec
      exact ⟨_, hexec, setReg_done_writes _ d _ stop⟩
    · exact missed _ 2 0 _ _ (by decide) (probeEntry_filling rfl hf he) (by rw [Nat.zero_mul, Nat.add_zero])
    · exact missed _ 4 _ 0 _ (by decide) (probeEntry_failed rfl hf he) (by rw [Nat.add_zero])
    · exact missed _ 3 0 0 _ (by decide) (probeEntry_noSlot rfl hf hc) (by rw [Nat.zero_mul, Nat.add_zero])
    · intro n f
      obtain ⟨hstate, hticket, hhandle, hmatches, hmem⟩ := queueFill_spec q t i q.here.vfid k.handle k.tile
      rw [ticketOf_probeTable] at hmem
      exact ⟨missed _ 1 0 _ _ (by decide) (probeEntry_queues rfl hf hc) (by rw [Nat.zero_mul, Nat.add_zero, Nat.one_mul]), hstate, hticket,
        hhandle, hmatches, hmem⟩
  · intro q hqself hqvf o t awaited
    have settles : ∀ r, q.pinvEnd o k = r → exec (.pinv o) s = .next (s.settled r) := by
      rintro _ rfl
      exact exec_pinv_checked hk hp
    have hkey : q.probeKeyOf k = key := by rw [State.probeKeyOf, hqvf]
    have hawaited : q.awaitedFill = true ↔ awaited := by rw [awaitedFill_iff, hqself]
    rw [← hkey]
    have writes : ∀ u v, q.pinvEnd o k = .ok ((u.setReg d v).done stop) → ∃ t', exec (.pinv o) s = .next t' ∧ Writes u t' d v stop :=
      fun u v h => ⟨_, settles _ h, setReg_done_writes u d v stop⟩
    refine ⟨fun hf => ⟨fun ha => ?_, fun ha => ?_⟩, fun i hf => ?_⟩
    · exact writes q 0 ((pinvEnd_none o hf).trans (by rw [Bool.eq_false_iff.mpr (mt hawaited.mp ha)]; rfl))
    · exact writes q 1 ((pinvEnd_none o hf).trans (by rw [hawaited.mpr ha]; rfl))
    · refine ⟨fun he hpin => writes _ 1 (pinvEnd_empties o hf he hpin), fun he hpin => writes q 2 (pinvEnd_pinned o hf he hpin), fun he => ?_⟩
      exact ⟨_, settles _ (pinvEnd_filling o hf he), waitHere_waits_sides s _ [.seen q]⟩
  · intro x act shd writes
    refine ⟨fun v ho hv => ⟨_, exec_tqry_other ho hv, setReg_done_writes s o.d _ o.stop⟩, fun own h => ?_⟩
    have hreport : own + x.report = own + ((if act.state = 2 then 1 else 0) * 2 ^ 28 + shd.state * 2 ^ 26
        + (if act.state = 2 then tblNseg act.data else 0) * 2 ^ 17
        + (if shd.state = 2 then tblNseg shd.data else 0) * 2 ^ 8 + min 255 (act.readers + shd.readers)) := by
      rw [TSlot.report, TSlot.active_eq, TSlot.shadow_eq]
    rw [← hreport]
    exact ⟨_, exec_tqry_own rfl h, setReg_done_writes s o.d _ o.stop⟩
  · intro n x shd own
    have hshd : shd = x.shadow := (TSlot.shadow_eq x).symm
    rw [hshd]
    exact ⟨tsel_ready, tsel_loading, tsel_empty, tsel_notOwned⟩
  · intro v
    refine ⟨fun hv => ?_, fun hv hm => ?_⟩ <;> rw [exec_vsett]
    · exact ⟨_, runStream_ok (need_then hv), updHere_writes_spec s _ o.d _ o.stop rfl⟩
    · exact runStream_trapsHere hm (need_trap hv) rfl (by decide)

end Sys2Proof.Machine
end


section
/-! PROOFS. The units behind the cores: the end of a probe fill (R204, R213, R361) and of an adapter load (R357, R361). -/

namespace Sys2Proof.Machine
open Sys2Proof

/-! ### Tickets (R204) -/

/-- Only the Hearth differs. -/
def OnlyHearth (s t : State) : Prop := t = { s with hearth := t.hearth }

theorem OnlyHearth.refl (s : State) : OnlyHearth s s := rfl

theorem OnlyHearth.trans {s u t : State} (h : OnlyHearth s u) (k : OnlyHearth u t) : OnlyHearth s t := by
  unfold OnlyHearth at h k ⊢
  rw [k, h]

theorem onlyHearth_wakeNode (s : State) (id : Dword) : OnlyHearth s (s.wakeNode id) := by
  unfold State.wakeNode
  split
  · exact .refl s
  · split
    · exact .refl s
    · exact rfl

/-- Waking nodes changes the Hearth alone. -/
theorem onlyHearth_wakeAll (s : State) : OnlyHearth s s.wakeAll :=
  List.foldlRecOn s.hearth.nodes _ (motive := OnlyHearth s) (.refl s) fun r hr _ _ => hr.trans (onlyHearth_wakeNode r _)

theorem cores_endTicket (s : State) (d t : Nat) : (s.endTicket d t).cores = s.cores := by
  rw [State.endTicket, onlyHearth_wakeAll]
  rfl

theorem vfs_endTicket (s : State) (d t : Nat) : (s.endTicket d t).vfs = s.vfs := by
  rw [State.endTicket, onlyHearth_wakeAll]
  rfl

theorem mem_endTicket (s : State) (d t : Nat) : (s.endTicket d t).mem = s.mem := by
  rw [State.endTicket, onlyHearth_wakeAll]
  rfl

theorem die_endTicket (s : State) (d t e : Nat) :
    (s.endTicket d t).die e = (s.updDie d fun k => { k with tickets := SMap.erase k.tickets t }).die e := by
  rw [State.endTicket, onlyHearth_wakeAll]
  rfl

/-- A ticket that has ended is in flight no more. -/
theorem lookup_endTicket (s : State) (d t : Nat) : ((s.endTicket d t).die d).tickets.lookup t = none := by
  rw [die_endTicket, State.die_updDie_self]
  exact (SMap.lookup_erase _ _ _).trans (if_pos rfl)

/-- The end of a ticket leaves every entry. -/
theorem pentry_endTicket (s : State) (d k : Nat) (t : PTable) (i : Nat) : (s.endTicket d k).pentry t i = s.pentry t i := by
  refine congrArg (fun m => SMap.get PEntry.init m i) ?_
  cases t with
  | region c => exact congrArg (fun l => (SMap.get Core.init l c).probe) (cores_endTicket s d k)
  | die e =>
    show ((s.endTicket d k).die e).probe = (s.die e).probe
    rw [die_endTicket]
    by_cases h : e = d
    · rw [h, State.die_updDie_self]
    · rw [State.die_updDie_ne _ _ _ _ h]

/-! ### The end of a fill (R204, R213) -/

theorem mem_setPentry (s : State) (t : PTable) (i : Nat) (e : PEntry) : (s.setPentry t i e).mem = s.mem := by
  cases t <;> rfl

theorem mem_filled (u : State) (t : PTable) (i ticket : Nat) (e : PEntry) : (u.filled t i ticket e).mem = u.mem :=
  (mem_endTicket _ _ _).trans (mem_setPentry u t i _)

theorem ticket_filled (u : State) (t : PTable) (i ticket : Nat) (e : PEntry) :
    ((u.filled t i ticket e).die t.home).tickets.lookup ticket = none := lookup_endTicket _ _ _

/-- What a fill leaves in its slot. -/
theorem pentry_filled (u : State) (t : PTable) (i ticket : Nat) (e : PEntry) :
    (u.filled t i ticket e).pentry t i = if u.pinvWaits t i && e.pins == 0 then .init else { e with ticket := 0 } :=
  (pentry_endTicket _ _ _ t i).trans (pentry_setPentry_self u t i _)

theorem pentry_filled_awaited {u : State} {t : PTable} {i : Nat} (ticket : Nat) {e : PEntry} (h : u.pinvWaits t i = true) (hp : e.pins = 0) :
    (u.filled t i ticket e).pentry t i = .init := by
  rw [pentry_filled, h, hp]
  rfl

theorem pentry_filled_kept {u : State} {t : PTable} {i : Nat} (ticket : Nat) {e : PEntry} (h : u.pinvWaits t i = false ∨ e.pins ≠ 0) :
    (u.filled t i ticket e).pentry t i = { e with ticket := 0 } := by
  rw [pentry_filled]
  refine if_neg ?_
  rw [Bool.and_eq_true, beq_iff_eq]
  rintro ⟨hw, hp⟩
  exact h.elim (fun h => Bool.false_ne_true (h.symm.trans hw)) (fun h => h hp)

/-- The end of a fill of a core's slot leaves the core's scratchpad. -/
theorem sp_filled (u : State) (c i ticket : Nat) (e : PEntry) : ((u.filled (.region c) i ticket e).core c).sp = (u.core c).sp := by
  have hcores : (u.filled (.region c) i ticket e).core c = ((u.setPentry (.region c) i _).core c) :=
    congrArg (fun l => SMap.get Core.init l c) (cores_endTicket _ _ _)
  rw [hcores]
  show ((u.updCore c _).core c).sp = _
  rw [State.core_updCore_self]

/-- The state in which the tile of a fill stands in its slot. -/
def State.slotted (b : State) (c i : Nat) (bytes : List Byte) : State :=
  b.updCore c fun k => k.spWrite (k.spBytes - k.prBytes + i * k.slotBytes) bytes

theorem pinvWaits_slotted (b : State) (c i : Nat) (bytes : List Byte) :
    (b.slotted c i bytes).pinvWaits (.region c) i = b.pinvWaits (.region c) i := by
  simp only [State.pinvWaits, State.slotted, State.core_updCore_self, Core.spWrite_eq]

theorem sp_slotted (b : State) (c i : Nat) (bytes : List Byte) : ((b.slotted c i bytes).core c).sp =
    Memory.write (b.core c).sp ((b.core c).spBytes - (b.core c).prBytes + i * (b.core c).slotBytes) bytes := by
  rw [State.slotted, State.core_updCore_self, Core.spWrite_eq]

section
variable {s : State} {i : Nat}

theorem endFill_region {c : Nat} {e : PEntry} {b : State} {bytes : List Byte} {pa : Nat} (he : s.pentry (.region c) i = e)
    (h : s.fillBytes (dieOf c) e.vf e.handle e.tile false = .ok (b, bytes, pa)) :
    s.endFill (.region c) i = (b.slotted c i bytes).filled (.region c) i e.ticket { e with state := 2 } := by
  subst he
  simp only [State.endFill, PTable.home, h, State.slotted]

theorem endFill_die {d : Nat} {e : PEntry} {b : State} {bytes : List Byte} {pa : Nat} (he : s.pentry (.die d) i = e)
    (h : s.fillBytes d e.vf e.handle e.tile true = .ok (b, bytes, pa)) : s.endFill (.die d) i =
      b.filled (.die d) i e.ticket { e with state := 2, frame := pa / 2 ^ 19, bytes := keptBytes pa bytes } := by
  subst he
  simp only [State.endFill, PTable.home, h]

theorem endFill_region_traps {c : Nat} {e : PEntry} {x : Trap} (he : s.pentry (.region c) i = e)
    (h : s.fillBytes (dieOf c) e.vf e.handle e.tile false = .error (.trap x)) : s.endFill (.region c) i =
      ((s.applySides x.sides).dropReads (fillAgent (dieOf c) e.vf)).filled (.region c) i e.ticket { e with state := 3, cause := x.code } := by
  subst he
  simp only [State.endFill, PTable.home, h]

theorem endFill_die_traps {d : Nat} {e : PEntry} {x : Trap} (he : s.pentry (.die d) i = e)
    (h : s.fillBytes d e.vf e.handle e.tile true = .error (.trap x)) : s.endFill (.die d) i =
      ((s.applySides x.sides).dropReads (fillAgent d e.vf)).filled (.die d) i e.ticket { e with state := 3, cause := x.code } := by
  subst he
  simp only [State.endFill, PTable.home, h]

end

section
variable {s : State} {die ticket slot : Nat}

/-- The fill of a core's slot ends. -/
theorem exec_fill_region {c : Nat} (h : (s.die die).tickets.lookup ticket = some (.probe (some c) slot))
    (he : (s.pentry (.region c) slot).state = 1) (ht : (s.pentry (.region c) slot).ticket = ticket) :
    exec (.probeFillComplete die ticket) s = .next (s.endFill (.region c) slot) := by
  show execProbeFillComplete die ticket s = _
  simp only [execProbeFillComplete, h, he, ht, ne_eq, not_true_eq_false, or_self, if_false, Option.isNone_some, Bool.false_and,
    Bool.false_eq_true]

section
variable (h : (s.die die).tickets.lookup ticket = some (.probe none slot)) (he : (s.pentry (.die die) slot).state = 1)
  (ht : (s.pentry (.die die) slot).ticket = ticket)
include h he ht

/-- The fill of a die's slot that no quota counts ends. -/
theorem exec_fill_die (hc : s.fillCounted (s.pentry (.die die) slot) = false) :
    exec (.probeFillComplete die ticket) s = .next (s.endFill (.die die) slot) := by
  show execProbeFillComplete die ticket s = _
  simp only [execProbeFillComplete, h, he, ht, hc, ne_eq, not_true_eq_false, or_self, if_false, Bool.and_false, Bool.false_eq_true]

/-- A factor page waits for its VF's quota. -/
theorem exec_fill_quota (hc : s.fillCounted (s.pentry (.die die) slot) = true)
    (hroom : s.fillRoom (s.pentry (.die die) slot).vf = false) : exec (.probeFillComplete die ticket) s = .next s := by
  show execProbeFillComplete die ticket s = _
  simp only [execProbeFillComplete, h, he, ht, hc, hroom, ne_eq, not_true_eq_false, or_self, if_false, Option.isNone_none, Bool.and_self,
    if_true, Bool.false_eq_true]

end
end

/-! ### Adapter loads (R357, R361) -/

/-- What every end of a ticket keeps, the end of a load's tickets keeps. -/
theorem endLoadTickets_keeps {P : State → Prop} (h : ∀ q d t, P q → P (q.endTicket d t)) {s : State} (hs : P s) (vf i : Nat) :
    P (s.endLoadTickets vf i) :=
  List.foldlRecOn (List.range 32) _ (motive := P) hs fun _ hr d _ => List.foldlRecOn _ _ (motive := P) hr fun q hq t _ => h q d t hq

theorem mem_endLoadTickets (s : State) (vf i : Nat) : (s.endLoadTickets vf i).mem = s.mem :=
  endLoadTickets_keeps (P := fun q => q.mem = s.mem) (fun q d t hq => (mem_endTicket q d t).trans hq) rfl vf i

theorem vfs_endLoadTickets (s : State) (vf i : Nat) : (s.endLoadTickets vf i).vfs = s.vfs :=
  endLoadTickets_keeps (P := fun q => q.vfs = s.vfs) (fun q d t hq => (vfs_endTicket q d t).trans hq) rfl vf i

theorem mem_endLoad (s : State) (vf i st : Nat) : (s.endLoad vf i st).mem = s.mem := mem_endLoadTickets _ vf i

theorem vf_endLoad (s : State) (vf i st : Nat) :
    (s.endLoad vf i st).vf vf = (s.updAdapter vf i fun e => { e with state := st, copied := 0 }).vf vf :=
  congrArg (fun m => SMap.get Vf.init m vf) (vfs_endLoadTickets _ vf i)

/-- What a load leaves in its entry. -/
theorem adapter_endLoad (s : State) (vf i st : Nat) :
    (s.endLoad vf i st).adapter vf i = { s.adapter vf i with state := st, copied := 0 } := by
  rw [State.adapter, vf_endLoad, State.updAdapter, State.vf_updVf_self]
  exact SMap.get_set_self _ _ _ _

theorem rings_endLoad (s : State) (vf i st : Nat) : ((s.endLoad vf i st).vf vf).rings = (s.vf vf).rings := by
  rw [vf_endLoad, State.updAdapter, State.vf_updVf_self]

theorem adapter_postRing0 (s : State) (vf i status cause index : Nat) : (s.postRing0 vf status cause index).adapter vf i = s.adapter vf i := by
  unfold State.adapter State.postRing0 State.postVf
  rw [State.vf_updVf_self]

/-- An event joins those that ring 0 of its VF holds. -/
theorem held_postRing0 (s : State) (vf status cause index : Nat) :
    (SMap.get .init ((s.postRing0 vf status cause index).vf vf).rings 0).held =
      (SMap.get .init (s.vf vf).rings 0).held ++ [record 0 status cause 0 index 0] := by
  unfold State.postRing0 State.postVf
  rw [State.vf_updVf_self]
  exact congrArg Ring.held (SMap.get_set_self _ _ _ _)

/-- A load that a fault ends. -/
def State.failLoad (c s : State) (vf i : Nat) (x : Trap) : State :=
  (((c.applySides x.sides).dropReads adapterAgent).postRing0 vf 0x8A x.code.toNat (s.adHandle vf i)).endLoad vf i 0

theorem failLoad_spec (c s : State) (vf i : Nat) (x : Trap) :
    let u := (c.applySides x.sides).dropReads adapterAgent
    let t := c.failLoad s vf i x
    t.adapter vf i = { u.adapter vf i with state := 0, copied := 0 } ∧ t.mem = u.mem
      ∧ (SMap.get .init (t.vf vf).rings 0).held = (SMap.get .init (u.vf vf).rings 0).held
          ++ [record 0 0x8A x.code.toNat 0 (s.adHandle vf i) 0] := by
  refine ⟨?_, mem_endLoad _ vf i 0, ?_⟩
  · rw [State.failLoad, adapter_endLoad, adapter_postRing0]
  · rw [State.failLoad, rings_endLoad, held_postRing0]

/-- How a load goes on from its plan. -/
def State.loadRun (s : State) (vf i : Nat) : State × LoadEnd :=
  match s.loadPlan vf i with
  | .error e => (s, .stopped e)
  | .ok (c, l) => c.loadPages vf i (s.adapter vf i).back.toNat (s.adapter vf i).copied (l.drop (s.adapter vf i).copied)

/-- What a load leaves, by how it went on. -/
def State.loadLeft (s : State) (vf i : Nat) : State × LoadEnd → State
  | (c, .whole) => c.endLoad vf i 2
  | (c, .quota) => c
  | (c, .stopped (.wait _ sides)) => c.applySides sides
  | (c, .stopped (.trap x)) => c.failLoad s vf i x

theorem exec_load {s : State} {vf i : Nat} (h : (s.adapter vf i).state = 1) :
    exec (.adapterLoadComplete vf i) s = .next (s.loadLeft vf i (s.loadRun vf i)) := by
  show execAdapterLoadComplete vf i s = _
  have hrun : execAdapterLoadComplete vf i s =
      match (s.loadRun vf i).2 with
      | .whole => .next ((s.loadRun vf i).1.endLoad vf i 2)
      | .quota => .next (s.loadRun vf i).1
      | .stopped (.wait _ sides) => .next ((s.loadRun vf i).1.applySides sides)
      | .stopped (.trap x) => .next ((s.loadRun vf i).1.failLoad s vf i x) := by
    unfold execAdapterLoadComplete
    rw [if_neg (not_not.mpr h)]
    rfl
  rw [hrun]
  obtain ⟨c, e⟩ := s.loadRun vf i
  rcases e with _ | _ | (x | ⟨w, l⟩) <;> rfl

theorem exec_load_idle {s : State} {vf i : Nat} (h : (s.adapter vf i).state ≠ 1) : exec (.adapterLoadComplete vf i) s = .next s := by
  show execAdapterLoadComplete vf i s = _
  rw [execAdapterLoadComplete, if_pos h]

end Sys2Proof.Machine
end


section
/-! PROOFS. Patrol scrubbing (R385 to R388): what a visit does for each fate of its line. -/

namespace Sys2Proof.Machine
open Sys2Proof

/-- What a visit finds is what a read meets, where the error is in the HBM copy. -/
theorem exec_scrub {s : State} {half line : Nat} (h : (SMap.get LineErr.none s.mem.latent (half * 2 ^ 29 + line)).copy = 0) :
    exec (.scrubVisit half line) s = .next (s.meetLine (half * 2 ^ 29 + line)) := by
  show execScrubVisit half line s = _
  rw [execScrubVisit, if_pos h]

theorem exec_scrub_copy {s : State} {half line : Nat} (h : (SMap.get LineErr.none s.mem.latent (half * 2 ^ 29 + line)).copy ≠ 0) :
    exec (.scrubVisit half line) s = .next s := by
  show execScrubVisit half line s = _
  rw [execScrubVisit, if_neg h]

/-! ### What a read makes of a line by its fate -/

/-- A line's error is gone, and counted. -/
def State.lineCorrected (s : State) (line : Nat) : State :=
  { s with mem := MemSys.countError { s.mem with latent := SMap.erase s.mem.latent line } (line * 64 / 2 ^ 35) }

/-- The memory where the bits of a line that its code corrects are right. -/
def MemSys.fixLine (m : MemSys) (line : Nat) (fixed : BitVec 512) : MemSys :=
  { m with latent := SMap.upd .none m.latent line fun e => { e with flips := e.flips &&& ~~~fixed } }

/-- The bits of a line that its code corrects are right, and the error is counted. -/
def State.lineFixed (s : State) (line : Nat) (fixed : BitVec 512) : State :=
  { s with mem := (s.mem.fixLine line fixed).countError (line * 64 / 2 ^ 35) }

theorem get_upd_self {α : Type} [DecidableEq α] (d : α) (m : SMap α) (k : Nat) (f : α → α) :
    SMap.get d (SMap.upd d m k f) k = f (SMap.get d m k) := SMap.get_set_self _ _ _ _

section
variable {s : State} {line : Nat}

theorem meetLine_corrected (h : s.mem.fate line = .corrected) : s.meetLine line = s.lineCorrected line := by
  rw [State.meetLine, h]
  rfl

theorem meetLine_lost (h : s.mem.fate line = .lost) : s.meetLine line = s.loseLine line := by
  rw [State.meetLine, h]

theorem meetLine_unseen {w : BitVec 512} (h : s.mem.fate line = .unseen w 0) : s.meetLine line = s := by
  rw [State.meetLine, h]
  exact if_pos rfl

theorem meetLine_fixed {w f : BitVec 512} (h : s.mem.fate line = .unseen w f) (hf : f ≠ 0) : s.meetLine line = s.lineFixed line f := by
  rw [State.meetLine, h]
  exact if_neg hf

end

theorem flips_lineFixed (s : State) (line : Nat) (f : BitVec 512) : (SMap.get LineErr.none (s.lineFixed line f).mem.latent line).flips =
    (SMap.get LineErr.none s.mem.latent line).flips &&& ~~~f := by
  show (SMap.get LineErr.none (SMap.upd .none s.mem.latent line fun e => { e with flips := e.flips &&& ~~~f }) line).flips = _
  rw [get_upd_self]

theorem latent_lineCorrected (s : State) (line : Nat) : (s.lineCorrected line).mem.latent.lookup line = none :=
  (SMap.lookup_erase _ _ _).trans (if_pos rfl)

theorem corrected_lineCorrected (s : State) (line : Nat) : SMap.get (0 : Dword) (s.lineCorrected line).mem.corrected (line * 64 / 2 ^ 35) =
    if SMap.get (0 : Dword) s.mem.corrected (line * 64 / 2 ^ 35) = 0xFFFFFFFFFFFFFFFF then 0xFFFFFFFFFFFFFFFF
    else SMap.get (0 : Dword) s.mem.corrected (line * 64 / 2 ^ 35) + 1 := by
  show SMap.get (0 : Dword) (SMap.upd 0 s.mem.corrected (line * 64 / 2 ^ 35) fun c => if c = 0xFFFFFFFFFFFFFFFF then c else c + 1) _ = _
  rw [get_upd_self]
  split
  · assumption
  · rfl

/-- The bits of a byte that no code sees, from the fate of its line. -/
def LineFate.unseenBits : LineFate → Nat → Byte
  | .unseen e _, pa => e.extractLsb' (8 * (pa % 64)) 8
  | _, _ => 0

theorem unseenAt_eq (m : MemSys) (pa : Nat) : m.unseenAt pa = (m.fate (pa / 64)).unseenBits pa := by
  unfold MemSys.unseenAt
  split
  · next h =>
    rw [MemSys.fate, h]
    rfl
  · cases m.fate (pa / 64) <;> rfl

/-- The fate of a line whose error is gone, and of the others. -/
theorem fate_erase (m : MemSys) (line k : Nat) :
    ({ m with latent := SMap.erase m.latent line } : MemSys).fate k = if k = line then .clean else m.fate k := by
  by_cases h : k = line
  · simp only [MemSys.fate, SMap.lookup_erase, if_pos h]
  · simp only [MemSys.fate, SMap.lookup_erase, if_neg h]

/-- To correct a line changes no byte. -/
theorem unseenAt_lineCorrected {s : State} {line : Nat} (h : s.mem.fate line = .corrected) (pa : Nat) :
    (s.lineCorrected line).mem.unseenAt pa = s.mem.unseenAt pa := by
  have hfate : (s.lineCorrected line).mem.fate (pa / 64) = if pa / 64 = line then .clean else s.mem.fate (pa / 64) :=
    fate_erase s.mem line (pa / 64)
  rw [unseenAt_eq, unseenAt_eq, hfate]
  split
  · next hk => rw [hk, h]; rfl
  · rfl

theorem memorySame_lineCorrected {s : State} {line : Nat} (h : s.mem.fate line = .corrected) : MemorySame s (s.lineCorrected line) := by
  have hbyte : ∀ view agent pa, (s.lineCorrected line).mem.byteAt view agent pa = s.mem.byteAt view agent pa := fun view agent pa => by
    unfold MemSys.byteAt
    rw [unseenAt_lineCorrected h]
    rfl
  exact ⟨hbyte, fun _ _ => rfl, fun _ => rfl⟩

/-! ### A lost line (R387) -/

theorem weightLine_eq (s : State) (line : Nat) : ∃ sec, s.weightLine line = { s with sec := sec } := by
  unfold State.weightLine
  split
  · exact ⟨_, rfl⟩
  · exact ⟨_, rfl⟩

theorem loseLine_spec (s : State) (line : Nat) :
    let t := s.loseLine line
    SMap.get 0 t.mem.poison line = s.mem.nextId + 1 ∧ t.mem.latent.lookup line = none ∧ t.cores = s.cores
      ∧ t.pf.ring.held = s.pf.ring.held ++ [record 0 (Config.eventStatus 0).toNat 0 0 0 (line * 64)] := by
  obtain ⟨sec, hsec⟩ := weightLine_eq { s with mem := s.mem.spoil line } line
  intro t
  have ht : t = ({ s with mem := s.mem.spoil line, sec := sec } : State).postPf 0 (Config.eventStatus 0).toNat 0 0 (line * 64) :=
    congrArg (fun u : State => u.postPf 0 (Config.eventStatus 0).toNat 0 0 (line * 64)) hsec
  rw [ht]
  have hpoison : SMap.get 0 (SMap.set 0 s.mem.poison line (s.mem.nextId + 1)) line = s.mem.nextId + 1 := SMap.get_set_self _ _ _ _
  exact ⟨hpoison, (SMap.lookup_erase _ _ _).trans (if_pos rfl), rfl, rfl⟩

/-! ### A single wrong bit (R378) -/

theorem bitsSet_zero : bitsSet 0 = [] := by simp [bitsSet]

theorem lt_of_mem_bitsSet {f : BitVec 512} {i : Nat} (h : i ∈ bitsSet f) : i < 512 := List.mem_range.mp (List.mem_filter.mp h).1

/-- A code of parity sees an odd number of wrong bits in a word. -/
theorem codeFate_two (f : BitVec 512) : codeFate 2 f =
    if (List.range 8).any fun w => ((bitsSet f).filter fun i => i / 64 == w).length % 2 == 1 then .lost else .unseen f 0 := rfl

/-- A code of the halves corrects up to one wrong bit in each. -/
theorem codeFate_one {f : BitVec 512}
    (hlow : ((bitsSet f).filter (· < 256)).length ≤ 1) (hhigh : ((bitsSet f).filter (256 ≤ ·)).length ≤ 1) : codeFate 1 f = .corrected := by
  have hlost : ¬(((bitsSet f).filter (· < 256)).length = 2 ∨ ((bitsSet f).filter (256 ≤ ·)).length = 2) := by omega
  unfold codeFate
  exact (if_neg hlost).trans (if_pos ⟨hlow, hhigh⟩)

/-- Another code corrects the wrong bits of one symbol. -/
theorem codeFate_other {grade : Nat} {f : BitVec 512} (h1 : grade ≠ 1) (h2 : grade ≠ 2)
    (h : ((bitsSet f).map Config.symbolOf).dedup.length = 1) : codeFate grade f = .corrected := by
  unfold codeFate
  split
  · exact absurd rfl h1
  · exact absurd rfl h2
  · extract_lets beyond bits
    have hbits : (bits.map Config.symbolOf).dedup.length = 1 := h
    rw [hbits]
    rfl

section
variable {f : BitVec 512} {i : Nat} (h : bitsSet f = [i])
include h

theorem codeFate_two_single : codeFate 2 f = .lost := by
  have hi : i < 512 := lt_of_mem_bitsSet (h ▸ List.mem_singleton_self i)
  have hw : i / 64 ∈ List.range 8 := List.mem_range.mpr (by omega)
  rw [codeFate_two, h]
  exact if_pos (List.any_eq_true.mpr ⟨i / 64, hw, by simp⟩)

theorem codeFate_one_single : codeFate 1 f = .corrected :=
  codeFate_one (h ▸ List.length_filter_le _ [i]) (h ▸ List.length_filter_le _ [i])

theorem codeFate_other_single {grade : Nat} (h1 : grade ≠ 1) (h2 : grade ≠ 2) : codeFate grade f = .corrected :=
  codeFate_other h1 h2 (by rw [h]; rfl)

/-- Of a single wrong bit parity loses the line, and every other code corrects it. -/
theorem codeFate_single (grade : Nat) : codeFate grade f = if grade = 2 then .lost else .corrected := by
  by_cases h2 : grade = 2
  · rw [h2, codeFate_two_single h, if_pos rfl]
  · rw [if_neg h2]
    by_cases h1 : grade = 1
    · rw [h1, codeFate_one_single h]
    · exact codeFate_other_single h h1 h2

end

/-- The fate of a line whose HBM copy holds a single wrong bit. -/
theorem fate_single {m : MemSys} {line i : Nat} {e : LineErr} (he : m.latent.lookup line = some e) (hc : e.copy = 0)
    (hb : bitsSet e.flips = [i]) : m.fate line = if (SMap.get 0 m.grade (line / 8192)).toNat = 2 then .lost else .corrected := by
  have hne : e.flips ≠ 0 := fun h0 => by
    rw [h0, bitsSet_zero] at hb
    exact absurd hb (List.cons_ne_nil i []).symm
  simp only [MemSys.fate, he, hc, if_neg hne]
  exact codeFate_single hb _

end Sys2Proof.Machine
end


section
/-! PROOFS. Restoration of weight frames (R389): a write of a whole line that is performed at once, and the lines of a frame one after
another. -/

namespace Sys2Proof.Machine
open Sys2Proof

/-! ### Cells of a line -/

/-- Bytes with their addresses. -/
def cellsFrom (a : Nat) : List Byte → List (Nat × Byte)
  | [] => []
  | b :: t => (a, b) :: cellsFrom (a + 1) t

theorem cellsFrom_zip (a k : Nat) (bs : List Byte) :
    ((List.range' k bs.length).zip bs).map (fun p => (a + p.1, p.2)) = cellsFrom (a + k) bs := by
  induction bs generalizing k with
  | nil => rfl
  | cons b t ih =>
    rw [List.length_cons, List.range'_succ, List.zip_cons_cons, List.map_cons, ih]
    rfl

/-- The numbered bytes of a write, placed. -/
theorem numbered_placed (a : Nat) (bs : List Byte) : (numbered bs).map (fun p => (a + p.1, p.2)) = cellsFrom a bs := by
  rw [numbered, List.range_eq_range']
  exact cellsFrom_zip a 0 bs

theorem length_cellsFrom (a : Nat) (bs : List Byte) : (cellsFrom a bs).length = bs.length := by
  induction bs generalizing a with
  | nil => rfl
  | cons b t ih => rw [cellsFrom, List.length_cons, List.length_cons, ih]

theorem mem_cellsFrom {a : Nat} {bs : List Byte} {c : Nat × Byte} (h : c ∈ cellsFrom a bs) : a ≤ c.1 ∧ c.1 < a + bs.length := by
  induction bs generalizing a with
  | nil => exact absurd h List.not_mem_nil
  | cons b t ih =>
    rw [List.length_cons]
    rcases List.mem_cons.mp h with rfl | h
    · exact ⟨le_rfl, by omega⟩
    · obtain ⟨hl, hu⟩ := ih h
      omega

theorem foldl_set_cellsFrom (m : Memory) (a : Nat) (bs : List Byte) :
    (cellsFrom a bs).foldl (fun (b : Memory) (c : Nat × Byte) => SMap.set (0 : Byte) b c.1 c.2) m = Memory.write m a bs := by
  induction bs generalizing m a with
  | nil => rfl
  | cons b t ih => exact ih _ _

/-- The cells are those of one whole line of HBM. -/
structure WholeLine (line : Nat) (cells : List (Nat × Byte)) : Prop where
  length : cells.length = 64
  onLine : ∀ c ∈ cells, c.1 / 64 = line
  inHbm : line < 2 ^ 34

theorem wholeLine_cellsFrom {line : Nat} {bs : List Byte} (hl : bs.length = 64) (h : line < 2 ^ 34) :
    WholeLine line (cellsFrom (64 * line) bs) := by
  refine ⟨(length_cellsFrom _ _).trans hl, fun c hc => ?_, h⟩
  have := mem_cellsFrom hc
  omega

section
variable {line : Nat} {cells : List (Nat × Byte)} (h : WholeLine line cells)
include h

theorem WholeLine.covers : coversLine cells line = true := by
  have hall : cells.filter (fun c => c.1 / 64 == line) = cells := List.filter_eq_self.mpr fun c hc => beq_iff_eq.mpr (h.onLine c hc)
  rw [coversLine, hall, h.length]
  rfl

theorem WholeLine.head : (cells.head?.map fun c => c.1 / 64).getD 0 = line := by
  match cells, h with
  | [], h => exact absurd h.length (by decide)
  | c :: t, h => exact h.onLine c List.mem_cons_self

/-- A write of one line is not cut. -/
theorem WholeLine.split : splitLines cells = [cells] := by
  have hne : cells ≠ [] := fun h0 => absurd h.length (by rw [h0]; decide)
  have hon := h.onLine
  clear h
  induction cells with
  | nil => exact absurd rfl hne
  | cons c t ih =>
    cases t with
    | nil => rfl
    | cons d t =>
      have hsame : c.1 / 64 = d.1 / 64 := (hon c (by simp)).trans (hon d (by simp)).symm
      have hrest := ih (List.cons_ne_nil d t) fun x hx => hon x (List.mem_cons_of_mem c hx)
      rw [splitLines, List.foldr_cons, ← splitLines, hrest]
      exact if_pos hsame

/-- A write of a whole line takes effect, whatever the line held. -/
theorem WholeLine.effective (m : MemSys) : m.effective cells = cells := by
  unfold MemSys.effective
  refine (List.filterMap_congr fun c hc => ?_).trans List.filterMap_some
  have hline := h.onLine c hc
  have hlt := h.inHbm
  have hregion : regionOf c.1 = .hbm (c.1 / 2 ^ 35) := if_pos (by omega)
  rw [hregion, hline, h.covers, Bool.not_true, Bool.and_false]
  rfl

theorem WholeLine.cleanse (m : MemSys) :
    m.cleanse cells = { m with latent := SMap.erase m.latent line, tagDiff := SMap.erase m.tagDiff line } := by
  simp only [MemSys.cleanse, h.head, h.covers, if_true]

end

/-! ### Writes that clear poison -/

/-- A change of memory that brings no error and no poison. -/
structure Cleaner (m n : MemSys) : Prop where
  latent : n.latent = m.latent
  nextId : n.nextId = m.nextId
  poison : ∀ k, SMap.get 0 n.poison k = SMap.get 0 m.poison k ∨ SMap.get 0 n.poison k = 0

theorem Cleaner.refl (m : MemSys) : Cleaner m m := ⟨rfl, rfl, fun _ => .inl rfl⟩

theorem Cleaner.trans {m n r : MemSys} (h : Cleaner m n) (k : Cleaner n r) : Cleaner m r := by
  refine ⟨k.latent.trans h.latent, k.nextId.trans h.nextId, fun i => ?_⟩
  rcases k.poison i with hk | hk
  · rw [hk]
    exact h.poison i
  · exact .inr hk

theorem cleaner_heal (m : MemSys) (id : Nat) (cells : List (Nat × Byte)) : Cleaner m (m.heal id cells) := by
  unfold MemSys.heal
  dsimp only
  split
  · exact .refl m
  · refine ⟨rfl, rfl, fun k => ?_⟩
    dsimp only
    split
    · rw [SMap.get_set]
      split
      · exact .inr rfl
      · exact .inl rfl
    · exact .inl rfl

/-- A write of a whole line clears the poison that was marked before it. -/
theorem poison_heal {m : MemSys} {id line : Nat} {cells : List (Nat × Byte)} (h : WholeLine line cells)
    (hm : SMap.get 0 m.poison line ≤ id + 1) : SMap.get 0 (m.heal id cells).poison line = 0 := by
  simp only [MemSys.heal, h.head, h.covers, Bool.not_true, Bool.false_eq_true, if_false, if_pos hm, SMap.get_set_self]

theorem base_heal (m : MemSys) (id : Nat) (cells : List (Nat × Byte)) : (m.heal id cells).base = m.base := by
  unfold MemSys.heal
  dsimp only
  split <;> rfl

theorem cleaner_sink (m : MemSys) (id : Nat) (w : WriteRec) : Cleaner m (m.sink id w) := by
  refine Cleaner.trans ?_ (cleaner_heal _ id w.cells)
  exact ⟨rfl, rfl, fun _ => .inl rfl⟩

theorem cleaner_settle (m : MemSys) : Cleaner m m.settle := by
  have h : Cleaner m (m.log.foldl (fun m p => m.sink p.1 p.2) m) :=
    List.foldlRecOn m.log _ (motive := Cleaner m) (.refl m) fun r hr p _ => hr.trans (cleaner_sink r p.1 p.2)
  exact ⟨h.latent, h.nextId, h.poison⟩

theorem settle_log (m : MemSys) : m.settle.log = [] := rfl

theorem settle_base {m : MemSys} (h : m.log = []) : m.settle.base = m.base := by
  unfold MemSys.settle
  rw [h]
  rfl

theorem settle_of_log {m : MemSys} {id : Nat} {w : WriteRec} (h : m.log = [(id, w)]) :
    m.settle = { m.sink id w with log := [], marks := [] } := by
  unfold MemSys.settle
  rw [h]
  rfl

/-- A write of a whole line enters its home's order: the line has no error any more. -/
theorem enter_whole {m : MemSys} {w : WriteRec} {line : Nat} (h : WholeLine line w.cells) :
    (m.enter w).latent = SMap.erase m.latent line ∧ (m.enter w).poison = m.poison := by
  unfold MemSys.enter
  rw [h.effective]
  dsimp only
  rw [h.cleanse]
  split
  · exact ⟨rfl, rfl⟩
  · split <;> exact ⟨rfl, rfl⟩

/-- The memory where a line is written whole and at once. -/
structure Committed (m r : MemSys) (line : Nat) (cells : List (Nat × Byte)) : Prop where
  log : r.log = []
  nextId : r.nextId = m.nextId + 1
  latent : r.latent = SMap.erase m.latent line
  cleared : SMap.get 0 r.poison line = 0
  poison : ∀ k, SMap.get 0 r.poison k = SMap.get 0 m.poison k ∨ SMap.get 0 r.poison k = 0
  base : r.base = cells.foldl (fun (b : Memory) (c : Nat × Byte) => SMap.set (0 : Byte) b c.1 c.2) m.settle.base

/-- The write of one line's cells that a unit outside the cores makes. -/
def unitWrite (a : Agent) (vf : Nat) (cells : List (Nat × Byte)) (ms enc : Bool) : WriteRec :=
  { agent := a, vf := vf, cells := cells, colours := 1, home := homeOf ((cells.head?.map Prod.fst).getD 0) ms, enc := enc, preds := []
    dies := [], chan := none }

theorem commit_of_line {line : Nat} {cells : List (Nat × Byte)} (h : WholeLine line cells) (m : MemSys) (a : Agent) (vf : Nat)
    (ms enc : Bool) : m.commit a vf cells ms enc = (m.settle.enter (unitWrite a vf cells ms enc)).settle := by
  unfold MemSys.commit
  rw [h.split]
  rfl

theorem commit_whole {m : MemSys} {line : Nat} {cells : List (Nat × Byte)} (h : WholeLine line cells)
    (hm : SMap.get 0 m.poison line ≤ m.nextId + 1) (a : Agent) (vf : Nat) (ms enc : Bool) :
    Committed m (m.commit a vf cells ms enc) line cells := by
  have hsettle := cleaner_settle m
  have hcommit := commit_of_line h m a vf ms enc
  obtain ⟨w, hw, hwrite⟩ : ∃ w : WriteRec, w.cells = cells ∧ unitWrite a vf cells ms enc = w := ⟨_, rfl, rfl⟩
  rw [hwrite] at hcommit
  have hwhole : WholeLine line w.cells := hw ▸ h
  obtain ⟨v, hv, -, hlog, hnext, hbase, -⟩ := m.settle.enter_log w
  rw [hwhole.effective, hw] at hv
  obtain ⟨hlatent, hpoison⟩ := enter_whole (m := m.settle) hwhole
  rw [settle_log] at hlog
  have hclean := cleaner_sink (m.settle.enter w) m.settle.nextId v
  rw [hcommit, settle_of_log hlog]
  refine ⟨rfl, ?_, ?_, ?_, fun k => ?_, ?_⟩
  · exact hclean.nextId.trans (hnext.trans (congrArg (· + 1) hsettle.nextId))
  · exact hclean.latent.trans (hlatent.trans (congrArg (SMap.erase · line) hsettle.latent))
  · have hmark : SMap.get 0 (m.settle.enter w).poison line ≤ m.settle.nextId + 1 := by
      rw [hpoison, hsettle.nextId]
      exact (hsettle.poison line).elim (fun hk => hk.trans_le hm) fun hk => hk.trans_le (Nat.zero_le _)
    exact poison_heal (hv ▸ h) hmark
  · have hk := hclean.poison k
    rw [hpoison] at hk
    exact hk.elim (fun hk => hk ▸ hsettle.poison k) .inr
  · show (MemSys.heal _ _ _).base = _
    rw [base_heal, hv, hbase]

/-! ### The poisoned lines of a frame -/

/-- The bytes of a line in the image of its frame. -/
def imageLine (image : List Byte) (line : Nat) : List Byte := (image.drop (64 * (line % 8192))).take 64

/-- A line of a frame is rewritten from the image. -/
def MemSys.rewriteLine (frame : Nat) (image : List Byte) (m : MemSys) (line : Nat) : MemSys :=
  m.commit .management 0 ((numbered (imageLine image line)).map fun p => (64 * line + p.1, p.2)) false (m.frameKey.lookup frame).isSome

theorem rewriteFrame_eq (s : State) (frame : Nat) (image : List Byte) :
    s.rewriteFrame frame image = { s with mem := (s.mem.poisonedOf frame).foldl (MemSys.rewriteLine frame image) s.mem } := by
  have h : ∀ (l : List Nat) (m : MemSys), l.foldl (fun (s : State) line => { s with mem := s.mem.rewriteLine frame image line })
      { s with mem := m } = { s with mem := l.foldl (MemSys.rewriteLine frame image) m } := fun l => by
    induction l with
    | nil => exact fun m => rfl
    | cons line l ih => exact fun m => ih _
  exact h _ s.mem

/-- A line stands as the image has it. -/
structure Restored (image : List Byte) (m : MemSys) (line : Nat) : Prop where
  log : m.log = []
  poison : SMap.get 0 m.poison line = 0
  latent : m.latent.lookup line = none
  bytes : ∀ i, i < 64 → Memory.byte m.base (64 * line + i) = image.getD (64 * (line % 8192) + i) 0

/-- Nothing is poisoned that was not before, and no mark lies ahead of the writes. -/
structure Rewriting (m₀ m : MemSys) : Prop where
  marks : ∀ k, SMap.get 0 m.poison k ≤ m.nextId + 1
  clean : ∀ k, SMap.get 0 m₀.poison k = 0 → SMap.get 0 m.poison k = 0

section
variable {image : List Byte} {frame : Nat} (himage : image.length = 2 ^ 19) (hframe : frame < 2 ^ 21)
include himage

theorem length_imageLine (line : Nat) : (imageLine image line).length = 64 := by
  rw [imageLine, List.length_take, List.length_drop, himage]
  omega

theorem getElem_imageLine (line i : Nat) (h : i < (imageLine image line).length) :
    (imageLine image line)[i] = image.getD (64 * (line % 8192) + i) 0 := by
  have hi : i < 64 := h.trans_eq (length_imageLine himage line)
  have hlt : 64 * (line % 8192) + i < image.length := by rw [himage]; omega
  simp only [imageLine, List.getElem_take, List.getElem_drop, List.getD_eq_getElem?_getD, List.getElem?_eq_getElem hlt, Option.getD_some]

include hframe

theorem committed_rewriteLine {m : MemSys} {line : Nat} (hline : line / 8192 = frame) (hm : SMap.get 0 m.poison line ≤ m.nextId + 1) :
    Committed m (m.rewriteLine frame image line) line (cellsFrom (64 * line) (imageLine image line)) := by
  rw [MemSys.rewriteLine, numbered_placed]
  exact commit_whole (wholeLine_cellsFrom (length_imageLine himage line) (by omega)) hm _ _ _ _

/-- A rewritten line stands as the image has it. -/
theorem restored_rewriteLine {m : MemSys} {line : Nat} (hline : line / 8192 = frame) (hm : SMap.get 0 m.poison line ≤ m.nextId + 1) :
    Restored image (m.rewriteLine frame image line) line := by
  have h := committed_rewriteLine himage hframe hline hm
  refine ⟨h.log, h.cleared, ?_, fun i hi => ?_⟩
  · rw [h.latent, SMap.lookup_erase, if_pos rfl]
  · rw [h.base, foldl_set_cellsFrom, Memory.byte_write_inside _ _ _ i (hi.trans_eq (length_imageLine himage line).symm),
      getElem_imageLine himage]

/-- The rewrite of another line leaves a restored one. -/
theorem restored_rewriteLine_of_ne {m : MemSys} {line k : Nat} (hline : line / 8192 = frame)
    (hm : SMap.get 0 m.poison line ≤ m.nextId + 1) (hne : k ≠ line) (hk : Restored image m k) :
    Restored image (m.rewriteLine frame image line) k := by
  have h := committed_rewriteLine himage hframe hline hm
  refine ⟨h.log, ?_, ?_, fun i hi => ?_⟩
  · exact (h.poison k).elim (fun he => he.trans hk.poison) id
  · rw [h.latent, SMap.lookup_erase, if_neg hne, hk.latent]
  · have hout : 64 * k + i < 64 * line ∨ 64 * line + (imageLine image line).length ≤ 64 * k + i := by
      rw [length_imageLine himage]
      omega
    rw [h.base, foldl_set_cellsFrom, Memory.byte_write_outside _ _ _ _ hout, settle_base hk.log, hk.bytes i hi]

theorem rewriting_rewriteLine {m₀ m : MemSys} {line : Nat} (hline : line / 8192 = frame) (hm : Rewriting m₀ m) :
    Rewriting m₀ (m.rewriteLine frame image line) := by
  have h := committed_rewriteLine himage hframe hline (hm.marks line)
  refine ⟨fun k => ?_, fun k hk => ?_⟩
  · rw [h.nextId]
    rcases h.poison k with he | he <;> rw [he]
    · exact (hm.marks k).trans (Nat.le_succ _)
    · exact Nat.zero_le _
  · exact (h.poison k).elim (fun he => he.trans (hm.clean k hk)) id

/-- Every line of a list is restored, whatever the order. -/
theorem restored_rewriteLines {m₀ : MemSys} (l : List Nat) (hl : ∀ k ∈ l, k / 8192 = frame) {m : MemSys} (hm : Rewriting m₀ m) :
    Rewriting m₀ (l.foldl (MemSys.rewriteLine frame image) m)
      ∧ ∀ k, k ∈ l ∨ Restored image m k → Restored image (l.foldl (MemSys.rewriteLine frame image) m) k := by
  induction l generalizing m with
  | nil => exact ⟨hm, fun k hk => hk.elim (fun h => absurd h List.not_mem_nil) id⟩
  | cons line l ih =>
    have hline := hl line List.mem_cons_self
    obtain ⟨hrew, hres⟩ := ih (fun k hk => hl k (List.mem_cons_of_mem line hk)) (rewriting_rewriteLine himage hframe hline hm)
    refine ⟨hrew, fun k hk => hres k ?_⟩
    by_cases he : k = line
    · subst he
      exact .inr (restored_rewriteLine himage hframe hline (hm.marks k))
    · rcases hk with hk | hk
      · exact .inl ((List.mem_cons.mp hk).resolve_left he)
      · exact .inr (restored_rewriteLine_of_ne himage hframe hline (hm.marks line) he hk)

end

/-- A restored line as the home reads it. -/
theorem Restored.byteAt {image : List Byte} {m : MemSys} {line : Nat} (h : Restored image m line) {i : Nat} (hi : i < 64) :
    m.byteAt none none (64 * line + i) = image.getD (64 * (line % 8192) + i) 0 := by
  have hl : (64 * line + i) / 64 = line := by omega
  have hnone : ∀ a : Agent, ((none : Option Agent) == some a) = false := fun _ => rfl
  have hunseen : m.unseenAt (64 * line + i) = 0 := by
    rw [unseenAt_eq, hl, fate_of_no_error h.latent]
    rfl
  simp only [MemSys.byteAt, h.log, List.foldl_nil, hunseen, hnone, Bool.false_eq_true, if_false, List.foldl_fixed, h.bytes i hi]
  exact BitVec.xor_zero

theorem mem_poisonedOf {m : MemSys} {frame line : Nat} : line ∈ m.poisonedOf frame → line / 8192 = frame := by
  unfold MemSys.poisonedOf
  simp only [List.mem_map, List.mem_filter, Bool.and_eq_true, beq_iff_eq]
  rintro ⟨p, ⟨-, -, hp⟩, rfl⟩
  exact hp

theorem mem_poisonedOf_of_get {m : MemSys} {frame line : Nat} (hline : line / 8192 = frame) (h : SMap.get 0 m.poison line ≠ 0) :
    line ∈ m.poisonedOf frame := by
  unfold SMap.get at h
  cases hl : m.poison.lookup line with
  | none => rw [hl] at h; exact absurd rfl h
  | some v =>
    rw [hl] at h
    obtain ⟨l₁, l₂, he, -⟩ := List.lookup_eq_some_iff.mp hl
    have hmem : (line, v) ∈ m.poison := by rw [he]; simp
    refine List.mem_map.mpr ⟨(line, v), List.mem_filter.mpr ⟨hmem, ?_⟩, rfl⟩
    rw [Bool.and_eq_true, bne_iff_ne, beq_iff_eq]
    exact ⟨h, hline⟩

/-- A frame whose poisoned lines are rewritten: no line of it is poisoned, and those lines hold the image. -/
theorem rewriteFrame_restores {s : State} {frame : Nat} {image : List Byte} (himage : image.length = 2 ^ 19) (hframe : frame < 2 ^ 21)
    (hmarks : ∀ line, SMap.get 0 s.mem.poison line ≤ s.mem.nextId + 1) :
    let m := (s.rewriteFrame frame image).mem
    (∀ line, line / 8192 = frame → SMap.get 0 m.poison line = 0)
      ∧ ∀ line i, line / 8192 = frame → SMap.get 0 s.mem.poison line ≠ 0 → i < 64 →
        m.byteAt none none (64 * line + i) = image.getD (64 * (line % 8192) + i) 0 := by
  obtain ⟨hrew, hres⟩ := restored_rewriteLines (image := image) himage hframe (s.mem.poisonedOf frame) (fun k hk => mem_poisonedOf hk)
    (m := s.mem) ⟨hmarks, fun _ => id⟩
  rw [rewriteFrame_eq]
  refine ⟨fun line hline => ?_, fun line i hline hp hi => ?_⟩
  · by_cases hp : SMap.get 0 s.mem.poison line = 0
    · exact hrew.clean line hp
    · exact (hres line (.inl (mem_poisonedOf_of_get hline hp))).poison
  · exact (hres line (.inl (mem_poisonedOf_of_get hline hp))).byteAt hi

end Sys2Proof.Machine
end


section
/-! PROOFS. Landings (R382 to R384, R448), and the obligation of the units behind the cores. -/

namespace Sys2Proof.Machine
open Sys2Proof

/-! ### Reduction packets -/

/-- The answer of a REDUCE: no data slot, so that nothing of it is poisoned (R447, R448). -/
def reduceAck (m : LinkMsg) (code : Nat) : Byte × LinkMsg :=
  (0x08, { m with
    vc := 1, poison := false, acquire := false, release := false, flag3 := false, code := BitVec.ofNat 8 code, addr := 0, body := 0 })

/-- An answer leaves through a port. -/
def State.sendAnswer (s : State) (port : Nat) (r : Byte × LinkMsg) : State := s.updPort port fun p => { p with out := p.out ++ [r] }

theorem respond_reduce (s : State) (port : Nat) (m : LinkMsg) (code : Nat) : s.respond port 0x08 m code 0 = s.sendAnswer port (reduceAck m code) := by
  have hslots : msgSlots (0x08 : Byte).toNat m.size.toNat 0 = 1 := rfl
  simp only [State.respond, hslots, bne_self_eq_false, Bool.and_false, ite_self]
  rfl

theorem out_sendAnswer (s : State) (port : Nat) (r : Byte × LinkMsg) : ((s.sendAnswer port r).port port).out = (s.port port).out ++ [r] := by
  show (SMap.get Port.init (SMap.upd .init s.ports port fun p => { p with out := p.out ++ [r] }) port).out = _
  rw [get_upd_self]
  rfl

section
variable {s : State} {port : Nat} {m : LinkMsg} (hdown : (s.port port).down = false) (hfirst : m.first = false)
  (hseq : m.seq = (s.port port).rxSeq)
include hdown hfirst hseq

/-- A message in the order of its flits is taken. -/
theorem receive_next (f : State → State) : s.receive port m f = f s := by
  simp only [State.receive, hdown, hfirst, hseq, Bool.false_eq_true, if_false, if_true]

theorem exec_reduce : exec (.reduce port m) s = .next (s.peerReduce port m) :=
  congrArg Host.Outcome.next (receive_next hdown hfirst hseq _)

end

theorem peerReduce_refused {s : State} {port : Nat} {m : LinkMsg} (h : (s.exported m).1 = 0) :
    s.peerReduce port m = s.sendAnswer port (reduceAck m 2) := by
  simp only [State.peerReduce, h, if_true]
  exact respond_reduce s port m 2

theorem peerReduce_lands {s : State} {port : Nat} {m : LinkMsg} (h : (s.exported m).1 ≠ 0) :
    s.peerReduce port m = (s.land (packetOf m (s.exported m).1)).sendAnswer port (reduceAck m 0) := by
  simp only [State.peerReduce, if_neg h]
  exact respond_reduce _ port m 0

/-- A packet for an entry that cannot be read is dropped. -/
theorem land_unread {s b : State} {p : ReducePkt} (h : s.landEntry p.vf p.landing.toNat = (b, none)) :
    s.land p = b.postRing0 p.vf 0x8D 3 p.landing.toNat := by
  simp only [State.land, h]

/-- A landing with one more contribution. -/
def Landing.joined (g : Landing) (p : ReducePkt) : Landing := { g with parts := g.parts ++ [(p.line.toNat, p.rank.toNat, p.data)] }

/-- A landing with one more line complete. -/
def Landing.completed (g : Landing) (line : Nat) : Landing := { g with complete := line :: g.complete }

/-- A packet whose data are good joins its line, which is written with its last contribution. -/
theorem landPart_good {s : State} {vf n half : Nat} {g : Landing} {p : ReducePkt} (h : p.poison = false) : s.landPart vf n half g p =
    if ((g.joined p).ofLine p.line.toNat).length < landK g.entry then s.setLanding vf n (g.joined p)
    else
      let g' := (g.joined p).completed p.line.toNat
      let d := (s.landWrite vf half (g.joined p) p.line.toNat).setLanding vf n g'
      if g'.complete.length < landLines g.entry then d else d.landFinish vf half g' := by
  simp only [State.landPart, h, Bool.false_eq_true, if_false]
  rfl

/-- A packet that no rule drops. -/
theorem land_joins {s b c : State} {p : ReducePkt} {e : List Byte} {g : Landing} {half : Nat}
    (hentry : s.landEntry p.vf p.landing.toNat = (b, some e)) (hepoch : landEpoch e = p.epoch)
    (hopen : (b.landForget p.vf p.landing.toNat p.epoch).landOpen p e = some g)
    (hhalf : (b.landForget p.vf p.landing.toNat p.epoch).landHalf p.vf g.entry = (c, some half))
    (hrank : p.rank.toNat < landK g.entry) (hline : p.line.toNat < landLines g.entry)
    (hnew : ∀ q ∈ g.parts, ¬(q.1 = p.line.toNat ∧ q.2.1 = p.rank.toNat)) :
    s.land p = c.landPart p.vf p.landing.toNat half g p := by
  have hrange : ¬(landK g.entry ≤ p.rank.toNat ∨ landLines g.entry ≤ p.line.toNat) := by omega
  have hany : (g.parts.any fun q => q.1 == p.line.toNat && q.2.1 == p.rank.toNat) = false := by
    rw [List.any_eq_false]
    intro q hq
    rw [Bool.and_eq_true, beq_iff_eq, beq_iff_eq]
    exact hnew q hq
  simp only [State.land, hentry, hepoch, hopen, hhalf, ne_eq, not_true_eq_false, if_false, if_neg hrange, hany, Bool.false_eq_true]

/-! ### Restoration (R389) -/

/-- A frame is neither to be restored nor checked. -/
def State.afterRestore (s : State) (f : Nat) : State :=
  { s with sec := { s.sec with
    restoring := SMap.set false s.sec.restoring f false, checked := SMap.set false s.sec.checked f false } }

theorem afterRestore_flags (s : State) (f : Nat) :
    SMap.get false (s.afterRestore f).sec.restoring f = false ∧ SMap.get false (s.afterRestore f).sec.checked f = false := by
  have hset : ∀ m : SMap Bool, SMap.get false (SMap.set false m f false) f = false := fun m => SMap.get_set_self false m f false
  exact ⟨hset s.sec.restoring, hset s.sec.checked⟩

/-- The image of a frame agrees with its leaf and the measured root, and is whole. -/
def State.imageGood (s : State) (frame : Nat) (image : List Byte) : Prop :=
  s.sec.leaves.lookup frame = some (Config.sha512 image) ∧ s.sec.pathOk 16 0 frame = true ∧ image.length = 2 ^ 19

theorem exec_restore_none {s : State} {frame : Nat} (h : s.sec.weightFrames.lookup frame = none) :
    exec (.weightRestore frame) s = .next s := by
  show execWeightRestore frame s = _
  simp only [execWeightRestore, h]

section
variable {s : State} {frame f : Nat} (h : s.sec.weightFrames.lookup frame = some f)
include h

theorem exec_restore_good {image : List Byte} (hcopy : Config.hostCopy frame = some image) (hgood : s.imageGood frame image) :
    exec (.weightRestore frame) s = .next ((s.afterRestore f).rewriteFrame f image) := by
  show execWeightRestore frame s = _
  simp only [execWeightRestore, h, hcopy]
  exact if_pos hgood

/-- Without a good image an event of the PF tells so. -/
theorem exec_restore_fails (hbad : ∀ image, Config.hostCopy frame = some image → ¬s.imageGood frame image) :
    exec (.weightRestore frame) s = .next ((s.afterRestore f).postPf 0 (Config.eventStatus 1).toNat 0 frame (f * 2 ^ 19)) := by
  show execWeightRestore frame s = _
  cases hcopy : Config.hostCopy frame with
  | none =>
    simp only [execWeightRestore, h, hcopy]
    rfl
  | some image =>
    simp only [execWeightRestore, h, hcopy]
    exact if_neg (hbad image hcopy)

end

/-- A restoration ends with a good image, or without one. -/
theorem restore_ends {s : State} {frame f : Nat} (h : s.sec.weightFrames.lookup frame = some f) :
    ∃ t, exec (.weightRestore frame) s = .next t
      ∧ SMap.get false t.sec.restoring f = false ∧ SMap.get false t.sec.checked f = false ∧ t.cores = s.cores
      ∧ ((∀ image, Config.hostCopy frame = some image → ¬s.imageGood frame image) →
          t.mem = s.mem ∧ t.pf.ring.held = s.pf.ring.held ++ [record 0 (Config.eventStatus 1).toNat 0 0 frame (f * 2 ^ 19)])
      ∧ ∀ image, Config.hostCopy frame = some image → s.imageGood frame image →
          t = (s.afterRestore f).rewriteFrame f image := by
  obtain ⟨hrestoring, hchecked⟩ := afterRestore_flags s f
  by_cases hbad : ∀ image, Config.hostCopy frame = some image → ¬s.imageGood frame image
  · exact ⟨_, exec_restore_fails h hbad, hrestoring, hchecked, rfl, fun _ => ⟨rfl, rfl⟩,
      fun image hcopy hgood => absurd hgood (hbad image hcopy)⟩
  · push Not at hbad
    obtain ⟨image, hcopy, hgood⟩ := hbad
    refine ⟨_, exec_restore_good h hcopy hgood, ?_⟩
    rw [rewriteFrame_eq]
    refine ⟨hrestoring, hchecked, rfl, fun hno => absurd hgood (hno image hcopy), fun image' hcopy' _ => ?_⟩
    obtain rfl : image = image' := Option.some.inj (hcopy.symm.trans hcopy')
    exact (rewriteFrame_eq _ f image).symm

/-! ### The obligation -/

/-- A fill of a core's slot (R204, R213). -/
theorem region_fill_ends {s : State} {die ticket slot c : Nat} {e : PEntry} (hl : (s.die die).tickets.lookup ticket = some (.probe (some c) slot))
    (he : s.pentry (.region c) slot = e) (hstate : e.state = 1) (hticket : e.ticket = ticket) (hhome : dieOf c = die) :
    (∀ b bytes pa, s.fillBytes die e.vf e.handle e.tile false = .ok (b, bytes, pa) →
      ∃ t, exec (.probeFillComplete die ticket) s = .next t ∧ (t.die die).tickets.lookup ticket = none ∧ t.mem = b.mem
        ∧ (b.pinvWaits (.region c) slot = true → e.pins = 0 → t.pentry (.region c) slot = PEntry.init)
        ∧ (b.pinvWaits (.region c) slot = false → t.pentry (.region c) slot = { e with state := 2, ticket := 0 })
        ∧ (t.core c).sp = Memory.write (b.core c).sp ((b.core c).spBytes - (b.core c).prBytes + slot * (b.core c).slotBytes) bytes)
    ∧ ∀ x, s.fillBytes die e.vf e.handle e.tile false = .error (.trap x) →
      let u := (s.applySides x.sides).dropReads (fillAgent die e.vf)
      u.pinvWaits (.region c) slot = false → ∃ t, exec (.probeFillComplete die ticket) s = .next t ∧ t.mem = u.mem
        ∧ t.pentry (.region c) slot = { e with state := 3, ticket := 0, cause := x.code } ∧ (t.die die).tickets.lookup ticket = none := by
  subst hhome
  have hexec := exec_fill_region hl (he ▸ hstate) (he ▸ hticket)
  refine ⟨fun b bytes pa h => ?_, fun x h => ?_⟩
  · rw [endFill_region he h, hticket] at hexec
    refine ⟨_, hexec, ticket_filled _ _ _ _ _, mem_filled _ _ _ _ _, fun hw hp => ?_, fun hw => ?_, ?_⟩
    · exact pentry_filled_awaited ticket ((pinvWaits_slotted b c slot bytes).trans hw) hp
    · exact pentry_filled_kept ticket (.inl ((pinvWaits_slotted b c slot bytes).trans hw))
    · rw [sp_filled, sp_slotted]
  · intro u hw
    rw [endFill_region_traps he h, hticket] at hexec
    exact ⟨_, hexec, mem_filled _ _ _ _ _, pentry_filled_kept ticket (.inl hw), ticket_filled _ _ _ _ _⟩

/-- A fill of a die's slot that no quota counts (R204, R213). -/
theorem die_fill_ends {s : State} {die ticket slot : Nat} {e : PEntry} (hl : (s.die die).tickets.lookup ticket = some (.probe none slot))
    (he : s.pentry (.die die) slot = e) (hstate : e.state = 1) (hticket : e.ticket = ticket) (hcount : s.fillCounted e = false) :
    (∀ b bytes pa, s.fillBytes die e.vf e.handle e.tile true = .ok (b, bytes, pa) →
      ∃ t, exec (.probeFillComplete die ticket) s = .next t ∧ (t.die die).tickets.lookup ticket = none ∧ t.mem = b.mem
        ∧ (b.pinvWaits (.die die) slot = true → e.pins = 0 → t.pentry (.die die) slot = PEntry.init)
        ∧ (b.pinvWaits (.die die) slot = false ∨ e.pins ≠ 0 →
            t.pentry (.die die) slot = { e with state := 2, ticket := 0, frame := pa / 2 ^ 19, bytes := keptBytes pa bytes }))
    ∧ ∀ x, s.fillBytes die e.vf e.handle e.tile true = .error (.trap x) →
      let u := (s.applySides x.sides).dropReads (fillAgent die e.vf)
      u.pinvWaits (.die die) slot = false → ∃ t, exec (.probeFillComplete die ticket) s = .next t ∧ t.mem = u.mem
        ∧ t.pentry (.die die) slot = { e with state := 3, ticket := 0, cause := x.code } ∧ (t.die die).tickets.lookup ticket = none := by
  have hexec := exec_fill_die hl (he ▸ hstate) (he ▸ hticket) (he ▸ hcount)
  refine ⟨fun b bytes pa h => ?_, fun x h => ?_⟩
  · rw [endFill_die he h, hticket] at hexec
    exact ⟨_, hexec, ticket_filled _ (.die die) _ _ _, mem_filled _ _ _ _ _, fun hw hp => pentry_filled_awaited ticket hw hp,
      fun hw => pentry_filled_kept ticket hw⟩
  · intro u hw
    rw [endFill_die_traps he h, hticket] at hexec
    exact ⟨_, hexec, mem_filled _ _ _ _ _, pentry_filled_kept ticket (.inl hw), ticket_filled _ (.die die) _ _ _⟩

/-- A load ends LOADED (R361). -/
theorem loadLeft_whole (s c : State) (vf i : Nat) : (s.loadLeft vf i (c, .whole)).adapter vf i = { c.adapter vf i with state := 2, copied := 0 }
    ∧ (s.loadLeft vf i (c, .whole)).mem = c.mem := ⟨adapter_endLoad c vf i 2, mem_endLoad c vf i 2⟩

theorem loadRun_stopped {s : State} {vf i : Nat} {e : Stop} (h : s.loadPlan vf i = .error e) : s.loadRun vf i = (s, .stopped e) := by
  rw [State.loadRun, h]

theorem loadRun_planned {s c : State} {vf i : Nat} {l : List (Dword × Nat)} (h : s.loadPlan vf i = .ok (c, l)) : s.loadRun vf i =
    c.loadPages vf i (s.adapter vf i).back.toNat (s.adapter vf i).copied (l.drop (s.adapter vf i).copied) := by
  rw [State.loadRun, h]

/-- A new millisecond begins, or the quota goes on (R361). -/
theorem quotaTick (s : State) (vf : Nat) : ∃ t, exec (.adapterFillQuotaTick vf) s = .next t
    ∧ ((s.vf vf).fillStart / msCycles < s.tb / msCycles →
        t.vf vf = { s.vf vf with fillUsed := 0, fillStart := s.tb } ∧ t = { s with vfs := t.vfs })
    ∧ (s.tb / msCycles ≤ (s.vf vf).fillStart / msCycles → t = s) := by
  by_cases h : (s.vf vf).fillStart / msCycles < s.tb / msCycles
  · exact ⟨_, if_pos h, fun _ => ⟨State.vf_updVf_self _ _ _, rfl⟩, fun hle => absurd h (not_lt.mpr hle)⟩
  · exact ⟨_, if_neg h, fun hlt => absurd hlt h, fun _ => rfl⟩

/-- Settles O48: each unit by how its work ends. -/
theorem unitEvents : Obligations.UnitEvents := by
  unfold Obligations.UnitEvents
  refine ⟨fun s die ticket slot core hl => ?_, fun s vf i => ?_, fun s half line => ?_, fun s frame => ?_, fun s port m hdown hfirst hseq => ?_⟩
  · intro t0 e fill hstate hticket hhome
    cases core with
    | some c =>
      obtain ⟨hfills, htraps⟩ := region_fill_ends hl rfl hstate hticket hhome
      refine ⟨fun h => absurd h (Option.some_ne_none c), fun _ => ⟨fun b bytes pa h => ?_, htraps⟩⟩
      obtain ⟨t, hexec, hgone, hmem, hinit, hkept, hsp⟩ := hfills b bytes pa h
      refine ⟨t, hexec, hgone, hmem, hinit, fun h => absurd h (Option.some_ne_none c), fun c' hc => ?_⟩
      obtain rfl : c = c' := Option.some.inj hc
      exact ⟨hkept, hsp⟩
    | none =>
      refine ⟨fun _ hcount hroom => exec_fill_quota hl hstate hticket hcount hroom, fun hcount => ?_⟩
      obtain ⟨hfills, htraps⟩ := die_fill_ends hl rfl hstate hticket (hcount rfl)
      refine ⟨fun b bytes pa h => ?_, htraps⟩
      obtain ⟨t, hexec, hgone, hmem, hinit, hkept⟩ := hfills b bytes pa h
      exact ⟨t, hexec, hgone, hmem, hinit, fun _ => hkept, fun c hc => absurd hc.symm (Option.some_ne_none c)⟩
  · intro e fails
    have ends : ∀ r, e.state = 1 → s.loadRun vf i = r → exec (.adapterLoadComplete vf i) s = .next (s.loadLeft vf i r) :=
      fun r he hr => hr ▸ exec_load he
    refine ⟨exec_load_idle, fun he x h => ?_, fun he w l h => ends _ he (loadRun_stopped h), fun he c l h => ?_, quotaTick s vf⟩
    · exact ⟨_, ends _ he (loadRun_stopped h), failLoad_spec s s vf i x⟩
    · intro run
      have hrun : ∀ r, run.2 = r → s.loadRun vf i = (run.1, r) := fun r hr => (loadRun_planned h).trans (hr ▸ rfl)
      refine ⟨fun hl => ?_, fun hr => ?_, fun hr => ends _ he (hrun _ hr), fun x hr => ?_, fun w sides hr => ends _ he (hrun _ hr)⟩
      · have hdone : s.loadRun vf i = (c, .whole) := by
          rw [loadRun_planned h, List.drop_eq_nil_of_le hl]
          rfl
        exact ⟨_, ends _ he hdone, loadLeft_whole s c vf i⟩
      · exact ⟨_, ends _ he (hrun _ hr), loadLeft_whole s run.1 vf i⟩
      · exact ⟨_, ends _ he (hrun _ hr), failLoad_spec run.1 s vf i x⟩
  · intro l visits
    have meets : ∀ n, (SMap.get LineErr.none s.mem.latent l).copy = 0 → s.meetLine l = n → exec (.scrubVisit half line) s = .next n :=
      fun n hc hn => hn ▸ exec_scrub hc
    refine ⟨exec_scrub_copy, fun hc hf => meets _ hc (meetLine_clean hf), fun w hc hf => meets _ hc (meetLine_unseen hf),
      fun w f hc hf hne => ?_, fun hc hf hlt => ?_, fun hc hf => ?_, fun e i he hc hb => fate_single he hc hb⟩
    · exact ⟨_, meets _ hc (meetLine_fixed hf hne), rfl, rfl, flips_lineFixed s l f⟩
    · have hhalf : l * 64 / 2 ^ 35 = half := by omega
      have hcount := corrected_lineCorrected s l
      rw [hhalf] at hcount
      exact ⟨_, meets _ hc (meetLine_corrected hf), memorySame_lineCorrected hf, latent_lineCorrected s l, rfl, hcount⟩
    · obtain ⟨hpoison, hlatent, hcores, hheld⟩ := loseLine_spec s l
      rw [Nat.mul_comm l 64] at hheld
      exact ⟨_, meets _ hc (meetLine_lost hf), hpoison, hlatent, hcores, hheld⟩
  · refine ⟨exec_restore_none, fun f h => ?_⟩
    obtain ⟨t, hexec, hrestoring, hchecked, hcores, hfails, hgood⟩ := restore_ends h
    refine ⟨t, hexec, hrestoring, hchecked, hcores, fun hbad => hfails fun image hcopy hg => ?_, fun image hcopy hleaf hpath hlen hf hmarks => ?_⟩
    · obtain ⟨hleaf, hpath, hlen⟩ := hg
      rcases hbad image hcopy with hb | hb | hb
      · exact hb hleaf
      · exact Bool.false_ne_true (hb.symm.trans hpath)
      · exact hb hlen
    · have ht := hgood image hcopy ⟨hleaf, hpath, hlen⟩
      have hrestored := rewriteFrame_restores (s := s.afterRestore f) hlen hf hmarks
      rw [← ht] at hrestored
      refine ⟨?_, hrestored⟩
      rw [ht, rewriteFrame_eq]
      rfl
  · intro vf ack
    have hexec := exec_reduce hdown hfirst hseq
    refine ⟨fun h => ?_, fun h => ?_, fun h => ?_⟩
    · rw [peerReduce_refused h] at hexec
      exact ⟨_, hexec, out_sendAnswer _ _ _, rfl⟩
    · rw [peerReduce_lands h] at hexec
      exact ⟨_, hexec, out_sendAnswer _ _ _, rfl⟩
    · intro p n
      refine ⟨fun b hb => land_unread hb, fun b e g c half hentry hepoch hopen hhalf hrank hline hnew hpoison => ?_⟩
      intro g' g''
      have hland : s.land p = c.landPart vf n half g p := land_joins hentry hepoch hopen hhalf hrank hline hnew
      rw [hland, landPart_good hpoison]
      exact ⟨fun hlt => if_pos hlt, fun hle => if_neg (not_lt.mpr hle)⟩

end Sys2Proof.Machine
end


section
/-! PROOFS. hview, hqry and hchk (R238 to R240): what a query answers once its handle dereferences (R232), the trap that it takes after
its accesses (R222, R417), and the causes that hchk reports. -/

namespace Sys2Proof.Machine
open Sys2Proof

/-! ### What the accesses of a stop leave of a stream's handler (R77, R90, R222) -/

theorem cfg_seenRings (s t : State) (v : Nat) : ((s.seenRings t).vf v).cfg = (s.vf v).cfg :=
  List.foldlRecOn t.vfs _ (motive := fun (r : State) => (r.vf v).cfg = (s.vf v).cfg) rfl fun r hr w _ => by
    by_cases h : v = w.1
    · rw [← hr, h, State.vf_updVf_self]
    · rw [State.vf_updVf_ne _ _ _ _ h, hr]

theorem cores_seenRings (s t : State) : (s.seenRings t).cores = s.cores :=
  List.foldlRecOn t.vfs _ (motive := fun (r : State) => r.cores = s.cores) rfl fun _ hr _ _ => hr

theorem seenEntries_outside_dies (s t : State) : (s.seenEntries t).vfs = s.vfs ∧ (s.seenEntries t).cores = s.cores :=
  List.foldlRecOn s.dies _ (motive := fun (r : State) => r.vfs = s.vfs ∧ r.cores = s.cores) ⟨rfl, rfl⟩ fun _ hr _ _ => hr

theorem vfs_seenCores (s t : State) : (s.seenCores t).vfs = s.vfs :=
  List.foldlRecOn t.cores _ (motive := fun (r : State) => r.vfs = s.vfs) rfl fun _ hr _ _ => hr

theorem vfid_seenCores (s t : State) (k : Nat) : ((s.seenCores t).core k).vfid = (s.core k).vfid :=
  List.foldlRecOn t.cores _ (motive := fun (r : State) => (r.core k).vfid = (s.core k).vfid) rfl fun r hr c _ => by
    by_cases h : k = c.1
    · rw [← hr, h, State.core_updCore_self]
      rfl
    · rw [State.core_updCore_ne _ _ _ _ h, hr]

theorem cfg_keepSeen (s t : State) (v id : Nat) : (s.keepSeen t).cfg v id = s.cfg v id := by
  have hvf : ((s.keepSeen t).vf v).cfg = (s.vf v).cfg := by
    rw [keepSeen_eq, State.vf, vfs_seenCores, (seenEntries_outside_dies _ t).1]
    exact cfg_seenRings _ t v
  rw [State.cfg, hvf]
  rfl

theorem vfid_keepSeen (s t : State) (k : Nat) : ((s.keepSeen t).core k).vfid = (s.core k).vfid := by
  rw [keepSeen_eq, vfid_seenCores, State.core, (seenEntries_outside_dies _ t).2, cores_seenRings]
  rfl

/-- While a core lasts, its streams stay in their modes. -/
theorem Lasts.mode_eq {s t : State} (h : Lasts s t) (k : Nat) (x : Bool) : ((t.core k).stream x).mode = ((s.core k).stream x).mode := by
  obtain ⟨-, -, -, hlasting⟩ := h
  obtain ⟨hC, hX, -, -⟩ := lasting_iff.mp (hlasting k)
  cases x
  · exact (congrArg Stream.mode hC :)
  · exact (congrArg Stream.mode hX :)

/-- A stream that can take a trap can take one after its accesses. -/
theorem mayTrap_keepSeen {s : State} (t : State) (h : s.mayTrap) : (s.keepSeen t).mayTrap := by
  obtain ⟨hcur, hx, -⟩ := lasts_keepSeen s t
  obtain ⟨hmode, hhandler⟩ := h
  rw [State.mayTrap, State.canTrap, hcur, hx, (lasts_keepSeen s t).mode_eq, vfid_keepSeen, State.noHandler, cfg_keepSeen, cfg_keepSeen]
  exact ⟨hmode, hhandler⟩

/-! ### Traps that show a handle, after accesses (R222, R417) -/

/-- The stream that executes takes a precise trap on a handle, which eval and the fault record show, in the state `b` that its accesses
left. -/
def TrapsHandle (s b t : State) (code : Byte) (h : Dword) : Prop :=
  t.issue = .trapped ∧ TookTrap b t s.cur s.curX code h 0 { plainRec s.curX code with hand := h }

/-- The fault record of a trap that shows a handle, which is one of those that write a whole record. -/
theorem shown_hand {code : Byte} (h : recorded code = true) (val hd : Dword) (sides : List Side) (x : Bool) :
    (Trap.mk code val { FaultRec.zero with hand := hd } sides).shown x = { plainRec x code with hand := hd } := by
  simp only [Trap.shown, h, if_true]
  rfl

/-- A stop on a handle, after accesses that left the state `q`, is that trap. -/
theorem settled_trapsHandle {s q : State} {r : Except Stop State} {code : Byte} {h : Dword} (hm : s.mayTrap)
    (hr : r = q.onward (trapHand code h)) (hrec : recorded code = true) (h71 : code ≠ 0x71) (h72 : code ≠ 0x72) :
    TrapsHandle s (s.keepSeen q) (s.settled r) code h := by
  obtain ⟨hcur, hx, -⟩ := lasts_keepSeen s q
  have htook := trapHere_tookTrap (s := s) (b := s.keepSeen q) (x := ⟨code, h, { FaultRec.zero with hand := h }, [.seen q]⟩)
    rfl hcur hx (mayTrap_keepSeen q hm) h71 h72
  rw [shown_hand hrec] at htook
  rw [hr]
  exact htook

/-! ### hview and hqry (R238, R240) -/

/-- A query of a handle: the dereference, the check of the operand against the entry, and the answer in s[d]. -/
def State.handleQuery (s : State) (o : R3) (fits : HEntry → Nat → Bool) (answer : HEntry → Nat → Dword) : Except Stop State := do
  let (q, e) ← s.deref s.me s.device (s.reg o.a) false
  q.onward <| need (fits e (q.reg o.b).toNat) (trapHand 0x27 (s.reg o.a))
  .ok ((q.setReg o.d (answer e (q.reg o.b).toNat)).done o.stop)

/-- The operand of hview is a VIEW within the entry's E0. -/
def HEntry.fitsView (e : HEntry) (v : Nat) : Bool := decide (v ≠ 0 ∧ v ≤ 0xFFFFFF ∧ v ≤ e.e0)

theorem HEntry.fitsView_iff (e : HEntry) (v : Nat) : e.fitsView v = true ↔ v ≠ 0 ∧ v ≤ 0xFFFFFF ∧ v ≤ e.e0 := decide_eq_true_iff

/-- A handle with another VIEW. -/
def withView (h : Dword) (v : Nat) : Dword := BitVec.ofNat 64 (h.toNat / 2 ^ 24 * 2 ^ 24 + v)

/-- The word of an entry that hqry answers. -/
def HEntry.word (e : HEntry) (k : Nat) : Dword := BitVec.ofNat 64 (leNat ((e.raw.drop (8 * k)).take 8))

theorem exec_hview (o : R3) (s : State) :
    exec (.hview o) s = .next (s.settled (s.handleQuery o HEntry.fitsView fun _ => withView (s.reg o.a))) := rfl

theorem exec_hqry (o : R3) (s : State) :
    exec (.hqry o) s = .next (s.settled (s.handleQuery o (fun _ k => decide (k ≤ 7)) HEntry.word)) := rfl

/-- A VIEW is the low 24 bits of a handle (R228). -/
theorem withView_eq (h : Dword) {v : Nat} (hv : v ≤ 0xFFFFFF) : withView h v = (h &&& 0xFFFFFFFFFF000000) ||| BitVec.ofNat 64 v := by
  have hlt : v < 2 ^ 24 := Nat.lt_succ_of_le hv
  have hones : (0xFFFFFFFFFF000000 : Dword) = BitVec.allOnes 64 <<< 24 := by decide
  have hhigh : (h >>> 24 <<< 24).toNat = 2 ^ 24 * (h.toNat / 2 ^ 24) := by
    rw [BitVec.toNat_shiftLeft, BitVec.toNat_ushiftRight, Nat.shiftRight_eq_div_pow, Nat.shiftLeft_eq]
    omega
  apply BitVec.eq_of_toNat_eq
  rw [withView, hones, ← BitVec.shiftLeft_ushiftRight, BitVec.toNat_or, hhigh, BitVec.toNat_ofNat, BitVec.toNat_ofNat,
    Nat.mod_eq_of_lt (by omega), Nat.mod_eq_of_lt (by omega), Nat.mul_comm, Nat.two_pow_add_eq_or_of_lt hlt]

section
variable {s q : State} {e : HEntry} {o : R3} {i : Instr} {fits : HEntry → Nat → Bool} {answer : HEntry → Nat → Dword} {v : Nat}
  (hd : s.deref s.me s.device (s.reg o.a) false = .ok (q, e)) (hv : (q.reg o.b).toNat = v)
include hd hv

/-- A query of a handle that dereferences. -/
theorem handleQuery_derefs : s.handleQuery o fits answer =
    q.onward (need (fits e v) (trapHand 0x27 (s.reg o.a))) >>= fun _ => .ok ((q.setReg o.d (answer e v)).done o.stop) := by
  rw [State.handleQuery, hd, ← hv]
  rfl

variable (hi : exec i s = .next (s.settled (s.handleQuery o fits answer)))
include hi

/-- A query whose operand fits answers; beyond the dereference it changes only s[d]. -/
theorem handleQuery_writes (h : fits e v = true) : ∃ t, exec i s = .next t ∧ Writes q t o.d (answer e v) o.stop := by
  rw [hi, handleQuery_derefs hd hv, h]
  exact ⟨_, rfl, setReg_done_writes q o.d _ o.stop⟩

/-- A query whose operand does not fit takes trap 0x27. -/
theorem handleQuery_traps (h : fits e v = false) (hm : s.mayTrap) :
    ∃ t, exec i s = .next t ∧ TrapsHandle s (s.keepSeen q) t 0x27 (s.reg o.a) := by
  have hstop : s.handleQuery o fits answer = q.onward (trapHand 0x27 (s.reg o.a)) := by
    rw [handleQuery_derefs hd hv, h]
    rfl
  exact ⟨_, hi, settled_trapsHandle hm hstop rfl (by decide) (by decide)⟩

end

/-! ### hchk (R239) -/

/-- hchk of an element of a tensor that is not flattened: 0 inside the extents, and outside padding or a fault (R233, R235). -/
theorem chkElem_plain {e : HEntry} (c : Coords) (h : e.flat = false) : BitVec.ofNat 64 (e.chkElem c) =
    if (List.range 4).all (e.inside c) = true then 0 else if e.win = true then 0x100 else 0x27 := by
  rw [HEntry.chkElem, HEntry.place, h]
  cases hin : (List.range 4).all (e.inside c)
  · cases hw : e.win <;> simp [hin, HEntry.fault]
  · simp [hin, HEntry.placeAt]

/-- The coordinates at a scratchpad offset are the signed words there (R209). -/
theorem coordsAt_eq (c : Core) (off : Nat) :
    c.coordsAt off = (List.range 4).map fun i => (BitVec.ofNat 32 (leNat (Memory.read c.sp (off + 4 * i) 4))).toInt :=
  List.map_congr_left fun i _ => by rw [Core.spRead_eq, signed]

/-- hchk of a handle that dereferences answers 0, or the check of the element that the record names. -/
theorem hchk_derefs {s q : State} {e : HEntry} {o : R3} (hd : s.deref s.me s.device (s.reg o.a) false = .ok (q, e))
    (hrange : o.b = 0 ∨ (s.reg o.b).toNat % 16 = 0 ∧ (s.reg o.b).toNat + 16 ≤ s.here.spBytes) :
    ∃ t, exec (.hchk o) s = .next t
      ∧ Writes q t o.d (BitVec.ofNat 64 (if o.b = 0 then 0 else e.chkElem (s.here.coordsAt (s.reg o.b).toNat))) o.stop := by
  refine ⟨_, ?_, setReg_done_writes q o.d _ o.stop⟩
  show execHchk o s = _
  refine runStream_ok ?_
  simp only [hd]
  split
  · rfl
  · next hb =>
    obtain ⟨h16, hfit⟩ := hrange.resolve_left hb
    rw [spRange_ok h16 hfit]
    rfl

/-- hchk of a handle that does not dereference, by a check that comes before any access, answers the cause. -/
theorem hchk_reports {s : State} {o : R3} {code : Byte} (hb : o.b = 0) (hcode : reported code = true)
    (hd : s.deref s.me s.device (s.reg o.a) false = trapHand code (s.reg o.a)) :
    ∃ t, exec (.hchk o) s = .next t ∧ Writes s t o.d (BitVec.ofNat 64 code.toNat) o.stop := by
  refine ⟨_, ?_, setReg_done_writes s o.d _ o.stop⟩
  show execHchk o s = _
  refine runStream_ok ?_
  simp only [hd, trapHand, if_pos hb, if_pos hcode]
  rfl

/-! ### Handles that do not dereference (R232) -/

/-- The VF of a handle is its top byte (R228). -/
theorem hvfOf_eq (h : Dword) : hvfOf h = h.toNat / 2 ^ 56 :=
  Nat.mod_eq_of_lt (Nat.div_lt_of_lt_mul (by have := h.isLt; omega))

/-- Outside device mode a handle of another VF does not dereference. -/
theorem deref_otherVf {s : State} {h : Dword} (hmode : s.self.mode ≠ .device) (hvf : h.toNat / 2 ^ 56 ≠ s.here.vfid) :
    s.deref s.me s.device h false = trapHand 0x24 h := by
  have hcheck : (s.device || hvfOf h == s.here.vfid) = false := by
    rw [hvfOf_eq, beq_false_of_ne hvf, Bool.or_false]
    exact decide_eq_false hmode
  show ((need (s.device || hvfOf h == s.here.vfid) _ >>= _) >>= _) = _
  rw [hcheck]
  rfl

/-- A handle at or past the count of its VF's table does not dereference. -/
theorem deref_pastTable {s : State} {h : Dword} (hvf : h.toNat / 2 ^ 56 = s.here.vfid)
    (hindex : s.here.csr.htcount.toNat ≤ h.toNat / 2 ^ 24 % 2 ^ 20) : s.deref s.me s.device h false = trapHand 0x26 h := by
  have hown : hvfOf h = s.here.vfid := (hvfOf_eq h).trans hvf
  have hcheck : (s.device || hvfOf h == s.here.vfid) = true := by rw [hown, beq_self_eq_true, Bool.or_true]
  have htable : (s.handleTable s.me (hvfOf h)).2 = s.here.csr.htcount.toNat := congrArg Prod.snd (if_pos hown)
  have hpast : decide (indexOf h < (s.handleTable s.me (hvfOf h)).2) = false := by
    rw [htable]
    exact decide_eq_false (not_lt.mpr hindex)
  show ((need (s.device || hvfOf h == s.here.vfid) _ >>= fun _ =>
    need (decide (indexOf h < (s.handleTable s.me (hvfOf h)).2)) _ >>= _) >>= _) = _
  rw [hcheck, hpast]
  rfl

/-- Settles O24: hview and hqry check their operand against the entry of the handle, hchk tells what its dereference and its element
met. -/
theorem handles : Obligations.Handles := by
  unfold Obligations.Handles
  refine ⟨fun o s q e => ?_, fun o s hb => ?_⟩
  · intro h v hd hself writes traps
    have hv : (q.reg o.b).toNat = v := by rw [State.reg, hself]; rfl
    refine ⟨fun h0 h24 he0 => ?_, fun hout hm => ?_, fun h7 => ?_, fun h7 hm => ?_, fun hb => ?_, fun hb h16 hfit hflat c hc => ?_⟩
    · rw [← withView_eq h h24]
      exact handleQuery_writes hd hv (exec_hview o s) ((e.fitsView_iff v).mpr ⟨h0, h24, he0⟩)
    · have hfits : e.fitsView v = false := Bool.eq_false_iff.mpr fun hf => by
        obtain ⟨h0, h24, he0⟩ := (e.fitsView_iff v).mp hf
        omega
      exact handleQuery_traps hd hv (exec_hview o s) hfits hm
    · exact handleQuery_writes hd hv (exec_hqry o s) (decide_eq_true h7)
    · exact handleQuery_traps hd hv (exec_hqry o s) (decide_eq_false (not_le.mpr h7)) hm
    · have hw := hchk_derefs hd (.inl hb)
      rw [if_pos hb] at hw
      exact hw
    · have hw := hchk_derefs hd (.inr ⟨h16, hfit⟩)
      rw [if_neg hb, chkElem_plain _ hflat, coordsAt_eq, ← hc] at hw
      exact hw
  · exact ⟨fun hmode hvf => hchk_reports hb rfl (deref_otherVf hmode hvf), fun hvf hindex => hchk_reports hb rfl (deref_pastTable hvf hindex)⟩

end Sys2Proof.Machine
end


section
/-! PROOFS. Copies and table loads on a halted core (R155, R248, R430): the statements do not ask that the core runs. -/

namespace Sys2Proof.Machine
open Sys2Proof

/-! ### Steps of a queue -/

/-- A step of a queue that completes counts one up. -/
theorem StepsHead.eng_step {s t : State} {core : Nat} {q : EngQ} {recs : List (List Byte)} (h : StepsHead s t core q recs) :
    ((t.core core).eng q).step = ((s.core core).eng q).step + 1 := by
  obtain ⟨-, -, hcore⟩ := h
  rw [hcore]
  cases q <;> rfl

/-- So no step completes where the counter stands. -/
theorem not_stepsHead_of_step_eq {s t : State} {core : Nat} {q : EngQ} {recs : List (List Byte)}
    (h : ((t.core core).eng q).step = ((s.core core).eng q).step) : ¬ StepsHead s t core q recs :=
  fun hsteps => Nat.succ_ne_self _ (hsteps.eng_step.symm.trans h)

/-! ### Halted cores (R430) -/

/-- On a halted core a command that latches first neither latches nor takes its step. -/
theorem latchStep_halted {s : State} {core : Nat} (h : (s.core core).dbg.halted = true) (q : EngQ)
    (f : Cmd → Option ((State → Except Stop State) × (EngQueue → State → Except Stop State))) : s.latchStep core q f = s := by
  rw [State.latchStep, headStep_halted h, headStep_halted h]

/-- A copy of a halted core stands. -/
theorem copyChunk_halted {s : State} {core : Nat} (h : (s.core core).dbg.halted = true) (q : EngQ) :
    exec (.copyChunk core q) s = .next s :=
  congrArg Host.Outcome.next (latchStep_halted h q _)

/-- A table load of a halted core stands. -/
theorem tloadUnit_halted {s : State} {core : Nat} (h : (s.core core).dbg.halted = true) : exec (.tloadUnit core) s = .next s :=
  congrArg Host.Outcome.next (headStep_halted h .load _)

/-! ### A copy (R248) -/

/-- xst on channel 0, its descriptor at 0. -/
def plainCopy : Cmd := ⟨.xst ⟨1, 2, 3, 0, none, true⟩, 0, 0, 0, 0⟩

/-- A copy descriptor of one row of one element, at 0 of the scratchpad (R245). -/
def plainDesc : List Byte :=
  List.replicate 16 0 ++ (List.replicate 4 [1, 0, 0, 0]).flatten ++ [0, 0, 0, 0, 16] ++ List.replicate 27 0

/-- Core 0 is halted by its debugger; the xst at the head of its store queue has latched its descriptor, of one chunk, and every
write of the chunk has left and is performed. -/
def haltedCopy : State :=
  State.reset.updCore 0 fun c =>
    { c with store := { c.store with cmds := [plainCopy], begun := true, todo := some []
                                     latch := { c.store.latch with recs := [leBytes 8 1, plainDesc] } }
             dbg := { c.dbg with attached := true, halted := true } }

/-- Refutes O41, by its clause on a copy whose writes are all performed: in `haltedCopy` the statement asks that the step of the xst
completes, but the core is halted, and COPY_CHUNK leaves the state as it is. -/
theorem not_copySteps : ¬ Obligations.CopySteps := by
  unfold Obligations.CopySteps
  intro h
  obtain ⟨hcopy, -⟩ := h 0 haltedCopy .store plainCopy (by decide)
  obtain ⟨-, -, -, hgone, -⟩ := hcopy ⟨.st, false, false⟩ rfl (by decide)
  obtain ⟨hperformed, -⟩ := hgone (by decide) rfl
  obtain ⟨t, ht, hsteps⟩ := hperformed (by decide) (by decide)
  have hsame : haltedCopy = t := Host.Outcome.next.inj ((copyChunk_halted (by decide) .store).symm.trans ht)
  subst hsame
  exact not_stepsHead_of_step_eq (by decide) hsteps

/-! ### A table load (R155) -/

/-- tload of slot 0 from the scratchpad, its image at 0. -/
def plainLoad : CTload := ⟨1, 2, true, none, true⟩

/-- Core 0 is halted by its debugger before the first unit of the tload at the head of its load queue. Its scratchpad, of 2 MiB, holds
a valid header (R145), of one segment, and the shadow bank of its slot is LOADING and has no readers. -/
def haltedLoad : State :=
  State.reset.updCore 0 fun c =>
    { c with load := { c.load with cmds := [⟨.tload plainLoad, 0, 0, 0, 0⟩], begun := true }
             csr := { c.csr with lmcfg := d64 (2 ^ 53) }, sp := [(0, 1), (2, 1)]
             slots := [(0, { TSlot.init with owner := some c.vfid, bank1 := { TBank.empty with state := 1 } })]
             dbg := { c.dbg with attached := true, halted := true } }

/-- Refutes O42, by its clause on the first unit of a tload: in `haltedLoad` the slot is owned, its shadow bank has no readers and the
unit is a valid header, so that the statement asks for a step, but the core is halted, and TLOAD_UNIT leaves the state as it is. -/
theorem not_decryptAndTableLoads : ¬ Obligations.DecryptAndTableLoads := by
  unfold Obligations.DecryptAndTableLoads
  intro h
  obtain ⟨-, htload⟩ := h 0 haltedLoad ⟨.tload plainLoad, 0, 0, 0, 0⟩ (by decide)
  obtain ⟨hfirst, -⟩ := htload plainLoad rfl (by decide) (by decide) (by decide)
  obtain ⟨t, ht, hsteps⟩ := hfirst (by decide) (by decide) haltedLoad ((haltedLoad.core 0).spRead 0 64) rfl (by decide)
  have hsame : haltedLoad = t := Host.Outcome.next.inj ((tloadUnit_halted (by decide)).symm.trans ht)
  subst hsame
  refine not_stepsHead_of_step_eq ?_ hsteps
  rw [State.core_updCore_self]
  rfl

end Sys2Proof.Machine
end


section
/-! PROOFS. Memory at reset, and what atomic instructions and evictions of the PF do beside their bytes (R199, R252, R284). -/

namespace Sys2Proof.Machine
open Sys2Proof

/-- The log is empty at reset. -/
theorem ordered_reset : State.reset.mem.ordered := ⟨List.Pairwise.nil, fun _ h => absurd h List.not_mem_nil⟩

/-- Settles O59: memory is empty at reset, and so is its log. -/
theorem canonicalAtReset : Obligations.CanonicalAtReset := by
  unfold Obligations.CanonicalAtReset
  exact ⟨⟨rfl, rfl⟩, ordered_reset⟩

/-- An instruction whose only effect is its register leaves the security engine as it was. -/
theorem Writes.sec_eq {s t : State} {d : Reg} {v : Dword} {stop : Bool} (h : Writes s t d v stop) : t.sec = s.sec := by
  obtain ⟨-, -, -, -, ⟨⟨ht, -⟩, -⟩, -⟩ := h
  rw [ht]

/-- An addition of s0 to the word at address 0, for s3. -/
def addAtZero : RAmo := ⟨3, 0, 0, false, false, false, 0, true⟩

theorem translate_amo_checkedFrame :
    (checkedFrame []).translate (.stream (checkedFrame []).cur) (checkedFrame []).here.vfid 0 .amo = .ok (checkedFrame [], ⟨0, 0, 7⟩) := rfl

theorem plainLines_checkedFrame : (checkedFrame []).plainLines (.stream 0) 0 ⟨0, 0, 7⟩ 4 := by
  have hregion : ∀ i, i < 4 → regionOf (0 + i) = .hbm 0 := by decide
  have hlines : linesOf 0 4 = [0] := by decide
  refine ⟨fun i hi => ⟨0, .inl (hregion i hi)⟩, fun x hx => ?_, by decide, by decide⟩
  rw [hlines, List.mem_singleton] at hx
  subst hx
  exact ⟨rfl, rfl, rfl, fun _ _ => rfl⟩

/-- An atomic write of the PF to the frame undoes its check. -/
theorem checkedAfter_amoAdd : checkedAfter (exec (.amoAdd addAtZero) (checkedFrame [])) = some false := by decide

/-- The eviction of a line that the PF stored to does, too. -/
theorem checkedAfter_l1Eviction : checkedAfter (exec (.l1Eviction 0 0) (checkedFrame [storedLine])) = some false := by decide

/-- Refutes O20, by its clause on amo.add: it allows no change but of the register, the flags, the bytes and the stream, but an atomic
write of the PF also has a verifying copy check the frame again (R252), which in `checkedFrame` had been checked. -/
theorem not_atomics : ¬ Obligations.Atomics := by
  unfold Obligations.Atomics
  intro h
  obtain ⟨hadd, -⟩ := (h (checkedFrame []) (checkedFrame []) ⟨0, 0, 7⟩ 4 0 3 0 rfl (by decide) translate_amo_checkedFrame rfl rfl rfl rfl rfl
    rfl (by decide) rfl plainLines_checkedFrame ordered_reset (by decide)).1
    addAtZero rfl rfl rfl rfl (by decide)
  obtain ⟨t, m, fl, ht, hwrites, -⟩ := hadd
  have hsec : t.sec = (checkedFrame []).sec := hwrites.sec_eq
  have hafter := checkedAfter_amoAdd
  rw [ht, checkedAfter, hsec, checked_checkedFrame] at hafter
  exact absurd hafter (by decide)

/-- Refutes O44, by its clause on the eviction of a line: it allows no change but of the L1 and the writes issued, but the write-back of
the PF's line in `checkedFrame` also undoes the check of its frame (R252). -/
theorem not_memoryAndFaultEvents : ¬ Obligations.MemoryAndFaultEvents := by
  unfold Obligations.MemoryAndFaultEvents
  rintro ⟨hevents, -⟩
  obtain ⟨-, -, hevict⟩ := hevents (checkedFrame [storedLine])
  have hline : ∀ x ∈ ((checkedFrame [storedLine]).core 0).l1, x = storedLine := by decide
  obtain ⟨t, m, ht, hstate, -⟩ := hevict 0 0 fun x hx _ => by
    rw [hline x hx]
    exact ⟨by decide, by decide, ⟨0, .inl (by decide)⟩, by decide, by decide⟩
  have hsec : t.sec = (checkedFrame [storedLine]).sec := by rw [hstate]; rfl
  have hafter := checkedAfter_l1Eviction
  rw [ht, checkedAfter, hsec, checked_checkedFrame] at hafter
  exact absurd hafter (by decide)

end Sys2Proof.Machine
end


section
/-! PROOFS. The canonical form of memory (R261, R262) as a property of states, and how it passes through what a step is made of. -/

namespace Sys2Proof.Machine
open Sys2Proof

/-- Device memory is in its canonical form with its log in order, and host memory is in its canonical form. -/
def State.kept (s : State) : Prop := s.mem.kept ∧ Memory.wf s.host = true

/-- A state as its own part. -/
abbrev State.itself (s : State) : State := s

/-- Where an access answers, the state in its answer is in the form. -/
def Ends {ε β : Type} (g : β → State) (r : Except ε β) : Prop := ∀ b, r = .ok b → (g b).kept

/-- Where something is found, its state is in the form. -/
def Finds {β : Type} (g : β → State) (r : Option β) : Prop := ∀ b, r = some b → (g b).kept

/-- Where a move leads on, it leads to a state in the form. -/
def Leads (r : Host.Outcome State Fault Refusal) : Prop := ∀ t, r = .next t → t.kept

section
variable {α β γ ε : Type} {s t : State} {g : β → State} {k : γ → State}

theorem kept_ite {c : Prop} [Decidable c] (hs : s.kept) (ht : t.kept) : (if c then s else t).kept := by
  split <;> assumption

theorem kept_fst_ite {c : Prop} [Decidable c] {p q : State × α} (hp : p.1.kept) (hq : q.1.kept) : (if c then p else q).1.kept := by
  split <;> assumption

theorem kept_state_ite {c : Prop} [Decidable c] {x y : Reply} (hx : x.state.kept) (hy : y.state.kept) :
    (if c then x else y).state.kept := by
  split <;> assumption

theorem kept_of_pair {p : State × α} {a : α} (hp : p.1.kept) (e : p = (t, a)) : t.kept := by
  rw [e] at hp
  exact hp

theorem kept_foldl {f : State → α → State} {l : List α} (hf : ∀ s a, s.kept → (f s a).kept) (h : s.kept) :
    (l.foldl f s).kept := by
  induction l generalizing s with
  | nil => exact h
  | cons a l ih => exact ih (hf s a h)

theorem kept_fst_foldl {f : State × β → α → State × β} {p : State × β} {l : List α} (hf : ∀ p a, p.1.kept → (f p a).1.kept)
    (h : p.1.kept) : (l.foldl f p).1.kept := by
  induction l generalizing p with
  | nil => exact h
  | cons a l ih => exact ih (hf p a h)

theorem ends_ok {b : β} (h : (g b).kept) : Ends g (.ok b : Except ε β) := by
  rintro _ ⟨⟩
  exact h

theorem ends_error (e : ε) : Ends g (.error e) := by
  rintro _ ⟨⟩

theorem Ends.bind {x : Except ε β} {f : β → Except ε γ} (hx : Ends g x) (hf : ∀ b, (g b).kept → Ends k (f b)) :
    Ends k (x >>= f) := by
  cases x with
  | error e => exact ends_error e
  | ok b => exact hf b (hx b rfl)

theorem ends_bindOk {b : β} {f : β → Except ε γ} (h : Ends k (f b)) : Ends k (.ok b >>= f) := h

theorem ends_check {x : Except ε α} {f : α → Except ε γ} (hf : ∀ a, Ends k (f a)) : Ends k (x >>= f) := by
  cases x with
  | error e => exact ends_error e
  | ok a => exact hf a

theorem Ends.map {x : Except ε β} {f : β → γ} (hx : Ends g x) (hf : ∀ b, (g b).kept → (k (f b)).kept) : Ends k (x.map f) := by
  cases x with
  | error e => exact ends_error e
  | ok b => exact ends_ok (hf b (hx b rfl))

theorem ends_ite {c : Prop} [Decidable c] {x y : Except ε β} (hx : Ends g x) (hy : Ends g y) : Ends g (if c then x else y) := by
  split <;> assumption

/-- A choice between two accesses, either of which goes on in the same way. -/
theorem Ends.join {c : Prop} [Decidable c] {x y : Except ε β} {f : β → Except ε γ} (hx : Ends g x) (hy : Ends g y)
    (hf : ∀ b, (g b).kept → Ends k (f b)) : Ends k (if c then x >>= f else y >>= f) := ends_ite (hx.bind hf) (hy.bind hf)

theorem ends_join {c : Prop} [Decidable c] {x y : Except ε α} {f : α → Except ε γ} (hf : ∀ a, Ends k (f a)) :
    Ends k (if c then x >>= f else y >>= f) := ends_ite (ends_check hf) (ends_check hf)

theorem ends_withSides {l : List Side} {r : Except Stop β} (hr : Ends g r) : Ends g (withSides l r) := by
  cases r with
  | error e => exact ends_error (e.add l)
  | ok b => exact hr

theorem ends_onward {u : State} {r : Except Stop β} (hr : Ends g r) : Ends g (u.onward r) := ends_withSides hr

theorem ends_foldlM {f : β → α → Except ε β} {l : List α} {b : β} (hf : ∀ b a, (g b).kept → Ends g (f b a)) (hb : (g b).kept) :
    Ends g (l.foldlM f b) := by
  induction l generalizing b with
  | nil => exact ends_ok hb
  | cons a l ih => exact (hf b a hb).bind fun c hc => ih hc

theorem ends_forNat {n : Nat} {f : State → Nat → Except Stop State} (hf : ∀ s i, s.kept → Ends State.itself (f s i)) (h : s.kept) :
    Ends State.itself (forNat n s f) := ends_foldlM (fun s i hs => ends_onward (hf s i hs)) h

/-- What ends a walk short of a leaf answers nothing. -/
theorem ends_walkFault {a : Agent} {vf va : Nat} {kind : Kind} {instant : Bool} {w : Walk} :
    Ends g (s.walkFault a vf va kind instant w) := by
  unfold State.walkFault State.notPresent
  split
  · exact ends_error _
  · exact ends_error _
  · split
    · exact ends_error _
    · split <;> exact ends_error _

theorem leads_next (h : s.kept) : Leads (.next s) := by
  rintro _ ⟨⟩
  exact h

theorem leads_refused (r : Refusal) : Leads (.refused r) := by
  rintro _ ⟨⟩

theorem leads_ite {c : Prop} [Decidable c] {x y : Host.Outcome State Fault Refusal} (hx : Leads x) (hy : Leads y) :
    Leads (if c then x else y) := by
  split <;> assumption

theorem kept_stateOf {r : Host.Outcome State Fault Refusal} (hr : Leads r) (h : s.kept) : (stateOf s r).kept := by
  cases r with
  | next t => exact hr t rfl
  | fault _ => exact h
  | refused _ => exact h

theorem finds_some {b : β} (h : (g b).kept) : Finds g (some b) := by
  rintro _ ⟨⟩
  exact h

theorem finds_none : Finds g none := by
  rintro _ ⟨⟩

theorem finds_ite {c : Prop} [Decidable c] {x y : Option β} (hx : Finds g x) (hy : Finds g y) : Finds g (if c then x else y) := by
  split <;> assumption

section
variable {m : MemSys} {pend : List WriteRec} {preds : List (Agent × List Nat)} {marks : List (Agent × Nat × Nat)} {poison : SMap Nat}
  {latent : SMap LineErr} {grade : SMap (BitVec 2)} {counters nodes : SMap CounterBlock} {roots : SMap Dword} {frameKey : SMap (Nat × Nat)}
  {tagDiff : SMap (BitVec 56)} {broken : List TreeErr} {reserved : SMap Bool} {corrected : SMap Dword} {cxlExtent : SMap Nat}
  {cxlDown : SMap Bool}

/-- A change of the memory system elsewhere than in its bytes and its log. -/
theorem MemSys.kept_frame (h : m.kept) : MemSys.kept ⟨m.base, m.log, m.nextId, pend, preds, marks, poison, latent, grade, counters, nodes,
    roots, frameKey, tagDiff, broken, reserved, corrected, cxlExtent, cxlDown⟩ := h

end

section
variable {tb : Nat} {part : Part} {cores : SMap Core} {dies : SMap Die} {ports : SMap Port} {vfs : SMap Vf} {mem : MemSys}
  {peers : List PeerReq} {hearth : Hearth} {pf : Pf} {sec : Sec} {agenda : List Instr} {turn : Turn} {cur : Nat} {curX : Bool}
  {issue : Issue} {free : Nat}

/-- A change elsewhere than in device memory and host memory. -/
theorem kept_frame (h : s.kept) : State.kept ⟨tb, part, cores, dies, ports, vfs, s.mem, peers, hearth, pf, sec, s.host, agenda, turn,
    cur, curX, issue, free⟩ := h

/-- A change elsewhere than in host memory, to a memory system in the form. -/
theorem kept_setMem (hm : mem.kept) (h : s.kept) : State.kept ⟨tb, part, cores, dies, ports, vfs, mem, peers, hearth, pf, sec, s.host,
    agenda, turn, cur, curX, issue, free⟩ := ⟨hm, h.2⟩

end

theorem Finds.bind {x : Option β} {f : β → Option γ} (hx : Finds g x) (hf : ∀ b, (g b).kept → Finds k (f b)) :
    Finds k (x.bind f) := by
  cases x with
  | none => exact finds_none
  | some b => exact hf b (hx b rfl)

theorem finds_check {x : Option α} {f : α → Option γ} (hf : ∀ a, Finds k (f a)) : Finds k (x.bind f) := by
  cases x with
  | none => exact finds_none
  | some a => exact hf a

theorem Finds.map {x : Option β} {f : β → γ} (hx : Finds g x) (hf : ∀ b, (g b).kept → (k (f b)).kept) : Finds k (x.map f) :=
  Option.map_eq_bind ▸ hx.bind fun b hb => finds_some (hf b hb)

theorem finds_map {x : Option α} {f : α → γ} (hf : ∀ a, (k (f a)).kept) : Finds k (x.map f) := by
  cases x with
  | none => exact finds_none
  | some a => exact finds_some (hf a)

theorem finds_foldlM {f : β → α → Option β} {l : List α} {b : β} (hf : ∀ b a, (g b).kept → Finds g (f b a)) (hb : (g b).kept) :
    Finds g (l.foldlM f b) := by
  induction l generalizing b with
  | nil => exact finds_some hb
  | cons a l ih => exact (hf b a hb).bind fun c hc => ih hc

theorem finds_findSome {l : List α} {f : α → Option β} (hf : ∀ a ∈ l, Finds g (f a)) : Finds g (l.findSome? f) := by
  induction l with
  | nil => exact finds_none
  | cons a l ih =>
    unfold List.findSome?
    split
    · next e => exact e ▸ hf a List.mem_cons_self
    · exact ih fun b hb => hf b (List.mem_cons_of_mem a hb)

theorem kept_getD {x : Option State} (hx : Finds State.itself x) (h : s.kept) : (x.getD s).kept := by
  cases x with
  | none => exact h
  | some t => exact hx t rfl

theorem leads_fault (x : Fault) : Leads (.fault x) := by
  rintro _ ⟨⟩

theorem ends_atByte {n : Nat} {r : Except Stop β} (hr : Ends g r) : Ends g (atByte n r) := by
  unfold atByte
  split
  · exact ends_error _
  · exact hr

theorem ends_atCoords {c : Coords} {r : Except Stop β} (hr : Ends g r) : Ends g (atCoords c r) := by
  unfold atCoords
  split
  · exact ends_error _
  · exact hr

theorem ends_atPosition {n : Nat} {r : Except Stop β} (hr : Ends g r) : Ends g (atPosition n r) := by
  unfold atPosition
  split
  · exact ends_error _
  · exact hr

theorem ends_asRefusal {i : Nat} {r : Except Stop β} (hr : Ends g r) : Ends g (asRefusal i r) := by
  unfold asRefusal
  split
  · exact ends_error _
  · exact hr

theorem ends_asReason {r : Except Stop β} (hr : Ends g r) : Ends g (asReason r) := by
  unfold asReason
  split
  · exact ends_error _
  · exact hr

theorem ends_bfTry {u : State} {blocks : List Nat} {p : Nat} {ring : Option Nat} {r : Except Stop β} (hr : Ends g r) :
    Ends g (bfTry u blocks p ring r) := by
  cases r with
  | error e => exact ends_error _
  | ok b => exact ends_ok (hr b rfl)

/-- A move of a unit keeps the form. -/
def Keeps (m : Move) : Prop := ∀ t : State, t.kept → Leads (m t)

/-- Where a step of an engine's head has work, the work keeps the form. -/
def Works (o : Option (State → Except Stop State)) : Prop := ∀ body, o = some body → ∀ t : State, t.kept → Ends State.itself (body t)

/-- So do both halves of a step that reads its records first. -/
def Latches (o : Option ((State → Except Stop State) × (EngQueue → State → Except Stop State))) : Prop :=
  ∀ p, o = some p → (∀ t : State, t.kept → Ends State.itself (p.1 t)) ∧ ∀ e (t : State), t.kept → Ends State.itself (p.2 e t)

theorem works_none : Works none := by
  rintro _ ⟨⟩

theorem works_some {body : State → Except Stop State} (h : ∀ t : State, t.kept → Ends State.itself (body t)) : Works (some body) := by
  rintro _ ⟨⟩
  exact h

theorem works_ite {c : Prop} [Decidable c] {x y : Option (State → Except Stop State)} (hx : Works x) (hy : Works y) :
    Works (if c then x else y) := by
  split <;> assumption

theorem latches_none : Latches none := by
  rintro _ ⟨⟩

theorem latches_some {f : State → Except Stop State} {f' : EngQueue → State → Except Stop State}
    (h : ∀ t : State, t.kept → Ends State.itself (f t)) (h' : ∀ e (t : State), t.kept → Ends State.itself (f' e t)) : Latches (some (f, f')) := by
  rintro _ ⟨⟩
  exact ⟨h, h'⟩

theorem latches_map {x : Option α} {f : α → State → Except Stop State} {f' : α → EngQueue → State → Except Stop State}
    (h : ∀ a (t : State), t.kept → Ends State.itself (f a t)) (h' : ∀ a e (t : State), t.kept → Ends State.itself (f' a e t)) :
    Latches (x.map fun a => (f a, f' a)) := by
  cases x with
  | none => exact latches_none
  | some a => exact latches_some (h a) (h' a)

theorem Latches.works_fst {x : Option ((State → Except Stop State) × (EngQueue → State → Except Stop State))} (h : Latches x) :
    Works (x.map fun p => p.1) := by
  cases x with
  | none => exact works_none
  | some p => exact works_some (h p rfl).1

theorem Latches.works_snd {x : Option ((State → Except Stop State) × (EngQueue → State → Except Stop State))} {e : EngQueue}
    (h : Latches x) : Works (x.map fun p => p.2 e) := by
  cases x with
  | none => exact works_none
  | some p => exact works_some ((h p rfl).2 e)

end

end Sys2Proof.Machine
end


section
/-! PROOFS. Memory in its canonical form under the operations of the state, of memory and of translation (R261, R262). -/

namespace Sys2Proof.Machine
open Sys2Proof

variable {s : State} {vf core va d n v b : Nat} {a : Agent} {i h : Dword} {instant stop : Bool} {e : HEntry} {l : Leaf}
  {m : LinkMsg} {chan : Option Nat}

/-! ### Cores, dies, ports, VFs and the retirement of an instruction (R69, R72) -/

theorem kept_setCore {c : Nat} {v : Core} (hk : s.kept) : (s.setCore c v).kept := kept_frame hk

theorem kept_updCore {c : Nat} {f : Core → Core} (hk : s.kept) : (s.updCore c f).kept := kept_setCore hk

theorem kept_updHere {f : Core → Core} (hk : s.kept) : (s.updHere f).kept := kept_updCore hk

theorem kept_updDie {f : Die → Die} (hk : s.kept) : (s.updDie d f).kept := kept_frame hk

theorem kept_updVf {f : Vf → Vf} (hk : s.kept) : (s.updVf v f).kept := kept_frame hk

theorem kept_updPort {p : Nat} {f : Port → Port} (hk : s.kept) : (s.updPort p f).kept := kept_frame hk

theorem kept_updSelf {f : Stream → Stream} (hk : s.kept) : (s.updSelf f).kept := kept_updHere hk

theorem kept_setReg {r : Reg} {v : Dword} (hk : s.kept) : (s.setReg r v).kept := kept_updSelf hk

theorem leads_onHost {h : HostReq} {f : State → State} (hf : (f s).kept) (hk : s.kept) : Leads (onHost h s f) :=
  leads_next (kept_ite hk hf)

theorem kept_setNode {n : Node} (hk : s.kept) : (s.setNode i n).kept := kept_frame hk

theorem kept_updNode {f : Node → Node} (hk : s.kept) : (s.updNode i f).kept := by
  unfold State.updNode
  split
  · exact kept_setNode hk
  · exact hk

theorem kept_setGraph {key : Nat} {g : Graph} (hk : s.kept) : (s.setGraph key g).kept := kept_frame hk

theorem kept_retired (hk : s.kept) : s.retired.kept := kept_frame hk

theorem kept_done (hk : s.kept) : (s.done stop).kept := kept_retired (kept_updSelf hk)

theorem kept_doneTail {tail : Option Tail} (hk : s.kept) : (s.doneTail tail stop).kept := kept_retired (kept_updSelf hk)

theorem kept_jumpTo {target : Dword} (hk : s.kept) : (s.jumpTo target).kept := kept_retired (kept_updSelf hk)

/-! ### Records posted (R310) -/

theorem kept_postVf {ring : Nat} {r : List Byte} (hk : s.kept) : (s.postVf vf ring r).kept := kept_updVf hk

theorem kept_postPf {node : Dword} {status cause index last8 : Nat} (hk : s.kept) : (s.postPf node status cause index last8).kept :=
  kept_frame hk

theorem kept_postNode {status cause flags index : Nat} (hk : s.kept) : (s.postNode i status cause flags index).kept :=
  kept_postVf hk

theorem kept_postRing0 {status cause index : Nat} (hk : s.kept) : (s.postRing0 vf status cause index).kept := kept_postVf hk

/-! ### Lines with errors, entries of the reduction table and writes (R262, R386, R387) -/

theorem kept_weightLine {line : Nat} (hk : s.kept) : (s.weightLine line).kept := kept_ite (kept_frame hk) hk

theorem kept_loseLine {line : Nat} (hk : s.kept) : (s.loseLine line).kept :=
  kept_postPf (kept_weightLine (kept_setMem (MemSys.kept_frame hk.1) hk))

theorem kept_meetLine {line : Nat} (hk : s.kept) : (s.meetLine line).kept := by
  unfold State.meetLine
  split
  · exact kept_setMem (MemSys.kept_frame (MemSys.kept_frame hk.1)) hk
  · exact kept_setMem (MemSys.kept_frame (MemSys.kept_frame hk.1)) hk
  · exact kept_loseLine hk
  · exact kept_ite hk (kept_setMem (MemSys.kept_frame (MemSys.kept_frame hk.1)) hk)
  · exact hk

theorem kept_meetTree {line : Nat} {t : TreeErr} (hk : s.kept) : (s.meetTree line t).kept :=
  kept_ite hk (kept_postRing0 (kept_setMem (MemSys.kept_frame hk.1) hk))

theorem kept_meetTags {line : Nat} (hk : s.kept) : (s.meetTags line).kept := by
  have hmet : (s.mem.broken.foldl (fun s t => s.meetTree line t) s).kept := kept_foldl (fun _ _ h => kept_meetTree h) hk
  unfold State.meetTags
  exact kept_ite hk (kept_ite hmet (kept_loseLine (kept_setMem (MemSys.kept_frame hmet.1) hmet)))

theorem kept_meetLines {lines : List Nat} (hk : s.kept) : (s.meetLines lines).kept :=
  kept_foldl (fun _ _ hk1 => kept_meetTags (kept_meetLine hk1)) hk

theorem kept_grantFrame {pa : Nat} (hk : s.kept) : (s.grantFrame vf pa).kept := by
  unfold State.grantFrame
  split
  · exact kept_setMem (MemSys.kept_frame (MemSys.zeroFrame_kept _ _ hk.1)) hk
  · exact hk

theorem ends_release {scope : Nat} (hk : s.kept) : Ends State.itself (s.release a d scope) :=
  ends_ite (ends_ok (kept_setMem (MemSys.setPreds_kept _ _ _ _ hk.1) hk)) (ends_error _)

/-! ### Translation and the accesses under it (R215 to R226) -/

theorem ends_useEntry {k : Kind} {e : TlbEntry} (hk : s.kept) : Ends Prod.fst (s.useEntry a vf va k e) :=
  ends_ite (ends_error _) (ends_ite (ends_error _) (ends_ok (kept_ite (kept_grantFrame hk) hk)))

theorem ends_walkEntry {k : Kind} (hk : s.kept) : Ends Prod.fst (s.walkEntry a vf va k instant) := by
  unfold State.walkEntry
  dsimp only
  refine ends_withSides ?_
  split
  · exact ends_ok (kept_meetLines hk)
  · exact ends_walkFault

theorem ends_tlbMiss {k : Kind} (hk : s.kept) : Ends Prod.fst (s.tlbMiss core a vf va k instant) := by
  unfold State.tlbMiss
  dsimp only
  split
  · exact ends_bindOk (ends_onward (ends_useEntry (kept_updCore hk)))
  · exact Ends.bind (ends_walkEntry hk) fun _ hk1 => ends_onward (ends_useEntry (kept_updCore hk1))

theorem ends_translate {k : Kind} (hk : s.kept) : Ends Prod.fst (s.translate a vf va k instant) := by
  unfold State.translate
  split
  · exact ends_ite (ends_error _) (ends_error _)
  · split
    · refine ends_onward ?_
      split
      · exact ends_onward (ends_useEntry (kept_setCore hk))
      · exact ends_tlbMiss hk
    · exact ends_onward (Ends.bind (ends_walkEntry hk) fun ⟨_, _⟩ hk1 => ends_onward (ends_useEntry hk1))

theorem kept_sendPeer {op : Byte} {r : PeerReq} (hk : s.kept) : (s.sendPeer op m r).kept := kept_frame (kept_updPort hk)

theorem kept_peerTake {r : PeerReq} (hk : s.kept) : (s.peerTake r).kept := kept_frame hk

theorem kept_dropReads (hk : s.kept) : (s.dropReads a).kept := kept_frame hk

theorem ends_peerPiece {q : Nat × Nat} (hk : s.kept) : Ends Prod.fst (s.peerPiece a vf va q) := by
  unfold State.peerPiece
  split
  · split
    · exact ends_error _
    · exact ends_ite (ends_error _) (ends_ok (kept_ite hk (kept_peerTake hk)))
  · split
    · exact ends_error _
    · exact ends_check fun _ => ends_error _

theorem ends_peerRead {pa : Nat} (hk : s.kept) : Ends Prod.fst (s.peerRead a vf pa n va) :=
  Ends.bind (ends_foldlM (fun _ _ hk1 => Ends.bind (ends_peerPiece hk1) fun ⟨_, _⟩ hk2 => ends_ok hk2) hk) fun _ hk1 => ends_ok hk1

theorem kept_loseRequest {r : PeerReq} (hk : s.kept) : (s.loseRequest r).kept := kept_ite (kept_frame hk) hk

theorem ends_peerWrite {cells : List (Nat × Byte)} (hk : s.kept) : Ends State.itself (s.peerWrite a vf cells chan) := by
  unfold State.peerWrite
  dsimp only
  split
  · exact ends_ok (kept_loseRequest hk)
  · exact ends_check fun _ => ends_ok (kept_sendPeer hk)

theorem kept_dropEntry {slot : Nat} (hk : s.kept) : (s.dropEntry d slot).kept :=
  kept_setMem (MemSys.kept_frame hk.1) (kept_updDie hk)

theorem ends_readHome (hk : s.kept) : Ends Prod.fst (s.readHome a vf l n) := by
  unfold State.readHome
  dsimp only
  split
  · exact ends_error _
  · exact ends_ite (ends_error _) (ends_ok (kept_meetLines hk))

theorem ends_readStored (hk : s.kept) : Ends Prod.fst (s.readStored a l n) := by
  unfold State.readStored
  dsimp only
  split
  · exact ends_error _
  · exact ends_ok (kept_foldl (fun _ _ hk1 => kept_meetLine hk1) hk)

theorem ends_readLeaf (hk : s.kept) : Ends Prod.fst (s.readLeaf a vf l n) := by
  unfold State.readLeaf
  refine ends_onward (ends_ite (ends_readStored hk) ?_)
  dsimp only
  split
  · split
    · exact ends_peerRead hk
    · exact ends_readHome hk
  · refine ends_ite (ends_withSides ?_) (ends_ite (ends_ok hk) (ends_ite (ends_ok hk) ?_))
    · split
      · exact ends_peerRead (kept_dropEntry hk)
      · exact ends_readHome (kept_dropEntry hk)
    · split
      · exact ends_peerRead hk
      · exact ends_readHome hk

theorem kept_dirtyPage (hk : s.kept) : (s.dirtyPage vf va).kept := by
  unfold State.dirtyPage
  split
  · exact hk
  · exact kept_ite hk (kept_updVf hk)

theorem kept_updateEntry {cells : List (Nat × Byte)} (hk : s.kept) : (s.updateEntry a cells).kept := by
  unfold State.updateEntry
  split
  · exact hk
  · exact kept_ite hk (kept_updDie hk)

theorem kept_uncheck {pa : Nat} (hk : s.kept) : (s.uncheck pa).kept := kept_frame hk

theorem kept_noteWrite {cells : List (Nat × Byte)} (hk : s.kept) : (s.noteWrite a vf l cells).kept :=
  kept_ite (kept_uncheck (kept_updateEntry (kept_dirtyPage hk))) (kept_updateEntry (kept_dirtyPage hk))

/-- Issuing a write changes neither the bytes nor the log. -/
theorem MemSys.kept_issue {m : MemSys} {cells : List (Nat × Byte)} {colours : Byte} {ms enc : Bool} (h : m.kept) :
    (m.issue a vf cells colours ms enc chan).kept :=
  MemSys.kept_frame h

theorem ends_writeCells {cells : List (Nat × Byte)} {colours : Byte} (hk : s.kept) :
    Ends State.itself (s.writeCells a vf l cells colours chan) := by
  have hnoted : (s.noteWrite a vf l cells).kept := kept_noteWrite hk
  unfold State.writeCells
  refine ends_check fun _ => ?_
  dsimp only
  split
  · exact ends_onward (ends_foldlM (fun _ _ h => ends_peerWrite h) hnoted)
  · exact ends_ok (kept_setMem (MemSys.kept_issue hnoted.1) hnoted)

theorem ends_writeLeaf {bytes : List (Nat × Byte)} {colours : Byte} (hk : s.kept) :
    Ends State.itself (s.writeLeaf a vf l bytes colours) :=
  ends_writeCells hk

theorem ends_readVa {k : Kind} (hk : s.kept) : Ends Prod.fst (s.readVa a vf va n k instant) :=
  ends_check fun _ => Ends.bind (ends_translate hk) fun ⟨_, _⟩ hk1 => Ends.bind (ends_readLeaf hk1) fun ⟨_, _⟩ hk2 =>
    ends_ite (ends_ok hk2) (Ends.bind (ends_translate hk2) fun ⟨_, _⟩ hk3 => Ends.bind (ends_readLeaf hk3) fun ⟨_, _⟩ hk4 =>
    ends_ok hk4)

theorem ends_commitCells {cells : List (Nat × Byte)} (hk : s.kept) : Ends State.itself (s.commitCells a vf l cells) := by
  unfold State.commitCells
  refine ends_check fun _ => ?_
  dsimp only
  split
  · exact ends_foldlM (fun _ _ hk1 => ends_peerWrite hk1) (kept_noteWrite hk)
  · exact ends_ok (kept_setMem (MemSys.commit_kept _ _ _ _ _ _ (kept_noteWrite hk).1) (kept_noteWrite hk))

theorem ends_commitLeaf {bs : List Byte} (hk : s.kept) : Ends State.itself (s.commitLeaf a vf l bs) := ends_commitCells hk

theorem ends_commitVa {bs : List Byte} (hk : s.kept) : Ends State.itself (s.commitVa a vf va bs instant) :=
  ends_check fun _ => Ends.bind (ends_translate hk) fun ⟨_, _⟩ hk1 => ends_ite (ends_commitLeaf hk1) (Ends.bind (ends_translate hk1)
    fun ⟨_, _⟩ hk2 => Ends.bind (ends_commitLeaf hk2) fun _ hk3 => ends_commitLeaf hk3)

/-! ### The L1 (R198 to R200) -/

theorem kept_writeBack {l : L1Line} (hk : s.kept) : (s.writeBack core l).kept := by
  unfold State.writeBack
  refine kept_ite hk (kept_ite (kept_loseLine hk) ?_)
  split
  · next e => exact ends_writeCells hk _ e
  · exact hk

theorem kept_writeBackIf {p : L1Line → Bool} (hk : s.kept) : (s.writeBackIf core p).kept :=
  kept_updCore (kept_foldl (fun _ _ hk1 => kept_writeBack hk1) hk)

theorem kept_flushIf {p : L1Line → Bool} (hk : s.kept) : (s.flushIf core p).kept :=
  kept_updCore (kept_foldl (fun _ _ hk1 => kept_writeBack hk1) hk)

theorem kept_flushL1 (hk : s.kept) : (s.flushL1 core).kept := kept_flushIf hk

theorem kept_l1Insert {l : L1Line} (hk : s.kept) : (s.l1Insert core l).kept := by
  unfold State.l1Insert
  dsimp only
  refine kept_ite (kept_setCore hk) (kept_updCore ?_)
  split
  · exact kept_writeBack hk
  · exact hk

theorem ends_l1Fill {old : Option L1Line} (hk : s.kept) : Ends Prod.fst (s.l1Fill core vf l old) :=
  Ends.bind (ends_readLeaf hk) fun ⟨_, _⟩ hk1 => ends_ok (kept_l1Insert hk1)

theorem ends_loadLeaf (hk : s.kept) : Ends Prod.fst (s.loadLeaf core vf l n) := by
  unfold State.loadLeaf
  refine ends_ite (ends_readLeaf hk) ?_
  dsimp only
  split
  · exact ends_ite (ends_ok hk) (Ends.bind (ends_l1Fill hk) fun _ hk1 => ends_ok hk1)
  · exact Ends.bind (ends_l1Fill hk) fun _ hk1 => ends_ok hk1

theorem ends_storeLeaf {bs : List Byte} {colour : BitVec 3} (hk : s.kept) : Ends State.itself (s.storeLeaf core vf l bs colour) :=
  ends_ite (ends_writeLeaf hk) (ends_check fun _ => ends_ok (kept_l1Insert (kept_dirtyPage hk)))

theorem kept_keepSeen {t : State} (hk : s.kept) : (s.keepSeen t).kept :=
  kept_foldl (fun _ _ h => kept_updCore h) (kept_foldl (fun _ _ h => kept_updDie h) (kept_foldl (fun _ _ h => kept_updVf h)
    (show State.kept { s with mem := _, pf := _, sec := _ } from hk)))

theorem kept_side {a1 : Side} (hk : s.kept) : (s.side a1).kept := by
  unfold State.side
  split
  · exact kept_meetLines hk
  · dsimp only
    refine kept_postPf ?_
    split
    · exact kept_updCore (kept_frame hk)
    · exact kept_frame hk
  · exact kept_frame hk
  · exact kept_postPf hk
  · split
    · exact kept_postNode hk
    · exact hk
  · exact kept_sendPeer hk
  · exact kept_frame hk
  · exact kept_keepSeen hk
  · exact kept_foldl (fun _ _ hk1 => kept_loseLine hk1) hk
  · exact kept_dropEntry hk
  · exact kept_flushIf hk

theorem kept_applySides {l : List Side} (hk : s.kept) : (s.applySides l).kept := kept_foldl (fun _ _ hk1 => kept_side hk1) hk

theorem kept_keepMet {e : Stop} (hk : s.kept) : (s.keepMet e).kept := kept_applySides hk

/-! ### Handles, blocks and the layout unit (R228 to R236, R321) -/

theorem ends_readEntry {device : Bool} (hk : s.kept) : Ends Prod.fst (s.readEntry a device h instant) :=
  ends_check fun _ => ends_check fun _ => Ends.bind (ends_readVa hk) fun ⟨_, _⟩ hk1 => ends_ok hk1

theorem ends_deref {device write : Bool} (hk : s.kept) : Ends Prod.fst (s.deref a device h write instant) :=
  Ends.bind (ends_readEntry hk) fun ⟨_, _⟩ hk1 => ends_onward (ends_check fun _ => ends_ok hk1)

theorem ends_derefRead {device : Bool} {top : Nat} (hk : s.kept) : Ends Prod.fst (s.derefRead a device h instant top) :=
  Ends.bind (ends_readEntry hk) fun ⟨_, _⟩ hk1 => ends_onward (ends_check fun _ => ends_check fun _ => ends_check fun _ =>
    ends_ok hk1)

theorem ends_tileFrame {c : Coords} {tile : Nat} (hk : s.kept) : Ends Prod.fst (s.tileFrame a e c tile instant) :=
  Ends.bind (ends_readVa hk) fun ⟨_, _⟩ hk1 => ends_onward (ends_check fun _ => ends_ite (ends_check fun _ => ends_ok hk1)
    (ends_check fun _ => ends_ok hk1))

theorem ends_frameLeaf {f : Frame} {byte : Nat} {k : Kind} (hk : s.kept) : Ends Prod.fst (s.frameLeaf a e f byte k instant) := by
  unfold State.frameLeaf
  split
  · exact ends_onward (ends_check fun _ => ends_translate hk)
  · exact ends_ok hk

theorem ends_readTile {f : Frame} {tile byte : Nat} (hk : s.kept) : Ends Prod.fst (s.readTile a e f tile byte n instant) := by
  unfold State.readTile
  refine ends_check fun _ => ?_
  split
  · exact Ends.bind (ends_frameLeaf hk) fun ⟨_, _⟩ hk1 => ends_readLeaf hk1
  · exact Ends.bind (ends_frameLeaf hk) fun ⟨_, _⟩ hk1 => Ends.bind (ends_readLeaf hk1) fun ⟨_, _⟩ hk2 => ends_ok hk2

theorem ends_tileTarget {f : Frame} {tile elem : Nat} (hk : s.kept) : Ends Prod.fst (s.tileTarget a e f tile elem v) :=
  ends_check fun _ => Ends.bind (ends_frameLeaf hk) fun ⟨_, _⟩ hk1 => ends_check fun _ => ends_check fun _ => ends_ok hk1

theorem ends_mergeHome {w : OutWrite} {colours : Byte} (hk : s.kept) : Ends State.itself (s.mergeHome a w l colours chan) := by
  have hmet : (s.meetLines [l.pa / 64]).kept := kept_meetLines hk
  unfold State.mergeHome
  exact ends_check fun _ => ends_ok ⟨MemSys.enter_kept _ _ (MemSys.flushOwn_kept _ _ _ hmet.1), (kept_noteWrite hmet).2⟩

theorem ends_peerNibble {n : Nat × Bool × Nat} (hk : s.kept) : Ends State.itself (s.peerNibble a vf va n chan) := by
  unfold State.peerNibble
  dsimp only
  split
  · split
    · exact ends_error _
    · exact ends_check fun _ => ends_error _
  · split
    · exact ends_error _
    · refine ends_ite (ends_error _) (ends_ite (ends_ok (kept_updateEntry (kept_peerTake hk))) ?_)
      split
      · exact ends_error _
      · exact ends_check fun _ => ends_error _

theorem ends_peerUnit {w : OutWrite} {key : BitVec 512 × BitVec 128} {colours : Byte} (hk : s.kept) :
    Ends State.itself (s.peerUnit a w l key colours chan) := by
  unfold State.peerUnit
  dsimp only
  refine ends_check fun _ => ends_ite (ends_writeCells hk) ?_
  split
  · split
    · exact ends_error _
    · exact ends_ite (ends_error _) (ends_writeCells (kept_peerTake hk))
  · split
    · exact ends_error _
    · exact ends_check fun _ => ends_error _

theorem ends_sendPacket {p : Nat × Nat × LinkMsg} (hk : s.kept) : Ends State.itself (s.sendPacket a chan p) := by
  unfold State.sendPacket
  split
  · exact ends_ok (kept_loseRequest hk)
  · exact ends_check fun _ => ends_ok (kept_sendPeer hk)

theorem ends_emit {w : OutWrite} {colours : Byte} (hk : s.kept) : Ends Prod.fst (s.emit a w colours chan) := by
  unfold State.emit
  dsimp only
  split
  · exact Ends.bind (ends_sendPacket hk) fun _ hk1 => ends_ok hk1
  · refine ends_ite (Ends.bind (ends_writeCells hk) fun _ hk1 => ends_ok hk1) (ends_check fun _ => ?_)
    split
    · exact Ends.bind (ends_peerUnit hk) fun _ hk1 => ends_ok hk1
    · refine ends_ite ?_ (Ends.bind (ends_writeCells hk) fun _ hk1 => ends_ok hk1)
      split
      · exact ends_ok hk
      · exact Ends.bind (ends_peerNibble hk) fun _ hk1 => ends_ok hk1
    · exact Ends.bind (ends_mergeHome hk) fun _ hk1 => ends_ok hk1

theorem kept_fst_emitSome {colours : Byte} {l : List OutWrite} (hk : s.kept) : (s.emitSome a colours chan n l).1.kept := by
  induction n generalizing s l with
  | zero => cases l <;> exact hk
  | succ n ih =>
    cases l with
    | nil => exact hk
    | cons w ws =>
      unfold State.emitSome
      split
      · next e => exact ih (ends_emit hk _ e)
      · next e => exact ih (ends_emit hk _ e)
      · exact hk

theorem ends_readElem {c : Coords} (hk : s.kept) : Ends Prod.fst (s.readElem a e c instant) := by
  unfold State.readElem
  refine ends_check fun _ => ?_
  split
  · exact ends_ok hk
  · exact Ends.bind (ends_tileFrame hk) fun ⟨_, _⟩ hk1 => Ends.bind (ends_readTile hk1) fun ⟨_, _⟩ hk2 => ends_ok hk2

theorem ends_elemTarget {c : Coords} (hk : s.kept) : Ends Prod.fst (s.elemTarget a e c v) := by
  unfold State.elemTarget
  refine ends_check fun _ => ?_
  split
  · exact ends_error _
  · refine Ends.bind (ends_tileFrame hk) fun ⟨_, _⟩ hk1 => ?_
    dsimp only
    refine ends_onward ?_
    split
    · exact ends_check fun _ => ends_tileTarget hk1
    · exact ends_bindOk (ends_tileTarget hk1)

theorem ends_readRun {c : Coords} (hk : s.kept) : Ends Prod.fst (s.readRun a e c n) :=
  ends_foldlM (fun _ _ hk1 => Ends.bind (ends_readElem hk1) fun ⟨_, _⟩ hk2 => ends_ok hk2) hk

/-! ### Allocation and trims of KV blocks (R321 to R338) -/

theorem ends_derefKv {device : Bool} (hk : s.kept) : Ends Prod.fst (s.derefKv a device h instant) :=
  Ends.bind (ends_deref hk) fun ⟨_, _⟩ hk1 => ends_check fun _ => ends_ok hk1

theorem ends_readBlockAt {off : Nat} (hk : s.kept) : Ends Prod.fst (s.readBlockAt a vf b off n) := ends_readLeaf hk

theorem kept_commitBlockAt {off : Nat} {bs : List Byte} (hk : s.kept) : (s.commitBlockAt a vf b off bs).kept :=
  kept_setMem (MemSys.commit_kept _ _ _ _ _ _ (kept_dirtyPage hk).1) (kept_dirtyPage hk)

theorem ends_readHeader (hk : s.kept) : Ends Prod.fst (s.readHeader a vf b instant) :=
  Ends.bind (ends_translate hk) fun ⟨_, _⟩ hk1 => Ends.bind (ends_onward (ends_readBlockAt hk1)) fun ⟨_, _⟩ hk2 => ends_ok hk2

theorem kept_writeHeader {h : Header} (hk : s.kept) : (s.writeHeader a vf b h).kept := kept_commitBlockAt hk

theorem kept_fst_peekHeader (hk : s.kept) : (s.peekHeader d vf b).1.kept := by
  unfold State.peekHeader
  split
  · next e => exact ends_readBlockAt hk _ e
  · exact kept_applySides hk
  · exact kept_applySides hk

theorem kept_pokeHeader {f : Header → Header} (hk : s.kept) : (s.pokeHeader d vf b f).kept := by
  unfold State.pokeHeader
  split
  · next e => exact kept_ite (kept_of_pair (kept_fst_peekHeader hk) e) (kept_writeHeader (kept_of_pair (kept_fst_peekHeader hk) e))
  · next e => exact kept_of_pair (kept_fst_peekHeader hk) e

theorem kept_settleAll (hk : s.kept) : s.settleAll.kept := kept_setMem (MemSys.settle_kept _ hk.1) hk

theorem ends_readBlock {tile : Nat} (hk : s.kept) : Ends Prod.fst (s.readBlock a e tile instant) :=
  Ends.bind (ends_readVa hk) fun ⟨_, _⟩ hk1 => ends_ite (ends_ok hk1) (ends_check fun _ => ends_ok hk1)

theorem ends_writeBlock {tile : Nat} {b : Option Nat} (hk : s.kept) : Ends State.itself (s.writeBlock a e tile b instant) :=
  ends_commitVa hk

theorem ends_writeAux {nblk len : Nat} (hk : s.kept) : Ends State.itself (s.writeAux a e nblk len instant) := ends_commitVa hk

theorem kept_fst_takeBlock (hk : s.kept) : (s.takeBlock vf d).1.kept := kept_frame (kept_updDie hk)

theorem kept_refBlock {up : Bool} (hk : s.kept) : (s.refBlock b up).kept := kept_updDie hk

theorem ends_newBlock {layer lb : Nat} {pend lost : Dword} (hk : s.kept) :
    Ends Prod.fst (s.newBlock a e layer lb pend lost instant) :=
  Ends.bind (ends_readHeader (kept_fst_takeBlock hk)) fun ⟨_, _⟩ hk1 => ends_ok (kept_writeHeader hk1)

theorem ends_copyTile {src dst : Nat} (hk : s.kept) : Ends State.itself (s.copyTile a e src dst) :=
  Ends.bind (ends_readBlockAt hk) fun ⟨_, _⟩ hk1 => ends_ok (kept_commitBlockAt hk1)

theorem kept_bfDrop {from_ : Nat} (hk : s.kept) : (s.bfDrop vf h from_).kept := kept_foldl (fun _ _ hk1 => kept_updDie hk1) hk

theorem ends_unshareTail {lb : Nat} (hk : s.kept) : Ends State.itself (s.unshareTail a e lb instant) := by
  unfold State.unshareTail
  refine ends_forNat (fun _ _ hk1 => Ends.bind (ends_readBlock hk1) fun ⟨_, _⟩ hk2 => ?_) hk
  dsimp only
  split
  · exact ends_ok hk2
  · exact Ends.bind (ends_onward (ends_readHeader hk2)) fun _ hk3 => Ends.bind (ends_onward (ends_newBlock hk3)) fun _ hk4 =>
      Ends.bind (ends_onward (ends_copyTile hk4)) fun _ hk5 => Ends.bind (ends_onward (ends_writeBlock hk5)) fun _ hk6 =>
      ends_ok (kept_refBlock hk6)

theorem ends_tailShared {lb : Nat} (hk : s.kept) : Ends Prod.fst (s.tailShared a e lb instant) :=
  ends_foldlM (fun _ _ hk1 => Ends.bind (ends_onward (ends_readBlock hk1)) fun ⟨_, _⟩ hk2 => ends_ok hk2) hk

theorem ends_dropBlocks {first : Nat} (hk : s.kept) : Ends State.itself (s.dropBlocks a e first instant) := by
  unfold State.dropBlocks
  refine ends_forNat (fun _ _ hk1 => ends_forNat (fun _ _ hk2 => ?_) hk1) hk
  dsimp only
  refine Ends.bind (ends_readBlock hk2) fun _ hk3 => Ends.bind (ends_onward (ends_writeBlock hk3)) fun _ hk4 => ends_ok ?_
  split
  · exact kept_refBlock hk4
  · exact hk4

theorem ends_kvTrim {len : Nat} (hk : s.kept) : Ends Prod.fst (s.kvTrim a e len instant) := by
  unfold State.kvTrim
  dsimp only
  refine Ends.join (g := Prod.fst) (ends_ok hk) (ends_tailShared hk)
    fun _ hk1 => ends_ite (ends_ok hk1) (ends_onward (Ends.join (g := State.itself) (ends_unshareTail hk1) (ends_ok hk1)
    fun _ hk2 => Ends.bind (ends_onward (ends_dropBlocks hk2)) fun _ hk3 =>
    Ends.bind (ends_onward (ends_ite (ends_ok hk3) (ends_forNat (fun _ _ hk4 => Ends.bind (ends_readBlock hk4) fun _ hk5 =>
    ?_) hk3))) fun _ hk4 => Ends.bind (ends_onward (ends_writeAux hk4)) fun _ hk5 => ends_ok hk5))
  split
  · exact ends_ok hk5
  · exact Ends.bind (ends_onward (ends_readHeader hk5)) fun _ hk6 => ends_ok (kept_writeHeader hk6)

theorem ends_evenCounters {keep : Nat} (hk : s.kept) : Ends State.itself (s.evenCounters a e keep instant) := by
  unfold State.evenCounters
  refine ends_forNat (fun _ _ hk1 => ends_forNat (fun _ _ hk2 => Ends.bind (ends_readBlock hk2) fun ⟨_, _⟩ hk3 => ?_) hk1) hk
  dsimp only
  split
  · exact ends_ok hk3
  · exact Ends.bind (ends_onward (ends_readHeader hk3)) fun _ hk4 => ends_ite (ends_ok (kept_writeHeader hk4)) (ends_ok hk4)

theorem ends_rewindOne {len : Option Word} (hk : s.kept) : Ends Prod.fst (s.rewindOne h len) := by
  unfold State.rewindOne
  dsimp only
  refine Ends.bind (ends_derefKv (kept_settleAll hk)) fun _ hk1 => ?_
  split
  · exact Ends.bind (ends_onward (ends_evenCounters hk1)) fun _ hk2 => ends_ok hk2
  · exact ends_check fun _ => Ends.bind (ends_onward (ends_kvTrim (kept_bfDrop hk1))) fun _ hk2 =>
      Ends.bind (ends_onward (ends_evenCounters hk2)) fun _ hk3 => ends_ok hk3

theorem kept_runRewinds (hk : s.kept) : s.runRewinds.kept := by
  unfold State.runRewinds
  dsimp only
  refine kept_foldl (fun _ _ hk1 => ?_) (kept_frame hk)
  split
  · next e => exact kept_ite (ends_rewindOne hk1 _ e) (kept_postNode (ends_rewindOne hk1 _ e))
  · exact kept_frame (kept_applySides hk1)
  · exact kept_postNode (kept_applySides hk1)

/-! ### The adapter unit (R354 to R365) -/

theorem kept_updAdapter {i : Nat} {f : AdEntry → AdEntry} (hk : s.kept) : (s.updAdapter vf i f).kept := kept_updVf hk

theorem kept_mapKeyed {hs : List Dword} {f : PEntry → PEntry} (hk : s.kept) : (s.mapKeyed vf hs f).kept := kept_frame hk

theorem kept_repin {hs : List Dword} (hk : s.kept) : (s.repin vf hs).kept := kept_mapKeyed hk

theorem kept_fst_learnHands {rec : Nat} {hs : List (Option Dword)} (hk : s.kept) : (s.learnHands vf rec hs).1.kept := by
  unfold State.learnHands
  refine kept_fst_foldl (fun p a h => ?_) hk
  split
  · exact h
  · split
    · next e => exact ends_readVa h _ e
    · exact kept_applySides h

theorem kept_learn {i : Nat} (hk : s.kept) : (s.learn vf i).kept :=
  kept_ite hk (kept_repin (kept_updAdapter (kept_fst_learnHands (kept_fst_learnHands hk))))

theorem kept_learnAll (hk : s.kept) : (s.learnAll vf).kept := kept_foldl (fun _ _ hk1 => kept_learn hk1) hk

theorem kept_dropKeyed {hs : List Dword} (hk : s.kept) : (s.dropKeyed vf hs).kept := kept_mapKeyed hk

theorem kept_evict {i : Nat} (hk : s.kept) : (s.evict vf i).kept := kept_updAdapter (kept_dropKeyed hk)

theorem kept_dropRef {h : Word} {ver : BitVec 28} (hk : s.kept) : (s.dropRef vf h ver).kept :=
  kept_ite (kept_ite (kept_evict (kept_repin (kept_updAdapter (kept_learn hk)))) (kept_repin (kept_updAdapter (kept_learn hk))))
    (kept_ite (kept_ite (kept_postRing0 (kept_updAdapter (kept_repin (kept_updAdapter (kept_learn hk)))))
    (kept_repin (kept_updAdapter (kept_learn hk)))) (kept_learn hk))

theorem kept_applyLog (hk : s.kept) : (s.applyLog i).kept := by
  unfold State.applyLog
  split
  · exact hk
  · exact kept_foldl (fun _ _ hk1 => kept_ite (kept_dropRef hk1) hk1) (kept_setNode hk)

theorem kept_discardLog (hk : s.kept) : (s.discardLog i).kept := by
  unfold State.discardLog
  split
  · exact hk
  · exact kept_foldl (fun _ _ hk1 => kept_ite hk1 (kept_dropRef hk1)) (kept_setNode hk)

theorem kept_fst_newTicket {t : TicketOf} (hk : s.kept) : (s.newTicket d t).1.kept := kept_updDie hk

theorem kept_wakeNode (hk : s.kept) : (s.wakeNode i).kept := by
  unfold State.wakeNode
  split
  · exact hk
  · exact kept_ite hk (kept_setNode hk)

theorem kept_wakeAll (hk : s.kept) : s.wakeAll.kept := kept_foldl (fun _ _ hk1 => kept_wakeNode hk1) hk

theorem kept_endTicket {t : Nat} (hk : s.kept) : (s.endTicket d t).kept := kept_wakeAll (kept_updDie hk)

theorem kept_endLoadTickets {i : Nat} (hk : s.kept) : (s.endLoadTickets vf i).kept :=
  kept_foldl (fun _ _ hk1 => kept_foldl (fun _ _ hk2 => kept_endTicket hk2) hk1) hk

theorem ends_raiseGen (hk : s.kept) : Ends State.itself (s.raiseGen vf h instant) :=
  ends_check fun _ => ends_check fun _ => Ends.bind (ends_readVa hk) fun ⟨_, _⟩ hk1 => ends_onward (ends_commitVa hk1)

theorem ends_retireOne {r : Retire} {teardown : Bool} (hk : s.kept) : Ends Prod.fst (s.retireOne r teardown) := by
  unfold State.retireOne
  split
  · dsimp only
    split
    · next e1 => exact ends_ok (ends_readVa hk _ e1)
    · exact ends_ok (kept_applySides hk)
    · exact ends_ite (ends_ok hk) (ends_error _)
  · dsimp only
    split
    · next e2 => exact ends_ok (ends_raiseGen hk _ e2)
    · exact ends_ok (kept_applySides hk)
    · exact ends_ite (ends_ok hk) (ends_error _)
  · exact ends_ok hk

theorem kept_fst_retireRun {teardown : Bool} {r : Retire} (hk : s.kept) : (State.retireRun teardown n s r).1.kept := by
  induction n generalizing s r with
  | zero => exact hk
  | succ n ih =>
    unfold State.retireRun
    split
    · next e => exact ih (ends_retireOne hk _ e)
    · exact kept_applySides hk

theorem kept_retireEntry {i : Nat} (hk : s.kept) : (s.retireEntry vf i).kept := kept_endLoadTickets (kept_updAdapter hk)

theorem kept_finishRetire {r : Retire} {teardown : Bool} (hk : s.kept) : (s.finishRetire r teardown).kept :=
  kept_ite (kept_postRing0 (kept_dropKeyed (kept_fst_retireRun hk))) (kept_frame (kept_fst_retireRun hk))

theorem kept_retire {i cause : Nat} {teardown : Bool} (hk : s.kept) : (s.retire vf i cause teardown).kept :=
  kept_finishRetire (kept_retireEntry hk)

theorem kept_endReplace (hk : s.kept) : s.endReplace.kept := by
  unfold State.endReplace
  split
  · exact kept_ite hk (kept_frame hk)
  · exact hk

theorem kept_runRetires (hk : s.kept) : s.runRetires.kept :=
  kept_endReplace (kept_foldl (fun _ _ hk1 => kept_ite hk1 (kept_updVf hk1)) (kept_foldl (fun _ _ hk1 => kept_finishRetire hk1)
    (kept_frame hk)))

/-! ### Probe tag tables (R202 to R204) -/

theorem kept_setPentry {t : PTable} {i : Nat} {e : PEntry} (hk : s.kept) : (s.setPentry t i e).kept := by
  unfold State.setPentry
  split
  · exact kept_updCore hk
  · exact kept_updDie hk

theorem kept_fst_queueFill {t : PTable} {i tile : Nat} (hk : s.kept) : (s.queueFill t i vf h tile).1.kept :=
  kept_setPentry (kept_fst_newTicket hk)

theorem ends_fillBytes {tile : Nat} {raw : Bool} (hk : s.kept) : Ends Prod.fst (s.fillBytes d vf h tile raw) := by
  unfold State.fillBytes
  dsimp only
  refine ends_check fun _ => Ends.bind (ends_derefRead hk) fun _ hk1 => ends_onward (ends_check fun _ => ends_check fun _ =>
    Ends.bind (ends_tileFrame hk1) fun _ hk2 => Ends.bind (ends_frameLeaf hk2) fun _ hk3 => Ends.bind (ends_readLeaf hk3)
    fun _ hk4 => ?_)
  split <;> exact ends_ok hk4

theorem kept_countFill (hk : s.kept) : (s.countFill vf).kept := kept_updVf hk

theorem kept_filled {t : PTable} {i ticket : Nat} {e : PEntry} (hk : s.kept) : (s.filled t i ticket e).kept :=
  kept_endTicket (kept_setPentry hk)

theorem kept_endFill {t : PTable} {i : Nat} (hk : s.kept) : (s.endFill t i).kept := by
  unfold State.endFill
  dsimp only
  split
  · next e => exact kept_filled (kept_updCore (ends_fillBytes hk _ e))
  · next e => exact kept_filled (ends_fillBytes hk _ e)
  · exact kept_filled (kept_dropReads (kept_applySides hk))
  · exact kept_applySides hk
  · exact kept_filled (kept_applySides hk)

theorem kept_endRegionFills (hk : s.kept) : (s.endRegionFills core).kept := kept_foldl (fun _ _ hk1 => kept_endFill hk1) hk

end Sys2Proof.Machine
end


section
/-! PROOFS. Memory in its canonical form under the operations on nodes, under traps, and under the instructions of streams
(R261, R262). -/

namespace Sys2Proof.Machine
open Sys2Proof

variable {s : State} {vf core va d v : Nat} {a : Agent} {i h : Dword} {q : EngQ} {instant stop : Bool} {l : Leaf} {o : R3}

/-! ### Nodes (R289 to R309) -/

theorem ends_readDesc (hk : s.kept) : Ends Prod.fst (s.readDesc a vf va instant) := ends_readVa hk

theorem ends_readSucc {d : Desc} (hk : s.kept) : Ends Prod.fst (s.readSucc a vf d instant) :=
  ends_ite (ends_ok hk) (Ends.bind (ends_readVa hk) fun ⟨_, _⟩ hk1 => ends_ok hk1)

theorem ends_readList {d : Desc} (hk : s.kept) : Ends Prod.fst (s.readList a vf d instant) :=
  ends_ite (ends_ok hk) (ends_foldlM (fun _ _ hk1 => Ends.bind (ends_readVa hk1) fun ⟨_, _⟩ hk2 => ends_ok hk2) hk)

theorem kept_setPhaser {p : Phaser} (hk : s.kept) : (s.setPhaser i p).kept := kept_updDie hk

theorem kept_dropMembers (hk : s.kept) : (s.dropMembers i).kept := by
  unfold State.dropMembers
  split
  · exact hk
  · exact kept_foldl (fun _ _ hk1 => kept_setPhaser hk1) (kept_setNode hk)

theorem kept_notePrio {n : Node} (hk : s.kept) : (s.notePrio i n).kept := kept_ite hk (kept_setNode hk)

theorem kept_notePrios (hk : s.kept) : s.notePrios.kept := kept_foldl (fun _ _ hk1 => kept_notePrio hk1) hk

theorem kept_charge (hk : s.kept) : (s.charge i).kept := by
  unfold State.charge
  split
  · exact hk
  · exact kept_updVf (kept_frame hk)

theorem kept_dropDeficits (hk : s.kept) : (s.dropDeficits v).kept := kept_updVf hk

theorem kept_withdraw {cs : List Nat} (hk : s.kept) : (s.withdraw cs).kept := kept_frame hk

theorem kept_leave {cs : List Nat} {next : NodeState} (hk : s.kept) : (s.leave i cs next).kept :=
  kept_updNode (kept_foldl (fun _ _ hk1 => kept_updCore hk1) (kept_frame (kept_withdraw (kept_charge hk))))

theorem kept_flushAll {cs : List Nat} (hk : s.kept) : (s.flushAll cs).kept := kept_foldl (fun _ _ hk1 => kept_flushL1 hk1) hk

theorem kept_forcePreempt (hk : s.kept) : (s.forcePreempt i).kept := by
  unfold State.forcePreempt
  split
  · exact hk
  · next n _ =>
    have hfilled : (n.cores.foldl State.endRegionFills s).kept := kept_foldl (fun _ _ h => kept_endRegionFills h) hk
    have hflushed : ((n.cores.foldl State.endRegionFills s).flushAll n.cores).kept := kept_flushAll hfilled
    exact kept_ite hfilled (kept_updNode (kept_leave (kept_setMem (MemSys.drain_kept _ _ hflushed.1) hflushed)))

theorem kept_fst_kvTails {d : Desc} (hk : s.kept) : (s.kvTails vf d).1.kept := by
  unfold State.kvTails
  refine kept_fst_foldl (fun _ _ hk1 => ?_) hk
  dsimp only
  refine kept_fst_ite ?_ hk1
  split
  · next e => exact ends_derefKv hk1 _ e
  · exact kept_keepMet hk1

theorem kept_checkpoint {offC offX : Word} {npos : Dword} (hk : s.kept) : (s.checkpoint i core offC offX npos).kept := by
  unfold State.checkpoint
  split
  · exact hk
  · exact kept_foldl (fun _ _ hk1 => kept_updCore hk1) (kept_setNode (kept_fst_kvTails hk))

theorem kept_makeReady (hk : s.kept) : (s.makeReady i).kept := kept_updNode hk

theorem kept_lower (hk : s.kept) : (s.lower i).kept := by
  unfold State.lower
  split
  · exact hk
  · exact kept_ite (kept_makeReady (kept_setNode hk)) (kept_setNode hk)

theorem kept_freeSerial {g : Nat} (hk : s.kept) : (s.freeSerial g).kept := by
  unfold State.freeSerial
  split
  · exact hk
  · exact kept_ite hk (kept_foldl (fun _ _ hk1 => kept_ite (kept_makeReady hk1) hk1) (kept_setGraph hk))

theorem kept_checkGraph {g : Nat} (hk : s.kept) : (s.checkGraph g).kept := by
  unfold State.checkGraph
  split
  · exact hk
  · exact kept_ite hk (kept_freeSerial (kept_postVf (kept_setGraph hk)))

theorem kept_dropFrom {g fuel : Nat} {l : List Nat} (hk : s.kept) : (s.dropFrom g fuel l).kept := by
  induction fuel generalizing s l with
  | zero => exact hk
  | succ fuel ih =>
    cases l with
    | nil => exact hk
    | cons i rest =>
      unfold State.dropFrom
      split
      · exact ih hk
      · exact kept_ite (ih hk) (ih (kept_ite (kept_postNode (kept_setNode hk)) (kept_setNode hk)))

theorem kept_settleGraph {n : Node} {status : Byte} (hk : s.kept) : (s.settleGraph i n status).kept := by
  unfold State.settleGraph
  dsimp only
  split
  · exact hk
  · exact kept_checkGraph (kept_ite (kept_foldl (fun _ _ hk1 => kept_lower hk1) hk) (kept_dropFrom (kept_setGraph hk)))

theorem kept_updBf {nidx : Nat} {f : BfEntry → BfEntry} (hk : s.kept) : (s.updBf d nidx f).kept := kept_updDie hk

theorem kept_removeBf {nidx : Nat} (hk : s.kept) : (s.removeBf d nidx).kept := kept_updDie hk

theorem kept_fst_bfBlocks {e : BfEntry} (hk : s.kept) : (s.bfBlocks d e).1.kept := by
  unfold State.bfBlocks
  split
  · exact kept_keepMet hk
  · next e1 =>
      refine kept_fst_foldl (fun _ _ hk1 => ?_) (ends_derefKv hk _ e1)
      split
      · next e2 => exact ends_readBlock hk1 _ e2
      · exact kept_keepMet hk1

theorem kept_fst_bfPending {e : BfEntry} (hk : s.kept) : (s.bfPending d e).1.kept :=
  kept_fst_foldl (fun _ _ hk1 => kept_fst_peekHeader hk1) (kept_fst_bfBlocks hk)

theorem kept_bfFail {e : BfEntry} {status : Byte} {word : Nat} (hk : s.kept) : (s.bfFail d e status i word).kept :=
  kept_removeBf (kept_postVf (kept_foldl (fun _ _ hk1 => kept_pokeHeader hk1) (kept_fst_bfBlocks hk)))

theorem kept_fst_bfDesc {e : BfEntry} (hk : s.kept) : (s.bfDesc d e).1.kept := by
  unfold State.bfDesc
  refine kept_fst_ite hk ?_
  split
  · exact kept_keepMet hk
  · next e1 =>
      split <;> exact ends_readDesc hk _ e1

theorem kept_bfCreate {e : BfEntry} {word left : Nat} (hk : s.kept) : (s.bfCreate d e word left).kept := by
  induction left generalizing s e word with
  | zero => exact kept_bfFail hk
  | succ left ih =>
    have hdesc : (s.bfDesc d e).1.kept := kept_fst_bfDesc hk
    unfold State.bfCreate
    dsimp only
    split
    · next e' => exact ih (kept_postVf (kept_of_pair hdesc e'))
    · next e' => exact kept_makeReady (kept_setNode (kept_updBf (kept_of_pair hdesc e')))

theorem kept_bfEnd {status : Byte} {word : Nat} (hk : s.kept) : (s.bfEnd i status word).kept := by
  unfold State.bfEnd
  split
  · exact hk
  · exact kept_ite (kept_removeBf (kept_fst_bfPending hk)) (kept_bfCreate (kept_updBf (kept_fst_bfPending hk)))

theorem kept_finishNode {status : Byte} {word : Nat} (hk : s.kept) : (s.finishNode i status word).kept := by
  unfold State.finishNode
  split
  · exact hk
  · exact kept_dropDeficits (kept_wakeAll (kept_runRetires (kept_runRewinds (kept_ite (kept_bfEnd (kept_frame (kept_setNode hk)))
      (kept_settleGraph (kept_frame (kept_setNode hk)))))))

theorem kept_stopNode {id : Dword} {next : NodeState} (hk : s.kept) : (s.stopNode id next).kept := by
  unfold State.stopNode
  split
  · exact hk
  · next n _ =>
    have hleft : (((({ s with mem := s.mem.drain (ofCores n.cores) } : State).leave id n.cores next).dropMembers id).discardLog
      id).kept := kept_discardLog (kept_dropMembers (kept_leave (kept_setMem (MemSys.drain_kept _ _ hk.1) hk)))
    exact kept_frame (kept_updNode (kept_frame hleft))

theorem kept_postEnd {status : Byte} {last : List Byte} (hk : s.kept) : (s.postEnd i status last).kept :=
  kept_finishNode (kept_postVf hk)

theorem kept_stopWith {id : Dword} {status : Byte} {last : List Byte} {finish : State → State}
    (hf : ∀ t, t.kept → (finish t).kept) (hk : s.kept) : (s.stopWith id status last finish).kept := by
  unfold State.stopWith
  split
  · exact hk
  · split
    · exact kept_stopNode hk
    · exact hf _ (kept_stopNode (kept_postVf hk))

theorem kept_abortNode {status cause flags index : Nat} (hk : s.kept) : (s.abortNode i status cause flags index).kept := by
  unfold State.abortNode
  exact kept_stopWith (fun _ hk1 => kept_finishNode hk1) hk

theorem kept_endStopped (hk : s.kept) : s.endStopped.kept := by
  unfold State.endStopped
  refine kept_foldl (fun _ _ hk1 => ?_) hk
  split
  · exact kept_ite hk1 (kept_postEnd hk1)
  · exact hk1

theorem kept_contain {code : Nat} (hk : s.kept) : (s.contain i code va).kept := by
  unfold State.contain
  split
  · exact hk
  · exact kept_ite (kept_runRewinds (kept_updNode (kept_stopNode (kept_postNode hk)))) (kept_abortNode hk)

theorem kept_endDone (hk : s.kept) : (s.endDone i).kept := by
  unfold State.endDone
  split
  · exact hk
  · next n _ =>
    have happlied : ((({ s with mem := s.mem.drain (ofCores n.cores) } : State).dropMembers i).applyLog i).kept :=
      kept_applyLog (kept_dropMembers (kept_setMem (MemSys.drain_kept _ _ hk.1) hk))
    exact kept_finishNode (kept_leave (kept_ite (kept_postNode happlied) happlied))

theorem kept_pendPreempt {susp : Bool} (hk : s.kept) : (s.pendPreempt i susp).kept := kept_updNode hk

/-! ### Traps, waits and the end of a step (R77 to R80, R417, R423) -/

theorem kept_takeTrap {x : Bool} {code : Byte} {val : Dword} {flags : Nat} {frec : FaultRec} (hk : s.kept) :
    (s.takeTrap core x code val flags frec).kept := by
  unfold State.takeTrap
  dsimp only
  refine kept_ite ?_ (kept_setCore (kept_dropReads hk))
  split
  · exact kept_abortNode (kept_dropReads hk)
  · exact kept_updCore (kept_dropReads hk)

theorem kept_preciseTrap {x : Bool} {t : Trap} (hk : s.kept) : (s.preciseTrap core x t).kept := by
  unfold State.preciseTrap
  dsimp only
  split
  · exact kept_contain (kept_applySides hk)
  · exact kept_takeTrap (kept_applySides hk)

theorem kept_trapHere {t : Trap} (hk : s.kept) : (s.trapHere t).kept := kept_frame (kept_preciseTrap hk)

theorem kept_waitHere {on : WaitOn} {sides : List Side} (hk : s.kept) : (s.waitHere on sides).kept := by
  have hsides : (s.applySides sides).kept := kept_applySides hk
  unfold State.waitHere
  dsimp only
  split
  · exact kept_frame (kept_updHere (kept_updSelf hsides))
  · exact kept_frame (kept_updSelf hsides)

theorem kept_settled {r : Except Stop State} (hr : Ends State.itself r) (hk : s.kept) : (s.settled r).kept := by
  cases r with
  | ok t => exact hr t rfl
  | error e =>
    cases e with
    | trap t => exact kept_trapHere hk
    | wait on sides => exact kept_waitHere hk

theorem leads_runStream {body : State → Except Stop State} (hb : Ends State.itself (body s)) (hk : s.kept) :
    Leads (runStream s body) :=
  leads_next (kept_settled hb hk)

theorem ends_transfer {t : Dword} (hk : s.kept) : Ends State.itself (s.transfer t) := ends_check fun _ => ends_ok (kept_jumpTo hk)

theorem ends_trapReturn (hk : s.kept) : Ends State.itself (s.trapReturn) :=
  ends_check fun _ => ends_ok (kept_retired (kept_updHere (kept_updSelf hk)))

theorem kept_updEng {f : EngQueue → EngQueue} (hk : s.kept) : (s.updEng core q f).kept := kept_updCore hk

theorem kept_engineFault {t : Trap} (hk : s.kept) : (s.engineFault core q t).kept := by
  unfold State.engineFault
  dsimp only
  split
  · exact kept_abortNode hk
  · exact kept_updEng hk

theorem kept_deviceFault {t : Trap} (hk : s.kept) : (s.deviceFault core q t).kept := kept_takeTrap (kept_updEng hk)

theorem kept_engineStep {body : State → Except Stop State} (hb : Ends State.itself (body s)) (hk : s.kept) :
    (s.engineStep core q body).kept := by
  unfold State.engineStep
  split
  · next t e => exact kept_updCore (kept_updEng (kept_dropReads (hb t e)))
  · have hsides {l : List Side} : ((s.applySides l).dropReads (.engine core q)).kept := kept_dropReads (kept_applySides hk)
    dsimp only
    split
    · split
      · exact kept_deviceFault hsides
      · exact kept_contain hsides
      · exact kept_engineFault hsides
    · exact kept_engineFault hsides
  · exact kept_updEng (kept_ite (kept_applySides hk) (kept_dropReads (kept_applySides hk)))

theorem kept_deliver (hk : s.kept) : (s.deliver core).kept := by
  unfold State.deliver
  split
  · exact hk
  · exact kept_takeTrap (kept_updEng hk)

/-! ### Vector instructions (R109 to R116) -/

theorem ends_vec2 {i : Instr} {o : V3} {ok : Nat → Bool} {f : Core → Vec → Vec → Vec × Fp.Flags} (hk : s.kept) :
    Ends State.itself (s.vec2 i o ok f) :=
  ends_check fun _ => ends_check fun _ => ends_ok (kept_done (kept_setCore hk))

theorem ends_vec1 {i : Instr} {d a : Reg} {peek : Bool} {ok : Nat → Bool} {f : Core → Vec → Vec × Fp.Flags} (hk : s.kept) :
    Ends State.itself (s.vec1 i d a peek stop ok f) :=
  ends_check fun _ => ends_check fun _ => ends_ok (kept_done (kept_setCore hk))

theorem ends_vecCmp {i : Instr} {o : VCmp} {ok : Nat → Bool} {f : Nat → Nat → Bool × Bool} (hk : s.kept) :
    Ends State.itself (s.vecCmp i o ok f) :=
  ends_check fun _ => ends_check fun _ => ends_ok (kept_done (kept_setCore hk))

/-! ### Loads and stores (R207 to R211) -/

theorem leads_execLd {o : MLd} (hk : s.kept) : Leads (execLd o s) :=
  leads_runStream (ends_check fun _ => ends_ite (ends_check fun _ => ends_ok (kept_done (kept_setReg hk))) (ends_check fun _ =>
    Ends.bind (ends_translate hk) fun ⟨_, _⟩ hk1 => Ends.bind (ends_loadLeaf hk1) fun ⟨_, _⟩ hk2 =>
    ends_ok (kept_done (kept_setReg hk2)))) hk

theorem leads_execSt {o : MSt} (hk : s.kept) : Leads (execSt o s) :=
  leads_runStream (ends_check fun _ => ends_ite (ends_check fun _ => ends_ok (kept_done (kept_updHere hk))) (ends_check fun _ =>
    Ends.bind (ends_translate hk) fun ⟨_, _⟩ hk1 => Ends.bind (ends_storeLeaf hk1) fun _ hk2 => ends_ok (kept_done hk2))) hk

theorem leads_execQrdh (hk : s.kept) : Leads (execQrdh o s) :=
  leads_runStream (ends_check fun _ => ends_check fun _ => Ends.bind (ends_atCoords (ends_derefRead hk)) fun ⟨_, _⟩ hk1 =>
    Ends.bind (ends_onward (ends_readRun hk1)) fun ⟨_, _⟩ hk2 => ends_ok (kept_done (kept_updHere hk2))) hk

/-! ### Adapter instructions and loads (R361, R369 to R374) -/

theorem kept_alogAdd {r : LogRec} (hk : s.kept) : (s.alogAdd r).kept := by
  unfold State.alogAdd
  split
  · exact kept_updNode hk
  · exact hk

theorem ends_adapterOrder (hk : s.kept) : Ends State.itself (s.adapterOrder) :=
  ends_check fun _ => Ends.bind (ends_release hk) fun _ hk1 => ends_ok (kept_settleAll hk1)

theorem kept_updAdapterOf {t : Dword} {f : AdEntry → AdEntry} (hk : s.kept) : (s.updAdapterOf t f).kept := kept_updAdapter hk

theorem kept_prefetch (hk : s.kept) : (s.prefetch d vf h).kept := by
  unfold State.prefetch
  dsimp only
  refine kept_ite (kept_learnAll hk) ?_
  split
  · exact kept_fst_queueFill (kept_learnAll hk)
  · exact kept_learnAll hk

theorem kept_takeRef {t : Dword} {old : Bool} (hk : s.kept) : (s.takeRef t old).kept :=
  kept_ite (kept_repin (kept_updAdapterOf (kept_learn hk))) (kept_repin (kept_updAdapterOf (kept_learn hk)))

theorem kept_startLoad {t : Dword} (hk : s.kept) : (s.startLoad t).kept := kept_updAdapterOf hk

theorem ends_admitVersion {t : Dword} {old : Bool} (hk : s.kept) : Ends Prod.fst (s.admitVersion t old) := by
  have hlogged {r : LogRec} : ((s.takeRef t old).alogAdd r).kept := kept_alogAdd (kept_takeRef hk)
  unfold State.admitVersion
  refine ends_check fun _ => ends_ok (kept_ite ?_ (kept_foldl (fun _ _ h => kept_prefetch h) ?_))
  all_goals exact kept_ite (kept_startLoad hlogged) hlogged

theorem leads_execAadmit {o : R2} (hk : s.kept) : Leads (execAadmit o s) :=
  leads_runStream (ends_check fun _ => Ends.bind (ends_adapterOrder hk) fun _ hk1 =>
    ends_ite (ends_bindOk (ends_ok (kept_done (kept_setReg hk1)))) (ends_ite (ends_bindOk (ends_ok (kept_done (kept_setReg hk1))))
    (ends_ite (Ends.bind (ends_admitVersion hk1) fun _ hk2 => ends_ok (kept_done (kept_setReg hk2))) (Ends.join (g := Prod.fst)
    (ends_admitVersion hk1) (ends_ok hk1) fun ⟨_, _⟩ hk2 => ends_ok (kept_done (kept_setReg hk2)))))) hk

theorem ends_readFactor {fmt : BitVec 4} (hk : s.kept) : Ends Prod.fst (s.readFactor va fmt) :=
  Ends.bind (ends_readVa hk) fun ⟨_, _⟩ hk1 => Ends.bind (ends_onward (ends_deref hk1)) fun ⟨_, _⟩ hk2 => ends_check fun _ =>
    ends_ok hk2

theorem kept_fst_loadTicket {i : Nat} (hk : s.kept) : (s.loadTicket d vf i).1.kept := by
  unfold State.loadTicket
  split
  · exact hk
  · exact kept_fst_newTicket hk

theorem ends_resolve {off layer r nlayer : Nat} {fmt : BitVec 4} {alpha : Word} {rank : Nat} {ver : BitVec 28} (hk : s.kept) :
    Ends State.itself (s.resolve off layer r nlayer fmt alpha rank ver) :=
  ends_check fun _ => Ends.bind (ends_readFactor hk) fun ⟨_, _⟩ hk1 => Ends.bind (ends_onward (ends_readFactor hk1)) fun ⟨_, _⟩
    hk2 => ends_ok (kept_updHere hk2)

theorem leads_execAresolve (hk : s.kept) : Leads (execAresolve o s) := by
  unfold execAresolve
  refine leads_runStream (ends_check fun _ => ends_check fun _ => ends_check fun _ => ends_check fun _ =>
    Ends.bind (ends_adapterOrder hk) fun t hk1 => ?_) hk
  refine ends_ite (ends_ok (kept_done (kept_setReg hk1))) (ends_ite (ends_ite ?_ ?_) (ends_ite ?_ ?_))
  · exact ends_ok (kept_done (kept_setReg (kept_fst_loadTicket (kept_ite (kept_startLoad hk1) hk1))))
  · exact Ends.bind (g := Prod.fst) ((ends_resolve (kept_ite (kept_startLoad hk1) hk1)).map fun _ h => h) fun _ hk2 =>
      ends_ok (kept_done (kept_setReg hk2))
  · exact Ends.bind (g := Prod.fst) ((ends_resolve hk1).map fun _ h => h) fun _ hk2 => ends_ok (kept_done (kept_setReg hk2))
  · exact ends_ok (kept_done (kept_setReg hk1))

theorem leads_execArel {o : RA} (hk : s.kept) : Leads (execArel o s) :=
  leads_runStream (ends_check fun _ => Ends.bind (ends_adapterOrder hk) fun _ hk1 => ends_check fun _ => ends_check fun _ =>
    ends_ok (kept_done (kept_alogAdd hk1))) hk

theorem ends_publish {t r : Dword} (hk : s.kept) : Ends Prod.fst (s.publish t r) :=
  ends_check fun _ => Ends.bind (ends_readVa hk) fun ⟨_, _⟩ hk1 => ends_check fun _ =>
    ends_ite (ends_ok hk1) (ends_ok (kept_learn (kept_updAdapterOf hk1)))

theorem leads_execApublish (hk : s.kept) : Leads (execApublish o s) :=
  leads_runStream (ends_check fun _ => Ends.bind (ends_adapterOrder hk) fun _ hk1 =>
    ends_ite (ends_bindOk (ends_ok (kept_done (kept_setReg hk1)))) (ends_ite (ends_bindOk (ends_ok (kept_done (kept_setReg hk1))))
    (ends_ite (ends_bindOk (ends_ok (kept_done (kept_setReg hk1)))) (Ends.join (g := Prod.fst) (ends_ok hk1) (ends_publish hk1)
    fun ⟨_, _⟩ hk2 => ends_ok (kept_done (kept_setReg hk2)))))) hk

theorem leads_execAclaim (hk : s.kept) : Leads (execAclaim o s) := by
  unfold execAclaim
  refine leads_runStream (ends_check fun _ => ends_check fun _ => ends_check fun _ => Ends.bind (ends_adapterOrder hk) fun t hk1 =>
    ends_ok (kept_done (kept_setReg ?_))) hk
  refine kept_fst_ite hk1 (kept_fst_ite hk1 ?_)
  split
  · exact hk1
  · exact kept_updAdapterOf hk1

theorem ends_factorAt {i k : Nat} (hk : s.kept) : Ends Prod.fst (s.factorAt vf i k) := by
  unfold State.factorAt
  dsimp only
  split
  · exact ends_ok hk
  · exact Ends.bind (ends_readVa hk) fun _ hk1 => ends_ok hk1

theorem ends_loadPlan {i : Nat} (hk : s.kept) : Ends Prod.fst (s.loadPlan vf i) :=
  ends_foldlM (fun _ _ hk1 => Ends.bind (ends_onward (ends_factorAt hk1)) fun ⟨_, _⟩ hk2 => ends_onward (ends_check fun _ =>
    Ends.bind (ends_deref hk2) fun ⟨_, _⟩ hk3 => ends_check fun _ => ends_ok hk3)) hk

theorem ends_loadPage {back tile : Nat} (hk : s.kept) : Ends State.itself (s.loadPage vf back h tile) := by
  unfold State.loadPage
  refine Ends.bind (ends_deref hk) fun ⟨_, _⟩ hk1 => ?_
  dsimp only
  refine ends_onward (ends_check fun _ => Ends.bind (ends_tileFrame hk1) fun _ hk2 =>
    ends_onward (Ends.bind (ends_readVa hk2) fun _ hk3 => ?_))
  split
  · exact ends_onward (ends_commitVa hk3)
  · exact ends_ok hk3

theorem kept_fst_loadPages {i back k : Nat} {l : List (Dword × Nat)} (hk : s.kept) : (s.loadPages vf i back k l).1.kept := by
  induction l generalizing s k with
  | nil =>
    unfold State.loadPages
    exact hk
  | cons p rest ih =>
    unfold State.loadPages
    split
    · exact hk
    · split
      · next e => exact ih (kept_updAdapter (kept_countFill (ends_loadPage hk _ e)))
      · exact hk

theorem kept_endLoad {i state : Nat} (hk : s.kept) : (s.endLoad vf i state).kept := kept_endLoadTickets (kept_updAdapter hk)

theorem leads_execAdapterLoadComplete {idx : Nat} (hk : s.kept) : Leads (execAdapterLoadComplete vf idx s) := by
  unfold execAdapterLoadComplete
  dsimp only
  refine leads_ite (leads_next hk) ?_
  split
  case' h_1 => refine leads_next (kept_endLoad ?_)
  case' h_2 => refine leads_next ?_
  case' h_3 => refine leads_next (kept_applySides ?_)
  case' h_4 => refine leads_next (kept_endLoad (kept_postRing0 (kept_dropReads (kept_applySides ?_))))
  all_goals
    split
    · exact hk
    · next e => exact kept_fst_loadPages (ends_loadPlan hk _ e)

theorem leads_execAdapterFillQuotaTick (hk : s.kept) : Leads (execAdapterFillQuotaTick vf s) :=
  leads_ite (leads_next (kept_updVf hk)) (leads_next hk)

theorem kept_setAdstat {busy : Bool} {result : Nat} {h : Word} (hk : s.kept) : (s.setAdstat vf busy result h).kept := kept_updVf hk

theorem kept_hostEvict {handle : Word} (hk : s.kept) : (s.hostEvict vf handle).kept :=
  kept_ite hk (kept_ite (kept_setAdstat hk) (kept_ite (kept_setAdstat hk) (kept_ite (kept_setAdstat hk)
    (kept_ite (kept_setAdstat hk) (kept_ite (kept_evict (kept_learn (kept_setAdstat hk))) (kept_updAdapter (kept_setAdstat hk)))))))

theorem kept_hostRetire {handle : Word} (hk : s.kept) : (s.hostRetire vf handle).kept :=
  kept_ite hk (kept_ite (kept_setAdstat hk) (kept_setAdstat (kept_retire hk)))

/-! ### Atomics (R283 to R286) -/

theorem ends_amoPeer {o : AmoOp} (hk : s.kept) : Ends Prod.fst (s.amoPeer a vf l o) := by
  unfold State.amoPeer
  split
  · split
    · exact ends_error _
    · refine ends_ite (ends_error _) ?_
      dsimp only
      split
      · exact ends_ok (kept_peerTake hk)
      · exact ends_ok (kept_updateEntry (kept_peerTake hk))
  · split
    · exact ends_error _
    · exact ends_check fun _ => ends_error _

theorem ends_amoHome {o : AmoOp} {colour : BitVec 3} (hk : s.kept) : Ends Prod.fst (s.amoHome a vf l o colour) := by
  have hmet : (s.meetLines [l.pa / 64]).kept := kept_meetLines hk
  have hown : ((s.meetLines [l.pa / 64]).mem.flushOwn a l.pa).kept := MemSys.flushOwn_kept _ _ _ hmet.1
  unfold State.amoHome
  refine ends_check fun _ => ends_check fun _ => ends_check fun _ => ends_check fun _ => ?_
  dsimp only
  split
  · exact ends_ok ⟨MemSys.mark_kept _ _ _ _ hown, hmet.2⟩
  · exact ends_ok ⟨MemSys.mark_kept _ _ _ _ (MemSys.enter_kept _ _ hown), (kept_noteWrite hmet).2⟩

theorem ends_amoBody {o : AmoOp} {d : Reg} (hk : s.kept) : Ends State.itself (s.amoBody o d stop) := by
  unfold State.amoBody
  refine ends_check fun _ => ends_check fun _ => Ends.bind (ends_translate hk) fun _ hk1 => ends_onward ?_
  dsimp only
  split
  · exact ends_error _
  · refine Ends.bind (g := State.itself) (ends_ite (ends_release (kept_flushIf hk1)) (ends_ok (kept_flushIf hk1))) fun _ hk2 => ?_
    split
    · exact Ends.bind ((ends_amoPeer hk2).map (k := fun p : State × Nat × Fp.Flags => p.1) fun _ h => h) fun _ hk3 =>
        ends_ok (kept_done (kept_setReg (kept_updHere hk3)))
    · exact Ends.bind (ends_amoHome hk2) fun _ hk3 => ends_ok (kept_done (kept_setReg (kept_updHere hk3)))

theorem leads_execFence {o : RFence} (hk : s.kept) : Leads (execFence o s) :=
  leads_runStream (ends_ite (ends_ok (kept_done (kept_setMem (MemSys.setPreds_kept _ _ _ _ hk.1) hk))) (ends_error _)) hk

/-! ### Floating-point lanes (R120 to R123) -/

theorem ends_fpLanes {i : Instr} {o : V3} {f : Fp.Fmt → Fp.RMode → Nat → Nat → Fp.Res} (hk : s.kept) :
    Ends State.itself (s.fpLanes i o f) :=
  ends_vec2 hk

theorem ends_signLanes {i : Instr} {o : V2} {f : Nat → Nat → Nat} (hk : s.kept) : Ends State.itself (s.signLanes i o f) :=
  ends_vec1 hk

theorem ends_fpCmp {i : Instr} {o : VCmp} {quiet : Bool} {f : Fp.Val → Fp.Val → Bool} (hk : s.kept) :
    Ends State.itself (s.fpCmp i o quiet f) :=
  ends_vecCmp hk

/-! ### Function tables (R157) -/

theorem leads_execVfunc {o : VFn} (hk : s.kept) : Leads (execVfunc o s) :=
  leads_runStream (ends_check fun _ => ends_check fun _ => ends_check fun _ => ends_check fun _ => ends_check fun _ =>
    ends_ok (kept_done (kept_setCore hk))) hk

end Sys2Proof.Machine
end


section
/-! PROOFS. Memory in its canonical form under the commands of the engines, control transfers, and the events of the Hearth and the
channels (R261, R262). -/

namespace Sys2Proof.Machine
open Sys2Proof

variable {s : State} {vf core va n : Nat} {a : Agent} {i : Dword} {q : EngQ} {e : HEntry} {k : Cmd} {o : R3} {stop : Bool}

/-! ### Command queues (R86 to R89, R172 to R174) -/

theorem ends_push {i : Instr} {c0 c1 c2 : Reg} {tail : Option Tail} (hk : s.kept) :
    Ends State.itself (s.push q i c0 c1 c2 tail stop) :=
  ends_check fun _ => ends_check fun _ => ends_ok (kept_doneTail (kept_updHere hk))

theorem kept_beginHead (hk : s.kept) : (s.beginHead core q k).kept := by
  unfold State.beginHead
  dsimp only
  split
  · exact kept_setCore hk
  · split <;> exact kept_setCore hk

theorem leads_execCommandStart (hk : s.kept) : Leads (execCommandStart core q s) := by
  unfold execCommandStart
  dsimp only
  refine leads_next ?_
  split
  · exact kept_ite (kept_beginHead hk) hk
  · exact hk

theorem leads_execScheduleMiss (hk : s.kept) : Leads (execScheduleMiss core q s) := by
  unfold execScheduleMiss
  refine leads_next ?_
  split
  · exact kept_ite (kept_engineFault (kept_updCore (kept_updEng hk))) hk
  · exact hk

theorem kept_headStep {f : Cmd → EngQueue → Option (State → Except Stop State)} (hf : ∀ k e, Works (f k e)) (hk : s.kept) :
    (s.headStep core q f).kept := by
  unfold State.headStep
  dsimp only
  split
  · exact hk
  · split
    · next body e => exact kept_engineStep (hf _ _ body e s hk) hk
    · exact hk

theorem kept_latchStep {f : Cmd → Option ((State → Except Stop State) × (EngQueue → State → Except Stop State))}
    (hf : ∀ k, Latches (f k)) (hk : s.kept) : (s.latchStep core q f).kept :=
  kept_headStep (fun k _ => works_ite works_none (hf k).works_snd) (kept_headStep (fun k _ => works_ite (hf k).works_fst works_none)
    hk)

theorem kept_stepUp (hk : s.kept) : (s.stepUp core q).kept := kept_updEng hk

theorem kept_latchRecs {rs : List (List Byte)} (hk : s.kept) : (s.latchRecs core q rs).kept := kept_updEng hk

theorem kept_oneStep (hk : s.kept) : (s.oneStep core q).kept := kept_stepUp (kept_latchRecs hk)

theorem ends_retireHead {e : EngQueue} {t : Option Tail} (hk : s.kept) : Ends State.itself (s.retireHead core q e t) := by
  unfold State.retireHead
  refine ends_check fun _ => ?_
  dsimp only
  split
  · refine Ends.join (g := State.itself) (ends_release hk) (ends_ok hk) fun _ hk1 => ?_
    split
    · exact ends_ok (kept_updCore hk1)
    · split
      · exact ends_ok (kept_setCore hk1)
      · exact ends_ok (kept_engineFault (kept_updEng hk1))
  · refine ends_bindOk ?_
    split
    · exact ends_ok (kept_updCore hk)
    · split
      · exact ends_ok (kept_setCore hk)
      · exact ends_ok (kept_engineFault (kept_updEng hk))

theorem leads_execCommandRetire (hk : s.kept) : Leads (execCommandRetire core q s) := by
  unfold execCommandRetire
  dsimp only
  refine leads_next ?_
  split
  · refine kept_ite ?_ hk
    split
    · exact kept_endDone (kept_engineStep (ends_retireHead hk) hk)
    · exact kept_engineStep (ends_retireHead hk) hk
  · exact hk

theorem ends_tloadRead {sp : Bool} {a : Dword} {step len : Nat} (hk : s.kept) : Ends Prod.fst (s.tloadRead core sp a step len) :=
  ends_ite (ends_check fun _ => ends_ok hk) (ends_readVa hk)

theorem ends_tloadStep {sp : Bool} {e : EngQueue} (hk : s.kept) : Ends State.itself (s.tloadStep core sp k e) :=
  ends_check fun _ => ends_check fun _ => ends_check fun _ => ends_ite (Ends.bind (ends_tloadRead hk) fun ⟨_, _⟩ hk1 =>
    ends_ite (ends_ok (kept_engineFault (kept_updCore (kept_updCore (kept_stepUp (kept_latchRecs hk1))))))
    (ends_ite (ends_ok (kept_updCore (kept_updCore (kept_stepUp (kept_latchRecs hk1)))))
    (ends_ok (kept_updCore (kept_stepUp (kept_latchRecs hk1)))))) (Ends.bind (ends_tloadRead hk)
    fun ⟨_, _⟩ hk1 => ends_ok (kept_ite (kept_stepUp (kept_updCore hk1)) (kept_updCore (kept_stepUp (kept_updCore hk1)))))

theorem leads_execTloadUnit (hk : s.kept) : Leads (execTloadUnit core s) := by
  unfold execTloadUnit
  refine leads_next (kept_headStep (fun _ _ => ?_) hk)
  split
  · exact works_some (fun _ hk1 => ends_tloadStep hk1)
  · exact works_none

theorem ends_tinvalStep {sh : Bool} (hk : s.kept) : Ends State.itself (s.tinvalStep core sh k) :=
  ends_check fun _ => ends_check fun _ => ends_check fun _ => ends_ok (kept_oneStep (kept_setCore hk))

theorem leads_execTinvalEffect (hk : s.kept) : Leads (execTinvalEffect core s) := by
  unfold execTinvalEffect
  refine leads_next (kept_headStep (fun _ _ => ?_) hk)
  split
  · exact works_some (fun _ hk1 => ends_tinvalStep hk1)
  · exact works_some (fun _ hk1 => ends_tinvalStep hk1)
  · exact works_none

/-! ### Matrix commands (R161 to R188) -/

theorem kept_updQuad {f : Quadrant → Quadrant} (hk : s.kept) : (s.updQuad core f).kept := kept_updCore hk

theorem kept_updBank {b : Bool} {f : Bank → Bank} (hk : s.kept) : (s.updBank core b f).kept := kept_updQuad hk

theorem ends_mlwBegin {o : CMlw} (hk : s.kept) : Ends State.itself (s.mlwBegin core o k) :=
  ends_check fun _ => ends_check fun _ => ends_ok (kept_updQuad (kept_latchRecs hk))

theorem leads_execMlwRow (hk : s.kept) : Leads (execMlwRow core s) := by
  unfold execMlwRow
  refine leads_next (kept_headStep (fun _ _ => ?_) hk)
  split
  · exact works_some (fun _ hk1 => Ends.join (g := State.itself) (ends_mlwBegin hk1) (ends_ok hk1) fun _ hk2 =>
      ends_ok (kept_stepUp (kept_updQuad hk2)))
  · exact works_none

theorem leads_execMswapExchange (hk : s.kept) : Leads (execMswapExchange core s) := by
  unfold execMswapExchange
  refine leads_next (kept_headStep (fun _ _ => ?_) hk)
  split
  · exact works_some (fun _ hk1 => ends_check fun _ => ends_ok (kept_oneStep (kept_updQuad hk1)))
  · exact works_none

theorem ends_mmulBegin {o : CMmul} (hk : s.kept) : Ends State.itself (s.mmulBegin core o k) :=
  ends_check fun ⟨_, _⟩ => ends_check fun _ => ends_check fun _ => ends_check fun _ => ends_check fun _ => ends_check fun _ =>
    ends_check fun _ => ends_ok (kept_ite (kept_updBank (kept_latchRecs hk)) (kept_latchRecs hk))

theorem leads_execMmulRow (hk : s.kept) : Leads (execMmulRow core s) := by
  unfold execMmulRow
  refine leads_next (kept_headStep (fun _ _ => ?_) hk)
  split
  · exact works_some (fun _ hk1 => Ends.join (g := State.itself) (ends_mmulBegin hk1) (ends_ok hk1) fun _ hk2 =>
      ends_check fun ⟨_, _⟩ => ends_ite (ends_ok hk2) (ends_ok (kept_stepUp (kept_updCore (kept_updBank hk2)))))
  · exact works_none

theorem leads_execSideCorrection (hk : s.kept) : Leads (execSideCorrection core s) := by
  unfold execSideCorrection
  refine leads_next (kept_headStep (fun _ _ => ?_) hk)
  split
  · exact works_ite works_none
      (works_some
      (fun _ hk1 => ends_check fun ⟨_, _⟩ =>
      ends_ok (kept_stepUp (kept_updCore (kept_foldl (fun _ _ hk2 => kept_updBank hk2) hk1)))))
  · exact works_none

theorem ends_smaxBegin (hk : s.kept) : Ends State.itself (s.smaxBegin core k) :=
  ends_check fun _ => ends_check fun _ => ends_check fun _ => ends_check fun _ => ends_check fun _ => ends_check fun _ =>
    ends_check fun _ => ends_check fun _ => ends_check fun _ => ends_ok (kept_updEng (kept_updCore hk))

theorem ends_smaxStep (hk : s.kept) : Ends State.itself (s.smaxStep core k) :=
  ends_check fun ⟨_, _⟩ => ends_check fun _ => ends_ok (kept_stepUp (kept_updCore (kept_updBank hk)))

theorem leads_execMmulSmaxRow (hk : s.kept) : Leads (execMmulSmaxRow core s) := by
  unfold execMmulSmaxRow
  refine leads_next (kept_latchStep (fun _ => ?_) hk)
  split
  · exact latches_some (fun _ hk1 => ends_smaxBegin hk1) (fun _ _ hk1 => ends_smaxStep hk1)
  · exact latches_none

theorem ends_mstBegin {o : CMst} (hk : s.kept) : Ends State.itself (s.mstBegin core o k) :=
  ends_check fun _ => ends_check fun _ => ends_ok (kept_latchRecs hk)

theorem leads_execMstRow (hk : s.kept) : Leads (execMstRow core s) := by
  unfold execMstRow
  refine leads_next (kept_headStep (fun _ _ => ?_) hk)
  split
  · exact works_some (fun _ hk1 => ends_check fun _ => Ends.join (g := State.itself) (ends_mstBegin hk1) (ends_ok hk1) fun _ hk2 =>
      ends_ok (kept_stepUp (kept_updCore hk2)))
  · exact works_none

theorem leads_execMzeroEffect (hk : s.kept) : Leads (execMzeroEffect core s) := by
  unfold execMzeroEffect
  refine leads_next (kept_headStep (fun _ _ => ?_) hk)
  split
  · exact works_some (fun _ hk1 => ends_check fun _ => ends_ok (kept_oneStep (kept_updBank hk1)))
  · exact works_none

theorem leads_execMamapEffect (hk : s.kept) : Leads (execMamapEffect core s) := by
  unfold execMamapEffect
  refine leads_next (kept_headStep (fun _ _ => ?_) hk)
  split
  · exact works_some (fun _ hk1 => ends_check fun _ => ends_check fun _ => ends_ok (kept_oneStep (kept_updBank hk1)))
  · exact works_none

theorem leads_execMloraRow (hk : s.kept) : Leads (execMloraRow core s) := by
  unfold execMloraRow
  refine leads_next (kept_headStep (fun _ _ => ?_) hk)
  split
  · exact works_some
      (fun _ hk1 => ends_check fun _ => ends_ite (ends_check fun _ =>
      ends_bindOk (ends_ok (kept_stepUp (kept_updQuad (kept_updQuad (kept_latchRecs hk1))))))
      (ends_bindOk (ends_ok (kept_stepUp (kept_updQuad hk1)))))
  · exact works_none

theorem leads_execMloraClrEffect (hk : s.kept) : Leads (execMloraClrEffect core s) := by
  unfold execMloraClrEffect
  refine leads_next (kept_headStep (fun _ _ => ?_) hk)
  split
  · exact works_some (fun _ hk1 => ends_check fun _ => ends_ok (kept_oneStep (kept_updQuad hk1)))
  · exact works_none

theorem kept_fuseAs {lead : Nat} {ms : List Nat} {shape : Nat} (hk : s.kept) : (s.fuseAs lead ms shape).kept :=
  kept_foldl (fun _ _ hk1 => kept_updQuad hk1) hk

theorem leads_execMfuseStanding (hk : s.kept) : Leads (execMfuseStanding core s) := by
  unfold execMfuseStanding
  refine leads_next (kept_headStep (fun _ _ => ?_) hk)
  split
  · refine works_some (fun _ hk1 => ?_)
    split
    · exact ends_error _
    · exact ends_ite (ends_ite (ends_ok (kept_oneStep (kept_fuseAs hk1))) (ends_error _)) (ends_ite (ends_error _)
        (ends_ite (ends_ok (kept_oneStep (kept_fuseAs hk1))) (ends_ok (kept_foldl (fun _ _ hk2 => kept_updQuad hk2) hk1))))
  · exact works_none

theorem leads_execMfuseOffEffect (hk : s.kept) : Leads (execMfuseOffEffect core s) := by
  unfold execMfuseOffEffect
  refine leads_next (kept_headStep (fun _ _ => ?_) hk)
  split
  · exact works_some (fun _ hk1 => ends_ok (kept_oneStep (kept_foldl (fun _ _ hk2 => kept_updQuad hk2) hk1)))
  · exact works_none

/-! ### The attention engine (R336, R339 to R344) -/

theorem ends_attnBegin (hk : s.kept) : Ends State.itself (s.attnBegin core k) :=
  ends_check fun _ => ends_check fun _ => ends_check fun _ => ends_check fun _ => ends_check fun _ =>
    Ends.bind (ends_derefKv hk) fun ⟨_, _⟩ hk1 => ends_check fun _ => ends_check fun _ => ends_check fun _ => ends_check fun _ =>
    ends_ok (kept_updEng (kept_updCore hk1))

theorem ends_readPlane {f : Frame} {layer j plane : Nat} (hk : s.kept) : Ends Prod.fst (s.readPlane a e f layer j plane) := by
  unfold State.readPlane
  split
  · exact ends_ok hk
  · exact ends_foldlM (fun _ _ hk1 => Ends.bind (ends_onward (ends_readTile hk1)) fun ⟨_, _⟩ hk2 => ends_ok hk2) hk

theorem ends_readPosition {q : AttnReq} {j : Nat} (hk : s.kept) : Ends Prod.fst (s.readPosition core q e j) := by
  unfold State.readPosition
  refine ends_atPosition ?_
  dsimp only
  refine ends_check fun _ => ?_
  split
  · exact ends_ok hk
  · refine Ends.bind (ends_tileFrame hk) fun _ hk1 => Ends.bind (ends_onward ?_) fun _ hk2 => ends_onward (ends_check fun _ =>
      ends_ite (ends_error _) (ends_ite (ends_error _) (ends_ite (ends_ok hk2) (Ends.bind (ends_readPlane hk2)
      fun _ hk3 => Ends.bind (ends_onward (ends_readPlane hk3)) fun _ hk4 => ends_ok hk4))))
    split
    · exact ends_ok hk1
    · exact ends_readLeaf hk1

theorem ends_readChunk {q : AttnReq} {c : Nat} (hk : s.kept) : Ends Prod.fst (s.readChunk core q e c) :=
  ends_foldlM (fun _ _ hk1 => ends_ite (Ends.bind (ends_onward (ends_readPosition hk1)) fun ⟨_, _⟩ hk2 => ends_ok hk2)
    (ends_ok hk1)) hk

theorem ends_attnChunk {e : EngQueue} (hk : s.kept) : Ends State.itself (s.attnChunk core e) :=
  Ends.bind (ends_readChunk hk) fun ⟨_, _⟩ hk1 => ends_check fun _ => ends_ok (kept_stepUp (kept_updCore (kept_updQuad hk1)))

theorem leads_execAttnChunk (hk : s.kept) : Leads (execAttnChunk core s) := by
  unfold execAttnChunk
  refine leads_next (kept_latchStep (fun _ => ?_) hk)
  split
  · exact latches_some (fun _ hk1 => ends_attnBegin hk1) (fun _ _ hk1 => ends_ite (ends_attnChunk hk1) (ends_ok hk1))
  · exact latches_none

theorem ends_attnOutput {e : EngQueue} (hk : s.kept) : Ends State.itself (s.attnOutput core e) :=
  ends_check fun _ => ends_ok (kept_stepUp (kept_updCore hk))

theorem leads_execAttnOutputStep (hk : s.kept) : Leads (execAttnOutputStep core s) := by
  unfold execAttnOutputStep
  refine leads_next (kept_headStep (fun _ _ => ?_) hk)
  split
  · exact works_ite (works_some (fun _ hk1 => ends_attnOutput hk1)) works_none
  · exact works_none

/-! ### Scalar instructions (R97 to R99) -/

theorem kept_alu {f : Dword → Dword → Dword} (hk : s.kept) : (s.alu o f).kept := kept_done (kept_setReg hk)

theorem kept_alu1 {o : R2} {f : Dword → Dword} (hk : s.kept) : (s.alu1 o f).kept := kept_done (kept_setReg hk)

theorem kept_aluImm {o : RI} {f : Dword → Dword → Dword} (hk : s.kept) : (s.aluImm o f).kept := kept_done (kept_setReg hk)

theorem kept_aluImm13 {o : RI13} {f : Dword → Dword → Dword} (hk : s.kept) : (s.aluImm13 o f).kept := kept_done (kept_setReg hk)

theorem kept_aluShift {o : RSh} {f : Dword → Nat → Dword} (hk : s.kept) : (s.aluShift o f).kept := kept_done (kept_setReg hk)

/-! ### Transfers, loops and system instructions (R100 to R108) -/

theorem ends_branch {o : RBr} {taken : Bool} (hk : s.kept) : Ends State.itself (s.branch o taken) :=
  ends_ite (ends_transfer hk) (ends_ok (kept_done hk))

theorem ends_link {d : Reg} {target : Dword} (hk : s.kept) : Ends State.itself (s.link d target) :=
  ends_check fun _ => ends_ok (kept_jumpTo (kept_setReg hk))

theorem kept_goOn {at_ : Dword} {l : Loops} (hk : s.kept) : (s.goOn at_ l).kept := kept_retired (kept_updSelf hk)

theorem ends_loopBody {off : BitVec 14} {n : Dword} (hk : s.kept) : Ends State.itself (s.loopBody off n) :=
  ends_ite (ends_error _) (ends_ite (ends_ok (kept_goOn hk)) (ends_ok (kept_goOn hk)))

theorem kept_haltNode {cause : Nat} (hk : s.kept) : (s.haltNode core cause).kept :=
  kept_frame (kept_foldl (fun _ _ hk1 => kept_updCore hk1) (kept_setMem (MemSys.drain_kept _ _ (kept_foldl (fun _ _ hk1 =>
    kept_endRegionFills hk1) (kept_flushAll hk)).1) (kept_foldl (fun _ _ hk1 => kept_endRegionFills hk1) (kept_flushAll hk))))

theorem leads_execFetchPastEnd (hk : s.kept) : Leads (execFetchPastEnd s) := leads_runStream (ends_error _) hk

theorem leads_execIllegalOpcode {f : EncFault} {at_ : Dword} (hk : s.kept) : Leads (execIllegalOpcode f at_ s) :=
  leads_runStream (ends_error _) hk

theorem leads_execSiblingTrap {x : Bool} (hk : s.kept) : Leads (execSiblingTrap core x s) := by
  unfold execSiblingTrap
  dsimp only
  split
  · exact leads_next hk
  · exact leads_ite (leads_next (kept_takeTrap hk)) (leads_next hk)

theorem leads_execEngineFaultDelivery (hk : s.kept) : Leads (execEngineFaultDelivery core s) :=
  leads_next (kept_ite (kept_deliver hk) hk)

/-! ### Control and status registers (R82 to R86) -/

theorem ends_csrSwap {o : RCsr} {f : Dword → Dword} (hk : s.kept) : Ends State.itself (s.csrSwap o f) :=
  ends_check fun _ => ends_check fun _ => ends_ok (kept_done (kept_setReg (kept_updHere hk)))

theorem ends_csrRead {d : Reg} {csr : BitVec 12} (hk : s.kept) : Ends State.itself (s.csrRead d csr stop) :=
  ends_check fun _ => ends_ok (kept_done (kept_setReg hk))

/-! ### Node instructions (R314 to R320) -/

theorem kept_countOverrun (hk : s.kept) : (s.countOverrun i).kept := by
  unfold State.countOverrun
  split
  · exact hk
  · exact kept_ite (kept_setNode (kept_foldl (fun _ _ hk1 => kept_updCore hk1) hk)) hk

theorem kept_boundary {v : Dword} {yields : Option Dword} (hk : s.kept) : (s.boundary v yields).kept := by
  have hflushed : (s.flushL1 s.cur).kept := kept_flushL1 hk
  unfold State.boundary
  dsimp only
  split
  · refine kept_updNode (kept_applyLog (kept_checkpoint ?_))
    split
    · exact kept_updHere (kept_countOverrun hflushed)
    · exact kept_countOverrun hflushed
  · split
    · exact kept_updHere hflushed
    · exact hflushed

theorem kept_yieldLeave {n : Node} (hk : s.kept) : (s.yieldLeave i n).kept := kept_updNode (kept_leave hk)

theorem kept_parkLeave {n : Node} (hk : s.kept) : (s.parkLeave i n).kept :=
  kept_dropDeficits (kept_wakeNode (kept_updNode (kept_leave (kept_foldl (fun _ _ hk1 => kept_ite (kept_postNode hk1) hk1)
    (kept_dropMembers (kept_setMem (MemSys.drain_kept _ _ hk.1) hk))))))

theorem kept_standing {t : Stand} (hk : s.kept) : (s.standing t stop).kept := by
  unfold State.standing
  dsimp only
  split
  · exact kept_ite (kept_updHere hk) (kept_done (kept_updHere hk))
  · exact kept_ite (kept_done (kept_updHere hk)) (kept_ite (kept_frame (kept_ite (kept_parkLeave hk) (kept_yieldLeave hk)))
      (kept_waitHere hk))

theorem ends_reach {v wake : Dword} {yields : Option Dword} (hk : s.kept) : Ends State.itself (s.reach v wake yields stop) := by
  unfold State.reach
  split
  · exact ends_ok (kept_standing hk)
  · exact ends_check fun _ => ends_check fun _ => ends_ok (kept_standing (kept_updHere (kept_boundary hk)))

theorem leads_execNdone {o : R0} (hk : s.kept) : Leads (execNdone o s) := by
  unfold execNdone
  refine leads_runStream (ends_check fun _ => ends_check fun _ => ?_) hk
  dsimp only
  refine ends_check fun _ => ?_
  split
  · exact ends_ok (kept_updHere (kept_updHere (kept_done (kept_flushL1 hk))))
  · exact ends_ok (kept_ite (kept_endDone (kept_setNode (kept_updHere (kept_done (kept_flushL1 hk)))))
      (kept_setNode (kept_updHere (kept_done (kept_flushL1 hk)))))

theorem leads_execNdoneAbort {o : RA} (hk : s.kept) : Leads (execNdoneAbort o s) := by
  unfold execNdoneAbort
  refine leads_runStream ?_ hk
  dsimp only
  split
  · exact ends_ok (kept_updHere (kept_done hk))
  · exact ends_ok (kept_abortNode (kept_done hk))

theorem ends_spawnDesc (hk : s.kept) : Ends Prod.fst (s.spawnDesc vf va) :=
  Ends.bind (ends_asReason (ends_readDesc hk)) fun ⟨_, _⟩ hk1 => ends_check fun _ => Ends.bind (ends_asReason (ends_readList hk1))
    fun ⟨_, _⟩ hk2 => ends_check fun _ => Ends.bind (ends_asReason (ends_readSucc hk2)) fun ⟨_, _⟩ hk3 => ends_ok hk3

theorem kept_addNode {g : Nat} {h : Graph} {parent : Dword} {d : Desc} {l : List (List Byte)} {succ : List Nat} {after : Bool}
    (hk : s.kept) : (s.addNode g h parent d l succ after).kept :=
  kept_ite (kept_makeReady (kept_ite (kept_updNode (kept_foldl (fun _ _ hk1 => kept_updNode hk1) (kept_setNode (kept_setGraph hk))))
    (kept_foldl (fun _ _ hk1 => kept_updNode hk1) (kept_setNode (kept_setGraph hk)))))
    (kept_ite (kept_updNode (kept_foldl (fun _ _ hk1 => kept_updNode hk1) (kept_setNode (kept_setGraph hk))))
    (kept_foldl (fun _ _ hk1 => kept_updNode hk1) (kept_setNode (kept_setGraph hk))))

theorem leads_execNspawn (hk : s.kept) : Leads (execNspawn o s) := by
  unfold execNspawn
  refine leads_runStream ?_ hk
  dsimp only
  refine ends_check fun _ => ends_check fun _ => ?_
  split
  · exact ends_error _
  · split
    · exact ends_error _
    · exact Ends.bind (ends_spawnDesc hk) fun _ hk1 => ends_ite (ends_ok (kept_done (kept_setReg hk1))) (ends_check fun _ =>
        ends_ite (ends_ok (kept_done (kept_setReg hk1))) (ends_ok (kept_done (kept_setReg (kept_addNode hk1)))))

theorem ends_changeDeps {o : R2} {rel : Bool} (hk : s.kept) : Ends State.itself (s.changeDeps o rel) := by
  unfold State.changeDeps
  dsimp only
  split
  · exact ends_error _
  · refine ends_check fun _ => Ends.join (g := State.itself) (ends_release hk) (ends_ok hk) fun _ hk1 => ?_
    split
    · exact ends_error _
    · exact ends_ok (kept_done (kept_setReg (kept_fst_ite hk1 (kept_fst_ite hk1 (kept_ite (kept_makeReady (kept_setNode hk1))
        (kept_setNode hk1))))))

theorem leads_execGrpjoin {o : RAB} (hk : s.kept) : Leads (execGrpjoin o s) :=
  leads_runStream (ends_check fun _ => ends_check fun _ =>
    ends_ite (ends_ok (kept_done (kept_foldl (fun _ _ hk1 => kept_updCore hk1) (kept_updHere hk))))
    (ends_ok (kept_waitHere (kept_updHere hk)))) hk

/-! ### Choosing and dispatching nodes (R298 to R304) -/

theorem finds_pick (hk : s.kept) : Finds Prod.fst (s.pick) := by
  unfold State.pick
  dsimp only
  split
  · exact finds_none
  · split
    · exact finds_none
    · exact finds_map
        (fun _ => kept_frame (kept_foldl (fun _ _ hk1 => kept_updVf hk1) (kept_foldl (fun _ _ hk1 => kept_dropDeficits hk1) hk)))

theorem kept_fst_firstCheckpoint {n : Node} {count : Nat} (hk : s.kept) : (s.firstCheckpoint vf n count).1.kept :=
  kept_fst_kvTails hk

theorem kept_rejoin {l : List Member} (hk : s.kept) : (s.rejoin i l).kept :=
  kept_foldl (fun _ _ hk1 => kept_setPhaser (kept_updNode hk1)) hk

theorem kept_placed {cores done : List Nat} (hk : s.kept) : (s.placed i cores done).kept :=
  kept_updNode (kept_updNode (kept_frame hk))

theorem kept_dispatch {cores : List Nat} (hk : s.kept) : (s.dispatch i cores).kept := by
  unfold State.dispatch
  split
  · exact hk
  · dsimp only
    split
    · refine kept_ite (kept_pendPreempt (kept_placed (kept_foldl (fun _ _ h => ?_) hk))) (kept_placed (kept_foldl (fun _ _ h =>
        ?_) hk))
      all_goals
        split
        · exact kept_setCore h
        · exact h
    · refine kept_placed (kept_foldl (fun _ _ h => kept_setCore h) (kept_ite (kept_rejoin (kept_setNode ?_)) (kept_setNode ?_)))
      all_goals
        split
        · exact hk
        · exact kept_fst_firstCheckpoint hk

theorem kept_pendFor {cores : List Nat} (hk : s.kept) : (s.pendFor cores).kept :=
  kept_ite (kept_foldl (fun _ _ hk1 => kept_pendPreempt hk1) hk) hk

theorem leads_execNodeDispatch {cores : List Nat} (hk : s.kept) : Leads (execNodeDispatch cores s) := by
  unfold execNodeDispatch
  refine leads_ite ?_ (leads_next (kept_pendFor hk))
  split
  · next e =>
      split
      · exact leads_next (kept_ite (kept_dispatch (finds_pick hk _ e)) hk)
      · exact leads_next hk
  · exact leads_next hk

/-! ### Events of the Hearth (R289 to R310) -/

theorem kept_updSq {q : Nat} {f : SubQ → SubQ} (hk : s.kept) : (s.updSq vf q f).kept := kept_updVf hk

theorem ends_readDraft {graph count i : Nat} (hk : s.kept) : Ends Prod.fst (s.readDraft vf graph count i) :=
  Ends.bind (ends_asRefusal (ends_readDesc hk)) fun ⟨_, _⟩ hk1 => ends_check fun _ => Ends.bind (ends_asRefusal (ends_readList hk1))
    fun ⟨_, _⟩ hk2 => ends_check fun _ => Ends.bind (ends_asRefusal (ends_readSucc hk2)) fun ⟨_, _⟩ hk3 => ends_check fun _ =>
    ends_ok hk3

theorem ends_readGraph (hk : s.kept) : Ends Prod.fst (s.readGraph vf va) :=
  Ends.bind (ends_asRefusal (ends_readVa hk)) fun ⟨_, _⟩ hk1 => ends_check fun _ => Ends.bind (ends_foldlM (fun _ _ hk2 =>
    Ends.bind (ends_readDraft hk2) fun ⟨_, _⟩ hk3 => ends_ok hk3) hk1) fun ⟨_, _⟩ hk2 => ends_ok hk2

theorem kept_enterGraph {g prev ring : Nat} {flags : Byte} {l : List Draft} (hk : s.kept) :
    (s.enterGraph g prev ring flags l).kept :=
  kept_foldl (fun _ _ hk1 => kept_ite (kept_makeReady (kept_setNode hk1)) (kept_setNode hk1)) (kept_setGraph (kept_frame hk))

theorem leads_execGraphLaunch {q : Nat} (hk : s.kept) : Leads (execGraphLaunch vf q s) := by
  unfold execGraphLaunch
  dsimp only
  refine leads_ite (leads_next hk) ?_
  split
  · next e => exact leads_next (kept_enterGraph (kept_updSq (ends_readGraph hk _ e)))
  · exact leads_next (kept_applySides hk)
  · exact leads_next (kept_postVf (kept_updSq (kept_applySides hk)))

theorem kept_preempt (hk : s.kept) : (s.preempt i).kept := kept_updNode (kept_forcePreempt (kept_countOverrun hk))

theorem leads_onRunning {id : Dword} {f : Node → State} (hf : ∀ n, (f n).kept) (hk : s.kept) : Leads (onRunning s id f) := by
  unfold onRunning
  split
  · exact leads_next (kept_ite (hf _) hk)
  · exact leads_next hk

theorem leads_execForcedPreemption {node : Dword} (hk : s.kept) : Leads (execForcedPreemption node s) :=
  leads_onRunning (fun _ => kept_ite (kept_preempt hk) hk) hk

theorem leads_execWaitPreemption {node : Dword} (hk : s.kept) : Leads (execWaitPreemption node s) :=
  leads_onRunning (fun _ => kept_ite (kept_preempt hk) hk) hk

theorem leads_execFrozenGroupPreemption {node : Dword} (hk : s.kept) : Leads (execFrozenGroupPreemption node s) :=
  leads_onRunning (fun _ => kept_ite (kept_preempt hk) hk) hk

theorem leads_execOperatorOverrun {node : Dword} (hk : s.kept) : Leads (execOperatorOverrun node s) :=
  leads_next (kept_countOverrun hk)

theorem leads_execParkTimeWake {node : Dword} (hk : s.kept) : Leads (execParkTimeWake node s) := leads_next (kept_wakeNode hk)

theorem leads_execCrucibleGuarantee (hk : s.kept) : Leads (execCrucibleGuarantee s) :=
  leads_ite (leads_next (kept_frame hk)) (leads_next (kept_frame hk))

theorem kept_setRing {r : Nat} {g : Ring} (hk : s.kept) : (s.setRing vf r g).kept := kept_ite (kept_frame hk) (kept_updVf hk)

theorem kept_setVectors {v : Vectors} (hk : s.kept) : (s.setVectors vf v).kept := kept_ite (kept_frame hk) (kept_updVf hk)

theorem kept_message (hk : s.kept) : (s.message vf n).kept := kept_ite (kept_setVectors hk) (kept_frame hk)

theorem kept_writeVector {i : Nat} {w : Dword} (hk : s.kept) : (s.writeVector vf i w).kept :=
  kept_ite (kept_message (kept_setVectors hk)) (kept_setVectors hk)

theorem kept_interrupt {r : Nat} (hk : s.kept) : (s.interrupt vf r).kept := kept_message (kept_setRing hk)

theorem ends_storeRecord {b : List Byte} (hk : s.kept) : Ends State.itself (s.storeRecord vf va b) :=
  ends_ite (ends_ok ⟨hk.1, Memory.wf_write _ _ _ hk.2⟩) (ends_commitVa hk)

theorem kept_endResets (hk : s.kept) : (s.endResets vf).kept := kept_updVf hk

theorem kept_writeRecord {r : Nat} (hk : s.kept) : (s.writeRecord vf r).kept := by
  unfold State.writeRecord
  dsimp only
  split
  · exact hk
  · refine kept_ite hk ?_
    split
    · next e1 =>
        exact kept_endResets (kept_ite (kept_interrupt (kept_setRing (ends_storeRecord hk _ e1)))
          (kept_setRing (ends_storeRecord hk _ e1)))
    · exact kept_ite hk (kept_postPf (kept_setRing (kept_applySides hk)))

theorem leads_execEventRecordWrite {ring : Nat} (hk : s.kept) : Leads (execEventRecordWrite vf ring s) :=
  leads_next (kept_ite hk (kept_writeRecord hk))

theorem leads_execRingFaultRetry {ring : Nat} (hk : s.kept) : Leads (execRingFaultRetry vf ring s) :=
  leads_next (kept_ite (kept_writeRecord hk) hk)

theorem leads_execEventCoalesceTimeout {ring : Nat} (hk : s.kept) : Leads (execEventCoalesceTimeout vf ring s) :=
  leads_next (kept_ite (kept_interrupt hk) hk)

theorem leads_execRowFillComplete {row : Nat} (hk : s.kept) : Leads (execRowFillComplete core row s) := by
  unfold execRowFillComplete
  dsimp only
  refine leads_ite (leads_next (kept_updCore hk)) ?_
  split
  · next e => exact leads_next (kept_updCore (ends_readVa (kept_updCore hk) _ e))
  · exact leads_next (kept_applySides (kept_updCore hk))
  · exact leads_next (kept_updCore (kept_applySides (kept_updCore hk)))

theorem leads_execPageFaultDeadline {tag : Nat} (hk : s.kept) : Leads (execPageFaultDeadline tag s) := by
  unfold execPageFaultDeadline
  split
  · exact leads_next hk
  · exact leads_ite (leads_next (kept_frame hk)) (leads_next hk)

/-! ### The hang detection (R427 to R429) -/

theorem kept_writeHang (hk : s.kept) : (s.writeHang i core).kept := by
  unfold State.writeHang
  dsimp only
  refine kept_ite hk ?_
  split
  · next e => exact ends_commitVa hk _ e
  · exact kept_applySides hk
  · exact kept_applySides hk

theorem leads_execHangDetect {node : Dword} (hk : s.kept) : Leads (execHangDetect node s) :=
  leads_onRunning (fun _ => kept_ite (kept_abortNode (kept_foldl (fun _ _ hk1 => kept_writeHang hk1) hk)) hk) hk

/-! ### The weight hash tree (R409) -/

theorem ends_meetFrame {frame : Nat} (hk : s.kept) : Ends State.itself (s.meetFrame frame) := by
  unfold State.meetFrame
  dsimp only
  split
  · exact ends_error _
  · exact ends_ok (kept_meetLines hk)

/-! ### Transfer channels (R241 to R258) -/

theorem ends_copyDesc {off : Dword} (hk : s.kept) : Ends Prod.fst (s.copyDesc core q off) :=
  ends_check fun _ => ends_ite (ends_readVa hk) (ends_check fun _ => ends_ok hk)

theorem ends_copyBegin {op : CopyOp} (hk : s.kept) : Ends Prod.fst (s.copyBegin core q op k) :=
  Ends.bind (ends_copyDesc hk) fun ⟨_, _⟩ hk1 => ends_check fun _ =>
    Ends.bind (ends_onward (ends_ite (ends_deref hk1) (ends_derefRead hk1))) fun ⟨_, _⟩ hk2 => ends_check fun _ =>
    Ends.bind (ends_onward (ends_ite (ends_deref hk2) (ends_ok hk2))) fun ⟨_, _⟩ hk3 => ends_check fun _ =>
    Ends.bind (ends_onward (ends_ite (ends_derefRead hk3) (ends_ok hk3))) fun ⟨_, _⟩ hk4 => ends_check fun _ =>
    ends_ok (kept_updEng hk4)

theorem ends_copyValue {k : Copy} {p : Spot} (hk : s.kept) : Ends Prod.fst (s.copyValue core q k p) :=
  ends_ite (ends_ok hk) (ends_atByte (Ends.bind (ends_readElem hk)
    fun ⟨_, _⟩ hk1 => ends_ite (Ends.bind (ends_readElem hk1) fun ⟨_, _⟩ hk2 => ends_ok hk2) (ends_ite (ends_ok hk1)
    (ends_ok hk1))))

theorem ends_sourceFrames {k : Copy} {spots : List Spot} (hk : s.kept) : Ends Prod.fst (s.sourceFrames core q k spots) := by
  unfold State.sourceFrames
  refine ends_foldlM (fun _ _ hk1 => ?_) hk
  dsimp only
  refine ends_check fun _ => ?_
  split
  · exact ends_ok hk1
  · exact Ends.bind (ends_atByte (Ends.bind (ends_tileFrame hk1) fun _ hk2 => ends_frameLeaf hk2)) fun _ hk2 => ends_ok hk2

theorem ends_verify {frames : List Nat} (hk : s.kept) : Ends State.itself (s.verify frames) :=
  ends_foldlM (fun _ _ hk1 => ends_ite (ends_ok hk1) (ends_onward (Ends.bind (ends_meetFrame hk1) fun _ hk2 => ends_check fun _ =>
    ends_ok (kept_frame hk2)))) hk

theorem ends_landChunk {k : Copy} {j : Nat} (hk : s.kept) : Ends Prod.fst (s.landChunk core q k e j) :=
  ends_foldlM (fun _ _ hk1 => Ends.bind (ends_foldlM (fun _ _ hk2 => Ends.bind (ends_copyValue hk2) fun ⟨_, _⟩ hk3 => ends_ok hk3)
    hk1) fun _ hk2 => ends_check fun _ => ends_ok hk2) hk

theorem ends_chunkValues {k : Copy} {spots : List Spot} (hk : s.kept) : Ends Prod.fst (s.chunkValues core q k spots) :=
  ends_foldlM (fun _ _ hk1 => Ends.bind (ends_copyValue hk1) fun ⟨_, _⟩ hk2 => ends_ok hk2) hk

theorem ends_chunkWrites {k : Copy} {vs : List (Spot × Nat)} (hk : s.kept) : Ends Prod.fst (s.chunkWrites core q k e vs) :=
  Ends.bind (ends_foldlM (fun _ _ hk1 => ends_atByte (Ends.bind (ends_elemTarget hk1) fun ⟨_, _⟩ hk2 => ends_check fun _ =>
    ends_ok hk2)) hk) fun _ hk1 => ends_ok hk1

theorem ends_copyEmit {ws : List OutWrite} (hk : s.kept) : Ends State.itself (s.copyEmit core q k ws) := by
  unfold State.copyEmit
  dsimp only
  refine ends_ite (ends_check fun _ => ends_ok (kept_stepUp (kept_updEng hk))) (ends_check fun _ => ?_)
  split
  · next e => exact ends_ok (kept_updEng (kept_of_pair (kept_fst_emitSome hk) e))
  · next e => exact ends_ite (ends_error _) (ends_ok (kept_updEng (kept_of_pair (kept_fst_emitSome hk) e)))

theorem ends_copyRead {cp : Copy} {j : Nat} (hk : s.kept) : Ends Prod.fst (s.copyRead core q cp j) := by
  unfold State.copyRead
  dsimp only
  refine ends_ite (Ends.bind (ends_sourceFrames hk) fun _ hk1 => Ends.bind (ends_onward (ends_verify hk1)) fun _ hk2 =>
    ?_) (ends_bindOk ?_)
  · split
    · exact Ends.bind (ends_chunkValues hk2) fun _ hk3 => ends_ok (kept_updCore hk3)
    · refine ends_ite (ends_check fun _ => ?_) (Ends.bind (ends_chunkValues hk2) fun _ hk3 => Ends.bind (ends_chunkWrites hk3)
        fun _ hk4 => ends_ok hk4)
      split
      · exact ends_atByte (ends_error _)
      · exact Ends.bind (ends_landChunk hk2) fun _ hk3 => ends_ok hk3
  · split
    · exact Ends.bind (ends_chunkValues hk) fun _ hk1 => ends_ok (kept_updCore hk1)
    · refine ends_ite (ends_check fun _ => ?_) (Ends.bind (ends_chunkValues hk) fun _ hk1 => Ends.bind (ends_chunkWrites hk1)
        fun _ hk2 => ends_ok hk2)
      split
      · exact ends_atByte (ends_error _)
      · exact Ends.bind (ends_landChunk hk) fun _ hk1 => ends_ok hk1

theorem ends_copyStep {op : CopyOp} {e : EngQueue} (hk : s.kept) : Ends State.itself (s.copyStep core q op k e) := by
  unfold State.copyStep
  split
  · exact ends_copyEmit hk
  · refine Ends.bind (ends_copyRead hk) fun ⟨_, _⟩ hk1 => ?_
    dsimp only
    split
    · exact ends_ok (kept_stepUp hk1)
    · exact ends_ok (kept_updEng hk1)

theorem leads_execCopyChunk (hk : s.kept) : Leads (execCopyChunk core q s) := by
  unfold execCopyChunk
  refine leads_next (kept_latchStep (fun _ => ?_) hk)
  split
  · exact latches_none
  · exact latches_some (fun _ hk1 => ends_ite (ends_ok (kept_oneStep hk1)) (ends_error _)) (fun _ _ hk1 => ends_ok hk1)
  · exact latches_map (fun _ _ hk1 => Ends.bind (ends_copyBegin hk1) fun ⟨_, _⟩ hk2 => ends_ok hk2) (fun _ _ _ hk1 =>
      ends_copyStep hk1)

theorem ends_decBegin (hk : s.kept) : Ends State.itself (s.decBegin core k) :=
  ends_check fun _ => Ends.bind (ends_copyBegin hk) fun ⟨_, _⟩ hk1 => ends_ok hk1

theorem ends_decStep {e : EngQueue} (hk : s.kept) : Ends State.itself (s.decStep core k e) := by
  unfold State.decStep
  dsimp only
  refine ends_check fun _ => ?_
  split
  · exact ends_error _
  · refine Ends.bind (ends_chunkValues hk) fun _ hk1 => ends_ite (ends_ok (kept_updCore (kept_stepUp hk1))) (ends_ok ?_)
    split
    · exact kept_postNode (kept_updCore (kept_stepUp hk1))
    · exact kept_updCore (kept_stepUp hk1)

theorem leads_execDecryptStep (hk : s.kept) : Leads (execDecryptStep core s) := by
  unfold execDecryptStep
  refine leads_next (kept_latchStep (fun _ => ?_) hk)
  split
  · exact latches_some (fun _ hk1 => ends_decBegin hk1) (fun _ _ hk1 => ends_decStep hk1)
  · exact latches_none

/-! ### Contexts (R420) -/

theorem kept_updHeld {banks : Bool} {f : Nat → Nat → Quadrant → Quadrant} (hk : s.kept) : (s.updHeld core banks f).kept :=
  kept_ite (kept_updQuad hk) (kept_ite hk (kept_updQuad hk))

/-! ### Landings, scrubs and restoration (R381 to R389) -/

theorem kept_fst_landLeaf (hk : s.kept) : (s.landLeaf vf va).1.kept := by
  unfold State.landLeaf
  refine kept_fst_ite hk ?_
  split
  · next e => exact ends_translate hk _ e
  · exact kept_keepMet hk

theorem kept_fst_landHalf {e : List Byte} (hk : s.kept) : (s.landHalf vf e).1.kept :=
  kept_fst_landLeaf (kept_fst_foldl (fun _ _ hk1 => kept_fst_landLeaf hk1) hk)

theorem kept_fst_landEntry (hk : s.kept) : (s.landEntry vf n).1.kept := by
  unfold State.landEntry
  refine kept_fst_ite hk ?_
  split
  · next e => exact ends_readVa hk _ e
  · exact kept_keepMet hk

theorem kept_poisonLine {line : Nat} (hk : s.kept) : (s.poisonLine line).kept :=
  kept_weightLine (kept_setMem (MemSys.kept_frame hk.1) hk)

theorem kept_landWrite {half : Nat} {g : Landing} {i : Nat} (hk : s.kept) : (s.landWrite vf half g i).kept := by
  unfold State.landWrite
  dsimp only
  split
  · exact kept_keepMet hk
  · next t l e =>
    have ht : t.kept := ends_translate hk _ e
    split
    case' h_1 _ _ e' => refine (fun hw => kept_ite (kept_poisonLine hw) hw) (ends_commitLeaf ?_ _ e')
    case' h_2 => refine kept_keepMet ?_
    all_goals
      refine kept_fst_ite ht ?_
      split
      · next e => exact ends_readLeaf ht _ e
      · exact kept_applySides ht
      · exact kept_applySides ht

theorem ends_landAdd (hk : s.kept) : Ends State.itself (s.landAdd a vf va) := by
  unfold State.landAdd
  refine ends_check fun _ => Ends.bind (ends_translate hk) fun ⟨_, _⟩ hk1 => ?_
  dsimp only
  split
  · split
    · exact ends_ok hk1
    · exact ends_ok (kept_sendPeer hk1)
  · exact Ends.bind (ends_onward (ends_readLeaf hk1)) fun _ hk2 => ends_onward (ends_commitLeaf hk2)

theorem kept_landFinish {half : Nat} {g : Landing} (hk : s.kept) : (s.landFinish vf half g).kept := by
  unfold State.landFinish
  split
  · next e => exact ends_landAdd hk _ e
  · exact kept_applySides hk

theorem kept_setLanding {g : Landing} (hk : s.kept) : (s.setLanding vf n g).kept := kept_updVf hk

theorem kept_landPart {half : Nat} {g : Landing} {p : ReducePkt} (hk : s.kept) : (s.landPart vf n half g p).kept :=
  kept_ite (kept_setLanding (kept_ite (kept_postRing0 hk) hk))
    (kept_ite (kept_setLanding (kept_landWrite (kept_ite (kept_postRing0 hk) hk)))
    (kept_landFinish (kept_setLanding (kept_landWrite (kept_ite (kept_postRing0 hk) hk)))))

theorem kept_landForget {epoch : Word} (hk : s.kept) : (s.landForget vf n epoch).kept := kept_updVf hk

theorem kept_land {p : ReducePkt} (hk : s.kept) : (s.land p).kept := by
  unfold State.land
  dsimp only
  split
  · next e => exact kept_postRing0 (kept_of_pair (kept_fst_landEntry hk) e)
  · next t x e =>
    have hforgotten : (t.landForget p.vf p.landing.toNat (landEpoch x)).kept :=
      kept_landForget (kept_of_pair (kept_fst_landEntry hk) e)
    refine kept_ite (kept_postRing0 hforgotten) ?_
    split
    · exact kept_postRing0 hforgotten
    · split
      · next e' => exact kept_postRing0 (kept_of_pair (kept_fst_landHalf hforgotten) e')
      · next e' =>
        have hhalf : State.kept _ := kept_of_pair (kept_fst_landHalf hforgotten) e'
        exact kept_ite (kept_postRing0 (kept_setLanding hhalf)) (kept_ite (kept_postRing0 hhalf) (kept_landPart hhalf))

theorem kept_rewriteFrame {frame : Nat} {image : List Byte} (hk : s.kept) : (s.rewriteFrame frame image).kept :=
  kept_foldl (fun _ _ hk1 => kept_setMem (MemSys.commit_kept _ _ _ _ _ _ hk1.1) hk1) hk

theorem leads_execWeightRestore {frame : Nat} (hk : s.kept) : Leads (execWeightRestore frame s) := by
  unfold execWeightRestore
  split
  · exact leads_next hk
  · dsimp only
    split
    · exact leads_next (kept_postPf (kept_frame hk))
    · exact leads_ite (leads_next (kept_rewriteFrame (kept_frame hk))) (leads_next (kept_postPf (kept_frame hk)))

end Sys2Proof.Machine
end


section
/-! PROOFS. Memory in its canonical form under what the PF, the security engine, the debugger, the host and the links do
(R261, R262). -/

namespace Sys2Proof.Machine
open Sys2Proof

variable {s : State} {vf core va d n port v b : Nat} {a : Agent} {i h : Dword} {q : EngQ} {e : HEntry} {k : Cmd} {o : R3}
  {c : PfCmd} {m : LinkMsg} {stop : Bool}

/-! ### Stopping a VF (R300, R312, R405, R413) -/

theorem kept_abortStopped (hk : s.kept) : (s.abortStopped i).kept := kept_stopWith (fun _ hk1 => kept_updNode hk1) hk

theorem kept_markDropped (hk : s.kept) : (s.markDropped i).kept := kept_dropDeficits (kept_updNode hk)

theorem kept_resetGraph {g : Nat} (hk : s.kept) : (s.resetGraph g).kept := by
  unfold State.resetGraph
  split
  · exact hk
  · exact kept_ite hk
      (kept_checkGraph (kept_ite (kept_foldl (fun _ _ hk1 => kept_postNode hk1) (kept_setGraph (kept_foldl (fun _ _ hk1 =>
      kept_abortStopped hk1) (kept_foldl (fun _ _ hk1 => kept_markDropped hk1) hk)))) (kept_setGraph (kept_foldl (fun _ _ hk1 =>
      kept_abortStopped hk1) (kept_foldl (fun _ _ hk1 => kept_markDropped hk1) hk)))))

theorem kept_resetQueue {q : Nat} (hk : s.kept) : (s.resetQueue vf q).kept :=
  kept_ite hk
    (kept_endResets (kept_wakeAll (kept_runRetires (kept_runRewinds (kept_foldl (fun _ _ hk1 => kept_resetGraph hk1)
    (kept_updSq hk))))))

theorem kept_destroyKeys (hk : s.kept) : (s.destroyKeys vf).kept := kept_updVf hk

theorem kept_zeroFrames {m : MemSys} {l : List Nat} (hm : m.kept) :
    (l.foldl (fun (m : MemSys) f => (m.zeroFrame f).raiseFrame f) m).kept := by
  induction l generalizing m with
  | nil => exact hm
  | cons f l ih =>
    rw [List.foldl_cons]
    exact ih (MemSys.raiseFrame_kept _ f (MemSys.zeroFrame_kept m f hm))

theorem kept_releaseFrames (hk : s.kept) : (s.releaseFrames vf).kept := by
  unfold State.releaseFrames
  exact kept_setMem (MemSys.kept_frame (kept_zeroFrames hk.1)) hk

theorem kept_abortBegun (hk : s.kept) : (s.abortBegun vf).kept := kept_foldl (fun _ _ hk1 => kept_ite (kept_abortNode hk1) hk1) hk

theorem kept_enterError (hk : s.kept) : (s.enterError vf).kept := kept_destroyKeys (kept_abortBegun (kept_updVf hk))

theorem kept_beginSuspension {kind : Nat} (hk : s.kept) : (s.beginSuspension vf kind).kept :=
  kept_foldl (fun _ _ hk1 => kept_pendPreempt hk1) (kept_updVf hk)

theorem kept_endSuspension (hk : s.kept) : (s.endSuspension vf).kept := kept_foldl (fun _ _ hk1 => kept_updNode hk1) (kept_updVf hk)

theorem kept_abandonMigration (hk : s.kept) : (s.abandonMigration vf).kept :=
  kept_ite (kept_endSuspension (kept_updVf hk)) (kept_updVf hk)

theorem kept_flushRings (hk : s.kept) : (s.flushRings vf).kept :=
  kept_foldl (fun _ _ hk1 => kept_foldl (fun _ _ hk2 => kept_writeRecord hk2) hk1) hk

theorem kept_retireAll (hk : s.kept) : (s.retireAll vf).kept := kept_foldl (fun _ _ hk1 => kept_retire hk1) hk

theorem kept_tearDown (hk : s.kept) : (s.tearDown vf).kept := by
  have hgraphs : State.kept ((List.range 16).foldl (fun s q => (s.graphsOf vf q).foldl State.resetGraph s) s) :=
    kept_foldl (fun _ _ h => kept_foldl (fun _ _ h => kept_resetGraph h) h) hk
  unfold State.tearDown
  exact kept_frame (kept_releaseFrames (kept_destroyKeys
    (kept_flushRings (kept_retireAll (kept_foldl (fun _ _ h => kept_ite (kept_abortStopped h) h) hgraphs)))))

/-! ### The security engine (R397 to R411) -/

theorem kept_reply {b : List Byte} (hk : s.kept) : (s.reply b).kept := kept_frame hk

theorem kept_keyMessage {m : KeyMsg} (hk : s.kept) : (s.keyMessage m).kept := by
  unfold State.keyMessage
  split
  · exact hk
  · exact kept_ite hk (kept_ite (kept_reply hk) (kept_frame (kept_updVf (kept_reply hk))))

theorem leads_onVf {f : State → State} (hf : (f s).kept) (hk : s.kept) : Leads (onVf s vf f) := leads_next (kept_ite hf hk)

theorem kept_tdispMove {source target : Tdisp} (hk : s.kept) : (s.tdispMove vf source target).kept :=
  kept_ite (kept_updVf hk) (kept_ite hk (kept_enterError hk))

theorem leads_execStopInterface (hk : s.kept) : Leads (execStopInterface vf s) := by
  unfold execStopInterface
  exact leads_onVf (kept_updVf (kept_releaseFrames (kept_destroyKeys hk))) hk

theorem kept_spdm {code : Nat} {content : List Byte} (hk : s.kept) : (s.spdm code content).kept := kept_ite (kept_reply hk) hk

theorem kept_setSession {x : Option Session} (hk : s.kept) : (s.setSession vf x).kept := kept_frame hk

theorem leads_execFinish {mac : BitVec 512} (hk : s.kept) : Leads (execFinish vf mac s) := by
  unfold execFinish
  split
  · exact leads_next (kept_ite (kept_spdm (kept_setSession hk)) hk)
  · exact leads_next hk

theorem kept_bringUp (hk : s.kept) : s.bringUp.kept := kept_setMem (MemSys.kept_frame hk.1) hk

theorem kept_loadModel (hk : s.kept) : s.loadModel.kept := kept_ite (kept_frame (kept_frame hk)) (kept_frame hk)

theorem leads_execBoot (hk : s.kept) : Leads (execBoot s) :=
  leads_ite (leads_next hk) (leads_ite (leads_next (kept_loadModel (kept_bringUp (kept_frame hk))))
    (leads_ite (leads_next (kept_loadModel (kept_bringUp (kept_frame hk)))) (leads_next (kept_frame hk))))

theorem leads_execBaseModelReplace {hash : Dword} (hk : s.kept) : Leads (execBaseModelReplace hash s) :=
  leads_ite (leads_next hk)
    (leads_next (kept_endReplace (kept_foldl (fun _ _ hk1 => kept_foldl (fun _ _ hk2 => kept_ite (kept_retire hk2) hk2) hk1)
    (kept_frame hk))))

/-! ### The debugger (R430 to R432) -/

theorem kept_ctxWrite {a1 : CtxWrite} (hk : s.kept) : (s.ctxWrite core a1).kept := by
  unfold State.ctxWrite
  split
  · exact kept_reply hk
  · exact kept_updHeld hk
  · exact kept_updHeld hk
  · exact kept_updHeld hk
  · exact kept_updHeld hk
  · exact kept_updHeld hk
  · exact kept_updHeld hk
  · exact kept_updHeld hk
  · exact kept_updHeld hk
  · exact kept_updQuad hk
  · exact kept_updCore hk

theorem kept_resumeWith {f : State → State} (hf : (f s).kept) (hk : s.kept) : (s.resumeWith core f).kept := by
  unfold State.resumeWith
  split
  · exact hk
  · split
    · exact kept_reply hk
    · exact hf

/-! ### Live migration (R412 to R414) -/

theorem kept_offerKey {module : Nat} (hk : s.kept) : (s.offerKey vf module).kept := by
  unfold State.offerKey
  split
  · exact kept_updPort hk
  · exact hk

theorem kept_beginMigration {module deadline : Nat} (hk : s.kept) : (s.beginMigration vf module deadline).kept :=
  kept_updVf (kept_offerKey hk)

theorem finds_sendItem {t : Target} {text : List Byte} (hk : s.kept) : Finds State.itself (s.sendItem vf t text) :=
  finds_check (fun _ => finds_check (fun _ => finds_map (fun _ => kept_updVf (kept_updPort hk))))

theorem finds_exportPage {page : Nat} (hk : s.kept) : Finds State.itself (s.exportPage vf page) := by
  unfold State.exportPage
  refine finds_ite (finds_some hk) ?_
  split
  · next e => exact finds_sendItem (ends_readVa hk _ e)
  · exact finds_some (kept_applySides hk)

theorem finds_exportBlock (hk : s.kept) : Finds State.itself (s.exportBlock vf b) := by
  unfold State.exportBlock
  split
  · next e => exact Finds.map (finds_sendItem (ends_readBlockAt hk _ e)) (fun _ hk1 => kept_updVf hk1)
  · exact finds_some (kept_applySides hk)

theorem kept_readDirty (hk : s.kept) : (s.readDirty vf).kept := kept_updVf (kept_setMem (MemSys.drain_kept _ _ hk.1) hk)

theorem kept_exportStep (hk : s.kept) : (s.exportStep vf).kept := by
  unfold State.exportStep
  split
  · exact hk
  · refine kept_ite hk ?_
    split
    · exact kept_getD (Finds.map (finds_exportPage hk) (fun _ hk1 => kept_updVf hk1)) hk
    · split
      · exact kept_getD (finds_exportBlock hk) hk
      · exact kept_ite hk (kept_readDirty hk)

theorem finds_exportRest (hk : s.kept) : Finds State.itself (s.exportRest vf) := by
  unfold State.exportRest
  exact finds_check fun _ => Finds.bind (g := State.itself) (finds_foldlM (fun _ _ h => finds_exportPage h) (kept_readDirty hk))
    fun _ hk1 => Finds.bind (g := State.itself) (finds_foldlM (fun _ _ h => finds_exportBlock h) hk1) fun _ hk2 =>
    finds_sendItem (kept_updVf hk2)

theorem kept_fst_importOf {source off : Nat} (hk : s.kept) : (s.importOf source vf off).1.kept := by
  unfold State.importOf
  split
  · exact hk
  · exact kept_frame hk

theorem kept_setImport {g : Import} (hk : s.kept) : (s.setImport vf g).kept := kept_frame hk

theorem kept_endImport (hk : s.kept) : (s.endImport vf).kept := kept_frame hk

theorem finds_importBlock {g : Import} (hk : s.kept) : Finds Prod.fst (s.importBlock vf b g) := by
  unfold State.importBlock
  split
  · exact finds_some hk
  · exact finds_ite finds_none (finds_some (kept_fst_takeBlock hk))

theorem kept_fst_importTile {blocks : SMap Nat} {r : State × List Nat} (hk : r.1.kept) :
    (State.importTile vf blocks r va).1.kept := by
  unfold State.importTile
  dsimp only
  split
  · exact hk
  · split
    · exact kept_keepMet hk
    · next t _ e =>
      have hread : t.kept := ends_readVa hk _ e
      split
      · split
        · exact hread
        · split
          · next u e' => exact ends_commitVa hread _ e'
          · exact kept_keepMet hread
      · exact hread

theorem kept_fst_importHandle {blocks : SMap Nat} {r : State × List Nat} {i : Nat} (hk : r.1.kept) :
    (State.importHandle vf blocks r i).1.kept := by
  unfold State.importHandle
  dsimp only
  split
  · exact kept_keepMet hk
  · next t _ e =>
    have hread : t.kept := ends_readVa hk _ e
    have htiles {l : List Nat} : (l.foldl (State.importTile vf blocks) (t, r.2)).1.kept :=
      kept_fst_foldl (fun _ _ h => kept_fst_importTile h) hread
    split
    · exact hread
    · split
      · exact htiles
      · split
        · next e' => exact ends_commitVa htiles _ e'
        · exact kept_keepMet htiles

theorem kept_importImage {im : VfImage} {blocks : SMap Nat} (hk : s.kept) : (s.importImage vf im blocks).kept := by
  unfold State.importImage
  refine kept_fst_foldl (fun _ _ h => kept_fst_importHandle h) (kept_foldl (fun t p ht => ?_) (kept_foldl (fun _ _ h =>
    kept_updDie h) (kept_frame (kept_updVf hk))))
  split
  · exact kept_updDie ht
  · exact ht

theorem kept_importItem {g : Import} {t : Target} {text : List Byte} (hk : s.kept) : (s.importItem vf g t text).kept := by
  unfold State.importItem
  split
  · refine kept_ite (kept_setImport hk) ?_
    split
    · next e => exact kept_setImport (ends_commitVa hk _ e)
    · exact kept_setImport (kept_keepMet hk)
  · split
    · next e => exact kept_setImport (kept_commitBlockAt (finds_importBlock hk _ e))
    · exact kept_setImport hk
  · split
    · exact kept_endImport (kept_importImage hk)
    · exact kept_endImport hk

theorem kept_importMsg (hk : s.kept) : (s.importMsg m).kept :=
  kept_ite (kept_fst_importOf hk) (kept_ite (kept_setImport (kept_fst_importOf hk))
    (kept_ite (kept_importItem (kept_fst_importOf hk)) (kept_setImport (kept_fst_importOf hk))))

/-! ### Commands and answers of the PF (R440 to R442) -/

theorem kept_granted (hk : s.kept) : (granted s).state.kept := hk

theorem kept_turned {code : Nat} (hk : s.kept) : (turned s code).state.kept := hk

theorem kept_finish {r : Reply} (hr : r.state.kept) : r.finish.kept := ⟨hr.1, Memory.wf_write _ _ _ hr.2⟩

theorem kept_command {needsVf : Bool} {f : State → Nat → Reply} (hf : (f s c.vf.toNat).state.kept) (hk : s.kept) :
    (s.command c needsVf f).kept := by
  unfold State.command
  refine kept_finish ?_
  split
  · exact hk
  · split
    · exact hk
    · exact hf

theorem kept_pfCreate (hk : s.kept) : (s.pfCreate vf).state.kept := kept_state_ite (kept_turned hk) (kept_granted (kept_frame hk))

theorem leads_execCreate (hk : s.kept) : Leads (execCreate c s) := leads_next (kept_command (kept_pfCreate hk) hk)

theorem leads_execTeardown (hk : s.kept) : Leads (execTeardown c s) := by
  unfold execTeardown
  exact leads_next (kept_command (kept_tearDown hk) hk)

theorem leads_execClearKeys (hk : s.kept) : Leads (execClearKeys c s) := leads_next (kept_command (kept_granted (kept_updVf hk)) hk)

theorem kept_pfGrade (hk : s.kept) : (s.pfGrade c).state.kept :=
  kept_state_ite (kept_turned hk) (kept_granted (kept_setMem (MemSys.kept_frame (MemSys.zeroFrame_kept _ _ hk.1))
    (kept_uncheck hk)))

theorem leads_execSetGrade (hk : s.kept) : Leads (execSetGrade c s) := leads_next (kept_command (kept_pfGrade hk) hk)

theorem kept_leaveCores {index : Nat} (hk : s.kept) : (s.leaveCores vf index v).kept :=
  kept_foldl (fun _ _ hk1 => kept_updCore hk1) hk

theorem kept_pfSetVf {i index : Nat} (hk : s.kept) : (s.pfSetVf vf i index v).state.kept :=
  kept_state_ite (kept_turned hk) (kept_state_ite (kept_ite hk (kept_enterError hk)) (kept_state_ite (kept_turned hk)
    (kept_state_ite (kept_turned hk) (kept_granted (kept_updVf (kept_ite (kept_leaveCores hk) hk))))))

theorem kept_pfSetModule {i index v2 : Nat} (hk : s.kept) : (s.pfSetModule i index v v2).state.kept := by
  unfold State.pfSetModule
  split
  · exact kept_state_ite (kept_turned hk) (kept_state_ite (kept_turned hk) (kept_granted (kept_frame hk)))
  · exact kept_state_ite (kept_turned hk) (kept_granted (kept_updDie hk))
  · exact kept_state_ite (kept_turned hk) (kept_granted (kept_updDie hk))
  · exact kept_state_ite (kept_turned hk) (kept_granted (kept_frame hk))
  · exact kept_state_ite (kept_turned hk) (kept_granted (kept_frame hk))
  · exact kept_turned hk

theorem leads_execSetField (hk : s.kept) : Leads (execSetField c s) :=
  leads_next (kept_command (kept_state_ite (kept_pfSetModule hk) (kept_pfSetVf hk)) hk)

theorem kept_pfGet {i index : Nat} (hk : s.kept) : (s.pfGet vf i index).state.kept := by
  unfold State.pfGet
  refine kept_state_ite ?_ (kept_state_ite (kept_turned hk) hk)
  split
  · exact hk
  · exact kept_turned hk

theorem leads_execGetField (hk : s.kept) : Leads (execGetField c s) := leads_next (kept_command (kept_pfGet hk) hk)

theorem kept_pfSuspend (hk : s.kept) : (s.pfSuspend vf v).state.kept := by
  unfold State.pfSuspend
  split
  · exact kept_granted (kept_beginSuspension hk)
  · exact kept_granted (kept_updVf (kept_beginSuspension hk))
  · exact kept_turned hk

theorem leads_execSuspend (hk : s.kept) : Leads (execSuspend c s) := leads_next (kept_command (kept_pfSuspend hk) hk)

theorem leads_execResume (hk : s.kept) : Leads (execResume c s) :=
  leads_next (kept_command (kept_granted (kept_updVf (kept_endSuspension hk))) hk)

theorem kept_pfMigrate {module deadline : Nat} (hk : s.kept) : (s.pfMigrate vf module deadline).state.kept :=
  kept_state_ite (kept_turned hk) (kept_granted (kept_beginMigration hk))

theorem leads_execMigrateStart (hk : s.kept) : Leads (execMigrateStart c s) := leads_next (kept_command (kept_pfMigrate hk) hk)

theorem kept_pfMigrateStop (hk : s.kept) : (s.pfMigrateStop vf v).state.kept := by
  unfold State.pfMigrateStop
  split
  · exact kept_state_ite (kept_granted (kept_updVf (kept_destroyKeys hk))) (kept_turned hk)
  · exact kept_granted (kept_abandonMigration hk)
  · exact kept_turned hk

theorem leads_execMigrateStop (hk : s.kept) : Leads (execMigrateStop c s) := leads_next (kept_command (kept_pfMigrateStop hk) hk)

theorem leads_execMigrationSettle (hk : s.kept) : Leads (execMigrationSettle vf s) := by
  unfold execMigrationSettle
  split
  · refine leads_ite ?_ (leads_next hk)
    split
    · next e1 => exact leads_next (kept_updVf (finds_exportRest hk _ e1))
    · exact leads_next hk
  · exact leads_next hk

theorem leads_execMigrationDeadline (hk : s.kept) : Leads (execMigrationDeadline vf s) := by
  unfold execMigrationDeadline
  split
  · exact leads_next (kept_ite (kept_abandonMigration hk) hk)
  · exact leads_next hk

theorem leads_execBadOpcode (hk : s.kept) : Leads (execBadOpcode c s) := leads_next (kept_finish (kept_turned hk))

theorem leads_execResolveRetry {tag : Nat} (hk : s.kept) : Leads (execResolveRetry tag s) := by
  unfold execResolveRetry
  split
  · exact leads_next (kept_ite hk (kept_frame hk))
  · exact leads_next hk

theorem leads_execResolveFail {tag : Nat} (hk : s.kept) : Leads (execResolveFail tag s) := by
  unfold execResolveFail
  split
  · exact leads_next (kept_frame hk)
  · exact leads_next hk

theorem kept_evictRange {r : Nat × Nat × Nat} (hk : s.kept) : (s.evictRange r).kept :=
  kept_foldl (fun _ _ hk1 => kept_flushIf hk1) hk

theorem leads_execShootdown (hk : s.kept) : Leads (execShootdown s) :=
  leads_ite (leads_next hk) (leads_next (kept_frame (kept_evictRange hk)))

theorem leads_execShootdownDone (hk : s.kept) : Leads (execShootdownDone s) :=
  leads_ite (leads_next hk) (leads_ite (leads_next (kept_postPf (kept_frame (kept_frame (kept_evictRange hk)))))
    (leads_next (kept_frame (kept_evictRange hk))))

/-! ### Registers of the host (R434 to R440) -/

theorem kept_doorbell {h : HostReq} {q : Nat} {v : Dword} (hk : s.kept) : (s.doorbell h q v).kept :=
  kept_ite hk (kept_ite (kept_updSq hk) (kept_updSq (kept_setMem (MemSys.drain_kept _ _ hk.1) hk)))

theorem kept_writeSq {w : RegWrite} {q r : Nat} (hk : s.kept) : (s.writeSq w q r).kept := by
  unfold State.writeSq
  dsimp only
  split
  · exact kept_ite hk (kept_updSq hk)
  · exact kept_ite hk (kept_updSq hk)
  · exact kept_ite (kept_doorbell hk) hk
  · exact kept_ite (kept_resetQueue hk) hk

theorem kept_retryRing {r : Nat} (hk : s.kept) : (s.retryRing vf r).kept := kept_ite (kept_writeRecord hk) hk

theorem kept_writeHead {r : Nat} {v : Dword} (hk : s.kept) : (s.writeHead vf r v).kept :=
  kept_retryRing (kept_ite (kept_setRing hk) hk)

theorem kept_writeRing {w : RegWrite} {r i : Nat} (hk : s.kept) : (s.writeRing w r i).kept := by
  unfold State.writeRing
  dsimp only
  split
  · exact kept_retryRing (kept_ite hk (kept_setRing hk))
  · exact kept_retryRing (kept_ite hk (kept_setRing hk))
  · exact kept_ite (kept_writeHead hk) hk
  · exact hk

theorem kept_resumeNode (hk : s.kept) : (s.resumeNode vf i).kept := by
  unfold State.resumeNode
  split
  · exact hk
  · exact kept_ite hk (kept_wakeNode (kept_setNode hk))

theorem kept_adcmd {v : Dword} (hk : s.kept) : (s.adcmd vf v).kept := by
  unfold State.adcmd
  split
  · exact kept_hostEvict hk
  · exact kept_hostRetire hk
  · exact hk

theorem kept_writeTable {w : RegWrite} {i : Nat} (hk : s.kept) : (s.writeTable w i).kept := kept_writeVector hk

theorem kept_writeVfReg {w : RegWrite} (hk : s.kept) : (s.writeVfReg w).kept :=
  kept_ite (kept_writeSq hk) (kept_ite (kept_writeRing hk) (kept_ite (kept_resumeNode hk) (kept_ite (kept_adcmd hk)
    (kept_ite (kept_writeTable hk) hk))))

theorem kept_runCommand (hk : s.kept) : (s.runCommand c).kept := by
  unfold State.runCommand
  refine kept_stateOf ?_ hk
  split
  · exact leads_execCreate hk
  · exact leads_execTeardown hk
  · exact leads_execSetField hk
  · exact leads_execGetField hk
  · exact leads_execSuspend hk
  · exact leads_execResume hk
  · exact leads_execMigrateStart hk
  · exact leads_execMigrateStop hk
  · exact leads_execSetGrade hk
  · exact leads_execClearKeys hk
  · exact leads_execBadOpcode hk

theorem kept_perform (hk : s.kept) : s.perform.kept := kept_ite (kept_runCommand hk) hk

theorem kept_resolve? {v : Dword} (hk : s.kept) : (s.resolve? v).kept := by
  unfold State.resolve?
  dsimp only
  split
  · exact kept_stateOf (leads_execResolveRetry hk) hk
  · exact kept_stateOf (leads_execResolveFail hk) hk
  · exact hk

theorem kept_writeCap {v : Dword} (hk : s.kept) : (s.writeCap v).kept := kept_ite (kept_frame hk) hk

theorem kept_writePfReg {w : RegWrite} (hk : s.kept) : (s.writePfReg w).kept := by
  unfold State.writePfReg
  refine kept_ite (kept_writeTable hk) ?_
  split
  · exact kept_writeRing hk
  · exact kept_writeRing hk
  · exact kept_writeRing hk
  · exact kept_frame hk
  · exact kept_frame hk
  · exact kept_resolve? hk
  · exact kept_frame hk
  · exact kept_frame hk
  · exact kept_stateOf (leads_execShootdown hk) hk
  · exact kept_writeCap hk
  · exact hk

theorem kept_tellModule (hk : s.kept) : (s.tellModule vf).kept := kept_ite hk (kept_message (kept_updVf hk))

theorem ends_hostStore {h : HostReq} {bs : List Byte} (hk : s.kept) : Ends State.itself (s.hostStore h va bs) :=
  ends_check fun _ => Ends.bind (ends_translate hk) fun ⟨_, _⟩ hk1 => ends_ite (ends_writeLeaf hk1) (Ends.bind (ends_translate hk1)
    fun ⟨_, _⟩ hk2 => Ends.bind (ends_writeLeaf hk2) fun _ hk3 => ends_writeLeaf hk3)

theorem ends_hostLoad {h : HostReq} (hk : s.kept) : Ends Prod.fst (s.hostLoad h va n) := ends_readVa hk

theorem kept_bar2Fault {sides : List Side} (hk : s.kept) : (s.bar2Fault va sides).kept :=
  kept_postPf (kept_frame (kept_applySides hk))

theorem kept_recoveryBar {a : Bar2} (hk : s.kept) : (s.recoveryBar a).kept := kept_ite (kept_frame hk) hk

theorem kept_bar2 {a : Bar2} (hk : s.kept) : (s.bar2 a).kept := by
  unfold State.bar2
  dsimp only
  refine kept_ite (kept_recoveryBar hk) (kept_ite hk (kept_ite (kept_bar2Fault hk) ?_))
  split
  · split
    · next e1 => exact ends_hostStore hk _ e1
    · exact kept_bar2Fault hk
  · split
    · next e1 => exact kept_frame (ends_hostLoad hk _ e1)
    · exact kept_frame (kept_applySides hk)
    · exact kept_bar2Fault hk

theorem kept_retryReads (hk : s.kept) : s.retryReads.kept := kept_foldl (fun _ _ hk1 => kept_bar2 hk1) (kept_frame hk)

/-! ### Instructions of the block allocator and the backfill queue (R327 to R349) -/

theorem leads_execHview (hk : s.kept) : Leads (execHview o s) :=
  leads_runStream (Ends.bind (ends_deref hk) fun ⟨_, _⟩ hk1 => ends_check fun _ => ends_ok (kept_done (kept_setReg hk1))) hk

theorem leads_execHchk (hk : s.kept) : Leads (execHchk o s) := by
  unfold execHchk
  refine leads_runStream ?_ hk
  dsimp only
  refine ends_join fun _ => ?_
  split
  · next e => exact ends_bindOk (ends_ok (kept_done (kept_setReg (ends_deref hk _ e))))
  · exact Ends.join (g := Prod.fst) (ends_ok (kept_applySides hk)) (ends_error _) fun _ hk1 => ends_ok (kept_done (kept_setReg hk1))
  · exact Ends.bind (ends_error _) fun _ hk1 => ends_ok (kept_done (kept_setReg hk1))

theorem leads_execHqry (hk : s.kept) : Leads (execHqry o s) :=
  leads_runStream (Ends.bind (ends_deref hk) fun ⟨_, _⟩ hk1 => ends_check fun _ => ends_ok (kept_done (kept_setReg hk1))) hk

theorem ends_allocator (hk : s.kept) : Ends State.itself (s.allocator) :=
  Ends.bind (ends_release hk) fun _ hk1 => ends_ok (kept_settleAll hk1)

theorem kept_allocDone {st nblk len : Nat} (hk : s.kept) : (s.allocDone o h st nblk len).kept :=
  kept_done (kept_setReg (kept_ite (kept_side hk) hk))

theorem leads_execBalloc (hk : s.kept) : Leads (execBalloc o s) :=
  leads_runStream (Ends.bind (ends_allocator hk) fun _ hk1 => Ends.bind (ends_derefKv hk1) fun ⟨_, _⟩ hk2 => ends_check fun _ =>
    ends_ite (Ends.bind (ends_onward (ends_writeAux hk2)) fun _ hk3 => ends_ok (kept_allocDone hk3))
    (ends_ite (ends_ok (kept_allocDone hk2))
    (Ends.bind (ends_onward (ends_forNat (fun _ _ hk3 => Ends.bind (ends_newBlock hk3) fun ⟨_, _⟩ hk4 =>
    ends_onward (ends_writeBlock hk4)) hk2)) fun _ hk3 => Ends.bind (ends_onward (ends_writeAux hk3)) fun _ hk4 =>
    ends_ok (kept_allocDone hk4)))) hk

theorem leads_execBtrim (hk : s.kept) : Leads (execBtrim o s) :=
  leads_runStream (Ends.bind (ends_allocator hk) fun _ hk1 => Ends.bind (ends_derefKv hk1) fun ⟨_, _⟩ hk2 => ends_check fun _ =>
    ends_check fun _ => Ends.bind (ends_onward (ends_kvTrim (kept_bfDrop hk2))) fun ⟨_, _⟩ hk3 =>
    ends_ok (kept_ite (kept_allocDone hk3) (kept_allocDone hk3))) hk

theorem leads_execBfree {o : R2} (hk : s.kept) : Leads (execBfree o s) :=
  leads_runStream (Ends.bind (ends_allocator hk) fun _ hk1 => Ends.bind (ends_derefKv hk1) fun ⟨_, _⟩ hk2 => ends_check fun _ =>
    Ends.bind (ends_onward (ends_dropBlocks (kept_bfDrop hk2)))
    fun _ hk3 => Ends.bind (ends_onward (ends_writeAux hk3)) fun _ hk4 => ends_ok (kept_done (kept_setReg hk4))) hk

theorem ends_anyPending (hk : s.kept) : Ends Prod.fst (s.anyPending a e) := by
  unfold State.anyPending
  refine ends_foldlM (fun _ _ hk1 => ends_onward (Ends.bind (ends_readBlock hk1) fun ⟨_, _⟩ hk2 => ?_)) hk
  dsimp only
  split
  · exact ends_ok hk2
  · exact Ends.bind (ends_onward (ends_readHeader hk2)) fun _ hk3 => ends_ok hk3

theorem ends_forkTail {x y : HEntry} {l full part : Nat} (hk : s.kept) : Ends State.itself (s.forkTail a x y l full part) := by
  unfold State.forkTail
  refine Ends.bind (ends_readBlock hk) fun ⟨_, _⟩ hk1 => ?_
  dsimp only
  split
  · exact ends_ok hk1
  · exact Ends.bind (ends_onward (ends_readHeader hk1)) fun _ hk2 => ends_check fun _ => Ends.bind (ends_onward (ends_newBlock hk2))
      fun _ hk3 => Ends.bind (ends_onward (ends_readBlockAt hk3)) fun _ hk4 =>
      ends_onward (ends_writeBlock (kept_commitBlockAt hk4))

theorem ends_forkShare {x y : HEntry} {l full : Nat} (hk : s.kept) : Ends State.itself (s.forkShare a x y l full) := by
  unfold State.forkShare
  refine ends_forNat (fun _ _ hk1 => Ends.bind (ends_readBlock hk1) fun ⟨_, _⟩ hk2 => ?_) hk
  dsimp only
  refine Ends.bind (ends_onward (ends_writeBlock hk2)) fun _ hk3 => ends_ok ?_
  split
  · exact kept_refBlock hk3
  · exact hk3

theorem leads_execBfork (hk : s.kept) : Leads (execBfork o s) :=
  leads_runStream (Ends.bind (ends_allocator hk) fun _ hk1 => Ends.bind (ends_deref hk1) fun ⟨_, _⟩ hk2 =>
    Ends.bind (ends_onward (ends_deref hk2)) fun ⟨_, _⟩ hk3 => ends_check fun _ => ends_check fun _ => ends_check fun _ =>
    Ends.bind (ends_onward (ends_anyPending hk3))
    fun ⟨_, _⟩ hk4 => ends_ite (ends_ok (kept_allocDone hk4)) (Ends.bind (ends_onward (ends_forNat (fun _ _ hk5 =>
    Ends.bind (ends_forkShare hk5) fun _ hk6 => ends_ite (ends_ok hk6) (ends_onward (ends_forkTail hk6))) hk4)) fun _ hk5 =>
    Ends.bind (ends_onward (ends_writeAux hk5)) fun _ hk6 => ends_ok (kept_allocDone hk6))) hk

theorem leads_execBstat (hk : s.kept) : Leads (execBstat o s) := by
  unfold execBstat
  refine leads_runStream (Ends.bind (ends_allocator hk) fun _ hk1 => Ends.bind (ends_derefKv hk1) fun ⟨_, _⟩ hk2 => ?_) hk
  dsimp only
  refine ends_check fun _ => ends_ite (ends_ok (kept_done (kept_setReg hk2))) (Ends.bind (ends_onward (ends_readBlock hk2))
    fun _ hk3 => ?_)
  split
  · exact ends_ok (kept_done (kept_setReg hk3))
  · exact Ends.bind (ends_onward (ends_readHeader hk3)) fun _ hk4 => ends_ok (kept_done (kept_setReg hk4))

theorem ends_bfTake (hk : s.kept) : Ends Prod.fst (s.bfTake core k) := by
  unfold State.bfTake
  dsimp only
  refine ends_join fun _ => Ends.bind (ends_bfTry (ends_derefKv hk)) fun _ hk1 => ends_join fun _ =>
    Ends.bind (ends_foldlM (fun _ _ hk2 => Ends.bind (ends_bfTry (ends_tileFrame hk2)) fun _ hk3 => ?_) hk1) fun _ hk2 =>
    ends_join fun _ => Ends.bind (ends_bfTry (ends_readVa hk2)) fun _ hk3 => ends_join fun _ => ?_
  · split <;> exact ends_ok hk3
  · split
    · exact ends_error _
    · next e => exact ends_ok (kept_of_pair (kept_fst_bfDesc hk3) e)

theorem kept_markBlocks {bit : Dword} {pend : Bool} {bs : List Nat} (hk : s.kept) : (s.markBlocks d vf bit pend bs).kept :=
  kept_foldl (fun _ _ hk1 => kept_pokeHeader hk1) hk

theorem kept_bfAccept (hk : s.kept) : (s.bfAccept core k).kept := by
  unfold State.bfAccept
  dsimp only
  split
  · next e => exact kept_bfCreate (kept_updDie (kept_markBlocks (ends_bfTake hk _ e)))
  · exact kept_postVf (kept_markBlocks (kept_applySides hk))

theorem leads_execBkfillAccept (hk : s.kept) : Leads (execBkfillAccept core s) := by
  unfold execBkfillAccept
  refine leads_next (kept_headStep (fun _ _ => ?_) hk)
  split
  · exact works_some (fun _ hk1 => ends_check fun _ => Ends.bind (ends_release hk1) fun _ hk2 =>
      ends_ok (kept_oneStep (kept_bfAccept (kept_settleAll hk2))))
  · exact works_none

/-! ### Links (R443 to R451) -/

theorem kept_takeHeld (hk : s.kept) : s.takeHeld.kept := kept_ite hk (kept_frame hk)

theorem kept_respond {op : Byte} {code : Nat} {body : BitVec 640} (hk : s.kept) : (s.respond port op m code body).kept :=
  kept_updPort hk

theorem kept_portDown (hk : s.kept) : (s.portDown port).kept := kept_endStopped (kept_postPf (kept_frame (kept_updPort hk)))

theorem kept_discard {counted : Bool} {seq : BitVec 12} (hk : s.kept) : (s.discard port counted seq).kept :=
  kept_ite hk (kept_ite (kept_updPort hk) (kept_ite hk (kept_ite (kept_updPort hk) (kept_portDown (kept_updPort hk)))))

theorem kept_receive {f : State → State} (hf : ∀ t, t.kept → (f t).kept) (hk : s.kept) : (s.receive port m f).kept := by
  unfold State.receive
  exact kept_ite hk (kept_ite (kept_ite (kept_discard hk) (hf _ (kept_updPort hk))) (kept_ite (hf s hk) hk))

theorem kept_refuseTo {op : Byte} {e : Stop} (hk : s.kept) : (s.refuseTo port op m e).kept := kept_respond (kept_applySides hk)

theorem kept_peerRequestRead (hk : s.kept) : (s.peerRequestRead port m).kept := by
  unfold State.peerRequestRead
  split
  refine kept_ite (kept_respond hk) ?_
  split
  · next e1 => exact kept_respond (ends_readVa hk _ e1)
  · exact kept_refuseTo hk

theorem ends_peerStore (hk : s.kept) : Ends State.itself (s.peerStore m vf va) :=
  ends_check fun _ => Ends.bind (ends_translate hk) fun ⟨_, _⟩ hk1 => Ends.bind (ends_commitCells hk1) fun _ hk2 =>
    ends_ok (kept_ite (kept_poisonLine hk2) hk2)

theorem kept_peerRequestWrite (hk : s.kept) : (s.peerRequestWrite port m).kept := by
  unfold State.peerRequestWrite
  split
  refine kept_ite (kept_respond hk) ?_
  split
  · next e1 => exact kept_respond (ends_peerStore hk _ e1)
  · exact kept_refuseTo hk

theorem kept_peerRequestAmo (hk : s.kept) : (s.peerRequestAmo port m).kept := by
  unfold State.peerRequestAmo
  split
  dsimp only
  refine kept_ite (kept_respond hk) ?_
  split
  · next e1 =>
      exact kept_respond ((ends_check fun _ => ends_check fun _ => Ends.bind (ends_translate hk) fun _ hk1 => ends_amoHome hk1)
        _ e1)
  · exact kept_refuseTo hk

theorem kept_peerReduce (hk : s.kept) : (s.peerReduce port m).kept := kept_ite (kept_respond hk) (kept_respond (kept_land hk))

theorem kept_respondTo {f : List PeerReq → List PeerReq} (hk : s.kept) : (s.respondTo port m f).kept :=
  kept_ite hk (kept_endStopped (kept_updPort (kept_frame hk)))

theorem kept_acknowledge (hk : s.kept) : (s.acknowledge port m).kept := kept_respondTo hk

theorem kept_answer {data : List Byte} (hk : s.kept) : (s.answer port m data).kept := kept_respondTo hk

/-! ### Masks (R135) -/

theorem kept_putMask {d : MaskReg} {v : Word} (hk : s.kept) : (s.putMask d v stop).kept := kept_done (kept_updHere hk)

/-! ### Power and cooling (R452, R453) -/

theorem kept_tripNode {die : Nat} (hk : s.kept) : (s.tripNode die i).kept :=
  kept_ite (kept_contain hk) (kept_foldl (fun _ _ hk1 => kept_preciseTrap hk1) hk)

theorem kept_tripDie {die : Nat} (hk : s.kept) : (s.tripDie die).kept :=
  kept_foldl (fun _ _ hk1 => kept_tripNode hk1) (kept_updDie hk)

/-! ### probe and its fills (R204, R212) -/

theorem ends_probeHandle {k : ProbeKey} {off : Nat} {stale : Bool} (hk : s.kept) : Ends Prod.fst (s.probeHandle k off stale) :=
  Ends.bind (ends_readEntry hk) fun ⟨_, _⟩ hk1 => ends_onward (ends_check fun _ => ends_ite (ends_ok hk1) (ends_check fun _ =>
    ends_check fun _ => ends_ok hk1))

theorem kept_learnFor {k : ProbeKey} (hk : s.kept) : (s.learnFor k).kept := kept_ite (kept_learnAll hk) hk

theorem kept_fst_probeEntry {k : ProbeKey} (hk : s.kept) : (s.probeEntry k).1.kept := by
  unfold State.probeEntry
  dsimp only
  split
  · split
    · exact kept_learnFor hk
    · exact kept_setPentry (kept_learnFor hk)
    · exact kept_setPentry (kept_learnFor hk)
  · split
    · exact kept_learnFor hk
    · exact kept_fst_queueFill (kept_learnFor hk)

theorem leads_execProbe {o : RProbe} (hk : s.kept) : Leads (execProbe o s) := by
  unfold execProbe
  refine leads_runStream ?_ hk
  dsimp only
  refine ends_check fun _ => ends_check fun _ => Ends.bind (ends_probeHandle hk) fun ⟨_, _⟩ hk1 => ?_
  split
  · next e => exact ends_ok (kept_jumpTo (kept_setReg (kept_of_pair hk1 e)))
  · next e =>
      exact ends_ok (kept_ite (kept_done (kept_setReg (kept_fst_probeEntry (kept_of_pair hk1 e))))
        (kept_jumpTo (kept_setReg (kept_fst_probeEntry (kept_of_pair hk1 e)))))

theorem leads_execPinv {o : R2} (hk : s.kept) : Leads (execPinv o s) := by
  unfold execPinv
  refine leads_runStream ?_ hk
  dsimp only
  refine ends_check fun _ => Ends.bind (ends_probeHandle hk) fun _ hk1 => ?_
  split
  · exact ends_ok (kept_done (kept_setReg (kept_learnFor hk1)))
  · exact ends_ite (ends_onward (ends_error _)) (ends_ite (ends_ok (kept_done (kept_setReg (kept_learnFor hk1))))
      (ends_ok (kept_done (kept_setReg (kept_setPentry (kept_learnFor hk1))))))

theorem leads_execProbeFillComplete {die ticket : Nat} (hk : s.kept) : Leads (execProbeFillComplete die ticket s) := by
  unfold execProbeFillComplete
  split
  · exact leads_ite (leads_next (kept_endTicket hk))
      (leads_ite (leads_ite (leads_next (kept_ite (kept_endFill hk) (kept_countFill (kept_endFill hk)))) (leads_next hk))
      (leads_next (kept_endFill hk)))
  · exact leads_next hk

/-! ### Phasers (R275 to R282) -/

theorem leads_execSemsig {o : SN} (hk : s.kept) : Leads (execSemsig o s) := by
  unfold execSemsig
  refine leads_runStream ?_ hk
  split
  · exact ends_error _
  · exact Ends.bind (ends_release hk) fun _ hk1 => ends_ok (kept_done (kept_updHere hk1))

theorem leads_execSemwait {o : SN} (hk : s.kept) : Leads (execSemwait o s) := by
  unfold execSemwait
  refine leads_runStream ?_ hk
  split
  · exact ends_error _
  · exact ends_ok (kept_done (kept_setCore hk))

theorem kept_updMembers {f : List Member → List Member} (hk : s.kept) : (s.updMembers f).kept := by
  unfold State.updMembers
  split
  · exact kept_updNode hk
  · exact hk

theorem kept_setMember {m : Member} (hk : s.kept) : (s.setMember m).kept := kept_updMembers hk

theorem leads_execPhreg {o : RAB} (hk : s.kept) : Leads (execPhreg o s) :=
  leads_runStream (ends_check fun _ => ends_check fun _ => ends_check fun _ => ends_check fun _ =>
    ends_ok (kept_done (kept_setPhaser (kept_updMembers hk)))) hk

theorem ends_arrive {m : Member} (hk : s.kept) : Ends State.itself (s.arrive i m) :=
  ends_check fun _ => Ends.bind (ends_release hk) fun _ hk1 => ends_ok (kept_updHere (kept_setMember (kept_setPhaser hk1)))

theorem ends_awaitPhase {m : Member} (hk : s.kept) : Ends State.itself (s.awaitPhase i m) :=
  ends_check fun _ => ends_ok (kept_setMember hk)

theorem leads_execPhsig {o : RA} (hk : s.kept) : Leads (execPhsig o s) :=
  leads_runStream (ends_check fun _ => ends_check fun _ => Ends.bind (ends_arrive hk) fun _ hk1 => ends_ok (kept_done hk1)) hk

theorem leads_execPhwait {o : RA} (hk : s.kept) : Leads (execPhwait o s) :=
  leads_runStream (ends_check fun _ => ends_check fun _ => Ends.bind (ends_awaitPhase hk) fun _ hk1 => ends_ok (kept_done hk1)) hk

theorem leads_execPhadv {o : RA} (hk : s.kept) : Leads (execPhadv o s) := by
  unfold execPhadv
  refine leads_runStream ?_ hk
  dsimp only
  refine ends_check fun _ => ends_check fun _ => Ends.join (g := State.itself) (ends_arrive hk) (ends_ok hk) fun _ hk1 =>
    ends_check fun _ => ?_
  split
  · next e => exact ends_ok (kept_done (ends_awaitPhase hk1 _ e))
  · exact ends_ok (kept_waitHere hk1)
  · exact ends_error _

theorem leads_execPhdrop {o : RA} (hk : s.kept) : Leads (execPhdrop o s) :=
  leads_runStream (ends_check fun _ => ends_check fun _ => Ends.join (g := State.itself) (ends_release hk) (ends_ok hk) fun _ hk1 =>
    ends_ok (kept_done (kept_setPhaser (kept_updMembers hk1)))) hk

/-! ### Steps of a head command and timed issue (R88, R172) -/

theorem leads_engineWork {i : Instr} (hk : s.kept) : Leads (s.engineWork core q i) := by
  unfold State.engineWork
  split
  · exact leads_execDecryptStep hk
  · exact leads_execCopyChunk hk
  · exact leads_execCopyChunk hk
  · exact leads_execCopyChunk hk
  · exact leads_execCopyChunk hk
  · exact leads_execCopyChunk hk
  · exact leads_execCopyChunk hk
  · exact leads_execCopyChunk hk
  · exact leads_execTloadUnit hk
  · exact leads_execTinvalEffect hk
  · exact leads_execTinvalEffect hk
  · exact leads_execMlwRow hk
  · exact leads_execMswapExchange hk
  · exact leads_ite (leads_execSideCorrection hk) (leads_execMmulRow hk)
  · exact leads_execMmulSmaxRow hk
  · exact leads_execMstRow hk
  · exact leads_execMzeroEffect hk
  · exact leads_execMamapEffect hk
  · exact leads_execMloraRow hk
  · exact leads_execMloraClrEffect hk
  · exact leads_execMfuseStanding hk
  · exact leads_execMfuseOffEffect hk
  · exact leads_ite (leads_execAttnOutputStep hk) (leads_execAttnChunk hk)
  · exact leads_execBkfillAccept hk
  · exact leads_next hk

theorem kept_beginTimed (hk : s.kept) : (s.beginTimed core q k).kept :=
  kept_ite (kept_beginHead hk) (kept_ite (kept_updCore (kept_stateOf (leads_engineWork (kept_beginHead hk)) (kept_beginHead hk)))
    (kept_beginHead hk))

theorem leads_execTimedIssue (hk : s.kept) : Leads (execTimedIssue core q s) := by
  unfold execTimedIssue
  dsimp only
  refine leads_next ?_
  split
  · exact kept_ite (kept_beginTimed hk) hk
  · exact hk

/-! ### Integer lanes (R119) -/

theorem ends_intLanes {i : Instr} {o : V3} {f : (w : Nat) → BitVec w → BitVec w → BitVec w} (hk : s.kept) :
    Ends State.itself (s.intLanes i o f) :=
  ends_vec2 hk

theorem ends_bitLanes {i : Instr} {o : V3} {f : Word → Word → Word} (hk : s.kept) : Ends State.itself (s.bitLanes i o f) :=
  ends_vec2 hk

theorem ends_intCmp {i : Instr} {o : VCmp} {f : Word → Word → Bool} (hk : s.kept) : Ends State.itself (s.intCmp i o f) :=
  ends_vecCmp hk

/-! ### Permutations and random numbers (R133, R134) -/

theorem ends_moveLanes {i : Instr} {o : V2n} {f : Nat → Nat → Option Nat} (hk : s.kept) : Ends State.itself (s.moveLanes i o f) :=
  ends_vec1 hk

theorem ends_randLanes {i : Instr} {o : VRnd} {f : Word → Nat} (hk : s.kept) : Ends State.itself (s.randLanes i o f) :=
  ends_check fun _ => ends_ok (kept_done (kept_updHere hk))

end Sys2Proof.Machine
end


section
/-! PROOFS. Memory in its canonical form under every instruction and event, and under the turns of a step (R261, R262). -/

namespace Sys2Proof.Machine
open Sys2Proof

variable {s : State} {vf core : Nat} {q : EngQ}

/-! ### Every instruction and event -/

theorem leads_exec {i : Instr} (hk : s.kept) : Leads (exec i s) := by
  unfold exec
  cases i with
  | add _ | sub _ | and _ | or _ | xor _ | shl _ | shr _ | sra _ | mul _ | mulh _ | mulhu _ | div _ | divu _ | rem _ | remu _
  | min _ | max _ | minu _ | maxu _ | slt _ | sltu _ => exact leads_next (kept_alu hk)
  | clz _ | popc _ => exact leads_next (kept_alu1 hk)
  | addi _ | andi _ | ori _ | xori _ => exact leads_next (kept_aluImm hk)
  | shli _ | shri _ | srai _ => exact leads_next (kept_aluShift hk)
  | slti _ | sltiu _ => exact leads_next (kept_aluImm13 hk)
  | lui _ | auipc _ | lea _ | xcur _ | semrd _ | tqry _ | kmovToScalar _ | kpop _ | qcnt _ =>
    exact leads_next (kept_done (kept_setReg hk))
  | beq _ | bne _ | blt _ | bge _ | bltu _ | bgeu _ => exact leads_runStream (ends_branch hk) hk
  | jal _ | jalr _ => exact leads_runStream (ends_link hk) hk
  | loop _ | loopi _ => exact leads_runStream (ends_loopBody hk) hk
  | cqpush _ | semset _ | qdrop _ | vmovs _ => exact leads_runStream (ends_check fun _ => ends_ok (kept_done (kept_updHere hk))) hk
  | cqpop _ | vsett _ => exact leads_runStream (ends_check fun _ => ends_ok (kept_done (kept_setReg (kept_updHere hk)))) hk
  | csrr _ => exact leads_runStream (ends_csrRead hk) hk
  | csrw _ => exact leads_runStream (ends_csrSwap hk) hk
  | csrs _ | csrc _ => exact leads_runStream (ends_ite (ends_csrRead hk) (ends_csrSwap hk)) hk
  | nop _ | l2hint _ | l2hintDemote _ => exact leads_next (kept_done hk)
  | trap _ => exact leads_runStream (ends_error _) hk
  | eret _ => exact leads_runStream (ends_ite (ends_error _) (ends_trapReturn hk)) hk
  | brk _ => exact leads_runStream (ends_ite (ends_ok (kept_haltNode (kept_done (kept_updHere hk)))) (ends_error _)) hk
  | wait _ => exact leads_runStream (ends_ite (ends_ok (kept_done hk)) (ends_error _)) hk
  | ld _ => exact leads_execLd hk
  | st _ => exact leads_execSt hk
  | amoAdd _ | amoAnd _ | amoOr _ | amoXor _ | amoSwap _ | amoMin _ | amoMax _ | amoMinu _ | amoMaxu _ | amoCas _ | amoFadd _
  | amoFmin _ | amoFmax _ => exact leads_runStream (ends_amoBody hk) hk
  | fence _ => exact leads_execFence hk
  | cinv _ => exact leads_next (kept_done (kept_flushIf hk))
  | cwb _ => exact leads_next (kept_done (kept_writeBackIf hk))
  | qrd _ | qwr _ | grpleave _ =>
    exact leads_runStream (ends_check fun _ => ends_check fun _ => ends_ok (kept_done (kept_updHere hk))) hk
  | qrdh _ => exact leads_execQrdh hk
  | xld _ | xldDec _ | xldVfy _ | xst _ | xcp _ | xcpScl _ | xcpVfy _ | mlw _ | mswap _ | mmul _ | mmulSmax _ | mst _ | mzero _
  | mlora _ | mloraClr _ | mamap _ | mfuse _ | mfuseOff _ | attn _ | bkfill _ | tinval _ | tinvalSh _ =>
    exact leads_runStream (ends_push hk) hk
  | xdrain _ => exact leads_runStream (ends_check fun _ => ends_ok (kept_done hk)) hk
  | xcfg _ => exact leads_runStream (ends_check fun _ => ends_ok (kept_done (kept_updHere (kept_setReg hk)))) hk
  | hview _ => exact leads_execHview hk
  | hchk _ => exact leads_execHchk hk
  | hqry _ => exact leads_execHqry hk
  | balloc _ => exact leads_execBalloc hk
  | bfree _ => exact leads_execBfree hk
  | btrim _ => exact leads_execBtrim hk
  | bfork _ => exact leads_execBfork hk
  | bstat _ => exact leads_execBstat hk
  | aadmit _ => exact leads_execAadmit hk
  | aresolve _ => exact leads_execAresolve hk
  | arel _ => exact leads_execArel hk
  | apublish _ => exact leads_execApublish hk
  | aclaim _ => exact leads_execAclaim hk
  | probe _ => exact leads_execProbe hk
  | pinv _ => exact leads_execPinv hk
  | phreg _ => exact leads_execPhreg hk
  | phdrop _ => exact leads_execPhdrop hk
  | phsig _ => exact leads_execPhsig hk
  | phwait _ => exact leads_execPhwait hk
  | phadv _ => exact leads_execPhadv hk
  | phqry _ | phqryM _ => exact leads_runStream (ends_check fun _ => ends_ok (kept_done (kept_setReg hk))) hk
  | semsig _ => exact leads_execSemsig hk
  | semwait _ => exact leads_execSemwait hk
  | nyield _ => exact leads_runStream (ends_check fun _ => ends_reach hk) hk
  | ndone _ => exact leads_execNdone hk
  | ndoneAbort _ => exact leads_execNdoneAbort hk
  | npark _ => exact leads_runStream (ends_check fun _ => ends_check fun _ => ends_reach hk) hk
  | nspawn _ => exact leads_execNspawn hk
  | ndep _ | ndepRel _ => exact leads_runStream (ends_changeDeps hk) hk
  | grpjoin _ => exact leads_execGrpjoin hk
  | tload _ => exact leads_runStream (Ends.bind (ends_push hk) fun _ hk1 => ends_ok (kept_updHere hk1)) hk
  | vadd _ | vsub _ | vmul _ | vmulh _ | vshl _ | vshr _ | vsra _ | vmin _ | vmax _ | vminu _ | vmaxu _ =>
    exact leads_runStream (ends_intLanes hk) hk
  | vand _ | vor _ | vxor _ => exact leads_runStream (ends_bitLanes hk) hk
  | vfadd _ | vfsub _ | vfmul _ | vfmin _ | vfmax _ => exact leads_runStream (ends_fpLanes hk) hk
  | vfabs _ | vfneg _ => exact leads_runStream (ends_signLanes hk) hk
  | vfma _ | vcvt _ | vconf _ =>
    exact leads_runStream (ends_check fun _ => ends_check fun _ => ends_ok (kept_done (kept_setCore hk))) hk
  | vpack _ | vshuf _ | vsel _ => exact leads_runStream (ends_vec2 hk) hk
  | vunpack _ | vrsum _ | vrmax _ | vrmin _ | vrargmax _ | vscan _ | vcompress _ => exact leads_runStream (ends_vec1 hk) hk
  | vbscale _ =>
    exact leads_runStream (ends_check fun _ => ends_check fun _ => ends_ok (kept_done (kept_setReg (kept_setCore hk)))) hk
  | vbcast _ | vslideUp _ | vslideDn _ => exact leads_runStream (ends_moveLanes hk) hk
  | vfunc _ => exact leads_execVfunc hk
  | tsel _ =>
    exact leads_runStream (ends_check fun _ => ends_check fun _ => ends_check fun _ => ends_ok (kept_done (kept_updHere hk))) hk
  | vrand _ | vrandU _ => exact leads_runStream (ends_randLanes hk) hk
  | kand _ | kor _ | kxor _ | knot _ | kmov _ | kmovFromScalar _ => exact leads_next (kept_putMask hk)
  | vext _ => exact leads_runStream (ends_check fun _ => ends_ok (kept_done (kept_setReg (kept_setCore hk)))) hk
  | vins _ => exact leads_runStream (ends_check fun _ => ends_ok (kept_done (kept_setCore hk))) hk
  | vfcmpEq _ | vfcmpLt _ | vfcmpLe _ | vfcmpUn _ => exact leads_runStream (ends_fpCmp hk) hk
  | vicmpEq _ | vicmpLt _ | vicmpLe _ | vicmpLtu _ | vicmpLeu _ => exact leads_runStream (ends_intCmp hk) hk
  | fetchPastEnd => exact leads_execFetchPastEnd hk
  | siblingTrap _ _ => exact leads_execSiblingTrap hk
  | engineFaultDelivery _ => exact leads_execEngineFaultDelivery hk
  | eqdropWrite _ _ => exact leads_next (kept_ite (kept_setCore hk) hk)
  | commandStart _ _ => exact leads_execCommandStart hk
  | timedIssue _ _ => exact leads_execTimedIssue hk
  | scheduleMiss _ _ => exact leads_execScheduleMiss hk
  | commandRetire _ _ => exact leads_execCommandRetire hk
  | copyChunk _ _ => exact leads_execCopyChunk hk
  | decryptStep _ => exact leads_execDecryptStep hk
  | tloadUnit _ => exact leads_execTloadUnit hk
  | tinvalEffect _ => exact leads_execTinvalEffect hk
  | mlwRow _ => exact leads_execMlwRow hk
  | mswapExchange _ => exact leads_execMswapExchange hk
  | mmulRow _ => exact leads_execMmulRow hk
  | mmulSmaxRow _ => exact leads_execMmulSmaxRow hk
  | sideCorrection _ => exact leads_execSideCorrection hk
  | mstRow _ => exact leads_execMstRow hk
  | mzeroEffect _ => exact leads_execMzeroEffect hk
  | mamapEffect _ => exact leads_execMamapEffect hk
  | mloraRow _ => exact leads_execMloraRow hk
  | mloraClrEffect _ => exact leads_execMloraClrEffect hk
  | mfuseStanding _ => exact leads_execMfuseStanding hk
  | mfuseOffEffect _ => exact leads_execMfuseOffEffect hk
  | attnChunk _ => exact leads_execAttnChunk hk
  | attnOutputStep _ => exact leads_execAttnOutputStep hk
  | bkfillAccept _ => exact leads_execBkfillAccept hk
  | l1Eviction _ _ => exact leads_next (kept_flushIf hk)
  | rowFillComplete _ _ => exact leads_execRowFillComplete hk
  | probeFillComplete _ _ => exact leads_execProbeFillComplete hk
  | pageFaultDeadline _ => exact leads_execPageFaultDeadline hk
  | frozenGroupPreemption _ => exact leads_execFrozenGroupPreemption hk
  | writeSerialise _ => exact leads_next (kept_ite (kept_setMem (MemSys.serialise_kept _ _ hk.1) hk) hk)
  | remoteWriteApply _ _ => exact leads_next (kept_ite (kept_setMem (MemSys.apply_kept _ _ _ hk.1) hk) hk)
  | graphLaunch _ _ => exact leads_execGraphLaunch hk
  | nodeDispatch _ => exact leads_execNodeDispatch hk
  | forcedPreemption _ => exact leads_execForcedPreemption hk
  | waitPreemption _ => exact leads_execWaitPreemption hk
  | operatorOverrun _ => exact leads_execOperatorOverrun hk
  | parkTimeWake _ => exact leads_execParkTimeWake hk
  | eventRecordWrite _ _ => exact leads_execEventRecordWrite hk
  | ringFaultRetry _ _ => exact leads_execRingFaultRetry hk
  | eventCoalesceTimeout _ _ => exact leads_execEventCoalesceTimeout hk
  | hangDetect _ => exact leads_execHangDetect hk
  | crucibleGuarantee => exact leads_execCrucibleGuarantee hk
  | adapterLoadComplete _ _ => exact leads_execAdapterLoadComplete hk
  | adapterFillQuotaTick _ => exact leads_execAdapterFillQuotaTick hk
  | reduce _ _ => exact leads_next (kept_receive (fun _ hk1 => kept_peerReduce hk1) hk)
  | scrubVisit _ _ => exact leads_next (kept_ite (kept_meetLine hk) hk)
  | weightRestore _ => exact leads_execWeightRestore hk
  | registerWrite _ => exact leads_onHost (kept_ite hk (kept_ite (kept_writePfReg hk) (kept_ite (kept_writeVfReg hk) hk))) hk
  | sqDoorbell _ _ _ => exact leads_onHost (kept_doorbell hk) hk
  | sqReset _ _ => exact leads_onHost (kept_resetQueue hk) hk
  | erheadWrite _ _ _ => exact leads_onHost (kept_writeHead hk) hk
  | resumeWrite _ _ => exact leads_onHost (kept_resumeNode hk) hk
  | adcmdEvict _ _ => exact leads_onHost (kept_hostEvict hk) hk
  | adcmdRetire _ _ => exact leads_onHost (kept_hostRetire hk) hk
  | bar2Access _ => exact leads_next (kept_bar2 hk)
  | create _ => exact leads_execCreate hk
  | teardown _ => exact leads_execTeardown hk
  | setField _ => exact leads_execSetField hk
  | getField _ => exact leads_execGetField hk
  | suspend _ => exact leads_execSuspend hk
  | resume _ => exact leads_execResume hk
  | migrateStart _ => exact leads_execMigrateStart hk
  | migrateStop _ => exact leads_execMigrateStop hk
  | setGrade _ => exact leads_execSetGrade hk
  | clearKeys _ => exact leads_execClearKeys hk
  | resolveRetry _ => exact leads_execResolveRetry hk
  | resolveFail _ => exact leads_execResolveFail hk
  | shootdown => exact leads_execShootdown hk
  | shootdownDone => exact leads_execShootdownDone hk
  | migrationSettle _ => exact leads_execMigrationSettle hk
  | migrationDeadline _ => exact leads_execMigrationDeadline hk
  | keyLoad _ | keyClear _ => exact leads_next (kept_keyMessage hk)
  | lockInterfaceRequest _ | startInterfaceRequest _ => exact leads_onVf (kept_tdispMove hk) hk
  | stopInterface _ => exact leads_execStopInterface hk
  | getDeviceInterfaceReport _ => exact leads_onVf (kept_reply hk) hk
  | ideKm _ _ _ => exact leads_next (kept_ite (kept_frame hk) hk)
  | getVersion | getCapabilities | negotiateAlgorithms | getDigests | getCertificate | challenge _ =>
    exact leads_next (kept_spdm hk)
  | getMeasurements _ => exact leads_next (kept_ite (kept_spdm hk) (kept_spdm hk))
  | keyExchange _ _ _ | endSession _ => exact leads_next (kept_ite (kept_spdm (kept_setSession hk)) hk)
  | finish _ _ => exact leads_execFinish hk
  | boot => exact leads_execBoot hk
  | debugAttach _ => exact leads_next (kept_ite (kept_updCore hk) hk)
  | debugHalt _ => exact leads_next (kept_ite (kept_haltNode hk) hk)
  | debugContextWrite _ _ => exact leads_next (kept_ite (kept_ctxWrite hk) hk)
  | debugResume _ => exact leads_next (kept_resumeWith (kept_foldl (fun _ _ hk1 => kept_updCore hk1) hk) hk)
  | debugSingleStep _ _ => exact leads_next (kept_ite (kept_resumeWith (kept_updCore hk) hk) hk)
  | throttleChange _ _ => exact leads_ite (leads_next hk) (leads_next (kept_postPf (kept_updDie hk)))
  | dieTrip _ => exact leads_next (kept_tripDie hk)
  | coolantLoss => exact leads_next (kept_foldl (fun _ _ hk1 => kept_tripDie hk1) hk)
  | cxlLinkDown _ => exact leads_ite (leads_next hk) (leads_next (kept_postPf (kept_setMem (MemSys.kept_frame hk.1) hk)))
  | badFlit _ _ => exact leads_next (kept_ite hk (kept_discard hk))
  | replayRequest _ _ | idleFlit _ _ =>
    exact leads_ite (leads_next hk) (leads_ite (leads_next (kept_updPort hk)) (leads_next (kept_discard hk)))
  | read _ _ => exact leads_next (kept_receive (fun _ hk1 => kept_peerRequestRead hk1) hk)
  | readRsp _ _ | amoRsp _ _ => exact leads_next (kept_receive (fun _ hk1 => kept_answer hk1) hk)
  | write _ _ => exact leads_next (kept_receive (fun _ hk1 => kept_peerRequestWrite hk1) hk)
  | writeAck _ _ | reduceAck _ _ => exact leads_next (kept_receive (fun _ hk1 => kept_acknowledge hk1) hk)
  | amo _ _ => exact leads_next (kept_receive (fun _ hk1 => kept_peerRequestAmo hk1) hk)
  | migrate _ _ => exact leads_next (kept_receive (fun _ hk1 => kept_importMsg hk1) hk)
  | mgmt _ _ | linkctl _ _ => exact leads_next (kept_receive (fun _ hk1 => kept_updPort hk1) hk)
  | reservedMessage _ _ => exact leads_next (kept_receive (fun _ hk1 => kept_portDown hk1) hk)
  | illegalOpcode _ _ => exact leads_execIllegalOpcode hk
  | badOpcode _ => exact leads_execBadOpcode hk
  | tripClear _ => exact leads_next (kept_updDie hk)
  | baseModelReplace _ => exact leads_execBaseModelReplace hk
  | ideCheckFailure _ => exact leads_onVf (kept_ite hk (kept_enterError hk)) hk

/-! ### Storage with errors (R421) -/

theorem kept_dropError {e : Nat × CoreErr} (hk : s.kept) : (s.dropError e).kept := kept_updCore hk

theorem kept_correct {e : Nat × CoreErr} (hk : s.kept) : (s.correct e).kept := kept_frame (kept_dropError hk)

theorem ends_afterErrors {f : State → Host.Outcome State Fault Refusal} {named : Nat × CoreErr → Bool} {t : State}
    {l : List (Nat × CoreErr)} (hk : t.kept) : Ends State.itself (afterErrors f named s t l) := by
  unfold afterErrors
  dsimp only
  split
  · exact ends_error _
  · refine ends_ok (kept_foldl (fun u p hu => ?_) hk)
    split
    · exact hu
    · exact kept_dropError hu
    · exact kept_correct hu

theorem kept_coreError (hk : s.kept) : (s.coreError core).kept := kept_preciseTrap hk

theorem leads_guarded {f : State → Host.Outcome State Fault Refusal} {named : State → State → Nat × CoreErr → Bool}
    {skip : State → State} (hf : Leads (f s)) (hskip : ∀ t, t.kept → (skip t).kept) (hk : s.kept) :
    Leads (guarded f named skip s) := by
  unfold guarded
  split
  · exact hf
  · split
    · next t e =>
      split
      · next u e' => exact leads_next (ends_afterErrors (hf t e) u e')
      · exact leads_next (hskip _ (kept_coreError hk))
    · exact leads_fault _
    · exact leads_refused _

/-! ### One step (log entry 1) -/

theorem kept_onStream {x : Bool} (hk : s.kept) : (s.onStream core x).kept := kept_frame hk

theorem kept_atInstr {gpc off : Dword} (hk : s.kept) : (s.atInstr gpc off).kept := kept_updSelf hk

theorem leads_issueOne {gpc : Dword} {p : Placed} (hk : s.kept) : Leads (s.issueOne gpc p) := leads_exec (kept_atInstr hk)

theorem finds_firstStop {gpc : Dword} {l : List Placed} (hk : s.kept) : Finds State.itself (s.firstStop gpc l) := by
  induction l with
  | nil => exact finds_none
  | cons p rest ih => exact finds_ite ih (finds_some (kept_stateOf (leads_issueOne hk) hk))

theorem kept_issueAll {start : State} {gpc : Dword} {g : List Placed} {past : Option (Dword × Dword)} {l : List (Placed × Bool)}
    (hstart : start.kept) (hk : s.kept) : (start.issueAll s gpc g past l).kept := by
  induction l generalizing s past with
  | nil =>
    unfold State.issueAll
    split
    · exact kept_updSelf hk
    · exact hk
  | cons p rest ih =>
    unfold State.issueAll
    dsimp only
    split
    · exact ih (kept_stateOf (leads_issueOne hk) hk)
    · split
      · next u e => exact finds_firstStop hstart u e
      · exact kept_frame (kept_updSelf hstart)

theorem leads_issueGroup {g : List Placed} (hk : s.kept) : Leads (s.issueGroup g) := by
  unfold State.issueGroup
  dsimp only
  split
  · exact leads_issueOne hk
  · split
    · exact leads_next (kept_settled (ends_error _) hk)
    · exact leads_next (kept_issueAll hk hk)

theorem kept_endStep (hk : s.kept) : (s.endStep core).kept := kept_ite hk (kept_updCore hk)

theorem leads_endStepOf {r : Host.Outcome State Fault Refusal} (hr : Leads r) : Leads (endStepOf core r) := by
  cases r with
  | next t => exact leads_next (kept_endStep (hr t rfl))
  | fault x => exact leads_fault x
  | refused x => exact leads_refused x

theorem leads_issueNext {x : Bool} (hk : s.kept) : Leads (s.issueNext core x) := by
  unfold State.issueNext
  split
  · exact leads_execFetchPastEnd hk
  · exact leads_execIllegalOpcode hk
  · exact leads_next (kept_trapHere hk)
  · exact leads_next (kept_waitHere hk)
  · exact leads_issueGroup hk

theorem leads_streamTurn {x : Bool} (hk : s.kept) : Leads (s.streamTurn core x) :=
  leads_ite (leads_next (kept_onStream hk)) (leads_ite (leads_endStepOf (leads_ite (leads_execSiblingTrap (kept_onStream hk))
    (leads_ite (leads_execEngineFaultDelivery (kept_onStream hk)) (leads_issueNext (kept_onStream hk)))))
    (leads_ite (leads_execSiblingTrap (kept_onStream hk)) (leads_ite (leads_execEngineFaultDelivery (kept_onStream hk))
    (leads_issueNext (kept_onStream hk)))))

theorem leads_engineTurn (hk : s.kept) : Leads (s.engineTurn core q) := by
  unfold State.engineTurn
  dsimp only
  split
  · exact leads_next hk
  · exact leads_ite (leads_next hk) (leads_ite (leads_execCommandStart hk) (leads_ite (leads_execCommandRetire hk)
      (leads_engineWork hk)))

theorem kept_memoryTurn (hk : s.kept) : s.memoryTurn.kept := by
  unfold State.memoryTurn
  dsimp only
  refine ⟨?_, hk.2⟩
  split
  · refine MemSys.apply_kept _ _ _ ?_
    split
    · exact MemSys.serialise_kept _ _ hk.1
    · exact hk.1
  · split
    · exact MemSys.serialise_kept _ _ hk.1
    · exact hk.1

theorem keeps_ringMoves : ∀ m ∈ s.ringMoves, Keeps m := by
  unfold State.ringMoves
  simp only [List.mem_append, List.mem_cons, List.mem_flatMap, List.mem_map, List.not_mem_nil, or_false]
  rintro m (((rfl | rfl) | ⟨v, -, r, -, rfl | rfl⟩) | ⟨v, -, q, -, rfl⟩) t ht
  · exact leads_execEventRecordWrite ht
  · exact leads_execEventCoalesceTimeout ht
  · exact leads_execEventRecordWrite ht
  · exact leads_execEventCoalesceTimeout ht
  · exact leads_execGraphLaunch ht

theorem keeps_nodeMoves : ∀ m ∈ s.nodeMoves, Keeps m := by
  unfold State.nodeMoves
  simp only [List.mem_append, List.mem_flatMap, List.mem_map, List.mem_cons, List.not_mem_nil, or_false]
  rintro m ((hm | ⟨n, -, rfl | rfl | rfl | rfl | rfl⟩) | ⟨n, -, rfl⟩) t ht
  · split at hm
    · exact absurd hm List.not_mem_nil
    · obtain ⟨c, -, rfl⟩ := List.mem_map.mp hm
      exact leads_execNodeDispatch ht
  · exact leads_execForcedPreemption ht
  · exact leads_execWaitPreemption ht
  · exact leads_execFrozenGroupPreemption ht
  · exact leads_execOperatorOverrun ht
  · exact leads_execHangDetect ht
  · exact leads_execParkTimeWake ht

theorem keeps_unitMoves : ∀ m ∈ s.unitMoves, Keeps m := by
  unfold State.unitMoves
  simp only [List.mem_append, List.mem_flatMap, List.mem_map, List.mem_cons]
  rintro m ((((⟨c, -, r, -, rfl⟩ | ⟨d, -, k, -, rfl⟩) | ⟨v, -, rfl | ⟨a, -, rfl⟩⟩) | ⟨f, -, rfl⟩) | ⟨w, -, rfl⟩) t ht
  · exact leads_execRowFillComplete ht
  · exact leads_execProbeFillComplete ht
  · exact leads_execAdapterFillQuotaTick ht
  · exact leads_execAdapterLoadComplete ht
  · exact leads_execPageFaultDeadline ht
  · exact leads_execWeightRestore ht

theorem leads_retryUnits (hk : s.kept) : Leads (retryUnits s) := leads_next (kept_retryReads (kept_runRetires (kept_runRewinds hk)))

theorem leads_migrationRound (hk : s.kept) : Leads (migrationRound vf s) := leads_next (kept_exportStep hk)

theorem leads_tellHost (hk : s.kept) : Leads (tellHost vf s) := leads_next (kept_tellModule hk)

theorem keeps_pfMoves : ∀ m ∈ s.pfMoves, Keeps m := by
  unfold State.pfMoves
  simp only [List.mem_append, List.mem_flatMap, List.mem_cons, List.not_mem_nil, or_false]
  rintro m (((rfl | rfl) | hm) | ⟨v, -, rfl | hm⟩) t ht
  · exact leads_execShootdownDone ht
  · exact leads_retryUnits ht
  · split at hm
    · obtain rfl := List.mem_singleton.mp hm
      exact leads_execCrucibleGuarantee ht
    · exact absurd hm List.not_mem_nil
  · exact leads_tellHost ht
  · split at hm
    · simp only [List.mem_cons, List.not_mem_nil, or_false] at hm
      obtain rfl | rfl | rfl := hm
      · exact leads_execMigrationSettle ht
      · exact leads_execMigrationDeadline ht
      · exact leads_migrationRound ht
    · exact absurd hm List.not_mem_nil

theorem keeps_moves : ∀ m ∈ s.moves, Keeps m := by
  unfold State.moves
  simp only [List.mem_append]
  rintro m (((hm | hm) | hm) | hm)
  · exact keeps_ringMoves m hm
  · exact keeps_nodeMoves m hm
  · exact keeps_unitMoves m hm
  · exact keeps_pfMoves m hm

theorem kept_hearthTurn (hk : s.kept) : s.hearthTurn.kept := by
  unfold State.hearthTurn
  refine kept_getD (finds_findSome fun m hm => ?_) hk
  have hkeeps : Keeps m := keeps_moves m ((List.mem_append.mp hm).elim List.mem_of_mem_drop List.mem_of_mem_take)
  exact finds_ite finds_none (finds_some (kept_stateOf (hkeeps s hk) hk))

theorem kept_passOn {turn : Turn} (hk : s.kept) : (s.passOn turn core).kept := by
  unfold State.passOn
  split
  · exact kept_frame hk
  · exact kept_frame hk
  · exact kept_frame hk
  · exact kept_frame hk
  · exact kept_frame hk
  · split <;> exact kept_frame hk
  · exact kept_frame hk
  · split <;> exact kept_frame hk

theorem leads_takeTurn (hk : s.kept) : Leads (s.takeTurn) := by
  unfold State.takeTurn
  split
  · exact leads_streamTurn hk
  · exact leads_engineTurn hk
  · exact leads_next (kept_memoryTurn hk)
  · exact leads_next (kept_hearthTurn hk)

theorem kept_timed {move : Nat → EngQ → State → Host.Outcome State Fault Refusal} (hm : ∀ c q t, t.kept → Leads (move c q t))
    (hk : s.kept) : (s.timed move).kept :=
  kept_foldl (fun _ _ h => kept_foldl (fun _ _ h => kept_ite (kept_stateOf (hm _ _ _ h) h) h) h) hk

theorem kept_retireServed (hk : s.kept) : s.retireServed.kept :=
  kept_frame (kept_foldl (fun _ _ hk1 => kept_ite (kept_stateOf (leads_issueNext (kept_onStream hk1)) hk1) hk1) hk)

theorem kept_retryRings (hk : s.kept) : s.retryRings.kept :=
  kept_ite hk (kept_foldl (fun _ _ hk1 => kept_foldl (fun _ _ hk2 => kept_stateOf (leads_execRingFaultRetry hk2) hk2) hk1)
    (kept_stateOf (leads_execRingFaultRetry hk) hk))

theorem kept_pumpPorts (hk : s.kept) : s.pumpPorts.kept := kept_frame hk

theorem kept_tick (hk : s.kept) : s.tick.kept :=
  kept_pumpPorts (kept_retryRings (kept_timed (fun _ _ _ hk1 => leads_execScheduleMiss hk1)
    (kept_notePrios (kept_frame (kept_timed (fun _ _ _ hk1 => leads_execTimedIssue hk1) (kept_retireServed hk))))))

theorem kept_firmware (hk : s.kept) : s.firmware.kept := kept_takeHeld (kept_perform hk)

theorem leads_move (hk : s.kept) : Leads (s.move) := by
  unfold State.move
  split
  · split
    · next e1 => exact leads_next (kept_tick (leads_exec (kept_frame hk) _ e1))
    · exact leads_fault _
    · exact leads_refused _
  · split
    · next e1 => exact leads_next (kept_tick (kept_firmware (kept_passOn (leads_takeTurn hk _ e1))))
    · exact leads_fault _
    · exact leads_refused _

theorem kept_skip (hk : s.kept) : s.skip.kept := by
  unfold State.skip
  split
  · exact kept_tick (kept_frame hk)
  · exact kept_tick (kept_passOn hk)

theorem leads_run (hk : s.kept) : Leads s.run := leads_guarded (leads_move hk) (fun _ h => kept_skip h) hk

theorem leads_step (hk : s.kept) : Leads (step s) := leads_run hk

theorem Canonical.kept (h : Canonical s) (ho : s.mem.ordered) : s.kept := ⟨⟨h.1, ho⟩, h.2⟩

theorem State.kept.canonical (h : s.kept) : Canonical s ∧ s.mem.ordered := ⟨⟨h.1.1, h.2⟩, h.1.2⟩

end Sys2Proof.Machine
end

section
/-! PROOFS. Every step keeps memory in its canonical form and the log of writes in order (R261, R262). -/

namespace Sys2Proof.Machine
open Sys2Proof

/-- Settles O60: a step reaches device memory only through operations of the memory system that keep its form, and host memory only
through writes of bytes, so every function of the model that a step calls keeps the form. -/
theorem stepKeepsCanonical : Obligations.StepKeepsCanonical := by
  unfold Obligations.StepKeepsCanonical
  intro s t hs ho hstep
  have ht : t.kept := leads_step (hs.kept ho) t hstep
  exact ht.canonical

end Sys2Proof.Machine
end


section
/-! PROOFS. The phaser instructions: registration, arrival, waits, phases and queries (R275 to R282). -/

namespace Sys2Proof.Machine
open Sys2Proof

/-! ### What follows a part of a body -/

section
variable {α β : Type} {x : Except Stop α} {f : α → Except Stop β} {code : Byte} {val : Dword} {on : WaitOn}

/-- What follows a part that answers. -/
theorem ok_then {a : α} (h : x = .ok a) : (x >>= f) = f a := by rw [h]; rfl

/-- Nothing follows a part that traps. -/
theorem trap_then (h : x = trapOf code val) : (x >>= f) = trapOf code val := by rw [h]; rfl

/-- Nothing follows a part that waits. -/
theorem wait_then (h : x = waitOn on) : (x >>= f) = waitOn on := by rw [h]; rfl

end

/-! ### A node's entry -/

/-- A node that exists changes in place. -/
theorem updNode_of_node? {s : State} {nid : Dword} {n : Node} (h : s.node? nid = some n) (f : Node → Node) :
    s.updNode nid f = s.setNode nid (f n) := by
  rw [State.updNode, h]

/-- A node reads as it was replaced. -/
theorem node?_setNode_self (s : State) (nid : Dword) (n : Node) : (s.setNode nid n).node? nid = some n := by
  show (SMap.insert nid.toNat n (SMap.erase s.hearth.nodes nid.toNat)).lookup nid.toNat = some n
  have h : (SMap.erase s.hearth.nodes nid.toNat).lookup nid.toNat = none := by rw [SMap.lookup_erase, if_pos rfl]
  rw [SMap.lookup_insert _ _ _ h, if_pos rfl]

/-- Of two notes of an advance the later stands. -/
theorem Core.setStream_noted (c : Core) (x : Bool) (u : Stream) (a b : Nat) :
    { ({ c with advanced := a } : Core).setStream x u with advanced := b } = { c.setStream x u with advanced := b } := by
  cases x <;> rfl

/-- The note that the core that executes advanced now. -/
def State.noted (s : State) : State := s.updHere fun c => { c with advanced := s.tb }

theorem here_noted (s : State) : s.noted.here = { s.here with advanced := s.tb } := State.here_updHere s _

theorem self_noted (s : State) : s.noted.self = s.self := by
  show s.noted.here.stream s.curX = s.here.stream s.curX
  rw [here_noted]
  rfl

/-- An instruction that retires, where the note of the last advance was made before. -/
theorem noted_done_onlyAdvances (s : State) (stop : Bool) : OnlyAdvances s (s.noted.done stop) stop := by
  refine (done_onlyAdvances s stop).of_here ?_ ?_ rfl
  · exact (onlyCore_updHere s _).trans (onlyCore_done s.noted stop)
  · rw [State.here_done, State.here_done, here_noted, self_noted]
    exact Core.setStream_noted s.here s.curX { s.self.advance 1 stop with wait := none } s.tb s.tb

/-- A change of a node and the note commute. -/
theorem updNode_noted {s : State} {nid : Dword} {n : Node} (h : s.node? nid = some n) (f : Node → Node) :
    s.noted.updNode nid f = (s.updNode nid f).noted := by
  rw [updNode_of_node? h, updNode_of_node? (s := s.noted) h]
  rfl

/-! ### Phaser ids and member records (R276, R281) -/

/-- A phaser id in a VF's range, as the core that executes may name it. -/
def State.phaserIn (s : State) (id : Dword) : Prop :=
  id.toNat / 2 ^ 21 % 2 ^ 35 = 0 ∧ id.toNat / 2 ^ 12 % 16 = 0 ∧ (s.self.mode = .device ∨ id.toNat / 2 ^ 56 = s.here.vfid)
    ∧ s.cfg (id.toNat / 2 ^ 56) 0x11 ≤ id.toNat % 2 ^ 12
    ∧ id.toNat % 2 ^ 12 < s.cfg (id.toNat / 2 ^ 56) 0x11 + s.cfg (id.toNat / 2 ^ 56) 0x12

/-- The upper bits of an id are its VF. -/
theorem phaserVf_eq (id : Dword) : bitsOf id.toNat 63 56 = id.toNat / 2 ^ 56 := by
  have := id.isLt
  unfold bitsOf
  omega

/-- The index of an id is its lower bits. -/
theorem phaserIndex_eq (id : Dword) : phaserIndex id = id.toNat % 2 ^ 12 := by
  simp only [phaserIndex, bitsOf, Nat.pow_zero, Nat.div_one]

/-- The check of an id is whether it lies in the range. -/
theorem phaserId_eq (s : State) (id : Dword) [Decidable (s.phaserIn id)] :
    s.phaserId id = need (decide (s.phaserIn id)) (trapOf 0x52 id) := by
  unfold State.phaserId
  refine congrArg (need · _) (Bool.eq_iff_iff.mpr (Iff.trans ?_ decide_eq_true_iff.symm))
  rw [phaserVf_eq, phaserIndex_eq]
  simp only [State.phaserIn, State.device, bitsOf, Bool.and_eq_true, Bool.or_eq_true, beq_iff_eq, decide_eq_true_eq, and_assoc]
  exact Iff.rfl

theorem phaserId_ok {s : State} {id : Dword} (h : s.phaserIn id) : s.phaserId id = .ok () := by
  classical rw [phaserId_eq, decide_eq_true h]; rfl

theorem phaserId_trap {s : State} {id : Dword} (h : ¬s.phaserIn id) : s.phaserId id = trapOf 0x52 id := by
  classical rw [phaserId_eq, decide_eq_false h]; rfl

/-- The core's record is that of its node. -/
theorem memberOf_eq {s : State} {nid id : Dword} {n : Node} (hn : s.here.node = some nid) (hnode : s.node? nid = some n) :
    s.memberOf? id = n.members.find? fun m => m.id == id := by
  rw [State.memberOf?, hn, Option.bind_some, hnode, Option.bind_some]

theorem needMember_ok {s : State} {id : Dword} {m : Member} {p : Member → Bool} (h : s.memberOf? id = some m) (hp : p m = true) :
    s.needMember id p = .ok m := by
  simp only [State.needMember, h, hp, if_true]

theorem needMember_missing {s : State} {id : Dword} (p : Member → Bool) (h : s.memberOf? id = none) :
    s.needMember id p = trapOf 0x53 id := by
  simp only [State.needMember, h]

/-- The record that a list is searched for names the phaser. -/
theorem member_id_of_find? {l : List Member} {id : Dword} {m : Member} (h : (l.find? fun x => x.id == id) = some m) : m.id = id := by
  simpa using List.find?_some h

/-- A record replaced under its id is the one that is found. -/
theorem find?_map_replace {l : List Member} {id : Dword} {m m' : Member} (h : (l.find? fun x => x.id == id) = some m)
    (hm' : m'.id = id) : ((l.map fun x => if x.id = m'.id then m' else x).find? fun x => x.id == id) = some m' := by
  induction l with
  | nil => cases h
  | cons x l ih =>
    by_cases hx : x.id = id
    · simp [hx, hm']
    · have h' : (l.find? fun x => x.id == id) = some m := by simpa [List.find?_cons, hx] using h
      simpa [List.find?_cons, hx, hm'] using ih h'

/-- A node with one of its member records replaced. -/
def Node.withMember (n : Node) (m' : Member) : Node := { n with members := n.members.map fun x => if x.id = m'.id then m' else x }

/-- A node without its record for a phaser. -/
def Node.leaves (n : Node) (id : Dword) : Node := { n with members := n.members.filter fun x => x.id != id }

theorem setMember_eq {s : State} {nid : Dword} (hn : s.here.node = some nid) (m : Member) :
    s.setMember m = s.updNode nid fun n => n.withMember m := by
  rw [State.setMember, State.updMembers, hn]; rfl

/-- What the release of an arrival waits for has happened (R270). -/
def State.mayRelease (s : State) (id : Dword) : Prop :=
  s.mem.performed (.stream s.cur) (s.cur / 64) (s.phaser id).scope 0xFF = true
    ∧ ((s.phaser id).scope < 4 ∨ s.peersDone (.stream s.cur) = true)

/-- The release of an arrival. -/
def State.releasedFor (s : State) (id : Dword) : State :=
  { s with mem := s.mem.setPreds (.stream s.cur) (s.cur / 64) (s.phaser id).scope }

theorem release_phaser {s : State} {id : Dword} (h : s.mayRelease id) :
    s.release s.me (dieOf s.cur) (s.phaser id).scope = .ok (s.releasedFor id) := by
  obtain ⟨hperf, hpeers⟩ := h
  refine if_pos ?_
  rw [Bool.and_eq_true, Bool.or_eq_true, decide_eq_true_eq]
  exact ⟨hperf, hpeers⟩

/-! ### Arriving, and waiting for a phase (R277, R281) -/

/-- A phaser with one more arrival. -/
def Phaser.arrival (p : Phaser) : Phaser := { p with arr := p.arr + 1 }.advance

/-- A node's arrival at a phaser. -/
def State.arrivedAt (s : State) (nid id : Dword) (m : Member) : State :=
  ((s.releasedFor id).setPhaser id (s.phaser id).arrival).updNode nid fun n =>
    n.withMember { m with sp := m.sp + 1 }

/-- The state of a node's arrival, of a node that exists. -/
theorem arrivedAt_eq {s : State} {nid : Dword} {n : Node} (hnode : s.node? nid = some n) (id : Dword) (m : Member) :
    s.arrivedAt nid id m =
      ((s.releasedFor id).setPhaser id (s.phaser id).arrival).setNode nid
        (n.withMember { m with sp := m.sp + 1 }) :=
  updNode_of_node? (s := (s.releasedFor id).setPhaser id (s.phaser id).arrival) hnode
    fun n => n.withMember { m with sp := m.sp + 1 }

/-- What an instruction waits on where a phaser is behind. -/
def turnOf (id : Dword) : WaitOn := .phaser (id.toNat / 2 ^ 16 % 32) (id.toNat % 2 ^ 12)

theorem turnOf_eq (id : Dword) : WaitOn.phaser (phaserDie id) (phaserIndex id) = turnOf id := by
  rw [turnOf, phaserIndex_eq]; rfl

theorem arrive_ok {s : State} {nid id : Dword} {m : Member} (hn : s.here.node = some nid) (hsp : m.sp = (s.phaser id).phase)
    (hr : s.mayRelease id) : s.arrive id m = .ok (s.arrivedAt nid id m).noted := by
  have hset : State.setMember _ { m with sp := m.sp + 1 } = s.arrivedAt nid id m :=
    setMember_eq (s := (s.releasedFor id).setPhaser id (s.phaser id).arrival) hn { m with sp := m.sp + 1 }
  have hnoted := congrArg (fun q : State => (Except.ok q.noted : Except Stop State)) hset
  exact (need_then (beq_iff_eq.mpr hsp)).trans ((ok_then (release_phaser hr)).trans hnoted)

theorem arrive_wait {s : State} {id : Dword} {m : Member} (hsp : m.sp ≠ (s.phaser id).phase) : s.arrive id m = waitOn (turnOf id) := by
  rw [← turnOf_eq]
  exact need_wait (beq_eq_false_iff_ne.mpr hsp)

theorem awaitPhase_ok {s : State} {nid id : Dword} {m : Member} (hn : s.here.node = some nid) (hp : (s.phaser id).passed m = true) :
    s.awaitPhase id m = .ok (s.updNode nid fun n => n.withMember { m with wp := m.wp + 1 }) := by
  rw [← setMember_eq hn]
  exact need_then hp

theorem awaitPhase_wait {s : State} {id : Dword} {m : Member} (hp : (s.phaser id).passed m = false) :
    s.awaitPhase id m = waitOn (turnOf id) := by
  rw [← turnOf_eq]
  exact need_wait hp

/-- The record of a node that arrived. -/
theorem memberOf_arrivedAt {s : State} {nid id : Dword} {n : Node} {m : Member} (hn : s.here.node = some nid)
    (hnode : s.node? nid = some n) (hm : s.memberOf? id = some m) :
    (s.arrivedAt nid id m).noted.memberOf? id = some { m with sp := m.sp + 1 } := by
  rw [memberOf_eq hn hnode] at hm
  have hnode' : (s.arrivedAt nid id m).noted.node? nid = some (n.withMember { m with sp := m.sp + 1 }) := by
    rw [arrivedAt_eq hnode]
    exact node?_setNode_self _ nid _
  have hn' : (s.arrivedAt nid id m).noted.here.node = some nid := by
    rw [here_noted, arrivedAt_eq hnode]
    exact hn
  rw [memberOf_eq hn' hnode']
  exact find?_map_replace hm (show m.id = id from member_id_of_find? hm)

/-! ### The bodies of the instructions -/

theorem exec_phsig (a : Reg) (stop : Bool) (s : State) : exec (.phsig ⟨a, stop⟩) s = runStream s fun s =>
    s.phaserId (s.reg a) >>= fun _ => s.needMember (s.reg a) Member.signals >>= fun m =>
      s.arrive (s.reg a) m >>= fun s => .ok (s.done stop) := rfl

theorem exec_phwait (a : Reg) (stop : Bool) (s : State) : exec (.phwait ⟨a, stop⟩) s = runStream s fun s =>
    s.phaserId (s.reg a) >>= fun _ => s.needMember (s.reg a) Member.waits >>= fun m =>
      s.awaitPhase (s.reg a) m >>= fun s => .ok (s.done stop) := rfl

/-- The waiting part of phadv: where it waits, what came before stands. -/
def State.advWait (s : State) (id : Dword) (m : Member) (stop : Bool) : Except Stop State :=
  match s.awaitPhase id m with
  | .ok t => .ok (t.done stop)
  | .error (.wait on sides) => .ok (s.waitHere on sides)
  | .error (.trap t) => .error (.trap t)

/-- What phadv does after its arrival. -/
def State.advFrom (s : State) (id : Dword) (stop : Bool) : Except Stop State :=
  s.needMember id (fun m => m.mode == 3) >>= fun m => s.advWait id m stop

theorem exec_phadv (a : Reg) (stop : Bool) (s : State) : exec (.phadv ⟨a, stop⟩) s = runStream s fun s =>
    s.phaserId (s.reg a) >>= fun _ => s.needMember (s.reg a) (fun m => m.mode == 3) >>= fun m =>
      if m.sp = m.wp then s.arrive (s.reg a) m >>= fun t => t.advFrom (s.reg a) stop
      else Except.ok s >>= fun t => t.advFrom (s.reg a) stop := rfl

/-- A node without its record for a phaser, which became `p`, and the stream behind phdrop. -/
def State.leftPhaser (s : State) (id : Dword) (p : Phaser) (stop : Bool) : State :=
  ((s.updMembers fun l => l.filter fun x => x.id != id).setPhaser id p).done stop

theorem exec_phdrop (a : Reg) (stop : Bool) (s : State) : exec (.phdrop ⟨a, stop⟩) s = runStream s fun s =>
    s.phaserId (s.reg a) >>= fun _ => s.needMember (s.reg a) (fun _ => true) >>= fun m =>
      if m.signals && m.sp == (s.phaser (s.reg a)).phase then
        s.release s.me (dieOf s.cur) (s.phaser (s.reg a)).scope >>= fun t =>
          .ok (t.leftPhaser (s.reg a) ((s.phaser (s.reg a)).drop m) stop)
      else Except.ok s >>= fun t => .ok (t.leftPhaser (s.reg a) ((s.phaser (s.reg a)).drop m) stop) := rfl

/-- The operand of phreg names a mode and a scope, and no other bit of it is set. -/
def registers (v : Nat) : Bool :=
  bitsOf v 3 2 == 0 && v / 2 ^ 7 == 0 && v % 4 != 0 && decide (2 ≤ bitsOf v 6 4 ∧ bitsOf v 6 4 ≤ 4)

theorem exec_phreg (a b : Reg) (stop : Bool) (s : State) : exec (.phreg ⟨a, b, stop⟩) s = runStream s fun s =>
    let v := (s.reg b).toNat
    let p := s.phaser (s.reg a)
    s.phaserId (s.reg a) >>= fun _ =>
      need (registers v && (s.memberOf? (s.reg a)).isNone) (trapOf 0x53 (s.reg a)) >>= fun _ =>
      need (decide (s.memberCount < 32) && p.nmem != 65535) (trapOf 0x54 (s.reg a)) >>= fun _ =>
      need ((p.nmem == 0 || p.scope == bitsOf v 6 4) && (bitsOf v 6 4 != 2 || dieOf s.cur == phaserDie (s.reg a)))
        (trapOf 0x53 (s.reg a)) >>= fun _ =>
      .ok (((s.updMembers fun l => l ++ [p.member (s.reg a) (bitsOf v 6 4) (v % 4)]).setPhaser (s.reg a)
        (p.register (bitsOf v 6 4) (v % 4))).done stop) := rfl

/-! ### Ids out of range, and records that are missing or already there -/

section
variable {s : State} {a : Reg} (hm : s.mayTrap)
include hm

/-- An instruction that begins with the check of an id traps where the id is out of range. -/
theorem traps_of_phaserOut {i : Instr} {f : State → Unit → Except Stop State}
    (hi : exec i s = runStream s fun s => s.phaserId (s.reg a) >>= f s) (h : ¬s.phaserIn (s.reg a)) :
    ∃ t, exec i s = .next t ∧ TrapsHere s t 0x52 (s.reg a) :=
  hi ▸ runStream_trapsHere hm (trap_then (phaserId_trap h)) rfl (by decide)

/-- An instruction that then asks for a record traps where there is none. -/
theorem traps_of_noMember {i : Instr} {p : Member → Bool} {f : State → Member → Except Stop State}
    (hi : exec i s = runStream s fun s => s.phaserId (s.reg a) >>= fun _ => s.needMember (s.reg a) p >>= f s)
    (h : s.phaserIn (s.reg a)) (hr : s.memberOf? (s.reg a) = none) :
    ∃ t, exec i s = .next t ∧ TrapsHere s t 0x53 (s.reg a) :=
  hi ▸ runStream_trapsHere hm ((ok_then (phaserId_ok h)).trans (trap_then (needMember_missing p hr))) rfl (by decide)

end

/-! ### Arrivals, waits and advances -/

section
variable {s : State} {nid : Dword} {n : Node} {a : Reg} {m : Member} {stop : Bool} (hid : s.phaserIn (s.reg a))
  (hn : s.here.node = some nid) (hnode : s.node? nid = some n) (hm : s.memberOf? (s.reg a) = some m)
include hid hm

/-- A body that goes on with the node's record. -/
theorem body_of_member {p : Member → Bool} {f : Member → Except Stop State} (hp : p m = true) :
    (s.phaserId (s.reg a) >>= fun _ => s.needMember (s.reg a) p >>= f) = f m :=
  (ok_then (phaserId_ok hid)).trans (ok_then (needMember_ok hm hp))

theorem phsig_waits (hmode : m.signals = true) (hsp : m.sp ≠ (s.phaser (s.reg a)).phase) :
    ∃ t, exec (.phsig ⟨a, stop⟩) s = .next t ∧ Waits s t (turnOf (s.reg a)) := by
  rw [exec_phsig]
  exact runStream_waits ((body_of_member hid hm hmode).trans (wait_then (arrive_wait hsp)))

theorem phwait_waits (hmode : m.waits = true) (hp : (s.phaser (s.reg a)).passed m = false) :
    ∃ t, exec (.phwait ⟨a, stop⟩) s = .next t ∧ Waits s t (turnOf (s.reg a)) := by
  rw [exec_phwait]
  exact runStream_waits ((body_of_member hid hm hmode).trans (wait_then (awaitPhase_wait hp)))

include hn

theorem phsig_ends (hmode : m.signals = true) (hsp : m.sp = (s.phaser (s.reg a)).phase) (hr : s.mayRelease (s.reg a)) :
    ∃ t, exec (.phsig ⟨a, stop⟩) s = .next t ∧ OnlyAdvances (s.arrivedAt nid (s.reg a) m) t stop := by
  rw [exec_phsig]
  exact ⟨_, runStream_ok ((body_of_member hid hm hmode).trans (ok_then (arrive_ok hn hsp hr))), noted_done_onlyAdvances _ stop⟩

theorem phwait_ends (hmode : m.waits = true) (hp : (s.phaser (s.reg a)).passed m = true) :
    ∃ t, exec (.phwait ⟨a, stop⟩) s = .next t
      ∧ OnlyAdvances (s.updNode nid fun n => n.withMember { m with wp := m.wp + 1 }) t stop := by
  rw [exec_phwait]
  exact ⟨_, runStream_ok ((body_of_member hid hm hmode).trans (ok_then (awaitPhase_ok hn hp))), done_onlyAdvances _ stop⟩

/-- phadv of a record that has arrived already only waits. -/
theorem phadv_ends (hmode : m.mode = 3) (hne : m.sp ≠ m.wp) (hp : (s.phaser (s.reg a)).passed m = true) :
    ∃ t, exec (.phadv ⟨a, stop⟩) s = .next t
      ∧ OnlyAdvances (s.updNode nid fun n => n.withMember { m with wp := m.wp + 1 }) t stop := by
  have hmode' : (m.mode == 3) = true := beq_iff_eq.mpr hmode
  have hwait : s.advWait (s.reg a) m stop = .ok ((s.updNode nid fun n => n.withMember { m with wp := m.wp + 1 }).done stop) := by
    rw [State.advWait, awaitPhase_ok hn hp]
  rw [exec_phadv]
  exact ⟨_, runStream_ok ((body_of_member hid hm hmode').trans
    ((if_neg hne).trans ((ok_then (needMember_ok hm hmode')).trans hwait))), done_onlyAdvances _ stop⟩

include hnode

/-- phadv of a record that has not arrived goes on from its arrival. -/
theorem phadv_arrives (hmode : m.mode = 3) (heq : m.sp = m.wp) (hsp : m.sp = (s.phaser (s.reg a)).phase)
    (hr : s.mayRelease (s.reg a)) {t : State}
    (h : (s.arrivedAt nid (s.reg a) m).noted.advWait (s.reg a) { m with sp := m.sp + 1 } stop = .ok t) :
    exec (.phadv ⟨a, stop⟩) s = .next t := by
  have hmode' : (m.mode == 3) = true := beq_iff_eq.mpr hmode
  rw [exec_phadv]
  exact runStream_ok ((body_of_member hid hm hmode').trans
    ((if_pos heq).trans ((ok_then (arrive_ok hn hsp hr)).trans
      ((ok_then (needMember_ok (memberOf_arrivedAt hn hnode hm) hmode')).trans h))))

theorem phadv_passes (hmode : m.mode = 3) (heq : m.sp = m.wp) (hsp : m.sp = (s.phaser (s.reg a)).phase)
    (hr : s.mayRelease (s.reg a)) (hp : ((s.arrivedAt nid (s.reg a) m).phaser (s.reg a)).passed m = true) :
    ∃ t, exec (.phadv ⟨a, stop⟩) s = .next t ∧ OnlyAdvances ((s.arrivedAt nid (s.reg a) m).updNode nid fun n =>
      n.withMember { m with sp := m.sp + 1, wp := m.wp + 1 }) t stop := by
  have hnode' := node?_setNode_self ((s.releasedFor (s.reg a)).setPhaser (s.reg a) (s.phaser (s.reg a)).arrival) nid
    (n.withMember { m with sp := m.sp + 1 })
  rw [← arrivedAt_eq hnode] at hnode'
  have hn' : (s.arrivedAt nid (s.reg a) m).noted.here.node = some nid := by
    rw [here_noted, arrivedAt_eq hnode]
    exact hn
  have hwait : (s.arrivedAt nid (s.reg a) m).noted.advWait (s.reg a) { m with sp := m.sp + 1 } stop =
      .ok (((s.arrivedAt nid (s.reg a) m).updNode nid fun n =>
        n.withMember { m with sp := m.sp + 1, wp := m.wp + 1 }).noted.done stop) := by
    rw [State.advWait, awaitPhase_ok (m := { m with sp := m.sp + 1 }) hn' hp, updNode_noted hnode']
  exact ⟨_, phadv_arrives hid hn hnode hm hmode heq hsp hr hwait, noted_done_onlyAdvances _ stop⟩

theorem phadv_waits (hmode : m.mode = 3) (heq : m.sp = m.wp) (hsp : m.sp = (s.phaser (s.reg a)).phase)
    (hr : s.mayRelease (s.reg a)) (hp : ((s.arrivedAt nid (s.reg a) m).phaser (s.reg a)).passed m = false) :
    ∃ t, exec (.phadv ⟨a, stop⟩) s = .next t
      ∧ Waits ((s.arrivedAt nid (s.reg a) m).updHere fun c => { c with advanced := s.tb }) t (turnOf (s.reg a)) := by
  have hwait : (s.arrivedAt nid (s.reg a) m).noted.advWait (s.reg a) { m with sp := m.sp + 1 } stop =
      .ok ((s.arrivedAt nid (s.reg a) m).noted.waitHere (turnOf (s.reg a)) []) := by
    rw [State.advWait, awaitPhase_wait (s := (s.arrivedAt nid (s.reg a) m).noted) (m := { m with sp := m.sp + 1 }) hp]
    rfl
  have hnoted : ((s.arrivedAt nid (s.reg a) m).updHere fun c => { c with advanced := s.tb }) =
      (s.arrivedAt nid (s.reg a) m).noted := by
    rw [arrivedAt_eq hnode]
    rfl
  rw [hnoted]
  exact ⟨_, phadv_arrives hid hn hnode hm hmode heq hsp hr hwait, waitHere_waits _ _⟩

omit hnode

/-- phdrop of a record that makes no arrival. -/
theorem phdrop_ends (hmode : m.mode = 2) : ∃ t, exec (.phdrop ⟨a, stop⟩) s = .next t
    ∧ OnlyAdvances ((s.updNode nid fun n => n.leaves (s.reg a)).setPhaser (s.reg a)
        (if (s.phaser (s.reg a)).nmem ≤ 1 then { Phaser.idle with phase := (s.phaser (s.reg a)).phase }
          else { s.phaser (s.reg a) with nmem := (s.phaser (s.reg a)).nmem - 1 }.advance)) t stop := by
  have hsig : m.signals = false := by rw [Member.signals, hmode]; rfl
  have hdrop : (s.phaser (s.reg a)).drop m = if (s.phaser (s.reg a)).nmem ≤ 1 then
      { Phaser.idle with phase := (s.phaser (s.reg a)).phase }
      else { s.phaser (s.reg a) with nmem := (s.phaser (s.reg a)).nmem - 1 }.advance := by
    simp only [Phaser.drop, hsig, Bool.false_eq_true, if_false]
  have hmem : s.updMembers (fun l => l.filter fun x => x.id != s.reg a) = s.updNode nid fun n => n.leaves (s.reg a) := by
    rw [State.updMembers, hn]; rfl
  rw [exec_phdrop, ← hdrop, ← hmem]
  refine ⟨_, runStream_ok ((body_of_member hid hm rfl).trans (if_neg ?_)), done_onlyAdvances _ stop⟩
  rw [hsig, Bool.false_and]
  exact Bool.false_ne_true

/-- phdrop of a record that arrives as it leaves. -/
theorem phdrop_arrives (hmode : m.mode = 3) (hsp : m.sp = (s.phaser (s.reg a)).phase) (hr : s.mayRelease (s.reg a))
    (h2 : 2 ≤ (s.phaser (s.reg a)).nmem) : ∃ t, exec (.phdrop ⟨a, stop⟩) s = .next t
    ∧ OnlyAdvances (((s.releasedFor (s.reg a)).updNode nid fun n => n.leaves (s.reg a)).setPhaser (s.reg a)
        { s.phaser (s.reg a) with nmem := (s.phaser (s.reg a)).nmem - 1, arr := (s.phaser (s.reg a)).arr + 1
                                  dns := (s.phaser (s.reg a)).dns - 1 }.advance) t stop := by
  have hsig : m.signals = true := by rw [Member.signals, hmode]; rfl
  have hdrop : (s.phaser (s.reg a)).drop m =
      { s.phaser (s.reg a) with nmem := (s.phaser (s.reg a)).nmem - 1, arr := (s.phaser (s.reg a)).arr + 1
                                dns := (s.phaser (s.reg a)).dns - 1 }.advance := by
    have hn1 : ¬(s.phaser (s.reg a)).nmem ≤ 1 := by omega
    simp only [Phaser.drop, hsig, hsp, if_true, if_neg hn1]
  have hmem : (s.releasedFor (s.reg a)).updMembers (fun l => l.filter fun x => x.id != s.reg a) =
      (s.releasedFor (s.reg a)).updNode nid fun n => n.leaves (s.reg a) := by
    rw [State.updMembers, show (s.releasedFor (s.reg a)).here.node = some nid from hn]; rfl
  rw [exec_phdrop, ← hdrop, ← hmem]
  refine ⟨_, runStream_ok ((body_of_member hid hm rfl).trans ((if_pos ?_).trans (ok_then (release_phaser hr)))),
    done_onlyAdvances _ stop⟩
  rw [hsig, Bool.true_and, beq_iff_eq]
  exact hsp

end

/-! ### Registrations -/

/-- An operand as R281 asks for it passes phreg's check. -/
theorem registers_of {v : Nat} (h7 : v / 2 ^ 7 = 0) (h4 : v / 4 % 4 = 0) (hmode : v % 4 ≠ 0) (hlo : 2 ≤ v / 16 % 8)
    (hhi : v / 16 % 8 ≤ 4) : registers v = true := by
  have h4' : bitsOf v 3 2 = 0 := h4
  have hscope : 2 ≤ bitsOf v 6 4 ∧ bitsOf v 6 4 ≤ 4 := ⟨hlo, hhi⟩
  simp only [registers, h4', h7, bne_iff_ne.mpr hmode, decide_eq_true hscope, beq_self_eq_true, Bool.and_self]

/-- A registration counts a member, and a signaller from the next phase on. -/
theorem register_eq (p : Phaser) (scope mode : Nat) (h0 : mode ≠ 0) (h4 : mode < 4) : p.register scope mode =
    { p with scope := if p.nmem = 0 then scope else p.scope, nmem := p.nmem + 1
             dns := if mode = 2 then p.dns else p.dns + 1 }.advance := by
  have hsig : (mode == 1 || mode == 3) = true ↔ ¬mode = 2 := by
    rw [Bool.or_eq_true, beq_iff_eq, beq_iff_eq]
    omega
  by_cases hp : p.nmem = 0 <;> by_cases hm : mode = 2 <;> simp [Phaser.register, hsig, hp, hm]

theorem memberCount_eq {s : State} {nid : Dword} {n : Node} (hn : s.here.node = some nid) (hnode : s.node? nid = some n) :
    s.memberCount = n.members.length := by
  rw [State.memberCount, hn, Option.bind_some, hnode]
  rfl

section
variable {s : State} {nid : Dword} {n : Node} {a b : Reg} {stop : Bool}

/-- phreg of a phaser on which the node has a record. -/
theorem phreg_registered (hid : s.phaserIn (s.reg a)) (hm : s.mayTrap) (h : (s.memberOf? (s.reg a)).isSome = true) :
    ∃ t, exec (.phreg ⟨a, b, stop⟩) s = .next t ∧ TrapsHere s t 0x53 (s.reg a) := by
  have hnone : (registers (s.reg b).toNat && (s.memberOf? (s.reg a)).isNone) = false := by
    rw [Option.isNone_eq_false_iff.mpr h, Bool.and_false]
  rw [exec_phreg]
  exact runStream_trapsHere hm ((ok_then (phaserId_ok hid)).trans (need_trap hnone)) rfl (by decide)

variable (hid : s.phaserIn (s.reg a)) (hn : s.here.node = some nid) (hnode : s.node? nid = some n)
  (hm : s.memberOf? (s.reg a) = none) (hv : registers (s.reg b).toNat = true)
include hid hn hnode hm hv

/-- phreg where the node or the phaser is full. -/
theorem phreg_full (htrap : s.mayTrap) (h : 32 ≤ n.members.length ∨ (s.phaser (s.reg a)).nmem = 65535) :
    ∃ t, exec (.phreg ⟨a, b, stop⟩) s = .next t ∧ TrapsHere s t 0x54 (s.reg a) := by
  have hfirst : (registers (s.reg b).toNat && (s.memberOf? (s.reg a)).isNone) = true := by rw [hv, hm]; rfl
  have hroom : (decide (s.memberCount < 32) && (s.phaser (s.reg a)).nmem != 65535) = false := by
    rw [memberCount_eq hn hnode, Bool.and_eq_false_iff, decide_eq_false_iff_not, bne_eq_false_iff_eq, not_lt]
    exact h
  rw [exec_phreg]
  exact runStream_trapsHere htrap ((ok_then (phaserId_ok hid)).trans ((need_then hfirst).trans (need_trap hroom))) rfl (by decide)

/-- phreg with room. -/
theorem phreg_ends (hl : n.members.length < 32) (hp : (s.phaser (s.reg a)).nmem ≠ 65535)
    (hs : (s.phaser (s.reg a)).nmem = 0 ∨ (s.phaser (s.reg a)).scope = bitsOf (s.reg b).toNat 6 4)
    (hd : bitsOf (s.reg b).toNat 6 4 = 2 → dieOf s.cur = phaserDie (s.reg a)) :
    ∃ t, exec (.phreg ⟨a, b, stop⟩) s = .next t ∧ OnlyAdvances ((s.setNode nid { n with
        members := n.members ++ [(s.phaser (s.reg a)).member (s.reg a) (bitsOf (s.reg b).toNat 6 4) ((s.reg b).toNat % 4)] }).setPhaser
      (s.reg a) ((s.phaser (s.reg a)).register (bitsOf (s.reg b).toNat 6 4) ((s.reg b).toNat % 4))) t stop := by
  have hfirst : (registers (s.reg b).toNat && (s.memberOf? (s.reg a)).isNone) = true := by rw [hv, hm]; rfl
  have hroom : (decide (s.memberCount < 32) && (s.phaser (s.reg a)).nmem != 65535) = true := by
    rw [memberCount_eq hn hnode, Bool.and_eq_true, decide_eq_true_iff, bne_iff_ne]
    exact ⟨hl, hp⟩
  have hscope : (((s.phaser (s.reg a)).nmem == 0 || (s.phaser (s.reg a)).scope == bitsOf (s.reg b).toNat 6 4)
      && (bitsOf (s.reg b).toNat 6 4 != 2 || dieOf s.cur == phaserDie (s.reg a))) = true := by
    rw [Bool.and_eq_true, Bool.or_eq_true, Bool.or_eq_true, beq_iff_eq, beq_iff_eq, beq_iff_eq, bne_iff_ne]
    exact ⟨hs, (em _).symm.imp_right hd⟩
  have hmem (f : List Member → List Member) : s.updMembers f = s.setNode nid { n with members := f n.members } := by
    rw [← updNode_of_node? hnode fun n => { n with members := f n.members }, State.updMembers, hn]
  rw [exec_phreg, ← hmem fun l => l ++ _]
  exact ⟨_, runStream_ok ((ok_then (phaserId_ok hid)).trans ((need_then hfirst).trans ((need_then hroom).trans (need_then hscope)))),
    done_onlyAdvances _ stop⟩

end

/-! ### Queries (R282) and the advance (R277) -/

theorem exec_phqry (o : R2) (s : State) : exec (.phqry o) s = runStream s fun s => s.phaserId (s.reg o.a) >>= fun _ =>
    let p := s.phaser (s.reg o.a)
    .ok ((s.setReg o.d (d64 (p.phase.toNat * 2 ^ 32 + p.ns % 2 ^ 16 * 2 ^ 16 + p.arr % 2 ^ 16))).done o.stop) := rfl

theorem phqry_writes (o : R2) (s : State) (h : s.phaserId (s.reg o.a) = .ok ()) : ∃ t, exec (.phqry o) s = .next t
    ∧ Writes s t o.d (BitVec.ofNat 64 ((s.phaser (s.reg o.a)).phase.toNat * 2 ^ 32 + (s.phaser (s.reg o.a)).ns % 2 ^ 16 * 2 ^ 16
      + (s.phaser (s.reg o.a)).arr % 2 ^ 16)) o.stop := by
  rw [exec_phqry]
  exact ⟨_, runStream_ok (ok_then h), setReg_done_writes s o.d _ o.stop⟩

/-- What phqry.m reports. -/
def State.memberWord (s : State) (id : Dword) : Nat :=
  match s.memberOf? id with
  | none => 0
  | some m => m.wp.toNat * 2 ^ 32 + m.mode * 2 ^ 30 + if m.sp = (s.phaser id).phase + 1 then 1 else 0

theorem exec_phqryM (o : R2) (s : State) : exec (.phqryM o) s = runStream s fun s => s.phaserId (s.reg o.a) >>= fun _ =>
    .ok ((s.setReg o.d (d64 (s.memberWord (s.reg o.a)))).done o.stop) := rfl

theorem phqryM_writes (o : R2) (s : State) (h : s.phaserId (s.reg o.a) = .ok ()) : ∃ t, exec (.phqryM o) s = .next t
    ∧ Writes s t o.d (BitVec.ofNat 64 (s.memberWord (s.reg o.a))) o.stop := by
  rw [exec_phqryM]
  exact ⟨_, runStream_ok (ok_then h), setReg_done_writes s o.d _ o.stop⟩

/-- An advance takes its turn where all signallers arrived, and no second one. -/
theorem advance_turns {p : Phaser} (h0 : 0 < p.nmem) (h : (1 ≤ p.ns ∧ p.arr = p.ns) ∨ (p.ns = 0 ∧ 0 < p.dns)) :
    p.advance = { p with phase := p.phase + 1, ns := ((p.ns : Int) + p.dns).toNat, dns := 0, arr := 0 }
      ∧ p.advance.advance = p.advance := by
  have hturn : p.advance = { p with phase := p.phase + 1, ns := ((p.ns : Int) + p.dns).toNat, dns := 0, arr := 0 } := if_pos ⟨h0, h⟩
  refine ⟨hturn, ?_⟩
  rw [hturn]
  refine if_neg ?_
  rintro ⟨-, ⟨hns, harr⟩ | ⟨-, hdns⟩⟩
  · have hzero : 0 = ((p.ns : Int) + p.dns).toNat := harr
    exact absurd (hzero ▸ hns : 1 ≤ 0) (by decide)
  · exact lt_irrefl (0 : Int) hdns

/-! ### The obligation -/

/-- Settles O28: each instruction's body by its checks, in their order, and what it does to the phaser and the node's record. -/
theorem phaserInstructions : Obligations.PhaserInstructions := by
  unfold Obligations.PhaserInstructions
  refine ⟨fun s nid n a b stop => ⟨fun hout => ?_, fun hid hn hnode => ?_⟩, fun o s hid => ⟨phqry_writes o s hid, ?_, ?_⟩,
    fun p => advance_turns⟩
  · exact ⟨fun hm => traps_of_phaserOut hm (exec_phreg a b stop s) hout, fun hm => traps_of_phaserOut hm (exec_phsig a stop s) hout,
      fun hm => traps_of_phaserOut hm (exec_phwait a stop s) hout, fun hm => traps_of_phaserOut hm (exec_phadv a stop s) hout,
      fun hm => traps_of_phaserOut hm (exec_phdrop a stop s) hout⟩
  · rw [← memberOf_eq hn hnode]
    refine ⟨fun hnone h7 h4 hmode hlo hhi => ⟨fun hl hp hs hd => ?_, fun hfull htrap => ?_⟩, fun hsome hm => ?_,
      fun hnone => ?_, fun m hm => ?_⟩
    · have := phreg_ends (stop := stop) hid hn hnode hnone (registers_of h7 h4 hmode hlo hhi) hl hp hs hd
      rw [register_eq _ _ _ hmode (Nat.mod_lt _ (by decide))] at this
      exact this
    · exact phreg_full hid hn hnode hnone (registers_of h7 h4 hmode hlo hhi) htrap hfull
    · exact phreg_registered hid hm hsome
    · exact ⟨fun hm => traps_of_noMember hm (exec_phsig a stop s) hid hnone,
        fun hm => traps_of_noMember hm (exec_phwait a stop s) hid hnone,
        fun hm => traps_of_noMember hm (exec_phadv a stop s) hid hnone,
        fun hm => traps_of_noMember hm (exec_phdrop a stop s) hid hnone⟩
    · have hsig (h : m.mode = 1 ∨ m.mode = 3) : m.signals = true := by
        rwa [Member.signals, Bool.or_eq_true, beq_iff_eq, beq_iff_eq]
      have hwaits (h : m.mode = 2 ∨ m.mode = 3) : m.waits = true := by
        rwa [Member.waits, Bool.or_eq_true, beq_iff_eq, beq_iff_eq]
      exact ⟨fun h hsp hr => phsig_ends hid hn hm (hsig h) hsp hr, fun h hsp => phsig_waits hid hm (hsig h) hsp,
        fun h hp => phwait_ends hid hn hm (hwaits h) (decide_eq_true hp),
        fun h hp => phwait_waits hid hm (hwaits h) (decide_eq_false hp),
        fun h hne hp => phadv_ends hid hn hm h hne (decide_eq_true hp),
        fun h heq hsp hr => ⟨fun hp => phadv_passes hid hn hnode hm h heq hsp hr (decide_eq_true hp),
          fun hp => phadv_waits hid hn hnode hm h heq hsp hr (decide_eq_false hp)⟩,
        fun h => phdrop_ends hid hn hm h, fun h hsp hr h2 => phdrop_arrives hid hn hm h hsp hr h2⟩
  · intro hnone
    have := phqryM_writes o s hid
    rwa [State.memberWord, hnone] at this
  · intro m hm
    have := phqryM_writes o s hid
    rwa [State.memberWord, hm] at this

end Sys2Proof.Machine
end


section
/-! PROOFS. The cores of a node changed one after another, and how cores form and leave groups (R174, R320). -/

namespace Sys2Proof.Machine
open Sys2Proof

/-! ### The cores of a list -/

/-- Each core of a list changed. -/
def State.updEach (s : State) (cs : List Nat) (f : Nat → Core → Core) : State := cs.foldl (fun s c => s.updCore c (f c)) s

/-- Only the cores change. -/
theorem updEach_frame (cs : List Nat) (f : Nat → Core → Core) (s : State) :
    s.updEach cs f = { s with cores := (s.updEach cs f).cores } := by
  induction cs generalizing s with
  | nil => rfl
  | cons c cs ih => exact ih (s.updCore c (f c))

/-- A core outside the list stays. -/
theorem core_updEach_of_notMem {cs : List Nat} {k : Nat} (h : k ∉ cs) (f : Nat → Core → Core) (s : State) :
    (s.updEach cs f).core k = s.core k := by
  induction cs generalizing s with
  | nil => rfl
  | cons c cs ih =>
    obtain ⟨hk, hcs⟩ := not_or.mp (mt List.mem_cons.mpr h)
    exact (ih hcs _).trans (State.core_updCore_ne s c k (f c) hk)

/-- A core that the list names once changes once. -/
theorem core_updEach_of_mem {cs : List Nat} {k : Nat} (hn : cs.Nodup) (h : k ∈ cs) (f : Nat → Core → Core) (s : State) :
    (s.updEach cs f).core k = f k (s.core k) := by
  induction cs generalizing s with
  | nil => cases h
  | cons c cs ih =>
    obtain ⟨hc, hcs⟩ := List.nodup_cons.mp hn
    rcases List.mem_cons.mp h with rfl | hmem
    · exact (core_updEach_of_notMem hc f _).trans (State.core_updCore_self s k (f k))
    · rw [← State.core_updCore_ne s c k (f c) (by rintro rfl; exact hc hmem)]
      exact ih hcs hmem _

/-- The core of any number, after each core of a list has changed. -/
theorem core_updEach {cs : List Nat} (hn : cs.Nodup) (f : Nat → Core → Core) (s : State) (k : Nat) :
    (s.updEach cs f).core k = if k ∈ cs then f k (s.core k) else s.core k := by
  split
  · next h => exact core_updEach_of_mem hn h f s
  · next h => exact core_updEach_of_notMem h f s

/-- A change that each core of a list keeps as a property is kept, however often the list names a core. -/
theorem core_updEach_keeps {β : Type} {f : Nat → Core → Core} {g : Core → β} (hg : ∀ k c, g (f k c) = g c) (cs : List Nat) (s : State)
    (k : Nat) : g ((s.updEach cs f).core k) = g (s.core k) := by
  induction cs generalizing s with
  | nil => rfl
  | cons c cs ih =>
    refine (ih (s.updCore c (f c))).trans ?_
    by_cases hk : k = c
    · rw [hk, State.core_updCore_self, hg]
    · rw [State.core_updCore_ne s c k (f c) hk]

/-- A fold whose changes look at parts of the state that they leave alone is one such change. -/
theorem foldl_updCore_eq {F : State → Nat → Core → Core} (hF : ∀ (s : State) cores, F { s with cores := cores } = F s)
    (cs : List Nat) (s : State) : cs.foldl (fun s c => s.updCore c (F s c)) s = s.updEach cs (F s) := by
  have key (u : State) (hu : F u = F s) : cs.foldl (fun s c => s.updCore c (F s c)) u = u.updEach cs (F s) := by
    induction cs generalizing u with
    | nil => rfl
    | cons c cs ih =>
      refine (ih (u.updCore c (F u c)) ((hF u _).trans hu)).trans ?_
      rw [hu]
      rfl
  exact key s rfl

/-! ### Members of a group (R320) -/

theorem bitsOf_low (v n : Nat) : bitsOf v n 0 = v % 2 ^ (n + 1) := by simp [bitsOf]

/-- The place of a core in a list that names it. -/
theorem getElem?_placeOf {cs : List Nat} {k : Nat} (h : k ∈ cs) : cs[placeOf cs k]? = some k := by
  obtain ⟨i, hi, hk⟩ := List.getElem_of_mem h
  have hsome : ((List.range cs.length).find? fun i => cs[i]? == some k).isSome := by
    rw [List.find?_isSome]
    exact ⟨i, List.mem_range.mpr hi, by rw [List.getElem?_eq_getElem hi, hk, beq_self_eq_true]⟩
  obtain ⟨j, hj⟩ := Option.isSome_iff_exists.mp hsome
  have hcore := List.find?_some hj
  rw [placeOf, hj]
  exact beq_iff_eq.mp hcore

/-- A core has one place in a list that does not name it twice. -/
theorem placeOf_eq {cs : List Nat} {k i : Nat} (hn : cs.Nodup) (h : cs[i]? = some k) : placeOf cs k = i := by
  have hi : i < cs.length := (List.getElem?_eq_some_iff.mp h).1
  have hplace := getElem?_placeOf (List.mem_of_getElem? h)
  exact ((List.getElem?_inj hi hn).mp (h.trans hplace.symm)).symm

theorem membersOf_nodup {cs : List Nat} (hn : cs.Nodup) (mask : Nat) : (membersOf cs mask).Nodup := by
  refine List.Nodup.filterMap (fun i j k hi hj => ?_) (List.nodup_range.filter _)
  have hi' : cs[i]? = some k := hi
  exact (placeOf_eq hn hi').symm.trans (placeOf_eq hn hj)

/-! ### grpjoin (R320) -/

/-- What an operand of grpjoin and the cores of the node must not be. -/
def State.joinBad (s : State) (a b : Dword) : Prop :=
  2 ^ 16 ≤ a.toNat ∨ 16 ≤ b.toNat ∨ s.here.csr.grpid.getLsbD 16 = true
    ∨ (∀ i, s.myCores[i]? = some s.cur → (b.toNat % 16).testBit i = false) ∨ 2 ^ s.myCores.length ≤ b.toNat % 16
    ∨ (∃ c ∈ s.myCores, (s.core c).csr.grpid = BitVec.ofNat 64 (2 ^ 16 + a.toNat % 2 ^ 16))
    ∨ ∃ c ∈ s.myCores, ∃ m, (s.core c).joining = some (a.toNat % 2 ^ 16, m) ∧ m ≠ b.toNat % 16

/-- The bit of a mask for a core's place. -/
theorem testBit_placeOf_iff {cs : List Nat} {k : Nat} (hn : cs.Nodup) (h : k ∈ cs) (mask : Nat) :
    mask.testBit (placeOf cs k) = false ↔ ∀ i, cs[i]? = some k → mask.testBit i = false := by
  refine ⟨fun hbit i hi => ?_, fun hall => hall _ (getElem?_placeOf h)⟩
  rw [← placeOf_eq hn hi]
  exact hbit

/-- A core joins the same id with the same mask, or another id, or nothing. -/
theorem joining_all_eq_false_iff (j : Option (Nat × Nat)) (id mask : Nat) :
    (j.all fun j => j.1 != id || j.2 == mask) = false ↔ ∃ m, j = some (id, m) ∧ m ≠ mask := by
  cases j with
  | none => simp
  | some j =>
    obtain ⟨i, m⟩ := j
    rw [Option.all_some, Bool.or_eq_false_iff, bne_eq_false_iff_eq, beq_eq_false_iff_ne]
    constructor
    · rintro ⟨rfl, hm⟩
      exact ⟨m, rfl, hm⟩
    · rintro ⟨_, hj, hm⟩
      cases hj
      exact ⟨rfl, hm⟩

/-- The checks of grpjoin fail where one of these stands. -/
theorem joinOk_eq_false_iff {s : State} (hn : s.myCores.Nodup) (hcur : s.cur ∈ s.myCores) (a b : Dword) :
    s.joinBad a b ↔ s.joinOk a b = false := by
  have hplace : ((List.range s.myCores.length).find? fun i => s.myCores[i]? == some s.cur).getD 0 = placeOf s.myCores s.cur := rfl
  unfold State.joinBad State.joinOk
  simp only [hplace, bitsOf_low, Nat.reduceAdd, bitOf, or_assoc, Bool.and_eq_false_iff, decide_eq_false_iff_not, Bool.not_eq_eq_eq_not, Bool.not_false,
    not_and_or, not_lt, testBit_placeOf_iff hn hcur, List.all_eq_false, Bool.and_eq_true, not_and_or, bne_iff_ne, not_not,
    Bool.not_eq_true, joining_all_eq_false_iff, and_or_left, exists_or, d64]
  norm_num

/-- The core that executes has named the group that it joins. -/
def State.joins (s : State) (id mask : Nat) : State := s.updHere fun c => { c with joining := some (id, mask) }

theorem core_joins_ne {s : State} {id mask k : Nat} (h : k ≠ s.cur) : (s.joins id mask).core k = s.core k :=
  State.core_updCore_ne s s.cur k _ h

theorem here_joins (s : State) (id mask : Nat) : (s.joins id mask).here = { s.here with joining := some (id, mask) } :=
  State.here_updHere s _

/-- A change of the core that executes leaves which cores its node has, where it leaves the node. -/
theorem myCores_joins (s : State) (id mask : Nat) : (s.joins id mask).myCores = s.myCores := by
  have hnode : (s.joins id mask).here.node = s.here.node := by rw [here_joins]
  unfold State.myCores State.myNode
  rw [hnode]
  rfl

/-- Every member has named the group once the others have. -/
theorem all_joining_iff {s : State} {id mask : Nat} {ms : List Nat} :
    (ms.all fun c => ((s.joins id mask).core c).joining == some (id, mask)) = true
      ↔ ∀ c ∈ ms, c ≠ s.cur → (s.core c).joining = some (id, mask) := by
  rw [List.all_eq_true]
  refine forall₂_congr fun c _ => ?_
  rw [beq_iff_eq]
  by_cases hc : c = s.cur
  · have hhere : (s.joins id mask).core s.cur = { s.here with joining := some (id, mask) } := here_joins s id mask
    simp [hc, hhere]
  · rw [core_joins_ne hc]
    exact ⟨fun h _ => h, fun h => h hc⟩

/-- A member of a group that forms: the core that executes retires its own grpjoin, another core's retires with it. -/
def Core.grouped (id now cur k : Nat) (c : Core) : Core :=
  if k = cur then c.joined id now else { c.joined id now with c := { (c.joined id now).c.advance 1 true with wait := none } }

theorem grouped_sp (id now cur k : Nat) (c : Core) : (c.grouped id now cur k).sp = c.sp := by
  unfold Core.grouped
  split <;> rfl

theorem grouped_member (id now cur k : Nat) (c : Core) : (c.grouped id now cur k).csr.grpid = BitVec.ofNat 64 (2 ^ 16 + id)
    ∧ (c.grouped id now cur k).csr.xlfrz = 0 ∧ (c.grouped id now cur k).joining = none := by
  unfold Core.grouped
  split <;> exact ⟨rfl, rfl, rfl⟩

theorem exec_grpjoin (o : RAB) (s : State) : exec (.grpjoin o) s = runStream s fun s =>
    need (s.joinOk (s.reg o.a) (s.reg o.b)) (trapOf 0x55 (s.reg o.a)) >>= fun _ =>
      need s.here.enginesEmpty (waitOn .group) >>= fun _ =>
        let id := bitsOf (s.reg o.a).toNat 15 0
        let mask := bitsOf (s.reg o.b).toNat 3 0
        let u := s.joins id mask
        let ms := membersOf u.myCores mask
        if ms.all fun c => (u.core c).joining == some (id, mask) then
          .ok ((ms.foldl (fun s c => s.updCore c (Core.grouped id s.tb s.cur c)) u).done o.stop)
        else .ok (u.waitHere .group []) := rfl

/-- The group has formed: every member is in it. -/
def State.formed (s : State) (id : Nat) (ms : List Nat) : State := s.updEach ms (Core.grouped id s.tb s.cur)

/-- The streams of the core that executes are those that it had. -/
theorem core_formed_cur {s : State} {id : Nat} {ms : List Nat} (hn : ms.Nodup) :
    ((s.formed id ms).core s.cur).c = s.here.c ∧ ((s.formed id ms).core s.cur).x = s.here.x := by
  unfold State.formed
  rw [core_updEach hn]
  split
  · rw [Core.grouped, if_pos rfl]
    exact ⟨rfl, rfl⟩
  · exact ⟨rfl, rfl⟩

/-- The memories that a group's forming leaves as they were. -/
theorem memorySame_formed (s : State) (id : Nat) (ms : List Nat) : MemorySame s (s.formed id ms) := by
  have hframe : s.formed id ms = { s with cores := (s.formed id ms).cores } := updEach_frame ms (Core.grouped id s.tb s.cur) s
  have hmem : (s.formed id ms).mem = s.mem := by rw [hframe]
  have hhost : (s.formed id ms).host = s.host := by rw [hframe]
  have hsp (k : Nat) : ((s.formed id ms).core k).sp = (s.core k).sp :=
    core_updEach_keeps (g := Core.sp) (grouped_sp id s.tb s.cur) ms s k
  exact ⟨fun _ _ _ => by rw [hmem], fun k _ => by rw [hsp k], fun _ => by rw [hhost]⟩


theorem bitsOf_mask (v : Nat) : bitsOf v 3 0 = v % 16 := bitsOf_low v 3

theorem bitsOf_half (v : Nat) : bitsOf v 15 0 = v % 2 ^ 16 := bitsOf_low v 15

/-- The grpjoin of the last member forms the group. -/
theorem grpjoin_forms {o : RAB} {s : State} (hok : s.joinOk (s.reg o.a) (s.reg o.b) = true) (he : s.here.enginesEmpty = true)
    {id mask : Nat} (hid : (s.reg o.a).toNat % 2 ^ 16 = id) (hmask : (s.reg o.b).toNat % 16 = mask)
    (hall : ∀ c ∈ membersOf s.myCores mask, c ≠ s.cur → (s.core c).joining = some (id, mask)) :
    exec (.grpjoin o) s = .next (((s.joins id mask).formed id (membersOf s.myCores mask)).done o.stop) := by
  have hfold := foldl_updCore_eq (F := fun s c => Core.grouped id s.tb s.cur c) (fun _ _ => rfl) (membersOf s.myCores mask)
    (s.joins id mask)
  rw [exec_grpjoin, runStream, need_then hok, need_then he, bitsOf_half, bitsOf_mask, hid, hmask]
  simp only [myCores_joins]
  rw [if_pos (all_joining_iff.mpr hall), hfold]
  rfl

/-- The grpjoin of another member waits. -/
theorem grpjoin_waits {o : RAB} {s : State} (hok : s.joinOk (s.reg o.a) (s.reg o.b) = true) (he : s.here.enginesEmpty = true)
    {id mask : Nat} (hid : (s.reg o.a).toNat % 2 ^ 16 = id) (hmask : (s.reg o.b).toNat % 16 = mask)
    (hsome : ∃ c ∈ membersOf s.myCores mask, c ≠ s.cur ∧ (s.core c).joining ≠ some (id, mask)) :
    exec (.grpjoin o) s = .next ((s.joins id mask).waitHere .group []) := by
  obtain ⟨c, hc, hne, hj⟩ := hsome
  rw [exec_grpjoin, runStream, need_then hok, need_then he, bitsOf_half, bitsOf_mask, hid, hmask]
  simp only [myCores_joins]
  rw [if_neg fun hall => hj (all_joining_iff.mp hall c hc hne)]
  rfl

/-- A retirement changes nothing of a core's CSRs and of its joining. -/
theorem core_done_csr_joining (s : State) (stop : Bool) (c : Nat) :
    ((s.done stop).core c).csr = (s.core c).csr ∧ ((s.done stop).core c).joining = (s.core c).joining := by
  by_cases hc : c = s.cur
  · have hhere : (s.done stop).core s.cur = _ := State.here_done s stop
    rw [hc, hhere]
    exact ⟨Core.setStream_csr _ _ _, Core.setStream_joining _ _ _⟩
  · rw [State.core_done_ne s stop c hc]
    exact ⟨rfl, rfl⟩

/-- The group that the core that executes completes. -/
theorem formed_done {s : State} {id mask : Nat} {ms : List Nat} (hx : s.curX = false) (hn : ms.Nodup) (stop : Bool) :
    let t := ((s.joins id mask).formed id ms).done stop
    GoesOn s t 1 stop ∧ RegsSame s t ∧ MemorySame s t
      ∧ (∀ c ∈ ms, (t.core c).csr.grpid = BitVec.ofNat 64 (2 ^ 16 + id) ∧ (t.core c).csr.xlfrz = 0 ∧ (t.core c).joining = none
          ∧ (c ≠ s.cur → (t.core c).c.wait = none ∧ (t.core c).c.regs = (s.core c).c.regs))
      ∧ ∀ c, c ∉ ms → c ≠ s.cur → t.core c = s.core c := by
  intro t
  let u := s.joins id mask
  let v := u.formed id ms
  have hframe : v = { u with cores := v.cores } := updEach_frame ms (Core.grouped id u.tb u.cur) u
  have hcur : v.cur = s.cur := by rw [hframe]; rfl
  have hcurX : v.curX = false := by rw [hframe]; exact hx
  have hcore (k : Nat) : v.core k = if k ∈ ms then (u.core k).grouped id s.tb s.cur k else u.core k :=
    core_updEach hn (Core.grouped id s.tb s.cur) u k
  have hu : u.here = { s.here with joining := some (id, mask) } := here_joins s id mask
  have hself : v.self = s.self := by
    have hc : (v.core v.cur).c = s.here.c := by
      rw [hcur]
      exact (core_formed_cur (s := u) hn).1.trans (by rw [hu])
    rw [State.self, State.self, hcurX, hx]
    exact hc
  have hmem : MemorySame s v :=
    MemorySame.trans (memorySame_updHere s _ rfl) (memorySame_formed u id ms)
  obtain ⟨hregs, -, -, hsame, hon⟩ := done_onlyAdvances v stop
  refine ⟨?_, ?_, hmem.trans hsame, fun c hc => ?_, fun c hc hne => ?_⟩
  · rw [GoesOn, ← hself]
    exact hon
  · rw [RegsSame, ← hself]
    exact hregs
  · obtain ⟨hcsr, hjoin⟩ := core_done_csr_joining v stop c
    obtain ⟨hgrp, hfrz, hnone⟩ := grouped_member id s.tb s.cur c (u.core c)
    have hv : v.core c = (u.core c).grouped id s.tb s.cur c := (hcore c).trans (if_pos hc)
    rw [← hv] at hgrp hfrz hnone
    refine ⟨(congrArg CoreCsr.grpid hcsr).trans hgrp, (congrArg CoreCsr.xlfrz hcsr).trans hfrz, hjoin.trans hnone, fun hne => ?_⟩
    have ht : t.core c = (s.core c).grouped id s.tb s.cur c := by
      rw [State.core_done_ne v stop c (hcur ▸ hne), hv, core_joins_ne hne]
    rw [ht, Core.grouped, if_neg hne]
    exact ⟨rfl, Stream.advance_regs _ _ _⟩
  · rw [State.core_done_ne v stop c (hcur ▸ hne), hcore, if_neg hc, core_joins_ne hne]

/-! ### grpleave (R320) -/

theorem exec_grpleave (o : R0) (s : State) : exec (.grpleave o) s = runStream s fun s =>
    need (s.here.csr.grpid.getLsbD 16 && s.here.quad.role == 0 && !s.here.quad.pending) (trapOf 0x55 0) >>= fun _ =>
      need s.here.enginesEmpty (waitOn .groupLeave) >>= fun _ => .ok ((s.updHere Core.leaveGroup).done o.stop) := rfl

/-- The check of grpleave: the core is in a group that is not fused. -/
theorem grpleave_ok_iff (s : State) : (s.here.csr.grpid.getLsbD 16 && s.here.quad.role == 0 && !s.here.quad.pending) = true
    ↔ s.here.csr.grpid.getLsbD 16 = true ∧ s.here.quad.role = 0 ∧ s.here.quad.pending = false := by
  simp [and_assoc]

/-- Settles O30: the checks of grpjoin one by one, the fold over the members of the group that forms, and grpleave. -/
theorem coreGroups : Obligations.CoreGroups := by
  unfold Obligations.CoreGroups
  refine ⟨fun o s => ?_, fun o s => ?_⟩
  · refine ⟨fun hcur hn => joinOk_eq_false_iff hn hcur _ _, fun hcur hn hbad hm => ?_, fun hok he => ?_, fun hok he hx hall hn => ?_,
      fun hok he hsome => ?_⟩
    · have hfail := (joinOk_eq_false_iff hn hcur (s.reg o.a) (s.reg o.b)).mp hbad
      rw [exec_grpjoin]
      exact runStream_trapsHere hm (need_trap hfail) rfl (by decide)
    · rw [exec_grpjoin]
      exact runStream_waits ((need_then hok).trans (need_wait he))
    · exact ⟨_, grpjoin_forms hok he rfl rfl hall, formed_done hx (membersOf_nodup hn _) o.stop⟩
    · exact ⟨_, grpjoin_waits hok he rfl rfl hsome, waitHere_waits _ _⟩
  · rw [exec_grpleave, ← grpleave_ok_iff]
    refine ⟨fun hg he => ?_, fun hg he => ?_, fun hg hm => ?_⟩
    · exact ⟨_, runStream_ok ((need_then hg).trans (need_then he)), updHere_done_spec s Core.leaveGroup o.stop rfl⟩
    · exact runStream_waits ((need_then hg).trans (need_wait he))
    · exact runStream_trapsHere hm (need_trap (Bool.eq_false_iff.mpr hg)) rfl (by decide)

end Sys2Proof.Machine
end


section
/-! PROOFS. Event rings (R310, R437): how a record is written, held back, retried and signalled. -/

namespace Sys2Proof.Machine
open Sys2Proof

/-! ### Rings and vectors -/

/-- A ring reads as it was replaced. -/
@[simp] theorem State.ring_setRing (s : State) (vf r : Nat) (g : Ring) : (s.setRing vf r g).ring vf r = g := by
  unfold State.ring State.setRing
  split
  · rfl
  · rw [State.vf_updVf_self]
    exact SMap.get_set_self _ _ _ _

/-- Replacing a ring leaves the vectors of its function. -/
@[simp] theorem State.vectors_setRing (s : State) (vf r : Nat) (g : Ring) : (s.setRing vf r g).vectors vf = s.vectors vf := by
  unfold State.vectors State.setRing
  split
  · rfl
  · rw [State.vf_updVf_self]

/-- The vectors of a function read as they were replaced. -/
@[simp] theorem State.vectors_setVectors (s : State) (vf : Nat) (v : Vectors) : (s.setVectors vf v).vectors vf = v := by
  unfold State.vectors State.setVectors
  split
  · rfl
  · rw [State.vf_updVf_self]

/-- Replacing a function's vectors leaves its rings. -/
@[simp] theorem State.ring_setVectors (s : State) (vf r : Nat) (v : Vectors) : (s.setVectors vf v).ring vf r = s.ring vf r := by
  unfold State.ring State.setVectors
  split
  · rfl
  · rw [State.vf_updVf_self]

/-- What an interrupt message of a function does. -/
def Tells (b t : State) (vf r : Nat) : Prop :=
  ((b.vectors vf).masked r = false → t.pf.msix = (vf, r) :: b.pf.msix)
    ∧ ((b.vectors vf).masked r = true → t.pf.msix = b.pf.msix
        ∧ (t.vectors vf).pend = (b.vectors vf).pend ||| BitVec.ofNat 64 (2 ^ r))

/-- What a state keeps of another where only the VFs and the PF's registers change. -/
def SameStores (b t : State) : Prop := t.mem = b.mem ∧ t.host = b.host ∧ t.cores = b.cores

theorem SameStores.trans {a b c : State} (h : SameStores a b) (k : SameStores b c) : SameStores a c := by
  obtain ⟨hmem, hhost, hcores⟩ := h
  obtain ⟨kmem, khost, kcores⟩ := k
  exact ⟨kmem.trans hmem, khost.trans hhost, kcores.trans hcores⟩

theorem sameStores_setRing (s : State) (vf r : Nat) (g : Ring) : SameStores s (s.setRing vf r g) := by
  unfold State.setRing
  split <;> exact ⟨rfl, rfl, rfl⟩

theorem sameStores_setVectors (s : State) (vf : Nat) (v : Vectors) : SameStores s (s.setVectors vf v) := by
  unfold State.setVectors
  split <;> exact ⟨rfl, rfl, rfl⟩

theorem msix_setRing (s : State) (vf r : Nat) (g : Ring) : (s.setRing vf r g).pf.msix = s.pf.msix := by
  unfold State.setRing
  split <;> rfl

theorem msix_setVectors (s : State) (vf : Nat) (v : Vectors) : (s.setVectors vf v).pf.msix = s.pf.msix := by
  unfold State.setVectors
  split <;> rfl

/-- A message goes out, or is held back where its vector is masked. -/
theorem message_tells (s : State) (vf r : Nat) : Tells s (s.message vf r) vf r := by
  unfold State.message
  refine ⟨fun hm => ?_, fun hm => ?_⟩
  · rw [if_neg (by rw [hm]; decide)]
  · rw [if_pos hm]
    exact ⟨msix_setVectors s vf _, congrArg Vectors.pend (State.vectors_setVectors s vf _)⟩

theorem message_ring (s : State) (vf r : Nat) : (s.message vf r).ring vf r = s.ring vf r := by
  unfold State.message
  dsimp only
  split
  · exact State.ring_setVectors s vf r _
  · rfl

theorem sameStores_message (s : State) (vf r : Nat) : SameStores s (s.message vf r) := by
  unfold State.message
  dsimp only
  split
  · exact sameStores_setVectors s vf _
  · exact ⟨rfl, rfl, rfl⟩

/-- A ring's interrupt: its count of unsignalled records is 0, and its message is sent or held back. -/
theorem interrupt_spec (s : State) (vf r : Nat) : (s.interrupt vf r).ring vf r = { s.ring vf r with unsignalled := 0 }
    ∧ Tells s (s.interrupt vf r) vf r ∧ SameStores s (s.interrupt vf r) := by
  have hset := sameStores_setRing s vf r { s.ring vf r with unsignalled := 0 }
  have htells := message_tells (s.setRing vf r { s.ring vf r with unsignalled := 0 }) vf r
  unfold Tells at htells
  rw [State.vectors_setRing, msix_setRing] at htells
  exact ⟨(message_ring _ vf r).trans (State.ring_setRing s vf r _), htells, hset.trans (sameStores_message _ vf r)⟩

/-- A record on the PF's ring leaves the rings of the VFs. -/
theorem ring_postPf {vf : Nat} (hvf : vf ≠ 0) (s : State) (node : Dword) (status cause index last8 r : Nat) :
    (s.postPf node status cause index last8).ring vf r = s.ring vf r := by
  rw [State.ring, State.ring, if_neg hvf, if_neg hvf]
  rfl

/-- The end of a VF's queue resets changes queues alone. -/
theorem endResets_spec (s : State) (vf r : Nat) : (s.endResets vf).ring vf r = s.ring vf r ∧ (s.endResets vf).vectors vf = s.vectors vf
    ∧ (s.endResets vf).pf = s.pf ∧ SameStores s (s.endResets vf) := by
  unfold State.endResets State.ring State.vectors
  refine ⟨?_, ?_, rfl, rfl, rfl, rfl⟩
  · split
    · rfl
    · rw [State.vf_updVf_self]
  · split
    · rfl
    · rw [State.vf_updVf_self]

/-! ### Records written (R310) -/

/-- Whether a ring takes a record now. -/
theorem room_iff (g : Ring) : g.room = true ↔
    g.cfg.getLsbD 8 = true ∧ (g.tail.toNat + 1) % 2 ^ (g.cfg.toNat % 32) ≠ g.head.toNat % 2 ^ (g.cfg.toNat % 32) := by
  simp [Ring.room, ringOn, ringSlots, bitsOf]

/-- A ring after one more record of it was written at its tail. -/
def Ring.wrote (g : Ring) (rest : List (List Byte)) (tb : Nat) : Ring :=
  { g with
    held := rest, tail := BitVec.ofNat 16 ((g.tail.toNat + 1) % ringSlots g.cfg), unsignalled := g.unsignalled + 1
    oldest := if g.unsignalled = 0 then tb else g.oldest, faulted := false }

/-- Nothing is written where nothing is held or no room is. -/
theorem writeRecord_stays {s : State} {vf r : Nat} (h : (s.ring vf r).held = [] ∨ (s.ring vf r).room = false) : s.writeRecord vf r = s := by
  unfold State.writeRecord
  dsimp only
  split
  · rfl
  · next first rest hheld =>
    have hroom := h.resolve_left (by rw [hheld]; exact List.cons_ne_nil _ _)
    rw [hroom]
    rfl

section
variable {s b : State} {vf r : Nat} {first : List Byte} {rest : List (List Byte)}

/-- The write of a record that succeeds. -/
theorem writeRecord_ok (hheld : (s.ring vf r).held = first :: rest) (hroom : (s.ring vf r).room = true)
    (hstore : s.storeRecord vf ((s.ring vf r).base.toNat + 32 * (s.ring vf r).tail.toNat) (putBytes first 0 (leBytes 8 s.tb)) = .ok b) :
    s.writeRecord vf r =
      (if (s.ring vf r).coaln ≤ (s.ring vf r).unsignalled + 1 then (b.setRing vf r ((s.ring vf r).wrote rest b.tb)).interrupt vf r
       else b.setRing vf r ((s.ring vf r).wrote rest b.tb)).endResets vf := by
  unfold State.writeRecord
  dsimp only
  rw [hheld]
  simp only [hroom, hstore]
  rfl

/-- The write of a record that faults, the first time. -/
theorem writeRecord_fault {x : Trap} (hheld : (s.ring vf r).held = first :: rest) (hroom : (s.ring vf r).room = true)
    (hfirst : (s.ring vf r).faulted = false)
    (hstore : s.storeRecord vf ((s.ring vf r).base.toNat + 32 * (s.ring vf r).tail.toNat) (putBytes first 0 (leBytes 8 s.tb)) =
      .error (.trap x)) :
    s.writeRecord vf r =
      ((s.applySides x.sides).setRing vf r { s.ring vf r with faulted := true }).postPf 0 0x97 0 (r + 256 * vf) 0 := by
  unfold State.writeRecord
  dsimp only
  rw [hheld]
  simp only [hroom, hstore, hfirst]
  rfl

/-- What the write of a record leaves: the record is gone from those held, the tail goes on, and a message is due where COALN records
wait. -/
theorem writeRecord_spec (hheld : (s.ring vf r).held = first :: rest) (hroom : (s.ring vf r).room = true)
    (hstore : s.storeRecord vf ((s.ring vf r).base.toNat + 32 * (s.ring vf r).tail.toNat) (putBytes first 0 (leBytes 8 s.tb)) = .ok b) :
    let g := s.ring vf r
    let t := s.writeRecord vf r
    (t.ring vf r).held = rest ∧ (t.ring vf r).tail = BitVec.ofNat 16 ((g.tail.toNat + 1) % ringSlots g.cfg)
      ∧ (t.ring vf r).faulted = false ∧ SameStores b t
      ∧ (g.coaln ≤ g.unsignalled + 1 → (t.ring vf r).unsignalled = 0 ∧ Tells b t vf r)
      ∧ (g.unsignalled + 1 < g.coaln → t.pf.msix = b.pf.msix ∧ (t.ring vf r).unsignalled = g.unsignalled + 1) := by
  intro g t
  let u := b.setRing vf r (g.wrote rest b.tb)
  have hu : u.ring vf r = g.wrote rest b.tb := State.ring_setRing b vf r _
  have hstores : SameStores b u := sameStores_setRing b vf r _
  have ht : t = (if g.coaln ≤ g.unsignalled + 1 then u.interrupt vf r else u).endResets vf := writeRecord_ok hheld hroom hstore
  by_cases hdue : g.coaln ≤ g.unsignalled + 1
  · obtain ⟨hring, htells, hsame⟩ := interrupt_spec u vf r
    obtain ⟨hring', hvec, hpf, hsame'⟩ := endResets_spec (u.interrupt vf r) vf r
    rw [ht, if_pos hdue, hring', hring, hu]
    refine ⟨rfl, rfl, rfl, (hstores.trans hsame).trans hsame', fun _ => ⟨rfl, ?_⟩, fun h => absurd hdue (not_le.mpr h)⟩
    unfold Tells at htells ⊢
    rw [hpf, hvec]
    rwa [State.vectors_setRing, msix_setRing] at htells
  · obtain ⟨hring', -, hpf, hsame'⟩ := endResets_spec u vf r
    rw [ht, if_neg hdue, hring', hu, hpf]
    exact ⟨rfl, rfl, rfl, hstores.trans hsame', fun h => absurd h hdue, fun _ => ⟨msix_setRing b vf r _, rfl⟩⟩

end

/-! ### The events -/

theorem exec_eventRecordWrite (vf r : Nat) (s : State) :
    exec (.eventRecordWrite vf r) s = .next (if (s.ring vf r).faulted then s else s.writeRecord vf r) := rfl

theorem exec_ringFaultRetry (vf r : Nat) (s : State) :
    exec (.ringFaultRetry vf r) s = .next (if (s.ring vf r).faulted then s.writeRecord vf r else s) := rfl

/-- Records of a ring wait for their message as long as COALT allows. -/
def State.coaltDue (s : State) (vf r : Nat) : Prop :=
  (s.ring vf r).unsignalled ≠ 0 ∧ (s.ring vf r).cfg.toNat / 2 ^ 32 % 2 ^ 16 ≠ 0
    ∧ (s.ring vf r).oldest + (s.ring vf r).cfg.toNat / 2 ^ 32 % 2 ^ 16 * 2700 ≤ s.tb

theorem exec_eventCoalesceTimeout (vf r : Nat) (s : State) [Decidable (s.coaltDue vf r)] :
    exec (.eventCoalesceTimeout vf r) s = .next (if s.coaltDue vf r then s.interrupt vf r else s) := by
  refine congrArg Host.Outcome.next (if_congr ?_ rfl rfl)
  rfl

/-- An event that tries the first held record writes it where its ring is on and has room. -/
theorem writes_of_exec {i : Instr} {s : State} {vf r : Nat} (hi : exec i s = .next (s.writeRecord vf r)) (first : List Byte)
    (rest : List (List Byte)) :
    let g := s.ring vf r
    let slots := 2 ^ (g.cfg.toNat % 32)
    g.held = first :: rest → g.cfg.getLsbD 8 = true ∧ (g.tail.toNat + 1) % slots ≠ g.head.toNat % slots → ∀ b,
    s.storeRecord vf (g.base.toNat + 32 * g.tail.toNat) (putBytes first 0 (leBytes 8 s.tb)) = .ok b →
    ∃ t, exec i s = .next t ∧ (t.ring vf r).held = rest
      ∧ (t.ring vf r).tail = BitVec.ofNat 16 ((g.tail.toNat + 1) % slots) ∧ (t.ring vf r).faulted = false
      ∧ t.mem = b.mem ∧ t.host = b.host ∧ t.cores = b.cores
      ∧ (max 1 (g.cfg.toNat / 2 ^ 16 % 2 ^ 8) ≤ g.unsignalled + 1 → (t.ring vf r).unsignalled = 0 ∧ Tells b t vf r)
      ∧ (g.unsignalled + 1 < max 1 (g.cfg.toNat / 2 ^ 16 % 2 ^ 8) →
          t.pf.msix = b.pf.msix ∧ (t.ring vf r).unsignalled = g.unsignalled + 1) := by
  intro g slots hheld hroom b hstore
  have hslots : slots = ringSlots g.cfg := by simp [slots, ringSlots, bitsOf]
  obtain ⟨hrest, htail, hfault, ⟨hmem, hhost, hcores⟩, hsent, hkept⟩ := writeRecord_spec hheld ((room_iff g).mpr hroom) hstore
  rw [← hslots] at htail
  exact ⟨_, hi, hrest, htail, hfault, hmem, hhost, hcores, hsent, hkept⟩

/-- Such an event changes nothing where no record is held, or its ring is off or full. -/
theorem stays_of_exec {i : Instr} {s : State} {vf r : Nat} (hi : exec i s = .next (s.writeRecord vf r)) :
    let g := s.ring vf r
    let slots := 2 ^ (g.cfg.toNat % 32)
    g.held = [] ∨ ¬(g.cfg.getLsbD 8 = true ∧ (g.tail.toNat + 1) % slots ≠ g.head.toNat % slots) → exec i s = .next s := by
  intro g slots h
  rw [← room_iff g, Bool.not_eq_true] at h
  rw [hi, writeRecord_stays h]

/-- Settles O47: the write of a record by what it finds, the two events that try it, and the timeout of a message. -/
theorem eventRings : Obligations.EventRings := by
  unfold Obligations.EventRings
  intro s vf r
  classical
  refine ⟨fun hf => ?_, fun hf => ?_, fun hdue => ?_, fun hdue => ?_⟩
  · have hwrite := (exec_eventRecordWrite vf r s).trans (congrArg Host.Outcome.next (if_neg (Bool.eq_false_iff.mp hf)))
    have hretry := (exec_ringFaultRetry vf r s).trans (congrArg Host.Outcome.next (if_neg (Bool.eq_false_iff.mp hf)))
    refine ⟨writes_of_exec hwrite, stays_of_exec hwrite, hretry, fun first rest hheld hroom hvf x hstore => ⟨_, hwrite, ?_⟩⟩
    rw [writeRecord_fault hheld ((room_iff _).mpr hroom) hf hstore]
    refine ⟨(ring_postPf hvf _ _ _ _ _ _ r).trans (State.ring_setRing (s.applySides x.sides) vf r _), ?_⟩
    rw [State.setRing, if_neg hvf]
    rfl
  · have hwrite := (exec_ringFaultRetry vf r s).trans (congrArg Host.Outcome.next (if_pos hf))
    exact ⟨writes_of_exec hwrite, stays_of_exec hwrite,
      (exec_eventRecordWrite vf r s).trans (congrArg Host.Outcome.next (if_pos hf))⟩
  · obtain ⟨hring, htells, hsame⟩ := interrupt_spec s vf r
    exact ⟨_, (exec_eventCoalesceTimeout vf r s).trans (congrArg Host.Outcome.next (if_pos hdue)), hring, htells, hsame⟩
  · exact (exec_eventCoalesceTimeout vf r s).trans (congrArg Host.Outcome.next (if_neg hdue))

end Sys2Proof.Machine
end


section
/-! PROOFS. A shootdown that evicts lines of the PF (R199, R223, R252): the statement on suspensions does not name what firmware's writes
do beside their bytes. -/

namespace Sys2Proof.Machine
open Sys2Proof

/-- No core but core 0 has a line in its L1. -/
theorem l1_checkedFrame {l1 : List L1Line} {core : Nat} {x : L1Line} (h : x ∈ ((checkedFrame l1).core core).l1) : core = 0 ∧ x ∈ l1 := by
  by_cases hcore : core = 0
  · subst hcore
    exact ⟨rfl, h⟩
  · have hne : (checkedFrame l1).core core = Core.init := by
      simp only [checkedFrame, State.core, State.updCore, State.setCore]
      rw [SMap.get_set_ne _ _ _ _ _ hcore]
      rfl
    rw [hne] at h
    cases h

/-- A shootdown of the PF's whole space evicts the line that the PF stored to, and its write-back undoes the check of the frame. -/
theorem checkedAfter_shootdown : checkedAfter (exec .shootdown (checkedFrame [storedLine])) = some false := by decide

/-- Refutes O51, by its clause on the shootdown of clean lines: it allows no change but of the cores, of memory and of the PF's registers, but
the write-back of the PF's line in `checkedFrame` also undoes the check of its frame (R252), which the security engine holds. -/
theorem not_suspensions : ¬ Obligations.Suspensions := by
  unfold Obligations.Suspensions
  rintro ⟨-, -, hshoot⟩
  obtain ⟨-, -, hclean, -⟩ := hshoot (checkedFrame [storedLine])
  obtain ⟨t, ht, -, hstate, -⟩ := hclean rfl fun core x hx => by
    obtain ⟨rfl, hline⟩ := l1_checkedFrame hx
    rw [List.mem_singleton.mp hline]
    exact ⟨by decide, by decide, ⟨0, .inl (by decide)⟩, by decide, by decide⟩
  have hsec : t.sec = (checkedFrame [storedLine]).sec := by rw [hstate]
  have hafter := checkedAfter_shootdown
  rw [ht, checkedAfter, hsec, checked_checkedFrame] at hafter
  exact absurd hafter (by decide)

end Sys2Proof.Machine
end

section
/-! PROOFS. ndone of one core of several (R279, R296): it writes the core's L1 back before it asks whether the core's writes to
peers are acknowledged, and a line of a peer's memory is one more of them. -/

namespace Sys2Proof.Machine
open Sys2Proof

/-- A write to a peer's memory that is sent is not acknowledged. -/
theorem coreAcked_sendPeer (s : State) (op : Byte) (m : LinkMsg) (core port addr size : Nat) :
    (s.sendPeer op m (.mk' (.stream core) port addr size true false)).coreAcked core = false := by
  simp [State.coreAcked, State.sendPeer, PeerReq.mk', PeerReq.unacked, ofCores]

/-- A write of a core to a module to which a port with room leads is sent. -/
theorem peerWrite_sent {s : State} {core vf p : Nat} {cells : List (Nat × Byte)} {chan : Option Nat}
    (hport : s.peerPort (8 * core) ((((cells.head?.map Prod.fst).getD 0) - 2 ^ 51) / 2 ^ 44) = some p)
    (hroom : s.peerRoom (.stream core) p = true) :
    ∃ m, s.peerWrite (.stream core) vf cells chan
      = .ok (s.sendPeer 0x03 m (.mk' (.stream core) p ((cells.head?.map Prod.fst).getD 0) cells.length true false chan)) := by
  unfold State.peerWrite
  simp only [Agent.number, hport, need_then hroom]
  exact ⟨_, rfl⟩

/-- A write through a leaf of a peer's memory, within one line, is the write to the peer. -/
theorem writeCells_peer {s t : State} {a : Agent} {vf m : Nat} {l : Leaf} {cells : List (Nat × Byte)} {colours : Byte}
    {chan : Option Nat} (hsealed : (!(s.pfAccess a vf && s.sealedFrame l.pa)) = true) (hregion : regionOf l.pa = .peer m)
    (hline : splitLines cells = [cells]) (hwrite : (s.noteWrite a vf l cells).peerWrite a vf cells chan = .ok t) :
    s.writeCells a vf l cells colours chan = .ok t := by
  have hchecked : s.checkSealed a vf l = .ok () := by rw [State.checkSealed, hsealed]; rfl
  rw [State.writeCells, hchecked]
  simp only [hregion, hline, List.foldlM_cons, List.foldlM_nil, hwrite]
  rfl

/-- ndone waits for the acknowledgements of what its write-backs sent, too. -/
theorem ndone_waits (o : R0) {s t : State} (hmode : (s.self.mode != .handler) = true) (hempty : s.here.enginesEmpty = true)
    (hflush : s.flushL1 s.cur = t) (hacked : t.coreAcked t.cur = false) : exec (.ndone o) s = .next (s.waitHere .order []) := by
  have hbody : execNdone o s = .next (s.settled (waitOn .order)) := by
    rw [execNdone, runStream, need_then hmode, need_then hempty, hflush, need_wait hacked]
  exact hbody

/-- A line at the start of module 1's memory, whose first byte is stored and not written back. -/
def peerLine : L1Line := ⟨0, 0, 2 ^ 51 + 2 ^ 44, List.replicate 64 0, 1, 1, true, false⟩

/-- Core 0 of a node of two cores holds that line; port 2 leads to module 1. -/
def storingNode : State :=
  let s := benchN [] (fun n => { n with cores := [0, 1] }) fun c => { c with l1 := [peerLine] }
  { s with pf := { s.pf with route := [(1, 4)] } }

/-- The write-back of the line leaves through port 2. -/
theorem writeBack_peerLine : ∃ m, storingNode.writeBack 0 peerLine
    = storingNode.sendPeer 0x03 m (.mk' (.stream 0) 2 (2 ^ 51 + 2 ^ 44) 1 true false) := by
  obtain ⟨m, hm⟩ := peerWrite_sent (s := storingNode) (core := 0) (vf := 0) (p := 2) (cells := peerLine.dirty) (chan := none)
    (peerPort_one storingNode 0 1 2 (by decide)) (by decide)
  have hcells : storingNode.writeCells (.stream 0) 0 ⟨0, peerLine.pa, 7⟩ peerLine.dirty 1 = _ :=
    writeCells_peer (m := 1) (by decide) (by decide) (by decide) hm
  refine ⟨m, ?_⟩
  rw [State.writeBack, if_neg (by decide), if_neg (by decide)]
  exact congrArg (fun r : Except Stop State => match r with | .ok s => s | .error _ => storingNode) hcells

/-- Refutes O29, by its clause on ndone of one core of several, all of whose writes to peers are acknowledged: core 0 of
`storingNode` has sent none, but the write-back of its L1 sends one, for whose acknowledgement ndone waits. -/
theorem not_nodeInstructions : ¬ Obligations.NodeInstructions := by
  unfold Obligations.NodeInstructions
  rintro ⟨hnode, -⟩
  obtain ⟨-, hdone, -⟩ := hnode storingNode 0x10000 (nodeHere fun n => { n with cores := [0, 1] }) rfl rfl rfl
  obtain ⟨t, ht, -, -, -, -, -, -, hretired⟩ := hdone ⟨true⟩ (by decide) (by decide) (by decide) (by decide)
    ⟨1, by decide, by decide, by decide⟩ (by decide)
  obtain ⟨m, hm⟩ := writeBack_peerLine
  have hflush : storingNode.flushL1 0 = (storingNode.writeBack 0 peerLine).updCore 0 fun c => { c with l1 := [] } := rfl
  have hwaits := ndone_waits ⟨true⟩ (by decide) (by decide) hflush (by rw [hm]; exact coreAcked_sendPeer ..)
  cases ht.symm.trans hwaits
  exact absurd hretired (by decide)

end Sys2Proof.Machine
end

section
/-! PROOFS. A dispatch that writes the first checkpoint of a node (R424) dereferences its KV handles, and a dereference that fails
keeps what it met: the TLBs, of every entry of the table of cores (R203). A table that lists a core twice shows it. -/

namespace Sys2Proof.Machine
open Sys2Proof

/-- A descriptor like that of `readyNode`, with one writable tile operand: handle 0, which names no KV sequence. -/
def operandDesc : Desc :=
  [1] ++ List.replicate 15 0 ++ [4, 0, 0, 0, 4] ++ List.replicate 9 0 ++ [1] ++ List.replicate 111 0 ++ [1] ++ List.replicate 113 0

/-- A node with that descriptor is ready; the table of cores lists core 5 twice, and the second time with a TLB entry. -/
def twiceListed : State :=
  let s := benchD { readyNode .ready with desc := operandDesc } (readyNode .waiting) 3
  { s with cores := s.cores ++ [(5, Core.init), (5, { Core.init with tlb := [⟨0, 0, 0, 7⟩] })] }

/-- The TLB entries of core 5 after a step. -/
def entriesAfter : Host.Outcome State Fault Refusal → Option Nat
  | .next t => some (t.core 5).tlb.length
  | _ => none

set_option maxRecDepth 20000 in
theorem pick_twiceListed : twiceListed.pick.map Prod.snd = some 0x10000 := by decide

/-- The dispatch of the node on core 0 leaves core 5 with the TLB entry of its second listing. -/
theorem entriesAfter_dispatch : entriesAfter (exec (.nodeDispatch [0]) twiceListed) = some 1 := by
  set_option maxRecDepth 20000 in decide

set_option maxRecDepth 20000 in
/-- Refutes O45, by its clause that a dispatch changes no core but those it is on: in `twiceListed` core 5 has no TLB entry, and has
one after the node is dispatched on core 0. -/
theorem not_launchAndDispatch : ¬ Obligations.LaunchAndDispatch := by
  unfold Obligations.LaunchAndDispatch
  rintro ⟨-, hdispatch⟩
  obtain ⟨-, hplaced, -⟩ := hdispatch twiceListed [0]
  obtain ⟨⟨b, _⟩, hpick, rfl⟩ := Option.map_eq_some_iff.mp pick_twiceListed
  obtain ⟨t, -, ht, -, -, -, -, hothers, -⟩ := hplaced b _ _ (by decide) hpick rfl (by decide) (by decide) (by decide)
  have hafter := entriesAfter_dispatch
  rw [ht, entriesAfter, hothers 5 (by decide)] at hafter
  exact absurd hafter (by decide)

end Sys2Proof.Machine
end

section
/-! PROOFS. What a write-back leaves alone, how an overrun is counted, and what becomes of the cores and the node of a forced
pre-emption (R199, R301, R303). -/

namespace Sys2Proof.Machine
open Sys2Proof

/-! ### What a write-back leaves alone (R199) -/

/-- Cores, Hearth and clock are those of another state. -/
def SameWork (s t : State) : Prop := t.cores = s.cores ∧ t.hearth = s.hearth ∧ t.tb = s.tb

theorem SameWork.refl (s : State) : SameWork s s := ⟨rfl, rfl, rfl⟩

theorem SameWork.trans {s u t : State} (h : SameWork s u) (k : SameWork u t) : SameWork s t := by
  obtain ⟨hcores, hhearth, htb⟩ := h
  obtain ⟨kcores, khearth, ktb⟩ := k
  exact ⟨kcores.trans hcores, khearth.trans hhearth, ktb.trans htb⟩

theorem SameWork.core {s t : State} (h : SameWork s t) (k : Nat) : t.core k = s.core k := by
  rw [State.core, State.core, h.1]

theorem SameWork.node? {s t : State} (h : SameWork s t) (id : Dword) : t.node? id = s.node? id := by
  rw [State.node?, State.node?, h.2.1]

theorem SameWork.updCore {s t : State} (h : SameWork s t) (c : Nat) (f : Core → Core) : SameWork (s.updCore c f) (t.updCore c f) := by
  refine ⟨?_, h.2.1, h.2.2⟩
  show SMap.set .init t.cores c (f (t.core c)) = SMap.set .init s.cores c (f (s.core c))
  rw [h.core, h.1]

theorem SameWork.updEach {s t : State} (h : SameWork s t) (cs : List Nat) (f : Nat → Core → Core) :
    SameWork (s.updEach cs f) (t.updEach cs f) := by
  induction cs generalizing s t with
  | nil => exact h
  | cons c cs ih => exact ih (h.updCore c (f c))

theorem sameWork_loseLine (s : State) (line : Nat) : SameWork s (s.loseLine line) := by
  unfold State.loseLine State.weightLine
  split <;> exact ⟨rfl, rfl, rfl⟩

theorem sameWork_dirtyPage (s : State) (vf va : Nat) : SameWork s (s.dirtyPage vf va) := by
  unfold State.dirtyPage
  split
  · exact .refl s
  · dsimp only
    split <;> exact ⟨rfl, rfl, rfl⟩

theorem sameWork_updateEntry (s : State) (a : Agent) (cells : List (Nat × Byte)) : SameWork s (s.updateEntry a cells) := by
  unfold State.updateEntry
  split
  · exact .refl s
  · split <;> exact ⟨rfl, rfl, rfl⟩

theorem sameWork_noteWrite (s : State) (a : Agent) (vf : Nat) (l : Leaf) (cells : List (Nat × Byte)) :
    SameWork s (s.noteWrite a vf l cells) := by
  have hnoted := (sameWork_dirtyPage s vf l.va).trans (sameWork_updateEntry _ a cells)
  unfold State.noteWrite
  dsimp only
  split
  · exact hnoted.trans ⟨rfl, rfl, rfl⟩
  · exact hnoted

theorem sameWork_peerWrite {s t : State} {a : Agent} {vf : Nat} {cells : List (Nat × Byte)} {chan : Option Nat}
    (h : s.peerWrite a vf cells chan = .ok t) : SameWork s t := by
  unfold State.peerWrite at h
  dsimp only at h
  split at h
  · cases h
    unfold State.loseRequest
    split <;> exact ⟨rfl, rfl, rfl⟩
  · next p _ =>
    cases hroom : s.peerRoom a p with
    | true =>
      rw [need_then hroom] at h
      cases h
      exact ⟨rfl, rfl, rfl⟩
    | false =>
      rw [need_wait hroom] at h
      cases h

theorem sameWork_peerWrites {s t : State} {a : Agent} {vf : Nat} {chan : Option Nat} (lines : List (List (Nat × Byte)))
    (h : lines.foldlM (fun s c => s.peerWrite a vf c chan) s = .ok t) : SameWork s t := by
  induction lines generalizing s with
  | nil => cases h; exact .refl _
  | cons c lines ih =>
    rw [List.foldlM_cons] at h
    cases hw : s.peerWrite a vf c chan with
    | error e => rw [hw] at h; cases h
    | ok u => rw [hw] at h; exact (sameWork_peerWrite hw).trans (ih h)

theorem sameWork_writeCells {s t : State} {a : Agent} {vf : Nat} {l : Leaf} {cells : List (Nat × Byte)} {colours : Byte}
    {chan : Option Nat} (h : s.writeCells a vf l cells colours chan = .ok t) : SameWork s t := by
  have hnote := sameWork_noteWrite s a vf l cells
  unfold State.writeCells at h
  cases hsealed : s.checkSealed a vf l with
  | error e => rw [hsealed] at h; cases h
  | ok _ =>
    rw [hsealed] at h
    change (match regionOf l.pa with | .peer _ => _ | _ => _) = _ at h
    split at h
    · cases hw : (splitLines cells).foldlM (fun s c => s.peerWrite a vf c chan) (s.noteWrite a vf l cells) with
      | error e => rw [hw] at h; cases h
      | ok u => rw [hw] at h; cases h; exact hnote.trans (sameWork_peerWrites _ hw)
    · cases h
      exact hnote.trans ⟨rfl, rfl, rfl⟩

theorem sameWork_writeBack (s : State) (core : Nat) (l : L1Line) : SameWork s (s.writeBack core l) := by
  unfold State.writeBack
  split
  · exact .refl s
  · split
    · exact sameWork_loseLine s _
    · split
      · next t ht => exact sameWork_writeCells ht
      · exact .refl s

theorem sameWork_writeBacks (core : Nat) (ls : List L1Line) (s : State) :
    SameWork s (ls.foldl (fun s l => s.writeBack core l) s) := by
  induction ls generalizing s with
  | nil => exact .refl s
  | cons l ls ih => exact (sameWork_writeBack s core l).trans (ih _)

/-- A core whose L1 is empty. -/
def Core.clean (c : Core) : Core := { c with l1 := [] }

/-- The L1 of each core of a list is empty after a flush, and beside the cores' L1 neither cores nor Hearth nor clock change. -/
theorem sameWork_flushAll (cs : List Nat) (s : State) : SameWork (s.updEach cs fun _ => Core.clean) (s.flushAll cs) := by
  induction cs generalizing s with
  | nil => exact .refl s
  | cons c cs ih =>
    have hflush : s.flushL1 c = (((s.core c).l1.filter fun _ => true).foldl (fun s l => s.writeBack c l) s).updCore c Core.clean := by
      unfold State.flushL1 State.flushIf
      simp only [Bool.not_true, List.filter_false]
      rfl
    have hfirst : SameWork (s.updCore c Core.clean) (s.flushL1 c) := by
      rw [hflush]
      exact (sameWork_writeBacks c _ s).updCore c Core.clean
    exact (hfirst.updEach cs _).trans (ih (s.flushL1 c))

/-! ### Operators that are too long (R301) -/

/-- A core with `late` more operators that were too long. -/
def Core.counted (late : Dword) (c : Core) : Core := { c with csr := { c.csr with novr := c.csr.novr + late } }

section
variable {s : State} {id : Dword} {n : Node}

theorem overruns_iff : s.overruns id n = true ↔
    n.state = .running ∧ n.overrun = false ∧ s.opStart n + 2 * (s.bop (nodeVf id) * 2700) < s.tb := by
  simp [State.overruns, usCycles, mul_assoc, and_assoc]

theorem countOverrun_of_overruns (hn : s.node? id = some n) (h : s.overruns id n = true) :
    s.countOverrun id = (s.updEach n.cores fun _ => Core.counted 1).setNode id { n with overrun := true } := by
  rw [State.countOverrun, hn]
  exact if_pos h

theorem countOverrun_of_not (hn : s.node? id = some n) (h : s.overruns id n = false) : s.countOverrun id = s := by
  rw [State.countOverrun, hn]
  exact if_neg (Bool.eq_false_iff.mp h)

/-- The cores of a node after its operator's overrun, if it is one, was counted. -/
theorem countOverrun_spec (hn : s.node? id = some n) (hnd : n.cores.Nodup) :
    (s.countOverrun id).tb = s.tb
    ∧ (∃ m, (s.countOverrun id).node? id = some m ∧ m.cores = n.cores)
    ∧ ∀ k, (s.countOverrun id).core k
        = if k ∈ n.cores then (s.core k).counted (if s.overruns id n = true then 1 else 0) else s.core k := by
  cases h : s.overruns id n with
  | true =>
    rw [countOverrun_of_overruns hn h, updEach_frame]
    refine ⟨rfl, ⟨_, node?_setNode_self _ _ _, rfl⟩, fun k => ?_⟩
    exact core_updEach hnd (fun _ => Core.counted 1) s k
  | false =>
    rw [countOverrun_of_not hn h]
    refine ⟨rfl, ⟨n, hn, rfl⟩, fun k => ?_⟩
    have hzero : (s.core k).counted 0 = s.core k := by simp [Core.counted]
    rw [if_neg Bool.false_ne_true, hzero, ite_self]

/-! ### A node leaves its cores -/

/-- Charging a node's time changes the Crucible's time and the deficits alone. -/
theorem charge_frame (s : State) (id : Dword) : s.charge id
    = { s with vfs := (s.charge id).vfs, hearth := { s.hearth with crucible := (s.charge id).hearth.crucible } } := by
  unfold State.charge
  split <;> rfl

/-- A node that has left its cores. -/
def Node.gone (n : Node) (next : NodeState) (now : Nat) (frz : List Dword) (novr : Dword) : Node :=
  { n with cores := [], done := [], state := next, left := now, pendSince := none, pendSusp := false, ran := [], frz := frz, novr := novr }

/-- The cores of a node's state as it leaves them. -/
def State.vacated (s : State) (id : Dword) (cs : List Nat) : State :=
  let u := (s.charge id).withdraw cs
  State.updEach { u with peers := parkPeers id cs u.peers } cs fun _ => Core.vacate

theorem vacated_frame (s : State) (id : Dword) (cs : List Nat) : s.vacated id cs
    = { s with cores := (s.vacated id cs).cores, vfs := (s.charge id).vfs, pf := (s.vacated id cs).pf
               peers := (s.vacated id cs).peers
               hearth := { s.hearth with crucible := (s.charge id).hearth.crucible } } := by
  unfold State.vacated
  rw [updEach_frame, charge_frame]
  rfl

theorem core_vacated (s : State) (id : Dword) {cs : List Nat} (hnd : cs.Nodup) (k : Nat) :
    (s.vacated id cs).core k = if k ∈ cs then (s.core k).vacate else s.core k := by
  have hcharge : ((s.charge id).withdraw cs).core k = s.core k := by
    rw [charge_frame]
    rfl
  rw [← hcharge]
  exact core_updEach hnd (fun _ => Core.vacate) _ k

theorem leave_eq (hn : s.node? id = some n) (cs : List Nat) (next : NodeState) :
    ∃ frz novr, s.leave id cs next = (s.vacated id cs).setNode id (n.gone next s.tb frz novr) := by
  have hvacated : (s.vacated id cs).node? id = some n := by
    rw [vacated_frame]
    exact hn
  have htb : (s.vacated id cs).tb = s.tb := by rw [vacated_frame]
  rw [← htb]
  exact ⟨_, _, updNode_of_node? hvacated _⟩

/-! ### Forced pre-emptions (R303) -/

/-- A core as a forced pre-emption saves it. -/
def Core.savedAt (now : Nat) (c : Core) : Core :=
  { c.abandon with
    c := { c.c with wait := none }, x := { c.x with wait := none }, waiters := [], tlb := [], rows := [], stand := none
    joining := none, ecc := [], saveTb := now, saveCause := saveForced, frozenAt := none }

/-- Without a fill into the probe regions of a node's cores, what a forced pre-emption ends first is nothing. -/
theorem endRegionFills_of_idle {cs : List Nat} (hidle : ∀ c ∈ cs, ∀ p ∈ (s.core c).probe, p.2.state ≠ 1) :
    cs.foldl State.endRegionFills s = s ∧ s.regionFilling cs = false := by
  have hnone (c : Nat) (hc : c ∈ cs) : s.endRegionFills c = s := by
    have hfilter : (s.core c).probe.filter (fun p => p.2.state == 1) = [] :=
      List.filter_eq_nil_iff.mpr fun p hp => by simpa using hidle c hc p hp
    rw [State.endRegionFills, hfilter]
    rfl
  refine ⟨?_, ?_⟩
  · clear hidle
    induction cs with
    | nil => rfl
    | cons c cs ih =>
      rw [List.foldl_cons, hnone c List.mem_cons_self]
      exact ih fun k hk => hnone k (List.mem_cons_of_mem c hk)
  · simp only [State.regionFilling, List.any_eq_false, beq_iff_eq, Bool.not_eq_true]
    exact hidle

theorem forcePreempt_spec (hn : s.node? id = some n) (hnd : n.cores.Nodup)
    (hidle : ∀ c ∈ n.cores, ∀ p ∈ (s.core c).probe, p.2.state ≠ 1) :
    (∃ m, (s.forcePreempt id).node? id = some m ∧ m.state = .preempted ∧ m.cores = [] ∧ m.pendSince = none
      ∧ m.saved = n.cores.map fun c => (c, (s.core c).clean.savedAt s.tb))
    ∧ ∀ k, (s.forcePreempt id).core k = if k ∈ n.cores then (s.core k).clean.vacate else s.core k := by
  obtain ⟨hfills, hfilling⟩ := endRegionFills_of_idle hidle
  have hflush := sameWork_flushAll n.cores s
  obtain ⟨u, hu⟩ : ∃ u : State, u = { s.flushAll n.cores with mem := (s.flushAll n.cores).mem.drain (ofCores n.cores) } := ⟨_, rfl⟩
  have hwork : SameWork (s.updEach n.cores fun _ => Core.clean) u := by
    rw [hu]
    exact hflush
  have hcore (k : Nat) : u.core k = if k ∈ n.cores then (s.core k).clean else s.core k :=
    (hwork.core k).trans (core_updEach hnd _ s k)
  have hun : u.node? id = some n := by
    rw [hwork.node?, updEach_frame]
    exact hn
  have htb : u.tb = s.tb := by rw [hwork.2.2, updEach_frame]
  obtain ⟨frz, novr, hleave⟩ := leave_eq hun n.cores .preempted
  have hforce : s.forcePreempt id = (u.leave id n.cores .preempted).updNode id fun m =>
      { m with saved := n.cores.map fun c => (c, (u.core c).savedAt u.tb)
               waited := n.cores.flatMap fun c => (u.core c).lendWaits } := by
    rw [State.forcePreempt, hn, hu]
    simp only [hfills, hfilling]
    rfl
  have hsaved : (n.cores.map fun c => (c, (u.core c).savedAt u.tb)) = n.cores.map fun c => (c, (s.core c).clean.savedAt s.tb) :=
    List.map_congr_left fun c hc => by rw [hcore, if_pos hc, htb]
  rw [hforce, hleave, updNode_of_node? (node?_setNode_self _ _ _), hsaved]
  refine ⟨⟨_, node?_setNode_self _ _ _, rfl, rfl, rfl, rfl⟩, fun k => ?_⟩
  refine (core_vacated u id hnd k).trans ?_
  rw [hcore]
  split <;> rfl

end
end Sys2Proof.Machine
end

section
/-! PROOFS. Pre-emptions, overruns, wake words and the Crucible's window as events of the Hearth (R227, R301, R303, R306, R308, R316). -/

namespace Sys2Proof.Machine
open Sys2Proof

section
variable {s : State} {id : Dword} {n : Node}

/-! ### Events of a running node -/

/-- The operators that an overrun counts as a node is pre-empted. -/
def State.lateOf (s : State) (id : Dword) (n : Node) : Dword :=
  if n.overrun = false ∧ s.opStart n + 2 * (s.bop (nodeVf id) * 2700) < s.tb then 1 else 0

/-- A running node is pre-empted by force: its cores are saved whole and free, and no other core changes. -/
theorem preempt_spec (hn : s.node? id = some n) (hrun : n.state = .running) (hnd : n.cores.Nodup)
    (hidle : ∀ c ∈ n.cores, ∀ p ∈ (s.core c).probe, p.2.state ≠ 1) :
    (∃ m, (s.preempt id).node? id = some m ∧ m.state = .preempted ∧ m.cores = [] ∧ m.since = s.tb ∧ m.pendSince = none
      ∧ m.saved = n.cores.map fun c => (c, ((s.core c).counted (s.lateOf id n)).clean.savedAt s.tb))
    ∧ ∀ k, (s.preempt id).core k = if k ∈ n.cores then ((s.core k).counted (s.lateOf id n)).clean.vacate else s.core k := by
  obtain ⟨htb, ⟨m, hm, hcores⟩, hcore⟩ := countOverrun_spec hn hnd
  have hlate : (if s.overruns id n = true then (1 : Dword) else 0) = s.lateOf id n := by
    simp only [overruns_iff, hrun, true_and, State.lateOf]
  rw [hlate] at hcore
  rw [← hcores] at hnd hidle hcore ⊢
  obtain ⟨⟨f, hf, hstate, hnone, hpend, hsaved⟩, hleft⟩ := forcePreempt_spec hm hnd fun c hc => by
    rw [hcore, if_pos hc]
    exact hidle c hc
  have hpreempt : s.preempt id = ((s.countOverrun id).forcePreempt id).setNode id { f with since := s.tb } := by
    rw [State.preempt, updNode_of_node? hf, if_pos hstate]
  rw [hpreempt]
  refine ⟨⟨_, node?_setNode_self _ _ _, hstate, hnone, rfl, hpend, ?_⟩, fun k => ?_⟩
  · refine hsaved.trans (List.map_congr_left fun c hc => ?_)
    rw [hcore, if_pos hc, htb]
  · refine (hleft k).trans ?_
    rw [hcore]
    split <;> rfl

/-- An event that pre-empts a running node under a condition, and else changes nothing. -/
theorem onRunning_preempt (hn : s.node? id = some n) {b : Node → Bool} {P : Prop} (hb : b n = true ↔ P) :
    (n.state = .running → P → onRunning s id (fun m => if b m then s.preempt id else s) = .next (s.preempt id))
    ∧ (¬(n.state = .running ∧ P) → onRunning s id (fun m => if b m then s.preempt id else s) = .next s) := by
  simp only [onRunning, hn]
  refine ⟨fun hrun hP => ?_, fun h => ?_⟩
  · rw [if_pos hrun, if_pos (hb.mpr hP)]
  · by_cases hrun : n.state = .running
    · rw [if_pos hrun, if_neg fun hbn => h ⟨hrun, hb.mp hbn⟩]
    · rw [if_neg hrun]

theorem halted_iff : s.halted n = true ↔ ∃ c ∈ n.cores, (s.core c).dbg.halted = true := by
  rw [State.halted, List.any_eq_true]

theorem preemptDue_iff : s.preemptDue id n = true ↔ (¬∃ c ∈ n.cores, (s.core c).dbg.halted = true)
    ∧ ∃ since, n.pendSince = some since ∧ ¬(n.pendSusp = true ∧ (s.vf (nodeVf id)).susp = 2)
      ∧ (since + s.bop (nodeVf id) * usCycles ≤ s.tb ∨ s.opStart n + 2 * (s.bop (nodeVf id) * usCycles) ≤ s.tb) := by
  rw [← halted_iff]
  cases hp : n.pendSince with
  | none => simp [State.preemptDue, hp]
  | some t =>
    simp only [State.preemptDue, hp, State.untimedPend, Bool.and_eq_true, Bool.or_eq_true, Bool.not_eq_true', Bool.and_eq_false_iff,
      beq_eq_false_iff_ne, decide_eq_true_eq, Option.some.injEq, exists_eq_left', Bool.not_eq_true, not_and_or]
    tauto

theorem waitDue_iff : s.waitDue id n = true ↔ ((¬∃ c ∈ n.cores, (s.core c).dbg.halted = true)
    ∧ ∃ c ∈ n.cores, ((s.core c).c.waitedLong s.tb = true ∨ (s.core c).x.waitedLong s.tb = true)) ∧ s.rival id n = true := by
  rw [← halted_iff]
  simp [State.waitDue]

theorem frozenLong_iff : s.frozenLong n = true ↔ (¬∃ c ∈ n.cores, (s.core c).dbg.halted = true)
    ∧ ∃ c ∈ n.cores, ∃ since, (s.core c).frozenAt = some since ∧ since + 64 * usCycles < s.tb := by
  rw [← halted_iff]
  simp [State.frozenLong, Option.any_eq_true]

/-! ### Overruns (R301) and parked nodes (R316) -/

theorem exec_operatorOverrun (id : Dword) (s : State) : exec (.operatorOverrun id) s = .next (s.countOverrun id) := rfl

theorem exec_parkTimeWake (id : Dword) (s : State) : exec (.parkTimeWake id) s = .next (s.wakeNode id) := rfl

/-- A parked node whose every wake word holds is ready. -/
theorem wakeNode_of_all (hn : s.node? id = some n) (hp : n.state = .parked) (hall : ∀ w ∈ n.wakes, s.wakes w.1 w.2 = true) :
    s.wakeNode id = s.setNode id { n with wakes := [], state := .ready, since := s.tb } := by
  have hnone : n.wakes.filter (fun w => !s.wakes w.1 w.2) = [] := List.filter_eq_nil_iff.mpr fun w hw => by simp [hall w hw]
  simp [State.wakeNode, hn, hp, hnone]

/-- One with a word that does not hold keeps those. -/
theorem wakeNode_of_some (hn : s.node? id = some n) (hp : n.state = .parked) (hsome : ∃ w ∈ n.wakes, s.wakes w.1 w.2 = false) :
    s.wakeNode id = s.setNode id { n with wakes := n.wakes.filter fun w => !s.wakes w.1 w.2 } := by
  obtain ⟨w, hw, hf⟩ := hsome
  have hleft : n.wakes.filter (fun w => !s.wakes w.1 w.2) ≠ [] := List.ne_nil_of_mem (List.mem_filter.mpr ⟨hw, by rw [hf]; rfl⟩)
  simp only [State.wakeNode, hn, hp, bne_self_eq_false, Bool.false_eq_true, if_false, if_neg hleft]

theorem wakeNode_of_not (hn : s.node? id = some n) (h : n.state ≠ .parked) : s.wakeNode id = s := by
  simp [State.wakeNode, hn, h]

end
end Sys2Proof.Machine
end

section
/-! PROOFS. What follows the end of a node that has not advanced: its record, and what becomes of its graph, of others' nodes and of
the rings (R295 to R297, R427). -/

namespace Sys2Proof.Machine
open Sys2Proof

/-! ### What follows a node's end -/

/-- The records that a VF's ring holds. -/
def State.heldOn (s : State) (v r : Nat) : List (List Byte) := (SMap.get .init (s.vf v).rings r).held

/-- No ring loses a record. -/
def RingsGrow (s t : State) : Prop := ∀ v r, ∃ more, t.heldOn v r = s.heldOn v r ++ more

theorem RingsGrow.refl (s : State) : RingsGrow s s := fun _ _ => ⟨[], (List.append_nil _).symm⟩

theorem RingsGrow.trans {s u t : State} (h : RingsGrow s u) (k : RingsGrow u t) : RingsGrow s t := by
  intro v r
  obtain ⟨l, hl⟩ := h v r
  obtain ⟨m, hm⟩ := k v r
  exact ⟨l ++ m, by rw [hm, hl, List.append_assoc]⟩

/-- A change outside the VFs. -/
theorem ringsGrow_of_vfs {s t : State} (h : t.vfs = s.vfs) : RingsGrow s t := fun v r =>
  ⟨[], by rw [State.heldOn, State.heldOn, State.vf, State.vf, h, List.append_nil]⟩

theorem heldOn_postVf_self (s : State) (v r : Nat) (b : List Byte) : (s.postVf v r b).heldOn v r = s.heldOn v r ++ [b] := by
  rw [State.heldOn, State.postVf, State.vf_updVf_self, SMap.upd, SMap.get_set_self]
  rfl

theorem ringsGrow_postVf (s : State) (v r : Nat) (b : List Byte) : RingsGrow s (s.postVf v r b) := by
  intro w q
  by_cases hw : w = v
  · subst hw
    by_cases hq : q = r
    · subst hq
      exact ⟨[b], heldOn_postVf_self s w q b⟩
    · refine ⟨[], ?_⟩
      rw [State.heldOn, State.postVf, State.vf_updVf_self, SMap.upd, SMap.get_set_ne _ _ _ _ _ hq, List.append_nil]
      rfl
  · refine ⟨[], ?_⟩
    rw [State.heldOn, State.postVf, State.vf_updVf_ne _ _ _ _ hw, List.append_nil]
    rfl

/-- A change of a VF that leaves its rings. -/
theorem ringsGrow_updVf (s : State) (v : Nat) {f : Vf → Vf} (hf : ∀ x, (f x).rings = x.rings) : RingsGrow s (s.updVf v f) := by
  intro w q
  refine ⟨[], ?_⟩
  by_cases hw : w = v
  · rw [State.heldOn, hw, State.vf_updVf_self, hf, List.append_nil, State.heldOn]
  · rw [State.heldOn, State.vf_updVf_ne _ _ _ _ hw, List.append_nil, State.heldOn]

theorem ringsGrow_charge (s : State) (id : Dword) : RingsGrow s (s.charge id) := by
  unfold State.charge
  split
  · exact .refl s
  · exact RingsGrow.trans (ringsGrow_of_vfs rfl) (ringsGrow_updVf _ _ fun _ => rfl)

/-- What follows the end of a node: cores, the node itself, and what is to be rewound or retired stay, and no ring loses a record. -/
def Follows (id : Dword) (s t : State) : Prop :=
  t.cores = s.cores ∧ t.node? id = s.node? id ∧ t.hearth.rewinds = s.hearth.rewinds ∧ t.hearth.retires = s.hearth.retires
    ∧ RingsGrow s t

section
variable {id : Dword} {n : Node} {s t u : State}

theorem Follows.refl (s : State) : Follows id s s := ⟨rfl, rfl, rfl, rfl, .refl s⟩

theorem Follows.trans (h : Follows id s u) (k : Follows id u t) : Follows id s t := by
  obtain ⟨hc, hn, hw, hr, hg⟩ := h
  obtain ⟨kc, kn, kw, kr, kg⟩ := k
  exact ⟨kc.trans hc, kn.trans hn, kw.trans hw, kr.trans hr, hg.trans kg⟩

theorem Follows.node (h : Follows id s t) (hn : s.node? id = some n) : t.node? id = some n := h.2.1.trans hn

/-- What follows after a change, where it may use that the node stays. -/
theorem Follows.andThen (h : Follows id s u) (hn : s.node? id = some n) (hf : u.node? id = some n → Follows id u t) : Follows id s t :=
  h.trans (hf (h.node hn))

/-- A fold of such changes, where each may use that the node stays. -/
theorem follows_foldl {α : Type} {f : State → α → State} (l : List α)
    (hf : ∀ u, u.node? id = some n → ∀ a ∈ l, Follows id u (f u a)) (hn : s.node? id = some n) : Follows id s (l.foldl f s) := by
  induction l generalizing s with
  | nil => exact .refl s
  | cons a l ih =>
    exact (hf s hn a List.mem_cons_self).andThen hn (ih fun u hu b hb => hf u hu b (List.mem_cons_of_mem a hb))

theorem follows_setGraph (s : State) (g : Nat) (h : Graph) : Follows id s (s.setGraph g h) :=
  ⟨rfl, rfl, rfl, rfl, ringsGrow_of_vfs rfl⟩

theorem follows_postVf (s : State) (v r : Nat) (b : List Byte) : Follows id s (s.postVf v r b) :=
  ⟨rfl, rfl, rfl, rfl, ringsGrow_postVf s v r b⟩

/-- Another node is replaced. -/
theorem follows_setNode {k : Dword} (hk : k ≠ id) (m : Node) : Follows id s (s.setNode k m) := by
  refine ⟨rfl, ?_, rfl, rfl, ringsGrow_of_vfs rfl⟩
  have hkey : id.toNat ≠ k.toNat := fun h => hk (BitVec.eq_of_toNat_eq h.symm)
  show (SMap.insert k.toNat m (SMap.erase s.hearth.nodes k.toNat)).lookup id.toNat = s.hearth.nodes.lookup id.toNat
  rw [SMap.lookup_insert _ _ _ (by rw [SMap.lookup_erase, if_pos rfl]), if_neg hkey, SMap.lookup_erase, if_neg hkey]

/-- A node in a state that this one is not in is another node. -/
theorem ne_of_state {k : Dword} {m : Node} (hn : s.node? id = some n) (hm : s.node? k = some m) (h : m.state ≠ n.state) : k ≠ id := by
  rintro rfl
  exact h (congrArg Node.state (Option.some.inj (hm.symm.trans hn)))

theorem follows_updNode {k : Dword} (hk : k ≠ id) (f : Node → Node) : Follows id s (s.updNode k f) := by
  unfold State.updNode
  split
  · exact follows_setNode hk _
  · exact .refl s

/-! ### The graph of an ended node (R295, R297) -/

theorem follows_dropFrom {status : Byte} (g fuel : Nat) (l : List Nat) (hn : s.node? id = some n) (hend : n.state = .ended status) :
    Follows id s (s.dropFrom g fuel l) := by
  induction fuel generalizing s l with
  | zero => exact .refl s
  | succ fuel ih =>
    cases l with
    | nil => exact .refl s
    | cons i rest =>
      rw [State.dropFrom]
      cases hm : s.node? (nodeKey g i) with
      | none => exact ih rest hn
      | some m =>
        by_cases hw : m.state = .waiting
        · have hne : nodeKey g i ≠ id := ne_of_state hn hm (by rw [hw, hend]; exact NodeState.noConfusion)
          have hset := follows_setNode (s := s) hne { m with state := .ended 6 }
          have hpost : Follows id s
              (if (((s.setNode (nodeKey g i) { m with state := .ended 6 }).graph? g).map fun h => h.flags.getLsbD 1).getD false then
                (s.setNode (nodeKey g i) { m with state := .ended 6 }).postNode (nodeKey g i) 6 0 0 0
              else s.setNode (nodeKey g i) { m with state := .ended 6 }) := by
            split
            · exact hset.trans (follows_postVf _ _ _ _)
            · exact hset
          simpa [hw] using hpost.andThen hn (ih _)
        · simpa [hw] using ih rest hn

theorem nextGraph_eq (g : Nat) : nextGraph g = g / 2 ^ 36 * 2 ^ 36 + (g % 2 ^ 36 + 1) % (2 ^ 36 - 1) := rfl

/-- The next graph of a queue is another one. -/
theorem nextGraph_ne {g : Nat} : nextGraph g ≠ g := by
  rw [nextGraph_eq]
  omega

theorem nextGraph_lt {g : Nat} (h : g < 2 ^ 48) : nextGraph g < 2 ^ 48 := by
  rw [nextGraph_eq]
  omega

theorem graphKey_lt (id : Dword) : graphKey id < 2 ^ 48 := by
  unfold graphKey
  omega

/-- A node of the next graph is another node. -/
theorem ne_of_nextGraph {k : Nat} (h : k / 65536 = nextGraph (graphKey id)) : d64 k ≠ id := by
  have hlt := nextGraph_lt (graphKey_lt id)
  rintro rfl
  have hk : (d64 k).toNat = k := by
    rw [d64, BitVec.toNat_ofNat]
    omega
  rw [graphKey, hk] at h
  exact nextGraph_ne h.symm

theorem follows_freeSerial (hn : s.node? id = some n) : Follows id s (s.freeSerial (graphKey id)) := by
  unfold State.freeSerial
  split
  · exact .refl s
  · next h _ =>
    split
    · exact .refl s
    · refine (follows_setGraph s _ _).trans (follows_foldl (n := n) _ (fun u _ p hp => ?_) hn)
      have hkey : p.1 / 65536 = nextGraph (graphKey id) := beq_iff_eq.mp (List.mem_filter.mp hp).2
      split
      · exact follows_updNode (ne_of_nextGraph hkey) _
      · exact .refl u

theorem follows_checkGraph (hn : s.node? id = some n) : Follows id s (s.checkGraph (graphKey id)) := by
  unfold State.checkGraph
  split
  · exact .refl s
  · dsimp only
    split
    · exact .refl s
    · exact ((follows_setGraph s (graphKey id) _).trans (follows_postVf _ _ _ _)).andThen hn follows_freeSerial

theorem follows_settleGraph {status : Byte} (hn : s.node? id = some n) (hend : n.state = .ended status) (hbad : status ≠ 0)
    (m : Node) : Follows id s (s.settleGraph id m status) := by
  unfold State.settleGraph
  dsimp only
  split
  · exact .refl s
  · rw [if_neg hbad]
    exact ((follows_setGraph s (graphKey id) _).andThen hn fun hset =>
      follows_dropFrom (graphKey id) (2 ^ 22) m.succs hset hend).andThen hn follows_checkGraph

theorem follows_wakeAll (hn : s.node? id = some n) (hp : n.state ≠ .parked) : Follows id s s.wakeAll := by
  refine follows_foldl (n := n) _ (fun u hu p _ => ?_) hn
  unfold State.wakeNode
  split
  · exact .refl u
  · next m hm =>
    split
    · exact .refl u
    · next hparked =>
      have hm' : m.state = .parked := not_not.mp (mt bne_iff_ne.mpr hparked)
      exact follows_setNode (ne_of_state hu hm (hm' ▸ hp.symm)) _

/-! ### The end of a node (R296, R423) -/

/-- With nothing to rewind and nothing to retire, both runs change nothing that follows a node's end. -/
theorem follows_runs (hw : s.hearth.rewinds = []) (hr : s.hearth.retires = []) : Follows id s s.runRewinds.runRetires := by
  have hrewinds : s.runRewinds = s := by
    rw [State.runRewinds, hw, List.foldl_nil, ← hw]
  have hretires : s.runRetires = s.endReplace := by
    rw [State.runRetires, hr, List.foldl_nil, List.foldl_nil, ← hr]
  rw [hrewinds, hretires]
  unfold State.endReplace
  split
  · split
    · exact .refl s
    · exact ⟨rfl, rfl, rfl, rfl, ringsGrow_of_vfs rfl⟩
  · exact .refl s

theorem finishNode_spec (hn : s.node? id = some n) (hdesc : descType n.desc ≠ 2) (hw : s.hearth.rewinds = [])
    (hr : s.hearth.retires = []) {status : Byte} (hbad : status ≠ 0) (word : Nat) :
    (s.finishNode id status word).node? id = some { n with state := .ended status, saved := [], waited := [] }
    ∧ (s.finishNode id status word).cores = s.cores ∧ RingsGrow s (s.finishNode id status word) := by
  obtain ⟨u, hu⟩ : ∃ u : State, u = { s.setNode id { n with state := .ended status, saved := [], waited := [] } with
      peers := s.peers.filter fun r => !(r.parked.any fun (p : Dword × Nat) => p.1 == id) } := ⟨_, rfl⟩
  have hun : u.node? id = some { n with state := .ended status, saved := [], waited := [] } := by
    rw [hu]
    exact node?_setNode_self _ _ _
  have hsettled := follows_settleGraph hun rfl hbad n
  have ⟨_, _, hrewinds, hretires, _⟩ := hsettled
  have hruns := hsettled.trans (follows_runs (by rw [hrewinds, hu]; exact hw) (by rw [hretires, hu]; exact hr))
  obtain ⟨hcores, hnode, -, -, hgrow⟩ := hruns.andThen hun fun h => follows_wakeAll h NodeState.noConfusion
  have hfinish : s.finishNode id status word
      = ((u.settleGraph id n status).runRewinds.runRetires.wakeAll).dropDeficits (nodeVf id) := by
    rw [State.finishNode, hn, hu]
    simp only [if_neg hdesc]
    rfl
  rw [hfinish]
  refine ⟨hnode.trans hun, hcores.trans (by rw [hu]; rfl), ?_⟩
  refine RingsGrow.trans (u := u) (ringsGrow_of_vfs (by rw [hu]; rfl)) (hgrow.trans ?_)
  exact ringsGrow_updVf _ _ fun _ => rfl

/-! ### A node is stopped (R423) -/

/-- Only nodes and the requests to peers change. -/
def OnlyNodes (s t : State) : Prop := ∃ nodes peers, t = { s with hearth := { s.hearth with nodes := nodes }, peers := peers }

theorem OnlyNodes.trans (h : OnlyNodes s u) (k : OnlyNodes u t) : OnlyNodes s t := by
  obtain ⟨_, _, rfl⟩ := h
  obtain ⟨_, _, rfl⟩ := k
  exact ⟨_, _, rfl⟩

theorem onlyNodes_setNode (s : State) (id : Dword) (n : Node) : OnlyNodes s (s.setNode id n) := ⟨_, _, rfl⟩

theorem onlyNodes_peers (s : State) (l : List PeerReq) : OnlyNodes s { s with peers := l } := ⟨_, _, rfl⟩

theorem dropMembers_of_nil (hn : s.node? id = some n) (h : n.members = []) :
    s.dropMembers id = s.setNode id { n with members := [] } := by
  simp only [State.dropMembers, hn, h, List.foldl_nil]

theorem discardLog_of_nil (hn : s.node? id = some n) (h : n.alog = []) : s.discardLog id = s.setNode id { n with alog := [] } := by
  simp only [State.discardLog, hn, h, List.foldl_nil]

/-- A node without members and log has none to give up. -/
theorem discarded_spec (hn : s.node? id = some n) (hmembers : n.members = []) (hlog : n.alog = []) :
    OnlyNodes s ((s.dropMembers id).discardLog id)
    ∧ ∃ m, ((s.dropMembers id).discardLog id).node? id = some m ∧ m.desc = n.desc ∧ m.cores = n.cores := by
  rw [dropMembers_of_nil hn hmembers,
    discardLog_of_nil (n := { n with members := [] }) (node?_setNode_self _ _ _) hlog]
  exact ⟨(onlyNodes_setNode s id _).trans (onlyNodes_setNode _ id _), _, node?_setNode_self _ _ _, rfl, rfl⟩

/-- A node without log, members and KV tails is stopped: beside leaving its cores, that changes nodes and requests to peers alone. -/
theorem stopNode_onlyNodes (hn : s.node? id = some n) (hlog : n.alog = []) (hmembers : n.members = [])
    (hkv : ∀ p, n.check = some p → p.kv = []) (next : NodeState) :
    OnlyNodes (State.vacated { s with mem := s.mem.drain (ofCores n.cores) } id n.cores) (s.stopNode id next)
    ∧ ∃ m, (s.stopNode id next).node? id = some m ∧ m.desc = n.desc ∧ m.cores = [] := by
  obtain ⟨u, hu⟩ : ∃ u : State, u = { s with mem := s.mem.drain (ofCores n.cores) } := ⟨_, rfl⟩
  have hun : u.node? id = some n := by
    rw [hu]
    exact hn
  obtain ⟨frz, novr, hleave⟩ := leave_eq hun n.cores next
  obtain ⟨hdiscarded, m, hm, hdesc, hcores⟩ := discarded_spec (s := u.leave id n.cores next) (n := n.gone next u.tb frz novr)
    (by rw [hleave]; exact node?_setNode_self _ _ _) hmembers hlog
  have hnokv : ((n.check.map fun c => c.kv).getD []) = [] := by
    cases hcheck : n.check with
    | none => rfl
    | some p => exact hkv p hcheck
  obtain ⟨w, hw⟩ : ∃ w, w = ((u.leave id n.cores next).dropMembers id).discardLog id := ⟨_, rfl⟩
  rw [← hw] at hdiscarded hm
  have hwn : ({ w with peers := quitPeers id w.peers } : State).node? id = some m := hm
  have hstop : s.stopNode id next
      = State.setNode { w with peers := quitPeers id w.peers } id { m with saved := [], wakes := [], waited := [] } := by
    rw [State.stopNode, hn]
    simp only [← hu, ← hw, hnokv, updNode_of_node? hwn, List.map_nil, List.append_nil]
  rw [hstop, ← hu]
  refine ⟨?_, _, node?_setNode_self _ _ _, hdesc, hcores⟩
  have hleft : OnlyNodes (u.vacated id n.cores) (u.leave id n.cores next) := by
    rw [hleave]
    exact onlyNodes_setNode _ id _
  exact ((hleft.trans hdiscarded).trans (onlyNodes_peers w _)).trans (onlyNodes_setNode _ id _)

theorem stopNode_spec (hn : s.node? id = some n) (hnd : n.cores.Nodup) (hlog : n.alog = []) (hmembers : n.members = [])
    (hkv : ∀ p, n.check = some p → p.kv = []) (next : NodeState) :
    (∃ m, (s.stopNode id next).node? id = some m ∧ m.desc = n.desc ∧ m.cores = [])
    ∧ (∀ k, (s.stopNode id next).core k = if k ∈ n.cores then (s.core k).vacate else s.core k)
    ∧ (s.stopNode id next).hearth.rewinds = s.hearth.rewinds ∧ (s.stopNode id next).hearth.retires = s.hearth.retires
    ∧ RingsGrow s (s.stopNode id next) := by
  obtain ⟨⟨nodes, peers, hstop⟩, hnode⟩ := stopNode_onlyNodes hn hlog hmembers hkv next
  obtain ⟨u, hu⟩ : ∃ u : State, u = { s with mem := s.mem.drain (ofCores n.cores) } := ⟨_, rfl⟩
  rw [← hu] at hstop
  refine ⟨hnode, ?_⟩
  rw [hstop]
  refine ⟨fun k => ?_, ?_, ?_, ?_⟩
  · have hcore := core_vacated u id hnd k
    rw [hu] at hcore ⊢
    exact hcore
  · show (u.vacated id n.cores).hearth.rewinds = _
    rw [vacated_frame, hu]
  · show (u.vacated id n.cores).hearth.retires = _
    rw [vacated_frame, hu]
  · have hcharge : RingsGrow s (u.charge id) := RingsGrow.trans (ringsGrow_of_vfs (by rw [hu])) (ringsGrow_charge u id)
    exact hcharge.trans (ringsGrow_of_vfs (by rw [vacated_frame]))

end
end Sys2Proof.Machine
end

section
/-! PROOFS. The hang detector (R427), and the statement on the events of nodes. -/

namespace Sys2Proof.Machine
open Sys2Proof

section
variable {s : State} {id : Dword} {n : Node}

/-! ### The hang detector (R427) -/

/-- A node of a graph whose writes to peers are all acknowledged is aborted: its record is posted, its cores are free, and it ends. -/
theorem abortNode_spec (hn : s.node? id = some n) (hnd : n.cores.Nodup) (hdesc : descType n.desc ≠ 2)
    (hkv : ∀ p, n.check = some p → p.kv = []) (hlog : n.alog = []) (hmembers : n.members = []) (hw : s.hearth.rewinds = [])
    (hr : s.hearth.retires = []) (howes : s.owes id n.cores = false) {r : Graph} (hgraph : s.graph? (graphKey id) = some r)
    {status : Nat} (hbad : BitVec.ofNat 8 status ≠ 0) (cause flags index : Nat) :
    (∃ m, (s.abortNode id status cause flags index).node? id = some m ∧ m.state = .ended (BitVec.ofNat 8 status) ∧ m.cores = [])
    ∧ (∃ more, (s.abortNode id status cause flags index).heldOn (nodeVf id) r.ring
        = s.heldOn (nodeVf id) r.ring ++ record id status cause flags index (s.stepWord id) :: more)
    ∧ ∀ k, (s.abortNode id status cause flags index).core k = if k ∈ n.cores then (s.core k).vacate else s.core k := by
  obtain ⟨last, hlast⟩ : ∃ last, last = record id status cause flags index (s.stepWord id) := ⟨_, rfl⟩
  have hring : s.ringOfNode id = r.ring := by rw [State.ringOfNode, hgraph]
  have habort : s.abortNode id status cause flags index
      = ((s.postVf (nodeVf id) r.ring last).stopNode id .waiting).finishNode id (BitVec.ofNat 8 status) (recordSteps last) := by
    rw [State.abortNode, State.stopWith, hn, State.nodeRecord, ← hlast, hring]
    simp only [howes, Bool.false_eq_true, if_false]
  obtain ⟨⟨m, hm, hmdesc, hmcores⟩, hcore, hwstop, hrstop, hgrow⟩ :=
    stopNode_spec (s := s.postVf (nodeVf id) r.ring last) hn hnd hlog hmembers hkv .waiting
  obtain ⟨hended, hcores, hmore⟩ := finishNode_spec hm (hmdesc ▸ hdesc) (hwstop.trans hw) (hrstop.trans hr) hbad (recordSteps last)
  rw [habort]
  refine ⟨⟨_, hended, rfl, hmcores⟩, ?_, fun k => ?_⟩
  · obtain ⟨more, hheld⟩ := hgrow.trans hmore (nodeVf id) r.ring
    exact ⟨more, by rw [hheld, heldOn_postVf_self, hlast, List.append_assoc, List.singleton_append]⟩
  · rw [State.core, hcores]
    exact hcore k

/-- A maximum along a list, with an addend, is bounded where each of its terms is. -/
theorem foldl_max_add_le_iff {α : Type} (f : α → Nat) (k x : Nat) (l : List α) (b : Nat) :
    l.foldl (fun m a => max m (f a)) b + k ≤ x ↔ b + k ≤ x ∧ ∀ a ∈ l, f a + k ≤ x := by
  induction l generalizing b with
  | nil => simp
  | cons a l ih =>
    rw [List.foldl_cons, ih, List.forall_mem_cons, ← and_assoc]
    refine and_congr_left fun _ => ?_
    omega

/-- A node hangs where no core of it has advanced within the hang time of its first. -/
theorem hung_iff (hne : n.cores ≠ []) : s.hung n = true ↔
    ∀ c ∈ n.cores, (s.core c).advanced + ((n.cores.head?.map fun c => (s.core c).csr.dhang.toNat).getD 0) * usCycles ≤ s.tb := by
  rw [State.hung, decide_eq_true_eq, foldl_max_add_le_iff]
  refine and_iff_right_of_imp fun h => ?_
  obtain ⟨c, hc⟩ := List.exists_mem_of_ne_nil _ hne
  exact le_trans (Nat.add_le_add_right (Nat.zero_le _) _) (h c hc)

/-- Without hang buffers no record of a core is written. -/
theorem writeHangs_of_off {cs : List Nat} (hoff : ∀ c ∈ cs, (s.core c).csr.dhbase = 0) :
    cs.foldl (fun s c => s.writeHang id c) s = s := by
  induction cs with
  | nil => rfl
  | cons c cs ih =>
    have hfirst : s.writeHang id c = s := if_pos (hoff c List.mem_cons_self)
    rw [List.foldl_cons, hfirst]
    exact ih fun k hk => hoff k (List.mem_cons_of_mem c hk)

theorem hangDetect_of_not_running (hn : s.node? id = some n) (h : n.state ≠ .running) : exec (.hangDetect id) s = .next s := by
  show onRunning s id _ = _
  simp only [onRunning, hn, if_neg h]

theorem hangDetect_of_not_hung (hn : s.node? id = some n) (h : s.hung n = false) : exec (.hangDetect id) s = .next s := by
  show onRunning s id _ = _
  simp only [onRunning, hn, h, Bool.false_eq_true, if_false, ite_self]

theorem hangDetect_of_hung (hn : s.node? id = some n) (hrun : n.state = .running) (h : s.hung n = true)
    (hoff : ∀ c ∈ n.cores, (s.core c).csr.dhbase = 0) : exec (.hangDetect id) s
      = .next (s.abortNode id 4 0 0 (n.cores.map fun c => ((s.orphans c).filter fun b => b).length).sum) := by
  show onRunning s id _ = _
  simp only [onRunning, hn, if_pos hrun, h, if_true, writeHangs_of_off hoff]

end

/-- Settles O46: each event's condition is the model's, the pre-emptions are `preempt_spec`, and the hang detector is `abortNode_spec`. -/
theorem nodeEvents : Obligations.NodeEvents := by
  unfold Obligations.NodeEvents
  intro s id n hn none_ again halted us bop late preempts rival running due waited frozen long hnd hidle
  have hpreempts (i : Instr) (hrun : running) (hi : exec i s = .next (s.preempt id)) : preempts i := by
    obtain ⟨⟨m, hm, hstate, hcores, hsince, hpend, hsaved⟩, hcore⟩ := preempt_spec hn hrun hnd hidle
    refine ⟨_, m, hi, hm, hstate, hcores, hsince, hpend, ?_, fun c hc => ?_, ?_, fun c hc => ?_⟩
    · rw [hsaved, List.map_map]
      exact List.map_id _
    · rw [hcore, if_pos hc]
      exact ⟨rfl, rfl, rfl, rfl⟩
    · rw [hsaved, List.forall_mem_map]
      exact fun c hc => ⟨rfl, rfl, rfl, rfl, rfl, rfl, rfl, rfl⟩
    · rw [hcore, if_neg hc]
  have hforced := onRunning_preempt hn (b := s.preemptDue id) preemptDue_iff
  have hwaited := onRunning_preempt hn (b := s.waitDue id) waitDue_iff
  have hfrozen := onRunning_preempt hn (b := fun m => s.frozenLong m && s.rival id m)
    ((Bool.and_eq_true_iff).trans (and_congr_left' frozenLong_iff))
  refine ⟨fun hrun h => hpreempts _ hrun (hforced.1 hrun h), hforced.2,
    fun hrun h hr => hpreempts _ hrun (hwaited.1 hrun ⟨h, hr⟩), hwaited.2,
    fun hrun h hr => hpreempts _ hrun (hfrozen.1 hrun ⟨h, hr⟩), hfrozen.2,
    fun h => ?_, fun h => ?_, fun hp hall => ?_, fun hp hsome => ?_, fun hp => ?_, hangDetect_of_not_running hn, ?_, ?_, ?_⟩
  · rw [exec_operatorOverrun, countOverrun_of_overruns hn (overruns_iff.mpr h)]
    exact ⟨_, rfl, node?_setNode_self _ _ _, fun c => core_updEach hnd (fun _ => Core.counted 1) s c⟩
  · show exec (.operatorOverrun id) s = _
    rw [exec_operatorOverrun, countOverrun_of_not hn (Bool.eq_false_iff.mpr fun ho => h (overruns_iff.mp ho))]
  · rw [exec_parkTimeWake, wakeNode_of_all hn hp hall]
    exact ⟨_, rfl, rfl, node?_setNode_self _ _ _⟩
  · rw [exec_parkTimeWake, wakeNode_of_some hn hp hsome]
    exact ⟨_, rfl, rfl, node?_setNode_self _ _ _⟩
  · show exec (.parkTimeWake id) s = _
    rw [exec_parkTimeWake, wakeNode_of_not hn hp]
  · by_cases hwindow : s.hearth.window + 10000 * usCycles ≤ s.tb
    · exact ⟨_, if_pos hwindow, fun _ => rfl, fun h => absurd hwindow (Nat.not_le.mpr h)⟩
    · exact ⟨_, if_neg hwindow, fun h => absurd h hwindow, fun _ => rfl⟩
  · intro hrun hall hne hoff hdesc hkv hlog hmembers hw hr howes r hgraph _ marks ring
    obtain ⟨⟨m, hm, hstate, hcores⟩, hring, hcore⟩ :=
      abortNode_spec hn hnd hdesc hkv hlog hmembers hw hr howes hgraph (status := 4) (by decide) 0 0 marks
    refine ⟨_, m, hangDetect_of_hung hn hrun ((hung_iff hne).mpr hall) hoff, hm, hstate, hcores, hring, fun c hc => ?_⟩
    rw [hcore, if_pos hc]
    exact ⟨rfl, rfl, rfl⟩
  · rintro ⟨c, hc, hlate⟩
    refine hangDetect_of_not_hung hn (Bool.eq_false_iff.mpr fun hh => ?_)
    exact absurd ((hung_iff (List.ne_nil_of_mem hc)).mp hh c hc) (Nat.not_le.mpr hlate)

end Sys2Proof.Machine
end
